-- ==== Sys2Proof/Syntax.lean ====
section
/-! DEFINITION. The commands of the block: one constructor for each row of the table of operations and events,
with the row's operands. Operands say what a party outside the device sends, what the surroundings do, or
which waiting piece of work of the device takes its next step. -/
namespace Sys2Proof

/-- Fields of a format A instruction (R123). -/
structure InsA where
  d : Nat
  a : Nat
  b : Nat
  c : Nat := 0
  fn : Nat := 0
  deriving DecidableEq, Repr

/-- Fields of a format I instruction; `imm` is the signed immediate (R123). -/
structure InsI where
  d : Nat
  a : Nat
  imm : Int
  deriving DecidableEq, Repr

/-- Fields of a format V instruction (R123). -/
structure InsV where
  d : Nat
  a : Nat
  b : Nat
  c : Nat := 0
  men : Bool := false
  msk : Nat := 0
  h : Bool := false
  vfn : Nat := 0
  deriving DecidableEq, Repr

/-- An Ethernet frame as a port finds it (R431): addresses, VLAN (0: untagged), priority, size with its FCS, the codewords of the
port's FEC that were corrected and that were not on its way (R429), and the bytes that follow the addresses and tag,
EtherType first; for an echo request, the payload to be returned. -/
structure EthFrame where
  dst : Nat
  src : Nat
  vlan : Nat := 0
  prio : Nat := 0
  fcsOk : Bool := true
  fixed : Nat := 0
  lost : Nat := 0
  size : Nat
  bytes : List Byte := []
  deriving DecidableEq, Repr

/-- A UDP datagram at a host port: its frame, addresses (IPv4 as ::ffff:a.b.c.d) and UDP ports, and whether it is a fragment
(R433). -/
structure Net where
  eport : Nat
  frame : EthFrame
  srcIp : Nat
  dstIp : Nat
  sport : Nat
  dport : Nat
  frag : Bool := false
  deriving DecidableEq, Repr

/-- What a YDP request has beside the operands of its command (R445, R446, R449): its datagram, the header's fields and the
message authentication code. `typ` is a TYPE that no message has, where the header names one, and `raw` a body
that does not have its type's form, where it is sent in place of the operands. -/
structure YHdr where
  net : Net
  session : Nat
  seq : Nat
  mac : Nat := 0
  magic : Nat := 0x4459
  version : Nat := 1
  flags : Nat := 0
  status : Nat := 0
  typ : Option Nat := none
  raw : Option (List Byte) := none
  deriving DecidableEq, Repr

/-- The host port, the peer's address and its UDP port. -/
def YHdr.eport (h : YHdr) : Nat := h.net.eport
def YHdr.ip (h : YHdr) : Nat := h.net.srcIp
def YHdr.uport (h : YHdr) : Nat := h.net.sport

/-- The header's own fields are those of a request (R445). -/
def YHdr.plain (h : YHdr) : Bool := decide (h.magic = 0x4459 ∧ h.version = 1 ∧ h.flags = 0 ∧ h.status = 0 ∧ h.typ = none)

/-- The body has the length of its type and zeros in its reserved bytes (R446, R447). -/
def yBodyOk (typ : Nat) (b : List Byte) : Bool :=
  let zero := fun (k n : Nat) => ((b.drop k).take n).all (· = 0)
  match typ with
  | 1 =>
    let n := ((b.drop 1).headD 0).toNat
    decide (1 ≤ n ∧ n ≤ 32 ∧ b.length = 68 + n) && zero 2 2
  | 2 => decide (b.length = 32)
  | 3 => decide (b.length = 4) && zero 3 1
  | 4 => decide (4 ≤ b.length ∧ b.length ≤ 1184)
  | 5 => decide (b.length = 8) && zero 3 1
  | 6 => decide (b.length = 8) && zero 3 1
  | 7 => decide (5 ≤ b.length ∧ b.length ≤ 1028)
  | 8 => decide (b.length = 32)
  | 9 => decide (b = [])
  | 10 => decide (b = [])
  | _ => false

/-- Who asks: a YDP peer, or a steward 0 to 3. The flag says that the steward acts for the session that holds
the owner lock, or loads the store at start-up (R463). -/
inductive Src where
  | ydp (h : YHdr)
  | steward (n : Nat) (forOwner : Bool)
  deriving DecidableEq, Repr

/-- A reduction packet (R250). -/
structure RedPacket where
  bale : Nat
  first : Nat
  level : Nat
  node : Nat
  phase : Nat
  abort : Bool := false
  scale : Int
  step : Nat
  src : Nat
  elems : List Nat
  /-- Blocks that arrived marked uncorrectable (R407). -/
  bad : List Nat := []
  deriving DecidableEq, Repr

/-- A bit that is disturbed in an adder of a reduction unit (R241): the stage, 0 for none, and the tree level of the work it is
in. -/
structure Upset where
  stage : Nat := 0
  level : Nat := 0
  deriving DecidableEq, Repr

/-- A census record (R258), and whether blocks of it arrived marked uncorrectable (R407). -/
structure CensusRec where
  words : List Nat
  ue : Bool := false
  deriving DecidableEq, Repr

/-- When a port sends a frame (R411): the port, how long after the tick, ps, and what disturbs the codewords of its blocks. -/
structure FrameTime where
  port : Nat
  txPs : Nat := 0
  noise : List Nat := []
  deriving DecidableEq, Repr

/-- Stamps of a 1588 exchange (R444): when a port received a Sync, and sent the delay request that followed, ns. -/
structure PtpTimes where
  rx : Nat
  tx : Nat
  deriving DecidableEq, Repr

/-- What a PFC frame says (R442): the priorities named, and the quanta of the eight. -/
structure PfcPause where
  prios : Nat
  quanta : List Nat
  deriving DecidableEq, Repr

/-- The link of a host port that comes up (R430), with the copper modes that its partner advertises. -/
structure LinkUp where
  port : Nat
  adv : List Nat := []
  deriving DecidableEq, Repr

/-- A beacon (R302, R414): sender's tick and count, grant, beat period, master and its sequence number, depth, port,
and the IEEE 1588 stamp it may carry. -/
structure Beacon where
  tick : Nat := 0
  count : Nat := 0
  grant : Nat := 0
  beatNs : Nat
  master : Nat
  seq : Nat
  depth : Nat
  coords : Nat := 0
  port : Nat := 0
  ptpValid : Bool := false
  ptpEpoch : Nat := 0
  ptpSec : Nat := 0
  ptpNs : Nat := 0
  /-- The two-way exchange: fraction of the tick, the stamps of the partner's last beacon, and beacon numbers. -/
  txPs : Nat := 0
  rxTick : Nat := 0
  rxPs : Nat := 0
  id : Nat := 0
  rxId : Nat := 0
  deriving DecidableEq, Repr

/-- A control message (R415): originator, message number, ARG0, and ARG1 or E0. -/
structure Ctl where
  origin : Nat
  seq : Nat
  x : Nat := 0
  y : Nat := 0
  deriving DecidableEq, Repr

/-- A RoCEv2 packet (R435, R436): its datagram, destination and source queue pair, PSN, opcode and the headers that the opcode
has. `cnpUs` is the time since the last CNP of the queue pair was sent or, in a CNP, taken (R443). -/
structure RocePkt where
  net : Net
  qp : Nat
  srcQp : Nat
  psn : Nat := 0
  cnpUs : Nat := 0
  opcode : Nat := 0
  rkey : Nat := 0
  va : Nat := 0
  len : Nat := 0
  ackReq : Bool := true
  ce : Bool := false
  payload : List Byte := []
  deriving DecidableEq, Repr

def RocePkt.eport (p : RocePkt) : Nat := p.net.eport
def RocePkt.srcIp (p : RocePkt) : Nat := p.net.srcIp
def RocePkt.size (p : RocePkt) : Nat := p.net.frame.size

/-- The commands, one constructor for each row of the table, in the table's order, those without operands last.
Assumption 2 (DESIGN CHOICE). -/
inductive Instr where
  | matmul (op : Nat)
  | matmulPartial (op : Nat)
  | partialSum (op : Nat)
  | permute (op : Nat)
  | convert (op : Nat)
  | runKernel (op : Nat)
  | conv (op : Nat)
  | pool (op : Nat)
  | attn (op : Nat)
  | attnPartial (op : Nat)
  | attnMerge (op : Nat)
  | cribAppend (op : Nat)
  | cribShare (op : Nat)
  | cribFree (op : Nat)
  | copy (op : Nat) (flit noise : Nat)
  | fill (op : Nat)
  | groupStep (op : Nat)
  | groupStepLocal (op : Nat)
  | updateElementApply (op e : Nat)
  | baleReduce (op : Nat)
  | baleStart (op : Nat) (flip : Upset)
  | reductionPacketReceive (port : Nat) (p : RedPacket) (flip : Upset)
  | threshRun (op : Nat)
  | mergeLoad (op : Nat)
  | sampleDescriptorTake (die : Nat)
  | sampleDecodeComplete (die k : Nat)
  | slotEmit (die : Nat)
  | opWaitGrant (op : Nat)
  | operationComplete (op : Nat)
  | opAbandoned (op : Nat)
  | add (core ctx : Nat) (i : InsA)
  | sub (core ctx : Nat) (i : InsA)
  | mul (core ctx : Nat) (i : InsA)
  | divu (core ctx : Nat) (i : InsA)
  | and (core ctx : Nat) (i : InsA)
  | or (core ctx : Nat) (i : InsA)
  | xor (core ctx : Nat) (i : InsA)
  | shl (core ctx : Nat) (i : InsA)
  | shr (core ctx : Nat) (i : InsA)
  | sar (core ctx : Nat) (i : InsA)
  | slt (core ctx : Nat) (i : InsA)
  | sltu (core ctx : Nat) (i : InsA)
  | addi (core ctx : Nat) (i : InsI)
  | insi (core ctx : Nat) (i : InsI)
  | fadd (core ctx : Nat) (i : InsA)
  | fmul (core ctx : Nat) (i : InsA)
  | ffma (core ctx : Nat) (i : InsA)
  | fcmp (core ctx : Nat) (i : InsA)
  | fcvt (core ctx : Nat) (i : InsA)
  | ld8 (core ctx : Nat) (i : InsI) (noise : Nat)
  | ld16 (core ctx : Nat) (i : InsI) (noise : Nat)
  | ld32 (core ctx : Nat) (i : InsI) (noise : Nat)
  | ld64 (core ctx : Nat) (i : InsI) (noise : Nat)
  | st8 (core ctx : Nat) (i : InsI)
  | st16 (core ctx : Nat) (i : InsI)
  | st32 (core ctx : Nat) (i : InsI)
  | st64 (core ctx : Nat) (i : InsI)
  | beq (core ctx : Nat) (i : InsI)
  | bne (core ctx : Nat) (i : InsI)
  | blt (core ctx : Nat) (i : InsI)
  | bge (core ctx : Nat) (i : InsI)
  | jal (core ctx : Nat) (i : InsI)
  | jr (core ctx : Nat) (i : InsI)
  | semSignal (core ctx : Nat) (i : InsA)
  | semWait (core ctx : Nat) (i : InsA)
  | semTry (core ctx : Nat) (i : InsA)
  | semLock (core ctx : Nat) (i : InsA)
  | semUnlock (core ctx : Nat) (i : InsA)
  | semWaitReissue (n : Nat)
  | waitb (core ctx : Nat) (i : InsA)
  | waitbResume (core ctx : Nat)
  | fence (core ctx : Nat) (i : InsA)
  | dma (core ctx : Nat) (i : InsA)
  | spawn (core ctx : Nat) (i : InsA)
  | halt (core ctx : Nat) (i : InsA)
  | rdst (core ctx : Nat) (i : InsA)
  | setrc (core ctx : Nat) (i : InsA)
  | setvl (core ctx : Nat) (i : InsA)
  | varith (core ctx : Nat) (i : InsV)
  | vsfn (core ctx : Nat) (i : InsV)
  | vcmp (core ctx : Nat) (i : InsV)
  | vsel (core ctx : Nat) (i : InsV)
  | vld (core ctx : Nat) (i : InsV)
  | vst (core ctx : Nat) (i : InsV)
  | vgather (core ctx : Nat) (i : InsV)
  | vscatter (core ctx : Nat) (i : InsV)
  | vred (core ctx : Nat) (i : InsV)
  | mop (core ctx : Nat) (i : InsV)
  | producerDoorbell (ring value : Nat)
  | consumerDoorbell (ring value : Nat)
  | commandDescriptorTake (ring : Nat)
  | queueCfgWrite (src : Src) (member value : Nat)
  | hostSemSignal (src : Src)
  | hostSemTry (src : Src)
  | hostSemLock (src : Src)
  | hostSemUnlock (src : Src)
  | semActSet (src : Src)
  | semRecoveryClear (src : Src)
  | furrowStart (table epoch entry : Nat)
  | furrowSignal (table epoch entry : Nat)
  | furrowMark (table epoch entry : Nat)
  | portSlot (table epoch entry : Nat)
  | watchPoint (table epoch entry : Nat)
  | reservationPoint (table epoch entry : Nat)
  | overrun (table epoch entry : Nat)
  | furrowLoad (src : Src)
  | furrowSwapCancel (src : Src)
  | bankSwap (table : Nat)
  | beaconReceive (port : Nat) (b : Beacon) (rxPs lmaxNs : Nat)
  | lockHopsReport (origin hf hi : Nat)
  | hold (port : Nat) (m : Ctl)
  | release (port : Nat) (m : Ctl)
  | resume (port : Nat) (m : Ctl)
  | schedStart (src : Src) (e0 : Nat)
  | start (port : Nat) (m : Ctl)
  | schedStop (src : Src)
  | stopRequest (port : Nat) (m : Ctl)
  | stop (port : Nat) (m : Ctl)
  | epochBoundary (sec ns : Nat)
  | censusRecordReceive (src : Nat) (level : Nat) (r : CensusRec)
  | ptpEventMessage (port : Nat) (f : EthFrame) (t : PtpTimes) (ppb : Int)
  | linkFrameReceive (port : Nat) (lanes : List Nat)
  | linkFrameTransmit (f : FrameTime)
  | sendDataReceive (port src dst dsem : Nat) (en : Bool) (bytes : List Byte) (bad : List Nat)
  | portFecLock (port : Nat)
  | portCheck (port : Nat) (partner : Nat) (beatNs : Nat) (exts : Nat) (lenDm rttNs : Nat)
  | portTrainTimeout (port : Nat)
  | portFecLoss (port : Nat)
  | portFecRateWindow (port : Nat)
  | laserLow (port : Nat) (uw : Nat)
  | portRetrain (src : Src) (port : Nat)
  | ethFrameReceive (port : Nat) (f : EthFrame)
  | arpRequest (port : Nat) (f : EthFrame) (target : Nat) (senderIp : Nat)
  | neighbourSolicitation (port : Nat) (f : EthFrame) (target : Nat) (senderIp : Nat)
  | echoRequest (port : Nat) (f : EthFrame) (target : Nat) (senderIp : Nat)
  | roceSend (p : RocePkt)
  | rdmaWrite (p : RocePkt)
  | rdmaReadRequest (p : RocePkt)
  | cnp (p : RocePkt) (us : Nat)
  | roceInvalidOpcode (p : RocePkt)
  | roceRateIncrease (qp : Nat)
  | pfcFrameReceive (port : Nat) (f : EthFrame) (x : PfcPause)
  | pfcXoffRepeat (port : Nat)
  | pfcStorm (port prio : Nat)
  | ethRestart (src : Src) (port : Nat)
  | hello (h : YHdr) (body : List Byte)
  | confirm (h : YHdr) (body : List Byte)
  | handshakeTimeout (slot : Nat)
  | read (src : Src) (idx sub : Nat)
  | write (src : Src) (idx sub t : Nat) (value : List Byte)
  | segRead (src : Src) (idx sub offset : Nat)
  | segWriteStart (h : YHdr) (idx sub total : Nat)
  | segWriteData (h : YHdr) (offset : Nat) (data : List Byte)
  | segWriteEnd (h : YHdr) (digest : List Byte)
  | close (h : YHdr)
  | ping (h : YHdr)
  | sessionExpiry (slot : Nat)
  | sessionSelClose (src : Src)
  | ownerLockTake (src : Src)
  | ownerLockRelease (src : Src)
  | store (src : Src)
  | storeComplete (flashOk sigOk : Bool)
  | restore (src : Src)
  | defaults (src : Src)
  | numericFlagsClear (src : Src) (mask : Nat)
  | coreFlagsClear (src : Src) (core mask : Nat)
  | updateFlagsClear (src : Src) (mask : Nat)
  | reduceFlagsClear (src : Src) (mask : Nat)
  | threshFlagsClear (src : Src) (mask : Nat)
  | supplyWarnClear (src : Src) (mask : Nat)
  | pllLossClear (src : Src) (mask : Nat)
  | attnEmptyFlagClear (src : Src)
  | errClearCounts (src : Src)
  | errClearFaultMap (src : Src)
  | winnowProbe (src : Src) (member value : Nat)
  | shufProbe (src : Src) (value : Nat)
  | shufSamplesWrite (src : Src) (value : Nat)
  | cribPoolInit (src : Src)
  | cribPoolRelease (src : Src)
  | matrixSelftestRun (src : Src)
  | matrixSelftestComplete (failing : List Nat)
  | reduceResidueTest (src : Src)
  | residueTestComplete (missed : Nat)
  | coreExclude (src : Src) (core value : Nat)
  | attestNonce (h : YHdr) (digest : List Byte)
  | attestReportBuilt (slot : Nat)
  | fwUpdateImage (h : YHdr) (digest : List Byte)
  | fwStageComplete (flashOk : Bool)
  | fwActivate (src : Src) (kind : Nat)
  | fwSvnAdvance (src : Src)
  | fwSelfConfirm (kind : Nat)
  | fwTrialExpired (kind : Nat)
  | dieReset (die : Nat)
  | coreReset (core : Nat)
  | portReset (port : Nat)
  | resetN (lowUs : Nat)
  | bootStageComplete (ok : Bool) (detail : Nat)
  | stewardWatchdog (n : Nat)
  | p0Request (src : Src)
  | p1Request (src : Src)
  | fallowRequest (src : Src)
  | fallowExitStep (ok : Bool) (ms : Nat)
  | supplyWarning (rail mv : Nat)
  | supplyReset (rail mv : Nat)
  | powerOverLimit (mw : Nat)
  | leaveCorrectionUpdate (pm meanHeld : Nat)
  | thermalReading (temps : List Int) (powerMw : Nat) (rails : List Nat)
  | thermtrip (die : Nat)
  | clkRampStep (die : Nat)
  | clkCoreSrc (src : Src) (die value : Nat)
  | pllReferenceLoss (pll : Nat) (refclk : Bool)
  | pllRelock (pll : Nat)
  | clockLossStop (pll : Nat)
  | memTempRead (package : Nat) (temp : Int)
  | refresh (subch bank : Nat)
  | memScrubRead (subch : Nat) (upset0 upset1 : Nat) (late : Bool)
  | bridgeFlitReceive (bridge dir : Nat) (noise : List Nat) (replayed : List (List Nat))
  | arbC3Window (point flits : Nat)
  | errorRecordReceive (rec : Nat)
  | laserInputPresent (port : Nat) (uw : Nat)
  | portEnable (src : Src) (port value : Nat)
  | ethLinkUp (l : LinkUp)
  | ethLinkDown (port : Nat)
  | pfcPauseExpiry (port prio : Nat)
  | overLimitFreezeEnd (mw : Nat)
  | stewardSemOperation (steward op sem arg : Nat)
  | almanacTick
  | cribReclaim
  | opLeaveGrant
  | reservationRetry
  | furrowLoadComplete
  | beaconSend
  | almanacLost
  | masterResume
  | holdLimit
  | startTick
  | stopComplete
  | stepBoundary
  | ptpSourceLost
  | warm
  | fieldRestart
  | por
  | powerUp
  | p1Exit
  | supplyRecovery
  | fallowEntryStep
  | resetComplete
  deriving DecidableEq, Repr

end Sys2Proof
end

