-- ==== Sys2Proof/Decode.lean ====
section
/-! DEFINITION. The block takes commands, not encoded instructions. The table of operations and events gives no row any
bits, so a word spells no command. -/
namespace Sys2Proof

/-- The command that a word spells by the table's bits: none, since no row has bits. Assumption 1 (DESIGN CHOICE). -/
def decodeTableWord (_nbits _w : Nat) : Option Instr := none

end Sys2Proof
end

