-- ==== Sys2Proof/Machine/Num.lean ====
section
/-! DEFINITION. Number formats, the two numeric modes, rounding and conversion (R43 to R61, R69, R70).
Values are taken apart into sign, integer significand and power of two, computed exactly, and rounded once. -/
namespace Sys2Proof.Machine

/-- A floating-point format (R43): fraction bits, smallest normal exponent, largest exponent. -/
structure Fmt where
  p : Nat
  emin : Int
  emax : Int
  deriving DecidableEq, Repr

def f16 : Fmt := { p := 10, emin := -14, emax := 15 }
def f32 : Fmt := { p := 23, emin := -126, emax := 127 }

/-- An operand or exact result: `fin neg m e` is (−1)^neg × m × 2^e, a zero where m is 0. -/
inductive FV where
  | nan (signalling : Bool)
  | inf (neg : Bool)
  | fin (neg : Bool) (m : Nat) (e : Int)
  deriving DecidableEq, Repr

/-- Sticky flags of R51 as bits of a status word. -/
def flNX : Nat := 1
def flUF : Nat := 2
def flOF : Nat := 4
def flDZ : Nat := 8
def flIV : Nat := 16
def flFZ : Nat := 32
def flSA : Nat := 64

/-- Exponent field width of a format. -/
def Fmt.ew (f : Fmt) : Nat := if f.p = 10 then 5 else 8
/-- Code width of a format. -/
def Fmt.width (f : Fmt) : Nat := f.p + f.ew + 1
/-- Bytes of a format. -/
def Fmt.bytes (f : Fmt) : Nat := f.width / 8
/-- All-ones exponent field. -/
def Fmt.emaxField (f : Fmt) : Nat := 2 ^ f.ew - 1
def Fmt.signBit (f : Fmt) (neg : Bool) : Nat := if neg then 2 ^ (f.p + f.ew) else 0
/-- Canonical NaN of R43. -/
def Fmt.nan (f : Fmt) : Nat := f.emaxField * 2 ^ f.p + 2 ^ (f.p - 1)
def Fmt.inf (f : Fmt) (neg : Bool) : Nat := f.signBit neg + f.emaxField * 2 ^ f.p
def Fmt.zero (f : Fmt) (neg : Bool) : Nat := f.signBit neg

/-- Classify a code as R44 does. -/
def Fmt.decode (f : Fmt) (c : Nat) : FV :=
  let fr := c % 2 ^ f.p
  let ex := (c >>> f.p) % 2 ^ f.ew
  let neg := c.testBit (f.p + f.ew)
  if ex = f.emaxField then
    if fr = 0 then .inf neg else .nan (!fr.testBit (f.p - 1))
  else if ex = 0 then .fin neg fr (f.emin - f.p)
  else .fin neg (2 ^ f.p + fr) ((ex : Int) - 1 + f.emin - f.p)

/-- Whether a code is a subnormal (R44). -/
def Fmt.isSub (f : Fmt) (c : Nat) : Bool := decide ((c >>> f.p) % 2 ^ f.ew = 0) && decide (c % 2 ^ f.p ≠ 0)

def Fmt.isNaN (f : Fmt) (c : Nat) : Bool := decide ((c >>> f.p) % 2 ^ f.ew = f.emaxField) && decide (c % 2 ^ f.p ≠ 0)
def Fmt.isInf (f : Fmt) (c : Nat) : Bool := decide ((c >>> f.p) % 2 ^ f.ew = f.emaxField) && decide (c % 2 ^ f.p = 0)
/-- Whether a code is finite. -/
def Fmt.isFinite (f : Fmt) (c : Nat) : Bool := decide ((c >>> f.p) % 2 ^ f.ew ≠ f.emaxField)

/-- The code of a significand below 2^(p+1) at exponent e, where a significand below 2^p is subnormal. -/
def Fmt.encode (f : Fmt) (neg : Bool) (q : Nat) (e : Int) : Nat :=
  if q < 2 ^ f.p then f.signBit neg + q
  else f.signBit neg + (e - f.emin + 1).toNat * 2 ^ f.p + (q - 2 ^ f.p)

/-- A value with the flags met while forming it. -/
abbrev Fl (α : Type) := α × Nat

/-- Read an operand (R46): in fast mode a subnormal becomes a zero of its sign and sets FZ. -/
def Fmt.read (f : Fmt) (strict : Bool) (c : Nat) : Fl FV :=
  if !strict && f.isSub c then (.fin (c.testBit (f.p + f.ew)) 0 0, flFZ) else (f.decode c, 0)

/-- floor(log2(m × 2^e)) for m above 0. -/
def magExp (m : Nat) (e : Int) : Int := (m.log2 : Int) + e

/-- Whether m × 2^e is at least n × 2^k. -/
def magGe (m : Nat) (e : Int) (n : Nat) (k : Int) : Bool :=
  if e ≥ k then decide (m * 2 ^ (e - k).toNat ≥ n) else decide (m ≥ n * 2 ^ (k - e).toNat)

/-- Round m × 2^e to `p` fraction bits (R53 to R55): the kept significand, its exponent, and whether the
rounding was exact. `lo` is the smallest exponent in strict mode; `w` is the value of R54 where the rounding
is stochastic. -/
def roundMag (p : Nat) (lo : Option Int) (w : Option Nat) (m : Nat) (e : Int) : Nat × Int × Bool :=
  let e0 := magExp m e
  let e1 := match lo with | some l => max e0 l | none => e0
  let k := (p : Int) - e1 + e
  if k ≥ 0 then
    let q := m * 2 ^ k.toNat
    (q, e1, true)
  else
    let d := (-k).toNat
    let q := m / 2 ^ d
    let r := m % 2 ^ d
    let up : Bool := match w with
      | none => decide (2 * r > 2 ^ d) || (decide (2 * r = 2 ^ d) && decide (q % 2 = 1))
      | some w => decide (r * 65536 / 2 ^ d + w ≥ 65536)
    let q' := if up then q + 1 else q
    if q' = 2 ^ (p + 1) then (2 ^ p, e1 + 1, decide (r = 0)) else (q', e1, decide (r = 0))

/-- Fast narrowing of R56: the code and the flags. A saturation is reported by SA. `w` as in `roundMag`. -/
def narrow16Fast (v : FV) (s : Int) (w : Option Nat) : Fl Nat :=
  match v with
  | .nan sg => (0x7E00, if sg then flIV else 0)
  | .inf n => (f16.inf n, 0)
  | .fin n m e =>
    if m = 0 then (0, 0)
    else if magGe m (e - s) 65520 0 then (f16.signBit n + 0x7BFF, flSA ||| flNX)
    else
      let (q, e1, ex) := roundMag 10 none w m (e - s)
      let (q, e1, ex) := if e1 = 16 then (2047, (15 : Int), false) else (q, e1, ex)
      if e1 < -14 then (0, flFZ ||| flNX)
      else (f16.encode n q e1, if ex then 0 else flNX)

/-- Fast rounding to binary32 (R57, R47). -/
def round32Fast (v : FV) (s : Int) (w : Option Nat) : Fl Nat :=
  match v with
  | .nan sg => (0x7FC00000, if sg then flIV else 0)
  | .inf n => (f32.inf n, 0)
  | .fin n m e =>
    if m = 0 then (0, 0)
    else
      let (q, e1, ex) := roundMag 23 none w m (e - s)
      if e1 ≥ 128 then (f32.inf n, flOF ||| flNX)
      else if e1 < -126 then (0, flFZ ||| flNX)
      else (f32.encode n q e1, if ex then 0 else flNX)

/-- Strict rounding of R58 to either format. -/
def roundStrict (f : Fmt) (v : FV) (s : Int) : Fl Nat :=
  match v with
  | .nan sg => (f.nan, if sg then flIV else 0)
  | .inf n => (f.inf n, 0)
  | .fin n m e =>
    if m = 0 then (f.zero n, 0)
    else
      let (q, e1, ex) := roundMag f.p (some f.emin) none m (e - s)
      if e1 > f.emax then (f.inf n, flOF ||| flNX)
      else
        let (_, eu, _) := roundMag f.p none none m (e - s)
        let tiny := decide (eu < f.emin)
        (f.encode n q e1, if ex then 0 else if tiny then flUF ||| flNX else flNX)

/-- Deliver a result in a format under a mode, divided by 2^s (R47, R56 to R58, R70). Assumption 17 (DEDUCED). -/
def deliver (f : Fmt) (strict : Bool) (w : Option Nat) (s : Int) (v : FV) : Fl Nat :=
  if strict then roundStrict f v s
  else if f.p = 10 then narrow16Fast v s w
  else round32Fast v s w

/-- Round a binary32 result with no scale, to nearest even. -/
def deliver32 (strict : Bool) (v : FV) : Fl Nat := deliver f32 strict none 0 v

/-- IV where an operand is a signalling NaN (R51). -/
def snanFlag : FV → Nat
  | .nan true => flIV
  | _ => 0

def FV.isNan : FV → Bool
  | .nan _ => true
  | _ => false

def FV.neg : FV → FV
  | .nan s => .nan s
  | .inf n => .inf (!n)
  | .fin n m e => .fin (!n) m e

/-- Multiply a value by 2^k. -/
def FV.scale (v : FV) (k : Int) : FV :=
  match v with
  | .fin n m e => .fin n m (e + k)
  | v => v

def FV.isZero : FV → Bool
  | .fin _ 0 _ => true
  | _ => false

def FV.signOf : FV → Bool
  | .nan _ => false
  | .inf n => n
  | .fin n _ _ => n

/-- Signed significand of a finite value at exponent k, which is not above its own. -/
def alignTo (n : Bool) (m : Nat) (e k : Int) : Int :=
  let a : Int := ((m * 2 ^ (e - k).toNat : Nat) : Int)
  if n then -a else a

/-- Exact sum of two finite values. -/
def addFin (n1 : Bool) (m1 : Nat) (e1 : Int) (n2 : Bool) (m2 : Nat) (e2 : Int) : FV :=
  if m1 = 0 ∧ m2 = 0 then .fin (n1 && n2) 0 0
  else if m1 = 0 then .fin n2 m2 e2
  else if m2 = 0 then .fin n1 m1 e1
  else
    let k := min e1 e2
    let t := alignTo n1 m1 e1 k + alignTo n2 m2 e2 k
    if t = 0 then .fin false 0 0 else .fin (decide (t < 0)) t.natAbs k

/-- Exact sum, with the invalid cases of R51. -/
def addFV (a b : FV) : Fl FV :=
  match a, b with
  | .nan s, .nan t => (.nan false, if s || t then flIV else 0)
  | .nan s, _ => (.nan false, if s then flIV else 0)
  | _, .nan t => (.nan false, if t then flIV else 0)
  | .inf m, .inf n => if m = n then (.inf m, 0) else (.nan false, flIV)
  | .inf m, _ => (.inf m, 0)
  | _, .inf n => (.inf n, 0)
  | .fin n1 m1 e1, .fin n2 m2 e2 => (addFin n1 m1 e1 n2 m2 e2, 0)

/-- Exact product, with the invalid cases of R51. -/
def mulFV (a b : FV) : Fl FV :=
  match a, b with
  | .nan s, .nan t => (.nan false, if s || t then flIV else 0)
  | .nan s, _ => (.nan false, if s then flIV else 0)
  | _, .nan t => (.nan false, if t then flIV else 0)
  | .inf m, .inf n => (.inf (xor m n), 0)
  | .inf m, .fin n z _ => if z = 0 then (.nan false, flIV) else (.inf (xor m n), 0)
  | .fin m z _, .inf n => if z = 0 then (.nan false, flIV) else (.inf (xor m n), 0)
  | .fin n1 m1 e1, .fin n2 m2 e2 => (.fin (xor n1 n2) (m1 * m2) (e1 + e2), 0)

/-- Exact fused product and sum. A product 0 × infinity sets IV whatever the addend (R51). -/
def fmaFV (a b c : FV) : Fl FV :=
  let (p, f1) := mulFV a b
  let (r, f2) := addFV p c
  (r, f1 ||| f2)

/-- binary32 operations on codes with one rounding (R50). -/
def op2 (f : Fmt) (strict : Bool) (w : Option Nat) (g : FV → FV → Fl FV) (a b : Nat) : Fl Nat :=
  let (x, f1) := f.read strict a
  let (y, f2) := f.read strict b
  let (r, f3) := g x y
  let (c, f4) := deliver f strict w 0 r
  (c, f1 ||| f2 ||| f3 ||| f4)

def add32 (strict : Bool) (a b : Nat) : Fl Nat := op2 f32 strict none addFV a b
def sub32 (strict : Bool) (a b : Nat) : Fl Nat := op2 f32 strict none (fun x y => addFV x y.neg) a b
def mul32 (strict : Bool) (a b : Nat) : Fl Nat := op2 f32 strict none mulFV a b

def op3 (f : Fmt) (strict : Bool) (w : Option Nat) (g : FV → FV → FV → Fl FV) (a b c : Nat) : Fl Nat :=
  let (x, f1) := f.read strict a
  let (y, f2) := f.read strict b
  let (z, f3) := f.read strict c
  let (r, f4) := g x y z
  let (q, f5) := deliver f strict w 0 r
  (q, f1 ||| f2 ||| f3 ||| f4 ||| f5)

def fma32 (strict : Bool) (a b c : Nat) : Fl Nat := op3 f32 strict none fmaFV a b c

/-- Order of two values that are no NaN: −1, 0 or 1 as an integer. Zeros are equal. -/
def cmpFV (a b : FV) : Int :=
  match a, b with
  | .inf m, .inf n => if m = n then 0 else if m then -1 else 1
  | .inf m, _ => if m then -1 else 1
  | _, .inf n => if n then 1 else -1
  | .fin n1 m1 e1, .fin n2 m2 e2 =>
    let k := min e1 e2
    let x := alignTo n1 m1 e1 k
    let y := alignTo n2 m2 e2 k
    if x < y then -1 else if x = y then 0 else 1
  | _, _ => 0

/-- Whether a orders below b for minimum and maximum, where −0 orders below +0 (R50). -/
def ltMinMax (a b : FV) : Bool :=
  let c := cmpFV a b
  if c = 0 then a.isZero && b.isZero && a.signOf && !b.signOf else decide (c < 0)

def minFV (a b : FV) : Fl FV :=
  if a.isNan || b.isNan then (.nan false, snanFlag a ||| snanFlag b) else (if ltMinMax b a then b else a, 0)
def maxFV (a b : FV) : Fl FV :=
  if a.isNan || b.isNan then (.nan false, snanFlag a ||| snanFlag b) else (if ltMinMax a b then b else a, 0)

def min32 (strict : Bool) (a b : Nat) : Fl Nat := op2 f32 strict none minFV a b
def max32 (strict : Bool) (a b : Nat) : Fl Nat := op2 f32 strict none maxFV a b

/-- Widen binary16 to binary32 (R60). -/
def widen (strict : Bool) (c : Nat) : Fl Nat :=
  let (v, f1) := f16.read strict c
  let (r, f2) := deliver f32 strict none 0 v
  (r, f1 ||| f2)

/-- Narrow binary32 to binary16 with no scale (R60). -/
def narrow (strict : Bool) (w : Option Nat) (c : Nat) : Fl Nat :=
  let (v, f1) := f32.read strict c
  let (r, f2) := deliver f16 strict w 0 v
  (r, f1 ||| f2)

/-- Read an element of a tensor and form its represented value as a binary32 code (R50, R69).
Assumption 18 (DEDUCED). -/
def scaleRead (f : Fmt) (strict : Bool) (s : Int) (c : Nat) : Fl Nat :=
  let (v, f1) := f.read strict c
  match v with
  | .nan sg => (0x7FC00000, f1 ||| (if sg then flIV else 0))
  | .inf n => (f32.inf n, f1)
  | .fin n m e =>
    let (r, f2) := deliver f32 strict none 0 (.fin n m (e + s))
    (r, f1 ||| f2)

/-- Nearest integer, ties to even, of m × 2^e with its sign. -/
def nearestInt (n : Bool) (m : Nat) (e : Int) : Int × Bool :=
  let (a, ex) : Nat × Bool :=
    if e ≥ 0 then (m * 2 ^ e.toNat, true)
    else
      let d := (-e).toNat
      let q := m / 2 ^ d
      let r := m % 2 ^ d
      let up := decide (2 * r > 2 ^ d) || (decide (2 * r = 2 ^ d) && decide (q % 2 = 1))
      (if up then q + 1 else q, decide (r = 0))
  (if n then -(a : Int) else (a : Int), ex)

/-- binary32 to U32 (R61). -/
def cvtU32 (strict : Bool) (c : Nat) : Fl Nat :=
  let (v, f1) := f32.read strict c
  match v with
  | .nan _ => (0, f1 ||| flIV)
  | .inf n => (if n then 0 else 0xFFFFFFFF, f1 ||| flIV)
  | .fin n m e =>
    if m = 0 then (0, f1)
    else
      let (t, ex) := nearestInt n m e
      if t < 0 then (0, f1 ||| flIV)
      else if t > 0xFFFFFFFF then (0xFFFFFFFF, f1 ||| flIV)
      else (t.toNat, f1 ||| (if ex then 0 else flNX))

/-- An integer to binary32, to nearest even (R61). -/
def cvtFromInt (i : Int) : Fl Nat := round32Fast (.fin (decide (i < 0)) i.natAbs 0) 0 none

/-- floor(log2 |y|) of a finite nonzero binary16 code (R73). -/
def exp16 (c : Nat) : Int :=
  match f16.decode c with
  | .fin _ m e => magExp m e
  | _ => 0

end Sys2Proof.Machine
end

