-- ==== Sys2Proof/Config.lean ====
section
/-! DEFINITION. What one implementation fixes and the values the spec leaves open. A constant here that
has no body is a free value: nothing can be proved of what it is, so a claim holds whatever it is. -/
namespace Sys2Proof.Config

/-- A fresh open value, applied to the state's counter of open values. Assumption 11 (DESIGN CHOICE). -/
opaque freeValue : Nat → Nat

/-- A fresh open choice between yes and no. Assumption 11 (DESIGN CHOICE). -/
opaque freeBit : Nat → Bool

/-- Random bits of the security block: ephemeral keys and signature nonces (R448, R523). Assumption 75 (DESIGN CHOICE). -/
opaque randomScalar : Nat → Nat

/-- DER bytes of the vendor certificate (R516), written at manufacture. Assumption 76 (DESIGN CHOICE). -/
opaque vendorCert : List Byte

/-! ### Opus (R286)

The manual names the fixed-point configuration of the RFC 6716 reference decoder and does not repeat what it computes.
Assumption 120 (DESIGN CHOICE). -/

/-- The 16-bit output at 48 kHz for a list of packets: number of channels, packets, channel, sample. -/
opaque opusSample : Nat → List (List Nat) → Nat → Nat → Nat

/-- Samples per channel that stand in for zero-length packets before the first other one. -/
opaque opusGap : Nat

end Sys2Proof.Config
end

