-- ==== Sys2Proof/Machine/SMap.lean ====
section
/-! DEFINITION. Sparse data by key: a list of pairs in one canonical form, keys strictly rising and no
entry equal to the value that an unlisted key has. Equal contents are therefore equal lists. -/
namespace Sys2Proof.Machine

/-- Pairs of a key and a value. -/
abbrev SMap (α : Type) := List (Nat × α)

/-- The value at a key, `d` where the key is not listed. -/
def SMap.get {α : Type} (d : α) : SMap α → Nat → α
  | [], _ => d
  | (k, v) :: m, i => if k = i then v else SMap.get d m i

/-- The map with nothing listed at a key. -/
def SMap.erase {α : Type} : SMap α → Nat → SMap α
  | [], _ => []
  | (k, v) :: m, i => if k = i then SMap.erase m i else (k, v) :: SMap.erase m i

/-- The map with a pair added in front of the first larger key. -/
def SMap.insert {α : Type} : SMap α → Nat → α → SMap α
  | [], i, a => [(i, a)]
  | (k, v) :: m, i, a => if i < k then (i, a) :: (k, v) :: m else (k, v) :: SMap.insert m i a

/-- The map with a value listed at a key. -/
def SMap.put {α : Type} (m : SMap α) (i : Nat) (a : α) : SMap α := SMap.insert (m.erase i) i a

/-- Write a value at a key; writing what an unlisted key has removes the entry. -/
def SMap.set {α : Type} [DecidableEq α] (d : α) (m : SMap α) (i : Nat) (a : α) : SMap α :=
  if a = d then m.erase i else m.put i a

/-- Every key of a map lies above `b` and the keys rise. -/
def SMap.above {α : Type} : Option Nat → SMap α → Bool
  | _, [] => true
  | b, (k, _) :: m => (match b with | none => true | some b => decide (b < k)) && SMap.above (some k) m

/-- The canonical form. -/
def SMap.wf {α : Type} [DecidableEq α] (d : α) (m : SMap α) : Bool :=
  SMap.above none m && m.all (fun p => !decide (p.2 = d))

end Sys2Proof.Machine
end

