-- ==== Sys2Proof/Machine/Objects.lean ====
section
/-! DEFINITION. The objects of the dictionary as the tables of every chapter list them: index, subindexes,
type, access, default, persistence and the range a write must lie in (R457 to R466, R477, R478, R78, R103,
R141, R166, R201, R231, R232, R265, R298, R337, R338, R364, R398, R399, R427, R455, R456, R504 to R506, R532, R533,
R543). Where an object has no default of its own (write-only commands, strings, values from fuses) the field is 0. -/
namespace Sys2Proof.Machine

/-- Types of R460. -/
inductive OTy where
  | bool | u8 | u16 | u32 | u64 | i32 | f32 | enum8 | str | blob
  deriving DecidableEq, Repr

/-- Access codes of the scope chapter. -/
inductive OAcc where
  | ro | rw | rws | wo | rwl
  deriving DecidableEq, Repr

/-- Persistence classes of R465. -/
inductive OPer where
  | v | w | c | f
  deriving DecidableEq, Repr

/-- One row of a chapter's object table. `reps` counts the indexes that share the row (one per core, group,
port and so on), `subs` the subindexes. `lo`, `hi`, `mult`, `codes` and `resv` say which values a write may
carry: the range, the alignment, the listed codes (where not empty) and the reserved bits. `noRun` says that
the chapter refuses a write while the device is RUNNING. -/
structure ObjDef where
  index : Nat
  reps : Nat := 1
  sub : Nat := 0
  subs : Nat := 1
  ty : OTy
  acc : OAcc := .ro
  dflt : Nat := 0
  per : OPer := .v
  lo : Int := 0
  hi : Int := 2 ^ 64
  mult : Nat := 1
  codes : List Nat := []
  resv : Nat := 0
  noRun : Bool := false
  deriving DecidableEq, Repr

/-- Type code of R460. -/
def OTy.code : OTy → Nat
  | .bool => 1 | .u8 => 2 | .u16 => 3 | .u32 => 4 | .u64 => 5 | .i32 => 6 | .f32 => 7 | .enum8 => 8
  | .str => 9 | .blob => 10

/-- Value bytes of R460; 0 for strings and blobs. -/
def OTy.bytes : OTy → Nat
  | .bool => 1 | .u8 => 1 | .u16 => 2 | .u32 => 4 | .u64 => 8 | .i32 => 4 | .f32 => 4 | .enum8 => 1
  | .str => 0 | .blob => 0

/-- The key of an object's value: index and subindex side by side, for repetition `i` and member `j`. -/
def ObjDef.key (o : ObjDef) (i : Nat := 0) (j : Nat := 0) : Nat := (o.index + i) * 256 + (o.sub + j)

def Obj.DEVICE_NAME : ObjDef :=
  { index := 0x1000, ty := .str, per := .f }
def Obj.VENDOR_NAME : ObjDef :=
  { index := 0x1001, ty := .str, per := .f }
def Obj.SERIAL_NUMBER : ObjDef :=
  { index := 0x1002, ty := .u64, per := .f }
def Obj.DIE_STEPPING : ObjDef :=
  { index := 0x1003, sub := 0x01, subs := 7, ty := .u16, per := .f }
def Obj.DICT_FORMAT : ObjDef :=
  { index := 0x1004, ty := .u16, dflt := 1 }
def Obj.DEVICE_ID_STRING : ObjDef :=
  { index := 0x1005, ty := .str }
def Obj.DEVICE_STATE : ObjDef :=
  { index := 0x1010, ty := .enum8, dflt := 1 }
def Obj.DEVICE_STATE_PRIOR : ObjDef :=
  { index := 0x1011, ty := .enum8 }
def Obj.DEVICE_STATE_CHANGES : ObjDef :=
  { index := 0x1012, ty := .u32 }
def Obj.DEVICE_STATE_SINCE_MS : ObjDef :=
  { index := 0x1013, ty := .u64 }
def Obj.DEVICE_UPTIME_MS : ObjDef :=
  { index := 0x1014, ty := .u64 }
def Obj.DEVICE_STARTUP_MS : ObjDef :=
  { index := 0x1015, ty := .u32 }
def Obj.DEVICE_FAULT_REASON : ObjDef :=
  { index := 0x1016, ty := .u16 }
def Obj.DEVICE_FALLOW_FROM : ObjDef :=
  { index := 0x1017, ty := .enum8 }
def Obj.OWNER_LOCK_TAKE : ObjDef :=
  { index := 0x1020, sub := 0x01, ty := .u8, acc := .wo, codes := [1, 2] }
def Obj.OWNER_LOCK_HOLDER : ObjDef :=
  { index := 0x1020, sub := 0x02, ty := .u8, dflt := 255 }
def Obj.OWNER_LOCK_KEY_SLOT : ObjDef :=
  { index := 0x1020, sub := 0x03, ty := .u8, dflt := 255 }
def Obj.OWNER_LOCK_SINCE_MS : ObjDef :=
  { index := 0x1020, sub := 0x04, ty := .u64 }
def Obj.OWNER_LOCK_GRANTS : ObjDef :=
  { index := 0x1020, sub := 0x05, ty := .u32 }
def Obj.OWNER_LOCK_REFUSALS : ObjDef :=
  { index := 0x1020, sub := 0x06, ty := .u32 }
def Obj.OWNER_UPDATE_INHIBIT : ObjDef :=
  { index := 0x1021, ty := .bool, acc := .rwl, per := .w }
def Obj.OWNER_KEY_MASK : ObjDef :=
  { index := 0x1022, ty := .u8, acc := .rwl, dflt := 255, per := .c }
def Obj.STORE_CMD : ObjDef :=
  { index := 0x1030, ty := .u8, acc := .rwl, codes := [0, 1, 2, 3] }
def Obj.STORE_STATUS : ObjDef :=
  { index := 0x1031, ty := .enum8 }
def Obj.STORE_GENERATION : ObjDef :=
  { index := 0x1032, ty := .u32 }
def Obj.STORE_BYTES : ObjDef :=
  { index := 0x1033, ty := .u32 }
def Obj.STORE_DIRTY : ObjDef :=
  { index := 0x1034, ty := .bool }
def Obj.STORE_SKIPPED : ObjDef :=
  { index := 0x1035, ty := .u16 }
def Obj.STORE_FIRST_SKIPPED : ObjDef :=
  { index := 0x1036, ty := .u32, dflt := 0xffffffff }
def Obj.YDP_UDP_PORT : ObjDef :=
  { index := 0x1100, ty := .u16, acc := .rwl, dflt := 47110, per := .c, lo := 1024, hi := 65535 }
def Obj.SESSION_SLOTS : ObjDef :=
  { index := 0x1101, ty := .u8, dflt := 16, per := .f }
def Obj.SESSION_IDLE_S : ObjDef :=
  { index := 0x1102, ty := .u16, acc := .rwl, dflt := 60, per := .c, lo := 5, hi := 3600 }
def Obj.SESSION_OPEN : ObjDef :=
  { index := 0x1103, ty := .u8 }
def Obj.SESSION_SELF : ObjDef :=
  { index := 0x1104, ty := .u8, dflt := 255 }
def Obj.SESSION_AUTH_FAILS : ObjDef :=
  { index := 0x1105, ty := .u32 }
def Obj.SESSION_BAD_MACS : ObjDef :=
  { index := 0x1106, ty := .u64 }
def Obj.SESSION_HELLO_DROPPED : ObjDef :=
  { index := 0x1107, ty := .u32 }
def Obj.SESSION_SEQ_DISCARDS : ObjDef :=
  { index := 0x1108, ty := .u64 }
def Obj.SESSION_SEL_SLOT : ObjDef :=
  { index := 0x1110, sub := 0x01, ty := .u8, acc := .rw, lo := 0, hi := 15 }
def Obj.SESSION_SEL_STATE : ObjDef :=
  { index := 0x1110, sub := 0x02, ty := .enum8 }
def Obj.SESSION_SEL_KEY_SLOT : ObjDef :=
  { index := 0x1110, sub := 0x03, ty := .u8, dflt := 255 }
def Obj.SESSION_SEL_PEER_PORT : ObjDef :=
  { index := 0x1110, sub := 0x04, ty := .u16 }
def Obj.SESSION_SEL_PEER_IP_HI : ObjDef :=
  { index := 0x1110, sub := 0x05, ty := .u64 }
def Obj.SESSION_SEL_PEER_IP_LO : ObjDef :=
  { index := 0x1110, sub := 0x06, ty := .u64 }
def Obj.SESSION_SEL_LAST_SEQ : ObjDef :=
  { index := 0x1110, sub := 0x07, ty := .u32 }
def Obj.SESSION_SEL_CLOSE : ObjDef :=
  { index := 0x1110, sub := 0x08, ty := .u8, acc := .rwl, codes := [0, 1] }
def Obj.CLIENT_KEY : ObjDef :=
  { index := 0x1120, reps := 8, sub := 0x01, ty := .blob, acc := .rwl, per := .c }
def Obj.CLIENT_KEY_EN : ObjDef :=
  { index := 0x1120, reps := 8, sub := 0x02, ty := .bool, acc := .rwl, per := .c }
def Obj.POWER_LIMIT_W : ObjDef :=
  { index := 0x2000, ty := .u16, acc := .rwl, dflt := 1600, per := .c, lo := 400, hi := 1600 }
def Obj.POWER_BOOT_REQ_W : ObjDef :=
  { index := 0x2001, ty := .u16, dflt := 450, per := .f }
def Obj.POWER_NOW_W : ObjDef :=
  { index := 0x2002, ty := .u16 }
def Obj.POWER_PEAK_W : ObjDef :=
  { index := 0x2003, ty := .u16 }
def Obj.ENERGY_J : ObjDef :=
  { index := 0x2004, ty := .u64 }
def Obj.POWER_OVER_LIMIT : ObjDef :=
  { index := 0x2005, ty := .u32 }
def Obj.LEAVE_POOL_MW : ObjDef :=
  { index := 0x2010, ty := .u32 }
def Obj.LEAVE_HELD_MW : ObjDef :=
  { index := 0x2011, ty := .u32 }
def Obj.LEAVE_RESERVED_MW : ObjDef :=
  { index := 0x2012, ty := .u32 }
def Obj.LEAVE_FROZEN : ObjDef :=
  { index := 0x2013, ty := .u8 }
def Obj.LEAVE_QUEUE : ObjDef :=
  { index := 0x2014, ty := .u16 }
def Obj.LEAVE_GRANTS : ObjDef :=
  { index := 0x2015, ty := .u64 }
def Obj.LEAVE_WAITS : ObjDef :=
  { index := 0x2016, ty := .u64 }
def Obj.LEAVE_RESERVE_LEAD : ObjDef :=
  { index := 0x2017, ty := .u16, acc := .rws, dflt := 32, per := .c, lo := 1, hi := 4096 }
def Obj.LEAVE_MARGIN_W : ObjDef :=
  { index := 0x2018, ty := .u16, acc := .rws, dflt := 40, per := .c, lo := 0, hi := 400 }
def Obj.LEAVE_BASE_W : ObjDef :=
  { index := 0x2019, ty := .u16, acc := .rws, dflt := 310, per := .c, lo := 100, hi := 800 }
def Obj.LEAVE_COST_MW1 : ObjDef :=
  { index := 0x2020, sub := 0x01, ty := .u32, acc := .rws, dflt := 700, per := .c, lo := 0, hi := 200000 }
def Obj.LEAVE_COST_MW2 : ObjDef :=
  { index := 0x2020, sub := 0x02, ty := .u32, acc := .rws, dflt := 1500, per := .c, lo := 0, hi := 200000 }
def Obj.LEAVE_COST_MW3 : ObjDef :=
  { index := 0x2020, sub := 0x03, ty := .u32, acc := .rws, dflt := 6000, per := .c, lo := 0, hi := 200000 }
def Obj.LEAVE_COST_MW4 : ObjDef :=
  { index := 0x2020, sub := 0x04, ty := .u32, acc := .rws, dflt := 40000, per := .c, lo := 0, hi := 200000 }
def Obj.LEAVE_COST_MW5 : ObjDef :=
  { index := 0x2020, sub := 0x05, ty := .u32, acc := .rws, dflt := 30000, per := .c, lo := 0, hi := 200000 }
def Obj.LEAVE_COST_MW6 : ObjDef :=
  { index := 0x2020, sub := 0x06, ty := .u32, acc := .rws, dflt := 6000, per := .c, lo := 0, hi := 200000 }
def Obj.LEAVE_COST_MW7 : ObjDef :=
  { index := 0x2020, sub := 0x07, ty := .u32, acc := .rws, dflt := 20000, per := .c, lo := 0, hi := 200000 }
def Obj.LEAVE_COST_MW8 : ObjDef :=
  { index := 0x2020, sub := 0x08, ty := .u32, acc := .rws, dflt := 1500, per := .c, lo := 0, hi := 200000 }
def Obj.LEAVE_CAL_TEMP_C : ObjDef :=
  { index := 0x2021, ty := .i32, acc := .rws, dflt := 85, per := .c, lo := 0, hi := 110 }
def Obj.LEAVE_CAL_LOAD_PCT : ObjDef :=
  { index := 0x2022, ty := .u8, acc := .rws, dflt := 100, per := .c, lo := 0, hi := 100 }
def Obj.LEAVE_LEAK_PPM : ObjDef :=
  { index := 0x2023, ty := .u32, acc := .rws, dflt := 4000, per := .c, lo := 0, hi := 20000 }
def Obj.LEAVE_LEAK_FACTOR : ObjDef :=
  { index := 0x2024, sub := 0x01, subs := 2, ty := .u16, dflt := 1024 }
def Obj.LEAVE_CORRECTION : ObjDef :=
  { index := 0x2025, ty := .u16, dflt := 1024 }
def Obj.LEAVE_TABLE_STALE : ObjDef :=
  { index := 0x2026, ty := .bool }
def Obj.SUPPLY_MV : ObjDef :=
  { index := 0x2040, sub := 0x01, subs := 8, ty := .u16 }
def Obj.SUPPLY_MIN_MV : ObjDef :=
  { index := 0x2041, sub := 0x01, subs := 8, ty := .u16, dflt := 65535 }
def Obj.SUPPLY_WARN_FLAGS : ObjDef :=
  { index := 0x2042, ty := .u8 }
def Obj.SUPPLY_WARN_CLEAR : ObjDef :=
  { index := 0x2043, ty := .u8, acc := .wo }
def Obj.SUPPLY_WARN_ACTIVE : ObjDef :=
  { index := 0x2044, ty := .u8 }
def Obj.SUPPLY_DIPS : ObjDef :=
  { index := 0x2045, ty := .u32 }
def Obj.SUPPLY_RESET_RAIL : ObjDef :=
  { index := 0x2046, ty := .u8, dflt := 255, per := .w }
def Obj.THERM_DIE_C : ObjDef :=
  { index := 0x2050, sub := 0x01, subs := 7, ty := .i32 }
def Obj.THERM_WARN_C : ObjDef :=
  { index := 0x2051, ty := .i32, acc := .rws, dflt := 100, per := .c, lo := 70, hi := 100 }
def Obj.THERM_STOP_C : ObjDef :=
  { index := 0x2052, ty := .i32, acc := .rws, dflt := 105, per := .c, lo := 75, hi := 105 }
def Obj.THERM_TRIP_C : ObjDef :=
  { index := 0x2053, ty := .i32, dflt := 110, per := .f }
def Obj.THERM_WARN_EVENTS : ObjDef :=
  { index := 0x2054, ty := .u32 }
def Obj.THERM_MAX_C : ObjDef :=
  { index := 0x2055, sub := 0x01, subs := 7, ty := .i32 }
def Obj.CLK_CORE_MULT : ObjDef :=
  { index := 0x2300, sub := 0x01, subs := 2, ty := .u8, acc := .rws, dflt := 16, per := .c, lo := 4, hi := 16 }
def Obj.CLK_CORE_MULT_NOW : ObjDef :=
  { index := 0x2301, sub := 0x01, subs := 2, ty := .u8, dflt := 16 }
def Obj.CLK_CORE_SRC : ObjDef :=
  { index := 0x2302, sub := 0x01, subs := 2, ty := .enum8, acc := .rws, codes := [0, 1] }
def Obj.PLL_STATE : ObjDef :=
  { index := 0x2303, sub := 0x01, subs := 39, ty := .enum8 }
def Obj.PLL_LOSS_FLAGS : ObjDef :=
  { index := 0x2304, ty := .u64 }
def Obj.PLL_LOSS_CLEAR : ObjDef :=
  { index := 0x2305, ty := .u64, acc := .wo, resv := 0xffffff8000000000 }
def Obj.CLK_LOSS_STOP_MS : ObjDef :=
  { index := 0x2306, ty := .u16, acc := .rws, dflt := 10, per := .c, lo := 1, hi := 1000 }
def Obj.REFCLK_PRESENT : ObjDef :=
  { index := 0x2307, ty := .bool }
def Obj.CLK_RAMP_STEPS : ObjDef :=
  { index := 0x2308, ty := .u64 }
def Obj.CLK_GATE_REFUSALS : ObjDef :=
  { index := 0x2309, ty := .u32 }
def Obj.CLK_SWITCH_REFUSALS : ObjDef :=
  { index := 0x230A, ty := .u32 }
def Obj.RESET_KIND : ObjDef :=
  { index := 0x2400, sub := 0x01, ty := .enum8, acc := .rwl, codes := [0, 1, 2, 3, 4, 5] }
def Obj.RESET_TARGET : ObjDef :=
  { index := 0x2400, sub := 0x02, ty := .u16, acc := .rwl }
def Obj.RESET_GO : ObjDef :=
  { index := 0x2400, sub := 0x03, ty := .u8, acc := .wo, codes := [1] }
def Obj.RESET_STATUS : ObjDef :=
  { index := 0x2400, sub := 0x04, ty := .enum8 }
def Obj.RESET_CAUSE : ObjDef :=
  { index := 0x2401, ty := .enum8, dflt := 1, per := .w }
def Obj.RESET_LAST_KIND : ObjDef :=
  { index := 0x2402, ty := .enum8, per := .w }
def Obj.RESET_LAST_TARGET : ObjDef :=
  { index := 0x2403, ty := .u16, per := .w }
def Obj.RESET_COUNT : ObjDef :=
  { index := 0x2404, sub := 0x01, subs := 6, ty := .u32, per := .w }
def Obj.WARM_MEM_KEPT : ObjDef :=
  { index := 0x2405, ty := .bool, per := .w }
def Obj.LP_REQUEST : ObjDef :=
  { index := 0x2410, ty := .enum8, acc := .rwl, codes := [0, 1, 2] }
def Obj.LP_STATE : ObjDef :=
  { index := 0x2411, ty := .enum8 }
def Obj.LP_STATUS : ObjDef :=
  { index := 0x2412, ty := .enum8 }
def Obj.FALLOW_ENTRIES : ObjDef :=
  { index := 0x2413, ty := .u32, per := .w }
def Obj.FALLOW_EXIT_MS : ObjDef :=
  { index := 0x2414, ty := .u32 }
def Obj.P1_EXITS : ObjDef :=
  { index := 0x2415, ty := .u64 }
def Obj.MEM_RATE : ObjDef :=
  { index := 0x3000, ty := .enum8, acc := .rws, dflt := 2, per := .c, codes := [0, 1, 2] }
def Obj.MEM_RATE_ACTIVE : ObjDef :=
  { index := 0x3001, ty := .enum8, dflt := 2 }
def Obj.MEM_SIZE : ObjDef :=
  { index := 0x3002, ty := .u64, dflt := 0x30000000000, per := .f }
def Obj.MEM_TRAIN_STATE : ObjDef :=
  { index := 0x3003, ty := .enum8 }
def Obj.MEM_TRAIN_FAIL_CHANNEL : ObjDef :=
  { index := 0x3004, ty := .u8, dflt := 255 }
def Obj.MEM_SCRUB_HOURS : ObjDef :=
  { index := 0x3010, ty := .u16, acc := .rws, dflt := 24, per := .c, lo := 1, hi := 168 }
def Obj.MEM_SCRUB_PASSES : ObjDef :=
  { index := 0x3011, ty := .u64 }
def Obj.MEM_SCRUB_BYTES : ObjDef :=
  { index := 0x3012, ty := .u64 }
def Obj.MEM_SCRUB_LATE : ObjDef :=
  { index := 0x3013, ty := .u32 }
def Obj.MEM_SCRUB_EN : ObjDef :=
  { index := 0x3014, ty := .bool, acc := .rws, dflt := 1, per := .c }
def Obj.MEM_CE_TOTAL : ObjDef :=
  { index := 0x3020, ty := .u64 }
def Obj.MEM_UE_TOTAL : ObjDef :=
  { index := 0x3021, ty := .u32 }
def Obj.MEM_CE_ALARM : ObjDef :=
  { index := 0x3022, ty := .u32, acc := .rws, dflt := 1000, per := .c, lo := 1, hi := 4294967295 }
def Obj.MEM_CE_ALARMS : ObjDef :=
  { index := 0x3023, ty := .u32 }
def Obj.MEM_UE_LAST_ADDR : ObjDef :=
  { index := 0x3024, sub := 0x01, ty := .u64 }
def Obj.MEM_UE_LAST_SUBCH : ObjDef :=
  { index := 0x3024, sub := 0x02, ty := .u16, dflt := 65535 }
def Obj.MEM_UE_LAST_SYNDROME : ObjDef :=
  { index := 0x3024, sub := 0x03, ty := .u16 }
def Obj.MEM_UE_LAST_SOURCE : ObjDef :=
  { index := 0x3024, sub := 0x04, ty := .enum8 }
def Obj.MEM_SEL_SUBCH : ObjDef :=
  { index := 0x3030, sub := 0x01, ty := .u16, acc := .rw, lo := 0, hi := 255 }
def Obj.MEM_SEL_CE : ObjDef :=
  { index := 0x3030, sub := 0x02, ty := .u64 }
def Obj.MEM_SEL_UE : ObjDef :=
  { index := 0x3030, sub := 0x03, ty := .u32 }
def Obj.MEM_SEL_TEMP_C : ObjDef :=
  { index := 0x3030, sub := 0x04, ty := .i32 }
def Obj.MEM_SEL_REFRESH_MULT : ObjDef :=
  { index := 0x3030, sub := 0x05, ty := .u8, dflt := 1 }
def Obj.LOFT_CE_TOTAL : ObjDef :=
  { index := 0x3040, ty := .u64 }
def Obj.LOFT_UE_TOTAL : ObjDef :=
  { index := 0x3041, ty := .u32 }
def Obj.MEM_TEMP_MAX_C : ObjDef :=
  { index := 0x3050, ty := .i32 }
def Obj.ARB_CLASS_CORE_DMA : ObjDef :=
  { index := 0x3100, sub := 0x01, ty := .u8, acc := .rws, dflt := 2, per := .c }
def Obj.ARB_CLASS_CORE_SCALAR : ObjDef :=
  { index := 0x3100, sub := 0x02, ty := .u8, acc := .rws, dflt := 2, per := .c }
def Obj.ARB_CLASS_LOFT_COMPUTE : ObjDef :=
  { index := 0x3100, sub := 0x03, ty := .u8, acc := .rws, dflt := 3, per := .c }
def Obj.ARB_CLASS_MEM_ENGINE : ObjDef :=
  { index := 0x3100, sub := 0x04, ty := .u8, acc := .rws, dflt := 2, per := .c }
def Obj.ARB_CLASS_THRESHER : ObjDef :=
  { index := 0x3100, sub := 0x05, ty := .u8, acc := .rws, dflt := 1, per := .c }
def Obj.ARB_CLASS_UPDATE : ObjDef :=
  { index := 0x3100, sub := 0x06, ty := .u8, acc := .rws, dflt := 2, per := .c }
def Obj.ARB_CLASS_REDUCE : ObjDef :=
  { index := 0x3100, sub := 0x07, ty := .u8, acc := .rws, dflt := 3, per := .c }
def Obj.ARB_CLASS_HOST : ObjDef :=
  { index := 0x3100, sub := 0x08, ty := .u8, acc := .rws, per := .c }
def Obj.ARB_CLASS_SCRUB : ObjDef :=
  { index := 0x3100, sub := 0x09, ty := .u8, acc := .rws, per := .c }
def Obj.ARB_CLASS_STEWARD : ObjDef :=
  { index := 0x3100, sub := 0x0A, ty := .u8, acc := .rws, dflt := 1, per := .c }
def Obj.ARB_C3_BUDGET : ObjDef :=
  { index := 0x3101, ty := .u16, acc := .rws, dflt := 768, per := .c }
def Obj.ARB_C3_EXCESS : ObjDef :=
  { index := 0x3102, ty := .u64 }
def Obj.ARB_MAX_WAIT_C : ObjDef :=
  { index := 0x3103, sub := 0x01, subs := 4, ty := .u64 }
def Obj.ARB_PREEMPTIONS : ObjDef :=
  { index := 0x3104, ty := .u64 }
def Obj.ARB_PARKED_MAX : ObjDef :=
  { index := 0x3105, ty := .u8 }
def Obj.ARB_HELD_LINES : ObjDef :=
  { index := 0x3106, ty := .u64 }
def Obj.MESH_CE : ObjDef :=
  { index := 0x3110, ty := .u64 }
def Obj.MESH_UE : ObjDef :=
  { index := 0x3111, ty := .u32 }
def Obj.BRIDGE_CE : ObjDef :=
  { index := 0x3112, sub := 0x01, subs := 3, ty := .u64 }
def Obj.BRIDGE_REPLAYS : ObjDef :=
  { index := 0x3113, sub := 0x01, subs := 3, ty := .u64 }
def Obj.DMA_OPS_DONE : ObjDef :=
  { index := 0x3120, ty := .u64 }
def Obj.DMA_REFUSED : ObjDef :=
  { index := 0x3121, ty := .u32 }
def Obj.DMA_ABANDONED : ObjDef :=
  { index := 0x3122, ty := .u32 }
def Obj.DMA_BYTES : ObjDef :=
  { index := 0x3123, ty := .u64 }
def Obj.SEM_COUNT_TOTAL : ObjDef :=
  { index := 0x3200, ty := .u16, dflt := 4096, per := .f }
def Obj.QUEUE_COUNT_TOTAL : ObjDef :=
  { index := 0x3201, ty := .u16, dflt := 4096, per := .f }
def Obj.SEM_WAIT_POOL : ObjDef :=
  { index := 0x3202, ty := .u32, dflt := 0x10000, per := .f }
def Obj.SEM_SEL_NUMBER : ObjDef :=
  { index := 0x3210, sub := 0x01, ty := .u16, acc := .rw, lo := 0, hi := 4095 }
def Obj.SEM_SEL_COUNT : ObjDef :=
  { index := 0x3210, sub := 0x02, ty := .u32 }
def Obj.SEM_SEL_STATE : ObjDef :=
  { index := 0x3210, sub := 0x03, ty := .enum8 }
def Obj.SEM_SEL_OWNER : ObjDef :=
  { index := 0x3210, sub := 0x04, ty := .u64 }
def Obj.SEM_SEL_WAITERS : ObjDef :=
  { index := 0x3210, sub := 0x05, ty := .u32 }
def Obj.SEM_ACT_COUNT : ObjDef :=
  { index := 0x3211, sub := 0x01, ty := .u32, acc := .rwl }
def Obj.SEM_ACT_GO : ObjDef :=
  { index := 0x3211, sub := 0x02, ty := .u8, acc := .rwl, codes := [0, 1, 2] }
def Obj.SEM_ACT_STATUS : ObjDef :=
  { index := 0x3211, sub := 0x03, ty := .enum8 }
def Obj.HOST_SEM_NUMBER : ObjDef :=
  { index := 0x3214, sub := 0x01, ty := .u16, acc := .rw, lo := 0, hi := 4095 }
def Obj.HOST_SEM_ARG : ObjDef :=
  { index := 0x3214, sub := 0x02, ty := .u32, acc := .rw, dflt := 1, lo := 1, hi := 4294967295 }
def Obj.HOST_SEM_OP : ObjDef :=
  { index := 0x3214, sub := 0x03, ty := .u8, acc := .wo, codes := [1, 2, 3, 4] }
def Obj.HOST_SEM_RESULT : ObjDef :=
  { index := 0x3214, sub := 0x04, ty := .enum8 }
def Obj.SEM_OPS : ObjDef :=
  { index := 0x3220, ty := .u64 }
def Obj.SEM_ORPHANED_NOW : ObjDef :=
  { index := 0x3221, ty := .u16 }
def Obj.SEM_ORPHAN_EVENTS : ObjDef :=
  { index := 0x3222, ty := .u32 }
def Obj.SEM_OVERFLOWS : ObjDef :=
  { index := 0x3223, ty := .u32 }
def Obj.SEM_MISUSE : ObjDef :=
  { index := 0x3224, ty := .u32 }
def Obj.SEM_WAIT_POOL_FULL : ObjDef :=
  { index := 0x3225, ty := .u64 }
def Obj.SEM_WAIT_POOL_MAX : ObjDef :=
  { index := 0x3226, ty := .u32 }
def Obj.QUEUE_SEL_NUMBER : ObjDef :=
  { index := 0x3240, ty := .u16, acc := .rw, lo := 0, hi := 4095 }
def Obj.QUEUE_CFG_BASE : ObjDef :=
  { index := 0x3241, sub := 0x01, ty := .u64, acc := .rwl, per := .w, mult := 4096 }
def Obj.QUEUE_CFG_LOG2_SIZE : ObjDef :=
  { index := 0x3241, sub := 0x02, ty := .u8, acc := .rwl, dflt := 4, per := .w, lo := 4, hi := 16 }
def Obj.QUEUE_CFG_BINDING : ObjDef :=
  { index := 0x3241, sub := 0x03, ty := .enum8, acc := .rwl, per := .w, codes := [0, 1, 2, 3, 4, 5] }
def Obj.QUEUE_CFG_TARGET : ObjDef :=
  { index := 0x3241, sub := 0x04, ty := .u32, acc := .rwl, per := .w }
def Obj.QUEUE_CFG_NOTIFY_SEM : ObjDef :=
  { index := 0x3241, sub := 0x05, ty := .u16, acc := .rwl, dflt := 65535, per := .w }
def Obj.QUEUE_ST_PRODUCER : ObjDef :=
  { index := 0x3242, sub := 0x01, ty := .u32 }
def Obj.QUEUE_ST_CONSUMER : ObjDef :=
  { index := 0x3242, sub := 0x02, ty := .u32 }
def Obj.QUEUE_ST_STATE : ObjDef :=
  { index := 0x3242, sub := 0x03, ty := .enum8 }
def Obj.QUEUE_ST_OVERFLOWS : ObjDef :=
  { index := 0x3242, sub := 0x04, ty := .u32 }
def Obj.QUEUE_ST_REFUSED : ObjDef :=
  { index := 0x3242, sub := 0x05, ty := .u32 }
def Obj.QUEUE_UNROUTED : ObjDef :=
  { index := 0x3250, ty := .u32 }
def Obj.ALMANAC_STATE : ObjDef :=
  { index := 0x4000, ty := .enum8 }
def Obj.ALMANAC_ROLE : ObjDef :=
  { index := 0x4001, ty := .enum8, acc := .rws, per := .c, codes := [0, 1, 2, 3] }
def Obj.ALMANAC_BEAT_NS : ObjDef :=
  { index := 0x4002, ty := .u16, acc := .rws, dflt := 250, per := .c, lo := 128, hi := 1024 }
def Obj.ALMANAC_COUNT : ObjDef :=
  { index := 0x4003, ty := .u64 }
def Obj.ALMANAC_TICK : ObjDef :=
  { index := 0x4004, ty := .u64 }
def Obj.ALMANAC_HELD_BEATS : ObjDef :=
  { index := 0x4005, ty := .u64 }
def Obj.ALMANAC_GRANT : ObjDef :=
  { index := 0x4006, ty := .u64 }
def Obj.ALMANAC_PARENT_PORT : ObjDef :=
  { index := 0x4007, ty := .u8, dflt := 255 }
def Obj.ALMANAC_DEPTH : ObjDef :=
  { index := 0x4008, ty := .u8 }
def Obj.ALMANAC_OFFSET_PS : ObjDef :=
  { index := 0x4009, ty := .i32 }
def Obj.ALMANAC_NEIGHBOUR_SKEW_PS : ObjDef :=
  { index := 0x400A, sub := 0x01, subs := 8, ty := .i32 }
def Obj.ALMANAC_SKEW_LIMIT_NS : ObjDef :=
  { index := 0x400B, ty := .u16, acc := .rws, dflt := 10, per := .c, lo := 1, hi := 100 }
def Obj.ALMANAC_SKEW_ALARMS : ObjDef :=
  { index := 0x400C, ty := .u32 }
def Obj.ALMANAC_SKEW_BOUND_NS : ObjDef :=
  { index := 0x400D, ty := .u16, dflt := 40 }
def Obj.ALMANAC_PATH_TICKS : ObjDef :=
  { index := 0x4010, ty := .u16 }
def Obj.ALMANAC_HORIZON : ObjDef :=
  { index := 0x4011, ty := .u16, dflt := 10 }
def Obj.ALMANAC_HOLD_LEAD : ObjDef :=
  { index := 0x4012, ty := .u16, dflt := 12 }
def Obj.ALMANAC_LOSS_TICKS : ObjDef :=
  { index := 0x4013, ty := .u16, acc := .rws, dflt := 64, per := .c, lo := 32, hi := 4096 }
def Obj.ALMANAC_HOLD_LIMIT_MS : ObjDef :=
  { index := 0x4014, ty := .u32, acc := .rws, dflt := 10000, per := .c, lo := 1, hi := 3600000 }
def Obj.HOLD_RAISED : ObjDef :=
  { index := 0x4020, ty := .u64 }
def Obj.HOLD_ACTIVE : ObjDef :=
  { index := 0x4021, ty := .bool }
def Obj.HOLD_LAST_BEAT : ObjDef :=
  { index := 0x4022, ty := .u64 }
def Obj.HOLD_LAST_REASON : ObjDef :=
  { index := 0x4023, ty := .enum8 }
def Obj.HOLD_LAST_SOURCE : ObjDef :=
  { index := 0x4024, ty := .u16, dflt := 65535 }
def Obj.HOLD_TICKS_SELF : ObjDef :=
  { index := 0x4025, ty := .u64 }
def Obj.PTP_ASSOC_EN : ObjDef :=
  { index := 0x4030, ty := .bool, acc := .rws, per := .c }
def Obj.PTP_ASSOC_PORT : ObjDef :=
  { index := 0x4031, ty := .enum8, acc := .rws, per := .c, codes := [0, 1] }
def Obj.PTP_FREQ_PPB : ObjDef :=
  { index := 0x4032, ty := .i32 }
def Obj.PTP_STAMP_EPOCH : ObjDef :=
  { index := 0x4033, sub := 0x01, ty := .u32 }
def Obj.PTP_STAMP_SECONDS : ObjDef :=
  { index := 0x4033, sub := 0x02, ty := .u64 }
def Obj.PTP_STAMP_NS : ObjDef :=
  { index := 0x4033, sub := 0x03, ty := .u32 }
def Obj.PTP_STATE : ObjDef :=
  { index := 0x4034, ty := .enum8 }
def Obj.EPOCH_BEATS : ObjDef :=
  { index := 0x4100, ty := .u32, acc := .rws, dflt := 0x10000, per := .w, lo := 1024, hi := 16777216 }
def Obj.STEP_EPOCHS : ObjDef :=
  { index := 0x4101, ty := .u16, acc := .rws, dflt := 1, per := .w, lo := 1, hi := 65535 }
def Obj.STEP_PHASE : ObjDef :=
  { index := 0x4102, ty := .u16, acc := .rws, per := .w }
def Obj.SCHED_EPOCH : ObjDef :=
  { index := 0x4103, ty := .u32 }
def Obj.SCHED_BEAT_IN_EPOCH : ObjDef :=
  { index := 0x4104, ty := .u32 }
def Obj.SCHED_E0_COUNT : ObjDef :=
  { index := 0x4105, ty := .u64 }
def Obj.SCHED_E0 : ObjDef :=
  { index := 0x4106, ty := .u32 }
def Obj.SCHED_START : ObjDef :=
  { index := 0x4110, ty := .u32, acc := .wo }
def Obj.SCHED_STOP : ObjDef :=
  { index := 0x4111, ty := .u8, acc := .wo, codes := [1] }
def Obj.SCHED_STOP_BEAT : ObjDef :=
  { index := 0x4112, ty := .u64 }
def Obj.SCHED_STOP_REASON : ObjDef :=
  { index := 0x4113, ty := .u16 }
def Obj.FURROW_LOAD_TABLE : ObjDef :=
  { index := 0x4120, sub := 0x01, ty := .u16, acc := .rwl, lo := 0, hi := 811 }
def Obj.FURROW_LOAD_BANK : ObjDef :=
  { index := 0x4120, sub := 0x02, ty := .u8, acc := .rwl, codes := [0, 1] }
def Obj.FURROW_LOAD_SRC : ObjDef :=
  { index := 0x4120, sub := 0x03, ty := .u64, acc := .rwl, mult := 16 }
def Obj.FURROW_LOAD_ENTRIES : ObjDef :=
  { index := 0x4120, sub := 0x04, ty := .u16, acc := .rwl }
def Obj.FURROW_LOAD_SWAP_EPOCH : ObjDef :=
  { index := 0x4120, sub := 0x05, ty := .u32, acc := .rwl, dflt := 0xffffffff }
def Obj.FURROW_LOAD_GO : ObjDef :=
  { index := 0x4120, sub := 0x06, ty := .u8, acc := .wo, codes := [1, 2] }
def Obj.FURROW_LOAD_STATUS : ObjDef :=
  { index := 0x4120, sub := 0x07, ty := .enum8 }
def Obj.FURROW_LOAD_BAD_ENTRY : ObjDef :=
  { index := 0x4120, sub := 0x08, ty := .u16, dflt := 65535 }
def Obj.FURROW_QUERY_TABLE : ObjDef :=
  { index := 0x4121, sub := 0x01, ty := .u16, acc := .rw }
def Obj.FURROW_QUERY_ACTIVE : ObjDef :=
  { index := 0x4121, sub := 0x02, ty := .u8 }
def Obj.FURROW_QUERY_SWAP_EPOCH : ObjDef :=
  { index := 0x4121, sub := 0x03, ty := .u32, dflt := 0xffffffff }
def Obj.FURROW_QUERY_ENTRIES0 : ObjDef :=
  { index := 0x4121, sub := 0x04, ty := .u16 }
def Obj.FURROW_QUERY_ENTRIES1 : ObjDef :=
  { index := 0x4121, sub := 0x05, ty := .u16 }
def Obj.FURROW_QUERY_NEXT : ObjDef :=
  { index := 0x4121, sub := 0x06, ty := .u16 }
def Obj.FURROW_READ_TABLE : ObjDef :=
  { index := 0x4122, sub := 0x01, ty := .u16, acc := .rw }
def Obj.FURROW_READ_BANK : ObjDef :=
  { index := 0x4122, sub := 0x02, ty := .u8, acc := .rw, codes := [0, 1] }
def Obj.FURROW_READ_INDEX : ObjDef :=
  { index := 0x4122, sub := 0x03, ty := .u16, acc := .rw }
def Obj.FURROW_READ_LO : ObjDef :=
  { index := 0x4122, sub := 0x04, ty := .u64 }
def Obj.FURROW_READ_HI : ObjDef :=
  { index := 0x4122, sub := 0x05, ty := .u64 }
def Obj.SCHED_OVERRUNS : ObjDef :=
  { index := 0x4130, ty := .u32 }
def Obj.SCHED_OVERRUN_TABLE : ObjDef :=
  { index := 0x4131, ty := .u16, dflt := 65535 }
def Obj.SCHED_OVERRUN_ENTRY : ObjDef :=
  { index := 0x4132, ty := .u16, dflt := 65535 }
def Obj.SCHED_OVERRUN_BEAT : ObjDef :=
  { index := 0x4133, ty := .u64 }
def Obj.SCHED_LATE_HOLDS : ObjDef :=
  { index := 0x4134, ty := .u32 }
def Obj.SCHED_CROSS_EPOCH_WAITS : ObjDef :=
  { index := 0x4135, ty := .u32 }
def Obj.SCHED_SWAPS : ObjDef :=
  { index := 0x4136, ty := .u64 }
def Obj.LINK_COORD_X : ObjDef :=
  { index := 0x4200, ty := .u8, acc := .rws, per := .c }
def Obj.LINK_COORD_Y : ObjDef :=
  { index := 0x4201, ty := .u8, acc := .rws, per := .c }
def Obj.LINK_COORD_Z : ObjDef :=
  { index := 0x4202, ty := .u8, acc := .rws, per := .c }
def Obj.LINK_COORD_W : ObjDef :=
  { index := 0x4203, ty := .u8, acc := .rws, per := .c }
def Obj.LINK_EXT_X : ObjDef :=
  { index := 0x4204, ty := .u8, acc := .rws, dflt := 1, per := .c, codes := [1, 2, 4] }
def Obj.LINK_EXT_Y : ObjDef :=
  { index := 0x4205, ty := .u8, acc := .rws, dflt := 1, per := .c, codes := [1, 2, 4] }
def Obj.LINK_EXT_Z : ObjDef :=
  { index := 0x4206, ty := .u8, acc := .rws, dflt := 1, per := .c, codes := [1, 2, 4, 8] }
def Obj.LINK_EXT_W : ObjDef :=
  { index := 0x4207, ty := .u8, acc := .rws, dflt := 1, per := .c, codes := [1, 2, 4, 8] }
def Obj.LINK_FIELD_NUMBER : ObjDef :=
  { index := 0x4208, ty := .u8, acc := .rws, per := .c }
def Obj.LINK_FIELDS : ObjDef :=
  { index := 0x4209, ty := .u8, acc := .rws, dflt := 1, per := .c, codes := [1, 2, 4, 8, 16, 32, 64] }
def Obj.LINK_RANK : ObjDef :=
  { index := 0x420A, ty := .u16 }
def Obj.PORT_ENABLE : ObjDef :=
  { index := 0x4210, reps := 8, sub := 0x01, ty := .bool, acc := .rws, dflt := 1, per := .c }
def Obj.PORT_STATE : ObjDef :=
  { index := 0x4210, reps := 8, sub := 0x02, ty := .enum8 }
def Obj.PORT_FAULT_REASON : ObjDef :=
  { index := 0x4210, reps := 8, sub := 0x03, ty := .enum8 }
def Obj.PORT_PARTNER : ObjDef :=
  { index := 0x4210, reps := 8, sub := 0x04, ty := .u32, dflt := 0xffffffff }
def Obj.PORT_FEC_CORRECTED : ObjDef :=
  { index := 0x4210, reps := 8, sub := 0x05, ty := .u64 }
def Obj.PORT_FEC_UNCORRECTED : ObjDef :=
  { index := 0x4210, reps := 8, sub := 0x06, ty := .u64 }
def Obj.PORT_REPLAYS : ObjDef :=
  { index := 0x4210, reps := 8, sub := 0x07, ty := .u64 }
def Obj.PORT_CE : ObjDef :=
  { index := 0x4210, reps := 8, sub := 0x08, ty := .u64 }
def Obj.PORT_TX_BYTES : ObjDef :=
  { index := 0x4210, reps := 8, sub := 0x09, ty := .u64 }
def Obj.PORT_RX_BYTES : ObjDef :=
  { index := 0x4210, reps := 8, sub := 0x0A, ty := .u64 }
def Obj.PORT_RETRAINS : ObjDef :=
  { index := 0x4210, reps := 8, sub := 0x0B, ty := .u32 }
def Obj.PORT_LASER_UW : ObjDef :=
  { index := 0x4210, reps := 8, sub := 0x0C, ty := .u32 }
def Obj.PORT_RTT_NS : ObjDef :=
  { index := 0x4210, reps := 8, sub := 0x0D, ty := .u32 }
def Obj.PORT_LENGTH_DM : ObjDef :=
  { index := 0x4210, reps := 8, sub := 0x0E, ty := .u16 }
def Obj.PORT_RETRAIN : ObjDef :=
  { index := 0x4210, reps := 8, sub := 0x0F, ty := .u8, acc := .wo, codes := [1], noRun := true }
def Obj.LINK_FEC_ALARM : ObjDef :=
  { index := 0x4220, ty := .u32, acc := .rws, dflt := 10, per := .c, lo := 1, hi := 1000000 }
def Obj.LINK_TRAIN_TIMEOUT_MS : ObjDef :=
  { index := 0x4221, ty := .u16, acc := .rws, dflt := 200, per := .c, lo := 50, hi := 5000 }
def Obj.LINK_RX_BUFFER_KIB : ObjDef :=
  { index := 0x4222, ty := .u16, dflt := 512, per := .f }
def Obj.LINK_VC_RESERVE_KIB : ObjDef :=
  { index := 0x4223, ty := .u16, dflt := 8, per := .f }
def Obj.ETH_MODE : ObjDef :=
  { index := 0x4300, reps := 2, sub := 0x01, ty := .enum8, acc := .rwl, dflt := 1, per := .c, codes := [0, 1, 2, 3, 4, 5, 6], noRun := true }
def Obj.ETH_LINK_STATE : ObjDef :=
  { index := 0x4300, reps := 2, sub := 0x02, ty := .enum8 }
def Obj.ETH_MAC_ADDR : ObjDef :=
  { index := 0x4300, reps := 2, sub := 0x03, ty := .u64, per := .f }
def Obj.ETH_MTU : ObjDef :=
  { index := 0x4300, reps := 2, sub := 0x04, ty := .u16, acc := .rwl, dflt := 9000, per := .c, lo := 1500, hi := 9216, noRun := true }
def Obj.ETH_VLAN_ID : ObjDef :=
  { index := 0x4300, reps := 2, sub := 0x05, ty := .u16, acc := .rwl, per := .c, lo := 0, hi := 4094, noRun := true }
def Obj.ETH_IPV4_ADDR : ObjDef :=
  { index := 0x4300, reps := 2, sub := 0x06, ty := .u32, acc := .rwl, per := .c, noRun := true }
def Obj.ETH_IPV4_PREFIX : ObjDef :=
  { index := 0x4300, reps := 2, sub := 0x07, ty := .u8, acc := .rwl, per := .c, lo := 0, hi := 32, noRun := true }
def Obj.ETH_IPV4_GATEWAY : ObjDef :=
  { index := 0x4300, reps := 2, sub := 0x08, ty := .u32, acc := .rwl, per := .c, noRun := true }
def Obj.ETH_IPV6_ADDR_HI : ObjDef :=
  { index := 0x4300, reps := 2, sub := 0x09, ty := .u64, acc := .rwl, per := .c, noRun := true }
def Obj.ETH_IPV6_ADDR_LO : ObjDef :=
  { index := 0x4300, reps := 2, sub := 0x0A, ty := .u64, acc := .rwl, per := .c, noRun := true }
def Obj.ETH_IPV6_PREFIX : ObjDef :=
  { index := 0x4300, reps := 2, sub := 0x0B, ty := .u8, acc := .rwl, dflt := 64, per := .c, lo := 0, hi := 128, noRun := true }
def Obj.ETH_IPV6_GW_HI : ObjDef :=
  { index := 0x4300, reps := 2, sub := 0x0C, ty := .u64, acc := .rwl, per := .c, noRun := true }
def Obj.ETH_IPV6_GW_LO : ObjDef :=
  { index := 0x4300, reps := 2, sub := 0x0D, ty := .u64, acc := .rwl, per := .c, noRun := true }
def Obj.ETH_ROCE_PRIO : ObjDef :=
  { index := 0x4300, reps := 2, sub := 0x0E, ty := .u8, acc := .rwl, dflt := 3, per := .c, lo := 0, hi := 7, noRun := true }
def Obj.ETH_ROCE_DSCP : ObjDef :=
  { index := 0x4300, reps := 2, sub := 0x0F, ty := .u8, acc := .rwl, dflt := 26, per := .c, lo := 0, hi := 63, noRun := true }
def Obj.ETH_YDP_DSCP : ObjDef :=
  { index := 0x4300, reps := 2, sub := 0x10, ty := .u8, acc := .rwl, dflt := 16, per := .c, lo := 0, hi := 63, noRun := true }
def Obj.ETH_PFC_ENABLE : ObjDef :=
  { index := 0x4300, reps := 2, sub := 0x11, ty := .u8, acc := .rwl, dflt := 8, per := .c, noRun := true }
def Obj.ETH_ECN_EN : ObjDef :=
  { index := 0x4300, reps := 2, sub := 0x12, ty := .bool, acc := .rwl, dflt := 1, per := .c, noRun := true }
def Obj.ETH_PTP_DOMAIN : ObjDef :=
  { index := 0x4300, reps := 2, sub := 0x13, ty := .u8, acc := .rwl, per := .c, lo := 0, hi := 127, noRun := true }
def Obj.ETH_RESTART : ObjDef :=
  { index := 0x4300, reps := 2, sub := 0x14, ty := .u8, acc := .wo, codes := [1] }
def Obj.ETH_RX_FRAMES : ObjDef :=
  { index := 0x4300, reps := 2, sub := 0x20, ty := .u64 }
def Obj.ETH_TX_FRAMES : ObjDef :=
  { index := 0x4300, reps := 2, sub := 0x21, ty := .u64 }
def Obj.ETH_RX_FCS_ERRORS : ObjDef :=
  { index := 0x4300, reps := 2, sub := 0x22, ty := .u64 }
def Obj.ETH_RX_DROPS : ObjDef :=
  { index := 0x4300, reps := 2, sub := 0x23, ty := .u64 }
def Obj.ETH_FEC_CORRECTED : ObjDef :=
  { index := 0x4300, reps := 2, sub := 0x24, ty := .u64 }
def Obj.ETH_FEC_UNCORRECTED : ObjDef :=
  { index := 0x4300, reps := 2, sub := 0x25, ty := .u64 }
def Obj.ETH_PFC_RX : ObjDef :=
  { index := 0x4300, reps := 2, sub := 0x26, ty := .u64 }
def Obj.ETH_PFC_TX : ObjDef :=
  { index := 0x4300, reps := 2, sub := 0x27, ty := .u64 }
def Obj.ETH_PFC_STORMS : ObjDef :=
  { index := 0x4300, reps := 2, sub := 0x28, ty := .u32 }
def Obj.ETH_CNP_TX : ObjDef :=
  { index := 0x4300, reps := 2, sub := 0x29, ty := .u64 }
def Obj.ETH_CNP_RX : ObjDef :=
  { index := 0x4300, reps := 2, sub := 0x2A, ty := .u64 }
def Obj.QP_SEL : ObjDef :=
  { index := 0x4320, ty := .u16, acc := .rw, lo := 0, hi := 1023 }
def Obj.QP_STATE : ObjDef :=
  { index := 0x4321, sub := 0x01, ty := .enum8, acc := .rwl, codes := [0, 1, 2], noRun := true }
def Obj.QP_PORT : ObjDef :=
  { index := 0x4321, sub := 0x02, ty := .enum8, acc := .rwl, codes := [0, 1], noRun := true }
def Obj.QP_REMOTE_QPN : ObjDef :=
  { index := 0x4321, sub := 0x03, ty := .u32, acc := .rwl, resv := 0xff000000, noRun := true }
def Obj.QP_REMOTE_IP_HI : ObjDef :=
  { index := 0x4321, sub := 0x04, ty := .u64, acc := .rwl, noRun := true }
def Obj.QP_REMOTE_IP_LO : ObjDef :=
  { index := 0x4321, sub := 0x05, ty := .u64, acc := .rwl, noRun := true }
def Obj.QP_RQ_PSN : ObjDef :=
  { index := 0x4321, sub := 0x06, ty := .u32, acc := .rwl, resv := 0xff000000, noRun := true }
def Obj.QP_PMTU : ObjDef :=
  { index := 0x4321, sub := 0x07, ty := .enum8, acc := .rwl, dflt := 2, codes := [0, 1, 2], noRun := true }
def Obj.QP_UDP_SPORT : ObjDef :=
  { index := 0x4321, sub := 0x08, ty := .u16, acc := .rwl, dflt := 49152, noRun := true }
def Obj.QP_ERROR_CAUSE : ObjDef :=
  { index := 0x4321, sub := 0x09, ty := .enum8 }
def Obj.QP_RX_BYTES : ObjDef :=
  { index := 0x4321, sub := 0x0A, ty := .u64 }
def Obj.MR_SEL : ObjDef :=
  { index := 0x4330, ty := .u8, acc := .rw, lo := 0, hi := 63 }
def Obj.MR_BASE : ObjDef :=
  { index := 0x4331, sub := 0x01, ty := .u64, acc := .rwl, per := .w, mult := 64, noRun := true }
def Obj.MR_LENGTH : ObjDef :=
  { index := 0x4331, sub := 0x02, ty := .u64, acc := .rwl, per := .w, noRun := true }
def Obj.MR_RKEY : ObjDef :=
  { index := 0x4331, sub := 0x03, ty := .u32, acc := .rwl, per := .w, noRun := true }
def Obj.MR_ACCESS : ObjDef :=
  { index := 0x4331, sub := 0x04, ty := .u8, acc := .rwl, per := .w, resv := 0xfc, noRun := true }
def Obj.MR_EN : ObjDef :=
  { index := 0x4331, sub := 0x05, ty := .bool, acc := .rwl, per := .w, noRun := true }
def Obj.ROCE_QPS : ObjDef :=
  { index := 0x4340, ty := .u16, dflt := 1024, per := .f }
def Obj.ROCE_ACCESS_ERRORS : ObjDef :=
  { index := 0x4341, ty := .u32 }
def Obj.ROCE_CNP_INTERVAL_US : ObjDef :=
  { index := 0x4342, ty := .u16, acc := .rwl, dflt := 50, per := .c, lo := 1, hi := 1000, noRun := true }
def Obj.ETH_RX_BUFFER_KIB : ObjDef :=
  { index := 0x4343, ty := .u16, dflt := 1024, per := .f }
def Obj.NUMERIC_POLICY : ObjDef :=
  { index := 0x5000, ty := .enum8, acc := .rws, per := .c, codes := [0, 1, 2] }
def Obj.SROUND_PERMIT : ObjDef :=
  { index := 0x5001, ty := .bool, acc := .rws, dflt := 1, per := .c }
def Obj.WINNOW_JOB_SEED : ObjDef :=
  { index := 0x5010, ty := .u64, acc := .rwl, per := .w, noRun := true }
def Obj.WINNOW_STEP : ObjDef :=
  { index := 0x5011, ty := .u32, acc := .rwl, per := .w, noRun := true }
def Obj.WINNOW_PROBE_SEED : ObjDef :=
  { index := 0x5012, sub := 0x01, ty := .u64, acc := .rw }
def Obj.WINNOW_PROBE_STEP : ObjDef :=
  { index := 0x5012, sub := 0x02, ty := .u32, acc := .rw }
def Obj.WINNOW_PROBE_TID : ObjDef :=
  { index := 0x5012, sub := 0x03, ty := .u32, acc := .rw, resv := 0xff000000 }
def Obj.WINNOW_PROBE_PURPOSE : ObjDef :=
  { index := 0x5012, sub := 0x04, ty := .u8, acc := .rw, dflt := 1, codes := [1, 2, 3, 4, 5] }
def Obj.WINNOW_PROBE_INDEX : ObjDef :=
  { index := 0x5012, sub := 0x05, ty := .u64, acc := .rw, resv := 0xffff000000000000 }
def Obj.WINNOW_PROBE_DRAW : ObjDef :=
  { index := 0x5012, sub := 0x06, ty := .u32, acc := .rw }
def Obj.WINNOW_PROBE_BLOCK_LO : ObjDef :=
  { index := 0x5012, sub := 0x07, ty := .u64 }
def Obj.WINNOW_PROBE_BLOCK_HI : ObjDef :=
  { index := 0x5012, sub := 0x08, ty := .u64 }
def Obj.WINNOW_PROBE_DRAW_VALUE : ObjDef :=
  { index := 0x5012, sub := 0x09, ty := .u16 }
def Obj.SCALE_TABLE_BASE : ObjDef :=
  { index := 0x5020, ty := .u64, acc := .rwl, per := .w, mult := 64, noRun := true }
def Obj.SCALE_SLOTS : ObjDef :=
  { index := 0x5021, ty := .u16, acc := .rwl, per := .w, lo := 0, hi := 4096, noRun := true }
def Obj.SCALE_MARGIN_DEFAULT : ObjDef :=
  { index := 0x5022, ty := .u8, acc := .rwl, dflt := 1, per := .w, lo := 0, hi := 7 }
def Obj.SCALE_LAST_STEP : ObjDef :=
  { index := 0x5023, ty := .u32, dflt := 0xffffffff }
def Obj.SCALE_ERRORS : ObjDef :=
  { index := 0x5024, ty := .u32 }
def Obj.NUMERIC_FLAGS_ANY : ObjDef :=
  { index := 0x5030, ty := .u8 }
def Obj.NUMERIC_FLAGS_CLEAR : ObjDef :=
  { index := 0x5031, ty := .u8, acc := .wo, resv := 0x80 }
def Obj.SATURATION_TOTAL : ObjDef :=
  { index := 0x5032, ty := .u64 }
def Obj.MATRIX_BLOCK_DIM : ObjDef :=
  { index := 0x5100, ty := .u8, dflt := 64, per := .f }
def Obj.MATRIX_OPS_DONE : ObjDef :=
  { index := 0x5101, ty := .u64 }
def Obj.MATRIX_STEPS_DONE : ObjDef :=
  { index := 0x5102, ty := .u64 }
def Obj.MATRIX_REFUSED : ObjDef :=
  { index := 0x5103, ty := .u32 }
def Obj.MATRIX_ABANDONED : ObjDef :=
  { index := 0x5104, ty := .u32 }
def Obj.MATRIX_GATE_IDLE_CYCLES : ObjDef :=
  { index := 0x5110, ty := .u16, acc := .rws, dflt := 256, per := .c }
def Obj.MATRIX_SELFTEST_RUN : ObjDef :=
  { index := 0x5120, ty := .u8, acc := .wo, codes := [1] }
def Obj.MATRIX_SELFTEST_STATE : ObjDef :=
  { index := 0x5121, ty := .enum8 }
def Obj.MATRIX_SELFTEST_FAILS : ObjDef :=
  { index := 0x5122, ty := .u16 }
def Obj.MATRIX_SELFTEST_FIRST_CORE : ObjDef :=
  { index := 0x5123, ty := .u16, dflt := 65535 }
def Obj.VECTOR_LANES : ObjDef :=
  { index := 0x5200, ty := .u8, dflt := 128, per := .f }
def Obj.VECTOR_MAX_VL : ObjDef :=
  { index := 0x5201, ty := .u16, dflt := 8192, per := .f }
def Obj.VECTOR_REGS : ObjDef :=
  { index := 0x5202, ty := .u8, dflt := 16, per := .f }
def Obj.MASK_REGS : ObjDef :=
  { index := 0x5203, ty := .u8, dflt := 8, per := .f }
def Obj.CONTEXTS_PER_CORE : ObjDef :=
  { index := 0x5204, ty := .u16, dflt := 2048, per := .f }
def Obj.VECTOR_OPS_DONE : ObjDef :=
  { index := 0x5210, ty := .u64 }
def Obj.VECTOR_REFUSED : ObjDef :=
  { index := 0x5211, ty := .u32 }
def Obj.KERNELS_FAULTED : ObjDef :=
  { index := 0x5212, ty := .u32 }
def Obj.NOEXC_SUBSTITUTIONS : ObjDef :=
  { index := 0x5213, ty := .u64 }
def Obj.CONTEXTS_BUSY_MAX : ObjDef :=
  { index := 0x5214, ty := .u16 }
def Obj.VECTOR_ABANDONED : ObjDef :=
  { index := 0x5215, ty := .u32 }
def Obj.VECTOR_GATE_IDLE_CYCLES : ObjDef :=
  { index := 0x5220, ty := .u16, acc := .rws, dflt := 256, per := .c }
def Obj.CTX_QUERY_CORE : ObjDef :=
  { index := 0x5230, sub := 0x01, ty := .u16, acc := .rw, lo := 0, hi := 799 }
def Obj.CTX_QUERY_CTX : ObjDef :=
  { index := 0x5230, sub := 0x02, ty := .u16, acc := .rw, lo := 0, hi := 2047 }
def Obj.CTX_QUERY_STATE : ObjDef :=
  { index := 0x5230, sub := 0x03, ty := .enum8 }
def Obj.CTX_QUERY_PC : ObjDef :=
  { index := 0x5230, sub := 0x04, ty := .u64 }
def Obj.CTX_QUERY_NOEXC_STATUS : ObjDef :=
  { index := 0x5230, sub := 0x05, ty := .u32 }
def Obj.CTX_QUERY_OP_TAG : ObjDef :=
  { index := 0x5230, sub := 0x06, ty := .u32 }
def Obj.SWIN_OPS_DONE : ObjDef :=
  { index := 0x5300, ty := .u64 }
def Obj.SWIN_REFUSED : ObjDef :=
  { index := 0x5301, ty := .u32 }
def Obj.SWIN_WINOGRAD_OPS : ObjDef :=
  { index := 0x5302, ty := .u64 }
def Obj.SWIN_POOL_OPS : ObjDef :=
  { index := 0x5303, ty := .u64 }
def Obj.SWIN_ABANDONED : ObjDef :=
  { index := 0x5304, ty := .u32 }
def Obj.SWIN_DIAGONAL_BLOCKS : ObjDef :=
  { index := 0x5305, ty := .u64 }
def Obj.SWIN_PLAIN_BLOCKS : ObjDef :=
  { index := 0x5306, ty := .u64 }
def Obj.SWIN_INPUT_BYTES : ObjDef :=
  { index := 0x5307, ty := .u64 }
def Obj.SWIN_WINOGRAD_PERMIT : ObjDef :=
  { index := 0x5310, ty := .bool, acc := .rws, dflt := 1, per := .c }
def Obj.SWIN_DIAGONAL_PERMIT : ObjDef :=
  { index := 0x5311, ty := .bool, acc := .rws, dflt := 1, per := .c }
def Obj.ATTN_OPS_DONE : ObjDef :=
  { index := 0x5400, ty := .u64 }
def Obj.ATTN_REFUSED : ObjDef :=
  { index := 0x5401, ty := .u32 }
def Obj.ATTN_ABANDONED : ObjDef :=
  { index := 0x5402, ty := .u32 }
def Obj.ATTN_STRIPS_DONE : ObjDef :=
  { index := 0x5403, ty := .u64 }
def Obj.ATTN_RESCALES : ObjDef :=
  { index := 0x5404, ty := .u64 }
def Obj.ATTN_EMPTY_ROWS : ObjDef :=
  { index := 0x5405, ty := .u64 }
def Obj.ATTN_EMPTY_FLAG : ObjDef :=
  { index := 0x5406, ty := .bool, acc := .rw, codes := [0] }
def Obj.ATTN_MERGES_DONE : ObjDef :=
  { index := 0x5407, ty := .u64 }
def Obj.ATTN_MAX_POSITIONS : ObjDef :=
  { index := 0x5410, ty := .u32, dflt := 0x800000, per := .f }
def Obj.ATTN_MAX_STRIP : ObjDef :=
  { index := 0x5411, ty := .u16, dflt := 16384, per := .f }
def Obj.ATTN_MAX_HEAD_DIM : ObjDef :=
  { index := 0x5412, ty := .u16, dflt := 256, per := .f }
def Obj.CRIB_POOL_BASE : ObjDef :=
  { index := 0x5420, ty := .u64, acc := .rwl, per := .w, mult := 4096, noRun := true }
def Obj.CRIB_POOL_PAGES : ObjDef :=
  { index := 0x5421, ty := .u32, acc := .rwl, per := .w, lo := 0, hi := 16777216, noRun := true }
def Obj.CRIB_PAGE_DIM : ObjDef :=
  { index := 0x5422, ty := .u16, acc := .rwl, dflt := 128, per := .w, lo := 1, hi := 256, noRun := true }
def Obj.CRIB_PAGE_KV_HEADS : ObjDef :=
  { index := 0x5423, ty := .u8, acc := .rwl, dflt := 1, per := .w, lo := 1, hi := 64, noRun := true }
def Obj.CRIB_PAGE_FMT : ObjDef :=
  { index := 0x5424, ty := .enum8, acc := .rwl, per := .w, codes := [0, 1], noRun := true }
def Obj.CRIB_K_SCALE : ObjDef :=
  { index := 0x5425, ty := .i32, acc := .rwl, per := .w, lo := -128, hi := 127, noRun := true }
def Obj.CRIB_V_SCALE : ObjDef :=
  { index := 0x5426, ty := .i32, acc := .rwl, per := .w, lo := -128, hi := 127, noRun := true }
def Obj.CRIB_META_BASE : ObjDef :=
  { index := 0x5427, ty := .u64, acc := .rwl, per := .w, mult := 64, noRun := true }
def Obj.CRIB_PAGE_BYTES : ObjDef :=
  { index := 0x5428, ty := .u32, dflt := 0x20000, per := .w }
def Obj.CRIB_POOL_INIT : ObjDef :=
  { index := 0x5429, ty := .u8, acc := .wo, codes := [1, 2] }
def Obj.CRIB_POOL_STATE : ObjDef :=
  { index := 0x542A, ty := .enum8 }
def Obj.CRIB_PAGES_FREE : ObjDef :=
  { index := 0x542B, ty := .u32 }
def Obj.CRIB_PAGES_PENDING : ObjDef :=
  { index := 0x542C, ty := .u32 }
def Obj.CRIB_PAGES_FREE_MIN : ObjDef :=
  { index := 0x542D, ty := .u32 }
def Obj.CRIB_COPIES : ObjDef :=
  { index := 0x542E, ty := .u64 }
def Obj.CRIB_FENCES_OPEN : ObjDef :=
  { index := 0x542F, ty := .u16 }
def Obj.CRIB_NEXT_FENCE : ObjDef :=
  { index := 0x5430, ty := .u64 }
def Obj.CRIB_FAILS : ObjDef :=
  { index := 0x5431, ty := .u32 }
def Obj.UPDATE_ELEMS_PER_CYCLE : ObjDef :=
  { index := 0x6000, ty := .u8, dflt := 32, per := .f }
def Obj.UPDATE_MAX_ARMED : ObjDef :=
  { index := 0x6001, ty := .u8, dflt := 16, per := .f }
def Obj.UPDATE_OPS_DONE : ObjDef :=
  { index := 0x6002, ty := .u64 }
def Obj.UPDATE_REFUSED : ObjDef :=
  { index := 0x6003, ty := .u32 }
def Obj.UPDATE_ELEMS_DONE : ObjDef :=
  { index := 0x6004, ty := .u64 }
def Obj.UPDATE_SKIPS : ObjDef :=
  { index := 0x6005, ty := .u32 }
def Obj.UPDATE_FAULTS : ObjDef :=
  { index := 0x6006, ty := .u32 }
def Obj.UPDATE_LATE_NONFINITE : ObjDef :=
  { index := 0x6007, ty := .u32 }
def Obj.UPDATE_ABANDONED : ObjDef :=
  { index := 0x6008, ty := .u32 }
def Obj.UPDATE_SATURATIONS : ObjDef :=
  { index := 0x6009, ty := .u64 }
def Obj.UPDATE_FLAGS_CD0 : ObjDef :=
  { index := 0x600A, sub := 0x01, ty := .u8 }
def Obj.UPDATE_FLAGS_CD1 : ObjDef :=
  { index := 0x600A, sub := 0x02, ty := .u8 }
def Obj.UPDATE_FLAGS_CLEAR : ObjDef :=
  { index := 0x600B, ty := .u8, acc := .wo, resv := 0x80 }
def Obj.UPDATE_STALL_CYCLES : ObjDef :=
  { index := 0x600C, ty := .u64 }
def Obj.GROUP_ENABLE : ObjDef :=
  { index := 0x6100, reps := 256, sub := 0x01, ty := .bool, acc := .rwl, per := .w, noRun := true }
def Obj.GROUP_LR : ObjDef :=
  { index := 0x6100, reps := 256, sub := 0x02, ty := .f32, acc := .rwl, per := .w, noRun := true }
def Obj.GROUP_BETA1 : ObjDef :=
  { index := 0x6100, reps := 256, sub := 0x03, ty := .f32, acc := .rwl, dflt := 0x3f666666, per := .w, noRun := true }
def Obj.GROUP_BETA2 : ObjDef :=
  { index := 0x6100, reps := 256, sub := 0x04, ty := .f32, acc := .rwl, dflt := 0x3f7fbe77, per := .w, noRun := true }
def Obj.GROUP_EPS : ObjDef :=
  { index := 0x6100, reps := 256, sub := 0x05, ty := .f32, acc := .rwl, dflt := 0x322bcc77, per := .w, noRun := true }
def Obj.GROUP_WDECAY : ObjDef :=
  { index := 0x6100, reps := 256, sub := 0x06, ty := .f32, acc := .rwl, per := .w, noRun := true }
def Obj.GROUP_CLIP : ObjDef :=
  { index := 0x6100, reps := 256, sub := 0x07, ty := .f32, acc := .rwl, per := .w, noRun := true }
def Obj.GROUP_GMUL : ObjDef :=
  { index := 0x6100, reps := 256, sub := 0x08, ty := .f32, acc := .rwl, dflt := 0x3f800000, per := .w, noRun := true }
def Obj.GROUP_NAN_POLICY : ObjDef :=
  { index := 0x6100, reps := 256, sub := 0x09, ty := .enum8, acc := .rwl, per := .w, codes := [0, 1, 2], noRun := true }
def Obj.GROUP_WROUND : ObjDef :=
  { index := 0x6100, reps := 256, sub := 0x0A, ty := .bool, acc := .rwl, per := .w, noRun := true }
def Obj.GROUP_WSCALE_MODE : ObjDef :=
  { index := 0x6100, reps := 256, sub := 0x0B, ty := .enum8, acc := .rwl, per := .w, codes := [0, 1], noRun := true }
def Obj.GROUP_WMARGIN : ObjDef :=
  { index := 0x6100, reps := 256, sub := 0x0C, ty := .u8, acc := .rwl, dflt := 1, per := .w, lo := 1, hi := 7, noRun := true }
def Obj.GROUP_MASTER_BASE : ObjDef :=
  { index := 0x6100, reps := 256, sub := 0x10, ty := .u64, acc := .rwl, per := .w, noRun := true }
def Obj.GROUP_WORK_BASE : ObjDef :=
  { index := 0x6100, reps := 256, sub := 0x11, ty := .u64, acc := .rwl, per := .w, noRun := true }
def Obj.GROUP_MOM1_BASE : ObjDef :=
  { index := 0x6100, reps := 256, sub := 0x12, ty := .u64, acc := .rwl, per := .w, noRun := true }
def Obj.GROUP_MOM2_BASE : ObjDef :=
  { index := 0x6100, reps := 256, sub := 0x13, ty := .u64, acc := .rwl, per := .w, noRun := true }
def Obj.GROUP_ELEMS : ObjDef :=
  { index := 0x6100, reps := 256, sub := 0x14, ty := .u64, acc := .rwl, per := .w, lo := 0, hi := 274877906944, noRun := true }
def Obj.GROUP_KEY_ORG : ObjDef :=
  { index := 0x6100, reps := 256, sub := 0x15, ty := .u64, acc := .rwl, per := .w, noRun := true }
def Obj.GROUP_WORK_TID : ObjDef :=
  { index := 0x6100, reps := 256, sub := 0x16, ty := .u32, acc := .rwl, per := .w, resv := 0xff000000, noRun := true }
def Obj.GROUP_WORK_DESC : ObjDef :=
  { index := 0x6100, reps := 256, sub := 0x17, ty := .u64, acc := .rwl, per := .w, mult := 32, noRun := true }
def Obj.GROUP_LRT_BASE : ObjDef :=
  { index := 0x6100, reps := 256, sub := 0x18, ty := .u64, acc := .rwl, per := .w, noRun := true }
def Obj.GROUP_LRT_LEN : ObjDef :=
  { index := 0x6100, reps := 256, sub := 0x19, ty := .u32, acc := .rwl, per := .w, noRun := true }
def Obj.GROUP_LRT_STEP0 : ObjDef :=
  { index := 0x6100, reps := 256, sub := 0x1A, ty := .u32, acc := .rwl, per := .w, noRun := true }
def Obj.GROUP_STEP : ObjDef :=
  { index := 0x6100, reps := 256, sub := 0x20, ty := .u32, acc := .rwl, per := .w, noRun := true }
def Obj.GROUP_POW1 : ObjDef :=
  { index := 0x6100, reps := 256, sub := 0x21, ty := .f32, acc := .rwl, dflt := 0x3f800000, per := .w, noRun := true }
def Obj.GROUP_POW2 : ObjDef :=
  { index := 0x6100, reps := 256, sub := 0x22, ty := .f32, acc := .rwl, dflt := 0x3f800000, per := .w, noRun := true }
def Obj.GROUP_WSCALE : ObjDef :=
  { index := 0x6100, reps := 256, sub := 0x23, ty := .i32, acc := .rwl, per := .w, lo := -128, hi := 127, noRun := true }
def Obj.GROUP_WHPOS : ObjDef :=
  { index := 0x6100, reps := 256, sub := 0x24, ty := .u8, acc := .rwl, per := .w, lo := 0, hi := 15, noRun := true }
def Obj.GROUP_LAST_STEP : ObjDef :=
  { index := 0x6100, reps := 256, sub := 0x25, ty := .u64 }
def Obj.GROUP_SKIPS : ObjDef :=
  { index := 0x6100, reps := 256, sub := 0x26, ty := .u32 }
def Obj.GROUP_CENSUS_LAST : ObjDef :=
  { index := 0x6100, reps := 256, sub := 0x27, ty := .u64 }
def Obj.GROUP_HOME_DIE : ObjDef :=
  { index := 0x6100, reps := 256, sub := 0x28, ty := .u8, dflt := 255 }
def Obj.GROUP_WHIST : ObjDef :=
  { index := 0x6100, reps := 256, sub := 0x30, subs := 16, ty := .i32, acc := .rwl, dflt := 0xffff8000, per := .w, lo := -32768, hi := 143,
    noRun := true }
def Obj.REDUCE_BALE_BYTES : ObjDef :=
  { index := 0x6200, ty := .u32, acc := .rwl, dflt := 0x800000, per := .w, lo := 1048576, hi := 67108864, mult := 1048576, noRun := true }
def Obj.REDUCE_MAX_IN_FLIGHT : ObjDef :=
  { index := 0x6201, ty := .u8, dflt := 8, per := .f }
def Obj.REDUCE_MAX_CONTRIB_LOG2 : ObjDef :=
  { index := 0x6202, ty := .u8, dflt := 20, per := .f }
def Obj.REDUCE_STAGE_BASE : ObjDef :=
  { index := 0x6203, ty := .u64, acc := .rwl, per := .w, mult := 4096, noRun := true }
def Obj.REDUCE_BSCALE_BASE : ObjDef :=
  { index := 0x6204, ty := .u64, acc := .rwl, per := .w, mult := 64, noRun := true }
def Obj.REDUCE_BSCALE_ENTRIES : ObjDef :=
  { index := 0x6205, ty := .u32, acc := .rwl, per := .w, lo := 0, hi := 65536, noRun := true }
def Obj.REDUCE_BSCALE_MARGIN_DEFAULT : ObjDef :=
  { index := 0x6206, ty := .u8, acc := .rwl, dflt := 1, per := .w, lo := 0, hi := 7, noRun := true }
def Obj.REDUCE_BALES_DONE : ObjDef :=
  { index := 0x6210, ty := .u64 }
def Obj.REDUCE_REFUSED : ObjDef :=
  { index := 0x6211, ty := .u32 }
def Obj.REDUCE_ABORTED : ObjDef :=
  { index := 0x6212, ty := .u32 }
def Obj.REDUCE_RESIDUE_FAULTS : ObjDef :=
  { index := 0x6213, ty := .u32 }
def Obj.REDUCE_RESIDUE_LAST_ADDER : ObjDef :=
  { index := 0x6214, sub := 0x01, ty := .u8, dflt := 255 }
def Obj.REDUCE_RESIDUE_LAST_STAGE : ObjDef :=
  { index := 0x6214, sub := 0x02, ty := .u8 }
def Obj.REDUCE_RESIDUE_LAST_BALE : ObjDef :=
  { index := 0x6214, sub := 0x03, ty := .u32 }
def Obj.REDUCE_RESIDUE_LAST_LEVEL : ObjDef :=
  { index := 0x6214, sub := 0x04, ty := .u8 }
def Obj.REDUCE_CENSUS_STEP : ObjDef :=
  { index := 0x6215, ty := .u64 }
def Obj.REDUCE_CENSUS_PREV_STEP : ObjDef :=
  { index := 0x6216, ty := .u64 }
def Obj.REDUCE_SATURATIONS : ObjDef :=
  { index := 0x6217, ty := .u64 }
def Obj.REDUCE_HOLDS : ObjDef :=
  { index := 0x6218, ty := .u32 }
def Obj.REDUCE_BYTES_SENT : ObjDef :=
  { index := 0x6219, ty := .u64 }
def Obj.REDUCE_BYTES_FORWARDED : ObjDef :=
  { index := 0x621A, ty := .u64 }
def Obj.REDUCE_NEXT_BALE : ObjDef :=
  { index := 0x621B, ty := .u32 }
def Obj.REDUCE_EXCHANGES : ObjDef :=
  { index := 0x621C, ty := .u64 }
def Obj.REDUCE_EXCHANGE_WORDS : ObjDef :=
  { index := 0x621D, ty := .u32 }
def Obj.REDUCE_LATE_PACKETS : ObjDef :=
  { index := 0x621E, ty := .u64 }
def Obj.REDUCE_FLAGS : ObjDef :=
  { index := 0x6220, ty := .u8 }
def Obj.REDUCE_FLAGS_CLEAR : ObjDef :=
  { index := 0x6221, ty := .u8, acc := .wo, resv := 0x80 }
def Obj.REDUCE_RESIDUE_TEST : ObjDef :=
  { index := 0x6230, ty := .u8, acc := .wo, codes := [1] }
def Obj.REDUCE_RESIDUE_TEST_STATE : ObjDef :=
  { index := 0x6231, ty := .enum8 }
def Obj.REDUCE_RESIDUE_TEST_FIRST : ObjDef :=
  { index := 0x6232, ty := .u16, dflt := 65535 }
def Obj.THRESH_IMAGE_LANES : ObjDef :=
  { index := 0x7000, ty := .u8, dflt := 8, per := .f }
def Obj.THRESH_AUDIO_LANES : ObjDef :=
  { index := 0x7001, ty := .u8, dflt := 16, per := .f }
def Obj.THRESH_TEXT_LANES : ObjDef :=
  { index := 0x7002, ty := .u8, dflt := 4, per := .f }
def Obj.THRESH_WINDOW : ObjDef :=
  { index := 0x7003, ty := .u8, dflt := 64, per := .f }
def Obj.SHUF_SAMPLES : ObjDef :=
  { index := 0x7004, ty := .u64, acc := .rwl, per := .w, noRun := true }
def Obj.SHUF_DOMAIN_BITS : ObjDef :=
  { index := 0x7005, ty := .u8, per := .w }
def Obj.SHUF_PROBE_SAMPLES : ObjDef :=
  { index := 0x7006, sub := 0x01, ty := .u64, acc := .rw }
def Obj.SHUF_PROBE_SEED : ObjDef :=
  { index := 0x7006, sub := 0x02, ty := .u64, acc := .rw }
def Obj.SHUF_PROBE_EPOCH : ObjDef :=
  { index := 0x7006, sub := 0x03, ty := .u32, acc := .rw }
def Obj.SHUF_PROBE_POS : ObjDef :=
  { index := 0x7006, sub := 0x04, ty := .u64, acc := .rw }
def Obj.SHUF_PROBE_SAMPLE : ObjDef :=
  { index := 0x7006, sub := 0x05, ty := .u64 }
def Obj.SHUF_PROBE_WALK : ObjDef :=
  { index := 0x7006, sub := 0x06, ty := .u32 }
def Obj.THRESH_FLAGS : ObjDef :=
  { index := 0x7008, ty := .u8 }
def Obj.THRESH_FLAGS_CLEAR : ObjDef :=
  { index := 0x7009, ty := .u8, acc := .wo, resv := 0x80 }
def Obj.THRESH_POS_FIRST : ObjDef :=
  { index := 0x7010, reps := 2, sub := 0x01, ty := .u64, acc := .rwl, per := .w, noRun := true }
def Obj.THRESH_POS_STRIDE : ObjDef :=
  { index := 0x7010, reps := 2, sub := 0x02, ty := .u64, acc := .rwl, dflt := 1, per := .w, lo := 1, hi := 1099511627776, noRun := true }
def Obj.THRESH_DATA_EPOCH : ObjDef :=
  { index := 0x7010, reps := 2, sub := 0x03, ty := .u32, acc := .rwl, per := .w, noRun := true }
def Obj.THRESH_NEXT_K : ObjDef :=
  { index := 0x7010, reps := 2, sub := 0x04, ty := .u64, acc := .rwl, per := .w, noRun := true }
def Obj.THRESH_WORK_BASE : ObjDef :=
  { index := 0x7010, reps := 2, sub := 0x05, ty := .u64, acc := .rwl, per := .w, mult := 4096, noRun := true }
def Obj.THRESH_WORK_BYTES : ObjDef :=
  { index := 0x7010, reps := 2, sub := 0x06, ty := .u64, acc := .rwl, per := .w, noRun := true }
def Obj.THRESH_MERGES : ObjDef :=
  { index := 0x7010, reps := 2, sub := 0x07, ty := .u32 }
def Obj.THRESH_RESUME_EPOCH : ObjDef :=
  { index := 0x7010, reps := 2, sub := 0x08, ty := .u32 }
def Obj.THRESH_RESUME_K : ObjDef :=
  { index := 0x7010, reps := 2, sub := 0x09, ty := .u64 }
def Obj.THRESH_EMITTED : ObjDef :=
  { index := 0x7010, reps := 2, sub := 0x0A, ty := .u64 }
def Obj.THRESH_DROPS : ObjDef :=
  { index := 0x7010, reps := 2, sub := 0x0B, ty := .u64 }
def Obj.THRESH_WALK_MAX : ObjDef :=
  { index := 0x7010, reps := 2, sub := 0x0C, ty := .u32 }
def Obj.THRESH_STALL_CYCLES : ObjDef :=
  { index := 0x7010, reps := 2, sub := 0x0D, ty := .u64 }
def Obj.THRESH_SKIP : ObjDef :=
  { index := 0x7010, reps := 2, sub := 0x10, subs := 8, ty := .u32, acc := .rwl, per := .w, noRun := true }
def Obj.THRESH_RESUME_SKIP : ObjDef :=
  { index := 0x7010, reps := 2, sub := 0x18, subs := 8, ty := .u32 }
def Obj.THRESH_DROPS_BY_REASON : ObjDef :=
  { index := 0x7020, sub := 0x01, subs := 12, ty := .u64 }
def Obj.LIMIT_DIM : ObjDef :=
  { index := 0x7030, ty := .u16, acc := .rwl, dflt := 16384, per := .c, lo := 0, hi := 16384, noRun := true }
def Obj.LIMIT_PIXELS : ObjDef :=
  { index := 0x7031, ty := .u32, acc := .rwl, dflt := 0x4000000, per := .c, lo := 0, hi := 67108864, noRun := true }
def Obj.LIMIT_AUDIO_SAMPLES : ObjDef :=
  { index := 0x7032, ty := .u32, acc := .rwl, dflt := 0x4000000, per := .c, lo := 0, hi := 67108864, noRun := true }
def Obj.LIMIT_DECODED_BYTES : ObjDef :=
  { index := 0x7033, ty := .u32, acc := .rwl, dflt := 0x10000000, per := .c, lo := 0, hi := 268435456, noRun := true }
def Obj.CLASS_MODALITY : ObjDef :=
  { index := 0x7040, reps := 16, sub := 0x01, ty := .enum8, acc := .rwl, per := .w, codes := [0, 1, 2, 3, 4], noRun := true }
def Obj.CLASS_FMT : ObjDef :=
  { index := 0x7040, reps := 16, sub := 0x02, ty := .enum8, acc := .rwl, per := .w, codes := [0, 1, 2], noRun := true }
def Obj.CLASS_SCALE : ObjDef :=
  { index := 0x7040, reps := 16, sub := 0x03, ty := .i32, acc := .rwl, per := .w, lo := -128, hi := 127, noRun := true }
def Obj.CLASS_C : ObjDef :=
  { index := 0x7040, reps := 16, sub := 0x04, ty := .u8, acc := .rwl, dflt := 1, per := .w, codes := [1, 2, 3, 4], noRun := true }
def Obj.CLASS_EXT0 : ObjDef :=
  { index := 0x7040, reps := 16, sub := 0x05, ty := .u32, acc := .rwl, dflt := 1, per := .w, lo := 1, hi := 16777216, noRun := true }
def Obj.CLASS_EXT1 : ObjDef :=
  { index := 0x7040, reps := 16, sub := 0x06, ty := .u16, acc := .rwl, dflt := 1, per := .w, noRun := true }
def Obj.CLASS_AVG_UNITS : ObjDef :=
  { index := 0x7040, reps := 16, sub := 0x07, ty := .u32, acc := .rwl, per := .w, noRun := true }
def Obj.CLASS_CEIL_MULT : ObjDef :=
  { index := 0x7040, reps := 16, sub := 0x08, ty := .u16, acc := .rwl, dflt := 64, per := .w, lo := 1, hi := 65535, noRun := true }
def Obj.CLASS_OUT_BASE : ObjDef :=
  { index := 0x7040, reps := 16, sub := 0x09, ty := .u64, acc := .rwl, per := .w, mult := 64, noRun := true }
def Obj.CLASS_SLOTS : ObjDef :=
  { index := 0x7040, reps := 16, sub := 0x0A, ty := .u32, acc := .rwl, per := .w, noRun := true }
def Obj.CLASS_FULL_SEM : ObjDef :=
  { index := 0x7040, reps := 16, sub := 0x0B, ty := .u16, acc := .rwl, per := .w, lo := 0, hi := 4095, noRun := true }
def Obj.CLASS_FREE_SEM : ObjDef :=
  { index := 0x7040, reps := 16, sub := 0x0C, ty := .u16, acc := .rwl, per := .w, lo := 0, hi := 4095, noRun := true }
def Obj.CLASS_MASK_EN : ObjDef :=
  { index := 0x7040, reps := 16, sub := 0x0D, ty := .bool, acc := .rwl, per := .w, noRun := true }
def Obj.CLASS_PREFIX_ID : ObjDef :=
  { index := 0x7040, reps := 16, sub := 0x0E, ty := .u32, acc := .rwl, dflt := 0xffffffff, per := .w, noRun := true }
def Obj.CLASS_SUFFIX_ID : ObjDef :=
  { index := 0x7040, reps := 16, sub := 0x0F, ty := .u32, acc := .rwl, dflt := 0xffffffff, per := .w, noRun := true }
def Obj.CLASS_VOCAB : ObjDef :=
  { index := 0x7040, reps := 16, sub := 0x10, ty := .u32, acc := .rwl, per := .w, noRun := true }
def Obj.CLASS_SLOT_BYTES : ObjDef :=
  { index := 0x7040, reps := 16, sub := 0x11, ty := .u32, per := .w }
def Obj.CLASS_EMITTED : ObjDef :=
  { index := 0x7040, reps := 16, sub := 0x12, ty := .u64 }
def Obj.CLASS_DROPS : ObjDef :=
  { index := 0x7040, reps := 16, sub := 0x13, ty := .u64 }
def Obj.THRESH_OPS_DONE : ObjDef :=
  { index := 0x7060, ty := .u64 }
def Obj.THRESH_REFUSED : ObjDef :=
  { index := 0x7061, ty := .u32 }
def Obj.THRESH_ABANDONED : ObjDef :=
  { index := 0x7062, ty := .u32 }
def Obj.SEC_DEBUG_LOCK : ObjDef :=
  { index := 0x8000, ty := .bool, per := .f }
def Obj.SEC_ROOT_KEY_HASH : ObjDef :=
  { index := 0x8001, ty := .blob, per := .f }
def Obj.SEC_SVN_MIN : ObjDef :=
  { index := 0x8002, ty := .u8, per := .f }
def Obj.SEC_ID_PUBKEY : ObjDef :=
  { index := 0x8003, ty := .blob }
def Obj.SEC_VENDOR_CERT : ObjDef :=
  { index := 0x8004, ty := .blob, per := .f }
def Obj.BOOT_STAGE : ObjDef :=
  { index := 0x8005, ty := .u8, dflt := 1 }
def Obj.BOOT_FAIL_STAGE : ObjDef :=
  { index := 0x8006, ty := .u8 }
def Obj.ATTEST_NONCE : ObjDef :=
  { index := 0x8010, ty := .blob, acc := .rw }
def Obj.ATTEST_REPORT : ObjDef :=
  { index := 0x8011, ty := .blob }
def Obj.ATTEST_COUNT : ObjDef :=
  { index := 0x8012, ty := .u32 }
def Obj.PROV_IMPORTED : ObjDef :=
  { index := 0x8020, ty := .u8, per := .w }
def Obj.SEC_SIG_FAILS : ObjDef :=
  { index := 0x8021, ty := .u32 }
def Obj.FW_ACTIVE_SLOT : ObjDef :=
  { index := 0x8101, reps := 3, sub := 0x01, ty := .enum8 }
def Obj.FW_ACTIVE_STATE : ObjDef :=
  { index := 0x8101, reps := 3, sub := 0x02, ty := .enum8 }
def Obj.FW_VERSION_A : ObjDef :=
  { index := 0x8101, reps := 3, sub := 0x03, ty := .u32 }
def Obj.FW_VERSION_B : ObjDef :=
  { index := 0x8101, reps := 3, sub := 0x04, ty := .u32 }
def Obj.FW_EPOCH_A : ObjDef :=
  { index := 0x8101, reps := 3, sub := 0x05, ty := .u16 }
def Obj.FW_EPOCH_B : ObjDef :=
  { index := 0x8101, reps := 3, sub := 0x06, ty := .u16 }
def Obj.FW_SLOT_A_STATE : ObjDef :=
  { index := 0x8101, reps := 3, sub := 0x07, ty := .enum8 }
def Obj.FW_SLOT_B_STATE : ObjDef :=
  { index := 0x8101, reps := 3, sub := 0x08, ty := .enum8 }
def Obj.FW_SELF_CONFIRM : ObjDef :=
  { index := 0x8101, reps := 3, sub := 0x09, ty := .bool }
def Obj.FW_TRIAL_REMAIN_MS : ObjDef :=
  { index := 0x8101, reps := 3, sub := 0x0A, ty := .u32 }
def Obj.FW_UPDATE_IMAGE : ObjDef :=
  { index := 0x8110, ty := .blob, acc := .rwl }
def Obj.FW_UPDATE_STATUS : ObjDef :=
  { index := 0x8111, ty := .enum8 }
def Obj.FW_ACTIVATE : ObjDef :=
  { index := 0x8112, ty := .u8, acc := .rwl, codes := [0, 1, 2, 3] }
def Obj.FW_UPDATE_KIND : ObjDef :=
  { index := 0x8113, ty := .u8 }
def Obj.FW_FALLBACKS : ObjDef :=
  { index := 0x8114, ty := .u32, per := .w }
def Obj.FW_SVN_ADVANCE : ObjDef :=
  { index := 0x8115, ty := .u8, acc := .rwl, codes := [0, 1] }
def Obj.ERR_LOG_DEPTH : ObjDef :=
  { index := 0x9000, ty := .u16, dflt := 1024, per := .f }
def Obj.ERR_SEQ_NEXT : ObjDef :=
  { index := 0x9001, ty := .u32 }
def Obj.ERR_READ_MARK : ObjDef :=
  { index := 0x9002, ty := .u32, acc := .rw }
def Obj.ERR_LOG_LOST : ObjDef :=
  { index := 0x9003, ty := .u32 }
def Obj.ERR_COUNT : ObjDef :=
  { index := 0x9004, sub := 0x01, subs := 5, ty := .u64 }
def Obj.ERR_FIRST_SEQ : ObjDef :=
  { index := 0x9005, ty := .u32, dflt := 0xffffffff }
def Obj.ERR_LAST_REASON : ObjDef :=
  { index := 0x9006, ty := .u16 }
def Obj.ERR_CLEAR : ObjDef :=
  { index := 0x9007, ty := .u8, acc := .rwl, codes := [0, 1, 2] }
def Obj.ERR_SEL_SEQ : ObjDef :=
  { index := 0x9010, sub := 0x01, ty := .u32, acc := .rw }
def Obj.ERR_SEL_RECORD : ObjDef :=
  { index := 0x9010, sub := 0x02, ty := .blob }
def Obj.FIELD_FIRST_RECORD : ObjDef :=
  { index := 0x9020, sub := 0x01, ty := .blob }
def Obj.FIELD_FIRST_NEAR : ObjDef :=
  { index := 0x9020, sub := 0x02, ty := .u16 }
def Obj.FIELD_RECORDS : ObjDef :=
  { index := 0x9020, sub := 0x03, ty := .u32 }
def Obj.CORE_FAULT_MAP : ObjDef :=
  { index := 0x9030, ty := .blob, per := .w }
def Obj.CORE_FAULT_COUNT : ObjDef :=
  { index := 0x9031, ty := .u16, per := .w }
def Obj.CORE_STATE : ObjDef :=
  { index := 0xA000, reps := 800, sub := 0x01, ty := .enum8 }
def Obj.CORE_NUMERIC_FLAGS : ObjDef :=
  { index := 0xA000, reps := 800, sub := 0x02, ty := .u8 }
def Obj.CORE_FLAGS_CLEAR : ObjDef :=
  { index := 0xA000, reps := 800, sub := 0x03, ty := .u8, acc := .wo, resv := 0x80 }
def Obj.CORE_SELFTEST : ObjDef :=
  { index := 0xA000, reps := 800, sub := 0x04, ty := .enum8 }
def Obj.CORE_EXCLUDE : ObjDef :=
  { index := 0xA000, reps := 800, sub := 0x05, ty := .bool, acc := .rws, per := .c }
def Obj.CORE_CONTEXTS_BUSY : ObjDef :=
  { index := 0xA000, reps := 800, sub := 0x06, ty := .u16 }
def Obj.CORE_OPS_DONE : ObjDef :=
  { index := 0xA000, reps := 800, sub := 0x07, ty := .u64 }
def Obj.CORE_OPS_FAILED : ObjDef :=
  { index := 0xA000, reps := 800, sub := 0x08, ty := .u32 }
def Obj.CORE_LAST_FAIL_TAG : ObjDef :=
  { index := 0xA000, reps := 800, sub := 0x09, ty := .u32 }
def Obj.CORE_LOFT_CE : ObjDef :=
  { index := 0xA000, reps := 800, sub := 0x0A, ty := .u64 }
def Obj.CORE_LOFT_UE : ObjDef :=
  { index := 0xA000, reps := 800, sub := 0x0B, ty := .u32 }
def Obj.CORE_LEAVE_WAIT_CYCLES : ObjDef :=
  { index := 0xA000, reps := 800, sub := 0x0C, ty := .u64 }

def objPart0 : List ObjDef := [
  Obj.DEVICE_NAME,
  Obj.VENDOR_NAME,
  Obj.SERIAL_NUMBER,
  Obj.DIE_STEPPING,
  Obj.DICT_FORMAT,
  Obj.DEVICE_ID_STRING,
  Obj.DEVICE_STATE,
  Obj.DEVICE_STATE_PRIOR,
  Obj.DEVICE_STATE_CHANGES,
  Obj.DEVICE_STATE_SINCE_MS,
  Obj.DEVICE_UPTIME_MS,
  Obj.DEVICE_STARTUP_MS,
  Obj.DEVICE_FAULT_REASON,
  Obj.DEVICE_FALLOW_FROM,
  Obj.OWNER_LOCK_TAKE,
  Obj.OWNER_LOCK_HOLDER,
  Obj.OWNER_LOCK_KEY_SLOT,
  Obj.OWNER_LOCK_SINCE_MS,
  Obj.OWNER_LOCK_GRANTS,
  Obj.OWNER_LOCK_REFUSALS,
  Obj.OWNER_UPDATE_INHIBIT,
  Obj.OWNER_KEY_MASK,
  Obj.STORE_CMD,
  Obj.STORE_STATUS,
  Obj.STORE_GENERATION,
  Obj.STORE_BYTES,
  Obj.STORE_DIRTY,
  Obj.STORE_SKIPPED,
  Obj.STORE_FIRST_SKIPPED,
  Obj.YDP_UDP_PORT,
  Obj.SESSION_SLOTS,
  Obj.SESSION_IDLE_S,
  Obj.SESSION_OPEN,
  Obj.SESSION_SELF,
  Obj.SESSION_AUTH_FAILS,
  Obj.SESSION_BAD_MACS,
  Obj.SESSION_HELLO_DROPPED,
  Obj.SESSION_SEQ_DISCARDS,
  Obj.SESSION_SEL_SLOT,
  Obj.SESSION_SEL_STATE]
def objPart1 : List ObjDef := [
  Obj.SESSION_SEL_KEY_SLOT,
  Obj.SESSION_SEL_PEER_PORT,
  Obj.SESSION_SEL_PEER_IP_HI,
  Obj.SESSION_SEL_PEER_IP_LO,
  Obj.SESSION_SEL_LAST_SEQ,
  Obj.SESSION_SEL_CLOSE,
  Obj.CLIENT_KEY,
  Obj.CLIENT_KEY_EN,
  Obj.POWER_LIMIT_W,
  Obj.POWER_BOOT_REQ_W,
  Obj.POWER_NOW_W,
  Obj.POWER_PEAK_W,
  Obj.ENERGY_J,
  Obj.POWER_OVER_LIMIT,
  Obj.LEAVE_POOL_MW,
  Obj.LEAVE_HELD_MW,
  Obj.LEAVE_RESERVED_MW,
  Obj.LEAVE_FROZEN,
  Obj.LEAVE_QUEUE,
  Obj.LEAVE_GRANTS,
  Obj.LEAVE_WAITS,
  Obj.LEAVE_RESERVE_LEAD,
  Obj.LEAVE_MARGIN_W,
  Obj.LEAVE_BASE_W,
  Obj.LEAVE_COST_MW1,
  Obj.LEAVE_COST_MW2,
  Obj.LEAVE_COST_MW3,
  Obj.LEAVE_COST_MW4,
  Obj.LEAVE_COST_MW5,
  Obj.LEAVE_COST_MW6,
  Obj.LEAVE_COST_MW7,
  Obj.LEAVE_COST_MW8,
  Obj.LEAVE_CAL_TEMP_C,
  Obj.LEAVE_CAL_LOAD_PCT,
  Obj.LEAVE_LEAK_PPM,
  Obj.LEAVE_LEAK_FACTOR,
  Obj.LEAVE_CORRECTION,
  Obj.LEAVE_TABLE_STALE,
  Obj.SUPPLY_MV,
  Obj.SUPPLY_MIN_MV]
def objPart2 : List ObjDef := [
  Obj.SUPPLY_WARN_FLAGS,
  Obj.SUPPLY_WARN_CLEAR,
  Obj.SUPPLY_WARN_ACTIVE,
  Obj.SUPPLY_DIPS,
  Obj.SUPPLY_RESET_RAIL,
  Obj.THERM_DIE_C,
  Obj.THERM_WARN_C,
  Obj.THERM_STOP_C,
  Obj.THERM_TRIP_C,
  Obj.THERM_WARN_EVENTS,
  Obj.THERM_MAX_C,
  Obj.CLK_CORE_MULT,
  Obj.CLK_CORE_MULT_NOW,
  Obj.CLK_CORE_SRC,
  Obj.PLL_STATE,
  Obj.PLL_LOSS_FLAGS,
  Obj.PLL_LOSS_CLEAR,
  Obj.CLK_LOSS_STOP_MS,
  Obj.REFCLK_PRESENT,
  Obj.CLK_RAMP_STEPS,
  Obj.CLK_GATE_REFUSALS,
  Obj.CLK_SWITCH_REFUSALS,
  Obj.RESET_KIND,
  Obj.RESET_TARGET,
  Obj.RESET_GO,
  Obj.RESET_STATUS,
  Obj.RESET_CAUSE,
  Obj.RESET_LAST_KIND,
  Obj.RESET_LAST_TARGET,
  Obj.RESET_COUNT,
  Obj.WARM_MEM_KEPT,
  Obj.LP_REQUEST,
  Obj.LP_STATE,
  Obj.LP_STATUS,
  Obj.FALLOW_ENTRIES,
  Obj.FALLOW_EXIT_MS,
  Obj.P1_EXITS,
  Obj.MEM_RATE,
  Obj.MEM_RATE_ACTIVE,
  Obj.MEM_SIZE]
def objPart3 : List ObjDef := [
  Obj.MEM_TRAIN_STATE,
  Obj.MEM_TRAIN_FAIL_CHANNEL,
  Obj.MEM_SCRUB_HOURS,
  Obj.MEM_SCRUB_PASSES,
  Obj.MEM_SCRUB_BYTES,
  Obj.MEM_SCRUB_LATE,
  Obj.MEM_SCRUB_EN,
  Obj.MEM_CE_TOTAL,
  Obj.MEM_UE_TOTAL,
  Obj.MEM_CE_ALARM,
  Obj.MEM_CE_ALARMS,
  Obj.MEM_UE_LAST_ADDR,
  Obj.MEM_UE_LAST_SUBCH,
  Obj.MEM_UE_LAST_SYNDROME,
  Obj.MEM_UE_LAST_SOURCE,
  Obj.MEM_SEL_SUBCH,
  Obj.MEM_SEL_CE,
  Obj.MEM_SEL_UE,
  Obj.MEM_SEL_TEMP_C,
  Obj.MEM_SEL_REFRESH_MULT,
  Obj.LOFT_CE_TOTAL,
  Obj.LOFT_UE_TOTAL,
  Obj.MEM_TEMP_MAX_C,
  Obj.ARB_CLASS_CORE_DMA,
  Obj.ARB_CLASS_CORE_SCALAR,
  Obj.ARB_CLASS_LOFT_COMPUTE,
  Obj.ARB_CLASS_MEM_ENGINE,
  Obj.ARB_CLASS_THRESHER,
  Obj.ARB_CLASS_UPDATE,
  Obj.ARB_CLASS_REDUCE,
  Obj.ARB_CLASS_HOST,
  Obj.ARB_CLASS_SCRUB,
  Obj.ARB_CLASS_STEWARD,
  Obj.ARB_C3_BUDGET,
  Obj.ARB_C3_EXCESS,
  Obj.ARB_MAX_WAIT_C,
  Obj.ARB_PREEMPTIONS,
  Obj.ARB_PARKED_MAX,
  Obj.ARB_HELD_LINES,
  Obj.MESH_CE]
def objPart4 : List ObjDef := [
  Obj.MESH_UE,
  Obj.BRIDGE_CE,
  Obj.BRIDGE_REPLAYS,
  Obj.DMA_OPS_DONE,
  Obj.DMA_REFUSED,
  Obj.DMA_ABANDONED,
  Obj.DMA_BYTES,
  Obj.SEM_COUNT_TOTAL,
  Obj.QUEUE_COUNT_TOTAL,
  Obj.SEM_WAIT_POOL,
  Obj.SEM_SEL_NUMBER,
  Obj.SEM_SEL_COUNT,
  Obj.SEM_SEL_STATE,
  Obj.SEM_SEL_OWNER,
  Obj.SEM_SEL_WAITERS,
  Obj.SEM_ACT_COUNT,
  Obj.SEM_ACT_GO,
  Obj.SEM_ACT_STATUS,
  Obj.HOST_SEM_NUMBER,
  Obj.HOST_SEM_ARG,
  Obj.HOST_SEM_OP,
  Obj.HOST_SEM_RESULT,
  Obj.SEM_OPS,
  Obj.SEM_ORPHANED_NOW,
  Obj.SEM_ORPHAN_EVENTS,
  Obj.SEM_OVERFLOWS,
  Obj.SEM_MISUSE,
  Obj.SEM_WAIT_POOL_FULL,
  Obj.SEM_WAIT_POOL_MAX,
  Obj.QUEUE_SEL_NUMBER,
  Obj.QUEUE_CFG_BASE,
  Obj.QUEUE_CFG_LOG2_SIZE,
  Obj.QUEUE_CFG_BINDING,
  Obj.QUEUE_CFG_TARGET,
  Obj.QUEUE_CFG_NOTIFY_SEM,
  Obj.QUEUE_ST_PRODUCER,
  Obj.QUEUE_ST_CONSUMER,
  Obj.QUEUE_ST_STATE,
  Obj.QUEUE_ST_OVERFLOWS,
  Obj.QUEUE_ST_REFUSED]
def objPart5 : List ObjDef := [
  Obj.QUEUE_UNROUTED,
  Obj.ALMANAC_STATE,
  Obj.ALMANAC_ROLE,
  Obj.ALMANAC_BEAT_NS,
  Obj.ALMANAC_COUNT,
  Obj.ALMANAC_TICK,
  Obj.ALMANAC_HELD_BEATS,
  Obj.ALMANAC_GRANT,
  Obj.ALMANAC_PARENT_PORT,
  Obj.ALMANAC_DEPTH,
  Obj.ALMANAC_OFFSET_PS,
  Obj.ALMANAC_NEIGHBOUR_SKEW_PS,
  Obj.ALMANAC_SKEW_LIMIT_NS,
  Obj.ALMANAC_SKEW_ALARMS,
  Obj.ALMANAC_SKEW_BOUND_NS,
  Obj.ALMANAC_PATH_TICKS,
  Obj.ALMANAC_HORIZON,
  Obj.ALMANAC_HOLD_LEAD,
  Obj.ALMANAC_LOSS_TICKS,
  Obj.ALMANAC_HOLD_LIMIT_MS,
  Obj.HOLD_RAISED,
  Obj.HOLD_ACTIVE,
  Obj.HOLD_LAST_BEAT,
  Obj.HOLD_LAST_REASON,
  Obj.HOLD_LAST_SOURCE,
  Obj.HOLD_TICKS_SELF,
  Obj.PTP_ASSOC_EN,
  Obj.PTP_ASSOC_PORT,
  Obj.PTP_FREQ_PPB,
  Obj.PTP_STAMP_EPOCH,
  Obj.PTP_STAMP_SECONDS,
  Obj.PTP_STAMP_NS,
  Obj.PTP_STATE,
  Obj.EPOCH_BEATS,
  Obj.STEP_EPOCHS,
  Obj.STEP_PHASE,
  Obj.SCHED_EPOCH,
  Obj.SCHED_BEAT_IN_EPOCH,
  Obj.SCHED_E0_COUNT,
  Obj.SCHED_E0]
def objPart6 : List ObjDef := [
  Obj.SCHED_START,
  Obj.SCHED_STOP,
  Obj.SCHED_STOP_BEAT,
  Obj.SCHED_STOP_REASON,
  Obj.FURROW_LOAD_TABLE,
  Obj.FURROW_LOAD_BANK,
  Obj.FURROW_LOAD_SRC,
  Obj.FURROW_LOAD_ENTRIES,
  Obj.FURROW_LOAD_SWAP_EPOCH,
  Obj.FURROW_LOAD_GO,
  Obj.FURROW_LOAD_STATUS,
  Obj.FURROW_LOAD_BAD_ENTRY,
  Obj.FURROW_QUERY_TABLE,
  Obj.FURROW_QUERY_ACTIVE,
  Obj.FURROW_QUERY_SWAP_EPOCH,
  Obj.FURROW_QUERY_ENTRIES0,
  Obj.FURROW_QUERY_ENTRIES1,
  Obj.FURROW_QUERY_NEXT,
  Obj.FURROW_READ_TABLE,
  Obj.FURROW_READ_BANK,
  Obj.FURROW_READ_INDEX,
  Obj.FURROW_READ_LO,
  Obj.FURROW_READ_HI,
  Obj.SCHED_OVERRUNS,
  Obj.SCHED_OVERRUN_TABLE,
  Obj.SCHED_OVERRUN_ENTRY,
  Obj.SCHED_OVERRUN_BEAT,
  Obj.SCHED_LATE_HOLDS,
  Obj.SCHED_CROSS_EPOCH_WAITS,
  Obj.SCHED_SWAPS,
  Obj.LINK_COORD_X,
  Obj.LINK_COORD_Y,
  Obj.LINK_COORD_Z,
  Obj.LINK_COORD_W,
  Obj.LINK_EXT_X,
  Obj.LINK_EXT_Y,
  Obj.LINK_EXT_Z,
  Obj.LINK_EXT_W,
  Obj.LINK_FIELD_NUMBER,
  Obj.LINK_FIELDS]
def objPart7 : List ObjDef := [
  Obj.LINK_RANK,
  Obj.PORT_ENABLE,
  Obj.PORT_STATE,
  Obj.PORT_FAULT_REASON,
  Obj.PORT_PARTNER,
  Obj.PORT_FEC_CORRECTED,
  Obj.PORT_FEC_UNCORRECTED,
  Obj.PORT_REPLAYS,
  Obj.PORT_CE,
  Obj.PORT_TX_BYTES,
  Obj.PORT_RX_BYTES,
  Obj.PORT_RETRAINS,
  Obj.PORT_LASER_UW,
  Obj.PORT_RTT_NS,
  Obj.PORT_LENGTH_DM,
  Obj.PORT_RETRAIN,
  Obj.LINK_FEC_ALARM,
  Obj.LINK_TRAIN_TIMEOUT_MS,
  Obj.LINK_RX_BUFFER_KIB,
  Obj.LINK_VC_RESERVE_KIB,
  Obj.ETH_MODE,
  Obj.ETH_LINK_STATE,
  Obj.ETH_MAC_ADDR,
  Obj.ETH_MTU,
  Obj.ETH_VLAN_ID,
  Obj.ETH_IPV4_ADDR,
  Obj.ETH_IPV4_PREFIX,
  Obj.ETH_IPV4_GATEWAY,
  Obj.ETH_IPV6_ADDR_HI,
  Obj.ETH_IPV6_ADDR_LO,
  Obj.ETH_IPV6_PREFIX,
  Obj.ETH_IPV6_GW_HI,
  Obj.ETH_IPV6_GW_LO,
  Obj.ETH_ROCE_PRIO,
  Obj.ETH_ROCE_DSCP,
  Obj.ETH_YDP_DSCP,
  Obj.ETH_PFC_ENABLE,
  Obj.ETH_ECN_EN,
  Obj.ETH_PTP_DOMAIN,
  Obj.ETH_RESTART]
def objPart8 : List ObjDef := [
  Obj.ETH_RX_FRAMES,
  Obj.ETH_TX_FRAMES,
  Obj.ETH_RX_FCS_ERRORS,
  Obj.ETH_RX_DROPS,
  Obj.ETH_FEC_CORRECTED,
  Obj.ETH_FEC_UNCORRECTED,
  Obj.ETH_PFC_RX,
  Obj.ETH_PFC_TX,
  Obj.ETH_PFC_STORMS,
  Obj.ETH_CNP_TX,
  Obj.ETH_CNP_RX,
  Obj.QP_SEL,
  Obj.QP_STATE,
  Obj.QP_PORT,
  Obj.QP_REMOTE_QPN,
  Obj.QP_REMOTE_IP_HI,
  Obj.QP_REMOTE_IP_LO,
  Obj.QP_RQ_PSN,
  Obj.QP_PMTU,
  Obj.QP_UDP_SPORT,
  Obj.QP_ERROR_CAUSE,
  Obj.QP_RX_BYTES,
  Obj.MR_SEL,
  Obj.MR_BASE,
  Obj.MR_LENGTH,
  Obj.MR_RKEY,
  Obj.MR_ACCESS,
  Obj.MR_EN,
  Obj.ROCE_QPS,
  Obj.ROCE_ACCESS_ERRORS,
  Obj.ROCE_CNP_INTERVAL_US,
  Obj.ETH_RX_BUFFER_KIB,
  Obj.NUMERIC_POLICY,
  Obj.SROUND_PERMIT,
  Obj.WINNOW_JOB_SEED,
  Obj.WINNOW_STEP,
  Obj.WINNOW_PROBE_SEED,
  Obj.WINNOW_PROBE_STEP,
  Obj.WINNOW_PROBE_TID,
  Obj.WINNOW_PROBE_PURPOSE]
def objPart9 : List ObjDef := [
  Obj.WINNOW_PROBE_INDEX,
  Obj.WINNOW_PROBE_DRAW,
  Obj.WINNOW_PROBE_BLOCK_LO,
  Obj.WINNOW_PROBE_BLOCK_HI,
  Obj.WINNOW_PROBE_DRAW_VALUE,
  Obj.SCALE_TABLE_BASE,
  Obj.SCALE_SLOTS,
  Obj.SCALE_MARGIN_DEFAULT,
  Obj.SCALE_LAST_STEP,
  Obj.SCALE_ERRORS,
  Obj.NUMERIC_FLAGS_ANY,
  Obj.NUMERIC_FLAGS_CLEAR,
  Obj.SATURATION_TOTAL,
  Obj.MATRIX_BLOCK_DIM,
  Obj.MATRIX_OPS_DONE,
  Obj.MATRIX_STEPS_DONE,
  Obj.MATRIX_REFUSED,
  Obj.MATRIX_ABANDONED,
  Obj.MATRIX_GATE_IDLE_CYCLES,
  Obj.MATRIX_SELFTEST_RUN,
  Obj.MATRIX_SELFTEST_STATE,
  Obj.MATRIX_SELFTEST_FAILS,
  Obj.MATRIX_SELFTEST_FIRST_CORE,
  Obj.VECTOR_LANES,
  Obj.VECTOR_MAX_VL,
  Obj.VECTOR_REGS,
  Obj.MASK_REGS,
  Obj.CONTEXTS_PER_CORE,
  Obj.VECTOR_OPS_DONE,
  Obj.VECTOR_REFUSED,
  Obj.KERNELS_FAULTED,
  Obj.NOEXC_SUBSTITUTIONS,
  Obj.CONTEXTS_BUSY_MAX,
  Obj.VECTOR_ABANDONED,
  Obj.VECTOR_GATE_IDLE_CYCLES,
  Obj.CTX_QUERY_CORE,
  Obj.CTX_QUERY_CTX,
  Obj.CTX_QUERY_STATE,
  Obj.CTX_QUERY_PC,
  Obj.CTX_QUERY_NOEXC_STATUS]
def objPart10 : List ObjDef := [
  Obj.CTX_QUERY_OP_TAG,
  Obj.SWIN_OPS_DONE,
  Obj.SWIN_REFUSED,
  Obj.SWIN_WINOGRAD_OPS,
  Obj.SWIN_POOL_OPS,
  Obj.SWIN_ABANDONED,
  Obj.SWIN_DIAGONAL_BLOCKS,
  Obj.SWIN_PLAIN_BLOCKS,
  Obj.SWIN_INPUT_BYTES,
  Obj.SWIN_WINOGRAD_PERMIT,
  Obj.SWIN_DIAGONAL_PERMIT,
  Obj.ATTN_OPS_DONE,
  Obj.ATTN_REFUSED,
  Obj.ATTN_ABANDONED,
  Obj.ATTN_STRIPS_DONE,
  Obj.ATTN_RESCALES,
  Obj.ATTN_EMPTY_ROWS,
  Obj.ATTN_EMPTY_FLAG,
  Obj.ATTN_MERGES_DONE,
  Obj.ATTN_MAX_POSITIONS,
  Obj.ATTN_MAX_STRIP,
  Obj.ATTN_MAX_HEAD_DIM,
  Obj.CRIB_POOL_BASE,
  Obj.CRIB_POOL_PAGES,
  Obj.CRIB_PAGE_DIM,
  Obj.CRIB_PAGE_KV_HEADS,
  Obj.CRIB_PAGE_FMT,
  Obj.CRIB_K_SCALE,
  Obj.CRIB_V_SCALE,
  Obj.CRIB_META_BASE,
  Obj.CRIB_PAGE_BYTES,
  Obj.CRIB_POOL_INIT,
  Obj.CRIB_POOL_STATE,
  Obj.CRIB_PAGES_FREE,
  Obj.CRIB_PAGES_PENDING,
  Obj.CRIB_PAGES_FREE_MIN,
  Obj.CRIB_COPIES,
  Obj.CRIB_FENCES_OPEN,
  Obj.CRIB_NEXT_FENCE,
  Obj.CRIB_FAILS]
def objPart11 : List ObjDef := [
  Obj.UPDATE_ELEMS_PER_CYCLE,
  Obj.UPDATE_MAX_ARMED,
  Obj.UPDATE_OPS_DONE,
  Obj.UPDATE_REFUSED,
  Obj.UPDATE_ELEMS_DONE,
  Obj.UPDATE_SKIPS,
  Obj.UPDATE_FAULTS,
  Obj.UPDATE_LATE_NONFINITE,
  Obj.UPDATE_ABANDONED,
  Obj.UPDATE_SATURATIONS,
  Obj.UPDATE_FLAGS_CD0,
  Obj.UPDATE_FLAGS_CD1,
  Obj.UPDATE_FLAGS_CLEAR,
  Obj.UPDATE_STALL_CYCLES,
  Obj.GROUP_ENABLE,
  Obj.GROUP_LR,
  Obj.GROUP_BETA1,
  Obj.GROUP_BETA2,
  Obj.GROUP_EPS,
  Obj.GROUP_WDECAY,
  Obj.GROUP_CLIP,
  Obj.GROUP_GMUL,
  Obj.GROUP_NAN_POLICY,
  Obj.GROUP_WROUND,
  Obj.GROUP_WSCALE_MODE,
  Obj.GROUP_WMARGIN,
  Obj.GROUP_MASTER_BASE,
  Obj.GROUP_WORK_BASE,
  Obj.GROUP_MOM1_BASE,
  Obj.GROUP_MOM2_BASE,
  Obj.GROUP_ELEMS,
  Obj.GROUP_KEY_ORG,
  Obj.GROUP_WORK_TID,
  Obj.GROUP_WORK_DESC,
  Obj.GROUP_LRT_BASE,
  Obj.GROUP_LRT_LEN,
  Obj.GROUP_LRT_STEP0,
  Obj.GROUP_STEP,
  Obj.GROUP_POW1,
  Obj.GROUP_POW2]
def objPart12 : List ObjDef := [
  Obj.GROUP_WSCALE,
  Obj.GROUP_WHPOS,
  Obj.GROUP_LAST_STEP,
  Obj.GROUP_SKIPS,
  Obj.GROUP_CENSUS_LAST,
  Obj.GROUP_HOME_DIE,
  Obj.GROUP_WHIST,
  Obj.REDUCE_BALE_BYTES,
  Obj.REDUCE_MAX_IN_FLIGHT,
  Obj.REDUCE_MAX_CONTRIB_LOG2,
  Obj.REDUCE_STAGE_BASE,
  Obj.REDUCE_BSCALE_BASE,
  Obj.REDUCE_BSCALE_ENTRIES,
  Obj.REDUCE_BSCALE_MARGIN_DEFAULT,
  Obj.REDUCE_BALES_DONE,
  Obj.REDUCE_REFUSED,
  Obj.REDUCE_ABORTED,
  Obj.REDUCE_RESIDUE_FAULTS,
  Obj.REDUCE_RESIDUE_LAST_ADDER,
  Obj.REDUCE_RESIDUE_LAST_STAGE,
  Obj.REDUCE_RESIDUE_LAST_BALE,
  Obj.REDUCE_RESIDUE_LAST_LEVEL,
  Obj.REDUCE_CENSUS_STEP,
  Obj.REDUCE_CENSUS_PREV_STEP,
  Obj.REDUCE_SATURATIONS,
  Obj.REDUCE_HOLDS,
  Obj.REDUCE_BYTES_SENT,
  Obj.REDUCE_BYTES_FORWARDED,
  Obj.REDUCE_NEXT_BALE,
  Obj.REDUCE_EXCHANGES,
  Obj.REDUCE_EXCHANGE_WORDS,
  Obj.REDUCE_LATE_PACKETS,
  Obj.REDUCE_FLAGS,
  Obj.REDUCE_FLAGS_CLEAR,
  Obj.REDUCE_RESIDUE_TEST,
  Obj.REDUCE_RESIDUE_TEST_STATE,
  Obj.REDUCE_RESIDUE_TEST_FIRST,
  Obj.THRESH_IMAGE_LANES,
  Obj.THRESH_AUDIO_LANES,
  Obj.THRESH_TEXT_LANES]
def objPart13 : List ObjDef := [
  Obj.THRESH_WINDOW,
  Obj.SHUF_SAMPLES,
  Obj.SHUF_DOMAIN_BITS,
  Obj.SHUF_PROBE_SAMPLES,
  Obj.SHUF_PROBE_SEED,
  Obj.SHUF_PROBE_EPOCH,
  Obj.SHUF_PROBE_POS,
  Obj.SHUF_PROBE_SAMPLE,
  Obj.SHUF_PROBE_WALK,
  Obj.THRESH_FLAGS,
  Obj.THRESH_FLAGS_CLEAR,
  Obj.THRESH_POS_FIRST,
  Obj.THRESH_POS_STRIDE,
  Obj.THRESH_DATA_EPOCH,
  Obj.THRESH_NEXT_K,
  Obj.THRESH_WORK_BASE,
  Obj.THRESH_WORK_BYTES,
  Obj.THRESH_MERGES,
  Obj.THRESH_RESUME_EPOCH,
  Obj.THRESH_RESUME_K,
  Obj.THRESH_EMITTED,
  Obj.THRESH_DROPS,
  Obj.THRESH_WALK_MAX,
  Obj.THRESH_STALL_CYCLES,
  Obj.THRESH_SKIP,
  Obj.THRESH_RESUME_SKIP,
  Obj.THRESH_DROPS_BY_REASON,
  Obj.LIMIT_DIM,
  Obj.LIMIT_PIXELS,
  Obj.LIMIT_AUDIO_SAMPLES,
  Obj.LIMIT_DECODED_BYTES,
  Obj.CLASS_MODALITY,
  Obj.CLASS_FMT,
  Obj.CLASS_SCALE,
  Obj.CLASS_C,
  Obj.CLASS_EXT0,
  Obj.CLASS_EXT1,
  Obj.CLASS_AVG_UNITS,
  Obj.CLASS_CEIL_MULT,
  Obj.CLASS_OUT_BASE]
def objPart14 : List ObjDef := [
  Obj.CLASS_SLOTS,
  Obj.CLASS_FULL_SEM,
  Obj.CLASS_FREE_SEM,
  Obj.CLASS_MASK_EN,
  Obj.CLASS_PREFIX_ID,
  Obj.CLASS_SUFFIX_ID,
  Obj.CLASS_VOCAB,
  Obj.CLASS_SLOT_BYTES,
  Obj.CLASS_EMITTED,
  Obj.CLASS_DROPS,
  Obj.THRESH_OPS_DONE,
  Obj.THRESH_REFUSED,
  Obj.THRESH_ABANDONED,
  Obj.SEC_DEBUG_LOCK,
  Obj.SEC_ROOT_KEY_HASH,
  Obj.SEC_SVN_MIN,
  Obj.SEC_ID_PUBKEY,
  Obj.SEC_VENDOR_CERT,
  Obj.BOOT_STAGE,
  Obj.BOOT_FAIL_STAGE,
  Obj.ATTEST_NONCE,
  Obj.ATTEST_REPORT,
  Obj.ATTEST_COUNT,
  Obj.PROV_IMPORTED,
  Obj.SEC_SIG_FAILS,
  Obj.FW_ACTIVE_SLOT,
  Obj.FW_ACTIVE_STATE,
  Obj.FW_VERSION_A,
  Obj.FW_VERSION_B,
  Obj.FW_EPOCH_A,
  Obj.FW_EPOCH_B,
  Obj.FW_SLOT_A_STATE,
  Obj.FW_SLOT_B_STATE,
  Obj.FW_SELF_CONFIRM,
  Obj.FW_TRIAL_REMAIN_MS,
  Obj.FW_UPDATE_IMAGE,
  Obj.FW_UPDATE_STATUS,
  Obj.FW_ACTIVATE,
  Obj.FW_UPDATE_KIND,
  Obj.FW_FALLBACKS]
def objPart15 : List ObjDef := [
  Obj.FW_SVN_ADVANCE,
  Obj.ERR_LOG_DEPTH,
  Obj.ERR_SEQ_NEXT,
  Obj.ERR_READ_MARK,
  Obj.ERR_LOG_LOST,
  Obj.ERR_COUNT,
  Obj.ERR_FIRST_SEQ,
  Obj.ERR_LAST_REASON,
  Obj.ERR_CLEAR,
  Obj.ERR_SEL_SEQ,
  Obj.ERR_SEL_RECORD,
  Obj.FIELD_FIRST_RECORD,
  Obj.FIELD_FIRST_NEAR,
  Obj.FIELD_RECORDS,
  Obj.CORE_FAULT_MAP,
  Obj.CORE_FAULT_COUNT,
  Obj.CORE_STATE,
  Obj.CORE_NUMERIC_FLAGS,
  Obj.CORE_FLAGS_CLEAR,
  Obj.CORE_SELFTEST,
  Obj.CORE_EXCLUDE,
  Obj.CORE_CONTEXTS_BUSY,
  Obj.CORE_OPS_DONE,
  Obj.CORE_OPS_FAILED,
  Obj.CORE_LAST_FAIL_TAG,
  Obj.CORE_LOFT_CE,
  Obj.CORE_LOFT_UE,
  Obj.CORE_LEAVE_WAIT_CYCLES]
/-- Every object of the dictionary. -/
def allObjs : List ObjDef :=
  objPart0 ++ objPart1 ++ objPart2 ++ objPart3 ++ objPart4 ++ objPart5 ++ objPart6 ++ objPart7 ++
    objPart8 ++ objPart9 ++ objPart10 ++ objPart11 ++ objPart12 ++ objPart13 ++ objPart14 ++ objPart15

/-- The object that an index and subindex name, with the repetition and the member. -/
def findObj (idx sub : Nat) : Option (ObjDef × Nat × Nat) :=
  (allObjs.find? fun o =>
      decide (o.index ≤ idx) && decide (idx < o.index + o.reps) && decide (o.sub ≤ sub) && decide (sub < o.sub + o.subs)).map
    fun o => (o, idx - o.index, sub - o.sub)

/-- The object whose value a key holds. -/
def objOfKey (k : Nat) : Option (ObjDef × Nat × Nat) := findObj (k / 256) (k % 256)

/-- The index lies in a range that a chapter owns (R457). -/
def ownedIndex (i : Nat) : Bool :=
  decide (0x1000 ≤ i ∧ i ≤ 0x11FF) || decide (0x2000 ≤ i ∧ i ≤ 0x24FF) || decide (0x3000 ≤ i ∧ i ≤ 0x32FF) ||
  decide (0x4000 ≤ i ∧ i ≤ 0x43FF) || decide (0x5000 ≤ i ∧ i ≤ 0x54FF) || decide (0x6000 ≤ i ∧ i ≤ 0x62FF) ||
  decide (0x7000 ≤ i ∧ i ≤ 0x70FF) || decide (0x8000 ≤ i ∧ i ≤ 0x81FF) || decide (0x9000 ≤ i ∧ i ≤ 0x90FF) ||
  decide (0xA000 ≤ i ∧ i ≤ 0xA31F)

end Sys2Proof.Machine
end

