-- ==== Sys2Proof/Machine/State.lean ====
section
/-! DEFINITION. The state of the block: everything the manual gives the device, as plain data, with the queue of
waiting commands; its faults and refusals; and the state right after reset. The values of the dictionary are one
sparse map from index and subindex to value (an unlisted object has its default); what lies behind the dictionary
(memory, contexts, semaphores, rings, the almanac unit, ports, sessions, flash, ...) has fields of its own. -/
namespace Sys2Proof.Machine

/-- Why a step can stop. -/
inductive Fault where
  /-- An operand names a core, context, semaphore, ring, table, port, die or other unit that the device does not
  have. Raised by every meaning whose operand is out of the range of R14, R111, R340, R356, R312 or a chapter's
  table. Safe: the model stops where no such unit exists. Assumption 4 (DESIGN CHOICE). -/
  | noSuchUnit
  deriving DecidableEq, Repr

/-- Why a command has no meaning. -/
inductive Refusal where
  /-- The command is not modelled yet. Raised only by an arm of the dispatcher. Safe: nothing is claimed of it. -/
  | notModelled (mnemonic : String)
  deriving DecidableEq, Repr

/-- States of a thread context (R111). -/
inductive CtxState where
  | free | ready | waiting | faulted
  deriving DecidableEq, Repr

/-- What a WAITING context waits for. -/
inductive CtxWait where
  | none
  | sem (n : Nat)
  | unrecorded
  | beat (operand : Nat)
  | fence
  deriving DecidableEq, Repr

/-- A thread context (R111, R139). `regs` lists the scalar registers that are not 0. Assumption 7 (DESIGN CHOICE). -/
structure Ctx where
  st : CtxState := .free
  regs : SMap Nat := []
  pc : Nat := 0
  vl : Nat := 0
  strict : Bool := false
  sround : Bool := false
  noexc : Bool := false
  tid : Nat := 0
  korg : Nat := 0
  status : Nat := 0
  tag : Nat := 0
  op : Nat := 0
  wait : CtxWait := .none
  dest : Nat := 0
  deriving DecidableEq, Repr

/-- Where an operation stands in the order of R38. -/
inductive Phase where
  /-- Taken, not yet past step 1. -/
  | submitted
  /-- Step 2: in the wait list of its semaphore, or not yet recorded there. -/
  | waitSem
  /-- Step 2 ended: the wait was granted. -/
  | semGranted
  /-- Step 2 ended with orphan status. -/
  | semOrphan
  /-- Step 3: in the allotment's queue. -/
  | waitLeave
  /-- Step 4 may begin once its unit is free. -/
  | ready
  /-- Step 4 has begun. -/
  | executing
  /-- The work of step 4 is done. -/
  | executed
  /-- A read or write met an uncorrectable codeword, or another cause ends the operation: the address or entry, the
  cause and the group of its OP_ABANDONED record (R538). -/
  | failing (addr cause group : Nat)
  deriving DecidableEq, Repr

/-- A reading of the group scalars and progress of an update operation (R213 to R222, R225). -/
structure UpdRun where
  group : Nat
  /-- The census allows the step, or needs not be known (R219). -/
  decided : Bool := false
  done : Nat := 0
  census : Nat := 0
  t : Nat := 0
  p1 : Nat := 0
  p2 : Nat := 0
  c2 : Nat := 0
  ob1 : Nat := 0
  ob2 : Nat := 0
  a : Nat := 0
  nlw : Nat := 0
  /-- GROUP_WSCALE when step 4 began (R223). -/
  ws : Int := 0
  /-- What the elements applied so far come to for WMAX and WSAT (R225). -/
  top : Option Int := none
  sats : Nat := 0
  deriving DecidableEq, Repr

/-- A bale whose operation has been taken (R239, R248, R253, R254). -/
structure Bale where
  n : Nat
  elems : Nat
  scale : Int := 0
  /-- FILL_COUNT has been taken, where the trigger asks for it. -/
  fillTaken : Bool := false
  fillOrphan : Bool := false
  started : Bool := false
  /-- Gather phase. -/
  gather : Bool := false
  /-- Reduce phase: device levels done; gather phase: device levels still to gather. -/
  lev : Nat := 0
  /-- Codes of the node values or final values held, by position; those of [lo, hi) are in force. -/
  vals : List Nat := []
  lo : Nat := 0
  hi : Nat := 0
  /-- Elements received ahead of their use: exchange × 2^26 + position, code + 1 (R254). The exchange of device level j
  is j in the reduce phase and 32 + j in the gather phase. -/
  recv : SMap Nat := []
  /-- Elements received by exchange, plus 1 once a packet has come; and the port on which they came. -/
  got : SMap Nat := []
  via : SMap Nat := []
  /-- Its pair of buffers in the staging area, and what they hold: exchange, first position and elements (R254, R255). -/
  pair : Nat := 0
  staged : List (Nat × Nat × Nat) := []
  /-- Final values that the update engine has consumed before the bale's end. -/
  used : List Nat := []
  deriving DecidableEq, Repr

/-- What step 1 has read for an operation: each tensor descriptor, with its address, in the order of its roles, and the
parameter block of an attention operation. Assumption 59 (DEDUCED). -/
structure Got where
  tds : List (Nat × Nat) := []
  par : Nat := 0
  deriving DecidableEq, Repr

/-- An operation that has been taken and has not ended (R34, R38). Assumption 25 (DESIGN CHOICE). -/
structure Op where
  /-- Core number, or table number 0x328 to 0x32B of a memory engine or thresher. -/
  unit : Nat
  /-- Command stream 0 to 3, 4 for the furrow stream, 5 for a DMA instruction. -/
  stream : Nat
  ring : Nat := 0xFFFF
  descAddr : Nat := 0
  desc : Nat := 0
  phase : Phase := .submitted
  /-- Leave held, mW. -/
  held : Nat := 0
  /-- Leave class request in the queue, mW. -/
  ask : Nat := 0
  /-- The value of WINNOW_STEP when step 4 began (R62). -/
  step : Nat := 0
  /-- Submitting context plus 1, for a DMA instruction. -/
  ctx : Nat := 0
  /-- Furrow entry that started it: table, epoch and entry. -/
  entry : Option (Nat × Nat × Nat) := none
  /-- Epoch in which its wait began. -/
  waitEpoch : Nat := 0
  /-- Crib fence taken (R189). -/
  fence : Option Nat := none
  upd : Option UpdRun := none
  bale : Option Bale := none
  /-- Count of the start beat of a bale. -/
  beat : Nat := 0
  /-- Step 4 has found that it must wait: for a context, a crib fence or an armed place. -/
  blocked : Bool := false
  got : Got := {}
  deriving DecidableEq, Repr

/-- Who made a semaphore request (R342). -/
inductive SemWho where
  | ctx (core ctx dest : Nat)
  | op (id : Nat)
  | fill (id : Nat)
  | slot (die : Nat)
  | host (slot : Nat)
  | steward (n : Nat)
  | device
  deriving DecidableEq, Repr

/-- A waiting request: a wait for `n`, or a lock; the epoch in which it began. -/
structure SemReq where
  who : SemWho
  n : Nat
  lock : Bool := false
  sem : Nat := 0
  epoch : Nat := 0
  /-- Assumption 37 (DEDUCED). -/
  counted : Bool := false
  crossed : Bool := false
  deriving DecidableEq, Repr

/-- State of a semaphore (R340): 0 FREE, 1 HELD, 2 ORPHANED. -/
structure Sem where
  count : Nat := 0
  st : Nat := 0
  owner : Nat := 0
  waits : List SemReq := []
  deriving DecidableEq, Repr

/-- A ring (R356, R357, R364). Assumption 13 (DEDUCED). -/
structure Ring where
  base : Nat := 0
  log2 : Nat := 4
  binding : Nat := 0
  target : Nat := 0
  notify : Nat := 0xFFFF
  p : Nat := 0
  c : Nat := 0
  stopped : Bool := false
  overflows : Nat := 0
  refused : Nat := 0
  deriving DecidableEq, Repr

/-- A bank of a furrow table. -/
structure Bank where
  entries : List Nat := []
  valid : Bool := true
  /-- Invalid by R339: its entries were loaded under another EPOCH_BEATS. -/
  stale : Bool := false
  deriving DecidableEq, Repr

/-- A place in table order: epoch and entry. -/
structure Place where
  epoch : Nat := 0
  entry : Nat := 0
  deriving DecidableEq, Repr

/-- An entry between its watch point and its start, with the descriptor read there (R317). -/
structure Watch where
  epoch : Nat
  entry : Nat
  desc : Nat := 0
  /-- The descriptor could not be read, or its send was refused: the entry starts nothing. -/
  bad : Bool := false
  deriving DecidableEq, Repr

/-- A furrow table (R312, R316, R319). -/
structure Table where
  active : Nat := 0
  /-- First epoch that the active bank serves; the other bank serves what is left of earlier ones (R319). -/
  since : Nat := 0
  bank0 : Bank := {}
  bank1 : Bank := {}
  swap : Option (Nat × Nat) := none
  next : Place := {}
  watch : Place := {}
  resv : Place := {}
  open_ : List Watch := []
  overrun : List Place := []
  deriving DecidableEq, Repr

/-- A reservation of leave for a furrow entry (R486). -/
structure Resv where
  beat : Nat
  table : Nat
  entry : Nat
  epoch : Nat
  cost : Nat
  die : Nat
  made : Bool := false
  deriving DecidableEq, Repr

/-- A load in progress (R319). -/
structure FurrowLoad where
  table : Nat
  bank : Nat
  src : Nat
  entries : Nat
  swap : Nat
  deriving DecidableEq, Repr

/-- An outstanding hold at the master (R324). -/
structure Held where
  origin : Nat
  beat : Nat
  reason : Nat
  seq : Nat
  deriving DecidableEq, Repr

/-- A hold condition of this device (R323): what raises it, the beat it names and its reason. -/
structure Cond where
  key : Nat
  beat : Nat
  reason : Nat
  deriving DecidableEq, Repr

/-- The almanac unit beside its dictionary objects (R299 to R331). -/
structure Alm where
  /-- Highest master sequence number heard, or sent on the master; whether one has been heard, and of which master. -/
  masterSeq : Nat := 0
  heard : Bool := false
  master : Nat := 0
  /-- Ticks since a newer master sequence number (R304). -/
  silent : Nat := 0
  /-- Consecutive beacons with the parent offset within 2 ns. -/
  good : Nat := 0
  /-- Depth heard on each port, plus 1. -/
  depths : SMap Nat := []
  /-- Beat periods that have passed, and the one in which each port last brought its neighbour's beacon, plus 1. -/
  now : Nat := 0
  heardAt : SMap Nat := []
  /-- Sequence number, plus 1, of the last beacon forwarded for a second master (R302, R304). -/
  others : SMap Nat := []
  /-- Outstanding holds, oldest first; every device hears them, the master acts on them. -/
  holds : List Held := []
  /-- Last HOLD or RELEASE message number applied per origin, plus 1. -/
  lastMsg : SMap Nat := []
  /-- Messages already forwarded: origin × 2^24 + number. -/
  seen : List Nat := []
  msgSeq : Nat := 0
  conds : List Cond := []
  own : Option (Nat × Nat) := none
  /-- A START received: E0 and Tst. -/
  start : Option (Nat × Nat) := none
  /-- A RESUME received: Tres and Gn. -/
  resume : Option (Nat × Nat) := none
  /-- The stop beat, from its choice to the next START. -/
  stop : Option Nat := none
  /-- A reason of the present stop has been recorded. -/
  stopAsked : Bool := false
  /-- A hold has brought the grant below its beat; the grant rises only by RESUME or START (R324). -/
  capped : Bool := false
  /-- Ticks the count has stood without a break. -/
  stoodTicks : Nat := 0
  started : Bool := false
  /-- The first beat of E0 has not been recorded yet (R307). -/
  e0Due : Bool := false
  /-- A FATAL record was posted while RUNNING: FAULT follows instead of STOPPED (R535). -/
  fatal : Bool := false
  /-- Reported hop counts of members: origin, in-field and inter-field (R306). -/
  hops : List (Nat × Nat × Nat) := []
  /-- Tick phase steered so far, ps. -/
  phasePs : Int := 0
  /-- Device time at which the frequency was last steered, ms. -/
  steerMs : Nat := 0
  /-- Tick of the last beacon sent in LOCKED, plus 1. -/
  sentAt : Nat := 0
  /-- An IEEE 1588 stamp that the next beacon carries (R307). -/
  ptpNew : Bool := false
  deriving DecidableEq, Repr

/-- A step procedure in progress (R226, R258): the epoch whose boundary it belongs to; `level` counts the device levels
done once the exchange has begun. -/
structure StepRun where
  boundary : Nat
  begun : Bool := false
  level : Nat := 0
  words : List Nat := []
  /-- What the record's pairs of words belong to: 0 scale slot, 1 group, 2 bale scale entry; its number; and whether the
  entry could be read. -/
  items : List (Nat × Nat × Bool) := []
  deriving DecidableEq, Repr

/-- A position of a thresher's window: its place in the shuffle, its descriptor and, once decoded, what its slot will
hold (R281). -/
structure Lane where
  epoch : Nat
  k : Nat
  pos : Nat
  sample : Nat
  cls : Nat
  desc : Nat
  /-- Its number among the positions that the thresher has taken. -/
  seq : Nat := 0
  done : Bool := false
  /-- The sample record, and what is written beside it: offset in the slot and bytes. -/
  head : Nat := 0
  body : List (Nat × List Byte) := []
  /-- Of a drop, its reason; else the flags and saturations of the decode. -/
  drop : Option Nat := none
  flags : Nat := 0
  sats : Nat := 0
  /-- Parts of the work area that hold the decoded sample: address and bytes. -/
  work : List (Nat × Nat) := []
  deriving DecidableEq, Repr

/-- A position that has left the window, emitted or passed over, and its class (R297). -/
structure Past where
  epoch : Nat
  k : Nat
  cls : Nat
  seq : Nat := 0
  skipped : Bool := false
  deriving DecidableEq, Repr

/-- A thresher beside its dictionary objects (R281, R293, R297). -/
structure Thr where
  /-- The THRESH_RUN that is armed, and the positions that it has still to emit. -/
  run : Option Nat := none
  left : Nat := 0
  lanes : List Lane := []
  /-- Positions taken since the thresher was cleared. -/
  taken : Nat := 0
  /-- Merge table: left id + right id × 2^32 of each entry. -/
  merges : List Nat := []
  /-- Where the wait for the oldest position's slot stands. -/
  waitSlot : Bool := false
  slotGranted : Bool := false
  slotOrphan : Bool := false
  /-- Positions that have left the window, in order, from the oldest whose slot its consumer has not freed. -/
  past : List Past := []
  deriving DecidableEq, Repr

/-- Blocks on their way over a link, and the numbers of those that came from an uncorrectable codeword (R407). Of a message
in transit, the port it came through, plus 1, and the blocks that have not arrived yet. -/
structure Msg where
  bytes : List Byte := []
  bad : List Nat := []
  src : Nat := 0
  left : Nat := 0
  deriving DecidableEq, Repr

/-- A frame kept until it is acknowledged (R412). -/
structure Kept where
  seq : Nat
  kind : Nat
  vc : Nat
  msg : Msg
  deriving DecidableEq, Repr

/-- What becomes of the VC2 message that a port is receiving. -/
inductive RxTo where
  /-- It leaves the receive buffer at once: for the fabric, or lost. -/
  | take
  /-- A reduction packet, which waits in the buffer. -/
  | keep
  /-- In transit to another port. -/
  | pass (port : Nat)
  deriving DecidableEq, Repr

/-- A field port beside its dictionary objects (R409 to R412, R419). -/
structure Port where
  /-- SEQ of the next DATA or CONTROL frame; highest SEQ received in order. -/
  txSeq : Nat := 1
  rxSeq : Nat := 0
  /-- Frames kept until acknowledged; while a replay is under way, how many from the front it has sent again. -/
  replay : List Kept := []
  resend : Option Nat := none
  /-- The SEQ replayed last from the front, and how often. -/
  lastReplay : Nat := 0
  replays : Nat := 0
  /-- Beacons and control messages to send: KIND and data blocks. -/
  ctlQ : List (Nat × List Byte) := []
  /-- Messages to send on each virtual channel; the last DATA frame of the lower two was of VC0 (R411). -/
  vc0 : List Msg := []
  vc1 : List Msg := []
  vc2 : List Msg := []
  turn : Bool := false
  /-- Codewords sent since the last alignment marker (R404). -/
  words : Nat := 0
  /-- Flits sent on each channel and not yet returned, oldest first: whether each took a reserved credit. -/
  credits : SMap (List Bool) := []
  /-- Last cumulative credit value heard for each channel. -/
  heard : SMap Nat := []
  /-- Bytes sent and received by channel that do not yet fill a flit. -/
  txPart : SMap Nat := []
  rxPart : SMap Nat := []
  /-- Flits freed by channel since training. -/
  freed : SMap Nat := []
  nakOwed : Bool := false
  /-- The message of VC2 that is being received: what becomes of it, the blocks still to come, and those kept; and the whole
  reduction packets that wait in the receive buffer (R409, R410). -/
  rxTo : RxTo := .take
  rxLeft : Nat := 0
  rx2 : Msg := {}
  inbox : List Msg := []
  /-- The port has left UP while RUNNING: no traffic until a new start (R420). -/
  cut : Bool := false
  /-- Own beacons to send, without the stamps and counters that transmission fills in; the last number given; the
  numbers of those sent with their stamps, ps. -/
  beacons : List Beacon := []
  beaconId : Nat := 0
  sent : List (Nat × Nat) := []
  /-- The partner's beacon received last: its tick, fraction and number. -/
  rxTick : Nat := 0
  rxPs : Nat := 0
  rxId : Nat := 0
  /-- Uncorrectable FEC codewords in the present second. -/
  fecWindow : Nat := 0
  /-- The laser module reports its light, at 15.0 dBm or more at the package (ELS_OK). Assumption 10 (DESIGN CHOICE). -/
  laserOk : Bool := true
  deriving DecidableEq, Repr

/-- An open transmission slot (R423): the frames left and the leave held. -/
structure Slot where
  port : Nat
  entry : Nat
  left : Nat
  leave : Nat
  deriving DecidableEq, Repr

/-- A queue pair (R436, R456). -/
structure Qp where
  st : Nat := 0
  port : Nat := 0
  rqpn : Nat := 0
  ipHi : Nat := 0
  ipLo : Nat := 0
  psn : Nat := 0
  pmtu : Nat := 2
  sport : Nat := 0xC000
  /-- The port's address that its first packet came to, and that it is bound to from then on; 0 before. Assumption 118
  (DESIGN CHOICE). -/
  lip : Nat := 0
  cause : Nat := 0
  rxBytes : Nat := 0
  msn : Nat := 0
  /-- An RDMA WRITE in progress: key, next address and bytes left. -/
  wr : Option (Nat × Nat × Nat) := none
  /-- A SEND in progress: the bytes of its packets so far. -/
  snd : Option (List Byte) := none
  nakSent : Bool := false
  /-- Read response rate, Mb/s; 0: the MAC rate. -/
  rate : Nat := 0
  deriving DecidableEq, Repr

/-- A memory region (R437, R456). -/
structure Mr where
  base : Nat := 0
  len : Nat := 0
  rkey : Nat := 0
  acc : Nat := 0
  en : Bool := false
  deriving DecidableEq, Repr

/-- A segmented write in progress (R453). -/
structure SegW where
  idx : Nat
  sub : Nat
  total : Nat
  data : List Byte := []
  deriving DecidableEq, Repr

/-- A YDP session slot (R448 to R453): state 0 FREE, 1 HANDSHAKE, 2 OPEN. -/
structure Session where
  st : Nat := 0
  gen : Nat := 0
  keySlot : Nat := 0xFF
  ip : Nat := 0
  uport : Nat := 0
  eport : Nat := 0
  /-- The local address that its HELLO came to. -/
  lip : Nat := 0
  /-- The agreed key: host to device, then device to host (R448). -/
  key : List Byte := []
  /-- The S_A that CONFIRM must carry. -/
  sa : List Byte := []
  lastSeq : Nat := 0
  lastResp : List Byte := []
  /-- Uptime at the HELLO, or at the last accepted request, ms. -/
  seenMs : Nat := 0
  seg : Option SegW := none
  deriving DecidableEq, Repr

/-- A transmit pause of one priority (R442): since when, and whether its storm has been counted. -/
structure Pause where
  prio : Nat
  sinceMs : Nat
  storm : Bool := false
  deriving DecidableEq, Repr

/-- What a UDP datagram of the device carries: a YDP message, or a RoCEv2 packet with its destination queue pair, opcode, PSN,
syndrome of an acknowledgement, and payload (R435, R445). -/
inductive Load where
  | ydp (bytes : List Byte)
  | roce (qp opcode psn syndrome : Nat) (data : List Byte)
  | echo (data : List Byte)
  deriving DecidableEq, Repr

/-- An IP packet that the device sends (R433): addresses, UDP ports (0 for an echo reply), DSCP, whether it is marked ECT(0)
(R443), its TTL or hop limit, and DF. -/
structure Dgram where
  src : Nat
  dst : Nat
  sport : Nat := 0
  dport : Nat := 0
  dscp : Nat := 0
  ect : Bool := false
  ttl : Nat := 64
  df : Bool := true
  load : Load
  deriving DecidableEq, Repr

/-- What a frame of the device carries: a packet, an ARP or neighbour discovery message about an address, from an own one
(R432), a PFC frame (R442), or a delay request of the 1588 clock (R444). -/
inductive TxBody where
  | ip (d : Dgram)
  | arp (reply : Bool) (target own : Nat)
  | nd (reply : Bool) (target own : Nat)
  | pfc (prios : List Nat) (quanta : Nat)
  | delayReq (overEth : Bool) (domain seq : Nat)
  deriving DecidableEq, Repr

/-- A frame that a host port sends, with its VLAN (0: untagged) and PCP (R431). -/
structure TxFrame where
  port : Nat
  dst : Nat
  src : Nat
  vlan : Nat
  prio : Nat
  body : TxBody
  deriving DecidableEq, Repr

/-- The 1588 clock of a port (R444): when the last Sync was sent and received, and the last delay request sent and received, ns;
whether the master sends in two steps, and the number of the last delay request. -/
structure Ptp where
  t1 : Nat := 0
  t2 : Nat := 0
  t3 : Nat := 0
  t4 : Nat := 0
  twoStep : Bool := false
  seq : Nat := 0
  deriving DecidableEq, Repr

/-- Per host port state beside its dictionary objects (R432, R434, R442, R444, R454). -/
structure EthPort where
  /-- Address objects in effect since the port came up (R434). -/
  ip4 : Nat := 0
  ip4pfx : Nat := 0
  ip4gw : Nat := 0
  ip6 : Nat := 0
  ip6pfx : Nat := 64
  ip6gw : Nat := 0
  /-- Neighbours whose MAC address is known, by IP address, and frames that wait for one, with its IP address (R432). -/
  neigh : SMap Nat := []
  waiting : List (Nat × TxFrame) := []
  /-- Priorities for which XOFF has been sent and not yet XON. -/
  xoff : List Nat := []
  /-- Assumption 71 (DESIGN CHOICE). -/
  paused : List Pause := []
  /-- Frames of paused priorities. -/
  txq : List TxFrame := []
  ptp : Ptp := {}
  deriving DecidableEq, Repr

/-- The slot record of one image kind (R524): active slot, its state (0 CONFIRMED, 1 PENDING, 2 TRIAL), and the REJECTED
bits. -/
structure SlotRec where
  active : Nat := 0
  st : Nat := 0
  rejA : Bool := false
  rejB : Bool := false
  deriving DecidableEq, Repr

/-- The SPI NOR flash (R511): the bytes of each region; an erased region is empty. The slot record is held as what it
says, with whether a valid copy stands. Images are keyed by 2 × kind + slot. Assumption 9 (DESIGN CHOICE). -/
structure Flash where
  copy0 : List Byte := []
  copy1 : List Byte := []
  recordOk : Bool := false
  slots : SMap SlotRec := []
  prov : List Byte := []
  images : SMap (List Byte) := []
  deriving DecidableEq, Repr

/-- The fuses (R510). Assumption 8 (DESIGN CHOICE). -/
structure Fuses where
  serial : Nat := 0
  macBase : Nat := 0
  secret : Nat := 0
  rootHash : Nat := 0
  debugLock : Bool := true
  svn : Nat := 0
  options : Nat := 2 ^ 64 - 1
  trim : Nat := 0
  steppings : List Nat := [0, 0, 0, 0, 0, 0, 0]
  deriving DecidableEq, Repr

/-- The control pins that hold a level (R552): `tripped` says that THERMTRIP_N is low. Assumption 10 (DESIGN CHOICE). -/
structure Pins where
  pwrok : Bool := true
  tripped : Bool := false
  deriving DecidableEq, Repr

/-- Counts of one subchannel (R379 to R383). -/
structure Subch where
  ce : Nat := 0
  ue : Nat := 0
  /-- Uptime, ms, of the corrections of the last hour that no alarm has named yet (R381). -/
  hour : List Nat := []
  pos : Nat := 0
  deriving DecidableEq, Repr

/-- The settings 0x4200 to 0x4209 that are in force: taken when a port trains (R428). Assumption 65 (DEDUCED). -/
structure LinkCfg where
  x : Nat := 0
  y : Nat := 0
  z : Nat := 0
  w : Nat := 0
  ex : Nat := 1
  ey : Nat := 1
  ez : Nat := 1
  ew : Nat := 1
  field : Nat := 0
  fields : Nat := 1
  deriving DecidableEq, Repr

/-- What the device sends: outputs in the order sent. Assumption 15 (DESIGN CHOICE). -/
inductive Output where
  /-- An error record sent to the master (R539), and a member's hop counts (R306), over VC0. -/
  | record (r : Nat)
  | hops (origin hf hi : Nat)
  /-- A codeword on the eight lanes of a port, and an alignment marker (R404). Assumption 103 (PRESUMED). -/
  | line (port : Nat) (lanes : List Nat)
  | marker (port : Nat)
  /-- What the destination of a send learns beside its data (R424, R425). -/
  | send (port dest dst dsem : Nat) (en : Bool)
  /-- A frame of a host port (R431). -/
  | eth (f : TxFrame)
  /-- A host port begins to train its link in a mode, on these lanes; a copper mode is what auto-negotiation advertises
  (R429, R430). -/
  | ethTrain (port mode : Nat) (lanes : List Nat) (copper : Bool)
  /-- The status and value that a steward sees of its request (R462). -/
  | steward (n status value : Nat)
  /-- A pin changes: 100 + n is ELS_ENn, 200 THERMTRIP_N (R552). -/
  | pin (name : Nat) (value : Bool)
  deriving DecidableEq, Repr

structure State where
  /-- Commands that wait, first in first out (the model's own). Assumption 1 (DESIGN CHOICE). -/
  pending : List Instr := []
  /-- What the device has sent (the model's own record of its outputs). Assumption 15 (DESIGN CHOICE). -/
  out : List Output := []
  /-- Live values of the dictionary by index × 256 + subindex; unlisted objects have their default. -/
  obj : SMap Nat := []
  /-- Live values of the BLOB objects that hold one. -/
  blob : SMap (List Byte) := []
  /-- Copies of the selectors and probes (R459): requester × 2^24 + key. -/
  sel : SMap Nat := []
  selBlob : SMap (List Byte) := []
  /-- Counter of the open values drawn (the model's own). Assumption 11 (DESIGN CHOICE). -/
  freeCtr : Nat := 0
  /-- LPDDR6 and lofts by device address (R370). -/
  mem : List Host.Cell := []
  /-- Stored check bits of a codeword, exclusive-ored with those of its stored data (R374, R375). -/
  chk : SMap Nat := []
  /-- The same for vector registers, mask registers and context store (R110), by core × 2^17 + codeword. -/
  vchk : SMap Nat := []
  subch : SMap Subch := []
  pkgTemp : SMap Nat := []
  /-- 32-bit slots of the vector registers: (core × 16 + register) × 8,192 + slot. -/
  vreg : SMap Nat := []
  /-- Mask registers: core × 8 + register. -/
  mreg : SMap Nat := []
  ctxs : SMap Ctx := []
  ops : SMap Op := []
  nextOp : Nat := 0
  /-- Streams from which nothing further is issued (R39): unit × 8 + stream. -/
  stopped : List Nat := []
  sems : SMap Sem := []
  /-- Assumption 37 (DEDUCED). -/
  unrec : List SemReq := []
  rings : SMap Ring := []
  tables : SMap Table := []
  load : Option FurrowLoad := none
  alm : Alm := {}
  stepRun : Option StepRun := none
  /-- A step procedure was abandoned (R258, R331): no entry of this epoch or a later one starts. -/
  stepDead : Option Nat := none
  /-- Step boundaries reached while an earlier step procedure was unfinished, in order (R310). -/
  stepQueue : List Nat := []
  /-- Census records received, by device level: length and words follow the sender (R258). -/
  censusRecv : SMap (List Nat) := []
  /-- Elements delivered to the update engines and not yet consumed: bale × 2^26 + position. -/
  updWait : SMap Nat := []
  /-- Table through which each bale with elements in `updWait` was started, plus 1. -/
  baleFrom : SMap Nat := []
  /-- Bales whose final values have all been delivered, with element count and census. -/
  balesDone : List (Nat × Nat × Nat) := []
  /-- Bales of the step that have been aborted. -/
  balesAborted : List Nat := []
  /-- Element ranges of update operations that failed: what still arrives for them is discarded (R221, R229). First
  bale, offset, last bale, elements. -/
  updDiscard : List (Nat × Nat × Nat × Nat) := []
  /-- WMAX + 32,768 and WSAT of each group in the step (R225). -/
  wmax : SMap Nat := []
  wsat : SMap Nat := []
  /-- This device has aborted a bale in the step (R258). -/
  abortedInStep : Bool := false
  earlyPkts : List (Nat × RedPacket) := []
  leaveQ : List Nat := []
  /-- Cores whose operations have waited at step 3: their CORE_LEAVE_WAIT_CYCLES is open (R478). -/
  waited : List Nat := []
  /-- Operations past step 3 that have not begun step 4, in the order in which their step 3 ended (R98). -/
  readyQ : List Nat := []
  resvs : List Resv := []
  /-- A supply dip episode is in force (R490). -/
  dip : Bool := false
  thermSteps : SMap Nat := []
  dipSteps : SMap Nat := []
  /-- Open crib fences (R189), and head and length of the reclaim ring (R188). -/
  fences : List Nat := []
  ringHead : Nat := 0
  thrs : SMap Thr := []
  ports : SMap Port := []
  slots : List Slot := []
  qps : SMap Qp := []
  mrs : SMap Mr := []
  sessions : SMap Session := []
  eths : SMap EthPort := []
  /-- Error log by SEQ (R539). -/
  log : SMap Nat := []
  fieldFirst : Option Nat := none
  fieldStamps : List Nat := []
  /-- Assumption 9 (DESIGN CHOICE). -/
  flash : Flash := {}
  /-- Assumption 8 (DESIGN CHOICE). -/
  fuses : Fuses := {}
  pins : Pins := {}
  /-- RoCEv2 packets that wait in the receive buffers while LPDDR6 is in self-refresh, in arrival order (R454). -/
  roceHeld : List (RocePkt × Bool) := []
  /-- The second in which HELLO messages were last counted, and how many (R448). -/
  helloSec : Nat × Nat := (0, 0)
  /-- A reset of R497 that has been asked for and not begun, and one in progress: RESET_KIND and target. -/
  resetAsked : Option (Nat × Nat) := none
  resetRun : Option (Nat × Nat) := none
  /-- Steps of FALLOW entry or exit that have ended (R501). -/
  fallowStep : Nat := 0
  /-- The copy that a STORE writes (R474). -/
  storeRun : Option (List Byte) := none
  /-- Copy slot in force, 0 or 1 (R518). -/
  storeSlot : Option Nat := none
  /-- An image being staged: kind and bytes (R527). -/
  fwStage : Option (Nat × List Byte) := none
  /-- Requesters whose attestation report is being built (R522). -/
  attestRun : List Nat := []
  /-- Uptime of the last watchdog expiry of a steward, plus 1 (R497). -/
  watchdogMs : Nat := 0
  /-- Uptime at which each PLL that is COASTING lost its reference, plus 1 (R495). -/
  pllSince : SMap Nat := []
  /-- Energy below 1 J, µJ. -/
  energyUj : Nat := 0
  /-- A memory rail has reached its reset level: LPDDR6 contents are lost (R489). -/
  memLost : Bool := false
  /-- Objects that take effect later than their write (R464): the UDP port and memory rate in force. -/
  udpPort : Nat := 47110
  memRate : Nat := 2
  linkCfg : LinkCfg := {}
  deriving DecidableEq, Repr

/-- Right after reset (POR with power good): every object at its default, every memory, register and queue as the
fields above say. Assumptions 6 (DESIGN CHOICE), 7 (DESIGN CHOICE), 8 (DESIGN CHOICE), 10 (DESIGN CHOICE). -/
def State.reset : State := {}

end Sys2Proof.Machine
end

