-- ==== Sys2Proof/Machine/Ops.lean ====
section
/-! DEFINITION. The named operations over the state that the meanings share: dictionary values, open values,
memory behind the 144/128 code, stamps, stop requests, semaphores, rings, events and error records. -/
namespace Sys2Proof.Machine

/-- The three outcomes, with the model's own types. -/
abbrev Out := Host.Outcome State Fault Refusal

/-! ### Dictionary values -/

/-- Value of an object (repetition `i`, member `j`). -/
def State.getO (s : State) (o : ObjDef) (i : Nat := 0) (j : Nat := 0) : Nat := SMap.get o.dflt s.obj (o.key i j)

/-- Set the value of an object. -/
def State.setO (s : State) (o : ObjDef) (v : Nat) (i : Nat := 0) (j : Nat := 0) : State :=
  { s with obj := SMap.set o.dflt s.obj (o.key i j) v }

/-- Signed value of an I32 object. -/
def State.getI (s : State) (o : ObjDef) (i : Nat := 0) (j : Nat := 0) : Int := toSigned 32 (s.getO o i j)
def State.setI (s : State) (o : ObjDef) (v : Int) (i : Nat := 0) (j : Nat := 0) : State :=
  s.setO o (ofSigned 32 v) i j

/-- The next open value of the spec, below `2^w`. Assumption 11 (DESIGN CHOICE). -/
def State.free (s : State) (w : Nat) : Nat := Config.freeValue s.freeCtr % 2 ^ w
/-- Assumption 11 (DESIGN CHOICE). -/
def State.drew (s : State) : State := { s with freeCtr := s.freeCtr + 1 }

/-- Add to a counter. What a counter reads past its width is an open value. Assumption 12 (DESIGN CHOICE). -/
def State.incO (s : State) (o : ObjDef) (n : Nat := 1) (i : Nat := 0) (j : Nat := 0) : State :=
  let v := s.getO o i j + n
  if v < 2 ^ (8 * o.ty.bytes) then s.setO o v i j
  else (s.setO o (s.free (8 * o.ty.bytes)) i j).drew

/-- Set bits of a flag word. -/
def State.orO (s : State) (o : ObjDef) (m : Nat) (i : Nat := 0) (j : Nat := 0) : State :=
  if m = 0 then s else s.setO o (s.getO o i j ||| m) i j

/-- Clear the bits of a mask in a flag word. -/
def State.clearBits (s : State) (o : ObjDef) (m : Nat) (i : Nat := 0) (j : Nat := 0) : State :=
  s.setO o (s.getO o i j &&& (255 ^^^ (m % 256))) i j

/-- Keep the larger of an object's value and `v`. -/
def State.maxO (s : State) (o : ObjDef) (v : Nat) (i : Nat := 0) (j : Nat := 0) : State :=
  if s.getO o i j < v then s.setO o v i j else s

/-- Assumption 15 (DESIGN CHOICE). -/
def State.emit (s : State) (o : Output) : State := { s with out := s.out ++ [o] }

/-- Device states of R466. -/
def stOFF : Nat := 0
def stFUSED : Nat := 1
def stCONFIGURED : Nat := 2
def stREADY : Nat := 3
def stRUNNING : Nat := 4
def stSTOPPED : Nat := 5
def stFALLOW : Nat := 6
def stFAULT : Nat := 7

def State.dev (s : State) : Nat := s.getO Obj.DEVICE_STATE
def State.running (s : State) : Bool := decide (s.dev = stRUNNING)
def State.readyOrStopped (s : State) : Bool := decide (s.dev = stREADY) || decide (s.dev = stSTOPPED)

/-- Change the device state (R468). -/
def State.setDev (s : State) (n : Nat) : State :=
  if s.dev = n then s
  else
    let old := s.dev
    let s := s.setO Obj.DEVICE_STATE n
    let s := s.setO Obj.DEVICE_STATE_PRIOR old
    let s := s.incO Obj.DEVICE_STATE_CHANGES
    s.setO Obj.DEVICE_STATE_SINCE_MS (s.getO Obj.DEVICE_UPTIME_MS)

/-! ### Units and numbers -/

def coreCount : Nat := 800
/-- Compute die of a core (R14). -/
def dieOfCore (n : Nat) : Nat := n / 400
/-- Compute die of the unit of a table number (R312). -/
def dieOfUnit (u : Nat) : Nat :=
  if u < 800 then u / 400
  else if u < 0x328 then (u - 0x320) / 4
  else (u - 0x328) % 2

/-- First byte and bytes of the four arrays of a group (R204). -/
def State.groupArrays (s : State) (g : Nat) : List (Nat × Nat) :=
  let n := s.getO Obj.GROUP_ELEMS g
  [(s.getO Obj.GROUP_MASTER_BASE g, 4 * n), (s.getO Obj.GROUP_WORK_BASE g, 2 * n),
   (s.getO Obj.GROUP_MOM1_BASE g, 4 * n), (s.getO Obj.GROUP_MOM2_BASE g, 4 * n)]

/-- First address of the LPDDR6 of CD1 (R370). -/
def lpHalf : Nat := 0x018000000000

/-- Home die of a group (R206). -/
def State.homeDie (s : State) (g : Nat) : Nat :=
  if s.getO Obj.GROUP_ELEMS g = 0 then 0xFF
  else
    let rs := s.groupArrays g
    if rs.all fun (p : Nat × Nat) => decide (p.1 + p.2 ≤ lpHalf) then 0
    else if rs.all fun (p : Nat × Nat) => decide (lpHalf ≤ p.1) then 1
    else 0xFF

/-! ### The address map (R370) -/

inductive Region where
  | lp
  | loft (core : Nat)
  | bell
  | dict
  | unmapped
  deriving DecidableEq, Repr

def lpEnd : Nat := 0x030000000000
def loftBase (n : Nat) : Nat := 0x030000000000 + n * 0x400000
def loftSize : Nat := 0x300000
def bellBase : Nat := 0x040000000000
def dictBase : Nat := 0x040100000000

def regionOf (a : Nat) : Region :=
  if a < lpEnd then .lp
  else if a < loftBase 800 then
    if (a - lpEnd) % 0x400000 < loftSize then .loft ((a - lpEnd) / 0x400000) else .unmapped
  else if bellBase ≤ a ∧ a < bellBase + 0x10000 then .bell
  else if dictBase ≤ a ∧ a < dictBase + 0x8000000 then .dict
  else .unmapped

/-- Bytes a to a + n − 1 lie in one region of memory: LPDDR6 or one loft window (R31). -/
def inOneRegion (a n : Nat) : Bool :=
  match regionOf a with
  | .lp => decide (a + n ≤ lpEnd)
  | .loft c => decide (a + n ≤ loftBase c + loftSize)
  | _ => false

def inLp (a n : Nat) : Bool := decide (a + n ≤ lpEnd)
def inLoft (core a n : Nat) : Bool := decide (loftBase core ≤ a) && decide (a + n ≤ loftBase core + loftSize)

/-- Subchannel of an LPDDR6 address, 0 to 255 (R366, R371). -/
def subchOf (a : Nat) : Nat :=
  let d := a / 0x18000000000
  let o := a - d * 0x18000000000
  let sc := (o / 256) % 128
  d * 128 + sc

/-- Byte offset within the subchannel (R371). -/
def subchOffset (a : Nat) : Nat :=
  let d := a / 0x18000000000
  let o := a - d * 0x18000000000
  (o / 256) / 128 * 256 + o % 256

/-- The address of a byte offset of a subchannel: the inverse of R371. -/
def subchAddr (sub off : Nat) : Nat :=
  (sub / 128) * 0x18000000000 + ((off / 256) * 128 + sub % 128) * 256 + off % 256

/-- Package of an address. -/
def packageOf (a : Nat) : Nat := subchOf a / 8

/-! ### Plain bytes -/

/-- Memory is in its canonical form: addresses rise, and no listed byte is 0, which an unlisted one reads as.
Assumption 6 (DESIGN CHOICE). -/
def Memory.wf (m : List Host.Cell) : Bool := SMap.wf 0 m

/-- Assumption 6 (DESIGN CHOICE). -/
def State.byte (s : State) (a : Nat) : Byte := SMap.get 0 s.mem a
def State.setByte (s : State) (a : Nat) (b : Byte) : State := { s with mem := SMap.set 0 s.mem a b }

/-- Bytes of a list of cells. -/
def bytesOf (m : List Host.Cell) : Nat → Nat → List Byte
  | _, 0 => []
  | a, n + 1 => SMap.get 0 m a :: bytesOf m (a + 1) n

def putBytes (m : List Host.Cell) : Nat → List Byte → List Host.Cell
  | _, [] => m
  | a, b :: bs => putBytes (SMap.set 0 m a b) (a + 1) bs

/-- Bytes as stored, with no check of the code. -/
def State.peek (s : State) (a n : Nat) : List Byte := bytesOf s.mem a n
/-- Store bytes, with no check of the code. -/
def State.poke (s : State) (a : Nat) (bs : List Byte) : State := { s with mem := putBytes s.mem a bs }

/-! ### The 144/128 code (R374 to R376) -/

/-- Product in GF(16) with x^4 + x + 1. -/
def gfMul (a b : Nat) : Nat :=
  let r := (if b.testBit 0 then a else 0) ^^^ (if b.testBit 1 then a * 2 else 0) ^^^
    (if b.testBit 2 then a * 4 else 0) ^^^ (if b.testBit 3 then a * 8 else 0)
  let r := if r.testBit 6 then r ^^^ 0x4C else r
  let r := if r.testBit 5 then r ^^^ 0x26 else r
  if r.testBit 4 then r ^^^ 0x13 else r

/-- Column (h0, h1, h2, h3) of symbol j (R374). -/
def eccCol (j : Nat) : Nat × Nat × Nat × Nat :=
  if j < 32 then
    let x := j % 16
    let y := if j < 16 then 2 else 3
    (1, x, y, gfMul x x ^^^ gfMul x y ^^^ gfMul 8 (gfMul y y))
  else if j = 32 then (1, 0, 0, 0)
  else if j = 33 then (0, 0, 0, 1)
  else if j = 34 then (1, 1, 0, 1)
  else (1, 0, 1, 8)

/-- Symbol j of a 144-bit word. -/
def eccSym (w j : Nat) : Nat := (w >>> (4 * j)) % 16

def eccSyndromeFrom (w : Nat) : List Nat → Nat × Nat × Nat × Nat
  | [] => (0, 0, 0, 0)
  | j :: js =>
    let (a, b, c, d) := eccSyndromeFrom w js
    let (h0, h1, h2, h3) := eccCol j
    let x := eccSym w j
    (a ^^^ gfMul h0 x, b ^^^ gfMul h1 x, c ^^^ gfMul h2 x, d ^^^ gfMul h3 x)

/-- The four syndromes of a 144-bit word. -/
def eccSyndrome (w : Nat) : Nat × Nat × Nat × Nat := eccSyndromeFrom w (List.range 36)

/-- The 16 check bits of 128 data bits (R375). -/
def eccCheck (d : Nat) : Nat :=
  let (d0, d1, d2, d3) := eccSyndromeFrom d (List.range 32)
  let s34 := d1
  let s35 := d2
  let s32 := d0 ^^^ d1 ^^^ d2
  let s33 := d3 ^^^ d1 ^^^ gfMul 8 d2
  s32 + s33 * 16 + s34 * 256 + s35 * 4096

/-- Outcome of R376 for a disturbance of a codeword: none where uncorrectable, else the correction to
exclusive-or into the word. The code is linear, so the outcome depends on the disturbance alone. -/
def eccFix (e : Nat) : Option Nat :=
  let (s0, s1, s2, s3) := eccSyndrome e
  if s0 = 0 ∧ s1 = 0 ∧ s2 = 0 ∧ s3 = 0 then some 0
  else if s0 ≠ 0 then
    ((List.range 36).find? fun j =>
        let (h0, h1, h2, h3) := eccCol j
        decide (h0 = 1) && decide (s1 = gfMul s0 h1) && decide (s2 = gfMul s0 h2) && decide (s3 = gfMul s0 h3)).map
      fun j => s0 <<< (4 * j)
  else if s1 = 0 ∧ s2 = 0 then some (s3 <<< 132)
  else none

/-- The syndromes packed as S3 to S0 in bits [15:0]. -/
def eccPack (e : Nat) : Nat :=
  let (s0, s1, s2, s3) := eccSyndrome e
  s0 + s1 * 16 + s2 * 256 + s3 * 4096

/-- What a codeword decodes to. -/
inductive Cw where
  | ok
  | fixed (data : Nat)
  | bad (syndrome : Nat)
  deriving DecidableEq, Repr

/-- Decode codeword c (address ÷ 16), whose check-bit difference is kept. -/
def State.decodeCw (s : State) (c : Nat) : Cw :=
  let e := SMap.get 0 s.chk c
  if e = 0 then .ok
  else
    let w := e <<< 128
    match eccFix w with
    | some f => .fixed (f % 2 ^ 128)
    | none => .bad (eccPack w)

/-! ### Almanac readings and stamps -/

def State.count (s : State) : Nat := s.getO Obj.ALMANAC_COUNT
def State.locked (s : State) : Bool := decide (s.getO Obj.ALMANAC_STATE = 2)

/-- Epoch and beat of a count (R309). -/
def State.epochOf (s : State) (a : Nat) : Nat × Nat :=
  let eb := s.getO Obj.EPOCH_BEATS
  let e0c := s.getO Obj.SCHED_E0_COUNT
  let d : Int := (a : Int) - (e0c : Int)
  let q := d.fdiv eb
  (ofSigned 32 (q + (s.getO Obj.SCHED_E0 : Int)), (d - q * eb).toNat)

/-- First beat of epoch e (R309), where it does not lie before count 0. -/
def State.firstBeat (s : State) (e : Nat) : Int :=
  (s.getO Obj.SCHED_E0_COUNT : Int) + ((e : Int) - (s.getO Obj.SCHED_E0 : Int)) * (s.getO Obj.EPOCH_BEATS : Int)

/-- A stamp with its EPOCH and BEAT (R363, R537). -/
def State.stampOf (s : State) (a : Nat) : Nat × Nat × Nat :=
  if s.alm.started then
    let (e, b) := s.epochOf a
    (a, e, b)
  else (a, 0xFFFFFFFF, 0)

/-- The stamp of an event, the device's count (R333, R363). -/
def State.stamp (s : State) : Nat × Nat × Nat := s.stampOf s.count

/-- The stamp of an error record: 0 while the almanac is not LOCKED (R537). -/
def State.recStamp (s : State) : Nat × Nat × Nat := s.stampOf (if s.locked then s.count else 0)

/-- What the settings 0x4200 to 0x4209 hold now. -/
def State.linkLive (s : State) : LinkCfg :=
  { x := s.getO Obj.LINK_COORD_X, y := s.getO Obj.LINK_COORD_Y, z := s.getO Obj.LINK_COORD_Z, w := s.getO Obj.LINK_COORD_W,
    ex := s.getO Obj.LINK_EXT_X, ey := s.getO Obj.LINK_EXT_Y, ez := s.getO Obj.LINK_EXT_Z, ew := s.getO Obj.LINK_EXT_W,
    field := s.getO Obj.LINK_FIELD_NUMBER, fields := s.getO Obj.LINK_FIELDS }

/-- The settings take effect: a port trains (R428). Assumption 65 (DEDUCED). -/
def State.takeLink (s : State) : State := { s with linkCfg := s.linkLive }

/-- Extents of the four rings (R401, R402). -/
def LinkCfg.rings (c : LinkCfg) : List Nat := [c.ex, c.ey, c.ez, c.ew * c.fields]

/-- In-field rank (R237). -/
def State.fieldRank (s : State) : Nat :=
  let c := s.linkCfg
  c.x + c.ex * (c.y + c.ey * (c.z + c.ez * c.w))

def State.fieldSize (s : State) : Nat := s.linkCfg.ex * s.linkCfg.ey * s.linkCfg.ez * s.linkCfg.ew

/-- Rank over the farm and the number of devices (R237). -/
def State.rank (s : State) : Nat := s.fieldRank + s.fieldSize * s.linkCfg.field
def State.devices (s : State) : Nat := s.fieldSize * s.linkCfg.fields

/-- ORIGIN: field number and in-field rank (R537). -/
def State.origin (s : State) : Nat := s.linkCfg.field * 1024 + s.fieldRank
/-- ORIGIN of a rank over the farm. -/
def State.originOf (s : State) (r : Nat) : Nat := (r / s.fieldSize) * 1024 + r % s.fieldSize

/-- This device is the master of its timing domain (R301). -/
def State.isMaster (s : State) : Bool :=
  match s.getO Obj.ALMANAC_ROLE with
  | 0 => decide (s.fieldRank = 0) && decide (s.linkCfg.field = 0)
  | 1 => true
  | 3 => true
  | _ => false

/-- A trained port exists that carries the almanac (R301, R302). -/
def State.anyPortUp (s : State) : Bool :=
  decide (s.getO Obj.ALMANAC_ROLE ≠ 3) && (List.range 8).any fun p => decide (s.getO Obj.PORT_STATE p = 3)

/-- State of a core (R478): 0 in service, 1 in CORE reset, 2 excluded, 3 gated. -/
def State.coreState (s : State) (n : Nat) : Nat :=
  if s.resetRun = some (3, n) then 1
  else if s.getO Obj.CORE_EXCLUDE n = 1 then 2
  else if s.getO Obj.LP_STATE = 1 ∨ s.dev = stFALLOW then 3
  else 0

/-- A loft window is open to a core: its own, or one of a core that is not excluded (R479). -/
def State.loftOpen (s : State) (core n : Nat) : Bool := decide (n = core) || decide (s.getO Obj.CORE_EXCLUDE n ≠ 1)

/-! ### Control messages and stop requests -/

/-- Kinds of control message (R302, R330). -/
def ctlHOLD : Nat := 1
def ctlRELEASE : Nat := 2
def ctlRESUME : Nat := 3
def ctlSTART : Nat := 4
def ctlSTOP : Nat := 5
def ctlSTOPREQ : Nat := 6

def State.port (s : State) (p : Nat) : Port := SMap.get {} s.ports p
def State.setPort (s : State) (p : Nat) (x : Port) : State := { s with ports := SMap.set {} s.ports p x }
/-- The port is UP (R417). -/
def State.portUp (s : State) (p : Nat) : Bool := decide (s.getO Obj.PORT_STATE p = 3)

/-- Queue a BEACON or CONTROL frame on every trained port but one (R302). -/
def State.queueCtl (s : State) (except kind : Nat) (blocks : List Byte) : State :=
  (List.range 8).foldl (fun (s : State) p =>
    if p = except ∨ s.portUp p = false then s
    else s.setPort p { s.port p with ctlQ := (s.port p).ctlQ ++ [(kind, blocks)] }) s

/-- Data blocks of a control message (R415, R416). -/
def ctlBlocks (kind : Nat) (m : Ctl) : List Byte :=
  leBytes 16 (kind * 2 ^ 120 + (m.origin % 65536) * 2 ^ 104 + (m.seq % 2 ^ 24) * 2 ^ 80 + (m.x % 2 ^ 64) * 2 ^ 16 +
    m.y % 65536) ++ (if kind = ctlSTART then leBytes 16 (m.y % 2 ^ 32) else [])

/-- Flood a control message of this device, where a path exists (R302). Its own copies that come back are old. -/
def State.flood (s : State) (kind x y : Nat) : State :=
  let n := (s.alm.msgSeq + 1) % 2 ^ 24
  let s := { s with alm := { s.alm with msgSeq := n, seen := (s.origin * 2 ^ 24 + n) :: s.alm.seen } }
  if s.getO Obj.ALMANAC_ROLE = 3 then s
  else s.queueCtl 8 3 (ctlBlocks kind { origin := s.origin, seq := n, x := x, y := y })

/-! ### Routing (R240, R400 to R402, R422) -/

/-- Coordinates of a device by its code, field number × 1,024 + in-field rank; w is the combined one of R402. -/
def State.coordsOf (s : State) (code : Nat) : List Nat :=
  let r := code % 1024
  let c := s.linkCfg
  [r % c.ex, r / c.ex % c.ey, r / (c.ex * c.ey) % c.ez, r / (c.ex * c.ey * c.ez) % c.ew + c.ew * (code / 1024)]

/-- Extents of the four rings in force. -/
def State.rings4 (s : State) : List Nat := s.linkCfg.rings

/-- Port of the shorter direction from a to b in ring number d of n devices; with both equally short, + from the lower
coordinate. -/
def ringPort (d n a b : Nat) : Nat :=
  let up := (b + n - a) % n
  let dn := (a + n - b) % n
  if up < dn ∨ (up = dn ∧ a < b) then 2 * d else 2 * d + 1

/-- The port towards a device: the first dimension in which the coordinates differ. -/
def State.route (s : State) (dest : Nat) : Option Nat :=
  (((s.coordsOf s.origin).zip ((s.coordsOf dest).zip s.rings4)).zipIdx.find? fun (p : (Nat × Nat × Nat) × Nat) =>
    decide (p.1.1 ≠ p.1.2.1)).map fun (p : (Nat × Nat × Nat) × Nat) => ringPort p.2 p.1.2.2 p.1.1 p.1.2.1

/-- Bytes filled up to whole blocks. -/
def padBlocks (bs : List Byte) : List Byte := bs ++ List.replicate ((16 - bs.length % 16) % 16) 0

/-- The port carries the schedule's traffic: it is UP, and has not left UP since the last start (R420).
Assumption 104 (DEDUCED). -/
def State.flows (s : State) (p : Nat) : Bool := s.portUp p && !(s.port p).cut

/-- The port on which VC2 traffic for a device leaves. -/
def State.vc2Port (s : State) (dest : Nat) : Option Nat := (s.route dest).filter s.flows

/-- Queue a VC2 message on the port towards its destination (R422); where that port carries no traffic the message is lost.
`bad` names blocks of the body that came from uncorrectable codewords. -/
def State.sendVc2 (s : State) (dest kind : Nat) (body : List Byte) (bad : List Nat := []) : State :=
  match s.vc2Port dest with
  | none => s
  | some p =>
    let b := padBlocks body
    let head := leBytes 16 (dest * 2 ^ 112 + s.origin * 2 ^ 96 + kind * 2 ^ 88 + (b.length / 16) * 2 ^ 64)
    s.setPort p { s.port p with vc2 := (s.port p).vc2 ++ [{ bytes := head ++ b, bad := bad.map (· + 1) }] }

/-- Send a message of the stewards towards the master over VC0 (R306, R539), where a path exists.
Assumption 52 (DESIGN CHOICE). -/
def State.toMaster (s : State) (body : List Byte) : State :=
  match s.route s.alm.master with
  | none => s
  | some p => if s.portUp p then s.setPort p { s.port p with vc0 := (s.port p).vc0 ++ [{ bytes := padBlocks body }] } else s

/-- Bytes of a channel that have left the receive buffer (R410). -/
def Port.free (x : Port) (vc n : Nat) : Port :=
  let part := SMap.get 0 x.rxPart vc + n
  { x with rxPart := SMap.set 0 x.rxPart vc (part % 64), freed := SMap.set 0 x.freed vc (SMap.get 0 x.freed vc + part / 64) }

def State.freeRx (s : State) (p vc n : Nat) : State := s.setPort p ((s.port p).free vc n)

/-- First epoch boundary above a count. -/
def State.boundaryAbove (s : State) (g : Nat) : Nat :=
  let eb := s.getO Obj.EPOCH_BEATS
  let e0c := s.getO Obj.SCHED_E0_COUNT
  if g < e0c then e0c else e0c + ((g - e0c) / eb + 1) * eb

/-- Cancel the pending swaps of the epochs that `gone` names, that of a load in progress included (R322). -/
def State.cancelSwapsIf (s : State) (gone : Nat → Bool) : State :=
  { s with
    tables := s.tables.map fun (p : Nat × Table) => (p.1, { p.2 with swap := p.2.swap.filter fun (w : Nat × Nat) => !gone w.2 })
    load := s.load.map fun (l : FurrowLoad) => if gone l.swap then { l with swap := 0xFFFFFFFF } else l }

/-- Cancel every pending swap (R322). -/
def State.cancelSwaps (s : State) : State := s.cancelSwapsIf fun _ => true

/-- A bale operation of an entry at or above beat b that has not started. -/
def Op.cutBy (o : Op) (b : Nat) : Bool :=
  o.bale.any (fun (x : Bale) => !x.started) && decide (o.beat ≥ b)

/-- Operations of entries that a stop cancels are dropped with their waits (R331). -/
def State.cutOps (s : State) (b : Nat) : State :=
  let gone : List Nat := (s.ops.filter fun (p : Nat × Op) => p.2.cutBy b).map (·.1)
  let keep := fun (r : SemReq) => match r.who with
    | .op id => !gone.contains id
    | .fill id => !gone.contains id
    | _ => true
  { s with
    ops := s.ops.filter fun (p : Nat × Op) => !p.2.cutBy b
    leaveQ := s.leaveQ.filter fun (x : Nat) => !gone.contains x
    readyQ := s.readyQ.filter fun (x : Nat) => !gone.contains x
    sems := if gone = [] then s.sems else s.sems.map fun (p : Nat × Sem) => (p.1, { p.2 with waits := p.2.waits.filter keep })
    unrec := s.unrec.filter keep }

/-- The stop beat of a device becomes b (R331): outstanding holds and conditions fall, an unfinished step procedure
is abandoned with its exchange, and entries at or above the beat are cancelled with their reservations. A swap whose first
beat the schedule does not reach any more is cancelled here, any other when the schedule has stopped (R322). -/
def State.stopAt (s : State) (b : Nat) : State :=
  let s := if s.alm.stopAsked then s else s.setO Obj.SCHED_STOP_REASON 0x0407
  let s := s.setO Obj.SCHED_STOP_BEAT b
  let s := { s with
    alm := { s.alm with stop := some b, stopAsked := true, holds := [], conds := [], own := none }
    stepDead := match s.stepRun with
      | some r => some r.boundary
      | none => s.stepDead
    stepRun := none
    stepQueue := []
    censusRecv := if s.stepRun.isSome then [] else s.censusRecv
    resvs := s.resvs.filter (fun r => decide (r.beat < b)) }
  (s.cutOps b).cancelSwapsIf fun e => decide ((b : Int) ≤ s.firstBeat e)

/-- The first stop that arrives fixes the stop beat; later requests change nothing (R330). -/
def State.takeStop (s : State) (b : Nat) : State := if s.alm.stop.isSome then s else s.stopAt b

/-- The highest count that the master permits: its grant, or that of a RESUME that it has flooded. -/
def State.permitted (s : State) : Nat :=
  max (s.getO Obj.ALMANAC_GRANT) (s.alm.resume.elim 0 fun (r : Nat × Nat) => r.2)

/-- The master fixes the stop beat for the first request and floods STOP (R330). -/
def State.masterStopAt (s : State) (b : Nat) : State :=
  if s.alm.stop.isSome then s else (s.takeStop b).flood ctlSTOP b 0

/-- A stop request of this device (R330); its first reason stands. It finds nothing to stop before the first start.
Assumption 44 (DESIGN CHOICE). -/
def State.askStop (s : State) (reason : Nat) : State :=
  if s.alm.started = false then s
  else
  let s := if s.alm.stopAsked then s
    else { s.setO Obj.SCHED_STOP_REASON reason with alm := { s.alm with stopAsked := true } }
  if s.isMaster then s.masterStopAt (s.boundaryAbove s.permitted)
  else s.flood ctlSTOPREQ reason 0

/-- A stop request raised by an error record: only while RUNNING (R535). -/
def State.stopRequest (s : State) (reason : Nat) : State := if s.running then s.askStop reason else s

/-! ### Contexts and deliveries of semaphore grants -/

def ctxKey (core ctx : Nat) : Nat := core * 2048 + ctx
/-- Assumption 7 (DESIGN CHOICE). -/
def State.ctx (s : State) (core ctx : Nat) : Ctx := SMap.get {} s.ctxs (ctxKey core ctx)
def State.setCtx (s : State) (core ctx : Nat) (c : Ctx) : State :=
  { s with ctxs := SMap.set {} s.ctxs (ctxKey core ctx) c }

/-- Scalar register n of a context; S0 reads 0 (R124). -/
def Ctx.get (c : Ctx) (n : Nat) : Nat := if n % 16 = 0 then 0 else SMap.get 0 c.regs (n % 16) % 2 ^ 64
/-- Write a scalar register; a write to S0 is discarded (R124). -/
def Ctx.set (c : Ctx) (n v : Nat) : Ctx :=
  if n % 16 = 0 then c else { c with regs := SMap.set 0 c.regs (n % 16) (v % 2 ^ 64) }

/-- Codeword k, below 10, of a context within its core's part of `vchk` (R110). -/
def cxCw (core ctx k : Nat) : Nat := core * 2 ^ 17 + 40960 + ctx * 10 + k

/-- Put a correction into codeword k of a context, by its bits: k below 8 holds S(2k) and S(2k + 1); 8 holds PC, VL, STRICT,
SROUND and NOEXC; 9 holds TID, KORG and the no-exception status word with its flags. Assumption 116 (DESIGN CHOICE). -/
def Ctx.fix (c : Ctx) (k f : Nat) : Ctx :=
  if k < 8 then
    (c.set (2 * k) (c.get (2 * k) ^^^ bits f 63 0)).set (2 * k + 1) (c.get (2 * k + 1) ^^^ bits f 127 64)
  else if k = 8 then
    { c with pc := c.pc ^^^ bits f 63 0, vl := c.vl ^^^ bits f 77 64, strict := xor c.strict (bit f 78)
             sround := xor c.sround (bit f 79), noexc := xor c.noexc (bit f 80) }
  else { c with tid := c.tid ^^^ bits f 23 0, korg := c.korg ^^^ bits f 71 24, status := c.status ^^^ bits f 103 72 }

/-- The codewords of a context are as they were written. -/
def State.cxClean (s : State) (core ctx : Nat) : Bool :=
  (List.range 10).all fun (k : Nat) => SMap.get 0 s.vchk (cxCw core ctx k) = 0

def State.op? (s : State) (id : Nat) : Option Op := (s.ops.find? fun p => decide (p.1 = id)).map (·.2)
def State.setOp (s : State) (id : Nat) (o : Op) : State := { s with ops := SMap.put s.ops id o }
def State.dropOp (s : State) (id : Nat) : State := { s with ops := SMap.erase s.ops id }
def State.modOp (s : State) (id : Nat) (f : Op → Op) : State :=
  match s.op? id with
  | some o => s.setOp id (f o)
  | none => s

def State.thr (s : State) (d : Nat) : Thr := SMap.get {} s.thrs d
def State.setThr (s : State) (d : Nat) (t : Thr) : State := { s with thrs := SMap.set {} s.thrs d t }

/-- Deliver the result of a wait or lock (R342): 0 granted, 1 orphan status. -/
def State.deliver (s : State) (w : SemWho) (r : Nat) : State :=
  match w with
  | .ctx core ctx dest =>
    let c := s.ctx core ctx
    if c.st = .waiting then s.setCtx core ctx { c.set dest r with st := .ready, wait := .none } else s
  | .op id => s.modOp id fun o => { o with phase := if r = 0 then .semGranted else .semOrphan }
  | .fill id => s.modOp id fun o =>
      if r = 0 then { o with bale := o.bale.map fun b => { b with fillTaken := true } }
      else { o with phase := .semOrphan, bale := o.bale.map fun b => { b with fillOrphan := true } }
  | .slot die =>
    let t := s.thr die
    s.setThr die (if r = 0 then { t with waitSlot := false, slotGranted := true }
      else { t with waitSlot := false, slotOrphan := true })
  | _ => s

/-- Owner tag of a requester (R341). -/
def State.ownerTag (s : State) (w : SemWho) : Nat :=
  let e := s.getO Obj.SCHED_EPOCH % 2 ^ 32
  let tag := fun kind id => kind * 2 ^ 44 + (id % 4096) * 2 ^ 32 + e
  match w with
  | .ctx core _ _ => tag 1 core
  | .host slot => tag 2 slot
  | .steward n => tag 3 n
  | _ => 0

/-- KIND and ID of a requester, without the epoch. -/
def ownerId : SemWho → Nat
  | .ctx core _ _ => 4096 + core
  | .host slot => 8192 + slot
  | .steward n => 12288 + n
  | _ => 0

def State.sem (s : State) (n : Nat) : Sem := SMap.get {} s.sems n
def State.setSem (s : State) (n : Nat) (x : Sem) : State := { s with sems := SMap.set {} s.sems n x }

/-- Wait-list entries in use over all semaphores (R340). -/
def State.poolUsed (s : State) : Nat := s.sems.foldl (fun a p => a + p.2.waits.length) 0

/-- Grant from the head of a wait list while the head can be granted (R344). -/
def State.semGrants (s : State) (n : Nat) : Nat → State
  | 0 => s
  | k + 1 =>
    let x := s.sem n
    match x.waits with
    | [] => s
    | r :: rs =>
      if r.lock then
        if x.count ≥ 1 ∧ x.st = 0 then
          let s := s.setSem n { x with count := x.count - 1, st := 1, owner := s.ownerTag r.who, waits := rs }
          (s.deliver r.who 0).semGrants n k
        else s
      else if x.count ≥ r.n then
        let s := s.setSem n { x with count := x.count - r.n, waits := rs }
        (s.deliver r.who 0).semGrants n k
      else s

/-- Signal by `n` without its records: the new state, and whether the count overflowed (R343, R347, R352). -/
def State.signalBase (s : State) (q n : Nat) : State × Bool :=
  let s := s.incO Obj.SEM_OPS
  let x := s.sem q
  if x.st = 2 then (s, false)
  else
    let ovf := decide (x.count + n > 0xFFFFFFFF)
    let s := s.setSem q { x with count := if ovf then 0xFFFFFFFF else x.count + n }
    let s := if ovf then s.incO Obj.SEM_OVERFLOWS else s
    (s.semGrants q x.waits.length, ovf)

/-! ### Rings, events and error records -/

def State.ring (s : State) (q : Nat) : Ring := SMap.get {} s.rings q
def State.setRing (s : State) (q : Nat) (r : Ring) : State := { s with rings := SMap.set {} s.rings q r }
def Ring.size (r : Ring) : Nat := 2 ^ r.log2
/-- Descriptors between producer and consumer index (R356). -/
def Ring.fill (r : Ring) : Nat := (r.p + 2 ^ 32 - r.c) % 2 ^ 32
def Ring.slot (r : Ring) (i : Nat) : Nat := r.base + 64 * (i % r.size)

/-- The ring bound to a target under a binding (R357). -/
def State.ringFor (s : State) (binding target : Nat) : Option Nat :=
  (s.rings.find? fun p => decide (p.2.binding = binding) && decide (p.2.target = target)).map (·.1)

/-- Codewords that a burst or loft word read decodes: both of an LPDDR6 burst, one of a loft. -/
def cwsOf (a n : Nat) : List Nat :=
  if n = 0 then []
  else if a < lpEnd then
    let b0 := a / 32
    let b1 := (a + n - 1) / 32
    (List.range (b1 + 1 - b0)).flatMap fun i => [2 * (b0 + i), 2 * (b0 + i) + 1]
  else
    let c0 := a / 16
    (List.range ((a + n - 1) / 16 + 1 - c0)).map (c0 + ·)

/-- Write whole bursts: they are encoded anew (R378). -/
def State.putWhole (s : State) (a : Nat) (bs : List Byte) : State :=
  { s.poke a bs with chk := (cwsOf a bs.length).foldl SMap.erase s.chk }

/-- Put a record into a ring that the device produces, where it fits: the new state and the semaphore to signal
(R360, R361). Assumption 13 (DEDUCED). -/
def State.produce (s : State) (binding target rec : Nat) : State × Option Nat :=
  match s.ringFor binding target with
  | none => (s.incO Obj.QUEUE_UNROUTED, none)
  | some q =>
    let r := s.ring q
    if r.fill ≥ r.size then
      (s.setRing q { r with overflows := (r.overflows + 1) % 2 ^ 32 }, none)
    else
      let s := s.putWhole (r.slot r.p) (leBytes 64 rec)
      let s := s.setRing q { r with p := (r.p + 1) % 2 ^ 32 }
      (s, if r.notify < 4096 then some r.notify else none)

/-- What an error record says besides its stamp (R537). -/
structure Rec where
  reason : Nat
  tag : Nat := 0
  addr : Nat := 0
  d0 : Nat := 0
  d1 : Nat := 0
  source : Nat := 0xFFF
  deriving DecidableEq, Repr

/-- Class of a reason code (R538). -/
def recClass (r : Nat) : Nat :=
  if r ∈ [0x0107, 0x0108, 0x0202, 0x0404, 0x0802, 0x0901, 0x0904, 0x0905, 0x0A02, 0x0A03, 0x0A04, 0x0A05, 0x0A06] then 0
  else if r = 0x0601 then 1
  else if r = 0x0801 then 2
  else if r ∈ [0x0206, 0x0502, 0x0902, 0x0A01] then 4
  else 3

/-- The 512-bit record (R537). -/
def recWord (stamp epoch beat reason cls origin source tag addr d0 d1 seq : Nat) : Nat :=
  stamp * 2 ^ 448 + epoch * 2 ^ 416 + beat * 2 ^ 392 + reason * 2 ^ 376 + cls * 2 ^ 373 + origin * 2 ^ 352 +
    (source % 4096) * 2 ^ 340 + (tag % 2 ^ 24) * 2 ^ 316 + (addr % 2 ^ 48) * 2 ^ 268 + (d0 % 2 ^ 32) * 2 ^ 236 +
    (d1 % 2 ^ 32) * 2 ^ 204 + seq * 2 ^ 172

/-- The master takes a STOP or FATAL record into FIELD_FIRST (R541). Assumption 89 (DEDUCED). -/
def State.masterRecord (s : State) (w : Nat) : State :=
  let s := s.incO Obj.FIELD_RECORDS
  let s := { s with fieldStamps := bits w 511 448 :: s.fieldStamps }
  match s.fieldFirst with
  | none => { s with fieldFirst := some w }
  | some f =>
    if bits w 511 448 < bits f 511 448 ∨ (bits w 511 448 = bits f 511 448 ∧ bits w 367 352 < bits f 367 352) then
      { s with fieldFirst := some w }
    else s

/-- Consequence of a record's class (R534, R535). Assumption 89 (DEDUCED). -/
def State.classEffect (s : State) (cls reason : Nat) : State :=
  if cls = 3 then s.stopRequest reason
  else if cls = 4 then
    if s.running then
      let s := s.setO Obj.DEVICE_FAULT_REASON reason
      { s.stopRequest reason with alm := { (s.stopRequest reason).alm with fatal := true } }
    else if s.dev = stOFF ∨ s.dev = stFAULT then s
    else (s.setO Obj.DEVICE_FAULT_REASON reason).setDev stFAULT
  else s

/-- Write the record to the log with its counters (R539). Assumption 89 (DEDUCED). -/
def State.logRecord (s : State) (r : Rec) : State × Nat :=
  let (st, ep, bt) := s.recStamp
  let cls := recClass r.reason
  let q := s.getO Obj.ERR_SEQ_NEXT
  let w := recWord st ep bt r.reason cls s.origin r.source r.tag r.addr r.d0 r.d1 q
  let s := if q ≥ 1024 ∧ q - 1024 ≥ s.getO Obj.ERR_READ_MARK then s.incO Obj.ERR_LOG_LOST else s
  let lg := if q ≥ 1024 then SMap.erase s.log (q - 1024) else s.log
  let s := { s with log := SMap.put lg q w }
  let s := s.incO Obj.ERR_SEQ_NEXT
  let s := s.incO Obj.ERR_COUNT 1 0 cls
  let s := if cls ≥ 3 ∧ s.getO Obj.ERR_FIRST_SEQ = 0xFFFFFFFF then s.setO Obj.ERR_FIRST_SEQ q else s
  (s.setO Obj.ERR_LAST_REASON r.reason, w)

/-- Post an error record (R536, R539, R541); no record goes to a ring in FUSED (R509). The notification of the error
stream may overflow its semaphore, which is a record of its own (R347): `fuel` bounds that chain by the size of a ring.
Assumptions 16 (DESIGN CHOICE), 88 (DEDUCED). -/
def State.postF : Nat → State → Rec → State
  | 0, s, _ => s
  | fuel + 1, s, r =>
    let (s, w) := s.logRecord r
    let cls := recClass r.reason
    let (s, n) := if s.dev = stFUSED then (s, none) else s.produce 5 0 w
    let s := match n with
      | none => s
      | some q =>
        let (s, ovf) := s.signalBase q 1
        if ovf then State.postF fuel s { reason := 0x0302, d0 := q } else s
    let s := if cls ≥ 3 then (if s.isMaster then s.masterRecord w else if s.anyPortUp then (s.emit (.record w)).toMaster (leBytes 64 w) else s)
      else s
    s.classEffect cls r.reason

/-- Assumption 16 (DESIGN CHOICE). -/
def recFuel : Nat := 65538
/-- Assumption 16 (DESIGN CHOICE). -/
@[irreducible] def State.post (s : State) (r : Rec) : State := State.postF recFuel s r

/-- Signal of a semaphore with its records (R343, R347). -/
def State.signal (s : State) (q n : Nat) : State :=
  let (s, ovf) := s.signalBase q n
  if ovf then s.post { reason := 0x0302, d0 := q } else s

/-- Signal the notification semaphore of a ring after the device has advanced an index (R360). -/
def State.notify (s : State) (n : Option Nat) : State :=
  match n with
  | some q => s.signal q 1
  | none => s

/-- Post an event (R363) to the ring of a core (target 0 to 799), a die (0x800, 0x801) or the hub (0xFFF). -/
def State.event (s : State) (target typ source tag sem entry : Nat) : State :=
  let (st, ep, bt) := s.stamp
  let w := st * 2 ^ 448 + typ * 2 ^ 440 + (source % 4096) * 2 ^ 428 + (tag % 2 ^ 24) * 2 ^ 404 + (sem % 4096) * 2 ^ 392 +
    ep * 2 ^ 360 + bt * 2 ^ 336 + entry * 2 ^ 320
  let (s, n) := s.produce 4 target w
  s.notify n

/-- Event ring of a table number's unit: its core, or its die. -/
def eventTarget (unit : Nat) : Nat := if unit < 800 then unit else 0x800 + dieOfUnit unit

/-! ### Memory with its errors (R378 to R380, R565) -/

def State.sub (s : State) (c : Nat) : Subch := SMap.get {} s.subch c
def State.setSub (s : State) (c : Nat) (x : Subch) : State := { s with subch := SMap.set {} s.subch c x }

/-- Count a corrected codeword. More than MEM_CE_ALARM of them within any one hour raise the alarm of R381, after which the
growth is counted anew. Assumption 98 (DESIGN CHOICE). -/
def State.countCe (s : State) (a : Nat) : State :=
  let c := subchOf a
  let x := s.sub c
  let now := s.getO Obj.DEVICE_UPTIME_MS
  let x := { x with ce := x.ce + 1, hour := now :: x.hour.filter fun t => decide (now < t + 3600000) }
  let s := s.incO Obj.MEM_CE_TOTAL
  if x.hour.length > s.getO Obj.MEM_CE_ALARM then
    let s := s.setSub c { x with hour := [] }
    (s.incO Obj.MEM_CE_ALARMS).post { reason := 0x0202, d0 := c, source := 0x330 + c / 128 }
  else s.setSub c x

/-- Report an uncorrectable codeword of a burst (R380): source 0 read, 1 read-modify-write, 2 scrub. -/
def State.countUe (s : State) (cw syn src : Nat) : State :=
  let a := cw * 16 / 32 * 32
  let c := subchOf a
  let x := s.sub c
  let s := s.setSub c { x with ue := x.ue + 1 }
  let s := s.incO Obj.MEM_UE_TOTAL
  let s := s.setO Obj.MEM_UE_LAST_ADDR a
  let s := s.setO Obj.MEM_UE_LAST_SUBCH c
  let s := s.setO Obj.MEM_UE_LAST_SYNDROME syn
  let s := s.setO Obj.MEM_UE_LAST_SOURCE src
  s.post { reason := 0x0201, addr := a, d0 := (cw % 2) * 2 ^ 24 + c * 2 ^ 16 + syn, d1 := src, source := 0x330 + c / 128 }

/-- Name a core in the fault map (R542). -/
def State.faultMap (s : State) (core : Nat) : State :=
  let k := Obj.CORE_FAULT_MAP.key
  let m := SMap.get (List.replicate 100 0) s.blob k
  let b := m.getD (core / 8) 0
  if b.getLsbD (core % 8) then s
  else
    let s := { s with blob := SMap.set (List.replicate 100 0) s.blob k (m.set (core / 8) (b ||| BitVec.ofNat 8 (2 ^ (core % 8)))) }
    s.incO Obj.CORE_FAULT_COUNT

/-- Count a corrected or uncorrectable loft word (R380, R542). -/
def State.loftCe (s : State) (core : Nat) : State := (s.incO Obj.CORE_LOFT_CE 1 core).incO Obj.LOFT_CE_TOTAL
def State.loftUe (s : State) (core a : Nat) : State :=
  let s := (s.incO Obj.CORE_LOFT_UE 1 core).incO Obj.LOFT_UE_TOTAL
  let s := s.faultMap core
  s.post { reason := 0x0203, addr := a, d0 := core, source := core }

/-- Decode one codeword for a read: correct, count and write back, or report (R379, R380). The flag says that it
is uncorrectable. -/
def State.readCw (s : State) (cw src : Nat) : State × Bool :=
  match s.decodeCw cw with
  | .ok => (s, false)
  | .fixed f =>
    let old := ofBytes (s.peek (cw * 16) 16)
    let s := s.poke (cw * 16) (leBytes 16 (old ^^^ f))
    let s := { s with chk := SMap.erase s.chk cw }
    match regionOf (cw * 16) with
    | .loft c => (s.loftCe c, false)
    | _ => (s.countCe (cw * 16), false)
  | .bad syn =>
    match regionOf (cw * 16) with
    | .loft c => (s.loftUe c (cw * 16), true)
    | _ => (s.countUe cw syn src, true)

/-- Codeword c is uncorrectable. -/
def State.cwBad (s : State) (c : Nat) : Bool :=
  match s.decodeCw c with
  | .bad _ => true
  | _ => false

/-- Decode a codeword for a read-modify-write that fails: a correction is counted, an uncorrectable codeword reported; what is stored
stays as it is (R380, R565). -/
def State.judgeCw (s : State) (cw : Nat) : State :=
  match s.decodeCw cw, regionOf (cw * 16) with
  | .ok, _ => s
  | .fixed _, .loft c => s.loftCe c
  | .fixed _, _ => s.countCe (cw * 16)
  | .bad _, .loft c => s.loftUe c (cw * 16)
  | .bad syn, _ => s.countUe cw syn 1

/-- Who meets an uncorrectable codeword in a read of [a, a + n): the reader, or, where the codeword holds none of its
bytes and the other one of its burst can be read, a patrol scrub (R380). Assumption 94 (DEDUCED). -/
def State.ueSource (s : State) (a n src cw : Nat) : Nat :=
  let held := decide (cw * 16 < a + n) && decide (a < cw * 16 + 16)
  match s.decodeCw (cw ^^^ 1) with
  | .bad _ => src
  | _ => if held then src else 2

/-- Decode codewords in turn; the first uncorrectable one that holds a byte of [a, a + n). -/
def State.readCws (s : State) (a n src : Nat) : List Nat → State × Option Nat
  | [] => (s, none)
  | c :: cs =>
    let (s, bad) := s.readCw c (s.ueSource a n src c)
    let (s, r) := State.readCws s a n src cs
    let hit := bad && decide (c * 16 < a + n) && decide (a < c * 16 + 16)
    (s, if hit then some (max a (c * 16)) else r)

/-- Read n bytes at a: the state, the bytes, and the first uncorrectable address (R379, R380). -/
def State.readMem (s : State) (a n : Nat) : State × List Byte × Option Nat :=
  let cs := cwsOf a n
  if cs.all fun c => decide (SMap.get 0 s.chk c = 0) then (s, s.peek a n, none)
  else
    let (s, bad) := s.readCws a n 0 cs
    (s, s.peek a n, bad)

/-- Write the part of `bs` that lies in one burst or loft word (R378): whole ones are encoded anew, others are
read, corrected, merged and written; the flag says that the write failed, which leaves the burst as stored (R565). -/
def State.writeUnit (s : State) (u size a : Nat) (bs : List Byte) : State × Bool :=
  let cs := if size = 32 then [2 * u, 2 * u + 1] else [u]
  let fresh := fun (s : State) => { s.poke a bs with chk := cs.foldl SMap.erase s.chk }
  if cs.all fun c => decide (SMap.get 0 s.chk c = 0) then (s.poke a bs, false)
  else if bs.length = size then (fresh s, false)
  else if cs.any s.cwBad then (cs.foldl State.judgeCw s, true)
  else (fresh (cs.foldl (fun (s : State) c => (s.readCw c 1).1) s), false)

/-- Write bytes burst by burst or word by word; the first failing address (R380, R565). -/
def State.writeMemF : Nat → State → Nat → List Byte → State × Option Nat
  | 0, s, _, _ => (s, none)
  | fuel + 1, s, a, bs =>
    match bs with
    | [] => (s, none)
    | _ =>
      let size := if a < lpEnd then 32 else 16
      let u := a / size
      let k := (u + 1) * size - a
      let (s, failed) := s.writeUnit u size a (bs.take k)
      let (s, r) := State.writeMemF fuel s (a + k) (bs.drop k)
      (s, if failed then some a else r)

def State.writeMem (s : State) (a : Nat) (bs : List Byte) : State × Option Nat :=
  State.writeMemF (bs.length + 1) s a bs

/-! ### Streams -/

def streamKey (unit stream : Nat) : Nat := unit * 8 + stream
/-- Assumption 26 (DEDUCED). -/
def State.isStopped (s : State) (unit stream : Nat) : Bool := s.stopped.contains (streamKey unit stream)
/-- Assumption 26 (DEDUCED). -/
def State.stopStream (s : State) (unit stream : Nat) : State :=
  if s.isStopped unit stream then s else { s with stopped := streamKey unit stream :: s.stopped }

end Sys2Proof.Machine
end

