-- ==== Sys2Proof/Machine/Winnow.lean ====
section
/-! DEFINITION. The winnow generator (R62 to R65). -/
namespace Sys2Proof.Machine

def m32 (n : Nat) : Nat := n % 2 ^ 32
def rotl32 (x n : Nat) : Nat := m32 (x <<< n) ||| (m32 x >>> (32 - n))

/-- Four 32-bit words. -/
structure Quad where
  a : Nat
  b : Nat
  c : Nat
  d : Nat
  deriving DecidableEq, Repr

/-- Word j of a quadruple, modulo 4. -/
def Quad.nth (q : Quad) (j : Nat) : Nat :=
  match j % 4 with
  | 0 => q.a
  | 1 => q.b
  | 2 => q.c
  | _ => q.d

/-- Round i of R64. -/
def winnowRound (k : Quad) (i : Nat) (x : Quad) : Quad :=
  let x0 := m32 (x.a + x.b)
  let x3 := rotl32 (x.d ^^^ x0) 13
  let x2 := m32 (x.c + x3)
  let x1 := rotl32 (x.b ^^^ x2) 9
  let x0 := m32 (x0 + x1)
  let x3 := rotl32 (x3 ^^^ x0) 11
  let x2 := m32 (x2 + x3)
  let x1 := rotl32 (x1 ^^^ x2) 5
  let c := i * 0xB7E15163
  { a := x0 ^^^ m32 (k.nth i + c), b := x1 ^^^ m32 (k.nth (i + 1) + c),
    c := x2 ^^^ m32 (k.nth (i + 2) + c), d := x3 ^^^ m32 (k.nth (i + 3) + c) }

def winnowRounds (k : Quad) : Nat → Nat → Quad → Quad
  | 0, _, x => x
  | n + 1, i, x => winnowRounds k n (i + 1) (winnowRound k i x)

/-- The block of R64. -/
def winnow (k c : Quad) : Quad :=
  winnowRounds k 10 1 { a := c.a ^^^ k.a, b := c.b ^^^ k.b, c := c.c ^^^ k.c, d := c.d ^^^ k.d }

/-- Key and counter words of R62. -/
def winnowKey (seed step tid : Nat) : Quad :=
  { a := seed % 2 ^ 32, b := bits seed 63 32, c := m32 step, d := tid % 2 ^ 24 }
def winnowCtr (purpose idx draw : Nat) : Quad :=
  { a := m32 idx, b := (purpose % 256) * 65536 + bits idx 47 32, c := m32 draw, d := 0x57494E4E }

/-- The block for the inputs of R62. -/
def winnowBlock (seed step tid purpose idx draw : Nat) : Quad :=
  winnow (winnowKey seed step tid) (winnowCtr purpose idx draw)

/-- The 16-bit value w of R54. -/
def winnowW (seed step tid purpose idx draw : Nat) : Nat :=
  bits (winnowBlock seed step tid purpose idx draw).a 31 16

/-- Purpose codes of R52. -/
def purpOUT16 : Nat := 1
def purpMSUM : Nat := 2
def purpVSUM : Nat := 3
def purpHOP : Nat := 4
def purpWORK16 : Nat := 5

end Sys2Proof.Machine
end

