-- ==== Sys2Proof/Machine/Operands.lean ====
section
/-! DEFINITION. The operand forms of an operation: the operation header (R34), tensor descriptors and the
addresses of their elements (R28 to R33), the checks of R31, and pieces of work that read their operands, compute
and write, with what an uncorrectable codeword does to them. -/
namespace Sys2Proof.Machine

/-- Replace bits [hi:lo] of a number. -/
def setBits (w hi lo v : Nat) : Nat :=
  w - bits w hi lo * 2 ^ lo + (v % 2 ^ (hi + 1 - lo)) * 2 ^ lo

/-! ### The operation header (R34) -/

def opUnit (d : Nat) : Nat := bits d 127 124
def opCode (d : Nat) : Nat := bits d 123 116
def opStrict (d : Nat) : Bool := bit d 115
def opSround (d : Nat) : Bool := bit d 114
def opCsemEn (d : Nat) : Bool := bit d 113
def opWsemEn (d : Nat) : Bool := bit d 112
def opNoexc (d : Nat) : Bool := bit d 111
def opEvent (d : Nat) : Bool := bit d 110
def opLeavePre (d : Nat) : Bool := bit d 109
def opCsem (d : Nat) : Nat := bits d 99 88
def opWsem (d : Nat) : Nat := bits d 87 76
def opWcount (d : Nat) : Nat := bits d 75 60
def opLeaveClass (d : Nat) : Nat := bits d 59 56
def opTag (d : Nat) : Nat := bits d 55 32
/-- Address of a tensor descriptor whose bits [47:5] stand in [lo + 42:lo]. -/
def descAt (d lo : Nat) : Nat := bits d (lo + 42) lo * 32

/-- The OP codes that the units' chapters define (R81, R114, R144, R167, R384, R207, R246, R278). -/
def opDefined (u c : Nat) : Bool :=
  match u with
  | 1 => decide (c = 1 ∨ c = 2)
  | 2 => decide ((1 ≤ c ∧ c ≤ 3) ∨ c = 0x10)
  | 3 => decide (c = 1 ∨ c = 2)
  | 4 => decide ((1 ≤ c ∧ c ≤ 3) ∨ (0x10 ≤ c ∧ c ≤ 0x12))
  | 5 => decide (c = 1 ∨ c = 2)
  | 6 => decide (c = 1 ∨ c = 2)
  | 7 => decide (c = 1)
  | 8 => decide (c = 1 ∨ c = 2)
  | _ => false

/-- Why step 1 refuses: the number of the failing condition in its rule's list, and whether the rule is R31, R37 or the
unit's own, whose refusals the unit counts. -/
structure Refused where
  n : Nat
  counted : Bool := true
  deriving DecidableEq, Repr

/-- The refusals of the header alone (R35 to R37, R9, R45, SROUND_PERMIT), in this order: the first failing condition.
Assumption 24 (DEDUCED). -/
def State.headerFail (s : State) (d : Nat) : Option Refused :=
  if opUnit d = 0 ∨ opUnit d > 8 then some ⟨1, false⟩
  else if opLeaveClass d > 4 then some ⟨1, false⟩
  else if opStrict d ∧ opSround d then some ⟨1, true⟩
  else if opWsemEn d ∧ opWcount d = 0 then some ⟨2, true⟩
  else if opLeavePre d ∧ opLeaveClass d = 0 then some ⟨3, true⟩
  else if opDefined (opUnit d) (opCode d) = false then some ⟨4, true⟩
  else if bits d 108 100 ≠ 0 ∨ bits d 31 0 ≠ 0 then some ⟨1, false⟩
  else if s.getO Obj.NUMERIC_POLICY = 1 ∧ opStrict d = false then some ⟨1, false⟩
  else if s.getO Obj.NUMERIC_POLICY = 2 ∧ opStrict d then some ⟨2, false⟩
  else if s.getO Obj.SROUND_PERMIT = 0 ∧ opSround d then some ⟨1, false⟩
  else none

/-! ### Tensor descriptors (R28, R29) -/

/-- A tensor descriptor taken apart: extents and byte strides of the five dimensions, and the raw fields. -/
structure TD where
  base : Nat
  tid : Nat
  sexp : Int
  rank : Nat
  fmt : Nat
  ext : List Nat
  stride : List Nat
  rawExt : List Nat
  rawStride : List Nat
  deriving DecidableEq, Repr

/-- Stride of a 22-bit field: M × 2^E (R29). -/
def strideOf (f : Nat) : Nat := bits f 21 6 * 2 ^ bits f 5 0

/-- Element size of a format code (R29). -/
def fmtBytes (f : Nat) : Nat := if f = 0 then 2 else 4

def TD.parse (w : Nat) : TD :=
  let re := [bits w 174 151, bits w 150 127, bits w 126 111, bits w 110 99, bits w 98 88]
  let rs := [bits w 87 66, bits w 65 44, bits w 43 22, bits w 21 0]
  { base := bits w 255 212 * 16, tid := bits w 211 188, sexp := toSigned 8 (bits w 187 180), rank := bits w 179 177,
    fmt := bits w 176 175, ext := re.map (· + 1), stride := fmtBytes (bits w 176 175) :: rs.map strideOf,
    rawExt := re, rawStride := rs }

def TD.esz (t : TD) : Nat := fmtBytes t.fmt
/-- The floating-point format of a tensor that holds one. -/
def TD.flt (t : TD) : Fmt := if t.fmt = 0 then f16 else f32
def TD.e (t : TD) (i : Nat) : Nat := t.ext.getD i 1
def TD.st (t : TD) (i : Nat) : Nat := t.stride.getD i 0
def TD.elems (t : TD) : Nat := t.ext.foldl (· * ·) 1
/-- Address of an element (R29). -/
def TD.addr (t : TD) (ix : List Nat) : Nat := (ix.zip t.stride).foldl (fun a p => a + p.1 * p.2) t.base
/-- Address of the last byte of the tensor, plus 1. -/
def TD.top (t : TD) : Nat := (t.ext.zip t.stride).foldl (fun a p => a + (p.1 - 1) * p.2) t.base + t.esz
/-- Element index of R63. -/
def TD.idx (t : TD) (ix : List Nat) : Nat :=
  (ix.zip t.ext).foldr (fun p a => p.1 + p.2 * a) 0
/-- Byte ranges overlap, from lowest to highest element address. -/
def TD.overlaps (t u : TD) : Bool := decide (t.base < u.top) && decide (u.base < t.top)
/-- Same base, extents and strides. -/
def TD.sameShape (t u : TD) : Bool := decide (t.base = u.base ∧ t.ext = u.ext ∧ t.stride = u.stride)
def TD.inLoftOf (t : TD) (core : Nat) : Bool := inLoft core t.base (t.top - t.base)

/-- The role of a tensor in an operation: its descriptor's address, whether the operation writes it, whether by a
stochastically rounded narrowing, and the formats that the role takes. -/
structure Role where
  at_ : Nat
  written : Bool := false
  stoch : Bool := false
  fmts : List Nat := [0, 1]
  deriving DecidableEq, Repr

/-- The first failing item of R31, items 1 to 8. -/
def TD.fail (t : TD) (r : Role) : Option Nat :=
  let dims := List.range 5
  if t.rank = 0 ∨ t.rank > 5 ∨ t.fmt = 3 then some 1
  else if dims.any fun i => decide (t.rank ≤ i) && (decide (t.rawExt.getD i 0 ≠ 0) ||
      (decide (0 < i) && decide (t.rawStride.getD (i - 1) 0 ≠ 0))) then some 2
  else if dims.any fun i => decide (0 < i) && decide (t.st i % t.esz ≠ 0) then some 3
  else if t.fmt = 2 ∧ t.sexp ≠ 0 then some 4
  else if inOneRegion t.base (t.top - t.base) = false then some 5
  else if r.written ∧ (dims.any fun i => decide (0 < i) && decide (i < t.rank) && decide (t.e i > 1) &&
      decide (t.st i < t.st (i - 1) * t.e (i - 1))) then some 6
  else if r.written ∧ r.stoch ∧ t.fmt = 0 ∧ t.tid = 0 then some 7
  else if r.fmts.contains t.fmt = false then some 8
  else none

/-- What step 1 of R38 finds: all is well, and this is what it read; a condition that refuses; an uncorrectable
descriptor. -/
inductive Chk where
  | ok (w : Got)
  | refuse (r : Refused)
  | ue (addr : Nat)
  deriving DecidableEq, Repr

/-- Read one descriptor of n bytes: state, bits, uncorrectable address. Assumption 59 (DEDUCED). -/
def State.readDesc (s : State) (a n : Nat) : State × Nat × Option Nat :=
  let (s, bs, ue) := s.readMem a n
  (s, ofBytes bs, ue)

/-- The smaller failing item. -/
def minFail : Option Nat → Option Nat → Option Nat
  | none, b => b
  | a, none => a
  | some a, some b => some (min a b)

/-- The address lies in the loft window of an excluded core, which is handled as an unmapped address (R479).
Assumption 28 (DEDUCED). -/
def State.excluded (s : State) (a : Nat) : Bool :=
  match regionOf a with
  | .loft c => decide (s.getO Obj.CORE_EXCLUDE c = 1)
  | _ => false

/-- Read and check every tensor of an operation by R31: the descriptors with their addresses, the smallest failing item
and an uncorrectable address. A descriptor that lies in no region is not read. Assumption 24 (DEDUCED). -/
def State.checkTensors (s : State) : List Role → State × List (Nat × Nat) × Option Nat × Option Nat
  | [] => (s, [], none, none)
  | r :: rs =>
    if inOneRegion r.at_ 32 && !s.excluded r.at_ then
      let (s, w, ue) := s.readDesc r.at_ 32
      let t := TD.parse w
      let (s, ts, f, u) := State.checkTensors s rs
      let own := minFail (t.fail r) (if s.excluded t.base then some 5 else none)
      (s, (r.at_, w) :: ts, minFail (if ue.isSome then none else own) f, if ue.isSome then ue else u)
    else
      let (s, ts, f, u) := State.checkTensors s rs
      (s, (r.at_, 0) :: ts, minFail (some 9) f, u)

/-- The tensors that an operation holds, taken apart. -/
def Got.list (w : Got) : List TD := w.tds.map fun (p : Nat × Nat) => TD.parse p.2

/-- Tensor number i of an operation. -/
def tensor (ts : List TD) (i : Nat) : TD := ts.getD i (TD.parse 0)

/-- R31 over all tensors: the smallest failing item refuses; an unreadable descriptor ends the operation as an
uncorrectable read does. Assumption 59 (DEDUCED). -/
def State.tensors (s : State) (rs : List Role) : State × Chk :=
  let (s, ds, f, u) := s.checkTensors rs
  (s, match f, u with
    | some n, _ => .refuse ⟨n, true⟩
    | none, some a => .ue a
    | none, none => .ok { tds := ds })

/-- The first of a rule's conditions that holds, numbered from 1. -/
def firstHolds (cs : List Bool) : Option Nat := (cs.findIdx? id).map (· + 1)

/-- A unit's own conditions on what step 1 has read: the first that holds refuses. -/
def Got.judged (w : Got) (cs : List Bool) : Chk :=
  match firstHolds cs with
  | some n => .refuse ⟨n, true⟩
  | none => .ok w

/-- R31 on the tensors of some roles, then the unit's conditions on them. -/
def State.tensorsThen (s : State) (rs : List Role) (conds : List TD → List Bool) : State × Chk :=
  match s.tensors rs with
  | (s, .ok w) => (s, w.judged (conds w.list))
  | r => r

/-- The scale of a descriptor, read again as step 4 begins (R77): the rest of it is what step 1 has checked, and an index
tensor has none (R31). Assumption 59 (DEDUCED). -/
def State.renewOne (s : State) (p : Nat × Nat) : State × (Nat × Nat) × Option Nat :=
  if bits p.2 176 175 = 2 then (s, p, none)
  else
    let (s, bs, ue) := s.readMem (p.1 + 22) 2
    (s, (p.1, setBits p.2 187 180 (bits (ofBytes bs) 11 4)), ue)

/-- The scales of all descriptors of an operation, and the first that cannot be read. -/
def State.renewAll (s : State) : List (Nat × Nat) → State × List (Nat × Nat) × Option Nat
  | [] => (s, [], none)
  | p :: ps =>
    let (s, q, u) := s.renewOne p
    let (s, qs, v) := s.renewAll ps
    (s, q :: qs, if u.isSome then u else v)

/-! ### Elements -/

/-- Element as stored. -/
def State.el (s : State) (t : TD) (ix : List Nat) : Nat := ofBytes (s.peek (t.addr ix) t.esz)
/-- Represented value of an element, as a binary32 code (R50, R69). Assumption 18 (DEDUCED). -/
def State.val (s : State) (t : TD) (strict : Bool) (ix : List Nat) : Fl Nat :=
  scaleRead t.flt strict t.sexp (s.el t ix)

/-- All index tuples of five extents, dimension 0 fastest. -/
def indices (ext : List Nat) : List (List Nat) :=
  match ext with
  | [] => [[]]
  | n :: ns => (indices ns).flatMap fun rest => (List.range n).map (· :: rest)

/-- Addresses and sizes of every element of a tensor. -/
def TD.cells (t : TD) : List (Nat × Nat) := (indices t.ext).map fun ix => (t.addr ix, t.esz)

/-! ### Areas of working storage -/

/-- Cells of a run of bytes, those that are 0 left out. -/
def cellsOf : Nat → List Byte → List Host.Cell
  | _, [] => []
  | a, b :: bs => if b = 0 then cellsOf (a + 1) bs else (a, b) :: cellsOf (a + 1) bs

/-- Replace the bytes from `a` on in one piece. -/
def spliceMem (m : List Host.Cell) (a : Nat) (bs : List Byte) : List Host.Cell :=
  m.filter (fun (c : Host.Cell) => decide (c.1 < a)) ++ cellsOf a bs ++
    m.filter (fun (c : Host.Cell) => decide (a + bs.length ≤ c.1))

/-- An area that an operation used as its working storage: what it holds afterwards is open.
Assumption 21 (DESIGN CHOICE). -/
def State.scramble (s : State) (a n : Nat) : State :=
  { s with
    mem := spliceMem s.mem a ((List.range n).map fun i => BitVec.ofNat 8 (Config.freeValue (s.freeCtr + i)))
    chk := s.chk.filter fun (p : Nat × Nat) => decide (p.1 * 16 < a ∨ a + n ≤ p.1 * 16)
    freeCtr := s.freeCtr + n }

/-! ### Pieces of work -/

/-- What one piece of an operation (a block, a row, an element) comes to: its writes, its flags, the saturations it
counts and the largest exponent it records (R73). -/
structure Work where
  writes : List (Nat × List Byte) := []
  flags : Nat := 0
  sats : Nat := 0
  top : Option Int := none
  /-- Row rescales and fully masked rows of an attention operation (R175, R176, R183). -/
  rescales : Nat := 0
  empties : Nat := 0
  deriving DecidableEq, Repr

def maxTop : Option Int → Option Int → Option Int
  | none, b => b
  | a, none => a
  | some a, some b => some (max a b)

def Work.join (a b : Work) : Work :=
  { writes := a.writes ++ b.writes, flags := a.flags ||| b.flags, sats := a.sats + b.sats, top := maxTop a.top b.top,
    rescales := a.rescales + b.rescales, empties := a.empties + b.empties }

/-- A piece: the bytes it reads, and what it computes from the state. Assumption 19 (DESIGN CHOICE). -/
abbrev Piece := List (Nat × Nat) × (State → Work)

/-- Read the operands of a piece: corrections are written back; the first uncorrectable address. -/
def State.touch (s : State) : List (Nat × Nat) → State × Option Nat
  | [] => (s, none)
  | (a, n) :: rs =>
    let (s, _, ue) := s.readMem a n
    match ue with
    | some x => (s, some x)
    | none => s.touch rs

/-- Write a piece's elements in turn, up to the first that fails. -/
def State.writeAll (s : State) : List (Nat × List Byte) → State × Option Nat
  | [] => (s, none)
  | (a, bs) :: ws =>
    let (s, f) := s.writeMem a bs
    match f with
    | some x => (s, some x)
    | none => s.writeAll ws

/-- Read every piece; the first that meets an uncorrectable codeword, with its address. The order of the pieces, and of the
operands in each, decides which of several addresses is recorded. Assumption 108 (DESIGN CHOICE). -/
def State.touchAll (s : State) : List Piece → Nat → State × Option (Nat × Nat)
  | [], _ => (s, none)
  | p :: ps, i =>
    match s.touch p.1 with
    | (s, some a) => (s, some (i, a))
    | (s, none) => s.touchAll ps (i + 1)

/-- An abandoned operation: which of the other pieces had been written before is open, piece by piece.
Assumption 20 (DESIGN CHOICE). -/
def State.someOf (s : State) (skip : Nat) : List Piece → Nat → Work → State × Work
  | [], _, w => (s, w)
  | p :: ps, i, w =>
    if i = skip then s.someOf skip ps (i + 1) w
    else
      let yes := Config.freeBit s.freeCtr
      let s := s.drew
      if yes then
        match s.touch p.1 with
        | (_, some _) => s.someOf skip ps (i + 1) w
        | (s1, none) =>
          let k := p.2 s1
          match s1.writeAll k.writes with
          | (_, some _) => s.someOf skip ps (i + 1) w
          | (s2, none) => s2.someOf skip ps (i + 1) (w.join k)
      else s.someOf skip ps (i + 1) w

/-- Writes of the failing piece: each other element is or is not written. Assumption 20 (DESIGN CHOICE). -/
def State.someWrites (s : State) : List (Nat × List Byte) → State
  | [] => s
  | (a, bs) :: ws =>
    let yes := Config.freeBit s.freeCtr
    let s := s.drew
    if yes then
      match s.writeMem a bs with
      | (_, some _) => s.someWrites ws
      | (s1, none) => s1.someWrites ws
    else s.someWrites ws

/-- Write the results of every piece; the first piece whose write fails. -/
def State.writePieces (s : State) : List Work → Nat → State × Option (Nat × Nat)
  | [], _ => (s, none)
  | k :: ks, i =>
    match s.writeAll k.writes with
    | (s, some a) => (s, some (i, a))
    | (s, none) => s.writePieces ks (i + 1)

/-- Run the pieces of an operation: the state, what was recorded, and the address at which the operation must be
abandoned, if it must. Results are formed from the operands before any piece is written.
Assumption 19 (DESIGN CHOICE). -/
def State.runPieces (s : State) (ps : List Piece) : State × Work × Option Nat :=
  match s.touchAll ps 0 with
  | (_, some (i, _)) =>
    let (s1, a) := s.touch ((ps.map (·.1)).getD i [])
    let (s2, w) := s1.someOf i ps 0 {}
    (s2, w, a)
  | (s1, none) =>
    let ks := ps.map fun p => p.2 s1
    match s1.writePieces ks 0 with
    | (s2, none) => (s2, ks.foldl Work.join {}, none)
    | (_, some (i, a)) =>
      let k := ks.getD i {}
      let (s3, _) := s1.writeMem a ((k.writes.lookup a).getD [0])
      let (s4, w) := s3.someOf i ps 0 {}
      (s4.someWrites k.writes, w, some a)

end Sys2Proof.Machine
end

