-- ==== Sys2Proof/Machine/Flags.lean ====
section
/-! DEFINITION. The sticky numeric flags, the saturation counters and the scale slots (R51, R59, R71 to R73). -/
namespace Sys2Proof.Machine

/-- Set flags of a core's status word and count saturations (R51, R59). -/
def State.coreFlags (s : State) (core fl sats : Nat) : State :=
  let s := s.orO Obj.CORE_NUMERIC_FLAGS (fl % 128) core
  if sats = 0 then s else s.incO Obj.SATURATION_TOTAL sats

/-- Address of scale slot n. -/
def State.slotAddr (s : State) (n : Nat) : Nat := s.getO Obj.SCALE_TABLE_BASE + 64 * n

/-- The lowest enabled slot that follows a tensor (R73). -/
def State.slotOf (s : State) (tid : Nat) : Option Nat :=
  (List.range (s.getO Obj.SCALE_SLOTS)).find? fun n =>
    let w := ofBytes (s.peek (s.slotAddr n) 64)
    bit w 93 && decide (bits w 148 125 = tid)

/-- STEP_MAX after a new largest exponent; 0x8000 stands for none. -/
def stepMax (old : Nat) (e : Int) : Nat :=
  if old = 0x8000 then ofSigned 16 e else ofSigned 16 (max (toSigned 16 old) e)

/-- Record saturations and the largest exponent of the values written to a tensor in its scale slot (R73). A count
past 32 bits is an open value. An entry that cannot be read is left as it is (R562).
Assumptions 22 (DEDUCED), 23 (DESIGN CHOICE). -/
def State.recordScale (s : State) (tid sats : Nat) (top : Option Int) : State :=
  if tid = 0 ∨ (sats = 0 ∧ top = none) then s
  else
    match s.slotOf tid with
    | none => s
    | some n =>
      let a := s.slotAddr n
      match s.readMem a 64 with
      | (s, _, some _) => s
      | (s, bs, none) =>
        let w := ofBytes bs
        let cur := toSigned 8 (bits w 124 117)
        let sat := bits w 223 192 + sats
        let s1 := if sat < 2 ^ 32 then s else s.drew
        let w := setBits w 223 192 (if sat < 2 ^ 32 then sat else s.free 32)
        let w := match top with
          | none => w
          | some e => setBits w 116 101 (stepMax (bits w 116 101) (e + cur))
        (s1.writeMem a (leBytes 64 w)).1

/-- The largest exponent that a stored binary16 code records (R73). -/
def topOf (c : Nat) : Option Int := if f16.isFinite c ∧ c % 32768 ≠ 0 then some (exp16 c) else none

/-- Account for finished work of a core: flags, saturations and the scale slot of the tensor written. -/
def State.account (s : State) (core : Nat) (w : Work) (tid : Nat) : State :=
  (s.coreFlags core w.flags w.sats).recordScale tid w.sats w.top

/-- Deliver a value into a tensor's format and scale (R70, R90): the code and the work it comes to. `w` is the value
of R54 where the rounding is stochastic; only binary16 rounds stochastically. -/
def store (t : TD) (strict : Bool) (w : Option Nat) (v : FV) : Nat × Work :=
  let (c, fl) := deliver t.flt strict (if t.fmt = 0 then w else none) t.sexp v
  (c, { flags := fl, sats := if t.fmt = 0 ∧ bit fl 6 then 1 else 0, top := if t.fmt = 0 then topOf c else none })

end Sys2Proof.Machine
end

