-- ==== Sys2Proof/Machine/Hold.lean ====
section
/-! DEFINITION. The hold conditions of this device, its one outstanding hold and the master's set of holds
(R323, R324). -/
namespace Sys2Proof.Machine

/-- Reasons of 0x4023 HOLD_LAST_REASON. -/
def rsnUNIT_WAIT : Nat := 1
def rsnLEAVE : Nat := 2
def rsnSTEP : Nat := 3
def rsnSWAP : Nat := 4
def rsnSUPPLY : Nat := 5
def rsnCLOCK : Nat := 6
def rsnREPLAY : Nat := 7

/-- Keys of conditions: one per table and reason, and one each for the device-wide causes. -/
def keyTable (t reason : Nat) : Nat := t * 8 + reason
def keySupply : Nat := 10000
def keyOver : Nat := 10001
def keyClock : Nat := 10002
def keyP1 : Nat := 10003
def keyStep : Nat := 10004
def keySwap (t : Nat) : Nat := 20000 + t
def keyBale (id : Nat) : Nat := 30000 + id
def keyBridge (b d : Nat) : Nat := 10010 + 2 * b + d

/-- The set of outstanding holds of the domain, which the master acts on and every device hears: a hold replaces its
origin's and keeps its place, so that the set stands from the oldest on (R324, R328). -/
def State.masterHold (s : State) (h : Held) : State :=
  let hs := s.alm.holds
  let now := if hs.any fun (x : Held) => decide (x.origin = h.origin) then
      hs.map fun (x : Held) => if x.origin = h.origin then h else x
    else hs ++ [h]
  { s with alm := { s.alm with holds := now } }

def State.masterRelease (s : State) (origin : Nat) : State :=
  { s with alm := { s.alm with holds := s.alm.holds.filter fun x => decide (x.origin ≠ origin) } }

/-- The condition with the lowest beat; of several at one beat, the one that raised the present hold. -/
def lowestCond (own : Option (Nat × Nat)) : List Cond → Option Cond
  | [] => none
  | c :: cs =>
    match lowestCond own cs with
    | none => some c
    | some d => if c.beat < d.beat ∨ (c.beat = d.beat ∧ own ≠ some (d.beat, d.key)) then some c else some d

/-- Send a HOLD (R323). -/
def State.sendHold (s : State) (c : Cond) : State :=
  let s := s.incO Obj.HOLD_RAISED
  let s := s.setO Obj.HOLD_LAST_BEAT c.beat
  let s := s.setO Obj.HOLD_LAST_REASON c.reason
  let s := if s.count + s.getO Obj.ALMANAC_HOLD_LEAD > c.beat then s.incO Obj.SCHED_LATE_HOLDS else s
  let s := { s with alm := { s.alm with own := some (c.beat, c.key) } }
  let s := s.flood ctlHOLD c.beat c.reason
  s.masterHold { origin := s.origin, beat := c.beat, reason := c.reason, seq := s.alm.msgSeq }

def State.sendRelease (s : State) : State :=
  let s := { s with alm := { s.alm with own := none } }
  (s.flood ctlRELEASE 0 0).masterRelease s.origin

/-- Bring the outstanding hold in step with the present conditions (R323). -/
def State.syncHold (s : State) : State :=
  match lowestCond s.alm.own s.alm.conds, s.alm.own with
  | none, none => s
  | none, some _ => s.sendRelease
  | some c, own => if own = some (c.beat, c.key) then s else s.sendHold c

/-- Raise or move one condition, or clear it. -/
def State.setCond (s : State) (key : Nat) (c : Option (Nat × Nat)) : State :=
  let rest := s.alm.conds.filter fun x => decide (x.key ≠ key)
  let now := match c with
    | none => rest
    | some (b, r) => rest ++ [{ key := key, beat := b, reason := r }]
  ({ s with alm := { s.alm with conds := now } }).syncHold

/-- A condition that names G + 1: it keeps the beat it named when it arose (R323). -/
def State.holdNow (s : State) (key reason : Nat) : State :=
  if s.alm.conds.any fun x => decide (x.key = key) then s
  else s.setCond key (some (s.getO Obj.ALMANAC_GRANT + 1, reason))

/-! ### Conditions of furrow tables -/

def State.table (s : State) (t : Nat) : Table := SMap.get {} s.tables t
def State.setTable (s : State) (t : Nat) (x : Table) : State := { s with tables := SMap.set {} s.tables t x }

/-- Count at which an entry's beat falls in an epoch. -/
def State.beatAt (s : State) (epoch beat : Nat) : Int := s.firstBeat epoch + beat

def entBeat (e : Nat) : Nat := bits e 127 104
def entKind (e : Nat) : Nat := bits e 103 100
def entPer (e : Nat) : Nat := bits e 99 96
def entPhase (e : Nat) : Nat := bits e 95 80
def entHard (e : Nat) : Bool := bit e 79
def entStamp (e : Nat) : Bool := bit e 78
def entSem (e : Nat) : Nat := bits e 77 66
def entArg (e : Nat) : Nat := bits e 65 42
def entAddr (e : Nat) : Nat := bits e 41 0

def Table.bank (t : Table) (n : Nat) : Bank := if n = 0 then t.bank0 else t.bank1

/-- Bank that serves the entries of an epoch: the bank of a pending swap from its epoch on, else the active one; what is
left of the epochs before a swap comes from the bank it replaced (R319). -/
def Table.bankFor (t : Table) (epoch : Nat) : Bank :=
  match t.swap with
  | some (b, e) => if epoch ≥ e then t.bank b else t.bank t.active
  | none => if epoch < t.since then t.bank (1 - t.active) else t.bank t.active

def Bank.list (b : Bank) : List Nat := if b.valid then b.entries else []

def Table.entry? (t : Table) (p : Place) : Option Nat := (t.bankFor p.epoch).list[p.entry]?

/-- Table number through which an operation was started, or the executing core's table (R323). -/
def Op.table (o : Op) : Nat := match o.entry with
  | some (t, _, _) => t
  | none => o.unit

/-- The operation's present wait threatens a beat: the wait of step 2, a missing grant, or a crib fence
(R350, R40, R189). -/
def Op.threat (o : Op) : Option Nat :=
  match o.phase with
  | .waitSem => some rsnUNIT_WAIT
  | .waitLeave => some rsnLEAVE
  | .ready => if o.blocked then some rsnUNIT_WAIT else none
  | _ => none

/-- Count at which a watched entry's beat falls. -/
def State.watchBeat (s : State) (x : Table) (w : Watch) : Nat :=
  match x.entry? { epoch := w.epoch, entry := w.entry } with
  | some e => (s.beatAt w.epoch (entBeat e)).toNat
  | none => 0

/-! ### Bales (R209, R246) -/

def isBale (d : Nat) : Bool := decide (opUnit d = 7 ∧ opCode d = 1)
def baleNum (d : Nat) : Nat := bits d 377 354
def baleElems (d : Nat) : Nat := bits d 353 329 + 1

/-- Elements of bale n: of one that has ended, or of one in flight. -/
def State.baleSize (s : State) (n : Nat) : Option Nat :=
  match s.balesDone.find? fun (p : Nat × Nat × Nat) => decide (p.1 = n) with
  | some p => some p.2.1
  | none => ((s.ops.map (·.2)).find? fun (o : Op) => o.bale.any fun (b : Bale) => b.started && decide (b.n = n)).bind
      fun (o : Op) => o.bale.map (·.elems)

def baleSpan (first last : Nat) : List Nat := (List.range (last + 1 - first)).map (first + ·)

def waitKey (n p : Nat) : Nat := n * 2 ^ 26 + p

/-- Position p of bale n falls to an operation that has failed. -/
def State.discarded (s : State) (n p : Nat) : Bool :=
  s.updDiscard.any fun (x : Nat × Nat × Nat × Nat) =>
    let (first, offset, last, k) := x
    decide (first ≤ n ∧ n ≤ last) &&
      (match (baleSpan first n).dropLast.foldl (fun (a : Option Nat) m => a.bind fun x => (s.baleSize m).map (x + ·)) (some 0) with
        | none => false
        | some before => decide (offset ≤ before + p ∧ before + p < offset + k))

/-! ### What is judged -/

/-- A count below the stop beat while RUNNING: what the schedule still has to meet (R331). -/
def State.meets (s : State) (b : Int) : Bool := s.running && s.alm.stop.all fun (S : Nat) => decide (b < S)

/-- The boundary that begins epoch e is a step boundary (R310). -/
def State.isStep (s : State) (e : Nat) : Bool := decide (e % s.getO Obj.STEP_EPOCHS = s.getO Obj.STEP_PHASE)

/-- A step procedure that must come before the entries of an epoch has not finished: it runs, is due, or belongs to a
boundary that the count has not reached (R310). Assumption 100 (DEDUCED). -/
def State.stepPending (s : State) (e : Nat) : Bool :=
  s.stepRun.any (fun (r : StepRun) => decide (r.boundary ≤ e)) || s.stepQueue.any (fun (b : Nat) => decide (b ≤ e)) ||
    (List.range (e - s.getO Obj.SCHED_EPOCH)).any fun k => s.isStep (s.getO Obj.SCHED_EPOCH + 1 + k)

/-- The watched entries of a table that the schedule still has to meet: those of a step that has been abandoned start no
more (R331). -/
def State.watched (s : State) (x : Table) : List Watch :=
  x.open_.filter fun (w : Watch) =>
    s.meets (s.watchBeat x w) && s.stepDead.all fun (b : Nat) => decide (w.epoch < b)

/-- Row of LEAVE_COST_MW for a class and executing unit (R482): 0 where there is none. `eng` says that a memory
engine runs the operation. -/
def costRow (cls u c : Nat) (eng : Bool) : Nat :=
  if cls = 1 ∧ (u = 1 ∨ u = 3 ∨ u = 4) then 1
  else if cls = 2 ∧ u = 5 then (if eng then 3 else 2)
  else if cls = 2 ∧ u = 4 ∧ c = 0x10 then 2
  else if cls = 2 ∧ u = 6 then 4
  else if cls = 3 ∧ u = 7 then 5
  else if cls = 4 ∧ u = 8 ∧ c = 1 then 7
  else if cls = 2 ∧ u = 8 ∧ c = 2 then 8
  else 0

/-- A watched entry needs reserved leave and has none: a PORT_SLOT, or a START with LEAVE_PRE whose class and unit form a
row of R482 (R323, R423, R486). -/
def State.lacksLeave (s : State) (t : Nat) (x : Table) (w : Watch) : Bool :=
  !w.bad &&
  (match x.entry? { epoch := w.epoch, entry := w.entry } with
    | some e => decide (entKind e = 3) || (decide (entKind e = 1) && opLeavePre w.desc &&
        decide (costRow (opLeaveClass w.desc) (opUnit w.desc) (opCode w.desc) (decide (t = 0x328 ∨ t = 0x329)) ≠ 0))
    | none => false) &&
  !s.resvs.any fun (r : Resv) => decide (r.table = t ∧ r.epoch = w.epoch ∧ r.entry = w.entry) && r.made

/-- A watched START that is still to be submitted; the bale sequencer takes its own at their watch points (R253). -/
def State.unsubmitted (s : State) (t : Nat) (x : Table) (w : Watch) : Bool :=
  !w.bad && !isBale w.desc && (x.entry? { epoch := w.epoch, entry := w.entry }).any (fun e => decide (entKind e = 1)) &&
    s.ops.all fun (p : Nat × Op) => decide (p.2.entry ≠ some (t, w.epoch, w.entry))

/-- Reduced elements of bales that the table's operations brought wait for an update engine (R212, R228). -/
def State.heldBack (s : State) (t : Nat) : Bool :=
  s.updWait.any fun (p : Nat × Nat) =>
    decide (SMap.get 0 s.baleFrom (p.1 / 2 ^ 26) = t + 1) && !s.discarded (p.1 / 2 ^ 26) (p.1 % 2 ^ 26)

/-- Conditions of a table's watched entries: a wait of an operation or of reduced elements, a full stream, and missing
leave. Assumption 27 (DESIGN CHOICE). -/
def State.judge (s : State) (t : Nat) : State :=
  let x := s.table t
  let mine : List Op := (s.ops.map (·.2)).filter fun (o : Op) => decide (o.table = t ∧ o.bale = none)
  let open_ := s.watched x
  let at_ := fun (reason : Nat) (w : Option Watch) (b : Bool) => if b then w.map fun w => (s.watchBeat x w, reason) else none
  let next := open_.head?
  let full := mine.any fun o => decide (o.phase = .submitted) && decide (o.stream = 4)
  let s1 := s.setCond (keyTable t 0) (at_ rsnUNIT_WAIT next (mine.any fun o => decide (o.threat = some rsnUNIT_WAIT)))
  let s1 := s1.setCond (keyTable t 1) (at_ rsnLEAVE next (mine.any fun o => decide (o.threat = some rsnLEAVE)))
  let s1 := s1.setCond (keyTable t 2) (at_ rsnLEAVE (open_.find? (s.lacksLeave t x)) true)
  let s1 := s1.setCond (keyTable t 3) (at_ rsnUNIT_WAIT next (s.heldBack t))
  s1.setCond (keyTable t 4) (at_ rsnUNIT_WAIT (open_.find? (s.unsubmitted t x)) full)

/-- Bring the conditions of elements that wait up to date. -/
def State.judgeHeld (s : State) : State := s.baleFrom.foldl (fun (s : State) (p : Nat × Nat) => s.judge (p.2 - 1)) s

/-- Unfinished step work is a condition of every watched entry whose epoch it must come before (R310). -/
def State.judgeStep (s : State) : State :=
  let bs : List Nat := s.tables.flatMap fun (p : Nat × Table) =>
    ((s.watched p.2).filter fun (w : Watch) => s.stepPending w.epoch).map (s.watchBeat p.2)
  match bs with
  | [] => s.setCond keyStep none
  | b :: rest => s.setCond keyStep (some (rest.foldl min b, rsnSTEP))

/-! ### An entry begins (R314, R318, R329) -/

def Place.after (p : Place) : Place := { p with entry := p.entry + 1 }

/-- Record the overrun of an entry, once. -/
def State.overrunAt (s : State) (t : Nat) (p : Place) (e b : Nat) : State :=
  let x := s.table t
  if x.overrun.contains p then s
  else
    let s := s.setTable t { x with overrun := p :: x.overrun }
    let s := s.incO Obj.SCHED_OVERRUNS
    let s := s.setO Obj.SCHED_OVERRUN_TABLE t
    let s := s.setO Obj.SCHED_OVERRUN_ENTRY p.entry
    let s := s.setO Obj.SCHED_OVERRUN_BEAT b
    s.post { reason := if entHard e ∨ (800 ≤ t ∧ t < 0x328) then 0x0405 else 0x0404, source := t, addr := p.entry,
             d0 := t, d1 := b % 2 ^ 32 }

/-- The entry has begun: the table goes on with the next one. -/
def State.passEntry (s : State) (t : Nat) (p : Place) : State :=
  let x := s.table t
  let s := s.setTable t { x with
    next := p.after
    overrun := x.overrun.filter fun (q : Place) => decide (q ≠ p)
    open_ := x.open_.filter fun (w : Watch) => !decide (w.epoch = p.epoch ∧ w.entry = p.entry) }
  (s.judge t).judgeStep

/-- A stamped action posts its event (R314). -/
def State.stampEntry (s : State) (t e : Nat) (p : Place) : State :=
  if entStamp e then s.event (eventTarget t) 3 t (entArg e) 0 p.entry else s

/-- The action of a START begins with step 1 of its operation (R318): a late one is overrun, its stamp is posted, and the
table goes on with the next entry. A bale's entry begins with the bale. -/
def State.entryBegins (s : State) (o : Op) : State :=
  match o.entry, o.bale with
  | some (t, epoch, n), none =>
    let p : Place := { epoch := epoch, entry := n }
    match (s.table t).entry? p with
    | some e =>
      let b := (s.beatAt epoch (entBeat e)).toNat
      ((if b < s.count then s.overrunAt t p e b else s).stampEntry t e p).passEntry t p
    | none => s
  | _, _ => s

end Sys2Proof.Machine
end

