-- ==== Sys2Proof/Machine/Leave.lean ====
section
/-! DEFINITION. Leave: costs, factors, the pool, reservations, the queue, grants and returns (R482 to R488). -/
namespace Sys2Proof.Machine

/-- The entry of a row, mW. -/
def State.leaveCost (s : State) : Nat → Nat
  | 1 => s.getO Obj.LEAVE_COST_MW1
  | 2 => s.getO Obj.LEAVE_COST_MW2
  | 3 => s.getO Obj.LEAVE_COST_MW3
  | 4 => s.getO Obj.LEAVE_COST_MW4
  | 5 => s.getO Obj.LEAVE_COST_MW5
  | 6 => s.getO Obj.LEAVE_COST_MW6
  | 7 => s.getO Obj.LEAVE_COST_MW7
  | 8 => s.getO Obj.LEAVE_COST_MW8
  | _ => 0

def State.lf (s : State) (d : Nat) : Nat := s.getO Obj.LEAVE_LEAK_FACTOR 0 d
def State.lfMax (s : State) : Nat := max (s.lf 0) (s.lf 1)

/-- Effective cost on die d (R484), mW. -/
def State.effCost (s : State) (c d : Nat) : Nat :=
  cdiv (cdiv (c * s.lf d) 1024 * s.getO Obj.LEAVE_CORRECTION) 1024

/-- The pool of leave (R484), mW. -/
def State.pool (s : State) : Nat :=
  1000 * (s.getO Obj.POWER_LIMIT_W - s.getO Obj.LEAVE_MARGIN_W) - cdiv (1000 * s.getO Obj.LEAVE_BASE_W * s.lfMax) 1024

/-- Leave held by operations and transmission slots, and leave reserved. -/
def State.heldLeave (s : State) : Nat :=
  (s.ops.foldl (fun a p => a + p.2.held) 0) + s.slots.foldl (fun a x => a + x.leave) 0
def State.reservedLeave (s : State) : Nat :=
  s.resvs.foldl (fun a r => a + (if r.made then r.cost else 0)) 0

/-- Die of the executing unit: an update operation runs on the home die of its group (R207). -/
def Op.die (o : Op) (s : State) : Nat :=
  if opUnit o.desc = 6 then s.homeDie (bits o.desc 511 504) % 2 else dieOfUnit o.unit

/-- Base cost and die of an operation's request. -/
def Op.costOf (o : Op) (s : State) : Nat × Nat :=
  (s.leaveCost (costRow (opLeaveClass o.desc) (opUnit o.desc) (opCode o.desc) (decide (o.unit = 0x328 ∨ o.unit = 0x329))),
   o.die s)

/-- Earlier of two reservations: by beat, then table, then entry (R487). -/
def Resv.before (a b : Resv) : Bool :=
  decide (a.beat < b.beat) || (decide (a.beat = b.beat) && (decide (a.table < b.table) ||
    (decide (a.table = b.table) && decide (a.entry < b.entry))))

/-- The first reservation that has not been made. -/
def firstUnmade : List Resv → Option Resv
  | [] => none
  | r :: rs =>
    match firstUnmade rs with
    | none => if r.made then none else some r
    | some q => if r.made then some q else if r.before q then some r else some q

def Resv.same (a b : Resv) : Bool := decide (a.table = b.table ∧ a.entry = b.entry ∧ a.epoch = b.epoch)

/-- Step 3 of an operation has ended. -/
def State.makeReady (s : State) (id : Nat) (o : Op) : State :=
  { s.setOp id { o with phase := .ready } with readyQ := s.readyQ ++ [id] }

/-- A START whose reserved leave arrives late takes it at once (R40, R486). -/
def State.claim (s : State) (r : Resv) : State :=
  match s.ops.find? fun (p : Nat × Op) => decide (p.2.entry = some (r.table, r.epoch, r.entry) ∧ p.2.phase = .waitLeave) with
  | none => s
  | some (id, o) =>
    { s.makeReady id { o with held := r.cost } with resvs := s.resvs.filter fun (q : Resv) => !q.same r }

/-- Serve reservations in order, then the queue from its head (R487, R488). -/
def State.serve : Nat → State → State
  | 0, s => s
  | k + 1, s =>
    let used := s.heldLeave + s.reservedLeave
    let waiting := (firstUnmade s.resvs).isSome || decide (s.leaveQ ≠ [])
    if s.getO Obj.LEAVE_FROZEN ≠ 0 then
      if waiting then s.holdNow (if bit (s.getO Obj.LEAVE_FROZEN) 0 then keySupply else keyOver) rsnSUPPLY else s
    else
      match firstUnmade s.resvs with
      | some r =>
        let c := s.effCost r.cost r.die
        if used + c ≤ s.pool then
          let made := { r with made := true, cost := c }
          let s := { s with resvs := s.resvs.map fun (q : Resv) => if q.same r then made else q }
          let s := (s.incO Obj.LEAVE_GRANTS).claim made
          State.serve k (s.judge r.table)
        else s
      | none =>
        match s.leaveQ with
        | [] => s
        | id :: rest =>
          match s.op? id with
          | none => State.serve k { s with leaveQ := rest }
          | some o =>
            let c := s.effCost o.ask (o.die s)
            if used + c ≤ s.pool ∨ (c > s.pool ∧ used = 0) then
              let s := { s.makeReady id { o with held := c } with leaveQ := rest }
              State.serve k ((s.incO Obj.LEAVE_GRANTS).judge o.table)
            else s

/-- Serve everything that can be served now. -/
def State.serveLeave (s : State) : State := State.serve (s.resvs.length + s.leaveQ.length + 1) s

/-- The operation waits for leave at step 3. -/
def State.hasWaited (s : State) (o : Op) : State :=
  if o.unit < 800 ∧ s.waited.contains o.unit = false then { s with waited := o.unit :: s.waited } else s

/-- Take the reserved leave of a START entry at step 3, or wait until it has been reserved (R40, R486). -/
def State.takeReserved (s : State) (id : Nat) (o : Op) : State :=
  match o.entry.bind fun (t, e, n) => s.resvs.find? fun (r : Resv) =>
      decide (r.table = t ∧ r.epoch = e ∧ r.entry = n) && r.made with
  | some r => { s.makeReady id { o with held := r.cost } with resvs := s.resvs.filter fun (q : Resv) => !q.same r }
  | none => ((s.setOp id { o with phase := .waitLeave }).hasWaited o).judge o.table

/-- Return the reservation of an entry that is refused or cancelled (R486). -/
def State.dropReserved (s : State) (entry : Option (Nat × Nat × Nat)) : State :=
  match entry with
  | none => s
  | some (t, e, n) =>
    let kept := s.resvs.filter fun (r : Resv) => !decide (r.table = t ∧ r.epoch = e ∧ r.entry = n)
    if kept.length = s.resvs.length then s else ({ s with resvs := kept }).serveLeave

/-- Step 3 of R38: request leave of the operation's class, join the queue and be served. LEAVE_PRE stands for leave that an
entry of a table has reserved. The cycles it waits are an open value of its core's counter. Assumption 90 (DEDUCED). -/
def State.requestLeave (s : State) (id : Nat) (o : Op) : State :=
  if opLeaveClass o.desc = 0 then s.makeReady id o
  else if opLeavePre o.desc ∧ o.entry.isSome then s.takeReserved id o
  else
    let s := { s.setOp id { o with ask := (o.costOf s).1, phase := .waitLeave } with leaveQ := s.leaveQ ++ [id] }
    let s := s.serveLeave
    match s.op? id with
    | some o' =>
      if o'.phase = .waitLeave then
        ((s.incO Obj.LEAVE_WAITS).hasWaited o').judge o'.table
      else s
    | none => s

end Sys2Proof.Machine
end

