-- ==== Sys2Proof/Machine/Sem.lean ====
section
/-! DEFINITION. The operations of the semaphore bank on one semaphore: wait, try, lock, unlock, misuse, orphaning
and the two acts of the owner (R342 to R355). -/
namespace Sys2Proof.Machine

/-- Result of a bank operation. -/
inductive SemRes where
  | granted
  | orphan
  | notGranted
  | misuse
  | queued
  | unrecorded
  deriving DecidableEq, Repr

/-- A misuse changes nothing but its counter and record (R346). -/
def State.semMisuse (s : State) (q : Nat) (who : SemWho) : State :=
  (s.incO Obj.SEM_MISUSE).post { reason := 0x0301, d0 := q, d1 := bits (s.ownerTag who) 43 32 }

/-- The present owner of a HELD semaphore is this requester (KIND and ID of R341). -/
def Sem.ownedBy (x : Sem) (who : SemWho) : Bool := decide (x.owner / 2 ^ 32 = ownerId who) && decide (ownerId who ≠ 0)

/-- Pool size of R340. -/
def poolSize : Nat := 65536

/-- Wait for `n`, or lock (R343, R346, R349, R352). -/
def State.semWaitOp (s : State) (q n : Nat) (lock : Bool) (who : SemWho) : State × SemRes :=
  let x := s.sem q
  if n = 0 then (s.semMisuse q who, .misuse)
  else if x.st = 2 then (s.incO Obj.SEM_OPS, .orphan)
  else if lock ∧ x.st = 1 ∧ x.ownedBy who then (s.semMisuse q who, .misuse)
  else
    let s := s.incO Obj.SEM_OPS
    if x.waits = [] ∧ x.count ≥ n ∧ (lock = false ∨ x.st = 0) then
      (s.setSem q (if lock then { x with count := x.count - n, st := 1, owner := s.ownerTag who }
        else { x with count := x.count - n }), .granted)
    else
      let r : SemReq := { who := who, n := n, lock := lock, sem := q, epoch := s.getO Obj.SCHED_EPOCH }
      if s.poolUsed ≥ poolSize then ({ s with unrec := s.unrec ++ [r] }, .unrecorded)
      else
        let s := s.setSem q { x with waits := x.waits ++ [r] }
        (s.maxO Obj.SEM_WAIT_POOL_MAX s.poolUsed, .queued)

/-- Try for `n` (R343). -/
def State.semTryOp (s : State) (q n : Nat) (who : SemWho) : State × SemRes :=
  let x := s.sem q
  if n = 0 then (s.semMisuse q who, .misuse)
  else
    let s := s.incO Obj.SEM_OPS
    if x.st = 2 then (s, .orphan)
    else if x.waits = [] ∧ x.count ≥ n then (s.setSem q { x with count := x.count - n }, .granted)
    else (s, .notGranted)

/-- A lock that polls, as the host and the stewards issue it (R342, R343). Assumption 36 (DEDUCED). -/
def State.semLockTry (s : State) (q : Nat) (who : SemWho) : State × SemRes :=
  let x := s.sem q
  if x.st = 2 then (s.incO Obj.SEM_OPS, .orphan)
  else if x.st = 1 ∧ x.ownedBy who then (s.semMisuse q who, .misuse)
  else
    let s := s.incO Obj.SEM_OPS
    if x.waits = [] ∧ x.count ≥ 1 ∧ x.st = 0 then
      (s.setSem q { x with count := x.count - 1, st := 1, owner := s.ownerTag who }, .granted)
    else (s, .notGranted)

/-- Unlock (R343, R346). The count of a HELD semaphore that stands at its largest value overflows as a signal
does (R347). -/
def State.semUnlockOp (s : State) (q : Nat) (who : SemWho) : State × SemRes :=
  let x := s.sem q
  if x.st = 1 ∧ x.ownedBy who then
    let ovf := decide (x.count + 1 > 0xFFFFFFFF)
    let s := s.incO Obj.SEM_OPS
    let s := s.setSem q { x with count := if ovf then 0xFFFFFFFF else x.count + 1, st := 0, owner := 0 }
    let s := s.semGrants q x.waits.length
    (if ovf then (s.incO Obj.SEM_OVERFLOWS).post { reason := 0x0302, d0 := q } else s, .granted)
  else (s.semMisuse q who, .misuse)

/-- Signal by an agent that can misuse it (R346). -/
def State.semSignalOp (s : State) (q n : Nat) (who : SemWho) : State × SemRes :=
  if n = 0 then (s.semMisuse q who, .misuse) else (s.signal q n, .granted)

/-- Complete every request of a list with orphan status (R352). -/
def State.orphanAll (s : State) : List SemReq → State
  | [] => s
  | r :: rs => (s.deliver r.who 1).orphanAll rs

/-- Orphan one HELD semaphore (R352). -/
def State.semOrphan (s : State) (q : Nat) : State :=
  let x := s.sem q
  if x.st = 1 then
    let s := s.setSem q { x with st := 2, waits := [] }
    let s := s.orphanAll x.waits
    let s := s.incO Obj.SEM_ORPHAN_EVENTS
    let s := s.event 0xFFF 5 0xFFF 0 q 0xFFFF
    s.post { reason := 0x0303, d0 := q, d1 := x.owner % 2 ^ 32 }
  else s

/-- The request comes from a lost owner (R351). -/
def reqFrom (id : Nat) (r : SemReq) (ops : SMap Op) : Bool :=
  match r.who with
  | .op o | .fill o =>
    match (ops.find? fun p => decide (p.1 = o)).map (·.2) with
    | some x => decide (x.unit < 800) && decide (4096 + x.unit = id)
    | none => false
  | w => decide (ownerId w = id) && decide (id ≠ 0)

/-- Semaphore requests that a list keeps. -/
def State.keepWaits (s : State) (keep : SemReq → Bool) : State :=
  { s with
    sems := s.sems.map (fun (p : Nat × Sem) => (p.1, { p.2 with waits := p.2.waits.filter keep }))
    unrec := s.unrec.filter keep }

/-- Every wait list whose head can be granted now is granted from. -/
def State.regrant (s : State) : State :=
  s.sems.foldl (fun (t : State) (p : Nat × Sem) => t.semGrants p.1 p.2.waits.length) s

/-- Requests that `gone` names are removed without grant, then the semaphores held by the owners `lost` (KIND and ID)
become ORPHANED; only then is anything granted (R351). -/
def State.loseOwners (s : State) (gone : SemReq → Bool) (lost : Nat → Bool) : State :=
  let s := s.keepWaits fun r => !gone r
  let held := (s.sems.filter fun (p : Nat × Sem) => decide (p.2.st = 1) && lost (p.2.owner / 2 ^ 32)).map (·.1)
  (held.foldl State.semOrphan s).regrant

/-- One owner is reset or lost (R351). -/
def State.loseOwner (s : State) (id : Nat) : State := s.loseOwners (fun r => reqFrom id r s.ops) fun n => decide (n = id)

/-- SEM_ACT_GO = 1 (R365): the status, 0 where the semaphore becomes FREE with the count. -/
def State.semActSet (s : State) (q count : Nat) : State :=
  let x := s.sem q
  if s.running then s.setO Obj.SEM_ACT_STATUS 1
  else if x.waits ≠ [] then s.setO Obj.SEM_ACT_STATUS 2
  else if x.st ≠ 0 then s.setO Obj.SEM_ACT_STATUS 4
  else (s.setSem q { x with count := count, st := 0, owner := 0 }).setO Obj.SEM_ACT_STATUS 0

/-- SEM_ACT_GO = 2, the recovery clear (R354). -/
def State.semRecover (s : State) (q count : Nat) : State :=
  let x := s.sem q
  if x.st = 2 then (s.setSem q { count := count }).setO Obj.SEM_ACT_STATUS 0
  else s.setO Obj.SEM_ACT_STATUS 3

/-- Reissue of a wait that was not recorded (R349). Assumption 37 (DEDUCED). -/
def State.semReissue (s : State) (r : SemReq) : State :=
  let s := if r.counted then s else s.incO Obj.SEM_WAIT_POOL_FULL
  let x := s.sem r.sem
  if x.st = 2 then s.deliver r.who 1
  else if x.waits = [] ∧ x.count ≥ r.n ∧ (r.lock = false ∨ x.st = 0) then
    let s := s.setSem r.sem (if r.lock then { x with count := x.count - r.n, st := 1, owner := s.ownerTag r.who }
      else { x with count := x.count - r.n })
    s.deliver r.who 0
  else if s.poolUsed ≥ poolSize then { s with unrec := s.unrec ++ [{ r with counted := true }] }
  else
    let s := s.setSem r.sem { x with waits := x.waits ++ [{ r with counted := true }] }
    s.maxO Obj.SEM_WAIT_POOL_MAX s.poolUsed

/-- Each waiting context whose request is now in the list waits on its semaphore. -/
def State.ctxWaitOn (s : State) (who : SemWho) (w : CtxWait) : State :=
  match who with
  | .ctx core ctx _ =>
    let c := s.ctx core ctx
    if c.st = .waiting ∧ c.wait = .unrecorded then s.setCtx core ctx { c with wait := w } else s
  | _ => s

/-- SEM_WAIT_REISSUE: unrecorded request number n is issued again (R349). -/
def execSemWaitReissue (n : Nat) (s : State) : Out :=
  match s.unrec[n]? with
  | none => .next s
  | some r =>
    let s := { s with unrec := s.unrec.eraseIdx n }
    let s := s.semReissue r
    .next (if s.unrec.length > n ∧ s.unrec.getLast? = some { r with counted := true } then s
      else s.ctxWaitOn r.who (.sem r.sem))

end Sys2Proof.Machine
end

