-- ==== Sys2Proof/Machine/Lifecycle.lean ====
section
/-! DEFINITION. The order of an operation (R34 to R40): checks, the wait on WSEM, leave, execution, completion,
refusal, orphaned waits and abandonment. -/
namespace Sys2Proof.Machine

/-- The operation runs on its core's matrix array (R81, R144, R167). -/
def Op.usesArray (o : Op) : Bool :=
  decide (opUnit o.desc = 1 ∨ (opUnit o.desc = 3 ∧ opCode o.desc = 1) ∨ (opUnit o.desc = 4 ∧ opCode o.desc ≤ 2))

/-- Add one to a unit's refused counter. -/
def State.countRefused (s : State) (u : Nat) : State :=
  match u with
  | 1 => s.incO Obj.MATRIX_REFUSED
  | 2 => s.incO Obj.VECTOR_REFUSED
  | 3 => s.incO Obj.SWIN_REFUSED
  | 4 => s.incO Obj.ATTN_REFUSED
  | 5 => s.incO Obj.DMA_REFUSED
  | 6 => s.incO Obj.UPDATE_REFUSED
  | 7 => s.incO Obj.REDUCE_REFUSED
  | 8 => s.incO Obj.THRESH_REFUSED
  | _ => s

/-- Add one to the abandoned counter of a descriptor's unit; that of the vector engines leaves out kernels (R141). -/
def State.countAbandoned (s : State) (d : Nat) : State :=
  match opUnit d with
  | 1 => s.incO Obj.MATRIX_ABANDONED
  | 2 => if opCode d = 0x10 then s else s.incO Obj.VECTOR_ABANDONED
  | 3 => s.incO Obj.SWIN_ABANDONED
  | 4 => s.incO Obj.ATTN_ABANDONED
  | 5 => s.incO Obj.DMA_ABANDONED
  | 6 => s.incO Obj.UPDATE_ABANDONED
  | 8 => s.incO Obj.THRESH_ABANDONED
  | _ => s

/-- Count a failed operation of a core (0xA000 + n). -/
def State.coreFailed (s : State) (o : Op) : State :=
  if o.unit < 800 then (s.incO Obj.CORE_OPS_FAILED 1 o.unit).setO Obj.CORE_LAST_FAIL_TAG (opTag o.desc) o.unit else s

/-- Contexts that wait in FENCE go on once no DMA submission of theirs remains (R124). -/
def State.fenceWake (s : State) (core ctx : Nat) : State :=
  let c := s.ctx core ctx
  if c.st = .waiting ∧ c.wait = .fence ∧
      (s.ops.all fun (p : Nat × Op) => !decide (p.2.unit = core ∧ p.2.stream = 5 ∧ p.2.ctx = ctx + 1)) then
    s.setCtx core ctx { c with st := .ready, wait := .none }
  else s

/-- The THRESH_RUN of a thresher ends: what its window holds is dropped, and its wait for a slot is withdrawn (R296). -/
def State.thrEnd (s : State) (id : Nat) (o : Op) : State :=
  let d := dieOfUnit o.unit
  let t := s.thr d
  if opUnit o.desc = 8 ∧ t.run = some id then
    let keep := fun (r : SemReq) => decide (r.who ≠ .slot d)
    let s := s.setThr d { t with run := none, left := 0, lanes := [], waitSlot := false, slotGranted := false,
                                 slotOrphan := false }
    { s with
      sems := if t.waitSlot then s.sems.map fun (p : Nat × Sem) => (p.1, { p.2 with waits := p.2.waits.filter keep }) else s.sems
      unrec := if t.waitSlot then s.unrec.filter keep else s.unrec }
  else s

/-- An operation ends: it gives back its fence, its leave and its place (R189, R487). -/
def State.endOp (s : State) (id : Nat) (o : Op) : State :=
  let s := { s with
    fences := match o.fence with
      | some f => s.fences.filter fun (x : Nat) => decide (x ≠ f)
      | none => s.fences
    leaveQ := s.leaveQ.filter fun (x : Nat) => decide (x ≠ id)
    readyQ := s.readyQ.filter fun (x : Nat) => decide (x ≠ id) }
  let s := ((s.thrEnd id o).dropOp id).serveLeave
  let s := if o.stream = 5 ∧ o.ctx > 0 then s.fenceWake o.unit (o.ctx - 1) else s
  s.judge o.table

/-- Advance the consumer index of the ring an operation came from: its descriptor is no longer read (R360). -/
def State.ringDone (s : State) (o : Op) : State :=
  if o.ring < 4096 then
    let r := s.ring o.ring
    let s := s.setRing o.ring { r with c := (r.c + 1) % 2 ^ 32 }
    s.notify (if r.notify < 4096 then some r.notify else none)
  else s

/-- Refusal at step 1 (R39): nothing is taken, its stream stops, and the record names the failing condition.
Assumption 24 (DEDUCED). -/
def State.refuse (s : State) (id : Nat) (o : Op) (r : Refused) : State :=
  let s := s.post { reason := 0x0101, source := o.unit, tag := opTag o.desc, addr := o.descAddr,
                    d0 := opUnit o.desc * 256 + opCode o.desc, d1 := r.n }
  let s := (if r.counted then s.countRefused (opUnit o.desc) else s).coreFailed o
  let s := s.stopStream o.unit o.stream
  let s := (s.endOp id o).dropReserved o.entry
  s.judge o.table

/-- A step-2 wait that completes with orphan status (R353). -/
def State.orphanWait (s : State) (id : Nat) (o : Op) : State :=
  let s := s.post { reason := 0x0102, source := o.unit, tag := opTag o.desc, addr := o.descAddr, d0 := opWsem o.desc }
  let s := (s.coreFailed o).stopStream o.unit o.stream
  (s.endOp id o).dropReserved o.entry

/-- Abandonment (R101, R165, R200, R229, R296, R389, R563): the record, the counters, and the operation ends with
neither signal nor event. -/
def State.abandon (s : State) (id : Nat) (o : Op) (addr cause group : Nat) : State :=
  let s := s.post { reason := 0x0104, source := if opUnit o.desc = 8 then 0x32A + dieOfUnit o.unit else o.unit,
                    tag := opTag o.desc, addr := addr, d0 := cause, d1 := group }
  let s := (s.countAbandoned o.desc).coreFailed o
  s.endOp id o

/-- What an abandonment record names beside the cause: the parameter group of an update operation (R229), else 0. -/
def Op.groupNum (o : Op) : Nat := if opUnit o.desc = 6 then bits o.desc 511 504 else 0

def State.failOp (s : State) (id : Nat) (o : Op) (addr cause group : Nat) : State :=
  s.setOp id { o with phase := .failing addr cause group }

/-- Step 1 has passed: the ring moves on, and step 2 begins (R38, R360). -/
def State.passed (s : State) (id : Nat) (o : Op) : State :=
  let s := s.ringDone o
  if opWsemEn o.desc then
    let s := s.setOp id { o with phase := .waitSem, waitEpoch := s.getO Obj.SCHED_EPOCH }
    let (s, r) := s.semWaitOp (opWsem o.desc) (opWcount o.desc) false (.op id)
    match r with
    | .granted => s.requestLeave id o
    | .orphan => s.orphanWait id o
    | _ => s.judge o.table
  else s.requestLeave id o

/-- What step 1 finds in the header. An excluded core refuses every operation (R479). Assumption 28 (DEDUCED). -/
def State.headFail (s : State) (o : Op) : Option Refused :=
  if o.unit < 800 ∧ s.getO Obj.CORE_EXCLUDE o.unit = 1 then some ⟨1, false⟩ else s.headerFail o.desc

/-- A new operation is submitted. One whose OP no chapter defines, or whose unit is not `unit`'s to run, is refused at once
(R35, R37): no row of a unit carries it on. -/
def State.submitOp (s : State) (o : Op) (ours : Bool := true) : State :=
  let id := s.nextOp
  let s := { s.setOp id o with nextOp := id + 1 }
  if ours && opDefined (opUnit o.desc) (opCode o.desc) then s
  else (s.entryBegins o).refuse id o ((s.headFail o).getD ⟨1, false⟩)

/-- Step 1 of R38; the entry that started the operation begins with it (R318). -/
def State.stepOne (s : State) (check : State → Op → State × Chk) (id : Nat) (o : Op) : State :=
  let s := s.entryBegins o
  match s.headFail o with
  | some r => s.refuse id o r
  | none =>
    match check s o with
    | (s, .refuse r) => s.refuse id o r
    | (s, .ue a) => (s.ringDone o).failOp id o a 1 o.groupNum
    | (s, .ok w) => s.passed id { o with got := w }

/-- Step 4 has begun. -/
def Phase.begun : Phase → Bool
  | .executing => true
  | .executed => true
  | .failing _ _ _ => true
  | _ => false

/-- Operations of one core's matrix array. -/
def State.onArray (s : State) (core : Nat) : List (Nat × Op) :=
  s.ops.filter fun (p : Nat × Op) => p.2.usesArray && decide (p.2.unit = core)

/-- Every earlier operation of its stream on the array has begun. -/
def State.inTurn (s : State) (id : Nat) (o : Op) : Bool :=
  (s.onArray o.unit).all fun (p : Nat × Op) => decide (p.2.stream ≠ o.stream ∨ id ≤ p.1) || p.2.phase.begun

/-- Operations of the matrix array run one at a time on a core, in stream order and, of those in turn, in the order in
which their step 3 ended (R98). Assumption 25 (DESIGN CHOICE). -/
def State.canStart (s : State) (id : Nat) (o : Op) : Bool :=
  !o.usesArray ||
    ((s.onArray o.unit).all fun (p : Nat × Op) => decide (p.2.phase ≠ .executing)) &&
    ((s.readyQ.filter fun (x : Nat) => (s.op? x).elim false fun q =>
      q.usesArray && decide (q.unit = o.unit) && s.inTurn x q).head? == some id)

/-- Step 4 begins: the step number (R62) and the scales (R77) are those of now; an address that cannot be read. -/
def State.start4 (s : State) (id : Nat) (o : Op) : State × Op × Option Nat :=
  let (s, ds, ue) := s.renewAll o.got.tds
  let o := { o with phase := .executing, blocked := false, step := s.getO Obj.WINNOW_STEP,
                    got := { o.got with tds := ds } }
  ({ s.setOp id o with readyQ := s.readyQ.filter fun (x : Nat) => decide (x ≠ id) }, o, ue)

/-- Run an operation as far as it can go: step 1 where it is new, then step 4 where nothing keeps it waiting.
Assumption 25 (DESIGN CHOICE). -/
def State.runOp (s : State) (u c : Nat) (check : State → Op → State × Chk) (run : State → Nat → Op → State)
    (id : Nat) : State :=
  match s.op? id with
  | none => s
  | some o =>
    if opUnit o.desc ≠ u ∨ opCode o.desc ≠ c then s
    else
      let s := if o.phase = .submitted then s.stepOne check id o else s
      match s.op? id with
      | none => s
      | some o =>
        if o.phase = .ready ∧ s.canStart id o then
          match s.start4 id o with
          | (s, o, some a) => s.failOp id o a 1 o.groupNum
          | (s, o, none) => run s id o
        else s

/-- Step 4 finds that it must wait: the operation keeps its place. Assumption 25 (DESIGN CHOICE). -/
def State.blockOp (s : State) (id : Nat) (o : Op) : State :=
  let s := s.setOp id { o with phase := .ready, blocked := true }
  ({ s with readyQ := id :: s.readyQ.filter fun (x : Nat) => decide (x ≠ id) }).judge o.table

/-- The end of the work of step 4: done, or to be abandoned. -/
def State.worked (s : State) (id : Nat) (o : Op) (f : Option Nat) : State :=
  match f with
  | none => s.setOp id { o with phase := .executed }
  | some a => s.failOp id o a 1 0

/-- OP_LEAVE_GRANT: the allotment serves what its pool covers, the head of the queue first among requests. -/
def execOpLeaveGrant (s : State) : Out := .next s.serveLeave

/-- OP_ABANDONED: the abandonment of an operation whose read or write failed. -/
def execOpAbandoned (op : Nat) (s : State) : Out :=
  match s.op? op with
  | none => .next s
  | some o =>
    match o.phase with
    | .failing a c g => .next (s.abandon op o a c g)
    | _ => .next s

/-- Counters of a completed operation. -/
def State.countDone (s : State) (o : Op) : State :=
  let s := match opUnit o.desc with
    | 1 => s.incO Obj.MATRIX_OPS_DONE
    | 2 => s.incO Obj.VECTOR_OPS_DONE
    | 3 =>
      let s := s.incO Obj.SWIN_OPS_DONE
      if opCode o.desc = 2 then s.incO Obj.SWIN_POOL_OPS
      else if bits o.desc 268 267 = 1 then s.incO Obj.SWIN_WINOGRAD_OPS else s
    | 4 =>
      let s := s.incO Obj.ATTN_OPS_DONE
      if opCode o.desc = 3 then s.incO Obj.ATTN_MERGES_DONE else s
    | 5 => s.incO Obj.DMA_OPS_DONE
    | 6 => s.incO Obj.UPDATE_OPS_DONE
    | 7 => s.incO Obj.REDUCE_BALES_DONE
    | _ => s.incO Obj.THRESH_OPS_DONE
  if o.unit < 800 ∧ o.stream ≤ 4 then s.incO Obj.CORE_OPS_DONE 1 o.unit else s

/-- OPERATION_COMPLETE: leave is returned; steps 5 to 7 of R38. Assumption 25 (DESIGN CHOICE). -/
def execOperationComplete (op : Nat) (s : State) : Out :=
  match s.op? op with
  | none => .next s
  | some o =>
    match o.phase with
    | .executed =>
      let s := (s.endOp op o).countDone o
      let s := if opCsemEn o.desc then s.signal (opCsem o.desc) 1 else s
      let s := if opEvent o.desc then s.event (eventTarget o.unit) 1 o.unit (opTag o.desc) 0 0xFFFF else s
      .next s
    | _ => .next s

end Sys2Proof.Machine
end

