-- ==== Sys2Proof/Machine/Matrix.lean ====
section
/-! DEFINITION. The matrix array and the defined dot product (R80 to R102). -/
namespace Sys2Proof.Machine

/-- The product of R85, with its flags. -/
def product (f : Fmt) (strict : Bool) (sc : Int) (a b : Nat) : Fl FV :=
  let (x, f1) := f.read strict a
  let (y, f2) := f.read strict b
  let (p, f3) := mulFV x y
  (p.scale sc, f1 ||| f2 ||| f3)

/-- One step (R88, R89): the exact sum of the running sum and a product, rounded once. `w` is the value of R54 where
the step rounds stochastically. Assumption 17 (DEDUCED). -/
def dotStep (strict : Bool) (w : Option Nat) (sum : Nat) (p : FV) : Fl Nat :=
  let (r, f1) := addFV (f32.decode sum) p
  let (c, f2) := deliver f32 strict w 0 r
  (c, f1 ||| f2)

/-- Start of a sum with no accumulate tensor (R86). -/
def dotStart (strict : Bool) : Nat := if strict then 0x80000000 else 0

/-- The random value of a site, where it rounds stochastically (R52, R54, R62). -/
def siteW (on : Bool) (seed step tid purpose idx draw : Nat) : Option Nat :=
  if on then some (winnowW seed step tid purpose idx draw) else none

/-- Steps k, k + 1, ... over the given products, with draw numbers from `draw` on. -/
def dotSteps (strict sround : Bool) (seed step tid idx : Nat) : Nat → Fl Nat → List (Fl FV) → Fl Nat
  | _, s, [] => s
  | draw, (sum, fl), (p, fp) :: ps =>
    let (c, f) := dotStep strict (siteW sround seed step tid purpMSUM idx (draw % 2 ^ 32)) sum p
    dotSteps strict sround seed step tid idx (draw + 1) (c, fl ||| fp ||| f) ps

/-! ### The descriptor (R82) -/

def mmAccAt (d : Nat) : Nat := descAt d 340
def mmKorg (d : Nat) : Nat := bits d 339 316
def mmOrg0 (d : Nat) : Nat := bits d 315 292
def mmOrg1 (d : Nat) : Nat := bits d 291 268
def mmOrg2 (d : Nat) : Nat := bits d 267 252
def mmExt0 (d : Nat) : Nat := bits d 251 228
def mmExt1 (d : Nat) : Nat := bits d 227 204
def mmPart (d : Nat) : Nat := bits d 203 192
def mmTA (d : Nat) : Bool := bit d 191
def mmTB (d : Nat) : Bool := bit d 190
def mmKeyEn (d : Nat) : Bool := bit d 189

/-- Element index that keys the draws (R83). -/
def mmIdx (d : Nat) (t : TD) (i0 i1 i2 : Nat) : Nat :=
  if mmKeyEn d then
    (mmOrg0 d + i0) + (mmExt0 d + 1) * ((mmOrg1 d + i1) + (mmExt1 d + 1) * (mmOrg2 d + i2))
  else t.idx [i0, i1, i2]

def mmRoles (d : Nat) (partial_ : Bool) : List Role :=
  [{ at_ := descAt d 469 }, { at_ := descAt d 426 },
   { at_ := descAt d 383, written := true, stoch := opSround d && !partial_, fmts := if partial_ then [1] else [0, 1] }] ++
  (if mmAccAt d = 0 then [] else [{ at_ := mmAccAt d, fmts := [1] }])

/-- Extent of A or B along k and along its other dimension. -/
def kExt (t : TD) (swapped : Bool) : Nat := if swapped then t.e 1 else t.e 0
def oExt (t : TD) (swapped : Bool) : Nat := if swapped then t.e 0 else t.e 1

/-- The conditions of R84, in its order. -/
def mmConds (d core : Nat) (part : Bool) (a b t : TD) (acc : Option TD) : List Bool :=
  let bm := t.e 2
  let badBatch := fun (x : TD) => decide (x.e 2 ≠ 1 ∧ x.e 2 ≠ bm) || decide (x.e 3 ≠ 1 ∨ x.e 4 ≠ 1)
  let all := [a, b, t] ++ acc.toList
  [ decide (opLeaveClass d ≠ 1),
    decide (a.fmt ≠ b.fmt) || decide (a.fmt > 1) || decide (b.fmt > 1),
    decide (kExt a (mmTA d) ≠ (if mmTB d then b.e 0 else b.e 1)) || decide (oExt a (mmTA d) ≠ t.e 1) ||
      decide ((if mmTB d then b.e 1 else b.e 0) ≠ t.e 0) || badBatch a || badBatch b ||
      acc.any (fun x => decide (x.e 0 ≠ t.e 0 ∨ x.e 1 ≠ t.e 1 ∨ x.e 2 ≠ bm ∨ x.e 3 ≠ 1 ∨ x.e 4 ≠ 1)),
    if part then decide (t.rank ≠ 4) else decide (t.rank > 3),
    part && (decide (t.fmt ≠ 1 ∨ t.sexp ≠ 0) || decide (mmPart d ≥ t.e 3)),
    part && acc.isSome && decide (mmPart d ≠ 0),
    acc.any (fun x => decide (x.fmt ≠ 1)),
    all.any (fun x => !x.inLoftOf core),
    t.overlaps a || t.overlaps b,
    acc.any (fun x => t.overlaps x && !t.sameShape x),
    !mmKeyEn d && decide (mmOrg0 d ≠ 0 ∨ mmOrg1 d ≠ 0 ∨ mmOrg2 d ≠ 0 ∨ mmExt0 d ≠ 0 ∨ mmExt1 d ≠ 0),
    mmKeyEn d && (decide (mmOrg0 d + t.e 0 > mmExt0 d + 1) || decide (mmOrg1 d + t.e 1 > mmExt1 d + 1) ||
      decide (mmIdx d t (t.e 0 - 1) (t.e 1 - 1) (t.e 2 - 1) ≥ 2 ^ 48)),
    opSround d && decide (t.tid = 0),
    !part && decide (mmPart d ≠ 0) ]

/-- Step 1 of a matrix operation: the self-test (R102), reserved fields (R9), R31 and R84. Assumption 24 (DEDUCED). -/
def mmCheck (part : Bool) (s : State) (o : Op) : State × Chk :=
  let d := o.desc
  if s.getO Obj.MATRIX_SELFTEST_STATE = 1 ∨ bits d 188 128 ≠ 0 then (s, .refuse ⟨1, false⟩)
  else s.tensorsThen (mmRoles d part) fun ts => mmConds d o.unit part (tensor ts 0) (tensor ts 1) (tensor ts 2) ts[3]?

/-- Indices of A(m, k, b) and B(k, n, b) (R80). -/
def mmA (d : Nat) (a : TD) (m k b : Nat) : List Nat :=
  let b := if a.e 2 = 1 then 0 else b
  if mmTA d then [m, k, b] else [k, m, b]
def mmB (d : Nat) (t : TD) (k n b : Nat) : List Nat :=
  let b := if t.e 2 = 1 then 0 else b
  if mmTB d then [k, n, b] else [n, k, b]

/-- One element of the output: the sum of R87 and its written form (R90). -/
def mmElem (s : State) (o : Op) (part : Bool) (a b t : TD) (acc : Option TD) (n m bi : Nat) : Work :=
  let d := o.desc
  let seed := s.getO Obj.WINNOW_JOB_SEED
  let idx := mmIdx d t n m bi
  let strict := opStrict d
  let start : Fl Nat := match acc with
    | some x => s.val x strict [n, m, bi]
    | none => (dotStart strict, 0)
  let ps := (List.range (kExt a (mmTA d))).map fun k =>
    product a.flt strict (a.sexp + b.sexp) (s.el a (mmA d a m k bi)) (s.el b (mmB d b k n bi))
  let (sum, fl) := dotSteps strict (opSround d) seed o.step t.tid idx (mmKorg d) start ps
  if part then { writes := [(t.addr [n, m, bi, mmPart d], leBytes 4 sum)], flags := fl }
  else if t.fmt = 1 ∧ t.sexp = 0 then { writes := [(t.addr [n, m, bi], leBytes 4 sum)], flags := fl }
  else
    let (c, w) := store t strict (siteW (opSround d) seed o.step t.tid purpOUT16 idx 0) (f32.decode sum)
    { w with writes := [(t.addr [n, m, bi], leBytes t.esz c)], flags := fl ||| w.flags }

/-- One block of 64 × 64 elements (R92, R99): what it reads and what it writes. -/
def mmBlock (o : Op) (part : Bool) (a b t : TD) (acc : Option TD) (bn bm bi : Nat) : Piece :=
  let d := o.desc
  let ns := (List.range 64).filterMap fun i => if bn * 64 + i < t.e 0 then some (bn * 64 + i) else none
  let ms := (List.range 64).filterMap fun i => if bm * 64 + i < t.e 1 then some (bm * 64 + i) else none
  let ks := List.range (kExt a (mmTA d))
  let ra := ms.flatMap fun m => ks.map fun k => (a.addr (mmA d a m k bi), a.esz)
  let rb := ks.flatMap fun k => ns.map fun n => (b.addr (mmB d b k n bi), b.esz)
  let rc := match acc with
    | some x => ms.flatMap fun m => ns.map fun n => (x.addr [n, m, bi], x.esz)
    | none => []
  (ra ++ rb ++ rc, fun s => (ms.flatMap fun m => ns.map fun n => mmElem s o part a b t acc n m bi).foldl Work.join {})

/-- The blocks of a matrix operation on its tensors A, B, D and accumulate. -/
def mmPieces (part : Bool) (o : Op) (ts : List TD) : List Piece :=
  let t := tensor ts 2
  (List.range (t.e 2)).flatMap fun bi => (List.range (cdiv (t.e 1) 64)).flatMap fun bm =>
    (List.range (cdiv (t.e 0) 64)).map fun bn => mmBlock o part (tensor ts 0) (tensor ts 1) t ts[3]? bn bm bi

/-- Step 4 of a matrix operation. Steps of an abandoned operation are counted by an open value.
Assumption 20 (DESIGN CHOICE). -/
def mmRun (part : Bool) (s : State) (id : Nat) (o : Op) : State :=
  let ts := o.got.list
  let a := tensor ts 0
  let t := tensor ts 2
  let blocks := mmPieces part o ts
  let (s, w, f) := s.runPieces blocks
  let s := s.account o.unit w (if part then 0 else t.tid)
  let steps := blocks.length * 4096 * kExt a (mmTA o.desc)
  let s := match f with
    | none => s.incO Obj.MATRIX_STEPS_DONE steps
    | some _ => (s.incO Obj.MATRIX_STEPS_DONE (s.free 64 % (steps + 1))).drew
  s.worked id o f

/-- MATMUL (R80). -/
def execMatmul (op : Nat) (s : State) : Out := .next (s.runOp 1 1 (mmCheck false) (mmRun false) op)

/-- MATMUL_PARTIAL (R95). -/
def execMatmulPartial (op : Nat) (s : State) : Out := .next (s.runOp 1 2 (mmCheck true) (mmRun true) op)

/-- MATRIX_SELFTEST_COMPLETE: the cores that failed are recorded and named in the fault map (R102, R542).
Assumption 92 (DESIGN CHOICE). -/
def execMatrixSelftestComplete (failing : List Nat) (s : State) : Out :=
  if s.getO Obj.MATRIX_SELFTEST_STATE ≠ 1 then .next s
  else
    let bad := (List.range 800).filter fun c => failing.contains c
    let s := s.setO Obj.MATRIX_SELFTEST_STATE (if bad = [] then 2 else 3)
    let s := s.setO Obj.MATRIX_SELFTEST_FAILS bad.length
    let s := s.setO Obj.MATRIX_SELFTEST_FIRST_CORE (bad.headD 0xFFFF)
    let s := (List.range 800).foldl (fun (s : State) c => s.setO Obj.CORE_SELFTEST (if failing.contains c then 2 else 1) c) s
    .next (bad.foldl (fun (s : State) c => (s.faultMap c).post { reason := 0x0108, source := c, d0 := c }) s)

end Sys2Proof.Machine
end

