-- ==== Sys2Proof/Machine/VectorOps.lean ====
section
/-! DEFINITION. The vector engine's operations: PARTIAL_SUM, PERMUTE, CONVERT and RUN_KERNEL (R114 to R121, R563). -/
namespace Sys2Proof.Machine

def voOrg0 (d : Nat) : Nat := bits d 425 402
def voOrg1 (d : Nat) : Nat := bits d 401 378
def voOrg2 (d : Nat) : Nat := bits d 377 362
def voExt0 (d : Nat) : Nat := bits d 361 338
def voExt1 (d : Nat) : Nat := bits d 337 314
def voKeyEn (d : Nat) : Bool := bit d 298
/-- PERM: input dimension read as output dimension i (R115). -/
def voPerm (d i : Nat) : Nat := bits d (299 + 3 * i + 2) (299 + 3 * i)

/-- Element index of R83 over the output: dimensions 3 and 4 do not enter it (R118). -/
def voIdx (d : Nat) (t : TD) (ix : List Nat) : Nat :=
  if voKeyEn d then
    (voOrg0 d + ix.getD 0 0) + (voExt0 d + 1) * ((voOrg1 d + ix.getD 1 0) + (voExt1 d + 1) * (voOrg2 d + ix.getD 2 0))
  else t.idx (ix.take 3)

def voRoles (c d : Nat) : List Role :=
  [{ at_ := descAt d 469, fmts := if c = 1 then [1] else [0, 1, 2] },
   { at_ := descAt d 426, written := true, stoch := opSround d && decide (c ≠ 2), fmts := if c = 1 then [0, 1] else [0, 1, 2] }]

/-- PERM is a permutation of 0 to rank − 1 and 0 above. -/
def voPermOk (d rank : Nat) : Bool :=
  ((List.range rank).all fun i => decide (voPerm d i < rank) &&
    ((List.range rank).all fun j => decide (i = j) || decide (voPerm d i ≠ voPerm d j))) &&
  ((List.range 5).all fun i => decide (i < rank) || decide (voPerm d i = 0))

/-- The conditions of R117 that do not bear on RUN_KERNEL, in its order; item 8 is RUN_KERNEL's. -/
def voConds (s : State) (o : Op) (c : Nat) (t u : TD) : List Bool :=
  let d := o.desc
  [ decide (opLeaveClass d ≠ 0),
    opNoexc d && s.running,
    !t.inLoftOf o.unit || !u.inLoftOf o.unit || t.overlaps u,
    (!voKeyEn d && decide (voOrg0 d ≠ 0 ∨ voOrg1 d ≠ 0 ∨ voOrg2 d ≠ 0 ∨ voExt0 d ≠ 0 ∨ voExt1 d ≠ 0)) ||
      (voKeyEn d && (decide (voOrg0 d + u.e 0 > voExt0 d + 1) || decide (voOrg1 d + u.e 1 > voExt1 d + 1) ||
        decide (voIdx d u [u.e 0 - 1, u.e 1 - 1, u.e 2 - 1] ≥ 2 ^ 48))),
    decide (c = 1) && (decide (t.fmt ≠ 1 ∨ t.sexp ≠ 0 ∨ t.rank ≠ 4) || decide (t.e 3 < 2) ||
      decide (t.e 0 ≠ u.e 0 ∨ t.e 1 ≠ u.e 1 ∨ t.e 2 ≠ u.e 2) || decide (u.rank > 3 ∨ u.fmt = 2)),
    decide (c = 2) && (decide (t.rank ≠ u.rank ∨ t.fmt ≠ u.fmt ∨ t.sexp ≠ u.sexp) || !voPermOk d t.rank ||
      ((List.range t.rank).any fun i => decide (u.e i ≠ t.e (voPerm d i))) || voKeyEn d),
    decide (c = 3) && (decide (t.rank ≠ u.rank ∨ t.ext ≠ u.ext) || decide (t.fmt = 2 ∧ t.sexp ≠ 0) ||
      decide (u.fmt = 2 ∧ u.sexp ≠ 0)),
    false,
    decide (c ≠ 2) && decide (bits d 313 299 ≠ 0) ]

def voCheck (c : Nat) (s : State) (o : Op) : State × Chk :=
  let d := o.desc
  if bits d 297 128 ≠ 0 then (s, .refuse ⟨1, false⟩)
  else s.tensorsThen (voRoles c d) fun ts => voConds s o c (tensor ts 0) (tensor ts 1)

/-- Add the partials of an element in ascending order (R96); `j` is the index of the first of `ps`. -/
def sumPartials (strict sround : Bool) (seed step tid idx : Nat) : Nat → Fl Nat → List Nat → Fl Nat
  | _, t, [] => t
  | j, (t, fl), p :: ps =>
    let (c, f) := op2 f32 strict (siteW sround seed step tid purpVSUM idx j) addFV t p
    sumPartials strict sround seed step tid idx (j + 1) (c, fl ||| f) ps

/-- One element of PARTIAL_SUM. -/
def partialElem (o : Op) (t u : TD) (ix : List Nat) (s : State) : Work :=
  let d := o.desc
  let seed := s.getO Obj.WINNOW_JOB_SEED
  let strict := opStrict d
  let idx := voIdx d u ix
  let at_ := fun j => [ix.getD 0 0, ix.getD 1 0, ix.getD 2 0, j]
  let ps := (List.range (t.e 3 - 1)).map fun j => s.el t (at_ (j + 1))
  let (sum, fl) := sumPartials strict (opSround d) seed o.step u.tid idx 1 (s.val t strict (at_ 0)) ps
  if u.fmt = 1 ∧ u.sexp = 0 then { writes := [(u.addr ix, leBytes 4 sum)], flags := fl }
  else
    let (c, w) := store u strict (siteW (opSround d) seed o.step u.tid purpOUT16 idx 0) (f32.decode sum)
    { w with writes := [(u.addr ix, leBytes u.esz c)], flags := fl ||| w.flags }

/-- One element of PERMUTE (R119). -/
def permuteElem (o : Op) (t u : TD) (ix : List Nat) : Piece :=
  let src := (List.range 5).map fun i =>
    match (List.range t.rank).find? fun k => decide (voPerm o.desc k = i) with
    | some k => ix.getD k 0
    | none => 0
  ([(t.addr src, t.esz)], fun s => { writes := [(u.addr ix, leBytes u.esz (s.el t src))] })

/-- One element of CONVERT (R120). -/
def convertElem (o : Op) (t u : TD) (ix : List Nat) (s : State) : Work :=
  let d := o.desc
  let strict := opStrict d
  let w := siteW (opSround d) (s.getO Obj.WINNOW_JOB_SEED) o.step u.tid purpOUT16 (voIdx d u ix) 0
  let out := fun (c : Nat) (k : Work) => { k with writes := [(u.addr ix, leBytes u.esz c)] }
  if t.fmt = 2 then
    let n := s.el t ix
    if u.fmt = 2 then out n {}
    else let (c, k) := store u strict w (.fin false n 0); out c k
  else
    let (v, fl) := s.val t strict ix
    if u.fmt = 2 then let (c, f) := cvtU32 strict v; out c { flags := fl ||| f }
    else
      let (c, k) := store u strict w (f32.decode v)
      out c { k with flags := fl ||| k.flags }

/-- The elements of a vector operation from its input to its output. -/
def voPieces (c : Nat) (o : Op) (t u : TD) : List Piece :=
  (indices u.ext).map fun ix =>
    if c = 1 then ((List.range (t.e 3)).map fun j => (t.addr [ix.getD 0 0, ix.getD 1 0, ix.getD 2 0, j], t.esz), partialElem o t u ix)
    else if c = 2 then permuteElem o t u ix
    else ([(t.addr ix, t.esz)], convertElem o t u ix)

def voRun (c : Nat) (s : State) (id : Nat) (o : Op) : State :=
  let ts := o.got.list
  let u := tensor ts 1
  let (s, w, f) := s.runPieces (voPieces c o (tensor ts 0) u)
  (s.account o.unit w u.tid).worked id o f

/-- PARTIAL_SUM (R118). -/
def execPartialSum (op : Nat) (s : State) : Out := .next (s.runOp 2 1 (voCheck 1) (voRun 1) op)

/-- PERMUTE (R119). -/
def execPermute (op : Nat) (s : State) : Out := .next (s.runOp 2 2 (voCheck 2) (voRun 2) op)

/-- CONVERT (R120). -/
def execConvert (op : Nat) (s : State) : Out := .next (s.runOp 2 3 (voCheck 3) (voRun 3) op)

/-! ### RUN_KERNEL -/

def rkEntry (d : Nat) : Nat := bits d 511 464
def rkCtx (d : Nat) : Nat := bits d 463 453
/-- ARG1 to ARG4. -/
def rkArg (d i : Nat) : Nat := bits d (452 - 64 * (i - 1)) (389 - 64 * (i - 1))

/-- R117 for RUN_KERNEL: items 1, 2 and 8. -/
def rkCheck (s : State) (o : Op) : State × Chk :=
  let d := o.desc
  let e := rkEntry d
  (s, ({} : Got).judged ([decide (opLeaveClass d ≠ 0), opNoexc d && s.running] ++ List.replicate 5 false ++
    [decide (e % 4 ≠ 0 ∨ ¬(inLp e 4 ∨ inLoft o.unit e 4) ∨ bits d 196 128 ≠ 0)]))

/-- Contexts of a core that are not FREE. -/
def State.busyCtxs (s : State) (core : Nat) : Nat :=
  (s.ctxs.filter fun (p : Nat × Ctx) => decide (p.1 / 2048 = core ∧ p.2.st ≠ .free)).length

/-- Start a context (R121): its state is new, check bits included, with a cleared no-exception status word (R139), and the
largest number of busy contexts is kept. -/
def State.startCtx (s : State) (core ctx : Nat) (c : Ctx) : State :=
  let s := s.setCtx core ctx { c with st := .ready, status := 0xFFFF0000 }
  let s := { s with vchk := (List.range 10).foldl (fun (m : SMap Nat) k => SMap.erase m (cxCw core ctx k)) s.vchk }
  s.maxO Obj.CONTEXTS_BUSY_MAX (s.busyCtxs core)

/-- Step 4 of RUN_KERNEL: it waits until the context is FREE (R121). -/
def rkRun (s : State) (id : Nat) (o : Op) : State :=
  let d := o.desc
  if (s.ctx o.unit (rkCtx d)).st ≠ .free then s.blockOp id o
  else
    let c : Ctx := { pc := rkEntry d, strict := opStrict d, sround := opSround d, noexc := opNoexc d, tag := opTag d, op := id }
    let c := (((c.set 1 (rkArg d 1)).set 2 (rkArg d 2)).set 3 (rkArg d 3)).set 4 (rkArg d 4)
    (s.startCtx o.unit (rkCtx d) c).judge o.table

/-- RUN_KERNEL (R121). -/
def execRunKernel (op : Nat) (s : State) : Out := .next (s.runOp 2 0x10 rkCheck rkRun op)

end Sys2Proof.Machine
end

