-- ==== Sys2Proof/Machine/Kernel.lean ====
section
/-! DEFINITION. What every instruction of a thread context shares: issue, faults and their substitutes in
no-exception mode, flags, and the addresses it may reach (R111, R121 to R128, R137 to R140). -/
namespace Sys2Proof.Machine

/-- Causes of a KERNEL_FAULT record (R538). -/
inductive KCause where
  | illegal | address | alignment | index | uncorrectable
  deriving DecidableEq, Repr

def KCause.code : KCause → Nat
  | .illegal => 1 | .address => 2 | .alignment => 3 | .index => 4 | .uncorrectable => 5

/-- Status bit that the substitute of a cause sets (R138, R139): IL 11, UE 10, AX 9, IX 8. -/
def KCause.bit : KCause → Nat
  | .illegal => 11 | .address => 9 | .alignment => 9 | .index => 8 | .uncorrectable => 10

/-- Every context of an operation enters FAULTED (R121). Assumption 35 (DEDUCED). -/
def State.faultAll (s : State) (id core : Nat) : State :=
  { s with ctxs := s.ctxs.map fun (p : Nat × Ctx) =>
      (p.1, if p.1 / 2048 = core ∧ p.2.op = id ∧ p.2.st ≠ .free then { p.2 with st := .faulted, wait := .none } else p.2) }

/-- A fault outside no-exception mode (R121): the kernel's contexts stop and its operation ends with neither signal
nor event. Assumption 35 (DEDUCED). -/
def State.kFault (s : State) (core ctx : Nat) (k : KCause) : State :=
  let c := s.ctx core ctx
  let s := s.faultAll c.op core
  let s := s.post { reason := 0x0103, source := core, tag := c.tag, addr := c.pc % 2 ^ 48, d0 := ctx, d1 := k.code }
  let s := s.incO Obj.KERNELS_FAULTED
  match s.op? c.op with
  | some o => (s.coreFailed o).endOp c.op o
  | none => s

/-- Set a no-exception status bit; FIRST_ELEM keeps the element of the first vector substitution (R138, R139). -/
def Ctx.subst (c : Ctx) (k : KCause) (elem : Option Nat) : Ctx :=
  let st := c.status ||| 2 ^ k.bit
  { c with status := match elem with
      | some e => if bits c.status 31 16 = 0xFFFF then setBits st 31 16 e else st
      | none => st }

def State.substitute (s : State) (core ctx : Nat) (k : KCause) (elem : Option Nat) : State :=
  (s.setCtx core ctx ((s.ctx core ctx).subst k elem)).incO Obj.NOEXC_SUBSTITUTIONS

/-- Move a context to the next instruction. -/
def State.advance (s : State) (core ctx : Nat) : State :=
  let c := s.ctx core ctx
  s.setCtx core ctx { c with pc := (c.pc + 4) % 2 ^ 64 }

/-- A fault of a scalar instruction: it stops the kernel, or in no-exception mode `alt` goes on from the state with
the substitute recorded. -/
def State.trap (s : State) (core ctx : Nat) (k : KCause) (alt : State → State) : State :=
  if (s.ctx core ctx).noexc then alt (s.substitute core ctx k none) else s.kFault core ctx k

/-- A fault whose substitute is no operation. -/
def State.trapNop (s : State) (core ctx : Nat) (k : KCause) : State :=
  s.trap core ctx k fun s => s.advance core ctx

/-- Numeric flags of an instruction: the core's word, or in no-exception mode the context's (R140). -/
def State.ctxFlags (s : State) (core ctx fl sats : Nat) : State :=
  let c := s.ctx core ctx
  if c.noexc then s.setCtx core ctx { c with status := c.status ||| (fl % 128) } else s.coreFlags core fl sats

/-- An instruction can be fetched at pc: its four bytes lie in one region of memory, and not in the loft of another core
that is excluded (R31, R479). Assumption 95 (DESIGN CHOICE). -/
def State.fetches (s : State) (core pc : Nat) : Bool :=
  inOneRegion pc 4 && (match regionOf pc with
    | .loft c => s.loftOpen core c
    | _ => true)

/-- Read a codeword of the register storage: corrected and counted, or uncorrectable and reported (R110). The stored
data is what the registers hold; `fix` puts a correction into them. -/
def State.regCw (s : State) (core cw : Nat) (fix : State → Nat → State) : State × Bool :=
  let e := SMap.get 0 s.vchk cw
  if e = 0 then (s, false)
  else
    match eccFix (e <<< 128) with
    | some f => ((fix { s with vchk := SMap.erase s.vchk cw } (f % 2 ^ 128)).loftCe core, false)
    | none => (s.loftUe core 0, true)

/-- Read the codewords of a context from the context store, and say that one is uncorrectable (R110). -/
def State.touchCtx (s : State) (core ctx : Nat) : State × Bool :=
  if s.cxClean core ctx then (s, false)
  else
    (List.range 10).foldl (fun (p : State × Bool) k =>
      let (t, b) := p.1.regCw core (cxCw core ctx k) fun s f => s.setCtx core ctx ((s.ctx core ctx).fix k f)
      (t, p.2 || b)) (s, false)

/-- Issue an instruction of a context: any READY context of a core in service may issue. Its state is read from the context
store, all of it, and that read and the fetch may fault. A context that SPAWN started at a misaligned address faults here.
Assumptions 93 (DESIGN CHOICE), 111 (DEDUCED), 116 (DESIGN CHOICE). -/
def State.issue (s : State) (core ctx : Nat) (k : State → State) : Out :=
  if core ≥ 800 ∨ ctx ≥ 2048 then .fault .noSuchUnit
  else
    let c := s.ctx core ctx
    if c.st ≠ .ready ∨ s.coreState core ≠ 0 then .next s
    else
      match s.touchCtx core ctx with
      | (s, true) => .next (s.trapNop core ctx .uncorrectable)
      | (s, false) =>
        let pc := (s.ctx core ctx).pc
        if pc % 4 ≠ 0 then .next (s.trapNop core ctx .alignment)
        else if s.fetches core pc = false then .next (s.trapNop core ctx .address)
        else
          match s.readMem pc 4 with
          | (s, _, some _) => .next (s.trapNop core ctx .uncorrectable)
          | (s, _, none) => .next (k s)

/-- A register instruction: the context's new registers and flags, then the next instruction. -/
def State.scalarOp (s : State) (core ctx : Nat) (f : Ctx → Ctx × Nat) : Out :=
  s.issue core ctx fun s =>
    let c := s.ctx core ctx
    let (c', fl) := f c
    ((s.setCtx core ctx { c' with pc := (c.pc + 4) % 2 ^ 64 })).ctxFlags core ctx fl 0

/-- Fields of format A that an opcode does not use are reserved (R123, R9): a nonzero function code where there is
none makes the instruction illegal. -/
def State.plainA (s : State) (core ctx : Nat) (i : InsA) (f : Ctx → Ctx × Nat) : Out :=
  if i.fn % 1024 = 0 then s.scalarOp core ctx f
  else s.issue core ctx fun s => s.trapNop core ctx .illegal

/-- Signed immediate of 18 bits (R123). -/
def simm (i : InsI) : Int := toSigned 18 (ofSigned 18 i.imm)
/-- Address S[A] + IMM. -/
def iea (i : InsI) (c : Ctx) : Nat := ofSigned 64 ((c.get i.a : Int) + simm i)

/-! ### Vector and mask registers (R106 to R110) -/

def vKey (core r slot : Nat) : Nat := (core * 16 + r % 16) * 8192 + slot
/-- Assumption 7 (DESIGN CHOICE). -/
def State.vslot (s : State) (core r slot : Nat) : Nat := SMap.get 0 s.vreg (vKey core r slot)
def State.setVslot (s : State) (core r slot v : Nat) : State :=
  { s with vreg := SMap.set 0 s.vreg (vKey core r slot) (v % 2 ^ 32) }

/-- Element i, 16 bits wide where `h`. -/
def State.velem (s : State) (core r : Nat) (h : Bool) (i : Nat) : Nat :=
  if h then (s.vslot core r (i / 2) >>> (16 * (i % 2))) % 65536 else s.vslot core r i
def State.setVelem (s : State) (core r : Nat) (h : Bool) (i v : Nat) : State :=
  if h then s.setVslot core r (i / 2) (setBits (s.vslot core r (i / 2)) (16 * (i % 2) + 15) (16 * (i % 2)) v)
  else s.setVslot core r i v

/-- Assumption 7 (DESIGN CHOICE). -/
def State.mask (s : State) (core k : Nat) : Nat := SMap.get 0 s.mreg (core * 8 + k % 8)
def State.setMask (s : State) (core k v : Nat) : State := { s with mreg := SMap.set 0 s.mreg (core * 8 + k % 8) v }

/-- VL, at most 8,192 (R107). -/
def Ctx.len (c : Ctx) : Nat := min c.vl 8192

/-- Elements that an instruction acts on (R107, R108). -/
def State.active (s : State) (core ctx : Nat) (i : InsV) : List Nat :=
  let all := List.range (s.ctx core ctx).len
  if i.men then all.filter fun (e : Nat) => bit (s.mask core i.msk) e else all

/-- Codeword q of a vector register or of a mask register within its core's part of `vchk` (R110). -/
def vCw (core r q : Nat) : Nat := core * 2 ^ 17 + (r % 16) * 2048 + q
def mCw (core k q : Nat) : Nat := core * 2 ^ 17 + 32768 + (k % 8) * 64 + q

/-- Elements in a codeword of a vector register. -/
def perCw (h : Bool) : Nat := if h then 8 else 4

/-- Put a correction into the four slots of a vector codeword. -/
def fixV (core r q : Nat) (s : State) (f : Nat) : State :=
  (List.range 4).foldl (fun (s : State) k =>
    s.setVslot core r (q * 4 + k) (s.vslot core r (q * 4 + k) ^^^ bits f (32 * k + 31) (32 * k))) s

/-- Check the codewords of the active elements of a source register; the elements whose codeword is uncorrectable. -/
def State.touchV (s : State) (core r : Nat) (h : Bool) : List Nat → State × List Nat
  | [] => (s, [])
  | e :: es =>
    let q := e / perCw h
    let (s, b) := s.regCw core (vCw core r q) (fixV core r q)
    let (s, r') := s.touchV core r h es
    (s, if b then e :: r' else r')

/-- Put a correction into codeword q of a mask register. -/
def fixM (core k q : Nat) (s : State) (f : Nat) : State :=
  s.setMask core k (s.mask core k ^^^ (f <<< (q * 128)))

/-- Check the codewords of the mask bits that an instruction reads. -/
def State.touchM (s : State) (core k : Nat) : List Nat → State × List Nat
  | [] => (s, [])
  | e :: es =>
    let (s, b) := s.regCw core (mCw core k (e / 128)) (fixM core k (e / 128))
    let (s, r') := s.touchM core k es
    (s, if b then e :: r' else r')

/-- Ready codewords of `n` elements each to take new values for the elements `es`, before they are stored: one that is written
whole gets new check bits; of one written in part a correctable error is first corrected and counted, and an uncorrectable one
stays. Assumption 116 (DESIGN CHOICE). -/
def State.renewCw (s : State) (core n : Nat) (cw : Nat → Nat) (fix : Nat → State → Nat → State) (es : List Nat) : State :=
  if s.vchk = [] then s
  else
    (es.map (· / n)).eraseDups.foldl (fun (s : State) q =>
      let e := SMap.get 0 s.vchk (cw q)
      if (List.range n).all fun (j : Nat) => es.contains (q * n + j) then { s with vchk := SMap.erase s.vchk (cw q) }
      else if e = 0 then s
      else
        match eccFix (e <<< 128) with
        | some f => (fix q { s with vchk := SMap.erase s.vchk (cw q) } (f % 2 ^ 128)).loftCe core
        | none => s) s

def State.freshV (s : State) (core r : Nat) (h : Bool) (es : List Nat) : State :=
  s.renewCw core (perCw h) (vCw core r) (fixV core r) es
def State.freshM (s : State) (core k : Nat) (es : List Nat) : State := s.renewCw core 128 (mCw core k) (fixM core k) es

end Sys2Proof.Machine
end

