-- ==== Sys2Proof/Machine/DictRead.lean ====
section
/-! DEFINITION. What a read of a numeric object returns: the live value, the copy of the requester (R459), or the value
computed from the state at the moment of the read. -/
namespace Sys2Proof.Machine

/-- The requesters that have copies: session slots 0 to 15 and stewards 16 to 19 (R459). A core, which reads the
dictionary through its window, has none and sees the defaults. Assumption 73 (DEDUCED). -/
def rqCore : Nat := 20

def selKey (rq : Nat) (o : ObjDef) : Nat := rq * 2 ^ 24 + o.key
/-- Assumption 73 (DEDUCED). -/
def State.getSel (s : State) (rq : Nat) (o : ObjDef) : Nat := SMap.get o.dflt s.sel (selKey rq o)
def State.setSel (s : State) (rq : Nat) (o : ObjDef) (v : Nat) : State :=
  { s with sel := SMap.set o.dflt s.sel (selKey rq o) v }

/-- The numeric objects that have a copy for each requester (R459). -/
def selObjs : List ObjDef :=
  [Obj.SESSION_SEL_SLOT, Obj.MEM_SEL_SUBCH, Obj.SEM_SEL_NUMBER, Obj.HOST_SEM_NUMBER, Obj.HOST_SEM_ARG,
   Obj.HOST_SEM_RESULT, Obj.QUEUE_SEL_NUMBER, Obj.FURROW_QUERY_TABLE, Obj.FURROW_READ_TABLE, Obj.FURROW_READ_BANK,
   Obj.FURROW_READ_INDEX, Obj.QP_SEL, Obj.MR_SEL, Obj.WINNOW_PROBE_SEED, Obj.WINNOW_PROBE_STEP, Obj.WINNOW_PROBE_TID,
   Obj.WINNOW_PROBE_PURPOSE, Obj.WINNOW_PROBE_INDEX, Obj.WINNOW_PROBE_DRAW, Obj.WINNOW_PROBE_BLOCK_LO,
   Obj.WINNOW_PROBE_BLOCK_HI, Obj.WINNOW_PROBE_DRAW_VALUE, Obj.CTX_QUERY_CORE, Obj.CTX_QUERY_CTX,
   Obj.SHUF_PROBE_SAMPLES, Obj.SHUF_PROBE_SEED, Obj.SHUF_PROBE_EPOCH, Obj.SHUF_PROBE_POS, Obj.SHUF_PROBE_SAMPLE,
   Obj.SHUF_PROBE_WALK, Obj.ERR_SEL_SEQ]

def State.qp (s : State) (n : Nat) : Qp := SMap.get {} s.qps n
def State.setQp (s : State) (n : Nat) (q : Qp) : State := { s with qps := SMap.set {} s.qps n q }
def State.mr (s : State) (n : Nat) : Mr := SMap.get {} s.mrs n
def State.setMr (s : State) (n : Nat) (q : Mr) : State := { s with mrs := SMap.set {} s.mrs n q }
def State.session (s : State) (n : Nat) : Session := SMap.get {} s.sessions n
def State.setSession (s : State) (n : Nat) (x : Session) : State := { s with sessions := SMap.set {} s.sessions n x }

/-- Bytes of a crib page (R186). -/
def State.cribPageBytes (s : State) : Nat :=
  512 * s.getO Obj.CRIB_PAGE_DIM * s.getO Obj.CRIB_PAGE_KV_HEADS * (if s.getO Obj.CRIB_PAGE_FMT = 0 then 2 else 4)

/-- Domain width of the shuffle (R275): the smallest even number at least 2 and at least ceil(log2 S). -/
def shufBits (n : Nat) : Nat := max 2 (2 * cdiv (clog2 n) 2)

/-- Bytes of a class tensor, rounded up to 64, and of a slot (R272, R273). -/
def State.classTensor (s : State) (c : Nat) : Nat :=
  cdiv (s.getO Obj.CLASS_EXT0 c * s.getO Obj.CLASS_EXT1 c * s.getO Obj.CLASS_C c * fmtBytes (s.getO Obj.CLASS_FMT c)) 64 * 64
def State.slotBytes (s : State) (c : Nat) : Nat :=
  if s.getO Obj.CLASS_MODALITY c = 0 then 0
  else
    64 + s.classTensor c + (if s.getO Obj.CLASS_MASK_EN c = 0 then 0
      else cdiv (2 * s.getO Obj.CLASS_EXT0 c * s.getO Obj.CLASS_EXT1 c) 64 * 64)

/-- Temperature of a memory package, °C, and the multiple of the refresh rate (R382). Assumption 61 (PRESUMED). -/
def State.packTemp (s : State) (p : Nat) : Int := toSigned 32 (SMap.get 0 s.pkgTemp p)
/-- Assumption 61 (PRESUMED). -/
def refreshMult (t : Int) : Nat := if t ≤ 85 then 1 else 2

/-- Entries of a bank that are in force; 0 when the bank is invalid (R338, R339). -/
def Bank.inForce (b : Bank) : Nat := if b.valid then b.entries.length else 0

/-- A stored 128-bit address of a peer. -/
def ipHi (n : Nat) : Nat := n / 2 ^ 64 % 2 ^ 64
def ipLo (n : Nat) : Nat := n % 2 ^ 64

/-- Objects that count cycles or another measure of time that the manual does not fix: how far each has grown since it was
last read is open. Assumption 14 (DESIGN CHOICE). -/
def timedObjs : List ObjDef :=
  [Obj.CORE_LEAVE_WAIT_CYCLES, Obj.ARB_MAX_WAIT_C, Obj.ARB_PREEMPTIONS, Obj.ARB_PARKED_MAX, Obj.ARB_HELD_LINES,
   Obj.UPDATE_STALL_CYCLES, Obj.THRESH_STALL_CYCLES, Obj.CLK_GATE_REFUSALS]

/-- What a timed object measures may have happened: a core's operation has waited for leave, an operation has been taken, or
the memory carries traffic. -/
def State.mayGrow (s : State) (o : ObjDef) (i : Nat) : Bool :=
  if o = Obj.CORE_LEAVE_WAIT_CYCLES then s.waited.contains i
  else if o = Obj.UPDATE_STALL_CYCLES ∨ o = Obj.THRESH_STALL_CYCLES then decide (s.nextOp ≠ 0)
  else s.readyOrStopped || s.running

/-- The largest value of a timed object: the parked entries of a queue are at most 16 (R396). -/
def timedMax (o : ObjDef) : Nat := if o = Obj.ARB_PARKED_MAX then 16 else 2 ^ (8 * o.ty.bytes) - 1

/-- A read of a timed object: it has grown by an open amount, and never falls. -/
def State.readTimed (s : State) (o : ObjDef) (i j : Nat) : State × Nat :=
  if s.mayGrow o i then
    let v := min (timedMax o) (s.getO o i j + s.free (8 * o.ty.bytes))
    (s.drew.setO o v i j, v)
  else (s, s.getO o i j)

/-- Index of the next entry of the active bank to start: the first from the table's place on that takes part in that
place's epoch, and the number of entries after the last (R316, R338). -/
def Table.nextIndex (x : Table) : Nat :=
  let es := (x.bank x.active).list
  ((List.range es.length).find? fun i =>
    decide (x.next.entry ≤ i ∧ entKind (es.getD i 0) ≠ 0 ∧
      x.next.epoch % 2 ^ entPer (es.getD i 0) = entPhase (es.getD i 0))).getD es.length

/-- Values computed at the read from the queries and selections of requester `rq`. -/
def State.selected (s : State) (rq : Nat) (o : ObjDef) : Option Nat :=
  let q := s.ring (s.getSel rq Obj.QUEUE_SEL_NUMBER)
  let m := s.sem (s.getSel rq Obj.SEM_SEL_NUMBER)
  let c := s.ctx (s.getSel rq Obj.CTX_QUERY_CORE) (s.getSel rq Obj.CTX_QUERY_CTX)
  let sub := s.sub (s.getSel rq Obj.MEM_SEL_SUBCH)
  let tp := s.packTemp (s.getSel rq Obj.MEM_SEL_SUBCH / 8)
  let x := s.session (s.getSel rq Obj.SESSION_SEL_SLOT)
  let p := s.qp (s.getSel rq Obj.QP_SEL)
  let r := s.mr (s.getSel rq Obj.MR_SEL)
  let t := s.table (s.getSel rq Obj.FURROW_QUERY_TABLE)
  let e := (s.table (s.getSel rq Obj.FURROW_READ_TABLE)).bank (s.getSel rq Obj.FURROW_READ_BANK)
  let entry := e.entries[s.getSel rq Obj.FURROW_READ_INDEX]?
  if o = Obj.QUEUE_CFG_BASE then some q.base
  else if o = Obj.QUEUE_CFG_LOG2_SIZE then some q.log2
  else if o = Obj.QUEUE_CFG_BINDING then some q.binding
  else if o = Obj.QUEUE_CFG_TARGET then some q.target
  else if o = Obj.QUEUE_CFG_NOTIFY_SEM then some q.notify
  else if o = Obj.QUEUE_ST_PRODUCER then some q.p
  else if o = Obj.QUEUE_ST_CONSUMER then some q.c
  else if o = Obj.QUEUE_ST_STATE then some (if q.binding = 0 then 0 else if q.stopped then 2 else 1)
  else if o = Obj.QUEUE_ST_OVERFLOWS then some q.overflows
  else if o = Obj.QUEUE_ST_REFUSED then some q.refused
  else if o = Obj.SEM_SEL_COUNT then some m.count
  else if o = Obj.SEM_SEL_STATE then some m.st
  else if o = Obj.SEM_SEL_OWNER then some m.owner
  else if o = Obj.SEM_SEL_WAITERS then some m.waits.length
  else if o = Obj.CTX_QUERY_STATE then
    some (match c.st with | .free => 0 | .ready => 1 | .waiting => 2 | .faulted => 3)
  else if o = Obj.CTX_QUERY_PC then some c.pc
  else if o = Obj.CTX_QUERY_NOEXC_STATUS then some c.status
  else if o = Obj.CTX_QUERY_OP_TAG then some c.tag
  else if o = Obj.MEM_SEL_CE then some sub.ce
  else if o = Obj.MEM_SEL_UE then some sub.ue
  else if o = Obj.MEM_SEL_TEMP_C then some (ofSigned 32 tp)
  else if o = Obj.MEM_SEL_REFRESH_MULT then some (refreshMult tp)
  else if o = Obj.SESSION_SEL_STATE then some x.st
  else if o = Obj.SESSION_SEL_KEY_SLOT then some x.keySlot
  else if o = Obj.SESSION_SEL_PEER_PORT then some x.uport
  else if o = Obj.SESSION_SEL_PEER_IP_HI then some (ipHi x.ip)
  else if o = Obj.SESSION_SEL_PEER_IP_LO then some (ipLo x.ip)
  else if o = Obj.SESSION_SEL_LAST_SEQ then some x.lastSeq
  else if o = Obj.QP_STATE then some p.st
  else if o = Obj.QP_PORT then some p.port
  else if o = Obj.QP_REMOTE_QPN then some p.rqpn
  else if o = Obj.QP_REMOTE_IP_HI then some p.ipHi
  else if o = Obj.QP_REMOTE_IP_LO then some p.ipLo
  else if o = Obj.QP_RQ_PSN then some p.psn
  else if o = Obj.QP_PMTU then some p.pmtu
  else if o = Obj.QP_UDP_SPORT then some p.sport
  else if o = Obj.QP_ERROR_CAUSE then some p.cause
  else if o = Obj.QP_RX_BYTES then some p.rxBytes
  else if o = Obj.MR_BASE then some r.base
  else if o = Obj.MR_LENGTH then some r.len
  else if o = Obj.MR_RKEY then some r.rkey
  else if o = Obj.MR_ACCESS then some r.acc
  else if o = Obj.MR_EN then some (b2n r.en)
  else if o = Obj.FURROW_QUERY_ACTIVE then some t.active
  else if o = Obj.FURROW_QUERY_SWAP_EPOCH then some (match t.swap with | some (_, e) => e | none => 0xFFFFFFFF)
  else if o = Obj.FURROW_QUERY_ENTRIES0 then some t.bank0.inForce
  else if o = Obj.FURROW_QUERY_ENTRIES1 then some t.bank1.inForce
  else if o = Obj.FURROW_QUERY_NEXT then some t.nextIndex
  else if o = Obj.FURROW_READ_LO then some (entry.getD 0 % 2 ^ 64)
  else if o = Obj.FURROW_READ_HI then some (entry.getD 0 / 2 ^ 64)
  else none

/-- Values computed at the read from the device alone; `i` is the repetition (core, group, class or port). -/
def State.computed (s : State) (rq : Nat) (o : ObjDef) (i j : Nat) : Option Nat :=
  if o = Obj.NUMERIC_FLAGS_ANY then
    some ((List.range coreCount).foldl (fun a n => a ||| s.getO Obj.CORE_NUMERIC_FLAGS n) 0)
  else if o = Obj.CORE_CONTEXTS_BUSY then some (s.busyCtxs i)
  else if o = Obj.CORE_STATE then some (s.coreState i)
  else if o = Obj.CRIB_PAGE_BYTES then some s.cribPageBytes
  else if o = Obj.CRIB_FENCES_OPEN then some s.fences.length
  else if o = Obj.GROUP_HOME_DIE then some (s.homeDie i)
  else if o = Obj.SHUF_DOMAIN_BITS then
    some (if s.getO Obj.SHUF_SAMPLES = 0 then 0 else shufBits (s.getO Obj.SHUF_SAMPLES))
  else if o = Obj.CLASS_SLOT_BYTES then some (s.slotBytes i)
  else if o = Obj.SEM_ORPHANED_NOW then some (s.sems.filter fun (p : Nat × Sem) => decide (p.2.st = 2)).length
  else if o = Obj.LINK_RANK then some s.origin
  else if o = Obj.SESSION_OPEN then some (s.sessions.filter fun (p : Nat × Session) => decide (p.2.st = 2)).length
  else if o = Obj.SESSION_SELF then some (if rq < 16 then rq else 0xFF)
  else if o = Obj.ETH_MAC_ADDR then some ((s.fuses.macBase + i) % 2 ^ 48)
  else if o = Obj.LEAVE_POOL_MW then some s.pool
  else if o = Obj.LEAVE_HELD_MW then some s.heldLeave
  else if o = Obj.LEAVE_RESERVED_MW then some s.reservedLeave
  else if o = Obj.LEAVE_QUEUE then some (s.leaveQ.length + (s.resvs.filter fun (r : Resv) => !r.made).length)
  else if o = Obj.SERIAL_NUMBER then some s.fuses.serial
  else if o = Obj.DIE_STEPPING then some (s.fuses.steppings.getD j 0)
  else if o = Obj.SEC_DEBUG_LOCK then some (b2n s.fuses.debugLock)
  else if o = Obj.SEC_SVN_MIN then some s.fuses.svn
  else if o = Obj.FIELD_FIRST_NEAR then
    some (match s.fieldFirst with
      | none => 0
      | some f => (s.fieldStamps.filter fun (t : Nat) =>
          decide (t ≤ bits f 511 448 + 1 ∧ bits f 511 448 ≤ t + 1)).length - 1)
  else none

/-- Value of a numeric object for a requester, and the state after the read. -/
def State.readNum (s : State) (rq : Nat) (o : ObjDef) (i j : Nat) : State × Nat :=
  if timedObjs.contains o then s.readTimed o i j
  else if selObjs.contains o then (s, s.getSel rq o)
  else
    match s.selected rq o with
    | some v => (s, v)
    | none =>
      match s.computed rq o i j with
      | some v => (s, v)
      | none => (s, if o.acc = .wo then 0 else s.getO o i j)

/-- The 8-byte word of the dictionary window at index and subindex (R373): narrower values are zero-extended, and
strings and blobs, with what is not listed, read as 0 (R10). -/
def State.readWindow (s : State) (rq idx sub : Nat) : State × Nat :=
  match findObj idx sub with
  | none => (s, 0)
  | some (o, i, j) => if o.ty = .str ∨ o.ty = .blob ∨ o.acc = .wo then (s, 0) else s.readNum rq o i j

end Sys2Proof.Machine
end

