-- ==== Sys2Proof/Machine/NumFn.lean ====
section
/-! DEFINITION. Reciprocal, reciprocal square root, exp2, log2, division and square root: correctly rounded in strict
mode (R48) and by table and polynomial in fast mode (R132 to R136). The tables of R132 are the correctly rounded
values that the rule states for their entries. -/
namespace Sys2Proof.Machine

/-! ### Values between representable ones

A value that is no finite binary fraction is held as a lower bound with a last bit set for what lies below: rounding
to nearest even at 24 bits or fewer sees the same side of every boundary. -/

/-- num ÷ den × 2^e to 96 bits and a sticky bit. -/
def ratFV (neg : Bool) (num den : Nat) (e : Int) : FV :=
  let k := 96 + den.log2
  let n := num * 2 ^ k
  .fin neg (n / den * 2 + (if n % den = 0 then 0 else 1)) (e - k - 1)

/-- Integer square root by bits. -/
def isqrtF (n : Nat) : Nat → Nat → Nat
  | 0, r => r
  | k + 1, r => let t := r + 2 ^ k; isqrtF n k (if t * t ≤ n then t else r)
def isqrt (n : Nat) : Nat := isqrtF n (n.log2 / 2 + 1) 0

/-- Square root of m × 2^e, and of its reciprocal, with a sticky bit. -/
def sqrtFV (m : Nat) (e : Int) : FV :=
  let k : Nat := if e % 2 = 0 then 128 else 129
  let n := m * 2 ^ k
  let r := isqrt n
  .fin false (r * 2 + (if r * r = n then 0 else 1)) ((e - k) / 2 - 1)
def rsqrtFV (m : Nat) (e : Int) : FV :=
  let k : Nat := if e % 2 = 0 then 256 else 257
  let n := 2 ^ k / m
  let r := isqrt n
  .fin false (r * 2 + (if r * r * m = 2 ^ k then 0 else 1)) ((-e - k) / 2 - 1)

/-- Fixed-point unit of the series below: 2^200. -/
def fxBits : Nat := 200
def fxOne : Nat := 2 ^ fxBits

/-- ln 2 as the sum of 1 ÷ (k × 2^k). -/
def ln2F : Nat → Nat → Nat
  | 0, _ => 0
  | n + 1, k => fxOne / (k * 2 ^ k) + ln2F n (k + 1)
def ln2 : Nat := ln2F 200 1

/-- exp of a fixed-point number below 1, term by term. -/
def expF (t : Nat) : Nat → Nat → Nat → Nat
  | 0, _, _ => 0
  | n + 1, k, term => term + expF t n (k + 1) (term * t / fxOne / k)
/-- 2^f for a fixed-point f below 1. -/
def exp2Fx (f : Nat) : Nat := expF (f * ln2 / fxOne) 60 1 fxOne

/-- Twice the series z + z³ ÷ 3 + ... of a fixed-point z. -/
def atanhF (z2 : Nat) : Nat → Nat → Nat → Nat
  | 0, _, _ => 0
  | n + 1, k, p => p / k + atanhF z2 n (k + 2) (p * z2 / fxOne)
/-- log2 of num ÷ den, between 1 and 2, in fixed point. -/
def log2Fx (num den : Nat) : Nat :=
  let z := (num - den) * fxOne / (num + den)
  2 * atanhF (z * z / fxOne) 64 1 z * fxOne / ln2

/-- 2^x for a finite x = ±m × 2^e: exact where x is an integer. -/
def exp2FV (n : Bool) (m : Nat) (e : Int) : FV :=
  if e ≥ 0 then .fin false 1 (if n then -((m * 2 ^ e.toNat : Nat) : Int) else ((m * 2 ^ e.toNat : Nat) : Int))
  else
    let d := (-e).toNat
    let v : Int := if n then -(m : Int) else (m : Int)
    let q := v.fdiv (2 ^ d : Nat)
    let f := (v - q * (2 ^ d : Nat)).toNat
    if f = 0 then .fin false 1 q
    else
      let g := if d ≤ fxBits then f * 2 ^ (fxBits - d) else f / 2 ^ (d - fxBits)
      .fin false (exp2Fx g * 2 + 1) (q - fxBits - 1)

/-- log2 of m × 2^e for m above 0: exact where the value is a power of two. -/
def log2FV (m : Nat) (e : Int) : FV :=
  let l := m.log2
  let ex : Int := (l : Int) + e
  if m = 2 ^ l then .fin (decide (ex < 0)) ex.natAbs 0
  else
    let t : Int := ex * (fxOne : Int) + (log2Fx m (2 ^ l) : Int)
    .fin (decide (t < 0)) (t.natAbs * 2 + 1) (-(fxBits : Int) - 1)

/-! ### Strict mode -/

/-- Round a strict result and keep IV and DZ of its operands. -/
def strict32 (v : FV) (fl : Nat) : Fl Nat := let (c, f) := roundStrict f32 v 0; (c, f ||| fl)

def rcpS (c : Nat) : Fl Nat :=
  match f32.decode c with
  | .nan sg => strict32 (.nan sg) 0
  | .inf n => (f32.zero n, 0)
  | .fin n m e => if m = 0 then (f32.inf n, flDZ) else strict32 (ratFV n 1 m (-e)) 0

def divS (a b : Nat) : Fl Nat :=
  match f32.decode a, f32.decode b with
  | .nan s, .nan t => strict32 (.nan (s || t)) 0
  | .nan s, _ => strict32 (.nan s) 0
  | _, .nan t => strict32 (.nan t) 0
  | .inf _, .inf _ => (f32.nan, flIV)
  | .inf m, .fin n _ _ => (f32.inf (xor m n), 0)
  | .fin m _ _, .inf n => (f32.zero (xor m n), 0)
  | .fin n1 m1 e1, .fin n2 m2 e2 =>
    if m2 = 0 then (if m1 = 0 then (f32.nan, flIV) else (f32.inf (xor n1 n2), flDZ))
    else if m1 = 0 then (f32.zero (xor n1 n2), 0)
    else strict32 (ratFV (xor n1 n2) m1 m2 (e1 - e2)) 0

def sqrtS (c : Nat) : Fl Nat :=
  match f32.decode c with
  | .nan sg => strict32 (.nan sg) 0
  | .inf n => if n then (f32.nan, flIV) else (f32.inf false, 0)
  | .fin n m e => if m = 0 then (f32.zero n, 0) else if n then (f32.nan, flIV) else strict32 (sqrtFV m e) 0

def rsqS (c : Nat) : Fl Nat :=
  match f32.decode c with
  | .nan sg => strict32 (.nan sg) 0
  | .inf n => if n then (f32.nan, flIV) else (0, 0)
  | .fin n m e => if m = 0 then (f32.inf n, flDZ) else if n then (f32.nan, flIV) else strict32 (rsqrtFV m e) 0

/-- Above 2^10 in magnitude the exponential only overflows or vanishes. -/
def exp2S (c : Nat) : Fl Nat :=
  match f32.decode c with
  | .nan sg => strict32 (.nan sg) 0
  | .inf n => (if n then 0 else f32.inf false, 0)
  | .fin n m e =>
    if m = 0 then (0x3F800000, 0)
    else if magGe m e 1 10 then
      (if n then strict32 (.fin false 1 (-1024)) 0 else strict32 (.fin false 1 1024) 0)
    else strict32 (exp2FV n m e) 0

def log2S (c : Nat) : Fl Nat :=
  match f32.decode c with
  | .nan sg => strict32 (.nan sg) 0
  | .inf n => if n then (f32.nan, flIV) else (f32.inf false, 0)
  | .fin n m e =>
    if m = 0 then (f32.inf true, flDZ) else if n then (f32.nan, flIV) else strict32 (log2FV m e) 0

/-! ### Tables and constants of R132 -/

def rnC (v : FV) : Nat := (roundStrict f32 v 0).1
/-- T2: RN(2^(j ÷ 64)). -/
def tabT2 (j : Nat) : Nat := rnC (exp2FV false j (-6))
/-- G: RN(64 ÷ (64 + j)). -/
def tabG (j : Nat) : Nat := rnC (ratFV false 64 (64 + j) 0)
/-- HL: RN(−log2 G[j]). -/
def tabHL (j : Nat) : Nat :=
  match f32.decode (tabG j) with
  | .fin _ m e => if (log2FV m e).isZero then 0 else rnC (log2FV m e).neg
  | _ => 0
/-- Y: RN(256 ÷ (257 + 2j)). -/
def tabY (j : Nat) : Nat := rnC (ratFV false 256 (257 + 2 * j) 0)
/-- Z: RN(1 ÷ sqrt((129 + 2 × (j mod 64)) × 2^floor(j ÷ 64) ÷ 128)). -/
def tabZ (j : Nat) : Nat := rnC (rsqrtFV ((129 + 2 * (j % 64)) * 2 ^ (j / 64)) (-7))

def cC1 : Nat := 0x3F317218
def cC2 : Nat := 0x3E75FDF0
def cC3 : Nat := 0x3D635847
def cL1 : Nat := 0x3FB8AA3B
def cL2 : Nat := 0xBF38AA3B
def cL3 : Nat := 0x3EF6384F
def cOne : Nat := 0x3F800000
def cHalf : Nat := 0x3F000000

/-! ### Fast mode (R132 to R136) -/

/-- Intermediate operations of R132: one rounding, subnormals kept, no flags. -/
def ifma (a b c : Nat) : Nat := (fma32 true a b c).1
def imul (a b : Nat) : Nat := (mul32 true a b).1
def iadd (a b : Nat) : Nat := (add32 true a b).1
def ineg (a : Nat) : Nat := a ^^^ 0x80000000

/-- Deliver the last value of a procedure by R47, with NX unless the delivered result is the exact one, and with OF where
the last rounding gave an infinity (R51). Assumption 17 (DEDUCED). -/
def fastDeliver (v : FV) (exact : Nat → Bool) : Fl Nat :=
  let (c, f) := round32Fast v 0 none
  (c, (f &&& (255 ^^^ flNX)) ||| (if f32.isInf c then flOF else 0) ||| (if exact c then 0 else flNX))

/-- The exponent field less 127 of a normal code, and its significand with the exponent field set to 127. -/
def expOf (c : Nat) : Int := ((c >>> 23) % 256 : Nat) - (127 : Int)
def mantOf (c : Nat) : Nat := c % 2 ^ 23 + 0x3F800000

/-- Equality of two finite values. -/
def eqFV (a b : FV) : Bool := !a.isNan && !b.isNan && decide (cmpFV a b = 0)

def exp2F (c : Nat) : Fl Nat :=
  let (v, fz) := f32.read false c
  match v with
  | .nan sg => (f32.nan, fz ||| (if sg then flIV else 0))
  | .inf n => (if n then 0 else f32.inf false, fz)
  | .fin n m e =>
    if n = false ∧ magGe m e 128 0 then (f32.inf false, fz ||| flOF ||| flNX)
    else if n ∧ magGe m e 150 0 ∧ ¬(cmpFV (.fin false m e) (.fin false 150 0) = 0) then (0, fz ||| flFZ ||| flNX)
    else
      let N := (nearestInt n m (e + 6)).1
      let q := N.fdiv 64
      let j := (N - q * 64).toNat
      let r := (roundStrict f32 (addFV v (.fin (decide (N > 0)) N.natAbs (-6))).1 0).1
      let u := ifma cC3 r cC2
      let u := ifma u r cC1
      let u := imul u r
      let t := tabT2 j
      let y := ifma t u t
      let isInt := decide (m = 0) || decide (e ≥ 0) || decide (m % 2 ^ (-e).toNat = 0)
      let (z, f) := fastDeliver ((f32.decode y).scale q) (fun d => isInt && decide (d ≠ 0) && f32.isFinite d)
      (z, fz ||| f)

def log2F (c : Nat) : Fl Nat :=
  let (v, fz) := f32.read false c
  match v with
  | .nan sg => (f32.nan, fz ||| (if sg then flIV else 0))
  | .inf n => if n then (f32.nan, fz ||| flIV) else (f32.inf false, fz)
  | .fin n m _ =>
    if m = 0 then (f32.inf true, fz ||| flDZ)
    else if n then (f32.nan, fz ||| flIV)
    else
      let E := (cvtFromInt (expOf c)).1
      let j := (c >>> 17) % 64
      let r := ifma (mantOf c) (tabG j) (ineg cOne)
      let u := ifma cL3 r cL2
      let u := ifma u r cL1
      let w := iadd (tabHL j) (imul u r)
      let (z, f) := fastDeliver (f32.decode (iadd w E)) (fun _ => decide (c % 2 ^ 23 = 0))
      (z, fz ||| f)

/-- Two steps of Newton for the reciprocal. -/
def rcpIter (m : Nat) : Nat → Nat → Nat
  | 0, y => y
  | k + 1, y => rcpIter m k (ifma y (ifma (ineg m) y cOne) y)
/-- y × 2^(−e) with the sign of x: the value that R135 returns for a finite nonzero operand. -/
def rcpCore (c : Nat) : FV :=
  let y := rcpIter (mantOf c) 2 (tabY ((c >>> 16) % 128))
  match (f32.decode y).scale (-expOf c) with
  | .fin _ m e => .fin (c.testBit 31) m e
  | v => v

def rcpF (c : Nat) : Fl Nat :=
  let (v, fz) := f32.read false c
  match v with
  | .nan sg => (f32.nan, fz ||| (if sg then flIV else 0))
  | .inf _ => (0, fz)
  | .fin n m _ =>
    if m = 0 then (f32.inf n, fz ||| flDZ)
    else
      let (z, f) := fastDeliver (rcpCore c)
        (fun d => eqFV (mulFV (f32.decode d) v).1 (.fin false 1 0))
      (z, fz ||| f)

def rsqIter (m : Nat) : Nat → Nat → Nat
  | 0, y => y
  | k + 1, y => rsqIter m k (ifma (imul y cHalf) (ifma (ineg m) (imul y y) cOne) y)
/-- The value that R135 returns for a finite positive operand. -/
def rsqCore (c : Nat) : FV :=
  let e := expOf c
  let p := (e % 2).toNat
  let m := mantOf c + p * 2 ^ 23
  let y := rsqIter m 2 (tabZ (64 * p + (c >>> 17) % 64))
  (f32.decode y).scale (-((e - p) / 2))

def rsqF (c : Nat) : Fl Nat :=
  let (v, fz) := f32.read false c
  match v with
  | .nan sg => (f32.nan, fz ||| (if sg then flIV else 0))
  | .inf n => if n then (f32.nan, fz ||| flIV) else (0, fz)
  | .fin n m _ =>
    if m = 0 then (f32.inf false, fz ||| flDZ)
    else if n then (f32.nan, fz ||| flIV)
    else
      let (z, f) := fastDeliver (rsqCore c) (fun d =>
        let y := f32.decode d
        eqFV (mulFV (mulFV y y).1 v).1 (.fin false 1 0))
      (z, fz ||| f)

/-- Fast division by the procedure of R136, which the sentence beside it contradicts for a divisor of magnitude 2^126
exactly: its reciprocal is a normal number, and the quotient is not +0. Assumption 107 (DEDUCED). -/
def divF (a b : Nat) : Fl Nat :=
  let (x, f1) := f32.read false a
  let (y, f2) := f32.read false b
  let fz := f1 ||| f2
  match x, y with
  | .nan s, .nan t => (f32.nan, fz ||| (if s || t then flIV else 0))
  | .nan s, _ => (f32.nan, fz ||| (if s then flIV else 0))
  | _, .nan t => (f32.nan, fz ||| (if t then flIV else 0))
  | .inf _, .inf _ => (f32.nan, fz ||| flIV)
  | .inf m, .fin n _ _ => (f32.inf (xor m n), fz)
  | .fin _ _ _, .inf _ => (0, fz)
  | .fin n1 m1 _, .fin n2 m2 _ =>
    if m2 = 0 then (if m1 = 0 then (f32.nan, fz ||| flIV) else (f32.inf (xor n1 n2), fz ||| flDZ))
    else if m1 = 0 then (0, fz)
    else
      let r := (round32Fast (rcpCore b) 0 none).1
      let q := imul a r
      let d := ifma (ineg b) q a
      let (z, f) := fastDeliver (f32.decode (ifma d r q)) (fun c => eqFV (mulFV (f32.decode c) y).1 x)
      (z, fz ||| f)

def sqrtF (c : Nat) : Fl Nat :=
  let (v, fz) := f32.read false c
  match v with
  | .nan sg => (f32.nan, fz ||| (if sg then flIV else 0))
  | .inf n => if n then (f32.nan, fz ||| flIV) else (f32.inf false, fz)
  | .fin n m _ =>
    if m = 0 then (0, fz)
    else if n then (f32.nan, fz ||| flIV)
    else
      let r := (round32Fast (rsqCore c) 0 none).1
      let s := imul c r
      let d := ifma (ineg s) s c
      let (z, f) := fastDeliver (f32.decode (ifma d (imul r cHalf) s)) (fun z =>
        let y := f32.decode z
        eqFV (mulFV y y).1 v)
      (z, fz ||| f)

/-! ### Either mode (R50) -/

def exp2N (strict : Bool) (c : Nat) : Fl Nat := if strict then exp2S c else exp2F c
def log2N (strict : Bool) (c : Nat) : Fl Nat := if strict then log2S c else log2F c
def rcpN (strict : Bool) (c : Nat) : Fl Nat := if strict then rcpS c else rcpF c
def rsqN (strict : Bool) (c : Nat) : Fl Nat := if strict then rsqS c else rsqF c
def divN (strict : Bool) (a b : Nat) : Fl Nat := if strict then divS a b else divF a b
def sqrtN (strict : Bool) (c : Nat) : Fl Nat := if strict then sqrtS c else sqrtF c

end Sys2Proof.Machine
end

