-- ==== Sys2Proof/Machine/Swin.lean ====
section
/-! DEFINITION. The sliding-window operators CONV and POOL (R144 to R166). -/
namespace Sys2Proof.Machine

/-- The body of a sliding-window operation, taken apart (R146). Names stand for decoded values. -/
structure Swin where
  stage : Nat
  kib : Nat
  row0 : Nat
  rows : Nat
  g : Nat
  fh : Nat
  fw : Nat
  sh : Nat
  sw : Nat
  dh : Nat
  dw : Nat
  pt : Nat
  pb : Nat
  pl : Nat
  pr : Nat
  alg : Nat
  deriving DecidableEq, Repr

def Swin.parse (d : Nat) : Swin :=
  { stage := bits d 382 365 * 16, kib := bits d 364 353, row0 := bits d 352 337, rows := bits d 336 321 + 1,
    g := bits d 320 305 + 1, fh := bits d 304 301 + 1, fw := bits d 300 297 + 1, sh := bits d 296 294 + 1,
    sw := bits d 293 291 + 1, dh := bits d 290 288 + 1, dw := bits d 287 285 + 1, pt := bits d 284 281,
    pb := bits d 280 277, pl := bits d 276 273, pr := bits d 272 269, alg := bits d 268 267 }

def swKeyEn (d : Nat) : Bool := bit d 174
def swOrg1 (d : Nat) : Nat := bits d 266 243
def swOrg2 (d : Nat) : Nat := bits d 242 227
def swOrg3 (d : Nat) : Nat := bits d 226 215
def swExt1 (d : Nat) : Nat := bits d 214 191
def swExt2 (d : Nat) : Nat := bits d 190 175

/-- Element index that keys the draws (R147). -/
def swIdx (d : Nat) (u : TD) (i0 i1 i2 i3 : Nat) : Nat :=
  if swKeyEn d then
    i0 + u.e 0 * ((swOrg1 d + i1) + (swExt1 d + 1) * ((swOrg2 d + i2) + (swExt2 d + 1) * (swOrg3 d + i3)))
  else u.idx [i0, i1, i2, i3]

/-- Effective window height and width (R148). -/
def Swin.eh (w : Swin) : Nat := (w.fh - 1) * w.dh + 1
def Swin.ew (w : Swin) : Nat := (w.fw - 1) * w.dw + 1
/-- Output extents (R148). -/
def Swin.oh (w : Swin) (t : TD) : Nat := (t.e 1 + w.pt + w.pb - w.eh) / w.sh + 1
def Swin.ow (w : Swin) (t : TD) : Nat := (t.e 0 + w.pl + w.pr - w.ew) / w.sw + 1

/-- Input row and column of a window position, where it is no padding (R148, R150). -/
def inside (o s p f d n : Nat) : Option Nat :=
  let y : Int := (o * s + f * d : Nat) - (p : Int)
  if 0 ≤ y ∧ y < n then some y.toNat else none
def Swin.row (w : Swin) (t : TD) (oy fy : Nat) : Option Nat := inside oy w.sh w.pt fy w.dh (t.e 1)
def Swin.col (w : Swin) (t : TD) (ox fx : Nat) : Option Nat := inside ox w.sw w.pl fx w.dw (t.e 0)

/-- Least staging bytes (R158). -/
def Swin.smin (w : Swin) (c : Nat) (t f : TD) : Nat :=
  let wp := t.e 0 + w.pl + w.pr
  let e := t.esz
  if c = 2 then min (t.e 2) 64 * w.eh * wp * e
  else if w.alg = 1 then 2 * t.e 2 * (2048 + 4 * wp)
  else 64 * (f.e 2 * w.fh * w.fw) * e + min (t.e 2) (64 * f.e 2) * w.eh * wp * e

def swRoles (c d : Nat) : List Role :=
  [{ at_ := descAt d 469 }] ++ (if c = 1 then [{ at_ := descAt d 426 }] else []) ++
  [{ at_ := descAt d 383, written := true, stoch := opSround d }]

/-- IN, FILT (IN again for POOL) and OUT. -/
def swTensors (c : Nat) (ts : List TD) : TD × TD × TD :=
  let g := fun i => ts.getD i (TD.parse 0)
  if c = 1 then (g 0, g 1, g 2) else (g 0, g 0, g 1)

/-- The tensor lies wholly in LPDDR6 or in the core's loft. -/
def TD.reach (t : TD) (core : Nat) : Bool := inLp t.base (t.top - t.base) || t.inLoftOf core

/-- The conditions of R149, in its order. A tensor of rank 1 or 2, or of rank 5 with an extent of 1, stands for the dimensions
of R145 with extents of 1. Assumption 114 (DEDUCED). -/
def swConds (s : State) (o : Op) (c : Nat) (t f u : TD) : List Bool :=
  let d := o.desc
  let w := Swin.parse d
  let a := loftBase o.unit + w.stage
  let z := a + w.kib * 1024
  let hits := fun (x : TD) => decide (x.base < z) && decide (a < x.top)
  let kg := u.e 2 / w.g
  [ decide (opLeaveClass d ≠ (if c = 1 then 1 else 0)) || !opWsemEn d || opNoexc d,
    decide (t.e 1 + w.pt + w.pb < w.eh) || decide (t.e 0 + w.pl + w.pr < w.ew),
    decide (u.e 0 ≠ w.ow t ∨ u.e 1 ≠ w.oh t ∨ u.e 3 ≠ t.e 3 ∨ t.e 4 ≠ 1 ∨ u.e 4 ≠ 1) ||
      decide (c = 2 ∧ u.e 2 ≠ t.e 2) || decide (c = 1 ∧ (f.e 4 ≠ 1 ∨ f.e 3 ≠ u.e 2 ∨ t.fmt ≠ f.fmt)),
    decide (c = 1) && (decide (t.e 2 ≠ w.g * f.e 2) || decide (u.e 2 ≠ kg * w.g) || decide (f.e 0 ≠ w.fw ∨ f.e 1 ≠ w.fh)),
    decide (w.row0 + w.rows > w.oh t),
    !t.reach o.unit || !f.reach o.unit || !u.reach o.unit,
    decide (w.stage + w.kib * 1024 > loftSize) || decide (w.kib < cdiv (w.smin c t f) 1024) || hits t || hits f || hits u ||
      u.overlaps t || u.overlaps f,
    decide (c = 1 ∧ w.alg = 1) && (decide (w.fh ≠ 3 ∨ w.fw ≠ 3) || decide (w.sh ≠ 1 ∨ w.sw ≠ 1 ∨ w.dh ≠ 1 ∨ w.dw ≠ 1 ∨ w.g ≠ 1) ||
      decide (t.fmt ≠ 0) || opStrict d || decide (w.row0 % 2 = 1) || decide (w.rows % 2 = 1 ∧ w.row0 + w.rows ≠ w.oh t) ||
      decide (s.getO Obj.SWIN_WINOGRAD_PERMIT = 0)),
    decide (c = 2) && (((List.range (u.e 1)).any fun oy => (List.range w.fh).all fun fy => (w.row t oy fy).isNone) ||
      ((List.range (u.e 0)).any fun ox => (List.range w.fw).all fun fx => (w.col t ox fx).isNone)),
    (!swKeyEn d && decide (swOrg1 d ≠ 0 ∨ swOrg2 d ≠ 0 ∨ swOrg3 d ≠ 0 ∨ swExt1 d ≠ 0 ∨ swExt2 d ≠ 0)) ||
      (swKeyEn d && (decide (swOrg1 d + u.e 1 > swExt1 d + 1) || decide (swOrg2 d + u.e 2 > swExt2 d + 1))) ||
      decide (swOrg3 d + u.e 3 > 4096) || decide (swIdx d u (u.e 0 - 1) (u.e 1 - 1) (u.e 2 - 1) (u.e 3 - 1) ≥ 2 ^ 48) ]

/-- Step 1 of CONV and POOL. A self-test in progress refuses CONV as it does matrix operations (R102); ALG = 2, which R146 does
not define, is refused like the reserved value. Assumptions 24 (DEDUCED), 113 (DESIGN CHOICE). -/
def swCheck (c : Nat) (s : State) (o : Op) : State × Chk :=
  let d := o.desc
  let alg := bits d 268 267
  if (c = 1 ∧ s.getO Obj.MATRIX_SELFTEST_STATE = 1) ∨ bits d 173 128 ≠ 0 ∨ alg = 3 ∨ (c = 1 ∧ alg = 2) ∨
      (c = 2 ∧ (bits d 468 426 ≠ 0 ∨ bits d 320 305 ≠ 0)) then (s, .refuse ⟨1, false⟩)
  else
    s.tensorsThen (swRoles c d) fun ts =>
      let (t, f, u) := swTensors c ts
      swConds s o c t f u

/-- Write a binary32 result to an OUT element by R70 and R90. -/
def swStore (s : State) (o : Op) (u : TD) (ix : List Nat) (idx : Nat) (v fl : Nat) : Work :=
  let d := o.desc
  if u.fmt = 1 ∧ u.sexp = 0 then { writes := [(u.addr ix, leBytes 4 v)], flags := fl }
  else
    let w := siteW (opSround d) (s.getO Obj.WINNOW_JOB_SEED) o.step u.tid purpOUT16 idx 0
    let (c, k) := store u (opStrict d) w (f32.decode v)
    { k with writes := [(u.addr ix, leBytes u.esz c)], flags := fl ||| k.flags }

/-! ### The direct path (R150) -/

/-- One output element. -/
def convElem (s : State) (o : Op) (t f u : TD) (ox oy co n : Nat) : Work :=
  let d := o.desc
  let w := Swin.parse d
  let strict := opStrict d
  let cg := f.e 2
  let g := co / (u.e 2 / w.g)
  let idx := swIdx d u ox oy co n
  let ps : List (Fl FV) := (List.range cg).flatMap fun ci => (List.range w.fh).flatMap fun fy =>
    (List.range w.fw).map fun fx =>
      let a := match w.row t oy fy, w.col t ox fx with
        | some y, some x => s.el t [x, y, g * cg + ci, n]
        | _, _ => 0
      product t.flt strict (t.sexp + f.sexp) (s.el f [fx, fy, ci, co]) a
  let (sum, fl) := dotSteps strict (opSround d) (s.getO Obj.WINNOW_JOB_SEED) o.step u.tid idx 0 (dotStart strict, 0) ps
  swStore s o u [ox, oy, co, n] idx sum fl

/-- What the elements of one output row of one channel read. -/
def convReads (o : Op) (t f u : TD) (oy co n : Nat) : List (Nat × Nat) :=
  let w := Swin.parse o.desc
  let cg := f.e 2
  let g := co / (u.e 2 / w.g)
  (List.range cg).flatMap fun ci => (List.range w.fh).flatMap fun fy => (List.range w.fw).flatMap fun fx =>
    (f.addr [fx, fy, ci, co], f.esz) :: (List.range (u.e 0)).filterMap fun ox =>
      match w.row t oy fy, w.col t ox fx with
      | some y, some x => some (t.addr [x, y, g * cg + ci, n], t.esz)
      | _, _ => none

/-- Output rows, channels and images of the operation. -/
def swRows (w : Swin) (u : TD) : List (Nat × Nat × Nat) :=
  (List.range (u.e 3)).flatMap fun n => (List.range w.rows).flatMap fun r => (List.range (u.e 2)).map fun c =>
    (w.row0 + r, c, n)

def convPieces (o : Op) (t f u : TD) : List Piece :=
  (swRows (Swin.parse o.desc) u).map fun (p : Nat × Nat × Nat) =>
    let (oy, co, n) := p
    (convReads o t f u oy co n, fun (s : State) =>
      ((List.range (u.e 0)).map fun ox => convElem s o t f u ox oy co n).foldl Work.join {})

/-! ### The Winograd path (R151 to R154) -/

/-- One line of a transform: the exact value of its expression, one fast rounding. -/
def wgLine (v : Fl FV) : Fl Nat :=
  let (c, f) := deliver32 false v.1
  (c, v.2 ||| f)

def wgAdd (a b : Fl FV) : Fl FV :=
  let (v, f) := addFV a.1 b.1
  (v, a.2 ||| b.2 ||| f)
def wgSub (a b : Fl FV) : Fl FV := wgAdd a (b.1.neg, b.2)
def wgHalf (a : Fl FV) : Fl FV := (a.1.scale (-1), a.2)
/-- The value of a rounded line. -/
def wgVal (x : Fl Nat) : Fl FV := (f32.decode x.1, x.2)

def wgAt {α : Type} (d : α) (m : List (List α)) (i j : Nat) : α := (m.getD i []).getD j d

/-- Columns of a matrix given by an entry function. -/
def wgMat {α : Type} (r c : Nat) (f : Nat → Nat → α) : List (List α) := (List.range r).map fun i => (List.range c).map (f i)

/-- The difference pattern of R151 along one dimension. -/
def wgIn (x : Nat → Fl FV) : Nat → Fl Nat
  | 0 => wgLine (wgSub (x 0) (x 2))
  | 1 => wgLine (wgAdd (x 1) (x 2))
  | 2 => wgLine (wgSub (x 2) (x 1))
  | _ => wgLine (wgSub (x 1) (x 3))

/-- Input transform of a tile: binary16 codes (R151). -/
def wgInput (si : Int) (d : List (List (Fl Nat))) : List (List (Fl Nat)) :=
  let w := wgMat 4 4 fun i j => wgIn (fun k => wgVal (wgAt (0, 0) d i k)) j
  let v := wgMat 4 4 fun i j => wgIn (fun k => wgVal (wgAt (0, 0) w k j)) i
  wgMat 4 4 fun i j =>
    let (x, f) := wgAt (0, 0) v i j
    let (c, f2) := narrow16Fast (f32.decode x) (si + 2) none
    (c, f ||| f2)

/-- The pattern of R152 along one dimension. -/
def wgFi (x : Nat → Fl FV) : Nat → Fl Nat
  | 0 => wgLine (x 0)
  | 1 => wgLine (wgHalf (wgAdd (wgAdd (x 0) (x 1)) (x 2)))
  | 2 => wgLine (wgHalf (wgAdd (wgSub (x 0) (x 1)) (x 2)))
  | _ => wgLine (x 2)

/-- Filter transform: binary16 codes (R152). -/
def wgFilter (sf : Int) (g : List (List (Fl Nat))) : List (List (Fl Nat)) :=
  let h := wgMat 4 3 fun i j => wgFi (fun k => wgVal (wgAt (0, 0) g k j)) i
  let u := wgMat 4 4 fun i j => wgFi (fun k => wgVal (wgAt (0, 0) h i k)) j
  wgMat 4 4 fun i j =>
    let (x, f) := wgAt (0, 0) u i j
    let (c, f2) := narrow16Fast (f32.decode x) (sf + 2) none
    (c, f ||| f2)

/-- The pattern of R154 along one dimension. -/
def wgOut (x : Nat → Fl FV) (i : Nat) : Fl Nat :=
  if i = 0 then wgLine (wgAdd (wgAdd (x 0) (x 1)) (x 2)) else wgLine (wgSub (wgSub (x 1) (x 2)) (x 3))

/-- Inverse transform (R154). The transforms as R151 to R154 give them confine a NaN or an infinity at a corner of the tile to
one output, where R155 speaks of all four. Assumption 112 (DEDUCED). -/
def wgInverse (m : List (List (Fl Nat))) : List (List (Fl Nat)) :=
  let t := wgMat 2 4 fun i j => wgOut (fun k => wgVal (wgAt (0, 0) m k j)) i
  wgMat 2 2 fun i j => wgOut (fun k => wgVal (wgAt (0, 0) t i k)) j

/-- Input position of a tile element. -/
def wgPos (w : Swin) (t : TD) (tx ty i j : Nat) : Option (Nat × Nat) :=
  match inside (2 * ty) 1 w.pt i 1 (t.e 1), inside (2 * tx) 1 w.pl j 1 (t.e 0) with
  | some y, some x => some (x, y)
  | _, _ => none

/-- Transformed input tile. -/
def wgTile (s : State) (w : Swin) (t : TD) (tx ty c n : Nat) : List (List (Fl Nat)) :=
  wgInput t.sexp (wgMat 4 4 fun i j =>
    match wgPos w t tx ty i j with
    | some (x, y) => s.val t false [x, y, c, n]
    | none => (0, 0))

/-- Transformed filter. -/
def wgFilt (s : State) (f : TD) (co ci : Nat) : List (List (Fl Nat)) :=
  wgFilter f.sexp (wgMat 3 3 fun i j => s.val f false [j, i, ci, co])

/-- The sixteen sums of R153 and the four outputs of a tile. -/
def wgOutputs (s : State) (w : Swin) (t f : TD) (tx ty co n : Nat) : List (List (Fl Nat)) :=
  let vs := (List.range (t.e 2)).map fun c => (wgFilt s f co c, wgTile s w t tx ty c n)
  wgInverse (wgMat 4 4 fun i j =>
    dotSteps false false 0 0 0 0 0 (0, 0) (vs.map fun (p : List (List (Fl Nat)) × List (List (Fl Nat))) =>
      let (a, fa) := wgAt (0, 0) p.1 i j
      let (b, fb) := wgAt (0, 0) p.2 i j
      let (q, fq) := product f16 false (t.sexp + f.sexp + 4) a b
      (q, fa ||| fb ||| fq)))

/-- Tiles of one tile row of a channel and image. -/
def wgRow (s : State) (o : Op) (t f u : TD) (ty co n : Nat) : Work :=
  let d := o.desc
  let w := Swin.parse d
  ((List.range (cdiv (u.e 0) 2)).flatMap fun tx =>
    let y := wgOutputs s w t f tx ty co n
    let flags := (y.flatten).foldl (fun a (p : Fl Nat) => a ||| p.2) 0
    (List.range 2).flatMap fun i => (List.range 2).map fun j =>
      let ox := 2 * tx + j
      let oy := 2 * ty + i
      if ox < u.e 0 ∧ w.row0 ≤ oy ∧ oy < w.row0 + w.rows ∧ oy < u.e 1 then
        swStore s o u [ox, oy, co, n] (swIdx d u ox oy co n) (wgAt (0, 0) y i j).1 flags
      else { flags := flags }).foldl Work.join {}

/-- What a tile row reads. -/
def wgReads (w : Swin) (t f u : TD) (ty co n : Nat) : List (Nat × Nat) :=
  (List.range (t.e 2)).flatMap fun c =>
    ((List.range 9).map fun k => (f.addr [k % 3, k / 3, c, co], f.esz)) ++
    ((List.range (cdiv (u.e 0) 2)).flatMap fun tx => (List.range 16).filterMap fun k =>
      (wgPos w t tx ty (k / 4) (k % 4)).map fun (p : Nat × Nat) => (t.addr [p.1, p.2, c, n], t.esz))

/-- Tile rows of the operation's stripe. -/
def wgTileRows (w : Swin) : List Nat :=
  (List.range (cdiv (w.row0 + w.rows) 2)).filter fun k => decide (w.row0 / 2 ≤ k)

def wgPieces (o : Op) (t f u : TD) : List Piece :=
  let w := Swin.parse o.desc
  (List.range (u.e 3)).flatMap fun n => (wgTileRows w).flatMap fun ty => (List.range (u.e 2)).map fun co =>
    (wgReads w t f u ty co n, fun (s : State) => wgRow s o t f u ty co n)

/-- Saturations of the transformed operands, which have no scale slot (R152). -/
def wgSats (s : State) (w : Swin) (t f u : TD) : Nat :=
  let sa := fun (m : List (List (Fl Nat))) => (m.flatten.filter fun (p : Fl Nat) => bit p.2 6).length
  let ins := (List.range (u.e 3)).flatMap fun n => (wgTileRows w).flatMap fun ty =>
    (List.range (cdiv (u.e 0) 2)).flatMap fun tx => (List.range (t.e 2)).map fun c => sa (wgTile s w t tx ty c n)
  let fs := (List.range (u.e 2)).flatMap fun co => (List.range (t.e 2)).map fun c => sa (wgFilt s f co c)
  (ins ++ fs).foldl (· + ·) 0

/-! ### Counters and execution -/

/-- Diagonal mapping applies (R156). -/
def State.swDiagonal (s : State) (w : Swin) (f u : TD) : Bool :=
  decide (f.e 2 ≤ 8 ∧ u.e 2 / w.g ≤ 8 ∧ w.fh ≤ 5 ∧ w.fw ≤ 5 ∧ w.sw = 1 ∧ w.dw = 1) &&
    decide (s.getO Obj.SWIN_DIAGONAL_PERMIT = 1)

/-- Blocks of the direct path: diagonal or plain (R156, R157). -/
def swBlocks (w : Swin) (u : TD) (diag : Bool) : Nat :=
  let kg := u.e 2 / w.g
  if diag then u.e 3 * cdiv w.g (64 / kg) * w.rows * cdiv (u.e 0) 64
  else u.e 3 * w.g * cdiv kg 64 * cdiv (w.rows * u.e 0) 64

/-- Input rows that the stripe needs, halo rows included (R161). -/
def swInputRows (c : Nat) (w : Swin) (t : TD) : List Nat :=
  (List.range (t.e 1)).filter fun y =>
    if c = 1 ∧ w.alg = 1 then (wgTileRows w).any fun ty => (List.range 4).any fun i =>
      decide (inside (2 * ty) 1 w.pt i 1 (t.e 1) = some y)
    else (List.range w.rows).any fun r => (List.range w.fh).any fun fy => decide (w.row t (w.row0 + r) fy = some y)

/-- What SWIN_INPUT_BYTES counts of one operation: each needed row once, with all its columns, channels and images, whatever
the staging area holds (R166). Assumption 115 (DESIGN CHOICE). -/
def swInputBytes (c : Nat) (w : Swin) (t : TD) : Nat :=
  (swInputRows c w t).length * t.e 0 * t.e 2 * t.e 3 * t.esz

/-- The fetch of the rows from IN, whole (R161): it writes nothing. -/
def swFetch (c : Nat) (w : Swin) (t : TD) : Piece :=
  ((swInputRows c w t).flatMap fun y => (indices [t.e 0, t.e 2, t.e 3]).map fun ix =>
    (t.addr [ix.getD 0 0, y, ix.getD 1 0, ix.getD 2 0], t.esz), fun _ => {})

/-- Add to a counter of work done: all of it, or an open part where the operation is abandoned.
Assumption 20 (DESIGN CHOICE). -/
def State.countWork (s : State) (o : ObjDef) (total : Nat) (f : Option Nat) : State :=
  match f with
  | none => if total = 0 then s else s.incO o total
  | some _ => (s.incO o (s.free 64 % (total + 1))).drew

/-- The end of step 4: the staging area holds what the fetches left (open), and the counters move.
Assumption 21 (DESIGN CHOICE). -/
def swFinish (s : State) (id : Nat) (o : Op) (c : Nat) (t u : TD) (work : Work) (f : Option Nat) : State :=
  let w := Swin.parse o.desc
  let s := (s.scramble (loftBase o.unit + w.stage) (w.kib * 1024)).account o.unit work u.tid
  (s.countWork Obj.SWIN_INPUT_BYTES (swInputBytes c w t) f).worked id o f

/-- The pieces of a CONV by its algorithm, after the fetch of its rows (R150, R158, R161). -/
def convWork (o : Op) (t f u : TD) : List Piece :=
  let w := Swin.parse o.desc
  swFetch 1 w t :: (if w.alg = 1 then wgPieces o t f u else convPieces o t f u)

def convRun (s : State) (id : Nat) (o : Op) : State :=
  let (t, f, u) := swTensors 1 o.got.list
  let w := Swin.parse o.desc
  if w.alg = 1 then
    let (s1, work, fail) := s.runPieces (convWork o t f u)
    let n := wgSats (s.touchAll (convWork o t f u) 0).1 w t f u
    let n := if fail.isSome then s1.free 64 % (n + 1) else n
    let s1 := if fail.isSome then s1.drew else s1
    swFinish (s1.coreFlags o.unit 0 n) id o 1 t u work fail
  else
    let diag := s.swDiagonal w f u
    let (s, work, fail) := s.runPieces (convWork o t f u)
    let s := s.countWork (if diag then Obj.SWIN_DIAGONAL_BLOCKS else Obj.SWIN_PLAIN_BLOCKS) (swBlocks w u diag) fail
    swFinish s id o 1 t u work fail

/-! ### Pooling (R159) -/

/-- Real positions of a window, in ascending (fy, fx). -/
def poolReal (w : Swin) (t : TD) (ox oy : Nat) : List (Nat × Nat) :=
  (List.range w.fh).flatMap fun fy => (List.range w.fw).filterMap fun fx =>
    match w.row t oy fy, w.col t ox fx with
    | some y, some x => some (x, y)
    | _, _ => none

/-- Maximum of KIND 0. A result in the format and scale of IN is an exact copy, so the codes are compared as they
stand there. -/
def poolMax (s : State) (o : Op) (t u : TD) (rs : List (List Nat)) : Fl Nat :=
  let strict := opStrict o.desc
  let same := decide (t.fmt = u.fmt ∧ t.sexp = u.sexp)
  let sc := if same then 0 else t.sexp
  let vs := rs.map fun ix => scaleRead t.flt strict sc (s.el t ix)
  let f0 := rs.foldl (fun a ix => a ||| (s.val t strict ix).2) 0
  match vs with
  | [] => (0, 0)
  | v :: vs =>
    vs.foldl (fun (p : Fl Nat) (x : Fl Nat) =>
      let (c, f) := max32 strict p.1 x.1
      (c, p.2 ||| x.2 ||| f)) (v.1, v.2 ||| f0)

/-- Average of KIND 1 and 2. -/
def poolAvg (s : State) (o : Op) (t : TD) (n : Nat) (rs : List (List Nat)) : Fl Nat :=
  let strict := opStrict o.desc
  let vs := rs.map fun ix => s.val t strict ix
  let nc := (cvtFromInt n).1
  match vs with
  | [] => (0, 0)
  | v :: vs =>
    let (sum, f1) := vs.foldl (fun (p : Fl Nat) (x : Fl Nat) =>
      let (c, f) := add32 strict p.1 x.1
      (c, p.2 ||| x.2 ||| f)) v
    let (r, f2) := if strict then divN true sum nc else mul32 false sum (divN true 0x3F800000 nc).1
    (r, f1 ||| f2)

def poolElem (s : State) (o : Op) (t u : TD) (ox oy c n : Nat) : Work :=
  let d := o.desc
  let w := Swin.parse d
  let rs := (poolReal w t ox oy).map fun (p : Nat × Nat) => [p.1, p.2, c, n]
  let idx := swIdx d u ox oy c n
  if w.alg = 0 then
    let (v, fl) := poolMax s o t u rs
    if t.fmt = u.fmt ∧ t.sexp = u.sexp then
      let (x, k) := store { u with sexp := 0 } (opStrict d) none (f32.decode v)
      { k with writes := [(u.addr [ox, oy, c, n], leBytes u.esz x)], flags := fl ||| k.flags }
    else swStore s o u [ox, oy, c, n] idx v fl
  else
    let (v, fl) := poolAvg s o t (if w.alg = 1 then rs.length else w.fh * w.fw) rs
    swStore s o u [ox, oy, c, n] idx v fl

def poolPieces (o : Op) (t u : TD) : List Piece :=
  let w := Swin.parse o.desc
  (swRows w u).map fun (p : Nat × Nat × Nat) =>
    let (oy, c, n) := p
    ((List.range (u.e 0)).flatMap fun ox => (poolReal w t ox oy).map fun (q : Nat × Nat) => (t.addr [q.1, q.2, c, n], t.esz),
      fun (s : State) => ((List.range (u.e 0)).map fun ox => poolElem s o t u ox oy c n).foldl Work.join {})

def poolRun (s : State) (id : Nat) (o : Op) : State :=
  let (t, _, u) := swTensors 2 o.got.list
  let (s, work, fail) := s.runPieces (swFetch 2 (Swin.parse o.desc) t :: poolPieces o t u)
  swFinish s id o 2 t u work fail

/-- CONV (R144, R150 to R158). -/
def execConv (op : Nat) (s : State) : Out := .next (s.runOp 3 1 (swCheck 1) convRun op)

/-- POOL (R144, R159). -/
def execPool (op : Nat) (s : State) : Out := .next (s.runOp 3 2 (swCheck 2) poolRun op)

end Sys2Proof.Machine
end

