-- ==== Sys2Proof/Machine/Attn.lean ====
section
/-! DEFINITION. Attention: ATTN, ATTN_PARTIAL and ATTN_MERGE (R167 to R185, R197 to R200). -/
namespace Sys2Proof.Machine

/-- The body of ATTN and ATTN_PARTIAL with its parameter block (R169, R170). -/
structure Attn where
  q : Nat
  k : Nat
  v : Nat
  o : Nat
  par : Nat
  score : Nat
  kib : Nat
  ls : Nat
  passRows : Nat
  crib : Bool
  causal : Bool
  part : Nat
  mask : Nat
  bias : Nat
  stats : Nat
  mul : Nat
  pos0 : Nat
  kb : Nat
  ke : Nat
  org1 : Nat
  org2 : Nat
  org3 : Nat
  ext1 : Nat
  ext2 : Nat
  keyEn : Bool
  rsvd : Nat
  deriving DecidableEq, Repr

def Attn.parse (d p : Nat) : Attn :=
  { q := descAt d 469, k := descAt d 426, v := descAt d 383, o := descAt d 340, par := descAt d 297,
    score := bits d 296 279 * 16, kib := bits d 278 267, ls := 64 * (bits d 266 259 + 1), passRows := bits d 258 257,
    crib := bit d 256, causal := bit d 255, part := bits d 254 249, mask := descAt p 469, bias := descAt p 426,
    stats := descAt p 383, mul := bits p 382 351, pos0 := bits p 350 327, kb := bits p 326 303, ke := bits p 302 279,
    org1 := bits p 278 255, org2 := bits p 254 239, org3 := bits p 238 227, ext1 := bits p 226 203,
    ext2 := bits p 202 187, keyEn := bit p 186, rsvd := bits p 185 0 }

/-- Rows per pass. -/
def Attn.pr (a : Attn) : Nat := 16 * 2 ^ a.passRows

/-- The tensors of ATTN and ATTN_PARTIAL; what the operation does not have is absent. -/
structure AttnTs where
  q : TD
  k : TD
  v : Option TD
  o : TD
  mask : Option TD
  bias : Option TD
  stats : Option TD
  deriving DecidableEq, Repr

def Attn.roles (a : Attn) (d c : Nat) : List Role :=
  [{ at_ := a.q }, { at_ := a.k, fmts := if a.crib then [2] else [0, 1] }] ++
  (if a.v = 0 ∨ a.crib then [] else [{ at_ := a.v }]) ++
  [{ at_ := a.o, written := true, stoch := opSround d && decide (c = 1), fmts := if c = 1 then [0, 1] else [1] }] ++
  (if a.mask = 0 then [] else [{ at_ := a.mask }]) ++ (if a.bias = 0 then [] else [{ at_ := a.bias, fmts := [1] }]) ++
  (if a.stats = 0 then [] else [{ at_ := a.stats, written := true, fmts := [1] }])

def Attn.tensors (a : Attn) (ts : List TD) : AttnTs :=
  let g := fun i => ts.getD i (TD.parse 0)
  let hv := decide (a.v ≠ 0) && !a.crib
  let n := if hv then 3 else 2
  let m := n + 1 + b2n (decide (a.mask ≠ 0))
  let l := m + b2n (decide (a.bias ≠ 0))
  { q := g 0, k := g 1, v := if hv then some (g 2) else none, o := g n,
    mask := if a.mask = 0 then none else some (g (n + 1)), bias := if a.bias = 0 then none else some (g m),
    stats := if a.stats = 0 then none else some (g l) }

/-- Key and value heads. -/
def State.attnHkv (s : State) (a : Attn) (t : AttnTs) : Nat :=
  if a.crib then s.getO Obj.CRIB_PAGE_KV_HEADS else t.k.e 2

/-- Page-table entries that cover the key range. -/
def Attn.entries (a : Attn) : List Nat :=
  (List.range (cdiv a.ke 256)).filter fun n => decide (a.kb / 256 ≤ n)

/-- Least bytes of the score area (R180). -/
def State.attnSmin (s : State) (a : Attn) (t : AttnTs) : Nat :=
  let d := t.q.e 0
  let ev := match t.v with
    | some v => v.esz
    | none => fmtBytes (s.getO Obj.CRIB_PAGE_FMT)
  a.pr * (a.ls + d + 2) * 4 + a.pr * d * t.q.esz + 256 * d * ev +
    4 * t.q.e 3 * (if a.crib then a.entries.length else 0)

/-- Element index that keys the draws (R171). -/
def keyIdx (en : Bool) (org1 org2 org3 ext1 ext2 : Nat) (u : TD) (i0 i1 i2 i3 : Nat) : Nat :=
  if en then i0 + u.e 0 * ((org1 + i1) + (ext1 + 1) * ((org2 + i2) + (ext2 + 1) * (org3 + i3)))
  else u.idx [i0, i1, i2, i3]

/-- The key fields break the rules over O. -/
def keyBad (en : Bool) (org1 org2 org3 ext1 ext2 : Nat) (u : TD) : Bool :=
  (!en && decide (org1 ≠ 0 ∨ org2 ≠ 0 ∨ org3 ≠ 0 ∨ ext1 ≠ 0 ∨ ext2 ≠ 0)) ||
  (en && (decide (org1 + u.e 1 > ext1 + 1) || decide (org2 + u.e 2 > ext2 + 1))) ||
  decide (keyIdx en org1 org2 org3 ext1 ext2 u (u.e 0 - 1) (u.e 1 - 1) (u.e 2 - 1) (u.e 3 - 1) ≥ 2 ^ 48)

/-- Extents and scales of R168 do not hold. -/
def Attn.shapeBad (a : Attn) (c : Nat) (t : AttnTs) : Bool :=
  let d := t.q.e 0
  let nq := t.q.e 1
  let h := t.q.e 2
  let b := t.q.e 3
  decide (t.q.e 4 ≠ 1) ||
  (if a.crib then decide (t.k.e 0 > 32768 ∨ t.k.e 1 ≠ b ∨ t.k.e 2 ≠ 1 ∨ t.k.e 3 ≠ 1 ∨ t.k.e 4 ≠ 1)
   else decide (t.k.e 0 ≠ d ∨ t.k.e 3 ≠ b ∨ t.k.e 4 ≠ 1 ∨ t.k.fmt ≠ t.q.fmt)) ||
  t.v.any (fun v => decide (v.e 0 ≠ d ∨ v.e 2 ≠ t.k.e 2 ∨ v.e 3 ≠ b ∨ v.e 4 ≠ 1)) ||
  (if c = 1 then decide (t.o.e 0 ≠ d ∨ t.o.e 1 ≠ nq ∨ t.o.e 2 ≠ h ∨ t.o.e 3 ≠ b ∨ t.o.e 4 ≠ 1)
   else decide (t.o.e 0 ≠ d + 2 ∨ t.o.e 1 ≠ nq ∨ t.o.e 2 ≠ h ∨ t.o.e 3 ≠ b ∨ t.o.sexp ≠ 0)) ||
  t.mask.any (fun m => decide (m.e 0 < a.ke ∨ m.e 1 ≠ nq ∨ (m.e 2 ≠ 1 ∧ m.e 2 ≠ h) ∨ (m.e 3 ≠ 1 ∧ m.e 3 ≠ b) ∨ m.e 4 ≠ 1)) ||
  t.bias.any (fun m => decide (m.e 0 ≠ 384 ∨ m.e 1 ≠ h ∨ m.e 2 ≠ 1 ∨ m.e 3 ≠ 1 ∨ m.e 4 ≠ 1)) ||
  t.stats.any (fun m => decide (m.e 0 ≠ 2 ∨ m.e 1 ≠ nq ∨ m.e 2 ≠ h ∨ m.e 3 ≠ b ∨ m.e 4 ≠ 1 ∨ m.sexp ≠ 0))

/-- The parameter block lies in LPDDR6 or in the core's loft. -/
def Attn.parOk (a : Attn) (core : Nat) : Bool := inLp a.par 64 || inLoft core a.par 64

/-- The conditions of R198 that bear on ATTN and ATTN_PARTIAL, in its order; those of other operations hold never. -/
def attnConds (s : State) (o : Op) (c : Nat) (a : Attn) (t : AttnTs) : List Bool :=
  let d := o.desc
  let lo := loftBase o.unit + a.score
  let hi := lo + a.kib * 1024
  let hkv := s.attnHkv a t
  let ins := [t.q, t.k] ++ t.v.toList ++ t.mask.toList ++ t.bias.toList
  let outs := t.o :: t.stats.toList
  let dim := t.q.e 0
  [ decide (opLeaveClass d ≠ 1) || opNoexc d,
    a.shapeBad c t,
    keyBad a.keyEn a.org1 a.org2 a.org3 a.ext1 a.ext2 t.o,
    decide (dim > 256),
    decide (hkv = 0 ∨ t.q.e 2 % hkv ≠ 0),
    decide (a.kb ≥ a.ke ∨ a.ke > 8388608 ∨ a.pos0 + t.q.e 1 > 8388608),
    !a.crib && (decide (t.k.e 1 < a.ke) || t.v.any fun v => decide (v.e 1 < a.ke)),
    !a.crib && decide (a.v = 0),
    !f32.isFinite a.mul,
    decide (a.passRows = 3),
    decide (a.kib < cdiv (s.attnSmin a t) 1024) || decide (a.score + a.kib * 1024 > loftSize) ||
      ((ins ++ outs).any fun x => decide (x.base < hi) && decide (lo < x.top)) || (decide (a.par < hi) && decide (lo < a.par + 64)),
    (outs.any fun x => ins.any fun y => x.overlaps y) || t.stats.any fun x => x.overlaps t.o,
    !a.parOk o.unit || decide (a.rsvd ≠ 0),
    decide (c = 2 ∧ a.kb % a.ls ≠ 0),
    decide (c = 2 ∧ a.part ≥ t.o.e 4),
    decide (c = 2) && (opSround d || a.keyEn || decide (a.stats ≠ 0)),
    a.crib && decide (s.getO Obj.CRIB_POOL_STATE ≠ 1),
    a.crib && decide (a.v ≠ 0),
    a.crib && decide (dim ≠ s.getO Obj.CRIB_PAGE_DIM ∨ t.q.fmt ≠ s.getO Obj.CRIB_PAGE_FMT),
    a.crib && decide (256 * t.k.e 0 < a.ke) ]

/-- Step 1 of ATTN and ATTN_PARTIAL. A parameter block that cannot be reached is not read. Assumption 24 (DEDUCED). -/
def attnCheck (c : Nat) (s : State) (o : Op) : State × Chk :=
  let d := o.desc
  if s.getO Obj.MATRIX_SELFTEST_STATE = 1 ∨ bits d 248 128 ≠ 0 ∨ (c = 1 ∧ bits d 254 249 ≠ 0) then
    (s, .refuse ⟨1, false⟩)
  else
    let ok := (Attn.parse d 0).parOk o.unit
    let (s, p, ue) := if ok then s.readDesc (Attn.parse d 0).par 64 else (s, 0, none)
    let a := Attn.parse d p
    match ue with
    | some x => (s, .ue x)
    | none =>
      match s.tensorsThen (a.roles d c) fun ts => attnConds s o c a (a.tensors ts) with
      | (s, .ok w) => (s, .ok { w with par := p })
      | r => r

/-! ### Scores and the running state (R172 to R177) -/

/-- Where keys and values come from: tensors, or pages by the snapshot of the table (R187, R190). -/
structure AttnSrc where
  a : Attn
  t : AttnTs
  strict : Bool
  hkv : Nat
  /-- Pages by sequence and entry. -/
  pages : List (List Nat)
  /-- Pool base, page bytes, element size, format, scales of keys and values. -/
  pool : Nat
  pb : Nat
  pfmt : Nat
  ks : Int
  vs : Int
  deriving DecidableEq, Repr

/-- Address of element (d, j, hk, b) of the keys or the values. -/
def AttnSrc.kv (x : AttnSrc) (value : Bool) (d j hk b : Nat) : Nat :=
  if x.a.crib then
    let p := (x.pages.getD b []).getD (j / 256 - x.a.kb / 256) 0
    x.pool + p * x.pb + (if value then x.pb / 2 else 0) + fmtBytes x.pfmt * (d + x.t.q.e 0 * (j % 256 + 256 * hk))
  else if value then (x.t.v.getD x.t.k).addr [d, j, hk, b] else x.t.k.addr [d, j, hk, b]

def AttnSrc.kFmt (x : AttnSrc) : Nat := if x.a.crib then x.pfmt else x.t.k.fmt
def AttnSrc.vFmt (x : AttnSrc) : Nat := if x.a.crib then x.pfmt else (x.t.v.getD x.t.k).fmt
def AttnSrc.kScale (x : AttnSrc) : Int := if x.a.crib then x.ks else x.t.k.sexp
def AttnSrc.vScale (x : AttnSrc) : Int := if x.a.crib then x.vs else (x.t.v.getD x.t.k).sexp
def fltOf (f : Nat) : Fmt := if f = 0 then f16 else f32

/-- Key positions of query row i: the first, and the one after the last (R172). -/
def Attn.range (a : Attn) (i : Nat) : Nat × Nat :=
  (a.kb, if a.causal then min a.ke (a.pos0 + i + 1) else a.ke)

/-- Distance-bias bucket (R174). -/
def biasBucket (n : Nat) : Nat :=
  if n < 64 then n else min 191 (64 + 8 * (n.log2 - 6) + (n / 2 ^ (n.log2 - 3)) % 8)
def biasEntry (q j : Nat) : Nat := if j ≤ q then biasBucket (q - j) else 192 + biasBucket (j - q)

/-- Score of a row for key j (R173). -/
def AttnSrc.score (x : AttnSrc) (s : State) (i h b j : Nat) : Fl Nat :=
  let hk := h / (x.t.q.e 2 / x.hkv)
  let st := x.strict
  let f := x.t.q.flt
  let kz := fmtBytes x.kFmt
  let ps := (List.range (x.t.q.e 0)).map fun d =>
    product f st (x.t.q.sexp + x.kScale) (s.el x.t.q [d, i, h, b]) (ofBytes (s.peek (x.kv false d j hk b) kz))
  let (t, f0) := dotSteps st false 0 0 0 0 0 (dotStart st, 0) ps
  let (t, f1) := mul32 st t x.a.mul
  let (t, f2) := match x.t.bias with
    | some m =>
      let (v, g) := s.val m st [biasEntry (x.a.pos0 + i) j, h]
      let (t, g2) := add32 st t v
      (t, g ||| g2)
    | none => (t, 0)
  let (t, f3) := match x.t.mask with
    | some m =>
      let (v, g) := s.val m st [j, i, if m.e 2 = 1 then 0 else h, if m.e 3 = 1 then 0 else b]
      let (t, g2) := add32 st t v
      (t, g ||| g2)
    | none => (t, 0)
  (t, f0 ||| f1 ||| f2 ||| f3)

/-- The running state of a row: m, l, O, flags and rescales. -/
structure RowSt where
  m : Nat := 0xFF800000
  l : Nat := 0
  o : List Nat
  fl : Nat := 0
  rescales : Nat := 0
  deriving DecidableEq, Repr

def negInf : Nat := 0xFF800000
def log2E : Nat := 0x3FB8AA3B

/-- a > b by R50. -/
def gt32 (strict : Bool) (a b : Nat) : Bool :=
  let (x, _) := f32.read strict a
  let (y, _) := f32.read strict b
  !(x.isNan || y.isNan) && decide (cmpFV x y > 0)

/-- exp2((a − b) × LOG2E), each line rounded. -/
def expDiff (st : Bool) (a b : Nat) : Fl Nat :=
  let (x, f1) := sub32 st a b
  let (x, f2) := mul32 st x log2E
  let (c, f3) := exp2N st x
  (c, f1 ||| f2 ||| f3)

/-- Multiply every element by c. -/
def scaleAll (st : Bool) (c : Nat) (xs : List Nat) : List Nat × Nat :=
  xs.foldr (fun x (p : List Nat × Nat) => let (y, f) := mul32 st x c; (y :: p.1, p.2 ||| f)) ([], 0)

def addAll (st : Bool) (xs ys : List Nat) : List Nat × Nat :=
  (xs.zip ys).foldr (fun q (p : List Nat × Nat) => let (y, f) := add32 st q.1 q.2; (y :: p.1, p.2 ||| f)) ([], 0)

/-- The operand p̂ and the value it stands for in ls (R175). -/
def AttnSrc.phat (x : AttnSrc) (p : Nat) : Fl (Nat × Nat) :=
  if x.strict = false ∧ x.vFmt = 0 then
    let (c, f) := narrow false none p
    let (v, g) := widen false c
    ((c, v), f ||| g)
  else ((p, p), 0)

/-- The product of a weight and a value element. A binary16 V is widened exactly in strict mode. -/
def AttnSrc.pv (x : AttnSrc) (s : State) (p d j hk b : Nat) : Fl FV :=
  let c := ofBytes (s.peek (x.kv true d j hk b) (fmtBytes x.vFmt))
  if x.vFmt = 1 then product f32 x.strict x.vScale p c
  else if x.strict then
    let (w, f) := widen true c
    let (q, g) := product f32 true x.vScale p w
    (q, f ||| g)
  else product f16 false x.vScale p c

/-- One strip of a row (R175). -/
def AttnSrc.strip (x : AttnSrc) (s : State) (i h b : Nat) (r : RowSt) (js : List Nat) : RowSt :=
  let st := x.strict
  let hk := h / (x.t.q.e 2 / x.hkv)
  let sc : List (Nat × Fl Nat) := js.map fun j => (j, x.score s i h b j)
  let fl := sc.foldl (fun a (p : Nat × Fl Nat) => a ||| p.2.2) r.fl
  let incl : List (Nat × Nat) := (sc.filter fun (p : Nat × Fl Nat) => decide (p.2.1 ≠ negInf)).map
    fun (p : Nat × Fl Nat) => (p.1, p.2.1)
  match incl with
  | [] => { r with fl := fl }
  | (_, v) :: rest =>
    let (ms, f1) := rest.foldl (fun (a : Fl Nat) (p : Nat × Nat) => let (c, f) := max32 st a.1 p.2; (c, a.2 ||| f)) (v, 0)
    let (mn, f2) := max32 st r.m ms
    let ps : List (Nat × Fl Nat) := incl.map fun (p : Nat × Nat) => (p.1, expDiff st p.2 mn)
    let f3 := ps.foldl (fun a (p : Nat × Fl Nat) => a ||| p.2.2) 0
    let grow := gt32 st mn r.m && decide (r.m ≠ negInf)
    let (l, o, f4) :=
      if grow then
        let (c, g1) := expDiff st r.m mn
        let (l, g2) := mul32 st r.l c
        let (o, g3) := scaleAll st c r.o
        (l, o, g1 ||| g2 ||| g3)
      else (r.l, r.o, 0)
    let hats : List (Nat × Fl (Nat × Nat)) := ps.map fun (p : Nat × Fl Nat) => (p.1, x.phat p.2.1)
    let f5 := hats.foldl (fun a (p : Nat × Fl (Nat × Nat)) => a ||| p.2.2) 0
    let (ls, f6) := hats.foldl (fun (a : Fl Nat) (p : Nat × Fl (Nat × Nat)) =>
      let (c, f) := add32 st a.1 p.2.1.2; (c, a.2 ||| f)) (0, 0)
    let os : List (Fl Nat) := (List.range r.o.length).map fun d =>
      dotSteps st false 0 0 0 0 0 (dotStart st, 0)
        (hats.map fun (p : Nat × Fl (Nat × Nat)) => x.pv s p.2.1.1 d p.1 hk b)
    let f7 := os.foldl (fun a (p : Fl Nat) => a ||| p.2) 0
    let (l, f8) := add32 st l ls
    let (o, f9) := addAll st o (os.map (·.1))
    { m := mn, l := l, o := o, fl := fl ||| f1 ||| f2 ||| f3 ||| f4 ||| f5 ||| f6 ||| f7 ||| f8 ||| f9,
      rescales := r.rescales + b2n grow }

/-- Strips of a range: the keys of each, ascending (R172). -/
def Attn.strips (a : Attn) (lo hi : Nat) : List (List Nat) :=
  (List.range (cdiv hi a.ls)).filterMap fun k =>
    let js := (List.range a.ls).filterMap fun i =>
      let j := k * a.ls + i
      if lo ≤ j ∧ j < hi then some j else none
    if js = [] then none else some js

/-- The whole of R175 for a row. -/
def AttnSrc.row (x : AttnSrc) (s : State) (i h b : Nat) : RowSt :=
  let (lo, hi) := x.a.range i
  (x.a.strips lo hi).foldl (fun r js => x.strip s i h b r js) { o := List.replicate (x.t.q.e 0) 0 }

/-- The output of a row (R176): codes of o[d] with flags. -/
def rowOut (st : Bool) (r : RowSt) : List (Fl Nat) :=
  if r.m = negInf then r.o.map fun _ => (0, 0)
  else if st then r.o.map fun v => divN true v r.l
  else
    let (c, f) := rcpN false r.l
    r.o.map fun v => let (y, g) := mul32 false v c; (y, f ||| g)

/-- Write the output row and its statistics (R176). -/
def writeRow (s : State) (op : Op) (o : TD) (stats : Option TD) (idx : Nat → Nat) (r : RowSt) (i h b : Nat) : Work :=
  let os := rowOut (opStrict op.desc) r
  let ws := (os.zipIdx).map fun (p : Fl Nat × Nat) => swStore s op o [p.2, i, h, b] (idx p.2) p.1.1 p.1.2
  let st := match stats with
    | some t => [(t.addr [0, i, h, b], leBytes 4 r.m), (t.addr [1, i, h, b], leBytes 4 r.l)]
    | none => []
  (ws.foldl Work.join {}).join
    { writes := st, flags := r.fl, rescales := r.rescales, empties := b2n (decide (r.m = negInf)) }

/-- Write the state of a row as a partial record (R182). -/
def writePartial (o : TD) (part : Nat) (r : RowSt) (i h b : Nat) : Work :=
  { writes := ((r.o ++ [r.m, r.l]).zipIdx).map fun (p : Nat × Nat) => (o.addr [p.2, i, h, b, part], leBytes 4 p.1),
    flags := r.fl, rescales := r.rescales }

/-- What a row reads. -/
def AttnSrc.reads (x : AttnSrc) (i h b : Nat) : List (Nat × Nat) :=
  let hk := h / (x.t.q.e 2 / x.hkv)
  let (lo, hi) := x.a.range i
  let ds := List.range (x.t.q.e 0)
  let js := (List.range hi).filter fun j => decide (lo ≤ j)
  if js = [] then []
  else
    ds.map (fun d => (x.t.q.addr [d, i, h, b], x.t.q.esz)) ++
    js.flatMap fun j =>
      ds.flatMap (fun d => [(x.kv false d j hk b, fmtBytes x.kFmt), (x.kv true d j hk b, fmtBytes x.vFmt)]) ++
      (match x.t.bias with
        | some m => [(m.addr [biasEntry (x.a.pos0 + i) j, h], 4)]
        | none => []) ++
      (match x.t.mask with
        | some m => [(m.addr [j, i, if m.e 2 = 1 then 0 else h, if m.e 3 = 1 then 0 else b], m.esz)]
        | none => [])

/-- Rows of the operation: query row, head and batch index. -/
def attnRows (q : TD) : List (Nat × Nat × Nat) :=
  (List.range (q.e 3)).flatMap fun b => (List.range (q.e 2)).flatMap fun h => (List.range (q.e 1)).map fun i => (i, h, b)

def AttnSrc.pieces (x : AttnSrc) (op : Op) (c : Nat) : List Piece :=
  (attnRows x.t.q).map fun (p : Nat × Nat × Nat) =>
    let (i, h, b) := p
    (x.reads i h b, fun (s : State) =>
      let r := x.row s i h b
      if c = 1 then
        writeRow s op x.t.o x.t.stats
          (fun d => keyIdx x.a.keyEn x.a.org1 x.a.org2 x.a.org3 x.a.ext1 x.a.ext2 x.t.o d i h b) r i h b
      else writePartial x.t.o x.a.part r i h b)

/-- Strips of every pass (R179): each pass runs from the lowest to the highest strip that a row of it needs. -/
def AttnSrc.stripsDone (x : AttnSrc) : Nat :=
  let hq := x.t.q.e 2 / x.hkv
  let rows := (List.range (x.t.q.e 1)).flatMap fun i => List.replicate hq i
  let passes := (List.range (cdiv rows.length x.a.pr)).map fun k => (rows.drop (k * x.a.pr)).take x.a.pr
  let one := passes.foldl (fun n (is : List Nat) =>
    let need := (is.map x.a.range).filter fun (p : Nat × Nat) => decide (p.1 < p.2)
    let lo := need.foldl (fun m (p : Nat × Nat) => min m (p.1 / x.a.ls)) (8388608)
    let hi := need.foldl (fun m (p : Nat × Nat) => max m ((p.2 - 1) / x.a.ls + 1)) 0
    n + (hi - lo)) 0
  one * x.hkv * x.t.q.e 3

/-- Counters of finished rows. -/
def State.attnAccount (s : State) (core : Nat) (w : Work) (tid : Nat) : State :=
  let s := s.account core w tid
  let s := if w.rescales = 0 then s else s.incO Obj.ATTN_RESCALES w.rescales
  if w.empties = 0 then s else (s.incO Obj.ATTN_EMPTY_ROWS w.empties).setO Obj.ATTN_EMPTY_FLAG 1

/-! ### Fences and the page table (R189, R190, R196) -/

/-- Take a read fence; none where 4,096 are open. -/
def State.takeFence (s : State) (id : Nat) (o : Op) : Option (State × Op) :=
  if s.fences.length ≥ 4096 then none
  else
    let f := s.getO Obj.CRIB_NEXT_FENCE
    let o := { o with fence := some f }
    let s := { (s.incO Obj.CRIB_NEXT_FENCE).setOp id o with fences := s.fences ++ [f] }
    some (s, o)

/-- Address of the reference count of a page. -/
def State.countAddr (s : State) (p : Nat) : Nat := s.getO Obj.CRIB_META_BASE + 4 * p

/-- A page number may be used: it lies in the pool and its count is not 0. Assumption 31 (DEDUCED). -/
def State.pageOk (s : State) (p : Nat) : State × Except Nat Bool :=
  if p ≥ s.getO Obj.CRIB_POOL_PAGES then (s, .ok false)
  else
    match s.readMem (s.countAddr p) 4 with
    | (s, _, some a) => (s, .error a)
    | (s, bs, none) => (s, .ok (decide (ofBytes bs ≠ 0)))

/-- How an operation ends early: an uncorrectable address, or a crib failure at an entry. -/
inductive CribEnd where
  | ue (addr : Nat)
  | crib (entry : Nat)
  deriving DecidableEq, Repr

/-- Read the entries of one sequence into the snapshot. -/
def State.snapshot (s : State) (t : TD) (b : Nat) : List Nat → State × Except CribEnd (List Nat)
  | [] => (s, .ok [])
  | n :: ns =>
    match s.readMem (t.addr [n, b]) 4 with
    | (s, _, some a) => (s, .error (.ue a))
    | (s, bs, none) =>
      let p := ofBytes bs
      match s.pageOk p with
      | (s, .error a) => (s, .error (.ue a))
      | (s, .ok false) => (s, .error (.crib n))
      | (s, .ok true) =>
        match s.snapshot t b ns with
        | (s, .ok ps) => (s, .ok (p :: ps))
        | (s, .error e) => (s, .error e)

def State.snapshots (s : State) (t : TD) (ns : List Nat) : List Nat → State × Except CribEnd (List (List Nat))
  | [] => (s, .ok [])
  | b :: bs =>
    match s.snapshot t b ns with
    | (s, .error e) => (s, .error e)
    | (s, .ok ps) =>
      match s.snapshots t ns bs with
      | (s, .ok r) => (s, .ok (ps :: r))
      | (s, .error e) => (s, .error e)

/-- An early end (R196, R200). Assumption 31 (DEDUCED). -/
def State.cribFail (s : State) (id : Nat) (o : Op) (e : CribEnd) : State :=
  match e with
  | .ue a => s.failOp id o a 1 0
  | .crib n => (s.incO Obj.CRIB_FAILS).failOp id o n 2 0

/-- The parameters of an ATTN operation: its descriptor and its parameter block (R168, R169). -/
def Op.attn (o : Op) : Attn := Attn.parse o.desc o.got.par

/-- Its tensors. -/
def Op.attnTensors (o : Op) : AttnTs := o.attn.tensors o.got.list

/-- What its rows are computed from; `pages` is the snapshot of the page table. -/
def State.attnSrc (s : State) (a : Attn) (t : AttnTs) (d : Nat) (pages : List (List Nat)) : AttnSrc :=
  { a := a, t := t, strict := opStrict d, hkv := s.attnHkv a t, pages := pages,
    pool := s.getO Obj.CRIB_POOL_BASE, pb := s.cribPageBytes, pfmt := s.getO Obj.CRIB_PAGE_FMT,
    ks := s.getI Obj.CRIB_K_SCALE, vs := s.getI Obj.CRIB_V_SCALE }

/-- Step 4 of ATTN and ATTN_PARTIAL. Assumption 21 (DESIGN CHOICE). -/
def attnRun (c : Nat) (s : State) (id : Nat) (op : Op) : State :=
  let d := op.desc
  let a := op.attn
  let t := op.attnTensors
  let run := fun (s : State) (op : Op) (pages : List (List Nat)) =>
    let x := s.attnSrc a t d pages
    let (s, w, f) := s.runPieces (x.pieces op c)
    let s := s.scramble (loftBase op.unit + a.score) (a.kib * 1024)
    let s := s.attnAccount op.unit w (if c = 1 then t.o.tid else 0)
    (s.countWork Obj.ATTN_STRIPS_DONE x.stripsDone f).worked id op f
  if a.crib then
    match s.takeFence id op with
    | none => s.blockOp id op
    | some (s, op) =>
      match s.snapshots t.k a.entries (List.range (t.q.e 3)) with
      | (s, .error e) => s.cribFail id op e
      | (s, .ok pages) => run (s.judge op.table) op pages
  else run s op []

/-- ATTN (R167, R172 to R181). -/
def execAttn (op : Nat) (s : State) : Out := .next (s.runOp 4 1 (attnCheck 1) (attnRun 1) op)

/-- ATTN_PARTIAL (R182). -/
def execAttnPartial (op : Nat) (s : State) : Out := .next (s.runOp 4 2 (attnCheck 2) (attnRun 2) op)

/-! ### ATTN_MERGE (R183, R185) -/

def amOrg1 (d : Nat) : Nat := bits d 382 359
def amOrg2 (d : Nat) : Nat := bits d 358 343
def amOrg3 (d : Nat) : Nat := bits d 342 331
def amExt1 (d : Nat) : Nat := bits d 330 307
def amExt2 (d : Nat) : Nat := bits d 306 291
def amKeyEn (d : Nat) : Bool := bit d 290

def mergeRoles (d : Nat) : List Role :=
  [{ at_ := descAt d 469, fmts := [1] }, { at_ := descAt d 426, written := true, stoch := opSround d }] ++
  (if descAt d 383 = 0 then [] else [{ at_ := descAt d 383, written := true, fmts := [1] }])

/-- The conditions of R198 that bear on ATTN_MERGE, at their places in its list. -/
def mergeConds (o : Op) (t u : TD) (st : Option TD) : List Bool :=
  let d := o.desc
  [ decide (opLeaveClass d ≠ 0) || opNoexc d,
    decide (t.sexp ≠ 0) || decide (u.e 0 + 2 ≠ t.e 0 ∧ t.e 0 > 2) ||
      decide (u.e 1 ≠ t.e 1 ∨ u.e 2 ≠ t.e 2 ∨ u.e 3 ≠ t.e 3 ∨ u.e 4 ≠ 1) ||
      st.any (fun m => decide (m.e 0 ≠ 2 ∨ m.e 1 ≠ t.e 1 ∨ m.e 2 ≠ t.e 2 ∨ m.e 3 ≠ t.e 3 ∨ m.e 4 ≠ 1 ∨ m.sexp ≠ 0)),
    keyBad (amKeyEn d) (amOrg1 d) (amOrg2 d) (amOrg3 d) (amExt1 d) (amExt2 d) u ] ++
  List.replicate 17 false ++ [ decide (t.e 4 < 2 ∨ t.e 4 > 64), decide (t.e 0 < 3) ]

def mergeCheck (s : State) (o : Op) : State × Chk :=
  let d := o.desc
  if bits d 289 128 ≠ 0 then (s, .refuse ⟨1, false⟩)
  else s.tensorsThen (mergeRoles d) fun ts => mergeConds o (tensor ts 0) (tensor ts 1) ts[2]?

/-- A partial record. -/
def partRec (s : State) (t : TD) (i h b p : Nat) : RowSt :=
  let dim := t.e 0 - 2
  { m := s.el t [dim, i, h, b, p], l := s.el t [dim + 1, i, h, b, p],
    o := (List.range dim).map fun d => s.el t [d, i, h, b, p] }

/-- Combine the running record with partition p (R183). -/
def mergePart (st : Bool) (r q : RowSt) : RowSt :=
  if q.m = negInf then r
  else if r.m = negInf then { r with m := q.m, l := q.l, o := q.o }
  else
    let (mn, f0) := max32 st r.m q.m
    let up := gt32 st mn r.m
    let dn := gt32 st mn q.m
    let scaled := fun (b : Bool) (x : RowSt) =>
      if b then
        let (c, g1) := expDiff st x.m mn
        let (l, g2) := mul32 st x.l c
        let (o, g3) := scaleAll st c x.o
        (l, o, g1 ||| g2 ||| g3)
      else (x.l, x.o, 0)
    let (l, o, f1) := scaled up r
    let (lp, op, f2) := scaled dn q
    let (l, f3) := add32 st l lp
    let (o, f4) := addAll st o op
    { m := mn, l := l, o := o, fl := r.fl ||| f0 ||| f1 ||| f2 ||| f3 ||| f4, rescales := r.rescales + b2n up + b2n dn }

/-- The rows of an ATTN_MERGE on its partial records, output and optional record. -/
def mergePieces (op : Op) (ts : List TD) : List Piece :=
  let d := op.desc
  let t := tensor ts 0
  let u := tensor ts 1
  (attnRows t).map fun (p : Nat × Nat × Nat) =>
    let (i, h, b) := p
    ((List.range (t.e 4)).flatMap fun j => (List.range (t.e 0)).map fun k => (t.addr [k, i, h, b, j], 4),
      fun (s : State) =>
        let r := (List.range (t.e 4 - 1)).foldl (fun r j => mergePart (opStrict d) r (partRec s t i h b (j + 1)))
          (partRec s t i h b 0)
        writeRow s op u ts[2]?
          (fun k => keyIdx (amKeyEn d) (amOrg1 d) (amOrg2 d) (amOrg3 d) (amExt1 d) (amExt2 d) u k i h b) r i h b)

/-- Step 4 of ATTN_MERGE. -/
def mergeRun (s : State) (id : Nat) (op : Op) : State :=
  let ts := op.got.list
  let (s, w, f) := s.runPieces (mergePieces op ts)
  (s.attnAccount op.unit w (tensor ts 1).tid).worked id op f

/-- ATTN_MERGE (R183, R185). -/
def execAttnMerge (op : Nat) (s : State) : Out := .next (s.runOp 4 3 mergeCheck mergeRun op)

end Sys2Proof.Machine
end

