-- ==== Sys2Proof/Machine/Crib.lean ====
section
/-! DEFINITION. The crib: appending to, sharing and freeing pages, and the reclaim ring (R186 to R196, R200). -/
namespace Sys2Proof.Machine

/-! ### Metadata (R188) -/

/-- Write a number of n bytes; the failing address, if a narrow write cannot be made. -/
def State.putNum (s : State) (a n v : Nat) : State × Option Nat := s.writeMem a (leBytes n v)

/-- Read a number of n bytes. -/
def State.getNum (s : State) (a n : Nat) : State × Except CribEnd Nat :=
  match s.readMem a n with
  | (s, _, some x) => (s, .error (.ue x))
  | (s, bs, none) => (s, .ok (ofBytes bs))

/-- Address of place k of the free stack, and of the reclaim ring. -/
def State.stackAddr (s : State) (k : Nat) : Nat :=
  s.getO Obj.CRIB_META_BASE + 4 * s.getO Obj.CRIB_POOL_PAGES + 4 * k
def State.reclaimAddr (s : State) (k : Nat) : Nat :=
  s.getO Obj.CRIB_META_BASE + 8 * s.getO Obj.CRIB_POOL_PAGES + 16 * (k % max 1 (s.getO Obj.CRIB_POOL_PAGES))

/-- Take the page on top of the free stack and set its count to 1; the operation fails at entry n where the stack is
empty. -/
def State.allocPage (s : State) (n : Nat) : State × Except CribEnd Nat :=
  let k := s.getO Obj.CRIB_PAGES_FREE
  if k = 0 then (s, .error (.crib n))
  else
    match s.getNum (s.stackAddr (k - 1)) 4 with
    | (s, .error e) => (s, .error e)
    | (s, .ok p) =>
      match s.putNum (s.countAddr p) 4 1 with
      | (s, some a) => (s, .error (.ue a))
      | (s, none) =>
        let s := s.setO Obj.CRIB_PAGES_FREE (k - 1)
        (if k - 1 < s.getO Obj.CRIB_PAGES_FREE_MIN then s.setO Obj.CRIB_PAGES_FREE_MIN (k - 1) else s, .ok p)

/-- Put a page on the free stack. -/
def State.freePage (s : State) (p : Nat) : State × Option Nat :=
  let k := s.getO Obj.CRIB_PAGES_FREE
  match s.putNum (s.stackAddr k) 4 p with
  | (s, some a) => (s, some a)
  | (s, none) => (s.setO Obj.CRIB_PAGES_FREE (k + 1), none)

/-- Put a page on the reclaim ring with the number of the next fence (R194). -/
def State.pushReclaim (s : State) (p : Nat) : State × Option Nat :=
  let n := s.getO Obj.CRIB_PAGES_PENDING
  match s.putNum (s.reclaimAddr (s.ringHead + n)) 16 (p + s.getO Obj.CRIB_NEXT_FENCE * 2 ^ 64) with
  | (s, some a) => (s, some a)
  | (s, none) => (s.setO Obj.CRIB_PAGES_PENDING (n + 1), none)

/-- CRIB_RECLAIM: the entry at the head of the ring moves to the free stack, when every fence below its number has
been released (R194). A metadata word that cannot be read leaves it where it is. -/
def execCribReclaim (s : State) : Out :=
  if s.getO Obj.CRIB_PAGES_PENDING = 0 ∨ s.getO Obj.CRIB_POOL_STATE ≠ 1 then .next s
  else
    match s.getNum (s.reclaimAddr s.ringHead) 16 with
    | (s, .error _) => .next s
    | (s, .ok w) =>
      if s.fences.any fun (f : Nat) => decide (f < w / 2 ^ 64) then .next s
      else
        match s.freePage (w % 2 ^ 32) with
        | (s, some _) => .next s
        | (s, none) =>
          .next { s.setO Obj.CRIB_PAGES_PENDING (s.getO Obj.CRIB_PAGES_PENDING - 1) with
            ringHead := (s.ringHead + 1) % max 1 (s.getO Obj.CRIB_POOL_PAGES) }

/-! ### Bodies and checks (R191, R198) -/

/-- The body of a crib operation. -/
structure Crib where
  table : Nat
  aux0 : Nat
  aux1 : Nat
  seq : Nat
  dst : Nat
  entry0 : Nat
  entries : Nat
  rsvd : Nat
  deriving DecidableEq, Repr

def Crib.parse (d : Nat) : Crib :=
  { table := descAt d 469, aux0 := descAt d 426, aux1 := descAt d 383, seq := bits d 382 359, dst := bits d 358 335,
    entry0 := bits d 334 319, entries := bits d 318 303, rsvd := bits d 302 128 }

/-- A field that operation c does not use is not 0. -/
def Crib.unused (x : Crib) (c : Nat) : Bool :=
  decide (x.rsvd ≠ 0) || (decide (c = 0x10) && decide (x.entry0 ≠ 0 ∨ x.entries ≠ 0)) ||
    (decide (c = 0x11) && decide (x.aux1 ≠ 0)) || (decide (c = 0x12) && decide (x.aux0 ≠ 0 ∨ x.aux1 ≠ 0 ∨ x.dst ≠ 0))

def Crib.roles (x : Crib) (c : Nat) : List Role :=
  if c = 0x10 then [{ at_ := x.table, written := true, fmts := [2] }, { at_ := x.aux0 }, { at_ := x.aux1 }]
  else if c = 0x11 then [{ at_ := x.table, fmts := [2] }, { at_ := x.aux0, written := true, fmts := [2] }]
  else [{ at_ := x.table, written := true, fmts := [2] }]

/-- Not the shape of a page table (R187). -/
def tableBad (t : TD) : Bool := decide (t.e 0 > 32768 ∨ t.e 2 ≠ 1 ∨ t.e 3 ≠ 1 ∨ t.e 4 ≠ 1)

/-- The conditions of R198 that bear on crib operations, at their places in its list. -/
def cribConds (s : State) (o : Op) (c : Nat) (x : Crib) (ts : List TD) : List Bool :=
  let d := o.desc
  let t := ts.getD 0 (TD.parse 0)
  let u := ts.getD 1 (TD.parse 0)
  let v := ts.getD 2 (TD.parse 0)
  let new := fun (k : TD) (scale : Int) => decide (k.e 0 ≠ s.getO Obj.CRIB_PAGE_DIM ∨
    k.e 2 ≠ s.getO Obj.CRIB_PAGE_KV_HEADS ∨ k.fmt ≠ s.getO Obj.CRIB_PAGE_FMT ∨ k.sexp ≠ scale)
  let last := x.entry0 + x.entries + 1
  [ decide (opLeaveClass d ≠ if c = 0x10 then 2 else 0) || opNoexc d,
    tableBad t || (decide (c = 0x11) && tableBad u) ||
      (decide (c = 0x10) && decide (u.e 3 ≠ 1 ∨ u.e 4 ≠ 1 ∨ v.e 3 ≠ 1 ∨ v.e 4 ≠ 1)) ] ++
  List.replicate 20 false ++
  [ decide (s.getO Obj.CRIB_POOL_STATE ≠ 1),
    decide (x.seq ≥ t.e 1) || (decide (c = 0x11) && decide (x.dst ≥ u.e 1)),
    decide (c ≠ 0x10) && (decide (last > t.e 0) || (decide (c = 0x11) && decide (last > u.e 0))),
    decide (c = 0x10) && (new u (s.getI Obj.CRIB_K_SCALE) || new v (s.getI Obj.CRIB_V_SCALE) || decide (u.e 1 ≠ v.e 1)),
    decide (c = 0x10) && decide (x.dst + u.e 1 > 8388608 ∨ x.dst + u.e 1 > 256 * t.e 0) ]

/-- Assumption 24 (DEDUCED). -/
def cribCheck (c : Nat) (s : State) (o : Op) : State × Chk :=
  let x := Crib.parse o.desc
  if x.unused c then (s, .refuse ⟨1, false⟩) else s.tensorsThen (x.roles c) (cribConds s o c x)

/-! ### CRIB_APPEND (R192) -/

def unmapped : Nat := 0xFFFFFFFF

/-- A piece of 64 bytes of the copy of a page. -/
def pageCopy (a b k : Nat) : Piece := ([(a + 64 * k, 64)], fun s => { writes := [(b + 64 * k, s.peek (a + 64 * k) 64)] })

/-- The pieces that write one token's keys and values into its row of page p. -/
def rowPieces (s : State) (u v : TD) (p pos tok : Nat) : List Piece :=
  let dim := u.e 0
  let base := s.getO Obj.CRIB_POOL_BASE + p * s.cribPageBytes
  let one := fun (t : TD) (off d hk : Nat) =>
    (([(t.addr [d, tok, hk], t.esz)], fun (s : State) =>
      { writes := [(base + off + t.esz * (d + dim * (pos % 256 + 256 * hk)), leBytes t.esz (s.el t [d, tok, hk]))] }) : Piece)
  (List.range (u.e 2)).flatMap fun hk => (List.range dim).flatMap fun d =>
    [one u 0 d hk, one v (s.cribPageBytes / 2) d hk]

/-- The page into which entry n takes new rows: allocated where the entry is unmapped, copied where the page is
shared. -/
def State.appendPage (s : State) (t : TD) (seq n : Nat) : State × Except CribEnd Nat :=
  let ent := t.addr [n, seq]
  match s.getNum ent 4 with
  | (s, .error e) => (s, .error e)
  | (s, .ok p) =>
    if p = unmapped then
      match s.allocPage n with
      | (s, .error e) => (s, .error e)
      | (s, .ok q) =>
        match s.putNum ent 4 q with
        | (s, some a) => (s, .error (.ue a))
        | (s, none) => (s, .ok q)
    else if p ≥ s.getO Obj.CRIB_POOL_PAGES then (s, .error (.crib n))
    else
      match s.getNum (s.countAddr p) 4 with
      | (s, .error e) => (s, .error e)
      | (s, .ok c) =>
        if c = 0 then (s, .error (.crib n))
        else if c = 1 then (s, .ok p)
        else
          match s.allocPage n with
          | (s, .error e) => (s, .error e)
          | (s, .ok q) =>
            match s.putNum (s.countAddr p) 4 (c - 1) with
            | (s, some a) => (s, .error (.ue a))
            | (s, none) =>
              let pb := s.cribPageBytes
              let base := s.getO Obj.CRIB_POOL_BASE
              match s.runPieces ((List.range (pb / 64)).map (pageCopy (base + p * pb) (base + q * pb))) with
              | (s, _, some a) => (s, .error (.ue a))
              | (s, _, none) =>
                match s.putNum ent 4 q with
                | (s, some a) => (s, .error (.ue a))
                | (s, none) => (s.incO Obj.CRIB_COPIES, .ok q)

/-- The entries of an append, ascending. -/
def State.appendAll (s : State) (t u v : TD) (x : Crib) : List Nat → State × Option CribEnd
  | [] => (s, none)
  | n :: ns =>
    match s.appendPage t x.seq n with
    | (s, .error e) => (s, some e)
    | (s, .ok p) =>
      let toks := (List.range (u.e 1)).filter fun i => decide ((x.dst + i) / 256 = n)
      match s.runPieces (toks.flatMap fun i => rowPieces s u v p (x.dst + i) i) with
      | (s, _, some a) => (s, some (.ue a))
      | (s, _, none) => s.appendAll t u v x ns

/-- The end of step 4 of a crib operation. -/
def State.cribDone (s : State) (id : Nat) (op : Op) (f : Option CribEnd) : State :=
  match f with
  | none => s.worked id op none
  | some e => s.cribFail id op e

def appendRun (s : State) (id : Nat) (op : Op) : State :=
  let x := Crib.parse op.desc
  let ts := op.got.list
  let (t, u, v) := (tensor ts 0, tensor ts 1, tensor ts 2)
  match s.takeFence id op with
  | none => s.blockOp id op
  | some (s, op) =>
    let ns := (List.range ((x.dst + u.e 1 - 1) / 256 + 1)).filter fun n => decide (x.dst / 256 ≤ n)
    let (s, f) := s.appendAll t u v x ns
    (s.cribDone id op f).judge op.table

/-! ### CRIB_SHARE and CRIB_FREE (R193, R194) -/

/-- A mapped entry's page and count; none where the page does not exist. Assumption 31 (DEDUCED). -/
def State.entryCount (s : State) (t : TD) (seq n : Nat) : State × Except CribEnd (Option (Nat × Nat)) :=
  match s.getNum (t.addr [n, seq]) 4 with
  | (s, .error e) => (s, .error e)
  | (s, .ok p) =>
    if p = unmapped then (s, .ok none)
    else if p ≥ s.getO Obj.CRIB_POOL_PAGES then (s, .error (.crib n))
    else
      match s.getNum (s.countAddr p) 4 with
      | (s, .error e) => (s, .error e)
      | (s, .ok c) => (s, .ok (some (p, c)))

def State.shareAll (s : State) (t u : TD) (x : Crib) : List Nat → State × Option CribEnd
  | [] => (s, none)
  | n :: ns =>
    match s.entryCount t x.seq n with
    | (s, .error e) => (s, some e)
    | (s, .ok none) => s.shareAll t u x ns
    | (s, .ok (some (p, c))) =>
      match s.getNum (u.addr [n, x.dst]) 4 with
      | (s, .error e) => (s, some e)
      | (s, .ok q) =>
        if q ≠ unmapped ∨ c + 1 > 65535 then (s, some (.crib n))
        else
          match s.putNum (s.countAddr p) 4 (c + 1) with
          | (s, some a) => (s, some (.ue a))
          | (s, none) =>
            match s.putNum (u.addr [n, x.dst]) 4 p with
            | (s, some a) => (s, some (.ue a))
            | (s, none) => s.shareAll t u x ns

def State.freeAll (s : State) (t : TD) (x : Crib) : List Nat → State × Option CribEnd
  | [] => (s, none)
  | n :: ns =>
    match s.entryCount t x.seq n with
    | (s, .error e) => (s, some e)
    | (s, .ok none) => s.freeAll t x ns
    | (s, .ok (some (p, c))) =>
      if c = 0 then (s, some (.crib n))
      else
        match s.putNum (t.addr [n, x.seq]) 4 unmapped with
        | (s, some a) => (s, some (.ue a))
        | (s, none) =>
          match s.putNum (s.countAddr p) 4 (c - 1) with
          | (s, some a) => (s, some (.ue a))
          | (s, none) =>
            match (if c = 1 then s.pushReclaim p else (s, none)) with
            | (s, some a) => (s, some (.ue a))
            | (s, none) => s.freeAll t x ns

/-- Entries of a share or free. -/
def Crib.span (x : Crib) : List Nat := (List.range (x.entries + 1)).map (x.entry0 + ·)

def shareRun (s : State) (id : Nat) (op : Op) : State :=
  let x := Crib.parse op.desc
  let (s, f) := s.shareAll (tensor op.got.list 0) (tensor op.got.list 1) x x.span
  s.cribDone id op f

def freeRun (s : State) (id : Nat) (op : Op) : State :=
  let x := Crib.parse op.desc
  let (s, f) := s.freeAll (tensor op.got.list 0) x x.span
  s.cribDone id op f

/-- CRIB_APPEND. -/
def execCribAppend (op : Nat) (s : State) : Out := .next (s.runOp 4 0x10 (cribCheck 0x10) appendRun op)
/-- CRIB_SHARE. -/
def execCribShare (op : Nat) (s : State) : Out := .next (s.runOp 4 0x11 (cribCheck 0x11) shareRun op)
/-- CRIB_FREE. -/
def execCribFree (op : Nat) (s : State) : Out := .next (s.runOp 4 0x12 (cribCheck 0x12) freeRun op)

end Sys2Proof.Machine
end

