-- ==== Sys2Proof/Machine/Update.lean ====
section
/-! DEFINITION. The update engines: GROUP_STEP, GROUP_STEP_LOCAL and the application of an element (R204 to R225,
R229, R564). -/
namespace Sys2Proof.Machine

def updGroup (d : Nat) : Nat := bits d 511 504
def updFirst (d : Nat) : Nat := bits d 503 480
def updOffset (d : Nat) : Nat := bits d 479 454
def updLast (d : Nat) : Nat := bits d 453 430
def updGrad (d : Nat) : Nat := descAt d 387

/-! ### Step 1 (R210) -/

/-- The working descriptor does not match a managed group, or a scale slot follows the same tensor. -/
def State.workBad (s : State) (g w : Nat) : Bool :=
  let t := TD.parse w
  decide (s.getO Obj.GROUP_WORK_DESC g = 0 ∨ t.fmt ≠ 0 ∨ t.tid ≠ s.getO Obj.GROUP_WORK_TID g ∨
    t.elems ≠ s.getO Obj.GROUP_ELEMS g) || (s.slotOf (s.getO Obj.GROUP_WORK_TID g)).isSome

/-- The conditions of R210 in its order: operation code c, working descriptor w, gradient tensor t. -/
def updConds (s : State) (id : Nat) (o : Op) (c w : Nat) (t : TD) : List Bool :=
  let d := o.desc
  let g := updGroup d
  let last := s.getO Obj.GROUP_LAST_STEP g
  [ decide (opLeaveClass d ≠ 2) || opSround d || opNoexc d,
    decide (s.getO Obj.GROUP_ENABLE g = 0 ∨ s.getO Obj.GROUP_ELEMS g = 0 ∨ s.homeDie g = 0xFF),
    bit last 32 && decide (last % 2 ^ 32 = s.getO Obj.WINNOW_STEP),
    s.ops.any fun (p : Nat × Op) => decide (p.1 ≠ id ∧ opUnit p.2.desc = 6 ∧ updGroup p.2.desc = g ∧ p.2.phase ≠ .submitted),
    opStrict d && decide (s.getO Obj.GROUP_WROUND g = 1),
    decide (s.getO Obj.GROUP_WROUND g = 1 ∧ s.getO Obj.GROUP_WORK_TID g = 0),
    decide (s.getO Obj.GROUP_WSCALE_MODE g = 1) && s.workBad g w,
    decide (c = 1) && decide (updLast d < updFirst d ∨ updGrad d ≠ 0),
    decide (c = 2) && decide (updFirst d ≠ 0 ∨ updOffset d ≠ 0 ∨ updLast d ≠ 0 ∨ 1 < t.fmt ∨
      t.elems ≠ s.getO Obj.GROUP_ELEMS g ∨ inLp t.base (t.top - t.base) = false) ]

/-- The tensors whose descriptors the operation uses: the gradient of GROUP_STEP_LOCAL. -/
def updRoles (c d : Nat) : List Role := if c = 2 then [{ at_ := updGrad d }] else []

/-- The working tensor of a managed group: its elements are written, its format is for R210 to judge. -/
def State.workRoles (s : State) (g : Nat) : List Role :=
  let a := s.getO Obj.GROUP_WORK_DESC g
  if s.getO Obj.GROUP_WSCALE_MODE g = 1 ∧ a ≠ 0 then
    [{ at_ := a, written := true, stoch := decide (s.getO Obj.GROUP_WROUND g = 1), fmts := [0, 1, 2] }]
  else []

/-- Assumption 24 (DEDUCED). -/
def updCheck (c id : Nat) (s : State) (o : Op) : State × Chk :=
  let d := o.desc
  if bits d 386 128 ≠ 0 then (s, .refuse ⟨1, false⟩)
  else
    let own := updRoles c d
    match s.tensors (own ++ s.workRoles (updGroup d)) with
    | (s, .ok w) =>
      let work := ((w.tds.drop own.length).map (·.2)).headD 0
      (s, ({ w with tds := w.tds.take own.length } : Got).judged (updConds s id o c work (tensor w.list 0)))
    | r => r

/-! ### The rule (R213, R214, R223 to R225) -/

/-- Numeric flags and saturations of the engine of the group's home die (R224). -/
def State.updFlags (s : State) (g fl sats : Nat) : State :=
  let s := if s.homeDie g = 0 then s.orO Obj.UPDATE_FLAGS_CD0 (fl % 128) else s.orO Obj.UPDATE_FLAGS_CD1 (fl % 128)
  if sats = 0 then s else (s.incO Obj.UPDATE_SATURATIONS sats).incO Obj.SATURATION_TOTAL sats

def neg32 (c : Nat) : Nat := c ^^^ 2 ^ 31

/-- The group's scalars, the flags met, and the address of a learning-rate entry that cannot be read (R213). -/
def State.scalars (s : State) (op : Op) : State × UpdRun × Nat × Option Nat :=
  let g := updGroup op.desc
  let st := opStrict op.desc
  let one := 0x3F800000
  let b1 := s.getO Obj.GROUP_BETA1 g
  let b2 := s.getO Obj.GROUP_BETA2 g
  let (p1, f1) := mul32 st (s.getO Obj.GROUP_POW1 g) b1
  let (p2, f2) := mul32 st (s.getO Obj.GROUP_POW2 g) b2
  let (c1, f3) := sub32 st one p1
  let (c2, f4) := sub32 st one p2
  let (ob1, f5) := sub32 st one b1
  let (ob2, f6) := sub32 st one b2
  let n := s.getO Obj.GROUP_LRT_LEN g
  let lr := s.getO Obj.GROUP_LR g
  let at_ := s.getO Obj.GROUP_LRT_BASE g + 4 * min ((op.step + 2 ^ 32 - s.getO Obj.GROUP_LRT_STEP0 g) % 2 ^ 32) (n - 1)
  let (s, bs, ue) := if n = 0 then (s, [], none) else s.readMem at_ 4
  let (lr, f7) := if n = 0 then (lr, 0) else mul32 st lr (ofBytes bs)
  let (a, f8) := divN st lr c1
  let (nlw, f9) := mul32 st (neg32 lr) (s.getO Obj.GROUP_WDECAY g)
  (s, { group := g, t := (s.getO Obj.GROUP_STEP g + 1) % 2 ^ 32, p1 := p1, p2 := p2, c2 := c2, ob1 := ob1, ob2 := ob2,
        a := a, nlw := nlw, ws := s.getI Obj.GROUP_WSCALE g },
    f1 ||| f2 ||| f3 ||| f4 ||| f5 ||| f6 ||| f7 ||| f8 ||| f9, ue)

/-- The four addresses of element e. -/
def State.thetaAt (s : State) (g e : Nat) : Nat := s.getO Obj.GROUP_MASTER_BASE g + 4 * e
def State.workAt (s : State) (g e : Nat) : Nat := s.getO Obj.GROUP_WORK_BASE g + 2 * e
def State.mom1At (s : State) (g e : Nat) : Nat := s.getO Obj.GROUP_MOM1_BASE g + 4 * e
def State.mom2At (s : State) (g e : Nat) : Nat := s.getO Obj.GROUP_MOM2_BASE g + 4 * e

/-- R214 and R223 for element e with the gradient gin: the four writes, the flags, the saturation, and the largest
exponent. -/
def State.updElem (s : State) (op : Op) (r : UpdRun) (e gin : Nat) : Work :=
  let st := opStrict op.desc
  let g := r.group
  let rd := fun a => ofBytes (s.peek a 4)
  let b1 := s.getO Obj.GROUP_BETA1 g
  let b2 := s.getO Obj.GROUP_BETA2 g
  let clip := s.getO Obj.GROUP_CLIP g
  let (x, f1) := mul32 st gin (s.getO Obj.GROUP_GMUL g)
  let (x, f2) :=
    if clip % 2 ^ 31 = 0 then (x, 0)
    else
      let (y, h1) := min32 st clip x
      let (z, h2) := max32 st (neg32 clip) y
      (z, h1 ||| h2)
  let (h, f3) := mul32 st r.ob1 x
  let (m, f4) := fma32 st b1 (rd (s.mom1At g e)) h
  let (q, f5) := mul32 st x x
  let (q, f6) := mul32 st q r.ob2
  let (v, f7) := fma32 st b2 (rd (s.mom2At g e)) q
  let (vh, f8) := divN st v r.c2
  let (sq, f9) := sqrtN st vh
  let (d, f10) := add32 st sq (s.getO Obj.GROUP_EPS g)
  let (u, f11) := divN st m d
  let t0 := rd (s.thetaAt g e)
  let (t1, f12) := fma32 st r.nlw t0 t0
  let (t2, f13) := fma32 st (neg32 r.a) u t1
  let w := if s.getO Obj.GROUP_WROUND g = 1 ∧ st = false then
      some (winnowW (s.getO Obj.WINNOW_JOB_SEED) op.step (s.getO Obj.GROUP_WORK_TID g) purpWORK16
        (s.getO Obj.GROUP_KEY_ORG g + e) 0)
    else none
  let (tv, f14) := f32.read st t2
  let (k, f15) := Sys2Proof.Machine.deliver f16 st w r.ws tv
  { writes := [(s.thetaAt g e, leBytes 4 t2), (s.workAt g e, leBytes 2 k), (s.mom1At g e, leBytes 4 m),
      (s.mom2At g e, leBytes 4 v)],
    flags := f1 ||| f2 ||| f3 ||| f4 ||| f5 ||| f6 ||| f7 ||| f8 ||| f9 ||| f10 ||| f11 ||| f12 ||| f13 ||| f14 ||| f15,
    sats := if bit f15 6 then 1 else 0,
    top := (topOf k).map (· + r.ws) }

def State.elemPiece (s : State) (op : Op) (r : UpdRun) (e gin : Nat) : Piece :=
  ([(s.thetaAt r.group e, 4), (s.mom1At r.group e, 4), (s.mom2At r.group e, 4)],
    fun (s : State) => s.updElem op r e gin)

/-- The run after some more elements have been applied. -/
def UpdRun.applied (r : UpdRun) (n : Nat) (w : Work) : UpdRun :=
  { r with done := r.done + n, top := maxTop r.top w.top, sats := r.sats + w.sats }

/-- WMAX and WSAT of a managed group after an applied step (R225). -/
def State.recordWork (s : State) (r : UpdRun) : State :=
  let g := r.group
  { s with
    wmax := match r.top with
      | none => s.wmax
      | some e => SMap.set 0 s.wmax g (max (SMap.get 0 s.wmax g) (e + 32768).toNat)
    wsat := SMap.set 0 s.wsat g (SMap.get 0 s.wsat g + r.sats) }

/-- Write a scale into the SCALE_EXP field of a descriptor; the address at which this fails. -/
def State.setSexp (s : State) (a : Nat) (e : Int) : State × Option Nat :=
  match s.readMem a 32 with
  | (s, _, some x) => (s, some x)
  | (s, bs, none) => s.writeMem a (leBytes 32 (setBits (ofBytes bs) 187 180 (ofSigned 8 e)))

/-- The operation fails: what still arrives for it is discarded (R221, R229). Assumption 30 (DEDUCED). -/
def State.updFail (s : State) (id : Nat) (op : Op) (addr cause : Nat) : State :=
  let d := op.desc
  let g := updGroup d
  let s := if opCode d = 1 then
      { s with updDiscard := (updFirst d, updOffset d, updLast d, s.getO Obj.GROUP_ELEMS g) :: s.updDiscard }
    else s
  (s.failOp id op addr cause g).judgeHeld

/-- The record of a completed step (R215, R222). -/
def State.stepped (s : State) (op : Op) (r : UpdRun) : State :=
  let s := s.setO Obj.GROUP_LAST_STEP (2 ^ 32 + op.step) r.group
  s.setO Obj.GROUP_CENSUS_LAST (r.census % 2 ^ 64) r.group

/-- After the last element of an applied step (R215, R225). -/
def State.updEnd (s : State) (id : Nat) (op : Op) (r : UpdRun) : State :=
  let g := r.group
  let (s, f) := if s.getO Obj.GROUP_WSCALE_MODE g = 1 then s.setSexp (s.getO Obj.GROUP_WORK_DESC g) r.ws else (s, none)
  match f with
  | some a => s.updFail id op a 1
  | none =>
    let s := if s.getO Obj.GROUP_WSCALE_MODE g = 1 then s.recordWork r else s
    let s := s.setO Obj.GROUP_STEP r.t g
    let s := s.setO Obj.GROUP_POW1 r.p1 g
    let s := s.setO Obj.GROUP_POW2 r.p2 g
    (s.stepped op r).worked id op none

/-- A step that is not applied: SKIP completes, FAULT fails (R220, R221). Assumption 30 (DEDUCED). -/
def State.updSkip (s : State) (id : Nat) (op : Op) (r : UpdRun) : State :=
  let g := r.group
  if s.getO Obj.GROUP_NAN_POLICY g = 0 then
    let s := (s.incO Obj.GROUP_SKIPS 1 g).incO Obj.UPDATE_SKIPS
    (s.stepped op r).worked id op none
  else
    let s := s.post { reason := 0x0105, source := op.unit, tag := opTag op.desc, d0 := g, d1 := r.census % 2 ^ 32 }
    let s := (s.incO Obj.UPDATE_FAULTS).coreFailed op
    s.endOp id op

/-- A non-finite element applied although the census is 0 (R222). Assumption 30 (DEDUCED). -/
def State.lateNonFinite (s : State) (op : Op) (r : UpdRun) (e gin : Nat) : State :=
  if s.getO Obj.GROUP_NAN_POLICY r.group ≠ 1 ∧ f32.isFinite gin = false then
    (s.incO Obj.UPDATE_LATE_NONFINITE).post
      { reason := 0x0106, source := op.unit, tag := opTag op.desc, d0 := r.group, d1 := e % 2 ^ 32 }
  else s

/-- Operations armed on the engine of a die (R211). -/
def State.armed (s : State) (die id : Nat) : Nat :=
  (s.ops.filter fun (p : Nat × Op) => decide (p.1 ≠ id ∧ opUnit p.2.desc = 6 ∧ p.2.phase.begun ∧ p.2.die s = die)).length

/-! ### GROUP_STEP_LOCAL -/

/-- Elements of a tensor in logical order. -/
def TD.list (t : TD) : List (List Nat) := indices t.ext

/-- Assumption 30 (DEDUCED). -/
def localRun (s : State) (id : Nat) (op : Op) : State :=
  if s.armed (op.die s) id ≥ 16 then s.blockOp id op
  else
    let s := s.judge op.table
    let t := tensor op.got.list 0
    let g := updGroup op.desc
    let ix := t.list
    let bad := (ix.filter fun i => !t.flt.isFinite ((s.touch t.cells).1.el t i)).length
    let (s, seen) := if s.getO Obj.GROUP_NAN_POLICY g = 1 then (s, none) else s.touch (t.cells)
    match seen with
    | some a => s.updFail id op a 1
    | none =>
      if s.getO Obj.GROUP_NAN_POLICY g ≠ 1 ∧ bad ≠ 0 then s.updSkip id op { group := g, census := bad }
      else
        let (s, r, fl, ue) := s.scalars op
        let r := { r with census := bad }
        match ue with
        | some a => s.updFail id op a 1
        | none =>
          let s := s.updFlags g fl 0
          let gin := fun i => s.val t (opStrict op.desc) i
          let ps : List Piece := (ix.zipIdx).map fun (p : List Nat × Nat) =>
            ((t.addr p.1, t.esz) :: (s.elemPiece op r p.2 0).1, fun (s : State) =>
              let (y, f) := s.val t (opStrict op.desc) p.1
              let k := s.updElem op r p.2 y
              { k with flags := k.flags ||| f })
          let (s, w, f) := s.runPieces ps
          let s := s.updFlags g w.flags w.sats
          match f with
          | some a => (s.incO Obj.UPDATE_ELEMS_DONE (w.writes.length / 4)).updFail id op a 1
          | none =>
            let s := s.incO Obj.UPDATE_ELEMS_DONE t.elems
            let s := (ix.zipIdx).foldl (fun (s : State) (p : List Nat × Nat) => s.lateNonFinite op r p.2 (gin p.1).1) s
            s.updEnd id op (r.applied t.elems w)

/-- GROUP_STEP_LOCAL (R207, R209). -/
def execGroupStepLocal (op : Nat) (s : State) : Out := .next (s.runOp 6 2 (updCheck 2 op) localRun op)

/-! ### GROUP_STEP and its elements -/

def State.baleDone (s : State) (n : Nat) : Bool := s.balesDone.any fun (p : Nat × Nat × Nat) => decide (p.1 = n)

/-- Bale and position of place q of the concatenation of the bales in a list (R209). -/
def State.placeIn (s : State) : List Nat → Nat → Option (Nat × Nat)
  | [], _ => none
  | n :: ns, q =>
    match s.baleSize n with
    | none => none
    | some k => if q < k then some (n, q) else s.placeIn ns (q - k)

/-- Bale and position of element e of a range that starts at an offset of its first bale. -/
def State.elemPlace (s : State) (first offset last e : Nat) : Option (Nat × Nat) :=
  s.placeIn (baleSpan first last) (offset + e)

/-- The reduced element at a position, as it reaches the update engines, with the flags of R69: one that waits, or,
before its bale's end, a final value of a bale in flight that goes to them (R212, R256). Assumption 29 (DEDUCED). -/
def State.reduced (s : State) (n p : Nat) (early : Bool) : Option (Fl Nat) :=
  if s.discarded n p then none
  else if s.baleDone n then
    match SMap.get 0 s.updWait (waitKey n p) with
    | 0 => none
    | k + 1 => some (k, 0)
  else if early then
    ((s.ops.map (·.2)).find? fun (o : Op) => o.bale.any fun (b : Bale) => b.started && decide (b.n = n)).bind fun (o : Op) =>
      o.bale.bind fun (b : Bale) =>
        if b.gather ∧ b.lo ≤ p ∧ p < b.hi ∧ p ∉ b.used ∧ descAt o.desc 426 = 0 then
          some (scaleRead f16 (opStrict o.desc) b.scale (b.vals.getD p 0))
        else none
  else none

/-- An element has been taken by the engine. -/
def State.consume (s : State) (n p : Nat) : State :=
  if s.baleDone n then { s with updWait := SMap.set 0 s.updWait (waitKey n p) 0 }
  else
    { s with ops := s.ops.map fun (q : Nat × Op) =>
        (q.1, { q.2 with bale := q.2.bale.map fun (b : Bale) =>
          if b.n = n ∧ b.started then { b with used := p :: b.used } else b }) }

/-- Elements of an operation that wait now. -/
def State.waiting (s : State) (op : Op) : List (Nat × Nat × Nat) :=
  let d := op.desc
  (List.range (s.getO Obj.GROUP_ELEMS (updGroup d))).filterMap fun e =>
    (s.elemPlace (updFirst d) (updOffset d) (updLast d) e).bind fun x =>
      (s.reduced x.1 x.2 false).map fun _ => (e, x.1, x.2)

/-- The step of a GROUP_STEP is applied: its scalars are computed (R213), and the scale is that of the beginning of step 4
(R223). None where the operation has ended. Assumption 30 (DEDUCED). -/
def State.updDecide (s : State) (id : Nat) (op : Op) (census done : Nat) : State × Option (Op × UpdRun) :=
  let (s, r, fl, ue) := s.scalars op
  match ue with
  | some a => (s.updFail id op a 1, none)
  | none =>
    let ws := match op.upd with
      | some x => x.ws
      | none => r.ws
    let r := { r with census := census, done := done, decided := true, ws := ws }
    let op := { op with upd := some r }
    ((s.updFlags r.group fl 0).setOp id op, some (op, r))

/-- What the bales of an armed GROUP_STEP allow now: abandonment where one was aborted or an element is missing, the
decision of its policy, or its end (R215, R219, R263, R564). -/
def State.updAdvance (s : State) (id : Nat) : State :=
  match s.op? id with
  | none => s
  | some op =>
    match op.phase, op.upd with
    | .executing, some r =>
      let d := op.desc
      let ns := baleSpan (updFirst d) (updLast d)
      if s.balesAborted.any (ns.contains ·) then s.updFail id op 0 5
      else if ns.all s.baleDone then
        let census := ns.foldl (fun a n => a + ((s.balesDone.find? fun (p : Nat × Nat × Nat) => decide (p.1 = n)).elim 0 (·.2.2))) 0
        let r := { r with census := census }
        let have_ := s.waiting op
        let elems := s.getO Obj.GROUP_ELEMS r.group
        if have_.length + r.done < elems then s.updFail id op 0 6
        else if r.decided = false ∧ census ≠ 0 then
          ((have_.foldl (fun (s : State) (x : Nat × Nat × Nat) => s.consume x.2.1 x.2.2) s).updSkip id op r).judgeHeld
        else
          let (s, x) := if r.decided then (s, some (op, r)) else s.updDecide id op census r.done
          match x with
          | none => s
          | some (op, r) =>
            if r.done ≥ elems then s.updEnd id op { r with census := census } else s.setOp id { op with upd := some { r with census := census } }
      else s
    | _, _ => s

/-- Bring every armed GROUP_STEP up to date after a bale has ended or was aborted. -/
def State.updAdvanceAll (s : State) : State :=
  (s.ops.map (·.1)).foldl (fun (s : State) id =>
    match s.op? id with
    | some o => if opUnit o.desc = 6 ∧ opCode o.desc = 1 then s.updAdvance id else s
    | none => s) s

def groupRun (s : State) (id : Nat) (op : Op) : State :=
  if s.armed (op.die s) id ≥ 16 then s.blockOp id op
  else
    let s := s.judge op.table
    let g := updGroup op.desc
    if s.getO Obj.GROUP_NAN_POLICY g = 1 then (s.updDecide id op 0 0).1.updAdvance id
    else (s.setOp id { op with upd := some { group := g, ws := s.getI Obj.GROUP_WSCALE g } }).updAdvance id

/-- GROUP_STEP (R207, R213): the operation is armed. -/
def execGroupStep (op : Nat) (s : State) : Out := .next (s.runOp 6 1 (updCheck 1 op) groupRun op)

/-- UPDATE_ELEMENT_APPLY: the engine applies the rule to element e of an armed GROUP_STEP, when the element has arrived
and the policy has been decided (R212, R214, R219). Assumption 29 (DEDUCED). -/
def execUpdateElementApply (op e : Nat) (s : State) : Out :=
  match s.op? op with
  | none => .next s
  | some o =>
    match o.phase, o.upd with
    | .executing, some r =>
      let d := o.desc
      if r.decided = false ∨ e ≥ s.getO Obj.GROUP_ELEMS r.group then .next s
      else
        match s.elemPlace (updFirst d) (updOffset d) (updLast d) e with
        | none => .next s
        | some (n, p) =>
          match s.reduced n p (decide (s.getO Obj.GROUP_NAN_POLICY r.group = 1)) with
          | none => .next s
          | some (gin, fl) =>
            let s := (s.consume n p).orO Obj.REDUCE_FLAGS (fl % 128)
            let (s, w, f) := s.runPieces [s.elemPiece o r e gin]
            match f with
            | some a => .next (s.updFail op o a 1)
            | none =>
              let s := (s.updFlags r.group w.flags w.sats).incO Obj.UPDATE_ELEMS_DONE
              let s := s.lateNonFinite o r e gin
              match s.op? op with
              | none => .next s
              | some o => .next ((s.setOp op { o with upd := some (r.applied 1 w) }).updAdvance op).judgeHeld
    | _, _ => .next s

end Sys2Proof.Machine
end

