-- ==== Sys2Proof/Machine/Furrow.lean ====
section
/-! DEFINITION. Furrow tables: entries in table order, reservation and watch points, the actions of entries, overruns,
loads and swaps (R312 to R322, R329, R423, R425, R486). -/
namespace Sys2Proof.Machine

/-! ### Places in table order (R316) -/

def tableCount : Nat := 0x32C
/-- Entries that a bank of a table holds (R312). -/
def tableCap (t : Nat) : Nat := if t < 800 then 512 else if t < 0x328 then 1024 else if t < 0x32A then 512 else 256

/-- The entry takes part in an epoch. -/
def entRuns (e epoch : Nat) : Bool := decide (entKind e ≠ 0) && decide (epoch % 2 ^ entPer e = entPhase e)

/-- No entry of [from, to) takes part in its epoch. -/
def Table.skips (x : Table) (a b : Place) : Bool :=
  (List.range (b.epoch + 1 - a.epoch)).all fun k =>
    let ep := a.epoch + k
    let es := (x.bankFor ep).list
    (List.range es.length).all fun i =>
      !(entRuns (es.getD i 0) ep) || (decide (ep = a.epoch) && decide (i < a.entry)) ||
        (decide (ep = b.epoch) && decide (i ≥ b.entry))

/-- `p` is the first place from cursor `c` on that takes part in its epoch. -/
def Table.isNext (x : Table) (c p : Place) : Bool :=
  (decide (c.epoch < p.epoch) || (decide (c.epoch = p.epoch) && decide (c.entry ≤ p.entry))) &&
    (x.entry? p).any (fun e => entRuns e p.epoch) && x.skips c p

/-- The count at which an entry's beat falls, where the device takes its entries at all: RUNNING, and the beat lies
below the stop beat. -/
def State.entryBeat (s : State) (x : Table) (p : Place) : Option (Nat × Nat) :=
  match x.entry? p with
  | none => none
  | some e =>
    let b := s.beatAt p.epoch (entBeat e)
    if p.epoch ≥ s.getO Obj.SCHED_E0 ∧ s.meets b then some (e, b.toNat) else none

/-- The epoch has begun, and no step procedure keeps its entries from starting (R310, R331). -/
def State.stepOpen (s : State) (epoch : Nat) : Bool :=
  decide (epoch ≤ s.getO Obj.SCHED_EPOCH) && !s.stepPending epoch && s.stepDead.all (fun (b : Nat) => decide (epoch < b))

/-! ### Reservation points (R486) -/

/-- The cost that an entry reserves and its die; none where it is given nothing. Assumption 90 (DEDUCED). -/
def State.reserves (s : State) (t e : Nat) : State × Option (Nat × Nat) :=
  if entKind e = 3 then (s, some (s.leaveCost 6, dieOfUnit t))
  else if entKind e = 1 then
    match s.readDesc (entAddr e * 64) 64 with
    | (s, _, some _) => (s, none)
    | (s, d, none) =>
      let o : Op := { unit := t, stream := 4, desc := d }
      let c := (o.costOf s).1
      (s, if opLeavePre d ∧ c ≠ 0 then some (c, o.die s) else none)
  else (s, none)

/-- RESERVATION_POINT: the entry's reservation point is reached, and the allotment reserves its leave. -/
def execReservationPoint (table epoch entry : Nat) (s : State) : Out :=
  if table ≥ tableCount then .fault .noSuchUnit
  else
    let x := s.table table
    let p : Place := { epoch := epoch, entry := entry }
    match s.entryBeat x p with
    | none => .next s
    | some (e, b) =>
      if x.isNext x.resv p = false ∨
          s.count + s.getO Obj.ALMANAC_HOLD_LEAD + s.getO Obj.LEAVE_RESERVE_LEAD < b then .next s
      else
        let s := s.setTable table { x with resv := p.after }
        match s.reserves table e with
        | (s, none) => .next s
        | (s, some (c, die)) =>
          let r : Resv := { beat := b, table := table, entry := entry, epoch := epoch, cost := c, die := die }
          .next (({ s with resvs := s.resvs ++ [r] }).serveLeave.judge table)

/-- RESERVATION_RETRY: reservations that the pool could not cover are tried again. -/
def execReservationRetry (s : State) : Out := .next s.serveLeave

/-! ### Replays that threaten an entry (R413) -/

/-- log2 of the number of devices. -/
def State.levels (s : State) : Nat := s.devices.log2

/-- Code of the partner at device level j. -/
def State.partner (s : State) (j : Nat) : Nat := s.originOf (s.rank ^^^ 2 ^ (j - 1))

/-- Partners with which an exchange of either phase is open. -/
def Bale.openLevels (b : Bale) (levels : Nat) : List Nat :=
  ((List.range levels).map (· + 1)).filter fun j => !(b.gather && decide (b.lev < j))

/-- A bale in flight has a partner whose exchange is open and whose path uses the port. -/
def State.balePath (s : State) (p : Nat) (b : Bale) : Bool :=
  b.started && (b.openLevels s.levels).any fun j => decide (s.route (s.partner j) = some p)

def keyReplay (p : Nat) : Nat := 10020 + p

/-- A replay is under way on a port: whether it delays an open slot or a bale in flight so far that the port's next entry is
threatened is open (R413). Assumption 60 (DESIGN CHOICE). -/
def State.replayHold (s : State) (p : Nat) : State :=
  let x := s.table (0x320 + p)
  let busy := (s.slots.any fun (y : Slot) => decide (y.port = p)) ||
    s.ops.any fun (q : Nat × Op) => decide (q.2.phase = .executing) && q.2.bale.any (s.balePath p)
  match x.open_.head? with
  | some w =>
    if (s.port p).resend.isSome ∧ busy ∧ s.running then
      if Config.freeBit s.freeCtr then s.drew.setCond (keyReplay p) (some (s.watchBeat x w, rsnREPLAY)) else s.drew
    else s
  | none => s

/-- The same for the port of a table, where it is a port's. -/
def State.replayHoldOf (s : State) (t : Nat) : State :=
  if 800 ≤ t ∧ t < 0x328 then s.replayHold (t - 0x320) else s

/-! ### Watch points (R317, R425) -/

def sendSrc (d : Nat) : Nat := bits d 511 464
def sendDst (d : Nat) : Nat := bits d 463 416
def sendBytes (d : Nat) : Nat := bits d 415 384
def sendDest (d : Nat) : Nat := bits d 383 368

/-- The device exists in the field or farm. -/
def State.deviceExists (s : State) (code : Nat) : Bool :=
  decide (code % 1024 < s.fieldSize ∧ code / 1024 < s.linkCfg.fields)

/-- The first failing condition of R425 for a send of at most n frames. Assumption 47 (DEDUCED). -/
def State.sendFail (s : State) (d n : Nat) : Option Nat :=
  firstHolds
    [ decide (sendSrc d % 16 ≠ 0 ∨ sendDst d % 16 ≠ 0 ∨ sendBytes d = 0 ∨ sendBytes d % 16 ≠ 0 ∨ bits d 354 0 ≠ 0),
      inLp (sendSrc d) (sendBytes d) = false,
      decide (sendDest d = s.origin) || !s.deviceExists (sendDest d),
      decide (cdiv (sendBytes d + 16) 608 > n) ]

/-- What a watch point reads: the watch, after the checks of a send. A refused send posts OP_REFUSED and gives back its
leave. Assumption 47 (DEDUCED). -/
def State.watchEntry (s : State) (t e : Nat) (p : Place) : State × Watch :=
  let w : Watch := { epoch := p.epoch, entry := p.entry }
  if entKind e = 1 then
    match s.readDesc (entAddr e * 64) 64 with
    | (s, _, some _) => (s.dropReserved (some (t, p.epoch, p.entry)), { w with bad := true })
    | (s, d, none) => (s, { w with desc := d })
  else if entKind e = 3 ∧ entAddr e ≠ 0 then
    match s.readDesc (entAddr e * 64) 64 with
    | (s, _, some _) => (s.dropReserved (some (t, p.epoch, p.entry)), { w with bad := true })
    | (s, d, none) =>
      match s.sendFail d (entArg e) with
      | none => (s, { w with desc := d })
      | some n =>
        let s := s.post { reason := 0x0101, source := t, addr := entAddr e * 64, d1 := n }
        (s.dropReserved (some (t, p.epoch, p.entry)), { w with bad := true })
  else (s, w)

/-- UNIT codes that a table's unit accepts. -/
def unitOk (t u : Nat) : Bool :=
  if t < 800 then decide (1 ≤ u ∧ u ≤ 8) else if t < 0x328 then false else if t < 0x32A then decide (u = 5) else decide (u = 8)

/-- Put an operation of an entry into the table's furrow stream. -/
def State.submit (s : State) (t : Nat) (p : Place) (e d beat : Nat) (bale : Option Bale) : State :=
  s.submitOp { unit := t, stream := 4, descAddr := entAddr e * 64, desc := d, entry := some (t, p.epoch, p.entry),
               bale := bale, beat := beat } (unitOk t (opUnit d))

/-- WATCH_POINT: the watch point is reached; a START reads its descriptor, a BALE_REDUCE goes to the sequencer, and the
conditions are judged (R253, R317, R323). Assumption 49 (DEDUCED). -/
def execWatchPoint (table epoch entry : Nat) (s : State) : Out :=
  if table ≥ tableCount then .fault .noSuchUnit
  else
    let x := s.table table
    let p : Place := { epoch := epoch, entry := entry }
    match s.entryBeat x p with
    | none => .next s
    | some (e, b) =>
      if x.isNext x.watch p = false ∨ x.open_.length ≥ 16 ∨ s.count + s.getO Obj.ALMANAC_HOLD_LEAD < b then .next s
      else
        let (s, w) := s.watchEntry table e p
        let x := s.table table
        let s := s.setTable table { x with watch := p.after, open_ := x.open_ ++ [w] }
        let s := if entKind e = 1 ∧ w.bad = false ∧ isBale w.desc ∧ s.isStopped table 4 = false then
            s.submit table p e w.desc b (some { n := baleNum w.desc, elems := baleElems w.desc })
          else s
        .next (((s.judge table).judgeStep).replayHoldOf table)

/-! ### Overrun (R329) -/

/-- An entry that has not begun: it stands at or after the table's next one. -/
def Table.notBegun (x : Table) (p : Place) : Bool :=
  (decide (x.next.epoch < p.epoch) || (decide (x.next.epoch = p.epoch) && decide (x.next.entry ≤ p.entry))) &&
    (x.entry? p).any fun e => entRuns e p.epoch

/-- OVERRUN: the count has passed the beat of an entry that has not begun. -/
def execOverrun (table epoch entry : Nat) (s : State) : Out :=
  if table ≥ tableCount then .fault .noSuchUnit
  else
    let x := s.table table
    let p : Place := { epoch := epoch, entry := entry }
    match s.entryBeat x p with
    | none => .next s
    | some (e, b) =>
      if x.notBegun p ∧ s.count > b ∧ s.stepDead.all (fun (d : Nat) => decide (epoch < d)) then .next (s.overrunAt table p e b)
      else .next s

/-! ### The actions of entries (R314) -/

/-- The entry at a place when its action may begin: it is the table's next one, its watch point has been reached, its
beat has been reached, and no step procedure holds it. An entry that begins late is overrun. -/
def State.begin (s : State) (t : Nat) (p : Place) : Option (State × Nat × Watch) :=
  let x := s.table t
  match s.entryBeat x p, x.open_.find? fun (w : Watch) => decide (w.epoch = p.epoch ∧ w.entry = p.entry) with
  | some (e, b), some w =>
    if x.isNext x.next p ∧ b ≤ s.count ∧ s.stepOpen p.epoch then
      some (if b < s.count then s.overrunAt t p e b else s, e, w)
    else none
  | _, _ => none

/-- The furrow stream has room: no operation of it waits for step 1. Assumption 27 (DESIGN CHOICE). -/
def State.streamFree (s : State) (t : Nat) : Bool :=
  s.ops.all fun (p : Nat × Op) => !decide (p.2.unit = t ∧ p.2.stream = 4 ∧ p.2.phase = .submitted ∧ p.2.bale = none)

/-- FURROW_START: the descriptor is submitted; its entry begins with step 1 (R318). Nothing is issued from a stopped stream.
The entry of a BALE_REDUCE begins with BALE_START; it is passed here once its operation is gone without a start.
Assumption 3 (DESIGN CHOICE). -/
def execFurrowStart (table epoch entry : Nat) (s : State) : Out :=
  if table ≥ tableCount then .fault .noSuchUnit
  else
    let p : Place := { epoch := epoch, entry := entry }
    match s.begin table p with
    | none => .next s
    | some (s1, e, w) =>
      if entKind e ≠ 1 then .next s
      else if w.bad then .next (s1.passEntry table p)
      else if s.ops.any fun (q : Nat × Op) => decide (q.2.entry = some (table, epoch, entry)) then .next s
      else if isBale w.desc ∨ s.isStopped table 4 then
        .next ((s1.dropReserved (some (table, epoch, entry))).passEntry table p)
      else if s.streamFree table = false then .next s
      else .next ((s1.submit table p e w.desc 0 none).judge table)

/-- FURROW_SIGNAL. -/
def execFurrowSignal (table epoch entry : Nat) (s : State) : Out :=
  if table ≥ tableCount then .fault .noSuchUnit
  else
    let p : Place := { epoch := epoch, entry := entry }
    match s.begin table p with
    | none => .next s
    | some (s1, e, _) =>
      if entKind e ≠ 2 then .next s
      else .next (((s1.signal (entSem e) (entArg e % 65536)).stampEntry table e p).passEntry table p)

/-- FURROW_MARK. -/
def execFurrowMark (table epoch entry : Nat) (s : State) : Out :=
  if table ≥ tableCount then .fault .noSuchUnit
  else
    let p : Place := { epoch := epoch, entry := entry }
    match s.begin table p with
    | none => .next s
    | some (s1, e, _) =>
      if entKind e ≠ 4 then .next s
      else .next ((s1.event (eventTarget table) 2 table (entArg e) 0 p.entry).passEntry table p)

/-- The read of a send's source (R380, R407), and the blocks that could not be corrected. -/
def State.sendData (s : State) (d : Nat) : State × List Byte × List Nat :=
  let (s, bs, _) := s.readMem (sendSrc d) (sendBytes d)
  let bad := (List.range (sendBytes d / 16)).filter fun i =>
    match s.decodeCw (sendSrc d / 16 + i) with
    | .bad _ => true
    | _ => false
  (s, bs, bad)

/-- PORT_SLOT: the slot opens with its reserved leave and its send, if it has one, is queued (R423, R425). -/
def execPortSlot (table epoch entry : Nat) (s : State) : Out :=
  if table < 800 ∨ table ≥ 0x328 then .fault .noSuchUnit
  else
    let p : Place := { epoch := epoch, entry := entry }
    match s.begin table p with
    | none => .next s
    | some (s1, e, w) =>
      if entKind e ≠ 3 then .next s
      else if w.bad then .next (s1.passEntry table p)
      else
        match s1.resvs.find? fun (r : Resv) => decide (r.table = table ∧ r.epoch = epoch ∧ r.entry = entry) with
        | none => .next s
        | some r =>
          if r.made = false then .next s
          else
            let port := table - 0x320
            let s2 : State := { s1 with
              resvs := s1.resvs.filter fun (q : Resv) => !q.same r
              slots := s1.slots ++ [{ port := port, entry := entry, left := entArg e, leave := r.cost }] }
            let s3 := if entAddr e = 0 then s2
              else
                let d := w.desc
                let (s, bs, bad) := s2.sendData d
                (s.sendVc2 (sendDest d) 2 bs bad).emit (.send port (sendDest d) (sendDst d) (bits d 367 356) (bit d 355))
            .next (((s3.stampEntry table e p).passEntry table p).replayHold port)

/-! ### Loads and swaps (R315, R319 to R322) -/

/-- Kinds that a table accepts (R312). -/
def kindOk (t k : Nat) : Bool :=
  decide (k = 0 ∨ k = 4) || (if t < 800 then decide (k = 1 ∨ k = 2) else if t < 0x328 then decide (k = 3)
    else if t < 0x32A then decide (k = 1 ∨ k = 2) else decide (k = 1))

/-- A field of an entry has a reserved value. -/
def entReserved (t e : Nat) : Bool :=
  let k := entKind e
  decide (k > 4) || (decide (k ≠ 2) && decide (entSem e ≠ 0)) ||
    (decide (k = 2) && decide (entArg e = 0 ∨ entArg e > 65535)) || (decide (k = 1) && decide (entArg e ≠ 0)) ||
    (decide (k ≠ 1 ∧ k ≠ 3) && decide (entAddr e ≠ 0)) || (decide (k = 3) && decide (entArg e = 0)) ||
    (decide (k = 3) && decide (entAddr e ≠ 0) && !inLp (entAddr e * 64) 64) || (decide (k = 0) && decide (entArg e ≠ 0)) ||
    decide (t ≥ tableCount)

/-- The descriptor at `a` can be read, and names a unit that the table does not accept. -/
def State.unitBad (s : State) (t a : Nat) : Bool :=
  match s.readMem a 64 with
  | (_, bs, none) => !unitOk t (opUnit (ofBytes bs))
  | _ => false

/-- An entry fails R315 after entries whose beats end with `last`. -/
def State.entryBad (s : State) (t last e : Nat) : Bool :=
  let a := entAddr e * 64
  entReserved t e || !kindOk t (entKind e) || decide (entBeat e ≥ s.getO Obj.EPOCH_BEATS) || decide (entBeat e < last) ||
    decide (entPhase e ≥ 2 ^ entPer e) ||
    (decide (entKind e = 1) && !(inLp a 64 || (decide (t < 800) && inLoft t a 64))) ||
    (decide (entKind e = 1) && s.unitBad t a)

/-- The first entry that fails R315. -/
def State.firstBad (s : State) (t : Nat) : Nat → Nat → List Nat → Option Nat
  | _, _, [] => none
  | i, last, e :: es => if s.entryBad t last e then some i else s.firstBad t (i + 1) (entBeat e) es

/-- Read the descriptors of the START entries of a load: the flag says that one is uncorrectable. Assumption 46 (DEDUCED). -/
def State.readStarts (s : State) (t : Nat) : List Nat → State × Bool
  | [] => (s, false)
  | e :: es =>
    let a := entAddr e * 64
    if entKind e = 1 ∧ (inLp a 64 ∨ (t < 800 ∧ inLoft t a 64)) then
      let (s, _, ue) := s.readMem a 64
      let (s, r) := s.readStarts t es
      (s, ue.isSome || r)
    else s.readStarts t es

/-- Status of a load in FURROW_LOAD_STATUS. -/
def State.loadStatus (s : State) (n : Nat) : State := s.setO Obj.FURROW_LOAD_STATUS n

/-- The first beat of a swap epoch lies at or below the count plus HOLD_LEAD. -/
def State.swapNear (s : State) (e : Nat) : Bool :=
  s.running && decide (s.firstBeat e ≤ (s.count : Int) + s.getO Obj.ALMANAC_HOLD_LEAD)

/-- FURROW_LOAD_GO = 1 (R320). Assumption 46 (DEDUCED). -/
def State.furrowLoad (s : State) : State :=
  let t := s.getO Obj.FURROW_LOAD_TABLE
  let b := s.getO Obj.FURROW_LOAD_BANK
  let e := s.getO Obj.FURROW_LOAD_SWAP_EPOCH
  let x := s.table t
  if b = x.active then s.loadStatus 4
  else if x.swap.isSome then s.loadStatus 5
  else if s.load.isSome then s.loadStatus 7
  else if e ≠ 0xFFFFFFFF ∧ s.swapNear e then s.loadStatus 6
  else
    let l : FurrowLoad := { table := t, bank := b, src := s.getO Obj.FURROW_LOAD_SRC, entries := s.getO Obj.FURROW_LOAD_ENTRIES,
                            swap := e }
    ({ s with load := some l }).loadStatus 1

/-- The swap load of a pending epoch is unfinished at the watch point of its first beat (R322). -/
def State.judgeLoad (s : State) : State :=
  match s.load with
  | some l =>
    if l.swap ≠ 0xFFFFFFFF ∧ s.swapNear l.swap then s.setCond (keySwap l.table) (some ((s.firstBeat l.swap).toNat, rsnSWAP))
    else s
  | none => s

def Table.setBank (x : Table) (n : Nat) (b : Bank) : Table := if n = 0 then { x with bank0 := b } else { x with bank1 := b }

/-- Entries of a bank's image. -/
def entriesOf : Nat → List Byte → List Nat
  | 0, _ => []
  | n + 1, bs => ofBytes (bs.take 16) :: entriesOf n (bs.drop 16)

/-- FURROW_LOAD_COMPLETE: the entries are checked and the swap armed (R315, R319, R320). A table that holds nothing takes
up the present epoch. Assumption 48 (DEDUCED). -/
def execFurrowLoadComplete (s : State) : Out :=
  match s.load with
  | none => .next s
  | some l =>
    let (s, bs, ue) := s.readMem l.src (16 * l.entries)
    let es := entriesOf l.entries bs
    let bad := s.firstBad l.table 0 0 es
    let (s, ud) := if ue.isSome then (s, false) else s.readStarts l.table es
    let s := ({ s with load := none }).setCond (keySwap l.table) none
    let x := s.table l.table
    let here : Place := { epoch := s.getO Obj.SCHED_EPOCH, entry := 0 }
    let fresh := decide (x.bank0.entries = [] ∧ x.bank1.entries = [])
    let x := if fresh ∧ s.running then { x with next := here, watch := here, resv := here } else x
    if ue.isSome ∨ bad.isSome ∨ ud then
      let s := s.setTable l.table (x.setBank l.bank { entries := [], valid := false, stale := (x.bank l.bank).stale })
      let s := s.setO Obj.FURROW_LOAD_BAD_ENTRY (if ue.isSome then 0xFFFF else bad.getD 0xFFFF)
      .next (s.loadStatus (if ue.isSome ∨ bad = none then 9 else 8))
    else
      let x := x.setBank l.bank { entries := es }
      let arm := decide (l.swap ≠ 0xFFFFFFFF)
      let s := s.setTable l.table (if arm then { x with swap := some (l.bank, l.swap) } else x)
      let s := s.setO Obj.FURROW_LOAD_BAD_ENTRY 0xFFFF
      .next (s.loadStatus (if arm then 2 else 3))

/-- FURROW_LOAD_GO = 2 (R320). Assumption 46 (DEDUCED). -/
def State.furrowCancel (s : State) : State :=
  let t := s.getO Obj.FURROW_LOAD_TABLE
  let x := s.table t
  match x.swap with
  | none =>
    match s.load with
    | some l =>
      if l.table = t ∧ l.swap ≠ 0xFFFFFFFF ∧ s.swapNear l.swap = false then
        ({ s with load := some { l with swap := 0xFFFFFFFF } }).loadStatus 10
      else s.loadStatus 11
    | none => s.loadStatus 11
  | some (_, e) => if s.swapNear e then s.loadStatus 11 else (s.setTable t { x with swap := none }).loadStatus 10

/-- BANK_SWAP: the first beat of the swap epoch, or the START tick after it, is reached (R319, R321).
Assumption 3 (DESIGN CHOICE). -/
def execBankSwap (table : Nat) (s : State) : Out :=
  if table ≥ tableCount then .fault .noSuchUnit
  else
    let x := s.table table
    match x.swap with
    | none => .next s
    | some (b, e) =>
      if s.running ∧ (e ≤ s.getO Obj.SCHED_E0 ∨ s.firstBeat e ≤ s.count) then
        .next ((s.setTable table { x with active := b, since := e, swap := none }).incO Obj.SCHED_SWAPS)
      else .next s

end Sys2Proof.Machine
end

