-- ==== Sys2Proof/Machine/Reduce.lean ====
section
/-! DEFINITION. The reduction: BALE_REDUCE, the bale sequencer, the tree of additions over the devices, packets, aborts and
delivery (R233 to R257, R262, R263). -/
namespace Sys2Proof.Machine

/-! ### Fields of the body (R247) -/

def brKeyOrg (d : Nat) : Nat := bits d 425 378
def brTid (d : Nat) : Nat := bits d 328 305
def brContrib (d : Nat) : Nat := bits d 304 300
def brLocal (d : Nat) : Nat := bits d 299 295
def brTrigger (d : Nat) : Bool := bit d 294
def brFillSem (d : Nat) : Nat := bits d 293 282
def brFillCount (d : Nat) : Nat := bits d 281 266
def brFixed (d : Nat) : Int := toSigned 8 (bits d 265 258)
def brLeaf (d : Nat) : Nat := descAt d 469
def brResult (d : Nat) : Nat := descAt d 426

/-! ### Step 1 (R249) -/

def brRoles (d : Nat) : List Role :=
  { at_ := brLeaf d, fmts := [1] } :: (if brResult d = 0 then [] else [{ at_ := brResult d, written := true, fmts := [0] }])

/-- Assumption 51 (DEDUCED). -/
def brConds (s : State) (o : Op) (t : TD) (u : Option TD) : List Bool :=
  let d := o.desc
  let e := baleElems d
  [ decide (opLeaveClass d ≠ 3) || opNoexc d,
    o.entry.isNone,
    (!brTrigger d && (!opWsemEn d || decide (brFillSem d ≠ 0 ∨ brFillCount d ≠ 0))) || (brTrigger d && decide (brFillCount d = 0)),
    decide (2 * e > s.getO Obj.REDUCE_BALE_BYTES),
    decide (brContrib d = 0 ∨ brContrib d > 20 ∨ brContrib d ≠ brLocal d + s.levels),
    decide (t.fmt ≠ 1 ∨ t.sexp ≠ 0 ∨ t.e 0 ≠ e ∨ t.e 1 ≠ 2 ^ brLocal d ∨ t.e 2 ≠ 1 ∨ t.e 3 ≠ 1 ∨ t.e 4 ≠ 1) ||
      !(inLp t.base (t.top - t.base) || t.inLoftOf o.unit),
    u.any fun r => decide (r.fmt ≠ 0 ∨ r.rank ≠ 1 ∨ r.e 0 ≠ e) || !inLp r.base (r.top - r.base),
    decide (brKeyOrg d + e > 2 ^ 48),
    opSround d && decide (brTid d = 0),
    decide (baleNum d ≠ s.getO Obj.REDUCE_NEXT_BALE),
    decide (s.getO Obj.REDUCE_STAGE_BASE = 0) ]

/-- Assumption 24 (DEDUCED). -/
def brCheck (s : State) (o : Op) : State × Chk :=
  let d := o.desc
  if bits d 257 128 ≠ 0 then (s, .refuse ⟨1, false⟩)
  else s.tensorsThen (brRoles d) fun ts => brConds s o (tensor ts 0) ts[1]?

/-! ### One node (R235, R236) -/

/-- A rounding of the tree: code, flags. -/
structure Hop where
  st : Bool
  sr : Bool
  s : Int
  seed : Nat
  step : Nat
  tid : Nat
  org : Nat
  deriving DecidableEq, Repr

/-- The value of R54 for a node of element p. -/
def Hop.draw (h : Hop) (p level node : Nat) : Option Nat :=
  if h.sr ∧ h.st = false then some (winnowW h.seed h.step h.tid purpHOP (h.org + p) (level * 2 ^ 24 + node)) else none

/-- Narrow a leaf. -/
def Hop.leaf (h : Hop) (p u c : Nat) : Fl Nat :=
  let (v, f1) := f32.read h.st c
  let (k, f2) := deliver f16 h.st (h.draw p 0 u) h.s v
  (k, f1 ||| f2)

/-- An operand of a node: its represented value under the bale scale (R46, R69). A NaN sets no flag. -/
def Hop.read (h : Hop) (c : Nat) : Fl FV :=
  let (v, f1) := f16.read h.st c
  if v.isNan then (v, f1)
  else
    let (k, f2) := scaleRead f16 h.st h.s c
    (f32.decode k, f2)

/-- Two operands meet a special case of R235, which bypasses the stages of the adder (R241). -/
def Hop.special (h : Hop) (a b : Nat) : Bool :=
  match addFV (h.read a).1 (h.read b).1 with
  | (.fin _ m _, _) => decide (m = 0)
  | _ => true

/-- The exact sum of two represented values, rounded once. -/
def Hop.add (h : Hop) (p level node a b : Nat) : Fl Nat :=
  let (x, f1) := h.read a
  let (y, f2) := h.read b
  if x.isNan || y.isNan then (0x7E00, f1 ||| f2)
  else
    match addFV x y with
    | (.nan _, f) => (0x7E00, f1 ||| f2 ||| f)
    | (v, f) =>
      if v.isZero then (if h.st ∧ x.signOf ∧ y.signOf then 0x8000 else 0, f1 ||| f2)
      else
        let (k, f3) := deliver f16 h.st (h.draw p level node) h.s v
        (k, f1 ||| f2 ||| f ||| f3)

/-- What roundings come to: saturations, the largest exponent and the flags. -/
def hopWork (h : Hop) (r : Fl Nat) : Work :=
  { flags := r.2, sats := if bit r.2 6 then 1 else 0, top := (topOf r.1).map (· + h.s) }

/-- One level of the local tree over the codes of nodes from index `node` on. -/
def Hop.level (h : Hop) (p level : Nat) : Nat → List (Nat × Work) → List (Nat × Work)
  | node, (a, w1) :: (b, w2) :: rest =>
    let r := h.add p level node a b
    (r.1, (w1.join w2).join (hopWork h r)) :: h.level p level (node + 1) rest
  | _, _ => []

/-- Some pair of a list of codes goes through the adder's stages. -/
def Hop.checks (h : Hop) : List Nat → Bool
  | a :: b :: rest => !h.special a b || h.checks rest
  | _ => false

/-- Levels 1 to n of the local tree; `first` is the index of the first node of the level below. -/
def Hop.tree (h : Hop) (p : Nat) : Nat → Nat → Nat → List (Nat × Work) → List (Nat × Work)
  | 0, _, _, xs => xs
  | n + 1, level, first, xs => h.tree p n (level + 1) (first / 2) (h.level p level (first / 2) xs)

/-! ### Bale scales (R243, R244) -/

def State.bscaleAt (s : State) (n : Nat) : Nat := s.getO Obj.REDUCE_BSCALE_BASE + 64 * n

/-- The scale of bale n; the address of an entry that cannot be read. -/
def State.baleScale (s : State) (d n : Nat) : State × Int × Option Nat :=
  if n < s.getO Obj.REDUCE_BSCALE_ENTRIES then
    match s.readMem (s.bscaleAt n) 64 with
    | (s, _, some a) => (s, 0, some a)
    | (s, bs, none) =>
      let w := ofBytes bs
      (s, if bit w 160 then toSigned 8 (bits w 191 184) else brFixed d, none)
  else (s, brFixed d, none)

/-- Record the roundings of a bale: flags, saturations and its scale entry.
Assumptions 22 (DEDUCED), 23 (DESIGN CHOICE). -/
def State.recordBale (s : State) (n : Nat) (w : Work) : State :=
  let s := s.orO Obj.REDUCE_FLAGS (w.flags % 128)
  let s := if w.sats = 0 then s else (s.incO Obj.REDUCE_SATURATIONS w.sats).incO Obj.SATURATION_TOTAL w.sats
  if n < s.getO Obj.REDUCE_BSCALE_ENTRIES ∧ (w.sats ≠ 0 ∨ w.top ≠ none) then
    match s.readMem (s.bscaleAt n) 64 with
    | (s, _, some _) => s
    | (s, bs, none) =>
      let e := ofBytes bs
      if bit e 160 = false then s
      else
        let sat := bits e 223 192 + w.sats
        let s1 := if sat < 2 ^ 32 then s else s.drew
        let e := setBits e 223 192 (if sat < 2 ^ 32 then sat else s.free 32)
        let e := match w.top with
          | none => e
          | some x => setBits e 183 168 (stepMax (bits e 183 168) x)
        (s1.writeMem (s.bscaleAt n) (leBytes 64 e)).1
  else s

/-! ### Ranges and exchanges (R239, R250) -/

/-- The half that rank r keeps of a range at device level j. -/
def keepHalf (r j lo hi : Nat) : Nat × Nat :=
  let mid := lo + (hi - lo) / 2
  if bit r (j - 1) then (mid, hi) else (lo, mid)
def giveHalf (r j lo hi : Nat) : Nat × Nat :=
  let mid := lo + (hi - lo) / 2
  if bit r (j - 1) then (lo, mid) else (mid, hi)

/-- The range that rank r holds after device levels 1 to j. -/
def rangeAt (r elems : Nat) : Nat → Nat × Nat
  | 0 => (0, elems)
  | j + 1 => let (a, b) := rangeAt r elems j; keepHalf r (j + 1) a b

/-- The range that an exchange brings: the own half in the reduce phase, the partner's in the gather phase. -/
def exchRange (r elems x : Nat) : Nat × Nat :=
  if x < 32 then rangeAt r elems x
  else let (a, b) := rangeAt r elems (x - 33); giveHalf r (x - 32) a b

/-- Header and elements of a packet (R250). -/
def packetBytes (p : RedPacket) : List Byte :=
  leBytes 32 (p.bale * 2 ^ 232 + p.first * 2 ^ 207 + p.level * 2 ^ 202 + p.node * 2 ^ 182 + p.phase * 2 ^ 181 +
    b2n p.abort * 2 ^ 180 + (p.elems.length - 1) * 2 ^ 170 + ofSigned 8 p.scale * 2 ^ 162 + p.step * 2 ^ 130 + p.src * 2 ^ 114) ++
  p.elems.flatMap (leBytes 2)

def State.sendPacket (s : State) (dest : Nat) (p : RedPacket) : State :=
  let s := if (s.vc2Port dest).isSome then s.incO Obj.REDUCE_BYTES_SENT (32 + 2 * p.elems.length) else s
  s.sendVc2 dest 1 (packetBytes p)

/-- Split a range into packets of at most 1,024 elements; an empty range makes one packet with none.
Assumption 51 (DEDUCED). -/
def packets (vals : List Nat) (hi : Nat) : Nat → Nat → List (Nat × List Nat)
  | 0, _ => []
  | k + 1, lo =>
    let n := min 1024 (hi - lo)
    (lo, (vals.drop lo).take n) :: (if lo + n < hi then packets vals hi k (lo + n) else [])

/-- Send the values of a range to the partner of an exchange. -/
def State.sendRange (s : State) (o : Op) (b : Bale) (x lo hi : Nat) : State :=
  let d := o.desc
  let red := decide (x < 32)
  let j := if red then x else x - 32
  (packets b.vals hi (hi / 1024 + 1) lo).foldl (fun (s : State) (p : Nat × List Nat) =>
    s.sendPacket (s.partner j)
      { bale := b.n, first := p.1, level := if red then brLocal d + j - 1 else brContrib d,
        node := if red then s.rank / 2 ^ (j - 1) else 0, phase := if red then 0 else 1, scale := b.scale, step := o.step,
        src := s.origin, elems := p.2 }) s

/-- Everything that an exchange brings has been received. -/
def Bale.complete (b : Bale) (r x : Nat) : Bool :=
  let (lo, hi) := exchRange r b.elems x
  decide (SMap.get 0 b.got x = hi - lo + 1)

/-! ### The staging area (R254, R255). Assumption 106 (DESIGN CHOICE). -/

/-- Elements that the reduce exchanges before number x bring. -/
def stageOff (r elems : Nat) : Nat → Nat
  | 0 => 0
  | x + 1 => stageOff r elems x + (if x = 0 then 0 else let (lo, hi) := rangeAt r elems x; hi - lo)

/-- Where position p of an exchange lies in the staging area: the first buffer of the bale's pair holds the reduce exchanges
one after the other, the second the gather exchanges by position. -/
def State.stageAt (s : State) (b : Bale) (x p : Nat) : Nat :=
  let half := if x < 32 then 0 else 1
  let off := if x < 32 then stageOff s.rank b.elems x + (p - (exchRange s.rank b.elems x).1) else p
  s.getO Obj.REDUCE_STAGE_BASE + (2 * b.pair + half) * s.getO Obj.REDUCE_BALE_BYTES + 2 * off

/-- The exchange whose values the bale can use at once; those of any other are early. -/
def Bale.now (b : Bale) : Nat := if b.gather then 32 + b.lev else b.lev + 1

/-- Hold what a packet brings early. How the area holds it is not stated, so its bytes become open. -/
def State.stageIn (s : State) (b : Bale) (x : Nat) (p : RedPacket) : State × Bale :=
  if x = b.now ∨ p.elems = [] then (s, b)
  else (s.scramble (s.stageAt b x p.first) (2 * p.elems.length), { b with staged := (x, p.first, p.elems.length) :: b.staged })

/-- Read back what the staging area holds for an exchange; the flag says that a codeword is uncorrectable. -/
def State.stageOut (s : State) (b : Bale) (x : Nat) : State × Bool :=
  let mine := b.staged.filter fun (q : Nat × Nat × Nat) => decide (q.1 = x)
  let (s, f) := s.touch (mine.map fun (q : Nat × Nat × Nat) => (s.stageAt b x q.2.1, 2 * q.2.2))
  (s, f.isSome)

/-- Value received by an exchange. -/
def Bale.val (b : Bale) (x p : Nat) : Nat := SMap.get 0 b.recv (x * 2 ^ 26 + p) - 1

/-! ### Aborts (R242, R262, R263) -/

/-- A packet that waits in the receive buffer of a port leaves it (R409, R410). -/
def State.takePacket (s : State) (port : Nat) (p : RedPacket) : State :=
  match (s.port port).inbox.find? fun (m : Msg) => decide (m.bytes.drop 16 = padBlocks (packetBytes p)) with
  | none => s
  | some m => s.setPort port ({ s.port port with inbox := (s.port port).inbox.erase m }.free 2 m.bytes.length)

/-- A packet of a bale that has ended is discarded and counted (R251). -/
def State.latePacket (s : State) (port : Nat) (p : RedPacket) : State :=
  (s.takePacket port p).incO Obj.REDUCE_LATE_PACKETS

/-- The packets of bale n that wait in the receive buffers come out of them. -/
def State.dropEarly (s : State) (n : Nat) : State :=
  let s1 := { s with earlyPkts := s.earlyPkts.filter fun (q : Nat × RedPacket) => !decide (q.2.bale = n) }
  (s.earlyPkts.filter fun (q : Nat × RedPacket) => decide (q.2.bale = n)).foldl
    (fun (s : State) (q : Nat × RedPacket) => s.latePacket q.1 q.2) s1

/-- Abort a bale: headers to partners, the record, the counters, and the end of its operation and of the updates that it
covers. Assumption 51 (DEDUCED). -/
def State.baleAbort (s : State) (id : Nat) (o : Op) (b : Bale) (cause level adder stage : Nat) : State :=
  let d := o.desc
  let s := (b.openLevels s.levels).foldl (fun (s : State) j =>
    s.sendPacket (s.partner j)
      { bale := b.n, first := 0, level := brLocal d + j - 1, node := s.rank / 2 ^ (j - 1), phase := 0, abort := true,
        scale := b.scale, step := o.step, src := s.origin, elems := [] }) s
  let s := if cause = 1 then
      let s := s.incO Obj.REDUCE_RESIDUE_FAULTS
      let s := s.setO Obj.REDUCE_RESIDUE_LAST_ADDER adder
      let s := s.setO Obj.REDUCE_RESIDUE_LAST_STAGE stage
      let s := s.setO Obj.REDUCE_RESIDUE_LAST_BALE b.n
      s.setO Obj.REDUCE_RESIDUE_LAST_LEVEL level
    else s
  let s := s.post { reason := 0x0501, source := o.unit, tag := opTag d, d0 := b.n,
                    d1 := level + adder * 2 ^ 8 + stage * 2 ^ 16 + cause * 2 ^ 24 }
  let s := (s.incO Obj.REDUCE_ABORTED).coreFailed o
  let s := { s with abortedInStep := true, balesAborted := b.n :: s.balesAborted }
  let s := s.dropEarly b.n
  ((s.setCond (keyBale id) none).endOp id o).updAdvanceAll

/-- The tree level that a bale has reached. -/
def Bale.treeLevel (b : Bale) (d : Nat) : Nat := if b.gather then brContrib d else brLocal d + b.lev

/-! ### The end of a bale (R256, R257) -/

def State.baleEnd (s : State) (id : Nat) (o : Op) (b : Bale) : State :=
  let d := o.desc
  let census := (b.vals.filter fun c => !f16.isFinite c).length
  let finish := fun (s : State) =>
    let s := s.incO Obj.REDUCE_CENSUS_STEP census
    let s := { s with balesDone := s.balesDone ++ [(b.n, b.elems, census)] }
    ((s.setOp id { o with phase := .executed, bale := some b }).updAdvanceAll).judgeHeld
  if brResult d = 0 then
    let vs : List (Nat × Fl Nat) := (b.vals.zipIdx.filter fun (p : Nat × Nat) => !b.used.contains p.2).map
      fun (p : Nat × Nat) => (p.2, scaleRead f16 (opStrict d) b.scale p.1)
    let s := s.orO Obj.REDUCE_FLAGS ((vs.foldl (fun a (p : Nat × Fl Nat) => a ||| p.2.2) 0) % 128)
    finish { s with
      baleFrom := SMap.put s.baleFrom b.n (o.table + 1)
      updWait := vs.foldl (fun m (p : Nat × Fl Nat) => SMap.put m (waitKey b.n p.1) (p.2.1 + 1)) s.updWait }
  else
    let u := tensor o.got.list 1
    let (s, f) := s.writeAll ((b.vals.zipIdx).map fun (p : Nat × Nat) => (u.addr [p.2], leBytes 2 p.1))
    let (s, f) := match f with
      | some a => (s, some a)
      | none => s.setSexp (brResult d) b.scale
    match f with
    | some _ => s.baleAbort id o b 2 (brContrib d) 0 0
    | none => finish s

/-! ### Progress through the levels (R239, R254) -/

/-- The rounding of a bale's nodes. -/
def Bale.hop (b : Bale) (o : Op) (seed : Nat) : Hop :=
  { st := opStrict o.desc, sr := opSround o.desc, s := b.scale, seed := seed, step := o.step, tid := brTid o.desc,
    org := brKeyOrg o.desc }

/-- The adder's stages check some pair of device level j. -/
def Bale.checksAt (b : Bale) (h : Hop) (r j : Nat) : Bool :=
  let (lo, hi) := rangeAt r b.elems j
  (List.range (hi - lo)).any fun i => !h.special (b.vals.getD (lo + i) 0) (b.val j (lo + i))

/-- The reduction of the kept half at device level j: the new values and what the roundings come to. -/
def Bale.node (b : Bale) (o : Op) (seed r j : Nat) : List Nat × Work :=
  let d := o.desc
  let h := b.hop o seed
  let (lo, hi) := rangeAt r b.elems j
  let xs : List (Nat × Fl Nat) := (b.vals.zipIdx).map fun (p : Nat × Nat) =>
    if lo ≤ p.2 ∧ p.2 < hi then
      let mine := p.1
      let other := b.val j p.2
      (p.2, if bit r (j - 1) then h.add p.2 (brLocal d + j) (r / 2 ^ j) other mine
        else h.add p.2 (brLocal d + j) (r / 2 ^ j) mine other)
    else (p.2, (p.1, 0))
  (xs.map (·.2.1), xs.foldl (fun w (p : Nat × Fl Nat) =>
    if lo ≤ p.1 ∧ p.1 < hi then w.join (hopWork h p.2) else w) {})

/-- Carry a bale on as far as what it has received allows. `flip` and `level` say in which stage of the adder of which tree
level a bit is disturbed. Assumption 53 (DESIGN CHOICE). -/
def State.baleGo (s : State) (id : Nat) (flip level : Nat) : Nat → State
  | 0 => s
  | k + 1 =>
    match s.op? id with
    | none => s
    | some o =>
      match o.bale with
      | none => s
      | some b =>
        let r := s.rank
        let n := s.levels
        if o.phase ≠ .executing then s
        else if b.gather then
          if b.lev = 0 then s.baleEnd id o b
          else if b.complete r (32 + b.lev) then
            let j := b.lev
            let (a, z) := exchRange r b.elems (32 + j)
            let (lo, hi) := rangeAt r b.elems (j - 1)
            let (s, ue) := s.stageOut b (32 + j)
            if ue then s.baleAbort id o b 2 (brContrib o.desc) 0 0
            else
              let vals := (b.vals.zipIdx).map fun (p : Nat × Nat) => if a ≤ p.2 ∧ p.2 < z then b.val (32 + j) p.2 else p.1
              let b := { b with vals := vals, lo := lo, hi := hi, lev := j - 1 }
              let s := s.setOp id { o with bale := some b }
              let s := if j - 1 = 0 then s else s.sendRange o b (32 + (j - 1)) lo hi
              State.baleGo s id flip level k
          else s
        else if b.lev = n then
          let b := { b with gather := true }
          let s := s.setOp id { o with bale := some b }
          let s := if n = 0 then s else s.sendRange o b (32 + n) b.lo b.hi
          State.baleGo s id flip level k
        else if b.complete r (b.lev + 1) then
          let j := b.lev + 1
          let (lo, hi) := rangeAt r b.elems j
          let seed := s.getO Obj.WINNOW_JOB_SEED
          let (s, ue) := s.stageOut b j
          if ue then s.baleAbort id o b 2 (brLocal o.desc + j) 0 0
          else if flip ≠ 0 ∧ level = brLocal o.desc + j ∧ b.checksAt (b.hop o seed) r j then
            s.baleAbort id o b 1 level (SMap.get 0 b.via j) flip
          else
            let (vals, w) := b.node o seed r j
            let s := s.recordBale b.n w
            let b := { b with vals := vals, lo := lo, hi := hi, lev := j }
            let s := s.setOp id { o with bale := some b }
            let s := if j = n then s
              else
                let (p, q) := giveHalf r (j + 1) lo hi
                s.sendRange o b (j + 1) p q
            State.baleGo s id flip level k
        else s

/-- Steps that a bale can take at most. -/
def State.baleFuel (s : State) : Nat := 2 * s.levels + 4

/-! ### Packets (R251, R254) -/

/-- The exchange that a packet belongs to, when it is one that the receiver expects. -/
def State.packetExch (s : State) (o : Op) (b : Bale) (p : RedPacket) : Option Nat :=
  let d := o.desc
  let r := s.rank
  let n := s.levels
  let js := ((List.range n).map (· + 1)).find? fun j => decide (p.src = s.partner j)
  js.bind fun j =>
    let x := if p.phase = 0 then j else 32 + j
    let (lo, hi) := exchRange r b.elems x
    let fits := (decide (p.elems = []) && decide (lo = hi)) ||
      (decide (p.elems ≠ []) && decide (lo ≤ p.first ∧ p.first + p.elems.length ≤ hi))
    let place := if p.phase = 0 then decide (p.level = brLocal d + j - 1 ∧ p.node = (r / 2 ^ (j - 1)) ^^^ 1) && !b.gather &&
        decide (j > b.lev)
      else decide (p.phase = 1 ∧ p.level = brContrib d ∧ p.node = 0) && !(b.gather && decide (b.lev < j))
    if fits && place && decide (p.step = o.step ∧ p.scale = b.scale ∧ p.elems.length ≤ 1024) then some x else none

/-- Keep the elements of a packet that have not been received before. Assumption 51 (DEDUCED). -/
def Bale.take (b : Bale) (x port : Nat) (p : RedPacket) : Bale :=
  let fresh := (p.elems.zipIdx).filter fun (q : Nat × Nat) => decide (SMap.get 0 b.recv (x * 2 ^ 26 + p.first + q.2) = 0)
  { b with
    recv := fresh.foldl (fun m (q : Nat × Nat) => SMap.put m (x * 2 ^ 26 + p.first + q.2) (q.1 % 65536 + 1)) b.recv
    got := SMap.set 0 b.got x (max 1 (SMap.get 0 b.got x) + fresh.length)
    via := SMap.set 0 b.via x port }

/-- A packet for a bale in flight. One with elements marked uncorrectable aborts it (R262, R407). -/
def State.packetIn (s : State) (id : Nat) (o : Op) (b : Bale) (port : Nat) (p : RedPacket) (flip level : Nat) : State :=
  let s := s.takePacket port p
  if p.abort then s.baleAbort id o b 5 (b.treeLevel o.desc) 0 0
  else
    match s.packetExch o b p with
    | none => s.baleAbort id o b 3 (b.treeLevel o.desc) 0 0
    | some x =>
      if p.bad ≠ [] then s.baleAbort id o b 2 (b.treeLevel o.desc) 0 0
      else
        let (s, b) := s.stageIn b x p
        (s.setOp id { o with bale := some (b.take x port p) }).baleGo id flip level s.baleFuel

/-- The operation of bale n in flight. -/
def State.flying (s : State) (n : Nat) : Option (Nat × Op × Bale) :=
  s.ops.findSome? fun (p : Nat × Op) =>
    match p.2.bale with
    | some b => if b.started ∧ b.n = n then some (p.1, p.2, b) else none
    | none => none

/-- REDUCTION_PACKET_RECEIVE: `flip` is the stage of an adder in which a bit is disturbed in the work of tree level `level`,
0 for none. The data of a packet whose header is marked uncorrectable is not used. Assumptions 53 (DESIGN CHOICE),
105 (DESIGN CHOICE). -/
def execReductionPacketReceive (port : Nat) (p : RedPacket) (flip : Upset) (s : State) : Out :=
  if port ≥ 8 then .fault .noSuchUnit
  else if s.flows port = false then .next s
  else if p.bad.any fun i => decide (i < 2) then .next (s.takePacket port p)
  else
    match s.flying p.bale with
    | some (id, o, b) => .next (s.packetIn id o b port p (if flip.stage ≤ 3 then flip.stage else 0) flip.level)
    | none =>
      let next := s.getO Obj.REDUCE_NEXT_BALE
      if p.bale < next ∨ s.balesAborted.contains p.bale then .next (s.latePacket port p)
      else if p.bale = next then .next { s with earlyPkts := s.earlyPkts ++ [(port, p)] }
      else .next ((s.takePacket port p).post { reason := 0x0501, d0 := p.bale, d1 := 3 * 2 ^ 24 })

/-! ### The sequencer (R248, R252, R253). Assumption 49 (DEDUCED). -/
def State.inFlight (s : State) : Nat :=
  (s.ops.filter fun (p : Nat × Op) => p.2.bale.any (·.started)).length

/-- The condition of a bale that has been taken and cannot start yet. -/
def State.judgeBale (s : State) (id : Nat) (o : Op) (b : Bale) : State :=
  let late := !b.started && decide (o.phase ≠ .submitted) && (decide (o.phase ≠ .ready) || !b.fillTaken || decide (s.inFlight ≥ 8))
  let had := s.alm.conds.any fun (c : Cond) => decide (c.key = keyBale id)
  if late then
    let s := s.setCond (keyBale id) (some (o.beat, if o.phase = .waitLeave then rsnLEAVE else rsnUNIT_WAIT))
    if had then s else s.incO Obj.REDUCE_HOLDS
  else if had then s.setCond (keyBale id) none
  else s

/-- Bring the conditions of all bales up to date. -/
def State.judgeBales (s : State) : State :=
  s.ops.foldl (fun (s : State) (p : Nat × Op) =>
    match p.2.bale with
    | some b => if s.running ∧ s.alm.stop.all (fun (S : Nat) => decide (p.2.beat < S)) then s.judgeBale p.1 p.2 b else s
    | none => s) s

/-- An orphaned wait of a bale operation: R353, and the bale is aborted where it was the wait on FILL_SEM (R248).
Assumption 50 (DEDUCED). -/
def State.baleOrphan (s : State) (id : Nat) (o : Op) (b : Bale) : State :=
  if b.fillOrphan then
    let s := s.post { reason := 0x0102, source := o.unit, tag := opTag o.desc, addr := o.descAddr, d0 := brFillSem o.desc }
    let (s, sc, _) := s.baleScale o.desc b.n
    let s := (s.stopStream o.unit o.stream).baleAbort id { o with step := s.getO Obj.WINNOW_STEP } { b with scale := sc } 0
      (brLocal o.desc) 0 0
    s.dropReserved o.entry
  else (s.setCond (keyBale id) none).orphanWait id o

/-- The wait on FILL_SEM begins (R248). -/
def State.fillWait (s : State) (id : Nat) : State :=
  match s.op? id with
  | none => s
  | some o =>
    match o.bale with
    | none => s
    | some b =>
      if brTrigger o.desc = false then s.setOp id { o with bale := some { b with fillTaken := true } }
      else
        let (s, r) := s.semWaitOp (brFillSem o.desc) (brFillCount o.desc) false (.fill id)
        match r with
        | .granted => s.setOp id { o with bale := some { b with fillTaken := true } }
        | .orphan => s.baleOrphan id o { b with fillOrphan := true }
        | _ => s

/-- BALE_REDUCE: step 1, and the waits up to the bale's start. Bales pass step 1 in the order of their numbers: one whose
predecessor has not started waits. Nothing is issued from a stopped stream. Assumption 49 (DEDUCED). -/
def execBaleReduce (op : Nat) (s : State) : Out :=
  match s.op? op with
  | none => .next s
  | some o =>
    if isBale o.desc = false ∨ o.phase ≠ .submitted then .next s
    else if s.isStopped o.unit o.stream then .next ((s.endOp op o).dropReserved o.entry)
    else if o.bale.isSome ∧ s.ops.any fun (p : Nat × Op) => decide (p.1 < op) && p.2.bale.any (fun (b : Bale) => !b.started) then
      .next s
    else
      let s := (s.stepOne brCheck op o).fillWait op
      .next s.judgeBales

/-- OP_WAIT_GRANT: the wait of step 2 has ended; the operation goes to step 3, or ends by R353 or R248.
Assumption 25 (DESIGN CHOICE). -/
def execOpWaitGrant (op : Nat) (s : State) : Out :=
  match s.op? op with
  | none => .next s
  | some o =>
    match o.phase with
    | .semGranted => .next (((s.requestLeave op o).judge o.table).judgeBales)
    | .semOrphan =>
      match o.bale with
      | some b => .next (s.baleOrphan op o b)
      | none => .next (s.orphanWait op o)
    | _ => .next s

/-- The nodes of local level n of element p, with what the roundings up to them come to. -/
def State.localNodes (s : State) (o : Op) (b : Bale) (t : TD) (n p : Nat) : List (Nat × Work) :=
  let h := b.hop o (s.getO Obj.WINNOW_JOB_SEED)
  let l := 2 ^ brLocal o.desc
  let u0 := l * s.rank
  h.tree p n 1 u0 ((List.range l).map fun i =>
    let r := h.leaf p (u0 + i) (s.el t [p, i])
    (r.1, hopWork h r))

/-- The values of node(LOCAL_LOG2, r) for every element, with what the roundings come to. -/
def State.localTree (s : State) (o : Op) (b : Bale) (t : TD) : List (Nat × Work) :=
  (List.range b.elems).map fun p => (s.localNodes o b t (brLocal o.desc) p).headD (0, {})

/-- The local adder's stage checks some work of a level: the narrowing of a leaf, which has stage 3 only and bypasses it for
what has no significand, or a pair of nodes (R241). -/
def State.localChecks (s : State) (o : Op) (b : Bale) (t : TD) (flip level : Nat) : Bool :=
  let h := b.hop o (s.getO Obj.WINNOW_JOB_SEED)
  (List.range b.elems).any fun p =>
    if level = 0 then decide (flip = 3) && (List.range (2 ^ brLocal o.desc)).any fun i =>
      match (f32.read h.st (s.el t [p, i])).1 with
      | .fin _ m _ => decide (m ≠ 0)
      | _ => false
    else decide (1 ≤ flip ∧ flip ≤ 3 ∧ level ≤ brLocal o.desc) && h.checks ((s.localNodes o b t (level - 1) p).map (·.1))

/-- Pairs of staging buffers that no bale in flight uses. -/
def State.freePair (s : State) : Nat :=
  ((List.range 8).find? fun k => s.ops.all fun (q : Nat × Op) =>
    !q.2.bale.any fun (b : Bale) => b.started && decide (b.pair = k)).getD 0

/-- Some partner's traffic has no path (R262). -/
def State.pathLost (s : State) : Bool :=
  (List.range s.levels).any fun j => decide (s.vc2Port (s.partner (j + 1)) = none)

/-- The start of a bale, once its entry begins. Assumption 49 (DEDUCED). -/
def State.baleStart (s : State) (id flip level : Nat) : State :=
  match s.op? id with
  | none => s
  | some o =>
    match o.bale with
    | none => s
    | some b =>
      let d := o.desc
      let s := s.incO Obj.REDUCE_NEXT_BALE
      let b := { b with started := true, pair := s.freePair }
      let o := { o with phase := .executing, step := s.getO Obj.WINNOW_STEP, bale := some b }
      let s := { s.setOp id o with readyQ := s.readyQ.filter fun (x : Nat) => decide (x ≠ id) }
      let (s, sc, ue) := s.baleScale d b.n
      let b := { b with scale := sc, lo := 0, hi := b.elems }
      let o := { o with bale := some b }
      let t := tensor o.got.list 0
      let (s, bad) := s.touch t.cells
      if ue.isSome ∨ bad.isSome then (s.setOp id o).baleAbort id o b 2 0 0 0
      else if s.pathLost then (s.setOp id o).baleAbort id o b 4 (brLocal d) 0 0
      else if s.localChecks o b t flip level then
        (s.setOp id o).baleAbort id o b 1 level (8 + dieOfUnit o.unit) flip
      else
        let xs := s.localTree o b t
        let s := s.recordBale b.n (xs.foldl (fun w (p : Nat × Work) => w.join p.2) {})
        let b := { b with vals := xs.map (·.1) }
        let s := s.setOp id { o with bale := some b }
        let s := if s.levels = 0 then s
          else
            let (p, q) := giveHalf s.rank 1 0 b.elems
            s.sendRange o b 1 p q
        let s := s.baleGo id flip level s.baleFuel
        let early := s.earlyPkts.filter fun (q : Nat × RedPacket) => decide (q.2.bale = b.n)
        let s := { s with earlyPkts := s.earlyPkts.filter fun (q : Nat × RedPacket) => !decide (q.2.bale = b.n) }
        early.foldl (fun (s : State) (q : Nat × RedPacket) =>
          match s.flying b.n with
          | some (id, o, b) => s.packetIn id o b q.1 q.2 (if flip ≤ 3 then flip else 0) level
          | none => s.latePacket q.1 q.2) s

/-- BALE_START: the bale starts at its entry's beat, once it is ready, holds its leave and fits within the in-flight limit
(R252, R253). `flip` disturbs a bit of an adder.
Assumption 53 (DESIGN CHOICE). -/
def execBaleStart (op : Nat) (flip : Upset) (s : State) : Out :=
  match s.op? op with
  | none => .next s
  | some o =>
    match o.bale, o.entry with
    | some b, some (t, e, n) =>
      let p : Place := { epoch := e, entry := n }
      if o.phase ≠ .ready ∨ b.started ∨ b.fillTaken = false ∨ s.inFlight ≥ 8 ∨ b.n ≠ s.getO Obj.REDUCE_NEXT_BALE then .next s
      else
        match s.begin t p with
        | none => .next s
        | some (s1, w, _) =>
          .next ((((s1.stampEntry t w p).passEntry t p).setCond (keyBale op) none).baleStart op flip.stage flip.level).judgeBales
    | _, _ => .next s

end Sys2Proof.Machine
end

