-- ==== Sys2Proof/Machine/Almanac.lean ====
section
/-! DEFINITION. The almanac: ticks, beacons and discipline, holds and grants, start and stop of a schedule, epoch
boundaries and the IEEE 1588 association (R299 to R311, R323 to R331, R336, R414, R415). -/
namespace Sys2Proof.Machine

/-! ### Places in the domain (R303, R306, R400 to R402) -/

/-- Hops in a ring of n from coordinate c to 0, and whether they go in the − direction. -/
def ringHops (n c : Nat) : Nat × Bool := if 2 * c ≤ n then (c, true) else (n - c, false)

/-- In-field and inter-field hops of the tree path to the master (R303). -/
def State.treeHops (s : State) : Nat × Nat :=
  let cs := s.coordsOf s.origin
  let ns := s.rings4
  let W := max 1 s.linkCfg.ew
  let F := s.linkCfg.fields
  let (h, down) := ringHops (ns.getD 3 1) (cs.getD 3 0)
  let inter := if F ≤ 1 then 0 else if down then cs.getD 3 0 / W else F - cs.getD 3 0 / W
  let low := (List.range 3).foldl (fun a d => a + (ringHops (ns.getD d 1) (cs.getD d 0)).1) 0
  (low + (h - inter), inter)

/-- The port of the first step towards the master: the highest-order dimension whose coordinate is not 0. -/
def State.treePort (s : State) : Option Nat :=
  let cs := s.coordsOf s.origin
  ([3, 2, 1, 0].find? fun d => decide (cs.getD d 0 ≠ 0)).map fun d =>
    if (ringHops (s.rings4.getD d 1) (cs.getD d 0)).2 then 2 * d + 1 else 2 * d

/-- COORD of a device by its four ring coordinates (R414). -/
def State.coordField (s : State) (cs : List Nat) : Nat :=
  let W := max 1 s.linkCfg.ew
  (cs.getD 0 0 % 4) * 65536 + (cs.getD 1 0 % 4) * 16384 + (cs.getD 2 0 % 8) * 2048 + (cs.getD 3 0 % W % 8) * 256 +
    (cs.getD 3 0 / W % 64) * 4

/-- Ring coordinates of the neighbour on a port: the + direction of dimension p / 2 for an even port (R400). -/
def State.neighbour (s : State) (p : Nat) : List Nat :=
  let cs := s.coordsOf s.origin
  let n := max 1 (s.rings4.getD (p / 2) 1)
  let c := cs.getD (p / 2) 0
  cs.set (p / 2) (if p % 2 = 0 then (c + 1) % n else (c + n - 1) % n)

/-- Serial number a is higher than b, of w bits (R302). -/
def newer (w a b : Nat) : Bool :=
  let d := (a + 2 ^ w - b % 2 ^ w) % 2 ^ w
  decide (1 ≤ d ∧ d < 2 ^ (w - 1))

/-! ### Lock and its figures (R304 to R306, R326) -/

/-- The hold figures of an acquisition, from the largest measured one-way control latency between the master and a device
of the domain, ns (R326). -/
def State.holdFigures (s : State) (lmax : Nat) : State :=
  let path := cdiv (lmax + 40) (s.getO Obj.ALMANAC_BEAT_NS)
  let s := s.setO Obj.ALMANAC_PATH_TICKS path
  let s := s.setO Obj.ALMANAC_HORIZON (path + 10)
  s.setO Obj.ALMANAC_HOLD_LEAD (path + 10 + path + 2)

/-- A device's share of the bound, in tenths of a nanosecond. -/
def hopShare (p : Nat × Nat × Nat) : Nat := 4 * p.2.1 + 30 * p.2.2

/-- The farm bound for the two devices with the largest shares (R306). -/
def State.skewBound (s : State) : State :=
  if s.linkCfg.fields ≤ 1 then s.setO Obj.ALMANAC_SKEW_BOUND_NS 40
  else
    let pairs := ((s.origin, 0, 0) :: s.alm.hops).flatMap fun p => ((s.origin, 0, 0) :: s.alm.hops).map fun q =>
      if p.1 = q.1 then 0 else hopShare p + hopShare q
    s.setO Obj.ALMANAC_SKEW_BOUND_NS (cdiv (pairs.foldl max 0 + 200) 10)

/-- Enter LOCKED with these counters; a member reports its hops. A FIELD restart ends here (R497).
Assumption 38 (DESIGN CHOICE). -/
def State.lock (s : State) (t a g lmax : Nat) : State :=
  let s := s.setO Obj.ALMANAC_STATE 2
  let s := ((s.setO Obj.ALMANAC_TICK t).setO Obj.ALMANAC_COUNT a).setO Obj.ALMANAC_GRANT g
  let s := s.setO Obj.ALMANAC_HELD_BEATS (t - a)
  let s := if s.resetRun.map Prod.fst = some 5 then { s with resetRun := none }.setO Obj.RESET_STATUS 2 else s
  let s := s.holdFigures lmax
  let s := { s with alm := { s.alm with silent := 0 } }
  if s.isMaster then s.skewBound
  else
    let (hf, hi) := s.treeHops
    (s.emit (.hops s.origin hf hi)).toMaster (leBytes 16 (s.origin + hf * 2 ^ 16 + hi * 2 ^ 32))

/-- Enter LOST: 1 for silence, 2 for two masters (R304). Assumptions 39 (DESIGN CHOICE), 40 (DEDUCED). -/
def State.lose (s : State) (why : Nat) : State :=
  if s.getO Obj.ALMANAC_STATE = 3 then s else (s.setO Obj.ALMANAC_STATE 3).post { reason := 0x0401, d0 := why }

/-! ### The tick (R299, R324) -/

/-- The lowest beat that an outstanding hold names, with that hold. -/
def lowestHold : List Held → Option Held
  | [] => none
  | h :: hs =>
    match lowestHold hs with
    | none => some h
    | some k => if h.beat ≤ k.beat then some h else some k

/-- A count with the beat below a hold's and the stop beat as bounds. -/
def State.underCaps (s : State) (g : Nat) : Nat :=
  let g := match lowestHold s.alm.holds with
    | some h => min g (h.beat - 1)
    | none => g
  match s.alm.stop with
  | some b => min g (b - 1)
  | none => g

/-- The master's grant at a tick (R324). A hold that has brought the grant to the beat below it, or has come too late for
that, leaves it to RESUME. -/
def State.masterGrant (s : State) : State :=
  if s.isMaster = false ∨ s.alm.capped then s
  else
    let g := max (s.getO Obj.ALMANAC_GRANT) (s.underCaps (s.count + s.getO Obj.ALMANAC_HORIZON))
    let s := s.setO Obj.ALMANAC_GRANT g
    match lowestHold s.alm.holds with
    | some h =>
      if g + 1 ≥ h.beat then
        { s.setO Obj.HOLD_LAST_SOURCE h.origin with alm := { s.alm with capped := true } }
      else s
    | none => s

/-- The grant of a RESUME takes effect at its tick (R325). -/
def State.takeResume (s : State) : State :=
  match s.alm.resume with
  | some (t, g) =>
    if s.getO Obj.ALMANAC_TICK ≥ t then
      { s.setO Obj.ALMANAC_GRANT (max g (s.getO Obj.ALMANAC_GRANT)) with alm := { s.alm with resume := none, capped := false } }
    else s
  | none => s

/-- The count stands at the stop beat less 1. -/
def State.standsStopped (s : State) : Bool := s.alm.stop.any fun (b : Nat) => decide (s.count + 1 ≥ b)

/-- The count advances, or stands at the grant (R299). -/
def State.countBeat (s : State) : State :=
  let a := s.count
  if a = s.getO Obj.ALMANAC_GRANT then
    let s := s.setO Obj.ALMANAC_HELD_BEATS ((s.getO Obj.ALMANAC_HELD_BEATS + 1) % 2 ^ 64)
    if s.standsStopped then { s.setO Obj.HOLD_ACTIVE 0 with alm := { s.alm with stoodTicks := 0 } }
    else
      let s := s.setO Obj.HOLD_ACTIVE 1
      let s := if s.alm.own.isSome then s.incO Obj.HOLD_TICKS_SELF else s
      let s := match s.alm.holds.find? fun (h : Held) => decide (h.beat = a + 1) with
        | some h => s.setO Obj.HOLD_LAST_SOURCE h.origin
        | none => s
      { s with alm := { s.alm with stoodTicks := s.alm.stoodTicks + 1 } }
  else
    let s := s.setO Obj.ALMANAC_COUNT ((a + 1) % 2 ^ 64)
    let s := s.setO Obj.HOLD_ACTIVE 0
    let s := { s with alm := { s.alm with stoodTicks := 0 } }
    if s.alm.started then s.setO Obj.SCHED_BEAT_IN_EPOCH (s.epochOf (a + 1)).2 else s

/-- An event of the present tick is still to happen: the START tick, or the boundary that the count has reached. -/
def State.tickDue (s : State) : Bool :=
  s.alm.start.any (fun (p : Nat × Nat) => decide (s.getO Obj.ALMANAC_TICK ≥ p.2)) ||
    s.alm.e0Due || (s.alm.started && decide (s.getO Obj.SCHED_EPOCH ≠ (s.epochOf s.count).1))

/-- The conditions that a coming beat may raise: bales in flight and a swap load (R253, R322). -/
def State.judgeTick (s : State) : State := s.judgeLoad.judgeBales

/-- ALMANAC_TICK: one beat period passes. A master whose reference is stable becomes LOCKED, but not
while it enters FALLOW with its almanac FREE (R501). The ticks of a member in ACQUIRE count, so that stamps can be compared.
The largest control latency measured when an acquisition ends here (R326) is an open value.
Assumptions 5 (DESIGN CHOICE), 38 (DESIGN CHOICE), 39 (DESIGN CHOICE). -/
def execAlmanacTick (s : State) : Out :=
  let s := { s with alm := { s.alm with now := s.alm.now + 1 } }
  if s.getO Obj.ALMANAC_STATE < 2 then
    if s.isMaster ∧ 2 ≤ s.dev ∧ s.dev ≠ stFALLOW ∧ ¬(s.getO Obj.LP_STATE = 2 ∧ s.fallowStep ≥ 3) then
      let s := (s.setO Obj.ALMANAC_PARENT_PORT 0xFE).setO Obj.ALMANAC_DEPTH 0
      let s := { s with alm := { s.alm with heard := true, master := s.origin } }
      .next (s.drew.lock (s.getO Obj.ALMANAC_TICK) s.count (max (s.getO Obj.ALMANAC_GRANT) s.count) (Config.freeValue s.freeCtr))
    else if s.getO Obj.ALMANAC_STATE = 1 then .next (s.setO Obj.ALMANAC_TICK ((s.getO Obj.ALMANAC_TICK + 1) % 2 ^ 64))
    else .next s
  else if s.tickDue then .next s
  else
    let s := s.setO Obj.ALMANAC_TICK ((s.getO Obj.ALMANAC_TICK + 1) % 2 ^ 64)
    let s := { s with alm := { s.alm with silent := s.alm.silent + 1 } }
    .next s.takeResume.countBeat.masterGrant.judgeTick

/-! ### Beacons (R302, R303, R414) -/

/-- The six data blocks of a beacon. -/
def beaconBlocks (b : Beacon) : List Byte :=
  leBytes 96 (b.tick % 2 ^ 64 * 2 ^ 704 + b.count % 2 ^ 64 * 2 ^ 640 + b.grant % 2 ^ 64 * 2 ^ 576 + b.rxTick % 2 ^ 64 * 2 ^ 512 +
    b.txPs % 2 ^ 32 * 2 ^ 480 + b.rxPs % 2 ^ 32 * 2 ^ 448 + b.seq % 2 ^ 32 * 2 ^ 416 + b.id % 2 ^ 16 * 2 ^ 400 +
    b.rxId % 2 ^ 16 * 2 ^ 384 + b.master % 2 ^ 16 * 2 ^ 368 + b.beatNs % 2 ^ 16 * 2 ^ 352 + b.depth % 2 ^ 8 * 2 ^ 344 +
    b.coords % 2 ^ 18 * 2 ^ 326 + b.port % 8 * 2 ^ 323 + b2n b.ptpValid * 2 ^ 322 + b.ptpEpoch % 2 ^ 32 * 2 ^ 290 +
    b.ptpSec % 2 ^ 48 * 2 ^ 242 + b.ptpNs % 2 ^ 32 * 2 ^ 210)

/-- MASTER of a device that knows no master. Assumption 40 (DEDUCED). -/
def noMaster : Nat := 0xFFFF

/-- This device's beacon for a port, as BEACON_SEND asks for it. -/
def State.beaconFor (s : State) (p : Nat) : Beacon :=
  { beatNs := s.getO Obj.ALMANAC_BEAT_NS, master := if s.alm.heard then s.alm.master else noMaster, seq := s.alm.masterSeq,
    depth := s.getO Obj.ALMANAC_DEPTH, coords := s.coordField (s.coordsOf s.origin), port := p, ptpValid := s.alm.ptpNew,
    ptpEpoch := s.getO Obj.PTP_STAMP_EPOCH, ptpSec := s.getO Obj.PTP_STAMP_SECONDS, ptpNs := s.getO Obj.PTP_STAMP_NS }

/-- Queue a beacon on one port that sends frames: trained, or in CHECK (R417). -/
def State.beaconOn (s : State) (p : Nat) : State :=
  if s.portUp p ∨ s.getO Obj.PORT_STATE p = 2 then
    let x := s.port p
    s.setPort p { x with beacons := x.beacons ++ [s.beaconFor p] }
  else s

/-- An instant of this device's tick counter in picoseconds. -/
def State.instant (s : State) (tick ps : Nat) : Nat := tick * (1000 * s.getO Obj.ALMANAC_BEAT_NS) + ps

/-- What transmission fills into a beacon of a port, `txPs` after the tick (R414). Assumption 41 (DESIGN CHOICE). -/
def State.stamped (s : State) (p txPs : Nat) (b : Beacon) : Beacon :=
  let x := s.port p
  { b with tick := s.getO Obj.ALMANAC_TICK, count := s.count, grant := s.getO Obj.ALMANAC_GRANT, txPs := txPs,
           rxTick := x.rxTick, rxPs := x.rxPs, rxId := x.rxId, id := (x.beaconId + 1) % 65536 }

/-- The stamps of a neighbour's beacon that has arrived `rxPs` after the tick (R414). -/
def State.stampRx (s : State) (p rxPs : Nat) (b : Beacon) : State :=
  s.setPort p { s.port p with rxTick := s.getO Obj.ALMANAC_TICK, rxPs := rxPs, rxId := b.id }

/-- BEACON_SEND: a beacon on lane 0 of every trained port; the master advances its sequence number. -/
def execBeaconSend (s : State) : Out :=
  let st := s.getO Obj.ALMANAC_STATE
  let t := s.getO Obj.ALMANAC_TICK
  if s.getO Obj.ALMANAC_ROLE = 3 ∨ (st ≥ 2 ∧ (t % 8 ≠ 0 ∨ s.alm.sentAt = t + 1)) then .next s
  else
    let s := if s.isMaster then { s with alm := { s.alm with masterSeq := (s.alm.masterSeq + 1) % 2 ^ 32 } } else s
    let s := (List.range 8).foldl State.beaconOn s
    .next { s with alm := { s.alm with ptpNew := false, sentAt := t + 1 } }

/-- The neighbour's beacons arrive on a port: it is trained, and the last two beacon periods of eight ticks have brought
one. Assumption 101 (DESIGN CHOICE). -/
def State.beaconsArrive (s : State) (p : Nat) : Bool :=
  s.portUp p && decide (SMap.get 0 s.alm.heardAt p ≠ 0 ∧ s.alm.now < SMap.get 0 s.alm.heardAt p + 16)

/-- The parent port (R303): the tree port while its neighbour's beacons arrive, else the neighbour of lowest depth whose
beacons do. -/
def State.parentPort (s : State) : Option Nat :=
  match s.treePort.filter s.beaconsArrive with
  | some p => some p
  | none =>
    ((List.range 8).filter s.beaconsArrive).foldl (fun (best : Option Nat) q => match best with
      | none => some q
      | some b => if SMap.get 0 s.alm.depths q < SMap.get 0 s.alm.depths b then some q else some b) none

/-- Offset to a neighbour, own time less the neighbour's, and one-way latency, ps, from the stamps of an exchange: its
beacon `b` arrived now, and names the receipt of the own beacon sent at `t1` (R303). Ticks that are not valid yet count only
within one beat period. Assumption 38 (DESIGN CHOICE). -/
def State.beaconOffset (s : State) (rxPs : Nat) (b : Beacon) (t1 : Nat) : Int × Nat :=
  let there : Int := (s.instant b.rxTick b.rxPs : Int) - t1
  let back : Int := (s.instant (s.getO Obj.ALMANAC_TICK) rxPs : Int) - s.instant b.tick b.txPs
  let off := (back - there) / 2
  let beat : Int := 1000 * s.getO Obj.ALMANAC_BEAT_NS
  (if s.getO Obj.ALMANAC_STATE = 2 then off else (off + beat / 2) % beat - beat / 2, ((back + there) / 2).toNat)

/-- The measured offset to a neighbour exceeds the limit (R305). Skew is between equal ticks, so it is judged in LOCKED.
Assumption 38 (DESIGN CHOICE). -/
def State.skewAlarm (s : State) (p : Nat) (off : Int) : State :=
  if s.locked ∧ off.natAbs > 1000 * s.getO Obj.ALMANAC_SKEW_LIMIT_NS then
    (s.incO Obj.ALMANAC_SKEW_ALARMS).post { reason := 0x0402, d0 := p, d1 := ofSigned 32 off }
  else s

/-- A measured offset to the neighbour on a port, and the discipline where it is the parent. Assumption 38 (DESIGN CHOICE). -/
def State.discipline (s : State) (p : Nat) (b : Beacon) (off : Int) (lat lmax : Nat) : State :=
  let s := (s.setI Obj.ALMANAC_NEIGHBOUR_SKEW_PS off 0 p).skewAlarm p off
  if s.isMaster ∨ s.parentPort ≠ some p then s
  else
    let s := s.setI Obj.ALMANAC_OFFSET_PS off
    let good := if off.natAbs ≤ 2000 then s.alm.good + 1 else 0
    let s := { s with alm := { s.alm with good := good, phasePs := s.alm.phasePs - max (-1000) (min 1000 off) } }
    if s.getO Obj.ALMANAC_STATE = 1 ∧ good ≥ 256 then
      let d := lat / max 1 (1000 * s.getO Obj.ALMANAC_BEAT_NS)
      s.lock (b.tick + d) (min (b.count + d) b.grant) b.grant lmax
    else s

/-- A neighbour's own beacon: the stamps and depth it gives, the offset it completes, and the discipline by it. -/
def State.fromNeighbour (s : State) (p : Nat) (b : Beacon) (rxPs lmax : Nat) : State :=
  let s := { s with alm := { s.alm with
    depths := SMap.put s.alm.depths p (b.depth + 1)
    heardAt := SMap.put s.alm.heardAt p (s.alm.now + 1) } }
  let s := s.stampRx p rxPs b
  let s := if s.isMaster ∨ s.parentPort ≠ some p then s
    else (s.setO Obj.ALMANAC_PARENT_PORT p).setO Obj.ALMANAC_DEPTH ((b.depth + 1) % 256)
  match (s.port p).sent.lookup b.rxId with
  | none => s
  | some t1 =>
    let (off, lat) := s.beaconOffset rxPs b t1
    s.discipline p b off lat lmax

/-- A beacon that names another master: it is forwarded once for each of that master's numbers, and the almanac is lost
(R302, R304). -/
def State.otherMaster (s : State) (p : Nat) (b : Beacon) : State :=
  let last := SMap.get 0 s.alm.others b.master
  let s := if last = 0 ∨ newer 32 b.seq (last - 1) then
      let s := s.queueCtl p 2 (beaconBlocks b)
      { s with alm := { s.alm with others := SMap.put s.alm.others b.master (b.seq % 2 ^ 32 + 1) } }
    else s
  s.lose 2

/-- A beacon with a higher master sequence number is forwarded, and carries the grant and the 1588 stamp (R302, R307). -/
def State.newBeacon (s : State) (p : Nat) (b : Beacon) : State :=
  let s := s.queueCtl p 2 (beaconBlocks b)
  if s.isMaster then s
  else
    let s := { s with alm := { s.alm with masterSeq := b.seq, heard := true, master := b.master, silent := 0 } }
    let s := if s.getO Obj.ALMANAC_STATE = 2 then s.maxO Obj.ALMANAC_GRANT b.grant else s
    if b.ptpValid ∧ (b.ptpEpoch ≠ s.getO Obj.PTP_STAMP_EPOCH ∨ b.ptpSec ≠ s.getO Obj.PTP_STAMP_SECONDS ∨
        b.ptpNs ≠ s.getO Obj.PTP_STAMP_NS) then
      let s := ((s.setO Obj.PTP_STAMP_EPOCH b.ptpEpoch).setO Obj.PTP_STAMP_SECONDS b.ptpSec).setO Obj.PTP_STAMP_NS b.ptpNs
      { s with alm := { s.alm with ptpNew := true } }
    else s

/-- ALMANAC_LOST: a member has heard no newer master sequence number for ALMANAC_LOSS_TICKS ticks. -/
def execAlmanacLost (s : State) : Out :=
  if s.getO Obj.ALMANAC_STATE = 2 ∧ s.isMaster = false ∧ s.alm.silent ≥ s.getO Obj.ALMANAC_LOSS_TICKS then .next (s.lose 1)
  else .next s

/-- LOCK_HOPS_REPORT: the master receives a member's hop counts; a member passes them on towards it. Assumption 52 (DESIGN
CHOICE). -/
def execLockHopsReport (origin hf hi : Nat) (s : State) : Out :=
  if s.isMaster = false then .next (s.toMaster (leBytes 16 (origin % 2 ^ 16 + hf % 2 ^ 16 * 2 ^ 16 + hi % 2 ^ 16 * 2 ^ 32)))
  else
    let rest := s.alm.hops.filter fun (p : Nat × Nat × Nat) => decide (p.1 ≠ origin)
    .next (({ s with alm := { s.alm with hops := (origin, hf, hi) :: rest } }).skewBound)

/-! ### Control messages (R302, R324, R325, R330, R415) -/

/-- A control message arrives: it is forwarded once for each originator and number, and later copies are discarded. -/
def State.takeCtl (s : State) (port kind : Nat) (m : Ctl) : Option State :=
  let key := m.origin % 65536 * 2 ^ 24 + m.seq % 2 ^ 24
  if s.portUp port = false ∨ s.getO Obj.ALMANAC_ROLE = 3 ∨ s.alm.seen.contains key then none
  else
    let s := { s with alm := { s.alm with seen := key :: s.alm.seen } }
    some (s.queueCtl port 3 (ctlBlocks kind m))

/-- A HOLD or RELEASE of its origin that is newer than the last one applied. -/
def State.freshFrom (s : State) (m : Ctl) : Bool :=
  let last := SMap.get 0 s.alm.lastMsg m.origin
  decide (last = 0) || newer 24 m.seq (last - 1)

def State.heardFrom (s : State) (m : Ctl) : State :=
  { s with alm := { s.alm with lastMsg := SMap.put s.alm.lastMsg m.origin (m.seq % 2 ^ 24 + 1) } }

/-- HOLD. -/
def execHold (port : Nat) (m : Ctl) (s : State) : Out :=
  if port ≥ 8 then .fault .noSuchUnit
  else
    match s.takeCtl port ctlHOLD m with
    | none => .next s
    | some s =>
      if s.freshFrom m then
        .next ((s.heardFrom m).masterHold { origin := m.origin, beat := m.x, reason := m.y, seq := m.seq })
      else .next s

/-- RELEASE. -/
def execRelease (port : Nat) (m : Ctl) (s : State) : Out :=
  if port ≥ 8 then .fault .noSuchUnit
  else
    match s.takeCtl port ctlRELEASE m with
    | none => .next s
    | some s => if s.freshFrom m then .next ((s.heardFrom m).masterRelease m.origin) else .next s

/-- RESUME: Tres, and the grant as its rise. -/
def execResume (port : Nat) (m : Ctl) (s : State) : Out :=
  if port ≥ 8 then .fault .noSuchUnit
  else
    match s.takeCtl port ctlRESUME m with
    | none => .next s
    | some s => .next { s with alm := { s.alm with resume := some (m.x, s.getO Obj.ALMANAC_GRANT + m.y) } }

/-- MASTER_RESUME. -/
def execMasterResume (s : State) : Out :=
  let g := s.getO Obj.ALMANAC_GRANT
  let gn := s.underCaps (g + s.getO Obj.ALMANAC_HORIZON)
  let path := s.getO Obj.ALMANAC_PATH_TICKS
  if s.isMaster ∧ s.alm.capped ∧ s.alm.resume = none ∧ s.count = g ∧ s.alm.stoodTicks ≥ path ∧ gn > g then
    let t := s.getO Obj.ALMANAC_TICK + path + 4
    let s := { s with alm := { s.alm with resume := some (t, gn) } }
    .next (s.flood ctlRESUME t (gn - g))
  else .next s

/-- The count has stood for the hold limit. Assumption 43 (DEDUCED). -/
def State.stoodOut (s : State) : Bool :=
  decide (s.getO Obj.HOLD_ACTIVE = 1 ∧
    s.alm.stoodTicks * s.getO Obj.ALMANAC_BEAT_NS ≥ s.getO Obj.ALMANAC_HOLD_LIMIT_MS * 1000000)

/-- A hold limit stops the schedule at beat G + 1: the record names the oldest outstanding hold (R328).
Assumption 43 (DEDUCED). -/
def State.limitStop (s : State) : State :=
  let b := s.getO Obj.ALMANAC_GRANT + 1
  let h : Held := s.alm.holds.headD { origin := s.getO Obj.HOLD_LAST_SOURCE, beat := 0, reason := 0, seq := 0 }
  let s := if s.alm.stopAsked then s
    else { s.setO Obj.SCHED_STOP_REASON 0x0403 with alm := { s.alm with stopAsked := true } }
  let s := if s.isMaster then (s.stopAt b).flood ctlSTOP b 0 else s.stopAt b
  let s := (s.setO Obj.HOLD_LAST_SOURCE h.origin).setO Obj.HOLD_LAST_REASON h.reason
  s.post { reason := 0x0403, d0 := h.origin, d1 := h.reason }

/-- HOLD_LIMIT, on the master; a count that stands below a stop beat fixed before stops here too. -/
def execHoldLimit (s : State) : Out :=
  if s.isMaster ∧ s.running ∧ s.stoodOut then .next s.limitStop else .next s

/-! ### Start (R311) -/

/-- SCHED_START on the master, once its checks have passed: a start tick is picked and START flooded. -/
def State.schedStart (s : State) (e0 : Nat) : State :=
  let t := s.getO Obj.ALMANAC_TICK + s.getO Obj.ALMANAC_PATH_TICKS + 4
  let s := { s with alm := { s.alm with start := some (e0, t) }, fieldFirst := none, fieldStamps := [] }
  let s := s.setO Obj.FIELD_RECORDS 0
  s.flood ctlSTART t e0

/-- START: the message carries Tst, and E0 in full. -/
def execStart (port : Nat) (m : Ctl) (s : State) : Out :=
  if port ≥ 8 then .fault .noSuchUnit
  else
    match s.takeCtl port ctlSTART m with
    | none => .next s
    | some s => .next { s with alm := { s.alm with start := some (m.y % 2 ^ 32, m.x) } }

/-- A table takes up epoch E0 from its first entry, and its active bank serves all of it (R316).
Assumption 48 (DEDUCED). -/
def Table.restart (x : Table) (e0 : Nat) : Table :=
  let p : Place := { epoch := e0, entry := 0 }
  { x with since := e0, next := p, watch := p, resv := p, open_ := [], overrun := [] }

/-- What the START tick sets on every device; its ports carry traffic again (R420). What an exchange or a bale of the
schedule before has left in the receive buffers belongs to no step of this one. Assumption 102 (DEDUCED). -/
def State.takeStart (s : State) (e0 : Nat) : State :=
  let a := s.count
  let s := ((s.setO Obj.SCHED_E0 e0).setO Obj.SCHED_E0_COUNT a).setO Obj.SCHED_EPOCH e0
  let s := s.setO Obj.SCHED_BEAT_IN_EPOCH 0
  let s := s.maxO Obj.ALMANAC_GRANT (a + s.getO Obj.ALMANAC_HORIZON)
  { s with
    alm := { s.alm with start := none, resume := none, stop := none, stopAsked := false, capped := false, stoodTicks := 0,
                        started := true, e0Due := true, fatal := false }
    stepDead := none
    censusRecv := []
    earlyPkts := []
    ports := s.ports.map fun (p : Nat × Port) => (p.1, { p.2 with cut := false })
    tables := s.tables.map fun (p : Nat × Table) => (p.1, p.2.restart e0)
    resvs := [] }

/-- START_TICK: the device enters RUNNING, or records that it could not. One whose clocks P1 has gated raises a hold
(R500). -/
def execStartTick (s : State) : Out :=
  match s.alm.start with
  | none => .next s
  | some (e0, t) =>
    if s.getO Obj.ALMANAC_TICK < t then .next s
    else
      let ok := s.readyOrStopped && s.locked && decide (s.getO Obj.LP_STATE ≠ 2) &&
        decide (s.getO Obj.FW_UPDATE_STATUS ≠ 1 ∧ s.getO Obj.FW_UPDATE_STATUS ≠ 2)
      let d := s.dev
      let s := s.takeStart e0
      let s := if ok then s.setDev stRUNNING else (s.post { reason := 0x0408, d0 := d }).askStop 0x0408
      .next (if ok ∧ s.getO Obj.LP_STATE = 1 then s.holdNow keyP1 rsnCLOCK else s)

/-! ### Stop (R330, R331) -/

/-- STOP_REQUEST: the master fixes the stop beat for the first one. -/
def execStopRequest (port : Nat) (m : Ctl) (s : State) : Out :=
  if port ≥ 8 then .fault .noSuchUnit
  else
    match s.takeCtl port ctlSTOPREQ m with
    | none => .next s
    | some s => .next (if s.isMaster then s.askStop (m.x % 65536) else s)

/-- STOP: the stop beat; one at G + 1 after the hold limit's time is that of R328. Assumption 43 (DEDUCED). -/
def execStop (port : Nat) (m : Ctl) (s : State) : Out :=
  if port ≥ 8 then .fault .noSuchUnit
  else
    match s.takeCtl port ctlSTOP m with
    | none => .next s
    | some s =>
      if s.stoodOut ∧ m.x = s.getO Obj.ALMANAC_GRANT + 1 ∧ s.alm.stop ≠ some m.x ∧ s.running then .next s.limitStop
      else .next (s.takeStop m.x)

/-- Conditions of furrow entries, bales, step procedures and loads, which end with the schedule. -/
def entryCond (c : Cond) : Bool := decide (c.key < keySupply ∨ c.key = keyStep ∨ keySwap 0 ≤ c.key)

/-- The schedule has stopped: no entry is watched any more, and what its entries raised ends (R323, R331). -/
def State.unwatch (s : State) : State :=
  let s := { s with
    tables := s.tables.map fun (p : Nat × Table) => (p.1, { p.2 with open_ := [] })
    alm := { s.alm with conds := s.alm.conds.filter fun (c : Cond) => !entryCond c } }
  s.syncHold

/-- STOP_COMPLETE: the count is at the stop beat less 1 and every operation that was started has ended. A FATAL record of
the run leads to FAULT (R535). -/
def execStopComplete (s : State) : Out :=
  if s.running ∧ s.standsStopped ∧
      (s.ops.all fun (p : Nat × Op) => decide (p.2.phase = .submitted ∧ p.2.entry = none)) then
    .next (s.setDev (if s.alm.fatal then stFAULT else stSTOPPED)).unwatch.cancelSwaps
  else .next s

/-! ### Epoch boundaries (R307, R309, R310, R336) -/

/-- A wait that began in an epoch before the new one crosses its first boundary. -/
def crosses (e : Nat) (r : SemReq) : Bool := !r.crossed && decide (r.epoch ≠ e)

def markCrossed (e : Nat) (r : SemReq) : SemReq := if crosses e r then { r with crossed := true } else r

/-- Count and report the waits that cross a boundary into epoch e, by semaphore. -/
def State.crossWaits (s : State) (e : Nat) : State :=
  let hits : List Nat := s.sems.flatMap (fun (p : Nat × Sem) => (p.2.waits.filter (crosses e)).map fun _ => p.1) ++
    (s.unrec.filter (crosses e)).map (·.sem)
  let s := { s with
    sems := s.sems.map fun (p : Nat × Sem) => (p.1, { p.2 with waits := p.2.waits.map (markCrossed e) })
    unrec := s.unrec.map (markCrossed e) }
  hits.foldl (fun (s : State) q => (s.incO Obj.SCHED_CROSS_EPOCH_WAITS).event 0xFFF 4 0xFFF 0 q 0xFFFF) s

/-- The master's record of the epoch's 1588 time (R307). -/
def State.ptpStamp (s : State) (e sec ns : Nat) : State :=
  let st := s.getO Obj.PTP_STATE
  if s.isMaster ∧ s.getO Obj.PTP_ASSOC_EN = 1 ∧ (st = 1 ∨ st = 3) then
    let s := ((s.setO Obj.PTP_STAMP_EPOCH e).setO Obj.PTP_STAMP_SECONDS (sec % 2 ^ 48)).setO Obj.PTP_STAMP_NS (ns % 2 ^ 32)
    { s with alm := { s.alm with ptpNew := true } }
  else s

/-- A step boundary below the stop beat begins the step procedure, or follows one that is unfinished (R310, R331). -/
def State.beginStep (s : State) (e : Nat) : State :=
  if s.meets s.count ∧ s.stepDead = none ∧ s.isStep e then
    (if s.stepRun.isSome then { s with stepQueue := s.stepQueue ++ [e] }
     else { s with stepRun := some { boundary := e } }).judgeStep
  else s.judgeStep

/-- EPOCH_BOUNDARY: the count has reached the first beat of an epoch; the 1588 time of that beat. That of E0, which the START
tick begins, ends no step and no epoch (R307, R310). -/
def execEpochBoundary (sec ns : Nat) (s : State) : Out :=
  let e := (s.epochOf s.count).1
  if s.alm.started = false then .next s
  else if s.alm.e0Due then
    let s := { s with alm := { s.alm with e0Due := false } }
    .next (s.ptpStamp (s.getO Obj.SCHED_E0) sec ns)
  else if s.getO Obj.SCHED_EPOCH = e then .next s
  else
    let s := (s.setO Obj.SCHED_EPOCH e).setO Obj.SCHED_BEAT_IN_EPOCH (s.epochOf s.count).2
    .next (((s.crossWaits e).ptpStamp e sec ns).beginStep e)

/-! ### IEEE 1588 (R307, R308) -/

/-- PTP_SOURCE_LOST: the master keeps its last frequency. -/
def execPtpSourceLost (s : State) : Out :=
  if s.isMaster ∧ s.getO Obj.PTP_ASSOC_EN = 1 ∧ s.getO Obj.PTP_STATE ≠ 0 then .next (s.setO Obj.PTP_STATE 2) else .next s

end Sys2Proof.Machine
end

