-- ==== Sys2Proof/Machine/Sample.lean ====
section
/-! DEFINITION. One record of a sheaf as every decoder sees it: header, class, parameter block, drops, work units, limits,
and the reading of bits (R267 to R274, R282 to R284). -/
namespace Sys2Proof.Machine

/-! ### CRC32C (R267) -/

def crcByte (crc : Nat) (b : Byte) : Nat :=
  (List.range 8).foldl (fun c _ => if c % 2 = 1 then (c / 2) ^^^ 0x82F63B78 else c / 2) (crc ^^^ b.toNat)

/-- CRC32C of bytes, reflected, Castagnoli polynomial. -/
def crc32c (bs : List Byte) : Nat := (bs.foldl crcByte 0xFFFFFFFF) ^^^ 0xFFFFFFFF

/-! ### Headers -/

/-- Fields of a record header (R267). -/
structure Sheaf where
  magic : Nat
  len : Nat
  typ : Nat
  flags : Nat
  crc : Nat
  deriving DecidableEq, Repr

def Sheaf.parse (w : Nat) : Sheaf :=
  { magic := bits w 31 0, len := bits w 63 32, typ := bits w 79 64, flags := bits w 95 80, crc := bits w 127 96 }

def sheafMagic : Nat := 0x31464853

def tJPEG : Nat := 1
def tPNG : Nat := 2
def tRAWPIX : Nat := 3
def tOPUS : Nat := 0x10
def tFLAC : Nat := 0x11
def tRAWPCM : Nat := 0x12
def tUTF8 : Nat := 0x20
def tTOKENS : Nat := 0x21
def tBLOB : Nat := 0x30

/-- Modality of a record type: 1 image, 2 audio, 3 text, 4 blob; 0 for an unknown type. -/
def modality (t : Nat) : Nat :=
  if t = tJPEG ∨ t = tPNG ∨ t = tRAWPIX then 1 else if t = tOPUS ∨ t = tFLAC ∨ t = tRAWPCM then 2
  else if t = tUTF8 ∨ t = tTOKENS then 3 else if t = tBLOB then 4 else 0

/-- Lane kind: 0 image, 1 audio, 2 text. -/
def laneKind (t : Nat) : Nat := match modality t with | 1 => 0 | 2 => 1 | _ => 2
def laneCount (k : Nat) : Nat := match k with | 0 => 8 | 1 => 16 | _ => 4

/-- Configuration of a class (R298), with the limits of R283. -/
structure Class where
  modality : Nat
  fmt : Nat
  scale : Int
  ch : Nat
  ext0 : Nat
  ext1 : Nat
  ceil : Nat
  maskEn : Bool
  pre : Nat
  suf : Nat
  vocab : Nat
  limDim : Nat
  limPix : Nat
  limAudio : Nat
  limBytes : Nat
  deriving DecidableEq, Repr

/-- Fields of the parameter block (R271). -/
structure Params where
  cropX : Nat
  cropY : Nat
  cropW : Nat
  cropH : Nat
  outW : Nat
  outH : Nat
  gain : Nat
  shift : Int
  ratio : Nat
  outLen : Nat
  flip : Bool
  cmatEn : Bool
  cmat : Nat
  rsvd : Nat
  deriving DecidableEq, Repr

def Params.parse (w : Nat) : Params :=
  { cmat := bits w 1023 640, cropX := bits w 639 624, cropY := bits w 623 608, cropW := bits w 607 592,
    cropH := bits w 591 576, outW := bits w 575 560, outH := bits w 559 544, gain := bits w 543 512,
    shift := toSigned 32 (bits w 511 480), ratio := bits w 479 448, outLen := bits w 447 421, flip := bit w 420,
    cmatEn := bit w 419, rsvd := bits w 418 0 }

/-- Element (c, j) of the colour matrix; the identity where it is not enabled. -/
def Params.m (p : Params) (c j : Nat) : Nat :=
  if p.cmatEn then bits p.cmat (32 * (4 * c + j) + 31) (32 * (4 * c + j)) else if c = j then 0x3F800000 else 0

/-- A drop: its reason and the units counted so far (R282). -/
structure DropAt where
  reason : Nat
  units : Nat := 0
  deriving DecidableEq, Repr

/-- A sample decoded into its class: codes of the tensor, valid extents, units, flags and saturations. -/
structure Good where
  codes : List Nat
  valid : Nat := 0
  vw : Nat := 0
  vh : Nat := 0
  units : Nat := 0
  flags : Nat := 0
  sats : Nat := 0
  deriving DecidableEq, Repr

def cond (bad : Bool) (reason : Nat) (units : Nat := 0) : Except DropAt Unit :=
  if bad then .error { reason := reason, units := units } else .ok ()

/-- Work units above the ceiling: counting stops at the first unit beyond it (R284). -/
def ceiling (c : Class) (units : Nat) : Except DropAt Unit := cond (decide (units > c.ceil)) 6 (c.ceil + 1)

/-- The parameter block is invalid for the modality. -/
def Params.bad (p : Params) (m : Nat) : Bool :=
  decide (p.rsvd ≠ 0) ||
  (decide (m = 1) && (decide (p.outW = 0 ∨ p.outH = 0) || decide (p.cropW = 0 ∧ (p.cropX ≠ 0 ∨ p.cropY ≠ 0 ∨ p.cropH ≠ 0)) ||
    decide (p.cropW ≠ 0 ∧ p.cropH = 0))) ||
  (decide (m = 2) && decide (p.ratio = 0))

/-! ### Limits (R283) -/

/-- A decoded picture: channels 1 or 3 of colour, alpha or not, bits per sample, and its samples. -/
structure Pic where
  w : Nat
  h : Nat
  colours : Nat
  alpha : Bool
  depth : Nat
  /-- Channel, column, row. -/
  get : Nat → Nat → Nat → Nat

/-- The header limits of a picture (R283). -/
def imageLimits (c : Class) (w h bytes : Nat) : Except DropAt Unit :=
  cond (decide (w > c.limDim ∨ h > c.limDim ∨ w * h > c.limPix ∨ bytes > c.limBytes)) 4

/-- The header limits of a sound (R283). -/
def audioLimits (c : Class) (n ch : Nat) (units : Nat := 0) : Except DropAt Unit :=
  cond (decide (n > c.limAudio ∨ n * ch * 4 > c.limBytes)) 4 units


/-- A decoder's inner answer: a value, or the reason of R282 for which the sample is dropped. -/
abbrev Dec := Except Nat

/-- A drop for a reason, with the units counted so far. -/
def reasonOf {α : Type} (units : Nat) : Dec α → Except DropAt α
  | .ok a => .ok a
  | .error r => .error { reason := r, units := units }

/-- Drop for reason `r` where `bad` holds. -/
def require (ok : Bool) (r : Nat := 2) : Dec Unit := if ok then .ok () else .error r

/-! ### Bits and bytes of a stream -/

/-- Bits of bytes, the most significant of each first. -/
def bitsOfBytes (bs : List Nat) : List Bool := bs.flatMap fun b => (List.range 8).map fun i => b.testBit (7 - i)

/-- A number whose most significant bit is first. -/
def ofMsb (bs : List Bool) : Nat := bs.foldl (fun a b => 2 * a + b2n b) 0

/-- A number whose most significant byte is first. -/
def beNat (bs : List Nat) : Nat := bs.foldl (fun a b => 256 * a + b) 0

/-- The next n bits as an unsigned number; the stream may be too short. -/
def takeU (n : Nat) (bs : List Bool) : Dec (Nat × List Bool) :=
  if (bs.take n).length < n then .error 5 else .ok (ofMsb (bs.take n), bs.drop n)

/-- The next n bits as a signed number. -/
def takeI (n : Nat) (bs : List Bool) : Dec (Int × List Bool) :=
  (takeU n bs).map fun (v, r) => (if n = 0 then 0 else toSigned n v, r)

/-- Bits 0 before the next bit 1, which is taken too. -/
def takeUnary : List Bool → Dec (Nat × List Bool)
  | [] => .error 5
  | true :: r => .ok (0, r)
  | false :: r => (takeUnary r).map fun (n, q) => (n + 1, q)

/-- The next n bytes. -/
def takeBytes (n : Nat) (bs : List Nat) : Dec (List Nat × List Nat) :=
  if (bs.take n).length < n then .error 5 else .ok (bs.take n, bs.drop n)

/-- Exclusive-or remainder of bytes, most significant bit first, of a generator of width n (n at least 8). -/
def crcMsb (n poly : Nat) (bs : List Nat) : Nat :=
  bs.foldl (fun c b => (List.range 8).foldl (fun c _ =>
    if c.testBit (n - 1) then (2 * c) % 2 ^ n ^^^ poly else (2 * c) % 2 ^ n) (c ^^^ (b <<< (n - 8)))) 0

/-- A prefix code with its codes in order of length and, within a length, of its symbols: how many codes there are of
lengths 1, 2, …, and the symbols in that order. -/
structure PrefixCode where
  counts : List Nat := []
  syms : List Nat := []
  deriving DecidableEq, Repr, Inhabited

/-- Read a symbol: `code` has been read, `first` is the first code of this length and `index` counts the shorter ones. -/
def PrefixCode.go (syms : List Nat) : List Nat → Nat → Nat → Nat → List Bool → Dec (Nat × List Bool)
  | [], _, _, _, _ => .error 2
  | _ :: _, _, _, _, [] => .error 5
  | n :: ns, code, first, index, b :: bs =>
    let code := 2 * code + b2n b
    if code < first + n then .ok (syms.getD (index + (code - first)) 0, bs)
    else go syms ns code (2 * (first + n)) (index + n) bs

def PrefixCode.read (h : PrefixCode) (bs : List Bool) : Dec (Nat × List Bool) := PrefixCode.go h.syms h.counts 0 0 0 bs

/-- 2^15 times the part of the code space that is taken: 2^15 for a complete code. -/
def PrefixCode.taken (h : PrefixCode) : Nat := (h.counts.zipIdx.map fun (p : Nat × Nat) => p.1 * 2 ^ (15 - (p.2 + 1))).sum

end Sys2Proof.Machine
end

