-- ==== Sys2Proof/Machine/Flac.lean ====
section
/-! DEFINITION. The FLAC decoder of a thresher (R283 to R286), after RFC 9639, which the manual names and does not repeat.
Assumption 54 (PRESUMED). -/
namespace Sys2Proof.Machine

/-- The STREAMINFO block. -/
structure FlacInfo where
  rate : Nat
  ch : Nat
  bits : Nat
  total : Nat
  deriving DecidableEq, Repr

/-- The stream's marker and its first metadata block; what lies outside the supported ranges is no sample (R285). -/
def flacInfo (pay : List Nat) : Dec FlacInfo := do
  let (m, r) ← takeBytes 4 pay
  require (decide (m = [0x66, 0x4C, 0x61, 0x43]))
  let (h, r) ← takeBytes 4 r
  require (decide (h.headD 0 % 128 = 0 ∧ beNat (h.drop 1) = 34))
  let (b, _) ← takeBytes 34 r
  let w := beNat (b.take 18)
  let i : FlacInfo := { rate := bits w 63 44, ch := bits w 43 41 + 1, bits := bits w 40 36 + 1, total := bits w 35 0 }
  require (decide (i.ch ≤ 2 ∧ 4 ≤ i.bits ∧ i.bits ≤ 24 ∧ 0 < i.rate ∧ i.rate ≤ 192000))
  return i

/-- What follows the metadata blocks. -/
def flacFrames : Nat → List Nat → Dec (List Nat)
  | 0, _ => .error 5
  | k + 1, bs => do
    let (h, r) ← takeBytes 4 bs
    require (decide (h.headD 0 % 128 ≠ 127))
    let (_, r) ← takeBytes (beNat (h.drop 1)) r
    if h.headD 0 ≥ 128 then return r else flacFrames k r

/-- Bytes of a coded number by its first byte; none where no number begins so. -/
def flacNumLen (b : Nat) : Option Nat :=
  if b < 0x80 then some 1 else if b < 0xC0 then none else if b < 0xE0 then some 2 else if b < 0xF0 then some 3
  else if b < 0xF8 then some 4 else if b < 0xFC then some 5 else if b < 0xFE then some 6 else if b < 0xFF then some 7 else none

/-- Samples per channel of a frame by its block size code and the bytes that follow the coded number. -/
def flacBlock (c : Nat) (ext : List Nat) : Nat :=
  if c = 1 then 192 else if c ≤ 5 then 144 * 2 ^ c else if c ≤ 7 then beNat ext + 1 else 2 ^ c

/-- Sample rate by its code. -/
def flacRate (i : FlacInfo) (c : Nat) (ext : List Nat) : Nat :=
  if c = 0 then i.rate else if c = 12 then 1000 * beNat ext else if c = 13 then beNat ext
  else if c = 14 then 10 * beNat ext
  else [88200, 176400, 192000, 8000, 16000, 22050, 24000, 32000, 44100, 48000, 96000].getD (c - 1) 0

/-- A frame's header: samples per channel, channel code, and its bytes. -/
def flacHead (i : FlacInfo) (bs : List Nat) : Dec (Nat × Nat × Nat) := do
  let (h, r) ← takeBytes 5 bs
  require (decide (h.getD 0 0 = 0xFF ∧ h.getD 1 0 / 2 = 0x7C))
  let (bc, rc) := (h.getD 2 0 / 16, h.getD 2 0 % 16)
  let (cc, dc) := (h.getD 3 0 / 16, h.getD 3 0 / 2 % 8)
  require (decide (bc ≠ 0 ∧ rc ≠ 15 ∧ cc ≤ 10 ∧ dc ≠ 3 ∧ h.getD 3 0 % 2 = 0))
  let nl := flacNumLen (h.getD 4 0)
  require nl.isSome
  let (num, r) ← takeBytes (nl.getD 1 - 1) r
  require (num.all fun b => decide (b / 64 = 2))
  let (be, r) ← takeBytes (if bc = 6 then 1 else if bc = 7 then 2 else 0) r
  let (re, r) ← takeBytes (if rc = 12 then 1 else if rc ≥ 13 then 2 else 0) r
  let n := 4 + nl.getD 1 + be.length + re.length
  let (crc, _) ← takeBytes 1 r
  require (decide (crcMsb 8 0x07 (bs.take n) = crc.headD 0)) 10
  require (decide (flacRate i rc re = i.rate))
  require (decide ((if cc ≤ 7 then cc + 1 else 2) = i.ch))
  require (decide (dc = 0 ∨ [8, 12, 0, 16, 20, 24, 32].getD (dc - 1) 0 = i.bits))
  return (flacBlock bc be, cc, n + 1)

/-- n residuals of a partition in Rice coding with parameter k. -/
def riceRun (k : Nat) : Nat → List Bool → Dec (List Int × List Bool)
  | 0, bs => .ok ([], bs)
  | n + 1, bs => do
    let (q, r) ← takeUnary bs
    let (l, r) ← takeU k r
    let v := q * 2 ^ k + l
    let (xs, r) ← riceRun k n r
    return ((if v % 2 = 0 then ((v / 2 : Nat) : Int) else -((v / 2 : Nat) : Int) - 1) :: xs, r)

/-- n signed numbers of w bits. -/
def takeRun (w : Nat) : Nat → List Bool → Dec (List Int × List Bool)
  | 0, bs => .ok ([], bs)
  | n + 1, bs => do
    let (v, r) ← takeI w bs
    let (xs, r) ← takeRun w n r
    return (v :: xs, r)

/-- The partitions of a residual: their sizes, and the width of the parameter. -/
def ricePartitions (pw : Nat) : List Nat → List Bool → Dec (List Int × List Bool)
  | [], bs => .ok ([], bs)
  | n :: ns, bs => do
    let (k, r) ← takeU pw bs
    let (xs, r) ← (if k = 2 ^ pw - 1 then do
        let (w, r) ← takeU 5 r
        takeRun w n r
      else riceRun k n r)
    let (ys, r) ← ricePartitions pw ns r
    return (xs ++ ys, r)

/-- The coded residual of a subframe of n samples and a predictor of an order. -/
def flacResidual (n order : Nat) (bs : List Bool) : Dec (List Int × List Bool) := do
  let (m, r) ← takeU 2 bs
  require (decide (m ≤ 1))
  let (po, r) ← takeU 4 r
  require (decide (n % 2 ^ po = 0 ∧ n / 2 ^ po > order))
  ricePartitions (4 + m) ((n / 2 ^ po - order) :: List.replicate (2 ^ po - 1) (n / 2 ^ po)) r

/-- Add each residual to its prediction: `past` holds the samples so far, newest first. -/
def flacPredict (coefs : List Int) (shift : Nat) : List Int → List Int → List Int
  | past, [] => past.reverse
  | past, e :: es =>
    let p := (coefs.zipWith (· * ·) past).foldl (· + ·) 0 / 2 ^ shift
    flacPredict coefs shift ((e + p) :: past) es

/-- Coefficients of the fixed predictors, newest sample first. -/
def flacFixed (order : Nat) : List Int := [[], [1], [2, -1], [3, -3, 1], [4, -6, 4, -1]].getD order []

/-- A subframe of n samples of w bits. -/
def flacSubframe (n w : Nat) (bs : List Bool) : Dec (List Int × List Bool) := do
  let (z, r) ← takeU 1 bs
  let (t, r) ← takeU 6 r
  let (wf, r) ← takeU 1 r
  require (decide (z = 0))
  let (waste, r) ← (if wf = 1 then (takeUnary r).map fun (k, q) => (k + 1, q) else .ok (0, r))
  require (decide (waste < w))
  let w := w - waste
  let (xs, r) ← (
    if t = 0 then do
      let (v, r) ← takeI w r
      return (List.replicate n v, r)
    else if t = 1 then takeRun w n r
    else if 8 ≤ t ∧ t ≤ 12 then do
      let order := t - 8
      require (decide (order ≤ n))
      let (ws, r) ← takeRun w order r
      let (es, r) ← flacResidual n order r
      return (flacPredict (flacFixed order) 0 ws.reverse es, r)
    else if 32 ≤ t then do
      let order := t - 31
      require (decide (order ≤ n))
      let (ws, r) ← takeRun w order r
      let (p, r) ← takeU 4 r
      require (decide (p ≠ 15))
      let (sh, r) ← takeI 5 r
      require (decide (0 ≤ sh))
      let (cs, r) ← takeRun (p + 1) order r
      let (es, r) ← flacResidual n order r
      return (flacPredict cs sh.toNat ws.reverse es, r)
    else .error 2)
  return (xs.map (· * 2 ^ waste), r)

/-- A frame: its channels and the bytes that it took. -/
def flacFrame (i : FlacInfo) (n cc hb : Nat) (bs : List Nat) : Dec (List (List Int) × Nat) := do
  let r0 := bitsOfBytes (bs.drop hb)
  let (a, r) ← flacSubframe n (if cc = 9 then i.bits + 1 else i.bits) r0
  let (cs, r) ← (if cc = 0 then .ok ([a], r) else do
    let (b, r) ← flacSubframe n (if cc = 8 ∨ cc = 10 then i.bits + 1 else i.bits) r
    let mid := List.zipWith (fun (m s : Int) => (2 * m + s % 2, s)) a b
    return (if cc = 8 then [a, List.zipWith (· - ·) a b] else if cc = 9 then [List.zipWith (· + ·) a b, b]
      else if cc = 10 then [mid.map fun p => (p.1 + p.2) / 2, mid.map fun p => (p.1 - p.2) / 2] else [a, b], r))
  let pad := r.length % 8
  require (!(r.take pad).any id)
  let len := hb + (r0.length - r.length + pad) / 8
  let (crc, _) ← takeBytes 2 (bs.drop len)
  require (decide (crcMsb 16 0x8005 (bs.take len) = beNat crc)) 10
  require (cs.all fun xs => xs.all fun x => decide (-(2 ^ (i.bits - 1)) ≤ x ∧ x < 2 ^ (i.bits - 1)))
  return (cs, len + 2)

/-- Decode frames until the total is reached or, where it is unknown, the payload ends: the blocks of each channel, oldest first,
and the units counted. A total that is unknown is checked at each frame (R283). -/
def flacAll (c : Class) (i : FlacInfo) : Nat → Nat → Nat → List Nat → Except DropAt (List (List (List Int)) × Nat)
  | 0, _, u, _ => .error { reason := 5, units := u }
  | k + 1, n, u, bs =>
    if bs = [] ∧ i.total = 0 ∨ i.total ≠ 0 ∧ n = i.total then .ok ([], u)
    else do
      let (m, cc, hb) ← reasonOf u (flacHead i bs)
      audioLimits c (n + m) i.ch u
      cond (decide (i.total ≠ 0 ∧ n + m > i.total)) 2 u
      let u := u + cdiv (m * 50) i.rate
      ceiling c u
      let (cs, len) ← reasonOf u (flacFrame i m cc hb bs)
      let (rest, u) ← flacAll c i k (n + m) u (bs.drop len)
      return (cs :: rest, u)

end Sys2Proof.Machine
end

