-- ==== Sys2Proof/Machine/Jpeg.lean ====
section
/-! DEFINITION. The JPEG decoder of a thresher (R283 to R287): the coded data after ISO/IEC 10918-1, which the manual names
and does not repeat (Assumption 54, PRESUMED), and the manual's own inverse transform and colour conversion. -/
namespace Sys2Proof.Machine

/-! ### Frame and tables -/

/-- A component of the frame header, with its blocks a row and a column of the whole picture. -/
structure JpegComp where
  id : Nat
  hs : Nat
  vs : Nat
  tq : Nat
  /-- Blocks in a row of the array, padded to whole units of an interleaved scan. -/
  across : Nat
  down : Nat
  /-- Blocks in a row and in a column that cover the component. -/
  wide : Nat
  high : Nat
  deriving DecidableEq, Repr, Inhabited

structure JpegFrame where
  w : Nat
  h : Nat
  progressive : Bool
  comps : List JpegComp
  deriving DecidableEq, Repr, Inhabited

def JpegFrame.hm (f : JpegFrame) : Nat := f.comps.foldl (fun a c => max a c.hs) 1
def JpegFrame.vm (f : JpegFrame) : Nat := f.comps.foldl (fun a c => max a c.vs) 1

/-- A segment's bytes after its length, and what follows. -/
def jpegSegment (bs : List Nat) : Dec (List Nat × List Nat) := do
  let (l, r) ← takeBytes 2 bs
  require (decide (2 ≤ beNat l))
  takeBytes (beNat l - 2) r

/-- The next marker's code, past fill bytes, and what follows. -/
def jpegMarker : List Nat → Dec (Nat × List Nat)
  | 0xFF :: 0xFF :: r => jpegMarker (0xFF :: r)
  | 0xFF :: m :: r => .ok (m, r)
  | _ :: _ :: _ => .error 2
  | _ => .error 5

/-- A frame header of a process that the decoder supports (R285). -/
def jpegFrame (m : Nat) (b : List Nat) : Dec JpegFrame := do
  require (decide (m ≤ 0xC2 ∧ 6 ≤ b.length))
  let (h, w, n) := (beNat ((b.drop 1).take 2), beNat ((b.drop 3).take 2), b.getD 5 0)
  require (decide (b.headD 0 = 8 ∧ 0 < h ∧ 0 < w ∧ (n = 1 ∨ n = 3) ∧ b.length = 6 + 3 * n))
  let raw := (List.range n).map fun k => (b.drop (6 + 3 * k)).take 3
  let hs := fun (c : List Nat) => c.getD 1 0 / 16
  let vs := fun (c : List Nat) => c.getD 1 0 % 16
  require (raw.all fun c => decide (1 ≤ hs c ∧ hs c ≤ 2 ∧ 1 ≤ vs c ∧ vs c ≤ 2 ∧ c.getD 2 0 ≤ 3))
  require (decide (raw.map (·.headD 0)).Nodup)
  let hm := raw.foldl (fun a c => max a (hs c)) 1
  let vm := raw.foldl (fun a c => max a (vs c)) 1
  return { w := w, h := h, progressive := decide (m = 0xC2), comps := raw.map fun c =>
    { id := c.headD 0, hs := hs c, vs := vs c, tq := c.getD 2 0
      across := cdiv w (8 * hm) * hs c, down := cdiv h (8 * vm) * vs c
      wide := cdiv (cdiv (w * hs c) hm) 8, high := cdiv (cdiv (h * vs c) vm) 8 } }

/-- The frame header, with the segments before it passed over. -/
def jpegFind : Nat → List Nat → Dec JpegFrame
  | 0, _ => .error 5
  | k + 1, bs => do
    let (m, r) ← jpegMarker bs
    if 0xC0 ≤ m ∧ m ≤ 0xCF ∧ m ≠ 0xC4 ∧ m ≠ 0xC8 ∧ m ≠ 0xCC then
      let (b, _) ← jpegSegment r
      jpegFrame m b
    else
      require (decide (m = 0xC4 ∨ m = 0xDB ∨ m = 0xDD ∨ m = 0xFE ∨ (0xE0 ≤ m ∧ m ≤ 0xEF)))
      let (_, r) ← jpegSegment r
      jpegFind k r

/-- The header information of a stream (R283). -/
def jpegInfo (pay : List Nat) : Dec JpegFrame := do
  let (m, r) ← takeBytes 2 pay
  require (decide (m = [0xFF, 0xD8]))
  jpegFind (r.length + 1) r

/-- The decoder's tables and the coefficients so far: by component, block and place. -/
structure JpegState where
  frame : Option JpegFrame := none
  /-- Quantisation tables by number, and those that components have taken, by component. -/
  quant : List (Nat × List Nat) := []
  taken : List (Nat × List Nat) := []
  /-- Huffman tables by 16 × class + number. -/
  huff : List (Nat × PrefixCode) := []
  interval : Nat := 0
  coefs : Array (Array (Array Int)) := #[]
  units : Nat := 0

def zigzag : List Nat :=
  [0, 1, 8, 16, 9, 2, 3, 10, 17, 24, 32, 25, 18, 11, 4, 5] ++ [12, 19, 26, 33, 40, 48, 41, 34, 27, 20, 13, 6, 7, 14, 21, 28] ++
  [35, 42, 49, 56, 57, 50, 43, 36, 29, 22, 15, 23, 30, 37, 44, 51] ++ [58, 59, 52, 45, 38, 31, 39, 46, 53, 60, 61, 54, 47, 55, 62, 63]

/-- Quantisation tables of a segment; entries in zigzag order. -/
def jpegQuant : Nat → List (Nat × List Nat) → List Nat → Dec (List (Nat × List Nat))
  | 0, ts, _ => .ok ts
  | k + 1, ts, bs =>
    if bs = [] then .ok ts
    else do
      let (h, r) ← takeBytes 1 bs
      let (p, t) := (h.headD 0 / 16, h.headD 0 % 16)
      require (decide (p ≤ 1 ∧ t ≤ 3 ∧ 64 * (p + 1) ≤ r.length))
      let q := (List.range 64).map fun j => beNat ((r.drop ((p + 1) * j)).take (p + 1))
      require (!q.contains 0)
      jpegQuant k ((t, q) :: ts.filter (·.1 ≠ t)) (r.drop (64 * (p + 1)))

/-- Huffman tables of a segment. -/
def jpegHuff : Nat → List (Nat × PrefixCode) → List Nat → Dec (List (Nat × PrefixCode))
  | 0, ts, _ => .ok ts
  | k + 1, ts, bs =>
    if bs = [] then .ok ts
    else do
      let t := bs.headD 0
      let counts := (bs.drop 1).take 16
      let n := counts.sum
      require (decide (t / 16 ≤ 1 ∧ t % 16 ≤ 3 ∧ counts.length = 16 ∧ n ≤ 256 ∧ 17 + n ≤ bs.length))
      let h : PrefixCode := { counts := counts, syms := (bs.drop 17).take n }
      require (decide ((counts.zipIdx.map fun (p : Nat × Nat) => p.1 * 2 ^ (15 - p.2)).sum ≤ 2 ^ 16 - 1))
      jpegHuff k ((t, h) :: ts.filter (·.1 ≠ t)) (bs.drop (17 + n))

/-! ### Scans -/

/-- The coded bytes of a scan in pieces between restart markers, each piece with the number of the marker that ended it, the
oldest first, and what follows the scan. -/
def scanPieces : List Nat → List Nat → List (List Nat × Option Nat) × List Nat
  | cur, 0xFF :: 0 :: r => scanPieces (0xFF :: cur) r
  | cur, 0xFF :: m :: r =>
    if m = 0xFF then scanPieces cur (0xFF :: r)
    else if 0xD0 ≤ m ∧ m ≤ 0xD7 then
      let (ps, rest) := scanPieces [] r
      ((cur.reverse, some (m - 0xD0)) :: ps, rest)
    else ([(cur.reverse, none)], 0xFF :: m :: r)
  | cur, b :: r => if b = 0xFF then ([(cur.reverse, none)], []) else scanPieces (b :: cur) r
  | cur, [] => ([(cur.reverse, none)], [])

/-- A scan header: its components with their tables, the band of coefficients and the bit positions. -/
structure JpegScan where
  parts : List (Nat × PrefixCode × PrefixCode)
  ss : Nat
  se : Nat
  ah : Nat
  al : Nat
  progressive : Bool

/-- What the blocks of a piece of scan carry on. -/
structure JpegRun where
  bits : List Bool
  preds : List Int
  eobrun : Nat := 0

/-- A difference or coefficient of category n. -/
def jpegExtend (n : Nat) (bs : List Bool) : Dec (Int × List Bool) := do
  let (v, r) ← takeU n bs
  return (if v < 2 ^ (n - 1) ∧ 0 < n then (v : Int) - (2 ^ n - 1) else v, r)

def setCoef (b : Array Int) (k : Nat) (v : Int) : Array Int := b.setIfInBounds (zigzag.getD k 0) v
def getCoef (b : Array Int) (k : Nat) : Int := b.getD (zigzag.getD k 0) 0

/-- Coefficients from k to the band's end, coded for the first time: the rest of the bits, and blocks that end here. -/
def jpegAc (h : PrefixCode) (se al : Nat) (runs : Bool) : Nat → Nat → Array Int → List Bool → Dec (Array Int × List Bool × Nat)
  | 0, _, b, bs => .ok (b, bs, 0)
  | n + 1, k, b, bs =>
    if k > se then .ok (b, bs, 0)
    else do
      let (rs, r) ← h.read bs
      let (run, s) := (rs / 16, rs % 16)
      if s = 0 then
        if run = 15 then
          require (decide (k + 16 ≤ se))
          jpegAc h se al runs n (k + 16) b r
        else
          require (runs || decide (run = 0))
          let (x, r) ← takeU run r
          return (b, r, 2 ^ run + x - 1)
      else
        require (decide (k + run ≤ se ∧ s ≤ 10))
        let (v, r) ← jpegExtend s r
        jpegAc h se al runs n (k + run + 1) (setCoef b (k + run) (v * 2 ^ al)) r

/-- Pass over coefficients from k: those that are not 0 take a correction bit, and `zeros` that are 0 are left behind. Where it
stopped, past the band's end at most. -/
def jpegRefine (se al : Nat) : Nat → Nat → Nat → Array Int → List Bool → Dec (Nat × Array Int × List Bool)
  | 0, k, _, b, bs => .ok (k, b, bs)
  | n + 1, k, zeros, b, bs =>
    if k > se then .ok (k, b, bs)
    else
      let v := getCoef b k
      if v = 0 then (if zeros = 0 then .ok (k, b, bs) else jpegRefine se al n (k + 1) (zeros - 1) b bs)
      else do
        let (x, r) ← takeU 1 bs
        let v := if x = 1 ∧ v.natAbs / 2 ^ al % 2 = 0 then (if v < 0 then v - 2 ^ al else v + 2 ^ al) else v
        jpegRefine se al n (k + 1) zeros (setCoef b k v) r

/-- Coefficients from k to the band's end, refined by one bit. -/
def jpegAcMore (h : PrefixCode) (se al : Nat) : Nat → Nat → Array Int → List Bool → Dec (Array Int × List Bool × Nat)
  | 0, _, b, bs => .ok (b, bs, 0)
  | n + 1, k, b, bs =>
    if k > se then .ok (b, bs, 0)
    else do
      let (rs, r) ← h.read bs
      let (run, s) := (rs / 16, rs % 16)
      require (decide (s ≤ 1))
      if s = 0 ∧ run ≠ 15 then
        let (x, r) ← takeU run r
        let (_, b, r) ← jpegRefine se al 64 k 64 b r
        return (b, r, 2 ^ run + x - 1)
      else
        let (sign, r) ← takeU s r
        let (k, b, r) ← jpegRefine se al 64 k run b r
        require (decide (k ≤ se))
        if s = 0 then jpegAcMore h se al n (k + 1) b r
        else jpegAcMore h se al n (k + 1) (setCoef b k (if sign = 1 then 2 ^ al else -(2 ^ al))) r

/-- One block of the scan's part j. -/
def jpegBlock (sc : JpegScan) (j : Nat) (t : JpegRun) (b : Array Int) : Dec (JpegRun × Array Int) := do
  let (_, dc, ac) := sc.parts.getD j (0, {}, {})
  let (t, b) ← (
    if sc.ss ≠ 0 then .ok (t, b)
    else if sc.ah = 0 then do
      let (n, r) ← dc.read t.bits
      require (decide (n ≤ 11))
      let (d, r) ← jpegExtend n r
      let v := t.preds.getD j 0 + d
      return ({ t with bits := r, preds := t.preds.set j v }, setCoef b 0 (v * 2 ^ sc.al))
    else do
      let (x, r) ← takeU 1 t.bits
      return ({ t with bits := r }, if x = 1 then setCoef b 0 (getCoef b 0 + 2 ^ sc.al) else b))
  let k := max 1 sc.ss
  if k > sc.se then return (t, b)
  else if t.eobrun > 0 then
    let t := { t with eobrun := t.eobrun - 1 }
    if sc.ah = 0 then return (t, b)
    else
      let (_, b, r) ← jpegRefine sc.se sc.al 64 k 64 b t.bits
      return ({ t with bits := r }, b)
  else
    let (b, r, n) ← (if sc.ah = 0 then jpegAc ac sc.se sc.al sc.progressive 64 k b t.bits
      else jpegAcMore ac sc.se sc.al 64 k b t.bits)
    return ({ t with bits := r, eobrun := n }, b)

/-- The blocks of each unit of a scan, as part and block. -/
def scanUnits (f : JpegFrame) (parts : List Nat) : List (List (Nat × Nat)) :=
  match parts with
  | [c] =>
    let k := f.comps.getD c default
    (List.range (k.wide * k.high)).map fun n => [(0, n / k.wide * k.across + n % k.wide)]
  | _ =>
    let mx := cdiv f.w (8 * f.hm)
    (List.range (mx * cdiv f.h (8 * f.vm))).map fun n => parts.zipIdx.flatMap fun (c, j) =>
      let k := f.comps.getD c default
      (List.range (k.hs * k.vs)).map fun q =>
        (j, (n / mx * k.vs + q / k.hs) * k.across + n % mx * k.hs + q % k.hs)

/-- Decode blocks in turn; each is a unit of work (R284). A piece that is too short drops the sample for reason `short`. -/
def scanBlocks (cl : Class) (sc : JpegScan) (short : Nat) : List (Nat × Nat) → JpegRun → JpegState → Except DropAt (JpegRun × JpegState)
  | [], t, st => .ok (t, st)
  | (j, q) :: rest, t, st => do
    let u := st.units + 1
    ceiling cl u
    let c := (sc.parts.getD j (0, {}, {})).1
    let b := (st.coefs.getD c #[]).getD q #[]
    let (t, b) ← (match jpegBlock sc j t b with
      | .ok x => .ok x
      | .error r => .error { reason := if r = 5 then short else r, units := u })
    let st := { st with units := u, coefs := st.coefs.modify c fun bs => bs.setIfInBounds q b }
    scanBlocks cl sc short rest t st

/-- The pieces of a scan, each with its share of the units; restart markers count up from n modulo 8. -/
def scanRun (cl : Class) (sc : JpegScan) (interval : Nat) (ended : Bool) :
    Nat → List (List (Nat × Nat)) → List (List Nat × Option Nat) → JpegState → Except DropAt JpegState
  | _, [], ps, st => do
    cond (decide (ps ≠ [])) 2 st.units
    return st
  | _, _, [], st => .error { reason := if ended then 5 else 2, units := st.units }
  | n, us, (bytes, m) :: ps, st => do
    let now := if interval = 0 then us else us.take interval
    let later := if interval = 0 then [] else us.drop interval
    let short := if m.isNone ∧ ended then 5 else 2
    let (_, st) ← scanBlocks cl sc short now.flatten { bits := bitsOfBytes bytes, preds := sc.parts.map fun _ => 0 } st
    cond (decide (later ≠ [] ∧ m.isSome ∧ m ≠ some (n % 8))) 2 st.units
    cond (decide (later = [] ∧ m.isSome)) 2 st.units
    if later ≠ [] ∧ m.isNone then .error { reason := short, units := st.units }
    else if later = [] then return st
    else scanRun cl sc interval ended (n + 1) later ps st
  termination_by structural _ _ ps _ => ps

/-- A scan header. -/
def jpegScan (st : JpegState) (f : JpegFrame) (b : List Nat) : Dec JpegScan := do
  let n := b.headD 0
  require (decide (1 ≤ n ∧ n ≤ f.comps.length ∧ b.length = 4 + 2 * n))
  let (ss, se, a) := (b.getD (2 * n + 1) 0, b.getD (2 * n + 2) 0, b.getD (2 * n + 3) 0)
  let (ah, al) := (a / 16, a % 16)
  require (if f.progressive then
      decide (ss ≤ se ∧ se ≤ 63 ∧ (ss = 0 → se = 0) ∧ (ss ≠ 0 → n = 1) ∧ al ≤ 13 ∧ (ah = 0 ∨ ah = al + 1))
    else decide (ss = 0 ∧ se = 63 ∧ a = 0))
  let part := fun (k : Nat) => do
    let (id, t) := (b.getD (2 * k + 1) 0, b.getD (2 * k + 2) 0)
    let c := f.comps.findIdx fun c => c.id = id
    require (decide (c < f.comps.length))
    let dc := st.huff.lookup (t / 16)
    let ac := st.huff.lookup (16 + t % 16)
    require (decide (ss = 0 ∧ ah = 0 → dc.isSome) && decide (se > 0 → ac.isSome))
    let r : Nat × PrefixCode × PrefixCode := (c, dc.getD {}, ac.getD {})
    return r
  let parts ← (List.range n).mapM part
  require (decide ((parts.map (·.1)).Pairwise (· < ·)))
  return { parts := parts, ss := ss, se := se, ah := ah, al := al, progressive := f.progressive }

/-- The segments from here to EOI. -/
def jpegSegments (cl : Class) : Nat → JpegState → List Nat → Except DropAt JpegState
  | 0, st, _ => .error { reason := 5, units := st.units }
  | k + 1, st, bs => do
    let (m, r) ← reasonOf st.units (jpegMarker bs)
    if m = 0xD9 then
      cond (st.coefs.isEmpty || st.taken.length < (st.frame.getD default).comps.length) 2 st.units
      return st
    else
      let (b, r) ← reasonOf st.units (jpegSegment r)
      if m = 0xDB then
        let q ← reasonOf st.units (jpegQuant 5 st.quant b)
        jpegSegments cl k { st with quant := q } r
      else if m = 0xC4 then
        let h ← reasonOf st.units (jpegHuff 9 st.huff b)
        jpegSegments cl k { st with huff := h } r
      else if m = 0xDD then
        cond (decide (b.length ≠ 2)) 2 st.units
        jpegSegments cl k { st with interval := beNat b } r
      else if m = 0xFE ∨ (0xE0 ≤ m ∧ m ≤ 0xEF) then jpegSegments cl k st r
      else if 0xC0 ≤ m ∧ m ≤ 0xC2 then
        cond st.frame.isSome 2 st.units
        let f ← reasonOf st.units (jpegFrame m b)
        jpegSegments cl k { st with
          frame := some f
          coefs := (f.comps.map fun c => Array.replicate (c.across * c.down) (Array.replicate 64 (0 : Int))).toArray } r
      else if m = 0xDA then
        match st.frame with
        | none => .error { reason := 2, units := st.units }
        | some f =>
          let sc ← reasonOf st.units (jpegScan st f b)
          let cs := sc.parts.map (·.1)
          let fresh := cs.filter fun c => (st.taken.lookup c).isNone
          cond (decide (fresh.any fun c => (st.quant.lookup (f.comps.getD c default).tq).isNone)) 2 st.units
          cond (!f.progressive && decide (fresh ≠ cs)) 2 st.units
          let st := { st with taken := st.taken ++ fresh.map fun c =>
            (c, (st.quant.lookup (f.comps.getD c default).tq).getD []) }
          let (ps, r) := scanPieces [] r
          let st ← scanRun cl sc st.interval r.isEmpty 0 (scanUnits f cs) ps st
          jpegSegments cl k st r
      else .error { reason := 2, units := st.units }

/-! ### Samples -/

/-- 4,096 × cos(nπ ÷ 16), rounded. -/
def cosT (n : Nat) : Int :=
  let q := fun (k : Nat) => match k with
    | 0 => (4096 : Int) | 1 => 4017 | 2 => 3784 | 3 => 3406 | 4 => 2896 | 5 => 2276 | 6 => 1567 | 7 => 799 | _ => 0
  let n := n % 32
  let n := if n > 16 then 32 - n else n
  if n ≤ 8 then q n else -(q (16 - n))

/-- The table T of R287. -/
def jpegT (x u : Nat) : Int := if u = 0 then 2896 else cosT ((2 * x + 1) * u)

def clamp255 (i : Int) : Nat := (min 255 (max 0 i)).toNat

/-- One sample of the inverse transform of a block of dequantised coefficients, F[v][u] at 8v + u (R287). -/
def idct (f : Array Int) (x y : Nat) : Nat :=
  let r := fun v => ((List.range 8).foldl (fun a u => a + jpegT x u * f.getD (8 * v + u) 0) 0 + 256) / 512
  clamp255 (((List.range 8).foldl (fun a v => a + jpegT y v * r v) 0 + 65536) / 131072 + 128)

/-- A block's coefficients times the quantisation table, which is in zigzag order. -/
def dequantise (q : List Nat) (b : Array Int) : Array Int :=
  (List.range 64).foldl (fun (a : Array Int) k => setCoef a k (getCoef b k * q.getD k 1)) b

/-- A component's sample at a picture position, upsampled by replication (R287). -/
def jpegSample (f : JpegFrame) (blocks : Array (Array (Array Int))) (c x y : Nat) : Nat :=
  let k := f.comps.getD c default
  let sx := x * k.hs / f.hm
  let sy := y * k.vs / f.vm
  idct ((blocks.getD c #[]).getD ((sy / 8) * k.across + sx / 8) #[]) (sx % 8) (sy % 8)

/-- YCbCr to R, G or B (R287). -/
def ycc (c y cb cr : Nat) : Nat :=
  let b : Int := (cb : Int) - 128
  let r : Int := (cr : Int) - 128
  clamp255 (match c with
    | 0 => (y : Int) + (91881 * r + 32768) / 65536
    | 1 => (y : Int) + (-22554 * b - 46802 * r + 32768) / 65536
    | _ => (y : Int) + (116130 * b + 32768) / 65536)

def jpegPic (f : JpegFrame) (blocks : Array (Array (Array Int))) : Pic :=
  let n := f.comps.length
  let s := jpegSample f blocks
  let rgb := decide (f.comps.map (·.id) = [0x52, 0x47, 0x42])
  { w := f.w, h := f.h, colours := if n = 1 then 1 else 3, alpha := false, depth := 8
    get := fun c x y => if n = 1 ∨ rgb then s c x y else ycc c (s 0 x y) (s 1 x y) (s 2 x y) }

/-- Decode a stream: the picture and its units, of which `u` are counted before. -/
def jpegDecode (cl : Class) (u : Nat) (pay : List Nat) : Except DropAt (Pic × Nat) := do
  let (_, r) ← reasonOf u (takeBytes 2 pay)
  let st ← jpegSegments cl (pay.length + 1) { units := u } r
  let blocks := (st.coefs.toList.zipIdx.map fun (bs, c) => bs.map (dequantise ((st.taken.lookup c).getD []))).toArray
  return (jpegPic (st.frame.getD default) blocks, st.units)

end Sys2Proof.Machine
end

