-- ==== Sys2Proof/Machine/Opus.lean ====
section
/-! DEFINITION. The packets of an Opus record (R269, R283 to R286): the framing is that of RFC 6716, section 3, which the
manual names and does not repeat (Assumption 54, PRESUMED); what the reference decoder makes of the frames is a free value. -/
namespace Sys2Proof.Machine

/-- Samples at 48 kHz of a frame by the configuration number of its packet. -/
def opusFrame (config : Nat) : Nat :=
  if config < 12 then [480, 960, 1920, 2880].getD (config % 4) 0
  else if config < 16 then [480, 960].getD (config % 2) 0
  else [120, 240, 480, 960].getD (config % 4) 0

/-- A length of one or two bytes before a frame. -/
def opusLength : List Nat → Dec (Nat × List Nat)
  | [] => .error 2
  | a :: r =>
    if a < 252 then .ok (a, r)
    else match r with
      | [] => .error 2
      | b :: r => .ok (4 * b + a, r)

/-- Take n lengths: their sum, and what follows. -/
def opusLengths : Nat → List Nat → Dec (Nat × List Nat)
  | 0, bs => .ok (0, bs)
  | n + 1, bs => do
    let (a, r) ← opusLength bs
    let (s, r) ← opusLengths n r
    return (a + s, r)

/-- Padding bytes by the bytes that count them. -/
def opusPadding : List Nat → Dec (Nat × List Nat)
  | [] => .error 2
  | b :: r => if b < 255 then .ok (b, r) else (opusPadding r).map fun (n, q) => (n + 254, q)

/-- Frames of a packet that is not empty; one that breaks the framing rules is malformed. -/
def opusFrames (p : List Nat) : Dec Nat := do
  let c := p.headD 0 % 4
  let r := p.drop 1
  if c = 0 then
    require (decide (r.length ≤ 1275))
    return 1
  else if c = 1 then
    require (decide (r.length % 2 = 0 ∧ r.length / 2 ≤ 1275))
    return 2
  else if c = 2 then
    let (n, r) ← opusLength r
    require (decide (n ≤ r.length ∧ r.length - n ≤ 1275))
    return 2
  else
    require (decide (r ≠ []))
    let (vbr, pad, m) := (bit (r.headD 0) 7, bit (r.headD 0) 6, r.headD 0 % 64)
    require (decide (1 ≤ m ∧ m * opusFrame (p.headD 0 / 8) ≤ 5760))
    let (n, r) ← (if pad then opusPadding (r.drop 1) else .ok (0, r.drop 1))
    require (decide (n ≤ r.length))
    let r := r.take (r.length - n)
    if vbr then
      let (s, r) ← opusLengths (m - 1) r
      require (decide (s ≤ r.length ∧ r.length - s ≤ 1275))
    else require (decide (r.length % m = 0 ∧ r.length / m ≤ 1275))
    return m

/-- Samples per channel of each frame of a packet. A packet of no bytes is concealed for as long as the one before it lasted
(`last`), in one frame. -/
def opusPacket (last : Nat) (p : List Nat) : Dec (List Nat) := do
  if p = [] then return [last]
  else
    let m ← opusFrames p
    return List.replicate m (opusFrame (p.headD 0 / 8))

/-- The packets of a record, their samples per channel and the units counted: each packet has its length before it, and each
frame counts one unit for every 20 ms or part of them (R284). -/
def opusAll (c : Class) : Nat → Nat → Nat → List Nat → Except DropAt (List (List Nat) × Nat × Nat)
  | 0, _, u, _ => .error { reason := 5, units := u }
  | k + 1, last, u, bs =>
    if bs = [] then .ok ([], 0, u)
    else do
      let (l, r) ← reasonOf u (takeBytes 2 bs)
      let (p, r) ← reasonOf u (takeBytes (l.headD 0 + 256 * l.getD 1 0) r)
      let fs ← reasonOf u (opusPacket last p)
      let u := u + (fs.map fun n => cdiv n 960).sum
      ceiling c u
      let (ps, n, u) ← opusAll c k fs.sum u r
      return (p :: ps, fs.sum + n, u)

end Sys2Proof.Machine
end

