-- ==== Sys2Proof/Machine/Png.lean ====
section
/-! DEFINITION. The PNG decoder of a thresher (R283 to R286), after ISO/IEC 15948 and the zlib and DEFLATE formats that it
builds on, which the manual names and does not repeat. Assumption 54 (PRESUMED). -/
namespace Sys2Proof.Machine

/-! ### DEFLATE -/

/-- The prefix code with given code lengths by symbol. -/
def deflateCode (lens : List Nat) : PrefixCode :=
  { counts := (List.range 15).map fun k => lens.count (k + 1)
    syms := (List.range 15).flatMap fun k => (lens.zipIdx.filter fun (p : Nat × Nat) => decide (p.1 = k + 1)).map (·.2) }

/-- A code may be used: complete, or, where `few`, of at most one symbol of one bit. -/
def deflateOk (few : Bool) (h : PrefixCode) : Bool :=
  decide (h.taken = 2 ^ 15) || few && (decide (h.syms = []) || decide (h.syms.length = 1 ∧ h.counts.headD 0 = 1))

def fixedLit : PrefixCode :=
  deflateCode (List.replicate 144 8 ++ List.replicate 112 9 ++ List.replicate 24 7 ++ List.replicate 8 8)
def fixedDist : PrefixCode := deflateCode (List.replicate 32 5)

/-- The number that a symbol below 256 stands for with a base of 0: values rise by 2^e for e extra bits, `run` symbols for each
e above 0. -/
def deflateBase (run s : Nat) : Nat × Nat :=
  if s < 2 * run then (s, 0) else ((run + s % run) * 2 ^ (s / run - 1), s / run - 1)

/-- A number of n bits whose least significant bit comes first. -/
def takeLsb (n : Nat) (bs : List Bool) : Dec (Nat × List Bool) :=
  if (bs.take n).length < n then .error 5 else .ok (ofMsb (bs.take n).reverse, bs.drop n)

/-- Append n bytes from a distance back. -/
def copyBack (dist : Nat) : Nat → Array Nat → Array Nat
  | 0, out => out
  | n + 1, out => copyBack dist n (out.push (out.getD (out.size - dist) 0))

/-- The symbols of a block up to its end. -/
def deflateBlock (lit dist : PrefixCode) : Nat → Array Nat → List Bool → Dec (Array Nat × List Bool)
  | 0, _, _ => .error 5
  | k + 1, out, bs => do
    let (s, r) ← lit.read bs
    if s < 256 then deflateBlock lit dist k (out.push s) r
    else if s = 256 then return (out, r)
    else
      require (decide (s ≤ 285))
      let (b, e) := if s = 285 then (255, 0) else deflateBase 4 (s - 257)
      let (x, r) ← takeLsb e r
      let (d, r) ← dist.read r
      require (decide (d ≤ 29))
      let (db, de) := deflateBase 2 d
      let (dx, r) ← takeLsb de r
      require (decide (db + dx + 1 ≤ out.size))
      deflateBlock lit dist k (copyBack (db + dx + 1) (b + x + 3) out) r

/-- Code lengths, run-length coded, until `n` have been read; the newest first. -/
def codeLengths (h : PrefixCode) : Nat → Nat → List Nat → List Bool → Dec (List Nat × List Bool)
  | 0, _, _, _ => .error 2
  | k + 1, n, ls, bs =>
    if ls.length ≥ n then
      if ls.length = n then .ok (ls.reverse, bs) else .error 2
    else do
      let (s, r) ← h.read bs
      if s < 16 then codeLengths h k n (s :: ls) r
      else
        require (decide (s ≠ 16 ∨ ls ≠ []))
        let (x, r) ← takeLsb (if s = 16 then 2 else if s = 17 then 3 else 7) r
        let (v, c) := if s = 16 then (ls.headD 0, x + 3) else (0, x + if s = 17 then 3 else 11)
        codeLengths h k n (List.replicate c v ++ ls) r

/-- Read n numbers of three bits. -/
def takeThrees : Nat → List Bool → Dec (List Nat × List Bool)
  | 0, bs => .ok ([], bs)
  | n + 1, bs => do
    let (v, r) ← takeLsb 3 bs
    let (vs, r) ← takeThrees n r
    return (v :: vs, r)

/-- The two codes of a block with its own codes. -/
def dynamicCodes (bs : List Bool) : Dec (PrefixCode × PrefixCode × List Bool) := do
  let (nl, r) ← takeLsb 5 bs
  let (nd, r) ← takeLsb 5 r
  let (nc, r) ← takeLsb 4 r
  require (decide (nl + 257 ≤ 286 ∧ nd + 1 ≤ 30))
  let (cl, r) ← takeThrees (nc + 4) r
  let order := [16, 17, 18, 0, 8, 7, 9, 6, 10, 5, 11, 4, 12, 3, 13, 2, 14, 1, 15]
  let h := deflateCode ((List.range 19).map fun s => cl.getD (order.idxOf s) 0)
  require (deflateOk false h)
  let (ls, r) ← codeLengths h 320 (nl + 257 + nd + 1) [] r
  let lit := deflateCode (ls.take (nl + 257))
  let dist := deflateCode (ls.drop (nl + 257))
  require (decide (ls.getD 256 0 ≠ 0) && deflateOk true lit && deflateOk true dist)
  return (lit, dist, r)

/-- All blocks of a stream. -/
def inflate : Nat → Array Nat → List Bool → Dec (Array Nat × List Bool)
  | 0, _, _ => .error 5
  | k + 1, out, bs => do
    let (last, r) ← takeLsb 1 bs
    let (t, r) ← takeLsb 2 r
    let (out, r) ← (
      if t = 0 then do
        let (_, r) ← takeLsb (r.length % 8) r
        let (n, r) ← takeLsb 16 r
        let (m, r) ← takeLsb 16 r
        require (decide (n + m = 65535))
        let body := r.take (8 * n)
        require (decide (body.length = 8 * n)) 5
        return ((List.range n).foldl (fun (a : Array Nat) j => a.push (ofMsb ((body.drop (8 * j)).take 8).reverse)) out,
          r.drop (8 * n))
      else if t = 1 then deflateBlock fixedLit fixedDist (r.length + 1) out r
      else if t = 2 then do
        let (lit, dist, r) ← dynamicCodes r
        deflateBlock lit dist (r.length + 1) out r
      else .error 2)
    if last = 1 then return (out, r) else inflate k out r

/-- Adler-32. -/
def adler32 (bs : List Nat) : Nat :=
  let p := bs.foldl (fun (p : Nat × Nat) b => let a := (p.1 + b) % 65521; (a, (p.2 + a) % 65521)) (1, 0)
  p.2 * 65536 + p.1

/-- The data of a zlib stream. -/
def zlibData (bs : List Nat) : Dec (List Nat) := do
  let (h, r) ← takeBytes 2 bs
  require (decide (h.headD 0 % 16 = 8 ∧ h.headD 0 / 16 ≤ 7 ∧ beNat h % 31 = 0 ∧ h.getD 1 0 / 32 % 2 = 0))
  let bits := r.flatMap fun b => (List.range 8).map fun i => b.testBit i
  let (out, q) ← inflate (bits.length + 1) #[] bits
  let (sum, _) ← takeBytes 4 (r.drop (r.length - q.length / 8))
  require (decide (beNat sum = adler32 out.toList)) 10
  return out.toList

/-! ### The datastream -/

/-- The image header. -/
structure PngHead where
  w : Nat
  h : Nat
  depth : Nat
  colour : Nat
  interlaced : Bool
  deriving DecidableEq, Repr

/-- Components of a stored pixel. -/
def PngHead.comps (i : PngHead) : Nat :=
  match i.colour with | 2 => 3 | 4 => 2 | 6 => 4 | _ => 1

def isoCrc (bs : List Nat) : Nat :=
  bs.foldl (fun c b => (List.range 8).foldl (fun c _ => if c % 2 = 1 then (c / 2) ^^^ 0xEDB88320 else c / 2) (c ^^^ b))
    0xFFFFFFFF ^^^ 0xFFFFFFFF

/-- The next chunk: its type as four bytes, its data and what follows. -/
def pngChunk (bs : List Nat) : Dec (List Nat × List Nat × List Nat) := do
  let (l, r) ← takeBytes 4 bs
  require (decide (beNat l < 2 ^ 31))
  let (b, r) ← takeBytes (4 + beNat l) r
  let (crc, r) ← takeBytes 4 r
  require (decide (beNat crc = isoCrc b)) 10
  return (b.take 4, b.drop 4, r)

def ihdr : List Nat := [0x49, 0x48, 0x44, 0x52]
def plte : List Nat := [0x50, 0x4C, 0x54, 0x45]
def trns : List Nat := [0x74, 0x52, 0x4E, 0x53]
def idat : List Nat := [0x49, 0x44, 0x41, 0x54]
def iend : List Nat := [0x49, 0x45, 0x4E, 0x44]

/-- The signature and the image header, and what follows them. -/
def pngHead (pay : List Nat) : Dec (PngHead × List Nat) := do
  let (m, r) ← takeBytes 8 pay
  require (decide (m = [0x89, 0x50, 0x4E, 0x47, 0x0D, 0x0A, 0x1A, 0x0A]))
  let (t, b, r) ← pngChunk r
  require (decide (t = ihdr ∧ b.length = 13))
  let i : PngHead := { w := beNat (b.take 4), h := beNat ((b.drop 4).take 4), depth := b.getD 8 0, colour := b.getD 9 0
                       interlaced := decide (b.getD 12 0 = 1) }
  require (decide (0 < i.w ∧ i.w < 2 ^ 31 ∧ 0 < i.h ∧ i.h < 2 ^ 31 ∧ b.getD 10 0 = 0 ∧ b.getD 11 0 = 0 ∧ b.getD 12 0 ≤ 1))
  require (match i.colour with
    | 0 => [1, 2, 4, 8, 16].contains i.depth
    | 3 => [1, 2, 4, 8].contains i.depth
    | 2 | 4 | 6 => [8, 16].contains i.depth
    | _ => false)
  return (i, r)

/-- What the chunks after the header give. -/
structure PngBody where
  palette : List Nat := []
  alpha : List Nat := []
  data : List Nat := []
  /-- No image data yet, within it, or past it. -/
  stage : Nat := 0
  deriving DecidableEq, Repr

/-- The chunks up to IEND. Ancillary chunks other than a palette's transparency are skipped (R285). -/
def pngChunks (i : PngHead) : Nat → PngBody → List Nat → Dec PngBody
  | 0, _, _ => .error 5
  | k + 1, p, bs => do
    let (t, b, r) ← pngChunk bs
    if t = iend then
      require (decide (b = [] ∧ p.stage ≠ 0))
      return p
    else if t = idat then
      require (decide (p.stage ≤ 1 ∧ (i.colour ≠ 3 ∨ p.palette ≠ [])))
      pngChunks i k { p with data := p.data ++ b, stage := 1 } r
    else
      let p := if p.stage = 1 then { p with stage := 2 } else p
      if t = plte then
        require (decide (p.stage = 0 ∧ p.palette = [] ∧ b.length % 3 = 0 ∧ 0 < b.length ∧ b.length ≤ 768 ∧
          i.colour ≠ 0 ∧ i.colour ≠ 4 ∧ (i.colour ≠ 3 ∨ b.length ≤ 3 * 2 ^ i.depth)))
        pngChunks i k { p with palette := b } r
      else if t = trns ∧ i.colour = 3 then
        require (decide (p.stage = 0 ∧ p.palette ≠ [] ∧ b.length ≤ p.palette.length / 3))
        pngChunks i k { p with alpha := b } r
      else
        require (decide (t.headD 0 / 32 % 2 = 1))
        pngChunks i k p r

/-! ### Pixels -/

def paeth (a b c : Nat) : Nat :=
  let p : Int := (a : Int) + b - c
  let pa := (p - a).natAbs
  let pb := (p - b).natAbs
  let pc := (p - c).natAbs
  if pa ≤ pb ∧ pa ≤ pc then a else if pb ≤ pc then b else c

/-- A row's bytes from the filtered ones, the row above and the bytes of a pixel. -/
def unfilterRow (t bpp : Nat) (prev row : List Nat) : List Nat :=
  ((row.zip prev).foldl (fun (o : Array Nat) (p : Nat × Nat) =>
    let a := if o.size < bpp then 0 else o.getD (o.size - bpp) 0
    let c := if o.size < bpp then 0 else prev.getD (o.size - bpp) 0
    o.push ((p.1 + match t with
      | 0 => 0
      | 1 => a
      | 2 => p.2
      | 3 => (a + p.2) / 2
      | _ => paeth a p.2 c) % 256)) #[]).toList

/-- n rows of a pass, and what follows. -/
def pngRows (bpp len : Nat) : Nat → List Nat → List Nat → Dec (List (List Nat) × List Nat)
  | 0, _, bs => .ok ([], bs)
  | n + 1, prev, bs => do
    let (b, r) ← takeBytes (1 + len) bs
    require (decide (b.headD 0 ≤ 4))
    let row := unfilterRow (b.headD 0) bpp prev (b.drop 1)
    let (rows, r) ← pngRows bpp len n row r
    return (row :: rows, r)

/-- First column, first row and the steps of the passes of Adam7, or of the one pass of an image that is not interlaced. -/
def pngPasses (interlaced : Bool) : List (Nat × Nat × Nat × Nat) :=
  if interlaced then
    [(0, 0, 8, 8), (4, 0, 8, 8), (0, 4, 4, 8), (2, 0, 4, 4), (0, 2, 2, 4), (1, 0, 2, 2), (0, 1, 1, 2)]
  else [(0, 0, 1, 1)]

/-- The rows of every pass. -/
def pngImage (i : PngHead) : List (Nat × Nat × Nat × Nat) → List Nat → Dec (List (List (List Nat)))
  | [], bs => do
    require (decide (bs = []))
    return []
  | (x0, y0, dx, dy) :: ps, bs => do
    let w := (i.w - x0 + dx - 1) / dx
    let h := (i.h - y0 + dy - 1) / dy
    let bits := i.comps * i.depth
    let len := cdiv (w * bits) 8
    let (rows, r) ← (if w = 0 then .ok ([], bs) else pngRows (max 1 (bits / 8)) len h (List.replicate len 0) bs)
    let rest ← pngImage i ps r
    return rows :: rest

/-- Component k, as stored, of the pixel in a column of a row. -/
def pngStored (i : PngHead) (row : List Nat) (x k : Nat) : Nat :=
  let n := x * i.comps + k
  if i.depth = 16 then 256 * row.getD (2 * n) 0 + row.getD (2 * n + 1) 0
  else
    let per := 8 / i.depth
    row.getD (n / per) 0 / 2 ^ (i.depth * (per - 1 - n % per)) % 2 ^ i.depth

/-- The pixel's component in the passes. -/
def pngAt (i : PngHead) : List ((Nat × Nat × Nat × Nat) × List (List Nat)) → Nat → Nat → Nat → Nat
  | [], _, _, _ => 0
  | ((x0, y0, dx, dy), rows) :: ps, x, y, k =>
    if x0 ≤ x ∧ y0 ≤ y ∧ (x - x0) % dx = 0 ∧ (y - y0) % dy = 0 then
      pngStored i (rows.getD ((y - y0) / dy) []) ((x - x0) / dx) k
    else pngAt i ps x y k

/-- The picture, a palette expanded (R286). -/
def pngPic (i : PngHead) (rest : List Nat) : Dec Pic := do
  let p ← pngChunks i (rest.length + 1) {} rest
  let raw ← zlibData p.data
  let passes := pngPasses i.interlaced
  let rows ← pngImage i passes raw
  let at_ := pngAt i (passes.zip rows)
  if i.colour = 3 then
    let n := p.palette.length / 3
    require ((List.range i.h).all fun y => (List.range i.w).all fun x => decide (at_ x y 0 < n))
    return { w := i.w, h := i.h, colours := 3, alpha := decide (p.alpha ≠ []), depth := 8
             get := fun k x y => if k = 3 then p.alpha.getD (at_ x y 0) 255 else p.palette.getD (3 * at_ x y 0 + k) 0 }
  else
    let alpha := decide (i.colour ≥ 4)
    return { w := i.w, h := i.h, colours := if i.colour = 2 ∨ i.colour = 6 then 3 else 1, alpha := alpha, depth := i.depth
             get := fun k x y => at_ x y (if k = 3 then i.comps - 1 else k) }

end Sys2Proof.Machine
end

