-- ==== Sys2Proof/Machine/Media.lean ====
section
/-! DEFINITION. What a thresher makes of one record: the checks, decoding, augmentation and the slot's contents (R283, R284,
R288 to R294). -/
namespace Sys2Proof.Machine

/-! ### Header information (R283)

What the reading of a record's header information gives: the bytes that the sample needs when decoded, checked against the
limits. A feature that the decoder does not support shows here where the header states it. Assumption 55 (DEDUCED). -/

/-- The prefix of a raw or Opus record. -/
def prefixOf (pay : List Byte) : Except DropAt Nat := do
  cond (decide (pay.length < 8)) 5
  return ofBytes (pay.take 8)

/-- Decoded bytes of a picture that has passed the limits. -/
def pictureBytes (c : Class) (w h comps depth : Nat) (triple : Bool) : Except DropAt Nat := do
  let n := w * h * comps * (if depth ≤ 8 then 1 else 2) * (if triple then 3 else 1)
  imageLimits c w h n
  return n

/-- Decoded bytes of a sound that has passed the limits; for a length that is not known, the largest. -/
def soundBytes (c : Class) (n ch : Nat) : Except DropAt Nat := do
  audioLimits c n ch
  return n * ch * 4

/-- The header checks of a payload, of which `pay` is at least the part that `headDone` asks for and `len` the length. -/
def headerCheck (c : Class) (t len : Nat) (pay : List Byte) : Except DropAt Nat := do
  let bs := pay.map (·.toNat)
  if t = tJPEG then
    let f ← reasonOf 0 (jpegInfo bs)
    pictureBytes c f.w f.h f.comps.length 8 f.progressive
  else if t = tPNG then
    let (i, _) ← reasonOf 0 (pngHead bs)
    pictureBytes c i.w i.h i.comps i.depth false
  else if t = tRAWPIX then
    let p ← prefixOf pay
    let (ch, depth) := (bits p 39 32, bits p 47 40)
    cond (decide (bits p 63 48 ≠ 0)) 3
    cond (decide ((depth ≠ 8 ∧ depth ≠ 16) ∨ (ch ≠ 1 ∧ ch ≠ 3 ∧ ch ≠ 4) ∨ bits p 15 0 = 0 ∨ bits p 31 16 = 0)) 2
    pictureBytes c (bits p 15 0) (bits p 31 16) ch depth false
  else if t = tFLAC then
    let i ← reasonOf 0 (flacInfo bs)
    let n ← soundBytes c i.total i.ch
    return if i.total = 0 then c.limBytes else n
  else if t = tOPUS then
    let p ← prefixOf pay
    cond (decide (bits p 15 8 ≠ 0)) 3
    cond (decide (bits p 7 0 ≠ 1 ∧ bits p 7 0 ≠ 2)) 2
    soundBytes c (bits p 63 32) (bits p 7 0)
  else if t = tRAWPCM then
    let p ← prefixOf pay
    let (ch, rate, sf) := (bits p 39 32, bits p 31 0, bits p 47 40)
    cond (decide (bits p 63 48 ≠ 0)) 3
    cond (decide (sf > 2 ∨ (ch ≠ 1 ∧ ch ≠ 2) ∨ rate < 8000 ∨ rate > 192000)) 2
    soundBytes c ((len - 8) / ((if sf = 0 then 2 else if sf = 1 then 3 else 4) * ch)) ch
  else if modality t = 3 then
    cond (decide (len * 4 > c.limBytes)) 4
    return len * 4
  else return 0

/-- The bytes read so far hold the header information, or show that there is none. -/
def headDone (t : Nat) (pay : List Byte) : Bool :=
  if t = tJPEG then
    match jpegInfo (pay.map (·.toNat)) with
    | .error r => decide (r ≠ 5)
    | .ok _ => true
  else if t = tPNG then decide (33 ≤ pay.length)
  else if t = tFLAC then decide (42 ≤ pay.length)
  else modality t ≥ 3 || decide (8 ≤ pay.length)

/-! ### Images (R284, R286 to R289) -/

/-- Decode a picture: the picture and its units. Assumption 55 (DEDUCED). -/
def decodePic (c : Class) (t : Nat) (pay : List Byte) : Except DropAt (Pic × Nat) := do
  let input := cdiv pay.length 512
  let bs := pay.map (·.toNat)
  ceiling c input
  if t = tJPEG then jpegDecode c input bs
  else if t = tPNG then
    let (i, r) ← reasonOf input (pngHead bs)
    let u := input + i.w * i.h * i.comps / 64
    ceiling c u
    let p ← reasonOf u (pngPic i r)
    return (p, u)
  else
    let p := ofBytes (pay.take 8)
    let (w, h, ch, depth) := (bits p 15 0, bits p 31 16, bits p 39 32, bits p 47 40)
    let size := w * h * ch * (depth / 8)
    cond (decide (pay.length < 8 + size)) 5 input
    cond (decide (pay.length > 8 + size)) 9 input
    let u := input + w * h * ch / 64
    ceiling c u
    let at_ := fun k x y => ofBytes ((pay.drop (8 + ((k * h + y) * w + x) * (depth / 8))).take (depth / 8))
    return ({ w := w, h := h, colours := if ch = 1 then 1 else 3, alpha := decide (ch = 4), depth := depth, get := at_ }, u)

/-- A sample code as a binary32 value (R286). -/
def unitVal (q depth : Nat) : Fl Nat := deliver32 false (ratFV false q (2 ^ depth - 1) 0)

def add32f := add32 false
def mul32f := mul32 false

/-- a + f × (b − a), one rounding per operation. -/
def lerp (a b f : Nat) : Fl Nat :=
  let (d, g1) := sub32 false b a
  let (m, g2) := mul32 false f d
  let (r, g3) := add32 false a m
  (r, g1 ||| g2 ||| g3)

/-- Source index, its neighbour and the fraction of one axis (R289). -/
def scaleAxis (n out o : Nat) : Nat × Nat × Nat :=
  let step := n * 65536 / out
  let sx : Int := ((2 * o + 1) * step / 2 : Nat) - 32768
  let i := if sx < 0 then 0 else (sx / 65536).toNat
  let f := if sx < 0 then 0 else (deliver32 false (.fin false (sx % 65536).toNat (-16))).1
  if i + 1 > n - 1 then (n - 1, n - 1, f) else (i, i + 1, f)

/-- Codes and what they come to, written into a class tensor. -/
def writeCode (c : Class) (r : Fl Nat) : Nat × Nat × Nat :=
  let f := if c.fmt = 0 then f16 else f32
  let (v, g1) := f32.read false r.1
  let (k, g2) := deliver f false none c.scale v
  (k, r.2 ||| g1 ||| g2, if c.fmt = 0 ∧ bit g2 6 then 1 else 0)

/-- Stages 1 to 5 of R288. -/
def augmentImage (c : Class) (p : Params) (keep : Bool) (pic : Pic) (units : Nat) : Except DropAt Good := do
  let cw := if p.cropW = 0 then pic.w else p.cropW
  let ch := if p.cropW = 0 then pic.h else p.cropH
  cond (decide (p.cropX + cw > pic.w ∨ p.cropY + ch > pic.h)) 9 units
  let src := fun k x y => unitVal (pic.get k (p.cropX + (if p.flip then cw - 1 - x else x)) (p.cropY + y)) pic.depth
  let scaled := fun k ox oy =>
    let (x0, x1, fx) := scaleAxis cw p.outW ox
    let (y0, y1, fy) := scaleAxis ch p.outH oy
    let (a, g1) := src k x0 y0
    let (b, g2) := src k x1 y0
    let (d, g3) := src k x0 y1
    let (e, g4) := src k x1 y1
    let (top, g5) := lerp a b fx
    let (bot, g6) := lerp d e fx
    let (r, g7) := lerp top bot fy
    (r, g1 ||| g2 ||| g3 ||| g4 ||| g5 ||| g6 ||| g7)
  let colour := fun k ox oy =>
    let s := fun j => scaled (if pic.colours = 1 then 0 else j) ox oy
    let (a, h1) := s 0
    let (b, h2) := s 1
    let (d, h3) := s 2
    let (x, g1) := mul32f (p.m k 0) a
    let (y, g2) := mul32f (p.m k 1) b
    let (z, g3) := mul32f (p.m k 2) d
    let (t, g4) := add32f x y
    let (t, g5) := add32f t z
    let (t, g6) := add32f t (p.m k 3)
    (t, h1 ||| h2 ||| h3 ||| g1 ||| g2 ||| g3 ||| g4 ||| g5 ||| g6)
  let out := fun k ox oy =>
    if k = 3 then (if keep ∧ pic.alpha then scaled 3 ox oy else (0x3F800000, 0)) else colour k ox oy
  let cells := (List.range c.ch).flatMap fun k => (List.range c.ext1).flatMap fun y => (List.range c.ext0).map fun x =>
    if x < p.outW ∧ y < p.outH then writeCode c (out k x y) else (0, 0, 0)
  return { codes := cells.map (·.1), vw := p.outW, vh := p.outH, units := units,
           flags := cells.foldl (fun a q => a ||| q.2.1) 0, sats := cells.foldl (fun a q => a + q.2.2) 0 }

/-! ### Audio (R284, R286, R290) -/

/-- Decoded sound: its channels as binary32 codes with the flags met, and its samples per channel. -/
structure Clip where
  chans : List (List Nat)
  flags : Nat
  deriving DecidableEq, Repr

def Clip.n (x : Clip) : Nat := (x.chans.headD []).length

/-- An integer sample of b bits (R286). -/
def pcmVal (b : Nat) (i : Int) : Nat := (deliver32 false (.fin (decide (i < 0)) i.natAbs (1 - (b : Int)))).1

/-- Every n-th group of bytes as a number. -/
def groupsOf (n : Nat) : Nat → List Byte → List Nat
  | 0, _ => []
  | k + 1, bs => ofBytes (bs.take n) :: groupsOf n k (bs.drop n)

/-- The members of a list at places c, c + n, c + 2n and so on. -/
def everyNth {α : Type} (n c : Nat) (xs : List α) : List α := (xs.zipIdx.filter fun p => decide (p.2 % n = c)).map (·.1)

/-- Decode a sound: its samples and units. Assumption 55 (DEDUCED). -/
def decodeClip (c : Class) (t : Nat) (pay : List Byte) : Except DropAt (Clip × Nat) := do
  let input := cdiv pay.length 512
  let bs := pay.map (·.toNat)
  ceiling c input
  if t = tFLAC then
    let i ← reasonOf input (flacInfo bs)
    let frames ← reasonOf input (flacFrames (bs.length + 1) (bs.drop 4))
    let (blocks, u) ← flacAll c i (frames.length + 1) 0 input frames
    return ({ chans := (List.range i.ch).map fun k => blocks.flatMap fun b => (b.getD k []).map (pcmVal i.bits), flags := 0 }, u)
  else
    let p := ofBytes (pay.take 8)
    let body := pay.drop 8
    if t = tOPUS then
      let (ch, skip, total) := (bits p 7 0, bits p 31 16, bits p 63 32)
      let (ps, n, u) ← opusAll c (bs.length + 1) Config.opusGap input (bs.drop 8)
      cond (decide (n < skip + total)) 5 u
      return ({ chans := (List.range ch).map fun k => (List.range total).map fun j =>
                  pcmVal 16 (toSigned 16 (Config.opusSample ch ps k (skip + j) % 65536)), flags := 0 }, u)
    else
      let (ch, rate, sf) := (bits p 39 32, bits p 31 0, bits p 47 40)
      let size := if sf = 0 then 2 else if sf = 1 then 3 else 4
      let n := body.length / (size * ch)
      cond (decide (body.length % (size * ch) ≠ 0)) 5 input
      let u := input + cdiv (n * 50) rate
      ceiling c u
      let raw := groupsOf size (n * ch) body
      let val := fun k => if sf = 2 then (let (v, f) := f32.read false k; ((deliver32 false v).1, f))
        else (pcmVal (8 * size) (toSigned (8 * size) k), 0)
      let vs := raw.map val
      return ({ chans := (List.range ch).map fun k => everyNth ch k (vs.map (·.1)),
                flags := vs.foldl (fun a q => a ||| q.2) 0 }, u)

/-- Stages 1 to 4 of R290. -/
def augmentAudio (c : Class) (p : Params) (x : Clip) (units : Nat) : Good :=
  let n := x.n
  let half := 0x3F000000
  let src := fun (k : Nat) (i : Int) =>
    if i < 0 ∨ i ≥ n then ((0, 0) : Fl Nat)
    else
      let s := fun j => (x.chans.getD j []).getD i.toNat 0
      if c.ch = 1 ∧ x.chans.length = 2 then
        let (a, g1) := add32f (s 0) (s 1)
        let (b, g2) := mul32f a half
        (b, g1 ||| g2)
      else (s (if x.chans.length = 1 then 0 else k), 0)
  let out := fun k j =>
    let pos := toSigned 64 (ofSigned 64 (p.shift * 2 ^ 24 + (j * p.ratio : Nat)))
    let i := pos / 16777216
    let f := (deliver32 false (.fin false (pos % 16777216).toNat (-24))).1
    let (a, g1) := src k i
    let (b, g2) := src k (i + 1)
    let (y, g3) := lerp a b f
    let (y, g4) := mul32f y p.gain
    (y, g1 ||| g2 ||| g3 ||| g4)
  let cells := (List.range c.ch).flatMap fun k => (List.range c.ext0).map fun j =>
    if j < p.outLen then writeCode c (out k j) else (0, 0, 0)
  { codes := cells.map (·.1), valid := p.outLen, units := units,
    flags := x.flags ||| cells.foldl (fun a q => a ||| q.2.1) 0, sats := cells.foldl (fun a q => a + q.2.2) 0 }

/-! ### Text (R291 to R294) -/

/-- The bytes are UTF-8 by RFC 3629. -/
def utf8Ok : Nat → List Nat → Bool
  | 0, bs => bs.isEmpty
  | _ + 1, [] => true
  | k + 1, b :: bs =>
    let cont := fun (x : Nat) => decide (0x80 ≤ x ∧ x ≤ 0xBF)
    if b < 0x80 then utf8Ok k bs
    else
      match bs with
      | c :: r1 =>
        if 0xC2 ≤ b ∧ b ≤ 0xDF then cont c && utf8Ok k r1
        else
          match r1 with
          | d :: r2 =>
            if 0xE0 ≤ b ∧ b ≤ 0xEF then
              cont c && cont d && decide (¬(b = 0xE0 ∧ c < 0xA0)) && decide (¬(b = 0xED ∧ c > 0x9F)) && utf8Ok k r2
            else
              match r2 with
              | e :: r3 =>
                decide (0xF0 ≤ b ∧ b ≤ 0xF4) && cont c && cont d && cont e && decide (¬(b = 0xF0 ∧ c < 0x90)) &&
                  decide (¬(b = 0xF4 ∧ c > 0x8F)) && utf8Ok k r3
              | [] => false
          | [] => false
      | [] => false

/-- Divide bytes into chunks: `cur` is the present chunk reversed, `prev` the byte before. -/
def chunks : List Nat → Nat → List Nat → List (List Nat)
  | cur, _, [] => if cur = [] then [] else [cur.reverse]
  | cur, prev, b :: bs =>
    if cur = [] then chunks [b] b bs
    else if (b = 0x20 ∧ prev ≠ 0x20) ∨ cur.length ≥ 1024 then cur.reverse :: chunks [b] b bs
    else chunks (b :: cur) b bs

/-- Lowest entry that defines a pair; entries hold left + right × 2^32. -/
def mergeOf (table : List Nat) (a b : Nat) : Option Nat := table.findIdx? fun e => decide (e = a + b * 2 ^ 32)

/-- The lowest defining entry over the adjacent pairs. -/
def bestMerge (table : List Nat) : List Nat → Option Nat
  | a :: b :: rest =>
    match mergeOf table a b, bestMerge table (b :: rest) with
    | none, r => r
    | l, none => l
    | some x, some y => some (min x y)
  | _ => none

/-- Replace the leftmost pair whose lowest defining entry is r. -/
def applyMerge (table : List Nat) (r : Nat) : List Nat → List Nat
  | a :: b :: rest => if mergeOf table a b = some r then (256 + r) :: rest else a :: applyMerge table r (b :: rest)
  | xs => xs

/-- Merge a chunk: its tokens and the merges applied. -/
def mergeChunk (table : List Nat) : Nat → List Nat → List Nat × Nat
  | 0, xs => (xs, 0)
  | k + 1, xs =>
    match bestMerge table xs with
    | none => (xs, 0)
    | some r => let (ys, n) := mergeChunk table k (applyMerge table r xs); (ys, n + 1)

/-- A text or blob sample (R291, R294). -/
def decodeText (c : Class) (t : Nat) (table : List Nat) (pay : List Byte) : Except DropAt Good := do
  let size := if c.fmt = 0 then 2 else 4
  let fill := fun (xs : List Nat) (u : Nat) => ({ codes := xs ++ List.replicate (c.ext0 - xs.length) 0, valid := xs.length,
                                                  units := u } : Good)
  if t = tUTF8 then
    let bs := pay.map (·.toNat)
    let u0 := cdiv pay.length 64
    cond (!utf8Ok (bs.length + 1) bs) 11 u0
    let ms := (chunks [] 0 bs).map fun x => mergeChunk table x.length x
    let u := u0 + (ms.foldl (fun a q => a + q.2) 0) / 64
    ceiling c u
    let out := (if c.pre = 0xFFFFFFFF then [] else [c.pre]) ++ ms.flatMap (·.1) ++ (if c.suf = 0xFFFFFFFF then [] else [c.suf])
    cond (decide (out.length > c.ext0)) 8 u
    return fill out u
  else if t = tTOKENS then
    cond (decide (pay.length % 4 ≠ 0)) 5
    let xs := groupsOf 4 (pay.length / 4) pay
    cond (decide (c.vocab ≠ 0) && xs.any fun x => decide (x ≥ c.vocab)) 12
    cond (decide (xs.length > c.ext0)) 8
    return fill xs 0
  else
    cond (decide (pay.length % size ≠ 0)) 5
    let xs := groupsOf size (pay.length / size) pay
    cond (decide (xs.length > c.ext0)) 8
    return fill xs 0

/-! ### One sample (R283, R292) -/

/-- The declared lengths exceed the class. -/
def overLength (c : Class) (p : Params) (declLen : Nat) : Bool :=
  match c.modality with
  | 1 => decide (p.outW > c.ext0 ∨ p.outH > c.ext1)
  | 2 => decide (p.outLen > c.ext0)
  | _ => decide (declLen > c.ext0)

/-- The checks of a record header, in the order of R283. Assumption 55 (DEDUCED). -/
def sheafCheck (c : Class) (h : Sheaf) : Except DropAt Unit := do
  cond (decide (h.magic ≠ sheafMagic ∨ h.len = 0 ∨ h.len > 268435456)) 2
  cond (decide (h.flags / 2 ≠ 0)) 3
  cond (decide (modality h.typ = 0)) 2
  cond (decide (modality h.typ ≠ c.modality)) 9

/-- The checks of a record that its payload is not needed for (R292). Assumption 55 (DEDUCED). -/
def ingest (c : Class) (p : Option Params) (declLen : Nat) : Except DropAt Unit := do
  let ps := p.getD (Params.parse 0)
  cond (overLength c ps declLen) 7
  cond (decide (c.modality ≤ 2) && (p.isNone || ps.bad c.modality)) 9

/-- The decoding of a record that has passed the checks, its CRC last. Assumptions 54 (PRESUMED), 55 (DEDUCED). -/
def decodeSample (c : Class) (h : Sheaf) (p : Option Params) (table : List Nat) (pay : List Byte) : Except DropAt Good := do
  let ps := p.getD (Params.parse 0)
  let g ← (
    if c.modality = 1 then do
      let (pic, u) ← decodePic c h.typ pay
      augmentImage c ps (bit h.flags 0) pic u
    else if c.modality = 2 then do
      let (clip, u) ← decodeClip c h.typ pay
      return augmentAudio c ps clip u
    else decodeText c h.typ table pay)
  cond (decide (crc32c pay ≠ h.crc)) 1 g.units
  return g

end Sys2Proof.Machine
end

