-- ==== Sys2Proof/Machine/Queue.lean ====
section
/-! DEFINITION. Rings: doorbells, their configuration, and the taking of command descriptors (R356 to R362, R365). -/
namespace Sys2Proof.Machine

/-- The device moves this index of a ring itself (R357): the producer of queue pairs, events and errors, the consumer
of command streams and thresher inputs. -/
def Ring.deviceMoves (r : Ring) (producer : Bool) : Bool :=
  if producer then decide (r.binding = 1 ∨ r.binding = 4 ∨ r.binding = 5)
  else decide (r.binding = 2 ∨ r.binding = 3)

/-- How far an index may advance (R359). -/
def Ring.room (r : Ring) (producer : Bool) : Nat := if producer then r.size - r.fill else r.fill

/-- The queue manager refuses a doorbell write of this 64-bit word (R359). -/
def Ring.refuses (r : Ring) (producer : Bool) (v : Nat) : Bool :=
  r.deviceMoves producer || decide (r.binding = 0) || decide (v / 2 ^ 32 ≠ 0) ||
    decide ((v + 2 ^ 32 - (if producer then r.p else r.c)) % 2 ^ 32 > r.room producer)

/-- A doorbell write (R358, R359). Assumption 13 (DEDUCED). -/
def State.doorbell (s : State) (q : Nat) (producer : Bool) (v : Nat) : State :=
  let r := s.ring q
  s.setRing q (if r.refuses producer v then { r with refused := (r.refused + 1) % 2 ^ 32 }
    else if producer then { r with p := v } else { r with c := v })

/-- A read of a doorbell word returns the present index (R358). -/
def State.doorbellWord (s : State) (off : Nat) : Nat :=
  let r := s.ring (off / 16)
  if off % 16 < 8 then r.p else r.c

/-- PRODUCER_DOORBELL. -/
def execProducerDoorbell (ring value : Nat) (s : State) : Out :=
  if ring ≥ 4096 then .fault .noSuchUnit else .next (s.doorbell ring true (value % 2 ^ 64))

/-- CONSUMER_DOORBELL. -/
def execConsumerDoorbell (ring value : Nat) (s : State) : Out :=
  if ring ≥ 4096 then .fault .noSuchUnit else .next (s.doorbell ring false (value % 2 ^ 64))

/-- An uncorrectable descriptor stops its ring (R362). -/
def State.stopRing (s : State) (q addr src : Nat) : State :=
  let s := s.setRing q { s.ring q with stopped := true }
  s.post { reason := 0x0304, addr := addr, d0 := q, source := src }

/-- COMMAND_DESCRIPTOR_TAKE: the core takes the descriptor at the consumer index, when its ring is ACTIVE and not
empty, its stream goes on, and its last one has passed step 1 (R39, R357, R360). A UNIT or OP that no chapter defines
is refused at once (R35). -/
def execCommandDescriptorTake (ring : Nat) (s : State) : Out :=
  if ring ≥ 4096 then .fault .noSuchUnit
  else
    let r := s.ring ring
    let core := r.target / 4
    let stream := r.target % 4
    if r.binding ≠ 2 ∨ r.stopped ∨ r.fill = 0 ∨ core ≥ 800 ∨ s.isStopped core stream ∨ s.coreState core = 1 ∨
        s.coreState core = 3 ∨
        (s.ops.any fun (p : Nat × Op) => decide (p.2.ring = ring ∧ p.2.phase = .submitted)) then .next s
    else
      let a := r.slot r.c
      match s.readDesc a 64 with
      | (s, _, some _) => .next (s.stopRing ring a core)
      | (s, d, none) =>
        .next (s.submitOp { unit := core, stream := stream, ring := ring, descAddr := a, desc := d })

/-- A TARGET of the table of R357 for a binding; an unbound ring may already name the target of a binding to come.
Assumption 99 (DEDUCED). -/
def targetOk (binding t : Nat) : Bool :=
  match binding with
  | 0 => decide (t < 3200 ∨ t = 0xFFF)
  | 1 => decide (0x100 ≤ t ∧ t < 0x100 + 1024)
  | 2 => decide (t < 3200)
  | 3 => decide (t < 2)
  | 4 => decide (t < 800 ∨ t = 0x800 ∨ t = 0x801 ∨ t = 0xFFF)
  | 5 => decide (t = 0)
  | _ => false

/-- Another ring leaves no place for this one: a second ring of a TARGET of bindings 3 to 5, or a fifth command stream of
a core (R357). -/
def State.ringTaken (s : State) (q : Nat) (n : Ring) : Bool :=
  let others := s.rings.filter fun (p : Nat × Ring) => decide (p.1 ≠ q ∧ p.2.binding = n.binding)
  if n.binding = 2 then decide (4 ≤ (others.filter fun (p : Nat × Ring) => decide (p.2.target / 4 = n.target / 4)).length)
  else decide (3 ≤ n.binding) && others.any fun (p : Nat × Ring) => decide (p.2.target = n.target)

/-- A write to the configuration of ring q is judged by R357 and R365: `j` is the subindex
less 1. The answer is the new ring, or the status that refuses. -/
def State.queueCfg (s : State) (q j v : Nat) : Except Nat Ring :=
  let r := s.ring q
  let n : Ring := match j with
    | 0 => { r with base := v }
    | 1 => { r with log2 := v }
    | 2 => { r with binding := v }
    | 3 => { r with target := v }
    | _ => { r with notify := v }
  let n : Ring := { n with p := 0, c := 0, stopped := false }
  if s.running ∧ r.binding ≠ 0 then .error 3
  else if n.base + 64 * n.size > lpEnd then .error 5
  else if j = 4 ∧ 4096 ≤ v ∧ v ≤ 0xFFFE then .error 5
  else if targetOk n.binding n.target = false ∨ s.ringTaken q n then .error 5
  else .ok n

end Sys2Proof.Machine
end

