-- ==== Sys2Proof/Machine/Thresher.lean ====
section
/-! DEFINITION. The thresher's commands: the shuffle, THRESH_RUN and MERGE_LOAD, the taking of descriptors, the end of a
decode, the emission of slots and the resume point (R267 to R298). -/
namespace Sys2Proof.Machine

/-! ### The shuffle (R275, R276) -/

def shufMix (x : Nat) : Nat :=
  let x := m32 x
  let x := x ^^^ (x >>> 16)
  let x := m32 (x * 0x5A3D6E2B)
  let x := x ^^^ (x >>> 15)
  let x := m32 (x * 0x8C1E4F97)
  x ^^^ (x >>> 16)

/-- Round key i of a seed and data epoch. -/
def shufKey (seed e i : Nat) : Nat :=
  shufMix (seed % 2 ^ 32 ^^^ shufMix (bits seed 63 32 ^^^ shufMix (m32 e ^^^ (0x53485546 + i))))

/-- One round: the pair (L, R). -/
def shufRound (h k : Nat) (p : Nat × Nat) : Nat × Nat := (p.2, p.1 ^^^ (shufMix (p.2 ^^^ k) % 2 ^ h))

/-- enc of R275 over a domain of n bits. -/
def shufEnc (n seed e x : Nat) : Nat :=
  let h := n / 2
  let p := (List.range 4).foldl (fun p i => shufRound h (shufKey seed e i) p) (x >>> h, x % 2 ^ h)
  p.1 * 2 ^ h + p.2

/-- The walk from x to a value below S, and the evaluations it took so far. -/
def shufWalk (n seed e S : Nat) : Nat → Nat → Nat → Nat × Nat
  | 0, x, c => (x, c)
  | k + 1, x, c => if x < S then (x, c) else shufWalk n seed e S k (shufEnc n seed e x) (c + 1)

/-- π(p) and the evaluations of enc: the walk returns to p within the domain's size. -/
def shuffle (S seed e p : Nat) : Nat × Nat :=
  let n := shufBits S
  shufWalk n seed e S (2 ^ n) (shufEnc n seed e p) 1

def State.thrPos (s : State) (d k : Nat) : Nat := s.getO Obj.THRESH_POS_FIRST d + k * s.getO Obj.THRESH_POS_STRIDE d

/-! ### Operations (R278 to R281, R293) -/

def thCount (d : Nat) : Nat := bits d 511 488 + 1
def thRing (d : Nat) : Nat := bits d 487 476
def thTable (d : Nat) : Nat := bits d 475 428
def thMerges (d : Nat) : Nat := bits d 427 409

/-- Classes of a die's thresher that are enabled, by class object number 8d + c. -/
def State.classes (s : State) (d : Nat) : List Nat :=
  ((List.range 8).map (8 * d + ·)).filter fun c => decide (s.getO Obj.CLASS_MODALITY c ≠ 0)

/-- First byte and bytes of a class's slot ring. Assumption 57 (DEDUCED). -/
def State.slotRing (s : State) (c : Nat) : Nat × Nat := (s.getO Obj.CLASS_OUT_BASE c, s.getO Obj.CLASS_SLOTS c * s.slotBytes c)

def apart (p q : Nat × Nat) : Bool := decide (p.1 + p.2 ≤ q.1 ∨ q.1 + q.2 ≤ p.1 ∨ p.2 = 0 ∨ q.2 = 0)

/-- A class is configured as R280 asks. -/
def State.classBad (s : State) (c : Nat) : Bool :=
  let m := s.getO Obj.CLASS_MODALITY c
  let f := s.getO Obj.CLASS_FMT c
  decide (s.getO Obj.CLASS_SLOTS c = 0) || (decide (m ≠ 4) && decide (s.getO Obj.CLASS_AVG_UNITS c = 0)) ||
    (decide (m = 1 ∨ m = 2) && decide (f > 1)) || (decide (m = 3) && decide (f ≠ 2))

def State.ringsBad (s : State) (d : Nat) : Bool :=
  let cs := s.classes d
  let work := (s.getO Obj.THRESH_WORK_BASE d, s.getO Obj.THRESH_WORK_BYTES d)
  cs.any fun c =>
    let r := s.slotRing c
    !inLp r.1 r.2 || !apart r work || cs.any fun c' => decide (c' ≠ c) && !apart r (s.slotRing c')

/-- The conditions of R280 in order. -/
def thConds (s : State) (o : Op) (c : Nat) : List Bool :=
  let d := o.desc
  let die := dieOfUnit o.unit
  let r := s.ring (thRing d)
  let samples := s.getO Obj.SHUF_SAMPLES
  let run := decide (c = 1)
  [ decide (opLeaveClass d ≠ if c = 1 then 4 else 2) || opStrict d || opSround d || opNoexc d,
    run && decide (r.binding ≠ 3 ∨ r.target ≠ die),
    run && decide (samples = 0 ∨ s.getO Obj.THRESH_POS_FIRST die ≥ samples),
    run && (decide (s.getO Obj.THRESH_WORK_BYTES die < s.getO Obj.LIMIT_DECODED_BYTES) ||
      !inLp (s.getO Obj.THRESH_WORK_BASE die) (s.getO Obj.THRESH_WORK_BYTES die)),
    run && (s.classes die).any s.classBad,
    run && s.ringsBad die,
    run && (s.thr die).run.isSome,
    !run && (decide (thMerges d > 262144 ∨ thTable d % 8 ≠ 0) || !inLp (thTable d) (8 * thMerges d) ||
      (s.thr die).run.isSome) ]

/-- Assumption 24 (DEDUCED). -/
def thCheck (c : Nat) (s : State) (o : Op) : State × Chk :=
  let d := o.desc
  if bits d 408 128 ≠ 0 ∨ (if c = 1 then bits d 475 409 else bits d 511 476) ≠ 0 then (s, .refuse ⟨1, false⟩)
  else (s, ({} : Got).judged (thConds s o c))

/-- Step 4 of THRESH_RUN arms the thresher, or waits while another run is armed. Assumption 58 (DEDUCED). -/
def threshStart (s : State) (id : Nat) (o : Op) : State :=
  let die := dieOfUnit o.unit
  let t := s.thr die
  if t.run.isSome then s.blockOp id o
  else (s.setThr die { t with run := some id, left := thCount o.desc }).judge o.table

/-- THRESH_RUN (R278, R280, R281). -/
def execThreshRun (op : Nat) (s : State) : Out := .next (s.runOp 8 1 (thCheck 1) threshStart op)

/-- The first entry of a merge table with an id that no earlier token has. -/
def badMerge : Nat → List Nat → Option Nat
  | _, [] => none
  | r, e :: es => if e % 2 ^ 32 ≥ 256 + r ∨ e / 2 ^ 32 ≥ 256 + r then some r else badMerge (r + 1) es

/-- Step 4 of MERGE_LOAD: every entry is checked before the table is replaced (R293). Assumption 58 (DEDUCED). -/
def mergeLoadRun (s : State) (id : Nat) (o : Op) : State :=
  let die := dieOfUnit o.unit
  let n := thMerges o.desc
  if (s.thr die).run.isSome then s.blockOp id o
  else
    match (s.judge o.table).readMem (thTable o.desc) (8 * n) with
    | (s, _, some a) => s.failOp id o a 1 0
    | (s, bs, none) =>
      let es := groupsOf 8 n bs
      match badMerge 0 es with
      | some r => s.failOp id o r 4 0
      | none =>
        let s := s.setThr die { s.thr die with merges := es }
        (s.setO Obj.THRESH_MERGES n die).worked id o none

/-- MERGE_LOAD. -/
def execMergeLoad (op : Nat) (s : State) : Out := .next (s.runOp 8 2 (thCheck 2) mergeLoadRun op)

/-- The run that a thresher is executing. -/
def State.running? (s : State) (die : Nat) : Option (Nat × Op) :=
  match (s.thr die).run with
  | none => none
  | some id => (s.op? id).bind fun o => if o.phase = .executing then some (id, o) else none

/-! ### Descriptors (R270, R276, R277, R297) -/

def sdRec (d : Nat) : Nat := bits d 511 464
def sdParam (d : Nat) : Nat := bits d 463 416
def sdPos (d : Nat) : Nat := bits d 415 376
def sdSample (d : Nat) : Nat := bits d 375 336
def sdEpoch (d : Nat) : Nat := bits d 335 304
def sdDecl (d : Nat) : Nat := bits d 303 276
def sdClass (d : Nat) : Nat := bits d 275 273

/-- The descriptor breaks R270, beside the sequence. Assumption 56 (DEDUCED). -/
def State.sampleBad (s : State) (die d : Nat) : Bool :=
  let m := s.getO Obj.CLASS_MODALITY (8 * die + sdClass d)
  decide (bits d 272 0 ≠ 0) || decide (sdRec d % 16 ≠ 0 ∨ sdParam d % 64 ≠ 0) || !inLp (sdRec d) 16 || !inLp (sdParam d) 128 ||
    decide (m = 0) || (decide (m ≤ 2) && decide (sdDecl d ≠ 0))

/-- A new position past S begins the next data epoch (R276). -/
def State.thrWrap (s : State) (die : Nat) : State :=
  if s.thrPos die (s.getO Obj.THRESH_NEXT_K die) ≥ s.getO Obj.SHUF_SAMPLES then
    (s.setO Obj.THRESH_DATA_EPOCH ((s.getO Obj.THRESH_DATA_EPOCH die + 1) % 2 ^ 32) die).setO Obj.THRESH_NEXT_K 0 die
  else s

/-- The window reaches 64 positions from the oldest that is not yet emitted (R281). -/
def Thr.windowFull (t : Thr) : Bool :=
  match t.lanes.head? with
  | some l => decide (t.taken + 1 - l.seq ≥ 64)
  | none => false

/-- SAMPLE_DESCRIPTOR_TAKE: the next descriptor of the ring enters the window, or is passed over on resumption.
Assumption 56 (DEDUCED). -/
def execSampleDescriptorTake (die : Nat) (s : State) : Out :=
  if die > 1 then .fault .noSuchUnit
  else
    match s.running? die with
    | none => .next s
    | some (id, o) =>
      let q := thRing o.desc
      let r := s.ring q
      let t := s.thr die
      if t.windowFull ∨ t.lanes.length ≥ t.left ∨ r.binding ≠ 3 ∨ r.target ≠ die ∨ r.stopped ∨ r.fill = 0 then .next s
      else
        match s.readDesc (r.slot r.c) 64 with
        | (s, _, some _) => .next ((s.stopRing q (r.slot r.c) (0x32A + die)).failOp id o
            ((s.thrWrap die).thrPos die ((s.thrWrap die).getO Obj.THRESH_NEXT_K die)) 1 0)
        | (s, d, none) =>
          let s := s.setRing q { s.ring q with c := (r.c + 1) % 2 ^ 32 }
          let s := s.notify (if r.notify < 4096 then some r.notify else none)
          let s := s.thrWrap die
          let e := s.getO Obj.THRESH_DATA_EPOCH die
          let k := s.getO Obj.THRESH_NEXT_K die
          let p := s.thrPos die k
          let (x, walk) := shuffle (s.getO Obj.SHUF_SAMPLES) (s.getO Obj.WINNOW_JOB_SEED) e p
          let s := s.maxO Obj.THRESH_WALK_MAX walk die
          if sdEpoch d ≠ e ∨ sdPos d ≠ p ∨ sdSample d ≠ x ∨ s.sampleBad die d then .next (s.failOp id o p 3 0)
          else
            let c := sdClass d
            let s := s.setO Obj.THRESH_NEXT_K ((k + 1) % 2 ^ 64) die
            let t := { s.thr die with taken := (s.thr die).taken + 1 }
            let n := s.getO Obj.THRESH_SKIP die c
            if n > 0 then
              let s := s.setO Obj.THRESH_SKIP (n - 1) die c
              .next (s.setThr die { t with past := t.past ++ [{ epoch := e, k := k, cls := c, seq := t.taken, skipped := true }] })
            else
              .next (s.setThr die { t with lanes := t.lanes ++
                [{ epoch := e, k := k, pos := p, sample := x, cls := c, desc := d, seq := t.taken }] })

/-! ### The end of a decode (R281 to R294) -/

/-- The configuration of a class with the limits. -/
def State.cls (s : State) (c : Nat) : Class :=
  { modality := s.getO Obj.CLASS_MODALITY c, fmt := s.getO Obj.CLASS_FMT c, scale := s.getI Obj.CLASS_SCALE c,
    ch := s.getO Obj.CLASS_C c, ext0 := s.getO Obj.CLASS_EXT0 c, ext1 := s.getO Obj.CLASS_EXT1 c,
    ceil := s.getO Obj.CLASS_CEIL_MULT c * s.getO Obj.CLASS_AVG_UNITS c, maskEn := decide (s.getO Obj.CLASS_MASK_EN c ≠ 0),
    pre := s.getO Obj.CLASS_PREFIX_ID c, suf := s.getO Obj.CLASS_SUFFIX_ID c, vocab := s.getO Obj.CLASS_VOCAB c,
    limDim := s.getO Obj.LIMIT_DIM, limPix := s.getO Obj.LIMIT_PIXELS, limAudio := s.getO Obj.LIMIT_AUDIO_SAMPLES,
    limBytes := s.getO Obj.LIMIT_DECODED_BYTES }

/-- The sample record (R274). -/
def sampleRecord (l : Lane) (valid vw vh units status reason typ : Nat) : Nat :=
  l.pos * 2 ^ 216 + l.sample * 2 ^ 176 + l.epoch * 2 ^ 144 + valid % 2 ^ 28 * 2 ^ 116 + vw % 65536 * 2 ^ 100 +
    vh % 65536 * 2 ^ 84 + min units 0xFFFFFFFF * 2 ^ 52 + status * 2 ^ 48 + reason * 2 ^ 40 + l.cls * 2 ^ 37 + typ * 2 ^ 21

/-- The mask of R273: position (i0, i1) is valid. -/
def maskBytes (c : Class) (ok : Nat → Nat → Bool) : List Byte :=
  (List.range c.ext1).flatMap fun j => (List.range c.ext0).flatMap fun i => leBytes 2 (if ok i j then 0 else 0xFC00)

/-- The tensor and the mask of a slot, with their offsets. -/
def slotBody (c : Class) (tensorBytes : Nat) (codes : List Nat) (ok : Nat → Nat → Bool) : List (Nat × List Byte) :=
  (64, codes.flatMap (leBytes (fmtBytes c.fmt))) :: (if c.maskEn then [(64 + tensorBytes, maskBytes c ok)] else [])

/-- What a decoded or dropped sample leaves in its position: the record and the slot. -/
def laneDone (l : Lane) (c : Class) (tensorBytes typ : Nat) (r : Except DropAt Good) : Lane :=
  match r with
  | .ok g =>
    { l with
      done := true
      flags := g.flags
      sats := g.sats
      head := sampleRecord l g.valid g.vw g.vh g.units 0 0 typ
      body := slotBody c tensorBytes g.codes fun i j =>
        if c.modality = 1 then decide (i < g.vw ∧ j < g.vh) else decide (i < g.valid) }
  | .error d =>
    { l with
      done := true
      drop := some d.reason
      head := sampleRecord l 0 0 0 d.units 1 d.reason typ
      body := slotBody c tensorBytes (List.replicate (c.ext0 * c.ext1 * c.ch) 0) fun _ _ => false }

/-- Account for a drop (R282). -/
def State.countDrop (s : State) (die : Nat) (o : Op) (l : Lane) (reason : Nat) : State :=
  let s := s.incO Obj.THRESH_DROPS 1 die
  let s := s.incO Obj.THRESH_DROPS_BY_REASON 1 0 (reason - 1)
  let s := s.incO Obj.CLASS_DROPS 1 (8 * die + l.cls)
  if reason = 6 ∨ reason = 7 then s
  else s.post { reason := 0x0601, source := 0x32A + die, tag := opTag o.desc, addr := l.pos, d0 := reason, d1 := l.sample % 2 ^ 32 }

/-- The record at a lane's position has this lane kind; its header is read from memory. -/
def State.kindOf (s : State) (l : Lane) : Nat := laneKind (bits (ofBytes (s.peek (sdRec l.desc) 16)) 79 64)

/-- Position i of the window is being decoded: a lane of its kind has taken it (R281). -/
def State.inLane (s : State) (t : Thr) (i : Nat) (l : Lane) : Bool :=
  let kind := s.kindOf l
  decide (((t.lanes.take i).filter fun (x : Lane) => !x.done && decide (s.kindOf x = kind)).length < laneCount kind)

/-- Read a payload's beginning, 512 bytes at a time, until it holds the header information; nothing where a read is
uncorrectable. Assumption 117 (DESIGN CHOICE). -/
def State.readHead (s : State) (a typ len : Nat) : Nat → List Byte → State × Option (List Byte)
  | 0, bs => (s, some bs)
  | k + 1, bs =>
    if bs.length ≥ len ∨ headDone typ bs then (s, some bs)
    else
      match s.readMem (a + bs.length) (min 512 (len - bs.length)) with
      | (s, _, some _) => (s, none)
      | (s, b, none) => s.readHead a typ len k (bs ++ b)

/-- What the checks before the decode come to: a read that is uncorrectable, a drop, or a record with its parameters, the
beginning of its payload, the payload's length and the decoded bytes. -/
inductive HeadRes where
  | fault
  | drop (typ : Nat) (d : DropAt)
  | ok (h : Sheaf) (p : Option Params) (bs : List Byte) (size need : Nat)

/-- Check a record up to its header limits, reading no more than each check needs (R283, R292). -/
def State.headOf (s : State) (die : Nat) (l : Lane) : State × HeadRes :=
  let c := s.cls (8 * die + l.cls)
  let a := sdRec l.desc
  match s.readMem a 16 with
  | (s, _, some _) => (s, .fault)
  | (s, hb, none) =>
    let h := Sheaf.parse (ofBytes hb)
    match sheafCheck c h with
    | .error d => (s, .drop h.typ d)
    | .ok _ =>
      let hasParam := decide (c.modality ≤ 2 ∧ sdParam l.desc ≠ 0)
      match s.readMem (sdParam l.desc) (if hasParam then 128 else 0) with
      | (s, _, some _) => (s, .fault)
      | (s, pb, none) =>
        let p := if hasParam then some (Params.parse (ofBytes pb)) else none
        match ingest c p (sdDecl l.desc) with
        | .error d => (s, .drop h.typ d)
        | .ok _ =>
          let size := min h.len (lpEnd - (a + 16))
          match s.readHead (a + 16) h.typ size (cdiv size 512) [] with
          | (s, none) => (s, .fault)
          | (s, some bs) =>
            match headerCheck c h.typ size bs with
            | .error d => (s, .drop h.typ d)
            | .ok need => (s, .ok h p bs size need)

/-- Work memory that a position of the window holds or will ask for. -/
def State.workOf (s : State) (die : Nat) (l : Lane) : Nat :=
  if l.done then (l.work.map (·.2)).sum
  else match (s.headOf die l).2 with
    | .ok _ _ _ _ need => need
    | _ => 0

/-- The work area has room for position k: earlier positions, which must not wait for later ones, keep theirs
(R281). Assumption 117 (DESIGN CHOICE). -/
def State.hasRoom (s : State) (die k need : Nat) : Bool :=
  let ls := (s.thr die).lanes
  let later := ((ls.drop (k + 1)).filter (·.done)).map (s.workOf die)
  decide (((ls.take k).map (s.workOf die)).sum + later.sum + need ≤ s.getO Obj.THRESH_WORK_BYTES die)

/-- The lowest n bytes from `pos` to `fin` that lie outside areas in use, which are in order. -/
def takeRoom (fin : Nat) : Nat → Nat → List (Nat × Nat) → List (Nat × Nat)
  | n, pos, [] => if n = 0 then [] else [(pos, min n (fin - pos))]
  | n, pos, (a, b) :: us =>
    let g := min n (a - pos)
    (if g = 0 then [] else [(pos, g)]) ++ takeRoom fin (n - g) (a + b) us

/-- Reserve work memory for a decoded sample. Assumptions 21 (DESIGN CHOICE), 117 (DESIGN CHOICE). -/
def State.workRoom (s : State) (die need : Nat) : List (Nat × Nat) :=
  let base := s.getO Obj.THRESH_WORK_BASE die
  let used := ((s.thr die).lanes.flatMap (·.work)).mergeSort fun p q => p.1 ≤ q.1
  takeRoom (base + s.getO Obj.THRESH_WORK_BYTES die) need base used

/-- SAMPLE_DECODE_COMPLETE: the lane that holds position k of the window, counted from the oldest, has finished; it has not
while the work area lacks room for it. Assumption 117 (DESIGN CHOICE). -/
def execSampleDecodeComplete (die k : Nat) (s : State) : Out :=
  if die > 1 then .fault .noSuchUnit
  else
    match s.running? die, (s.thr die).lanes[k]? with
    | some (id, o), some l =>
      if l.done ∨ s.inLane (s.thr die) k l = false then .next s
      else
        let ci := 8 * die + l.cls
        let c := s.cls ci
        let finish := fun (s : State) (typ : Nat) (work : List (Nat × Nat)) (r : Except DropAt Good) =>
          let t := s.thr die
          s.setThr die { t with lanes := t.lanes.set k { laneDone l c (s.classTensor ci) typ r with work := work } }
        match s.headOf die l with
        | (s, .fault) => .next (s.failOp id o l.pos 1 0)
        | (s, .drop typ d) => .next (finish s typ [] (.error d))
        | (s, .ok h p bs size need) =>
          if s.hasRoom die k need = false then .next s
          else
            match s.readMem (sdRec l.desc + 16 + bs.length) (size - bs.length) with
            | (s, _, some _) => .next (s.failOp id o l.pos 1 0)
            | (s, more, none) =>
              let r := decodeSample c h p (s.thr die).merges (bs ++ more)
              let work := s.workRoom die need
              let s := work.foldl (fun (s : State) w => s.scramble w.1 w.2) s
              .next (finish s h.typ (if r.isOk then work else []) r)
    | _, _ => .next s

/-! ### Emission (R281) and the resume point (R297) -/

/-- Slots of a class that its consumer has not given back: what its free semaphore lacks to the ring's size, but for
one taken for a slot that is not yet written. Assumption 57 (DEDUCED). -/
def State.unfreed (s : State) (die c : Nat) : Nat :=
  let i := 8 * die + c
  let t := s.thr die
  let taken := s.getO Obj.CLASS_SLOTS i - (s.sem (s.getO Obj.CLASS_FREE_SEM i)).count
  taken - b2n (t.slotGranted && (t.lanes.head?.any fun (l : Lane) => decide (l.cls = c)))

/-- Positions of a list with what tells whether its slot is free: passed over, or emitted before the last ones that
its class's consumer still holds. -/
def State.freed (s : State) (die : Nat) : List Past → List (Past × Bool)
  | [] => []
  | p :: ps =>
    let later := (ps.filter fun (q : Past) => !q.skipped && decide (q.cls = p.cls)).length
    (p, p.skipped || decide (later ≥ s.unfreed die p.cls)) :: s.freed die ps

/-- Positions that the resume point no longer needs are forgotten: freed ones before every position that is not. -/
def State.trimPast (s : State) (die : Nat) : State :=
  let t := s.thr die
  let old := fun (p : Past) => t.lanes.head?.all fun (l : Lane) => decide (p.seq < l.seq)
  s.setThr die { t with past := ((s.freed die t.past).dropWhile fun (p : Past × Bool) => p.2 && old p.1).map (·.1) }

/-- The step boundary records the resume point of a thresher: the oldest position that is not freed, emitted or pending.
Assumption 57 (DEDUCED). -/
def State.resumePoint (s : State) (die : Nat) : State :=
  let s := s.trimPast die
  let t := s.thr die
  let past := s.freed die t.past
  let here := match past.find? fun (p : Past × Bool) => !p.2, t.lanes.head? with
    | some p, _ => (p.1.epoch, p.1.k)
    | none, some l => (l.epoch, l.k)
    | none, none => (s.getO Obj.THRESH_DATA_EPOCH die, s.getO Obj.THRESH_NEXT_K die)
  let s := (s.setO Obj.THRESH_RESUME_EPOCH here.1 die).setO Obj.THRESH_RESUME_K here.2 die
  (List.range 8).foldl (fun (s : State) c =>
    let n := (past.filter fun (q : Past × Bool) => q.2 && decide (q.1.cls = c)).length
    s.setO Obj.THRESH_RESUME_SKIP ((n + s.getO Obj.THRESH_SKIP die c) % 2 ^ 32) die c) s

/-- Read the work memory that holds a sample. -/
def State.readWork (s : State) : List (Nat × Nat) → State × Bool
  | [] => (s, true)
  | (a, n) :: ws =>
    match s.readMem a n with
    | (s, _, some _) => (s, false)
    | (s, _, none) => s.readWork ws

/-- A position has left the window: its place is by the order in which positions were taken. -/
def Past.insert (p : Past) (ps : List Past) : List Past :=
  (ps.filter fun (q : Past) => decide (q.seq < p.seq)) ++ p :: ps.filter fun (q : Past) => decide (q.seq > p.seq)

/-- Account for an emitted sample: a drop, or the flags and saturations of what was written (R282, R291). -/
def State.countSample (s : State) (die : Nat) (o : Op) (l : Lane) : State :=
  match l.drop with
  | some r => s.countDrop die o l r
  | none => (s.orO Obj.THRESH_FLAGS (l.flags % 128)).incO Obj.SATURATION_TOTAL l.sats

/-- Write the slot of the oldest position and signal its consumer. Memory that cannot be read or written abandons the run, with
the position in its record (R296, R565). -/
def State.writeSlot (s : State) (die id : Nat) (o : Op) (l : Lane) : State :=
  let ci := 8 * die + l.cls
  let i := s.getO Obj.CLASS_EMITTED ci % s.getO Obj.CLASS_SLOTS ci
  let a := s.getO Obj.CLASS_OUT_BASE ci + i * s.slotBytes ci
  match s.readWork l.work with
  | (s, false) => s.failOp id o l.pos 1 0
  | (s, true) =>
    match s.writeAll ((a, leBytes 32 l.head) :: l.body.map fun (p : Nat × List Byte) => (a + p.1, p.2)) with
    | (s, some _) => s.failOp id o l.pos 1 0
    | (s, none) =>
      let t := s.thr die
      let s := s.setThr die { t with
        lanes := t.lanes.drop 1
        left := t.left - 1
        slotGranted := false
        past := Past.insert { epoch := l.epoch, k := l.k, cls := l.cls, seq := l.seq } t.past }
      let s := (s.incO Obj.THRESH_EMITTED 1 die).incO Obj.CLASS_EMITTED 1 ci
      let s := ((s.countSample die o l).trimPast die).signal (s.getO Obj.CLASS_FULL_SEM ci) 1
      if t.left ≤ 1 then s.worked id o none else s

/-- SLOT_EMIT: the oldest position of the window is emitted once it is decoded and its class has a free slot. A slot wait
that ends with orphan status abandons the run (R353). Assumption 57 (DEDUCED). -/
def execSlotEmit (die : Nat) (s : State) : Out :=
  if die > 1 then .fault .noSuchUnit
  else
    match s.running? die, (s.thr die).lanes.head? with
    | some (id, o), some l =>
      let t := s.thr die
      if t.slotOrphan then .next (s.failOp id o l.pos 0 0)
      else if l.done = false ∨ t.waitSlot then .next s
      else if t.slotGranted then .next (s.writeSlot die id o l)
      else
        let (s, r) := s.semWaitOp (s.getO Obj.CLASS_FREE_SEM (8 * die + l.cls)) 1 false (.slot die)
        match r with
        | .granted => .next ((s.setThr die { s.thr die with slotGranted := true }).writeSlot die id o l)
        | .orphan => .next (s.failOp id o l.pos 0 0)
        | _ => .next (s.setThr die { s.thr die with waitSlot := true })
    | _, _ => .next s

end Sys2Proof.Machine
end

