-- ==== Sys2Proof/Machine/Boundary.lean ====
section
/-! DEFINITION. The step boundary: the census exchange, the scale rules, the step number and the resume points (R67,
R74 to R76, R226, R245, R258, R259, R297, R562). -/
namespace Sys2Proof.Machine

/-! ### The rule of the history window (R75, R226, R245) -/

/-- What a scale holds between steps: its history of sixteen 16-bit codes, position and exponent. -/
structure Scale where
  hist : List Nat
  pos : Nat
  exp : Int
  deriving DecidableEq, Repr

def emptyMax : Nat := 0x8000

/-- The next exponent for a step's largest exponent (16-bit code, 0x8000 for none) and saturations, with margin `mg`. -/
def Scale.next (x : Scale) (mg top sats : Nat) : Scale :=
  let h := if sats > 0 then ofSigned 16 (x.exp + 16) else top
  let hist := x.hist.set x.pos h
  let full := hist.filter fun c => decide (c ≠ emptyMax)
  let new := match full.map (toSigned 16) with
    | [] => x.exp
    | e :: es => min 127 (max (-128) (es.foldl max e + (mg : Int) - 15))
  { hist := hist, pos := (x.pos + 1) % 16, exp := new }

/-- The sixteen history codes of an entry's upper half. -/
def histOf (w : Nat) : List Nat := (List.range 16).map fun j => bits w (271 + 16 * j) (256 + 16 * j)
def histBits (hs : List Nat) : Nat := hs.foldr (fun h a => h % 65536 + 65536 * a) 0

/-! ### The record (R258) -/

/-- A 64-bit word of a signed 16-bit code. -/
def maxWord (c : Nat) : Nat := ofSigned 64 (toSigned 16 c)

/-- An entry at `a`, with its enable bit and the places of its maximum and count: enabled or unreadable ones give two
words. Assumption 22 (DEDUCED). -/
def State.entryWords (s : State) (kind n a en hi lo : Nat) : State × List (Nat × Nat × Bool) × List Nat :=
  match s.readMem a 64 with
  | (s, _, some _) => (s, [(kind, n, false)], [maxWord emptyMax, 0])
  | (s, bs, none) =>
    let w := ofBytes bs
    if bit w en then (s, [(kind, n, true)], [maxWord (bits w hi lo), bits w 223 192]) else (s, [], [])

/-- The words of entries 0 to n − 1 of a table. -/
def State.tableWords (s : State) (kind : Nat) (at_ : Nat → Nat) (en hi lo : Nat) :
    List Nat → State × List (Nat × Nat × Bool) × List Nat
  | [] => (s, [], [])
  | n :: ns =>
    let (s, i, w) := s.entryWords kind n (at_ n) en hi lo
    let (s, is, ws) := s.tableWords kind at_ en hi lo ns
    (s, i ++ is, w ++ ws)

/-- Groups whose scale the update engine manages. -/
def State.managed (s : State) : List Nat :=
  (List.range 256).filter fun g => decide (s.getO Obj.GROUP_ENABLE g = 1 ∧ s.getO Obj.GROUP_WSCALE_MODE g = 1)

/-- The census record of this device. -/
def State.censusRecord (s : State) : State × List (Nat × Nat × Bool) × List Nat :=
  let (s, i1, w1) := s.tableWords 0 s.slotAddr 93 116 101 (List.range (s.getO Obj.SCALE_SLOTS))
  let gs := s.managed
  let w2 := gs.flatMap fun g =>
    [maxWord (ofSigned 16 (((SMap.get 0 s.wmax g : Nat) : Int) - 32768)), min 0xFFFFFFFF (SMap.get 0 s.wsat g)]
  let (s, i3, w3) := s.tableWords 2 s.bscaleAt 160 183 168 (List.range (s.getO Obj.REDUCE_BSCALE_ENTRIES))
  (s, i1 ++ gs.map (fun g => (1, g, true)) ++ i3, w1 ++ w2 ++ w3 ++ [b2n s.abortedInStep])

/-- Combine two records of one length: maxima, stopping sums, and the final word by or. -/
def combine : List Nat → List Nat → List Nat
  | a :: c :: xs, b :: d :: ys =>
    (if toSigned 64 a < toSigned 64 b then b else a) :: min 0xFFFFFFFF (c + d) :: combine xs ys
  | [a], [b] => [a ||| b]
  | _, _ => []

/-- Send the record to the partner of a device level. -/
def State.sendCensus (s : State) (level : Nat) (words : List Nat) : State :=
  s.sendVc2 (s.partner level) 3 (words.flatMap (leBytes 8))

/-! ### Steps 3 to 5 of R226 -/

/-- Write the scale into the descriptor that a slot names (R75, R76, R562). -/
def State.slotDesc (s : State) (n w : Nat) (e : Int) : State :=
  let a := bits w 191 149 * 32
  let bad := fun (s : State) =>
    (s.incO Obj.SCALE_ERRORS).post { reason := 0x0107, addr := a, d0 := n }
  match s.readMem a 32 with
  | (s, _, some _) => bad s
  | (s, bs, none) =>
    let d := ofBytes bs
    if bits d 176 175 ≠ 0 ∨ bits d 211 188 ≠ bits w 148 125 then bad s
    else
      match s.writeMem a (leBytes 32 (setBits d 187 180 (ofSigned 8 e))) with
      | (s, some _) => bad s
      | (s, none) => s

/-- A scale slot with its combined maximum and count. -/
def State.updateSlot (s : State) (n top sats : Nat) : State :=
  let a := s.slotAddr n
  match s.readMem a 64 with
  | (s, _, some _) => s
  | (s, bs, none) =>
    let w := ofBytes bs
    let mg := if bits w 96 94 = 0 then s.getO Obj.SCALE_MARGIN_DEFAULT else bits w 96 94
    let x : Scale := { hist := histOf w, pos := bits w 100 97, exp := toSigned 8 (bits w 124 117) }
    let y := x.next mg top sats
    let w' := setBits w 511 256 (histBits y.hist)
    let w' := setBits w' 255 224 (min 0xFFFFFFFF (bits w 255 224 + sats))
    let w' := setBits (setBits w' 223 192 0) 124 117 (ofSigned 8 y.exp)
    let w' := setBits (setBits w' 116 101 emptyMax) 100 97 y.pos
    (s.writeMem a (leBytes 64 w')).1.slotDesc n w y.exp

/-- A bale scale entry. -/
def State.updateBscale (s : State) (n top sats : Nat) : State :=
  let a := s.bscaleAt n
  match s.readMem a 64 with
  | (s, _, some _) => s
  | (s, bs, none) =>
    let w := ofBytes bs
    let mg := if bits w 163 161 = 0 then s.getO Obj.REDUCE_BSCALE_MARGIN_DEFAULT else bits w 163 161
    let x : Scale := { hist := histOf w, pos := bits w 167 164, exp := toSigned 8 (bits w 191 184) }
    let y := x.next mg top sats
    let w' := setBits w 511 256 (histBits y.hist)
    let w' := setBits w' 255 224 (min 0xFFFFFFFF (bits w 255 224 + sats))
    let w' := setBits (setBits w' 223 192 0) 191 184 (ofSigned 8 y.exp)
    let w' := setBits (setBits w' 183 168 emptyMax) 167 164 y.pos
    (s.writeMem a (leBytes 64 w')).1

/-- A managed group. -/
def State.updateGroup (s : State) (g top sats : Nat) : State :=
  let x : Scale := { hist := (List.range 16).map fun j => s.getO Obj.GROUP_WHIST g j % 65536,
                     pos := s.getO Obj.GROUP_WHPOS g % 16, exp := s.getI Obj.GROUP_WSCALE g }
  let y := x.next (s.getO Obj.GROUP_WMARGIN g) top sats
  let s := s.setI Obj.GROUP_WHIST (toSigned 16 (y.hist.getD x.pos emptyMax)) g x.pos
  let s := (s.setO Obj.GROUP_WHPOS y.pos g).setI Obj.GROUP_WSCALE y.exp g
  { s with wmax := SMap.erase s.wmax g, wsat := SMap.erase s.wsat g }

/-- Apply the combined record to what its pairs of words belong to. -/
def State.applyItems (s : State) : List (Nat × Nat × Bool) → List Nat → State
  | (k, n, ok) :: is, top :: sats :: ws =>
    let c := ofSigned 16 (toSigned 64 top)
    let s := if ok = false then s
      else match k with
        | 0 => (s.updateSlot n c sats).setO Obj.SCALE_LAST_STEP (s.getO Obj.WINNOW_STEP)
        | 1 => s.updateGroup n c sats
        | _ => s.updateBscale n c sats
    s.applyItems is ws
  | _, _ => s

/-- The exchange is complete: steps 3 to 5, and what the boundary clears (R259). -/
def State.finishStep (s : State) (r : StepRun) : State :=
  let s := s.incO Obj.REDUCE_EXCHANGES
  let s := s.setO Obj.REDUCE_EXCHANGE_WORDS r.words.length
  let s := s.setO Obj.REDUCE_CENSUS_PREV_STEP (s.getO Obj.REDUCE_CENSUS_STEP)
  let s := (s.setO Obj.REDUCE_CENSUS_STEP 0).setO Obj.REDUCE_NEXT_BALE 0
  let s := s.applyItems r.items r.words
  let s := s.setO Obj.WINNOW_STEP ((s.getO Obj.WINNOW_STEP + 1) % 2 ^ 32)
  let s := ({ s with updWait := [] }).judgeHeld
  let s : State := { s with
    stepRun := s.stepQueue.head?.map fun e => { boundary := e }
    stepQueue := s.stepQueue.tail
    earlyPkts := s.earlyPkts.filter fun (q : Nat × RedPacket) => decide (q.2.step = s.getO Obj.WINNOW_STEP)
    baleFrom := [], balesDone := [], balesAborted := [], updDiscard := [], abortedInStep := false }
  ((s.resumePoint 0).resumePoint 1).judgeStep

/-! ### The exchange (R258, R259) -/

/-- Go through the device levels whose records have arrived. -/
def State.exchange : Nat → State → State
  | 0, s => s
  | k + 1, s =>
    match s.stepRun with
    | none => s
    | some r =>
      if r.begun = false then s
      else if r.level ≥ s.levels then s.finishStep r
      else
        let j := r.level + 1
        match s.censusRecv.find? fun (p : Nat × List Nat) => decide (p.1 = j) with
        | none => s
        | some (_, ws) =>
          let s := { s with censusRecv := SMap.erase s.censusRecv j }
          if ws.length ≠ r.words.length then
            let s : State := { s with stepRun := none, stepQueue := [], stepDead := some r.boundary }
            let s := s.judgeStep
            s.post { reason := 0x0503, addr := s.partner j, d0 := r.words.length, d1 := ws.length }
          else
            let r := { r with level := j, words := combine r.words ws }
            let s : State := { s with stepRun := some r }
            let s := if j < s.levels then s.sendCensus (j + 1) r.words else s
            State.exchange k s

def State.exchangeAll (s : State) : State := State.exchange (s.levels + 1) s

/-- Every operation that began in the step has ended. -/
def State.stepQuiet (s : State) : Bool :=
  s.ops.all fun (p : Nat × Op) => !p.2.phase.begun || decide (p.2.step ≠ s.getO Obj.WINNOW_STEP)

/-- STEP_BOUNDARY: the procedure of R226 goes as far as it can. -/
def execStepBoundary (s : State) : Out :=
  match s.stepRun with
  | none => .next s
  | some r =>
    if r.begun then .next s.exchangeAll
    else if s.stepQuiet = false then .next s
    else
      let (s, items, words) := s.censusRecord
      let s : State := { s with stepRun := some { r with begun := true, items := items, words := words } }
      let s := if s.levels > 0 then s.sendCensus 1 words else s
      .next s.exchangeAll

/-- CENSUS_RECORD_RECEIVE: a partner's record arrives; one that comes before its level is kept. The data of one
with blocks marked uncorrectable is not used (R380, R407). Assumption 105 (DESIGN CHOICE). -/
def execCensusRecordReceive (src level : Nat) (r : CensusRec) (s : State) : Out :=
  if r.ue then .next s
  else if level = 0 ∨ level > s.levels ∨ s.partner level ≠ src then .next s
  else .next ({ s with censusRecv := SMap.put s.censusRecv level (r.words.map (· % 2 ^ 64)) }).exchangeAll

end Sys2Proof.Machine
end

