-- ==== Sys2Proof/Machine/Line.lean ====
section
/-! DEFINITION. The line of a field port: the RS(544,514) code over its eight lanes and the link frame that fills its
message (R404, R406, R408). -/
namespace Sys2Proof.Machine

/-! ### The field of 1,024 elements and the generator

The code of IEEE 802.3: the field polynomial is x^10 + x^3 + 1 and the generator has the roots α^0 to α^29.
Assumption 103 (PRESUMED). -/

/-- Times α. -/
def rsX (a : Nat) : Nat := if a < 512 then 2 * a else (2 * a) ^^^ 0x409

/-- Product, by Horner's rule over the bits of the second factor. -/
def rsMul (a b : Nat) : Nat := (List.range 10).foldl (fun c i => rsX c ^^^ (if bit b (9 - i) then a else 0)) 0

/-- a^e for e below 1,024, by squaring. -/
def rsPow (a e : Nat) : Nat :=
  (List.range 10).foldl (fun v i => if bit e (9 - i) then rsMul a (rsMul v v) else rsMul v v) 1

/-- α^e, e taken modulo 1,023. -/
def rsAlpha (e : Nat) : Nat := rsPow 2 (e % 1023)

/-- Inverse: a^1022. -/
def rsInv (a : Nat) : Nat := rsPow a 1022

/-- Value of a polynomial, coefficients from the lowest degree on. -/
def polyAt (cs : List Nat) (x : Nat) : Nat := cs.foldr (fun c v => c ^^^ rsMul v x) 0

/-- p + k·x·q. -/
def polyShiftAdd (p q : List Nat) (k : Nat) : List Nat :=
  let q := 0 :: q.map (rsMul k)
  (List.range (max p.length q.length)).map fun i => p.getD i 0 ^^^ q.getD i 0

/-- The generator of degree 30, lowest degree first. -/
def rsGen : List Nat := (List.range 30).foldl (fun g j =>
  let a := rsAlpha j
  (List.range (g.length + 1)).map fun i => (if i = 0 then 0 else g.getD (i - 1) 0) ^^^ rsMul a (g.getD i 0)) [1]

/-- Symbols of ten bits side by side, the first lowest. -/
def packSyms (xs : List Nat) : Nat := xs.foldr (fun x v => x + 1024 * v) 0

/-- The low 30 coefficients of the generator times α^b, for each b below 10. -/
def rsRows : List Nat := (List.range 10).map fun b => packSyms ((rsGen.take 30).map fun g => (List.range b).foldl (fun g _ => rsX g) g)

def sym (w i : Nat) : Nat := (w >>> (10 * i)) % 1024

/-- One step of the division by the generator: the remainder after one more symbol. -/
def rsStep (rows : List Nat) (rem x : Nat) : Nat :=
  let f := x ^^^ (rem >>> 290)
  let r := (rem <<< 10) % 2 ^ 300
  if f = 0 then r else rows.zipIdx.foldl (fun r (p : Nat × Nat) => r ^^^ p.1 * ((f >>> p.2) % 2)) r

/-- Remainder of n symbols of a word, symbol 0 of the highest degree. -/
def rsRem (w n : Nat) : Nat := (List.range n).foldl (fun r i => rsStep rsRows r (sym w i)) 0

/-- The 30 check symbols of a message in the order in which they follow it, from the remainder. -/
def rsChecks (rem : Nat) : Nat := packSyms ((List.range 30).map fun j => sym rem (29 - j))

/-- The codeword of a 5,140-bit message: symbol i holds bits [10i + 9:10i] of the message, then come the check symbols. -/
def rsEncode (m : Nat) : Nat := m % 2 ^ 5140 + rsChecks (rsRem m 514) * 2 ^ 5140

/-! ### Decoding -/

/-- The syndromes of a received word, from the symbols by which its check symbols differ from those of its message: both
differ by a multiple of the generator from the whole word. -/
def rsSyndromes (w : Nat) : List Nat :=
  let d := (w >>> 5140) ^^^ rsChecks (rsRem w 514)
  let xs := (List.range 30).map (sym d)
  (List.range 30).map fun j => xs.foldl (fun v x => rsMul v (rsAlpha j) ^^^ x) 0

/-- The state of the search for the shortest recurrence: the connection polynomial, the one before its last change of
length, that length, the steps since, and the discrepancy then. -/
structure Lfsr where
  c : List Nat := [1]
  b : List Nat := [1]
  len : Nat := 0
  m : Nat := 1
  d : Nat := 1
  deriving DecidableEq, Repr

/-- The next syndrome, number n. -/
def Lfsr.next (ss : List Nat) (z : Lfsr) (n : Nat) : Lfsr :=
  let d := (List.range (z.len + 1)).foldl (fun v i => v ^^^ rsMul (z.c.getD i 0) (ss.getD (n - i) 0)) 0
  if d = 0 then { z with m := z.m + 1 }
  else
    let c := polyShiftAdd z.c (List.replicate (z.m - 1) 0 ++ z.b) (rsMul d (rsInv z.d))
    if 2 * z.len ≤ n then { c := c, b := z.c, len := n + 1 - z.len, m := 1, d := d }
    else { z with c := c, m := z.m + 1 }

/-- The error locator. -/
def rsLocator (ss : List Nat) : Lfsr := (List.range 30).foldl (Lfsr.next ss) {}

/-- Positions of the errors and their values. -/
def rsErrors (ss : List Nat) (z : Lfsr) : List (Nat × Nat) :=
  let omega := (List.range 30).map fun k => (List.range (k + 1)).foldl (fun v i => v ^^^ rsMul (z.c.getD i 0) (ss.getD (k - i) 0)) 0
  let deriv := (List.range z.len).map fun i => if i % 2 = 0 then z.c.getD (i + 1) 0 else 0
  ((List.range 544).filter fun i => decide (polyAt z.c (rsAlpha (1023 - (543 - i))) = 0)).map fun i =>
    let x := rsAlpha (1023 - (543 - i))
    (i, rsMul (rsAlpha (543 - i)) (rsMul (polyAt (omega.take z.len) x) (rsInv (polyAt deriv x))))

/-- Decode a received word: the message and the symbols corrected, at most 15; none where no codeword is that near.
A word of the code is recognised by its remainder. -/
def rsDecode (w : Nat) : Option (Nat × Nat) :=
  let m := w % 2 ^ 5140
  if w = rsEncode m then some (m, 0)
  else
    let ss := rsSyndromes w
    let z := rsLocator ss
    if z.len > 15 then none
    else
      let es := rsErrors ss z
      let v := es.foldl (fun v (p : Nat × Nat) => v ^^^ (p.2 <<< (10 * p.1))) w
      if es.length ≤ 15 ∧ v = rsEncode (v % 2 ^ 5140) then some (v % 2 ^ 5140, es.length) else none

/-- Symbol i of a codeword goes to lane i mod 8: the 680 bits of each lane, earliest lowest (R404). -/
def toLanes (w : Nat) : List Nat := (List.range 8).map fun l => packSyms ((List.range 68).map fun k => sym w (8 * k + l))

/-- The codeword that eight lanes bring. -/
def ofLanes (ls : List Nat) : Nat := packSyms ((List.range 544).map fun i => sym (ls.getD (i % 8) 0) (i / 8))

/-! ### The link frame (R406) -/

/-- A link frame: the header fields, the data blocks in use, and the blocks that UE_MASK names. -/
structure LinkFrame where
  kind : Nat
  vc : Nat := 0
  seq : Nat := 0
  ack : Nat := 0
  nak : Bool := false
  cr0 : Nat := 0
  cr1 : Nat := 0
  cr2 : Nat := 0
  blocks : List Byte := []
  bad : List Nat := []
  deriving DecidableEq, Repr

/-- Bits [5139:4896] of the frame. -/
def LinkFrame.head (f : LinkFrame) : Nat :=
  f.kind % 16 * 2 ^ 240 + f.vc % 4 * 2 ^ 238 + f.blocks.length / 16 % 64 * 2 ^ 232 + f.seq % 65536 * 2 ^ 216 +
    f.ack % 65536 * 2 ^ 200 + b2n f.nak * 2 ^ 199 + f.cr0 % 4096 * 2 ^ 187 + f.cr1 % 4096 * 2 ^ 175 + f.cr2 % 4096 * 2 ^ 163 +
    (((List.range 38).filter fun i => f.bad.contains i).map (2 ^ ·)).sum * 2 ^ 125

/-- The frame's CRC: the header bits as 31 bytes, lowest first, then the blocks in use. Assumption 103 (PRESUMED). -/
def frameCrc (head : Nat) (blocks : List Byte) : Nat := crc32c (leBytes 31 head ++ blocks)

/-- The 5,140 bits of a frame; blocks not in use are zero. -/
def LinkFrame.word (f : LinkFrame) : Nat :=
  f.head * 2 ^ 4896 + frameCrc f.head f.blocks * 2 ^ 4864 + ofBytes f.blocks

/-- The frame in a message of the FEC, where its CRC matches. -/
def LinkFrame.ofWord (w : Nat) : Option LinkFrame :=
  let n := bits w 5133 5128
  let blocks := leBytes (16 * n) (bits w 4863 0)
  if n > 38 ∨ frameCrc (bits w 5139 4896) blocks ≠ bits w 4895 4864 then none
  else some {
    kind := bits w 5139 5136, vc := bits w 5135 5134, seq := bits w 5127 5112, ack := bits w 5111 5096, nak := bit w 5095
    cr0 := bits w 5094 5083, cr1 := bits w 5082 5071, cr2 := bits w 5070 5059
    blocks := blocks, bad := (List.range 38).filter fun i => bit w (5021 + i) }

/-- The lanes of a frame. -/
def LinkFrame.lanes (f : LinkFrame) : List Nat := toLanes (rsEncode f.word)

end Sys2Proof.Machine
end

