-- ==== Sys2Proof/Machine/Link.lean ====
section
/-! DEFINITION. The field ports: frames, credits and replay, training, faults, forwarding, and the receiving side of sends
(R400 to R428). -/
namespace Sys2Proof.Machine

/-! ### Ports (R401, R417, R420, R426) -/

def pOFF : Nat := 0
def pTRAIN : Nat := 1
def pCHECK : Nat := 2
def pUP : Nat := 3
def pFAULT : Nat := 4

def State.portState (s : State) (p : Nat) : Nat := s.getO Obj.PORT_STATE p

/-- The port is enabled: of a dimension of extent 1 it is disabled whatever PORT_ENABLE holds (R401,
R427). The settings are those that its training takes (R428). -/
def State.portOn (s : State) (p : Nat) : Bool :=
  decide (s.getO Obj.PORT_ENABLE p = 1) && decide (s.linkLive.rings.getD (p / 2) 1 > 1)

/-- The port may train: enabled and lit (R417). -/
def State.portMay (s : State) (p : Nat) : Bool := s.portOn p && (s.port p).laserOk

/-- The device is in a state in which ports train: after memory training (R417). -/
def State.portsLive (s : State) : Bool :=
  decide (s.dev = stCONFIGURED ∧ 7 ≤ s.getO Obj.BOOT_STAGE) || decide (s.dev = stREADY) || decide (s.dev = stRUNNING) || decide (s.dev = stSTOPPED)

/-- Abort every bale whose partner path uses the port (R420). -/
def State.abortPath (s : State) (p : Nat) : State :=
  let ids : List Nat := (s.ops.filter fun (q : Nat × Op) =>
    decide (q.2.phase = .executing) && q.2.bale.any (s.balePath p)).map (·.1)
  ids.foldl (fun (s : State) id =>
    match s.op? id with
    | some o => match o.bale with
      | some b => s.baleAbort id o b 4 (b.treeLevel o.desc) 0 0
      | none => s
    | none => s) s

/-- A message in transit loses what has not come through port p: those blocks go on as zeros marked uncorrectable.
Assumption 105 (DESIGN CHOICE). -/
def Msg.lose (p : Nat) (m : Msg) : Msg :=
  if m.src = p + 1 then
    { bytes := m.bytes ++ List.replicate (16 * m.left) 0
      bad := m.bad ++ (List.range m.left).map fun i => m.bytes.length / 16 + i }
  else m

/-- Messages of other ports that wait to leave on port p are lost, and leave their receive buffers. -/
def State.dropTransit (s : State) (p : Nat) : State :=
  (s.port p).vc2.foldl (fun (s : State) (m : Msg) => if m.src = 0 then s else s.freeRx (m.src - 1) 2 m.bytes.length) s

/-- Give the port its state of training: frames, credits, replay, receive buffer and open slots are gone (R410, R420). -/
def State.portClear (s : State) (p : Nat) : State :=
  let gone := s.slots.any fun (x : Slot) => decide (x.port = p)
  let s := s.dropTransit p
  let x := s.port p
  let s := s.setPort p { laserOk := x.laserOk, fecWindow := x.fecWindow, cut := x.cut }
  let s := { s with
    ports := s.ports.map fun (q : Nat × Port) => (q.1, { q.2 with vc2 := q.2.vc2.map (Msg.lose p) })
    earlyPkts := s.earlyPkts.filter fun (q : Nat × RedPacket) => decide (q.1 ≠ p)
    alm := { s.alm with depths := SMap.erase s.alm.depths p, heardAt := SMap.erase s.alm.heardAt p }
    slots := s.slots.filter fun (x : Slot) => decide (x.port ≠ p) }
  let s := s.setCond (keyReplay p) none
  if gone then s.serveLeave else s

/-- The port changes its state; one that leaves UP aborts the bales of its paths, and while RUNNING carries no traffic until a
new start (R420). -/
def State.portMove (s : State) (p st reason : Nat) : State :=
  let old := s.portState p
  let s := if old = pUP ∧ s.running then s.setPort p { s.port p with cut := true } else s
  let s := if (old = pUP ∨ old = pFAULT) ∧ st = pTRAIN then s.incO Obj.PORT_RETRAINS 1 p else s
  let s := if st = pTRAIN then s.takeLink else s
  let s := ((s.setO Obj.PORT_STATE st p).setO Obj.PORT_FAULT_REASON reason p).portClear p
  let s := if st = pUP then s else s.setO Obj.PORT_PARTNER 0xFFFFFFFF p
  if old = pUP then s.abortPath p else s

/-- The record of a port that has failed or left UP; its stop request counts only while RUNNING (R420, R535). -/
def State.portRecord (s : State) (p reason : Nat) : State :=
  s.post { reason := 0x0701, d0 := p, d1 := reason, source := 0x320 + p }

/-- The port enters FAULT. -/
def State.portFault (s : State) (p reason : Nat) : State := (s.portMove p pFAULT reason).portRecord p reason

/-- The port goes to TRAIN where it may, and is OFF otherwise. -/
def State.portTrain (s : State) (p : Nat) : State :=
  if s.portMay p then s.portMove p pTRAIN 0 else s.portMove p pOFF 0

/-- Drive ELS_EN of a port: high where it is enabled (R426). -/
def State.lasers (s : State) (p : Nat) : State := s.emit (.pin (100 + p) (s.portOn p))

/-- Extents and number of fields, a byte each. Assumption 65 (DEDUCED). -/
def State.extents (s : State) : Nat :=
  let c := s.linkCfg
  c.ex + c.ey * 2 ^ 8 + c.ez * 2 ^ 16 + c.ew * 2 ^ 24 + c.fields * 2 ^ 32

/-- PORT_FEC_LOCK: FEC lock on all eight lanes; the stewards tell the partner the extents (R411, R418).
Assumption 52 (DESIGN CHOICE). -/
def execPortFecLock (port : Nat) (s : State) : Out :=
  if port ≥ 8 then .fault .noSuchUnit
  else if s.portState port = pTRAIN then
    let s := s.portMove port pCHECK 0
    .next (s.setPort port { s.port port with vc0 := [{ bytes := leBytes 16 s.extents }] })
  else .next s

/-- PORT_PARTNER of a port's neighbour by R400 to R402. Assumption 65 (DEDUCED). -/
def State.partnerCode (s : State) (p : Nat) : Nat :=
  let cs := s.neighbour p
  let c := s.linkCfg
  let W := max 1 c.ew
  let w := cs.getD 3 0
  let r := cs.getD 0 0 + c.ex * (cs.getD 1 0 + c.ey * (cs.getD 2 0 + c.ez * (w % W)))
  w / W * 2 ^ 13 + r * 2 ^ 3 + (if p % 2 = 0 then p + 1 else p - 1)

/-- PORT_CHECK: what the partner's beacon and stewards report is compared with the settings (R418).
Assumption 65 (DEDUCED). -/
def execPortCheck (port partner beatNs exts lenDm rttNs : Nat) (s : State) : Out :=
  if port ≥ 8 then .fault .noSuchUnit
  else if s.portState port ≠ pCHECK then .next s
  else if partner ≠ s.partnerCode port ∨ exts ≠ s.extents then .next (s.portFault port 3)
  else if beatNs ≠ s.getO Obj.ALMANAC_BEAT_NS then .next (s.portFault port 4)
  else
    let s := (s.portMove port pUP 0).setO Obj.PORT_PARTNER partner port
    .next ((s.setO Obj.PORT_LENGTH_DM (lenDm % 65536) port).setO Obj.PORT_RTT_NS (rttNs % 2 ^ 32) port)

/-- PORT_TRAIN_TIMEOUT. -/
def execPortTrainTimeout (port : Nat) (s : State) : Out :=
  if port ≥ 8 then .fault .noSuchUnit
  else if s.portState port = pTRAIN then .next (s.portFault port 2) else .next s

/-- PORT_FEC_LOSS: the port returns to TRAIN by itself. -/
def execPortFecLoss (port : Nat) (s : State) : Out :=
  if port ≥ 8 then .fault .noSuchUnit
  else if s.portState port = pUP then .next ((s.portMove port pTRAIN 0).portRecord port 0)
  else if s.portState port = pCHECK then .next (s.portMove port pTRAIN 0)
  else .next s

/-- PORT_FEC_RATE_WINDOW: a second has ended (R419). -/
def execPortFecRateWindow (port : Nat) (s : State) : Out :=
  if port ≥ 8 then .fault .noSuchUnit
  else
    let n := (s.port port).fecWindow
    let s := s.setPort port { s.port port with fecWindow := 0 }
    if s.portState port = pUP ∧ n > s.getO Obj.LINK_FEC_ALARM then .next (s.portFault port 6) else .next s

/-- LASER_LOW: ELS_OK is low, or the input power is below 15.0 dBm (R426). Assumption 64 (DEDUCED). -/
def execLaserLow (port uw : Nat) (s : State) : Out :=
  if port ≥ 8 then .fault .noSuchUnit
  else
    let s := s.setPort port { s.port port with laserOk := false }
    let s := s.setO Obj.PORT_LASER_UW (uw % 2 ^ 32) port
    if s.portState port = pOFF then .next s
    else .next ((s.portMove port pOFF 1).post { reason := 0x0702, d0 := port, d1 := uw, source := 0x320 + port })

/-- LASER_INPUT_PRESENT: ELS_OK is high and the input reaches 15.0 dBm, 31,623 µW. Assumption 64 (DEDUCED). -/
def execLaserInputPresent (port uw : Nat) (s : State) : Out :=
  if port ≥ 8 then .fault .noSuchUnit
  else
    let s := s.setO Obj.PORT_LASER_UW (uw % 2 ^ 32) port
    if uw < 31623 then .next s
    else
      let s := s.setPort port { s.port port with laserOk := true }
      if s.portState port = pOFF ∧ s.portsLive then .next (s.portTrain port) else .next s

/-- The effect of PORT_ENABLE (R427): a disabled port is OFF, an enabled one trains. -/
def State.portEnabled (s : State) (p : Nat) : State :=
  let s := s.lasers p
  if s.getO Obj.PORT_ENABLE p = 0 then (if s.portState p = pOFF then s else s.portMove p pOFF 0)
  else if s.portState p = pOFF ∧ s.portsLive then s.portTrain p else s

/-- The effect of PORT_RETRAIN: extents written since the last training take effect (R428), and a port in OFF that may not
train stays as it is. -/
def State.portRetrain (s : State) (p : Nat) : State :=
  let s := s.lasers p
  if s.portState p = pOFF ∧ s.portMay p = false then s else s.portTrain p

/-! ### Credits (R409, R410) -/

def flitsOf (part n : Nat) : Nat := cdiv (part + n) 64 - cdiv part 64

def sharedCredits : Nat := 7808
def reservedCredits : Nat := 128

def Port.inShared (x : Port) : Nat :=
  x.credits.foldl (fun a (p : Nat × List Bool) => a + (p.2.filter fun r => !r).length) 0
def Port.inReserved (x : Port) (vc : Nat) : Nat := ((SMap.get [] x.credits vc).filter id).length

/-- Credits that a channel can still take. -/
def Port.room (x : Port) (vc : Nat) : Nat := (sharedCredits - x.inShared) + (reservedCredits - x.inReserved vc)

/-- Take n credits: shared ones first. -/
def Port.takeCredits (x : Port) (vc n : Nat) : Port :=
  let sh := min n (sharedCredits - x.inShared)
  { x with
    credits := SMap.set [] x.credits vc (SMap.get [] x.credits vc ++ List.replicate sh false ++ List.replicate (n - sh) true) }

/-- Blocks of a message, at most 38, that the channel's credits let go. Assumption 62 (DESIGN CHOICE). -/
def Port.blocksFor (x : Port) (vc : Nat) (m : Msg) : Nat :=
  let part := SMap.get 0 x.txPart vc
  let free := (64 - part % 64) % 64
  min (min 38 (m.bytes.length / 16)) ((free + 64 * x.room vc) / 16)

/-- The partner's cumulative credit value of a channel returns its oldest flits. -/
def Port.hearCr (x : Port) (vc cr : Nat) : Port :=
  let n := (cr + 4096 - SMap.get 0 x.heard vc) % 4096
  { x with
    heard := SMap.set 0 x.heard vc (cr % 4096)
    credits := SMap.set [] x.credits vc ((SMap.get [] x.credits vc).drop n) }

/-! ### Transmission (R411, R412, R423) -/

def Msg.take (m : Msg) (n : Nat) : Msg :=
  { bytes := m.bytes.take (16 * n), bad := m.bad.filter fun i => decide (i < n) }
def Msg.drop (m : Msg) (n : Nat) : Msg :=
  { m with bytes := m.bytes.drop (16 * n), bad := (m.bad.filter fun i => decide (n ≤ i)).map (· - n) }

/-- Disturb block i of a message. -/
def Msg.flip (m : Msg) (i e : Nat) : Msg :=
  { m with bytes := m.bytes.take (16 * i) ++ leBytes 16 (ofBytes ((m.bytes.drop (16 * i)).take 16) ^^^ e % 2 ^ 128) ++
      m.bytes.drop (16 * i + 16) }

/-- The transmit path takes the codewords of a frame's blocks from the mesh; `noise` holds the stored bits disturbed in each
(R376, R407). Assumption 32 (DESIGN CHOICE). -/
def State.txDecode (s : State) (p : Nat) (noise : List Nat) (m : Msg) : State × Msg :=
  (List.range (m.bytes.length / 16)).foldl (fun (a : State × Msg) i =>
    let e := noise.getD i 0
    if e = 0 then a
    else
      match eccFix e with
      | some 0 => (a.1, a.2.flip i e)
      | some f => (a.1.incO Obj.PORT_CE 1 p, a.2.flip i (e ^^^ f))
      | none => (a.1, { a.2.flip i e with bad := a.2.bad ++ [i] })) (s, m)

/-- The frame that a port sends: it carries ACK, NAK and credits whatever its kind (R411). -/
def Port.frame (x : Port) (kind vc seq : Nat) (m : Msg) : LinkFrame :=
  { kind := kind, vc := vc, seq := seq, ack := x.rxSeq, nak := x.nakOwed, cr0 := SMap.get 0 x.freed 0
    cr1 := SMap.get 0 x.freed 1, cr2 := SMap.get 0 x.freed 2, blocks := m.bytes, bad := m.bad }

/-- Put a frame on the fibre, after an alignment marker where one is due (R404). -/
def State.putFrame (s : State) (p kind vc seq : Nat) (m : Msg) : State :=
  let x := s.port p
  let s := if m.bytes = [] then s else s.incO Obj.PORT_TX_BYTES m.bytes.length p
  let s := if x.words = 0 then s.emit (.marker p) else s
  let s := s.setPort p { x with words := (x.words + 1) % 4096 }
  s.emit (.line p (x.frame kind vc seq m).lanes)

/-- A new DATA or CONTROL frame, kept until it is acknowledged. -/
def State.putKept (s : State) (p kind vc : Nat) (m : Msg) : State :=
  let x := s.port p
  let s := s.setPort p { x with txSeq := (x.txSeq + 1) % 65536,
                                replay := x.replay ++ [{ seq := x.txSeq, kind := kind, vc := vc, msg := m }] }
  s.putFrame p kind vc x.txSeq m

/-- A frame time of the port's oldest open slot has passed; a slot whose frames have all been sent returns its leave. -/
def slotTick (p : Nat) : List Slot → List Slot
  | [] => []
  | x :: xs =>
    if x.port = p then (if x.left ≤ 1 then xs else { x with left := x.left - 1 } :: xs) else x :: slotTick p xs

def State.slotFrame (s : State) (p : Nat) : State :=
  let now := slotTick p s.slots
  let ended := decide (now.length < s.slots.length)
  let s := { s with slots := now }
  if ended then s.serveLeave else s

/-- The next DATA frame of a channel whose queue begins with message `m`: its blocks, what is left, and the port.
Assumption 62 (DESIGN CHOICE). -/
def Port.dataFrame (x : Port) (vc : Nat) (m : Msg) : Option (Port × Msg × Msg) :=
  let n := x.blocksFor vc m
  if n = 0 ∨ x.replay.length ≥ 1024 then none
  else
    let part := SMap.get 0 x.txPart vc
    let x := x.takeCredits vc (flitsOf part (16 * n))
    some ({ x with txPart := SMap.set 0 x.txPart vc ((part + 16 * n) % 64) }, m.take n, m.drop n)

def Port.queue (x : Port) (vc : Nat) : List Msg := if vc = 0 then x.vc0 else if vc = 1 then x.vc1 else x.vc2
def Port.setQueue (x : Port) (vc : Nat) (q : List Msg) : Port :=
  if vc = 0 then { x with vc0 := q, turn := true } else if vc = 1 then { x with vc1 := q, turn := false } else { x with vc2 := q }

/-- A DATA frame of a channel, if one is ready. Blocks in transit leave the buffer of the port through which they came. -/
def State.dataOf (s : State) (p vc : Nat) (noise : List Nat) : Option State :=
  let x := s.port p
  match x.queue vc with
  | [] => none
  | m :: ms =>
    (x.dataFrame vc m).map fun (r : Port × Msg × Msg) =>
      let (x, now, rest) := r
      let s := s.setPort p (x.setQueue vc (if rest.bytes = [] ∧ rest.left = 0 then ms else rest :: ms))
      let s := if m.src = 0 then s else s.freeRx (m.src - 1) 2 now.bytes.length
      let (s, now) := s.txDecode p noise now
      s.putKept p 1 vc now

/-- A DATA frame of VC2, of VC0 or VC1 in turn, or IDLE. -/
def State.lowFrame (s : State) (p : Nat) (noise : List Nat) : State :=
  let first := if (s.port p).turn then 1 else 0
  match (if s.flows p then s.dataOf p 2 noise else none) <|> s.dataOf p first noise <|> s.dataOf p (1 - first) noise with
  | some s => s
  | none => s.putFrame p 0 0 0 {}

/-- The first BEACON or CONTROL frame that can go, and what stays: a BEACON needs no place in the replay buffer. -/
def Port.nextCtl (x : Port) : Option ((Nat × List Byte) × List (Nat × List Byte)) :=
  (x.ctlQ.find? fun (c : Nat × List Byte) => decide (c.1 = 2 ∨ x.replay.length < 1024)).map fun c => (c, x.ctlQ.erase c)

/-- A beacon of this device goes out, with its stamps; the port keeps those of the last 64 (R303, R414). -/
def State.putBeacon (s : State) (p txPs : Nat) (b : Beacon) (rest : List Beacon) : State :=
  let b := s.stamped p txPs b
  let x := s.port p
  (s.setPort p { x with beacons := rest, beaconId := b.id, sent := (b.id, s.instant b.tick txPs) :: x.sent.take 63 }).putFrame p 2 0 0
    { bytes := beaconBlocks b }

/-- LINK_FRAME_TRANSMIT: the first that is ready of a replay, a BEACON or CONTROL frame, VC2, VC0 or VC1, and IDLE (R411). The
frame leaves lane 0 `txPs` after the tick; `noise` disturbs the codewords of its blocks. -/
def execLinkFrameTransmit (f : FrameTime) (s : State) : Out :=
  let port := f.port
  if port ≥ 8 then .fault .noSuchUnit
  else if s.portState port ≠ pCHECK ∧ s.portState port ≠ pUP then .next s
  else
    let x := s.port port
    match x.resend.bind fun i => (x.replay[i]?).map fun k => (i, k) with
    | some (i, k) =>
      let last := decide (i + 1 ≥ x.replay.length)
      let s := s.setPort port { x with resend := if last then none else some (i + 1) }
      let s := (s.incO Obj.PORT_REPLAYS 1 port).putFrame port k.kind k.vc k.seq k.msg
      .next (if last then s.setCond (keyReplay port) none else s)
    | none =>
      match x.beacons, x.nextCtl with
      | b :: rest, _ => .next (s.putBeacon port f.txPs b rest)
      | [], some ((kind, blocks), rest) =>
        let s := s.setPort port { x with ctlQ := rest }
        .next (if kind = 2 then s.putFrame port 2 0 0 { bytes := blocks } else s.putKept port 3 0 { bytes := blocks })
      | [], none => .next ((s.lowFrame port f.noise).slotFrame port)

/-! ### Reception (R407, R408, R412, R413, R422) -/

/-- A serial number of 16 bits is covered by an ACK. -/
def covered (ack seq : Nat) : Bool := decide ((ack + 65536 - seq) % 65536 < 32768)

/-- Drop the frames that ACK covers; a replay under way goes on with what is left. -/
def Port.acked (x : Port) (ack : Nat) : Port :=
  let gone := (x.replay.takeWhile fun (k : Kept) => covered ack k.seq).length
  let left := x.replay.drop gone
  { x with replay := left, resend := x.resend.bind fun i => if i - gone < left.length then some (i - gone) else none }

/-- The partner asks for a replay. Assumption 63 (DEDUCED). -/
def State.takeNak (s : State) (p : Nat) : State :=
  let x := s.port p
  match x.resend, x.replay with
  | none, k :: _ =>
    let n := if x.lastReplay = k.seq then x.replays else 0
    if n ≥ 8 then s.portFault p 5
    else (s.setPort p { x with resend := some 0, lastReplay := k.seq, replays := n + 1 }).replayHold p
  | _, _ => s

/-- What becomes of a VC2 message by its head block (R422). One whose head is marked uncorrectable, or that a port without
traffic brings, is lost. A reduction packet waits in the buffer; what else is for this device leaves it at once, and what is
for another goes to the port towards it as it comes. Assumption 105 (DESIGN CHOICE). -/
def State.rxRoute (s : State) (p h : Nat) (bad : Bool) : RxTo :=
  if bad ∨ s.flows p = false then .take
  else if bits h 95 88 = 1 then .keep
  else
    match s.vc2Port (bits h 127 112) with
    | some q => if bits h 127 112 = s.origin then .take else .pass q
    | none => .take

/-- Bytes of a reduction packet in a message (R250). -/
def packetSize (m : Msg) : Nat :=
  let h := ofBytes ((m.bytes.drop 16).take 32)
  min (m.bytes.length - 16) (32 + if bit h 180 then 0 else 2 * (bits h 179 170 + 1))

/-- A whole reduction packet has arrived: one for this device waits for REDUCTION_PACKET_RECEIVE; one for another is forwarded
unchanged, but not for a bale that this device has aborted (R240, R262). -/
def State.gotPacket (s : State) (p : Nat) (m : Msg) : State :=
  let dest := bits (ofBytes (m.bytes.take 16)) 127 112
  let bale := bits (ofBytes ((m.bytes.drop 16).take 32)) 255 232
  if dest = s.origin then s.setPort p { s.port p with inbox := (s.port p).inbox ++ [m] }
  else
    match s.vc2Port dest with
    | some q =>
      if s.balesAborted.contains bale then s.freeRx p 2 m.bytes.length
      else
        let s := s.incO Obj.REDUCE_BYTES_FORWARDED (packetSize m)
        s.setPort q { s.port q with vc2 := (s.port q).vc2 ++ [{ m with src := p + 1 }] }
    | none => s.freeRx p 2 m.bytes.length

def Msg.snoc (m : Msg) (b : List Byte) (bad : Bool) : Msg :=
  { m with bytes := m.bytes ++ b, bad := if bad then m.bad ++ [m.bytes.length / 16] else m.bad }

/-- One more block of the message in transit from port p; none where the queue holds no such message. -/
def addTransit (p left : Nat) (b : List Byte) (bad : Bool) : List Msg → Option (List Msg)
  | [] => none
  | m :: ms =>
    if m.src = p + 1 ∧ m.left = left + 1 then some ({ m.snoc b bad with left := left } :: ms)
    else (addTransit p left b bad ms).map (m :: ·)

/-- A block of a message in transit joins the queue of its port. -/
def State.passBlock (s : State) (p q left : Nat) (head : Bool) (b : List Byte) (bad : Bool) : State :=
  let y := s.port q
  if head then s.setPort q { y with vc2 := y.vc2 ++ [{ bytes := b, src := p + 1, left := left }] }
  else
    match addTransit p left b bad y.vc2 with
    | some now => s.setPort q { y with vc2 := now }
    | none => s.freeRx p 2 16

/-- A block of VC2. -/
def State.rxBlock (s : State) (p : Nat) (b : List Byte) (bad : Bool) : State :=
  let x := s.port p
  let head := decide (x.rxLeft = 0)
  let left := if head then bits (ofBytes b) 87 64 else x.rxLeft - 1
  let way := if head then s.rxRoute p (ofBytes b) bad else x.rxTo
  let now := if head then Msg.snoc {} b bad else x.rx2.snoc b bad
  let s := s.setPort p { x with rxLeft := left, rxTo := way, rx2 := if way = .keep ∧ left ≠ 0 then now else {} }
  match way with
  | .keep => if left = 0 then s.gotPacket p now else s
  | .pass q => s.passBlock p q left head b bad
  | .take => s.freeRx p 2 16

/-- Blocks of VC2 in turn. -/
def State.rxBlocks (s : State) (p : Nat) (m : Msg) : State :=
  (List.range (m.bytes.length / 16)).foldl
    (fun (s : State) i => s.rxBlock p ((m.bytes.drop (16 * i)).take 16) (m.bad.contains i)) s

/-- A DATA or CONTROL frame in sequence is accepted. The stewards take what VC0 and VC1 bring at once. -/
def State.acceptFrame (s : State) (p : Nat) (f : LinkFrame) : State :=
  let s := s.setPort p { s.port p with rxSeq := f.seq % 65536, nakOwed := false }
  if f.kind ≠ 1 then s
  else if f.vc = 2 then s.rxBlocks p { bytes := f.blocks, bad := f.bad }
  else s.freeRx p f.vc f.blocks.length

/-- The receiver asks for a replay. -/
def State.owe (s : State) (p : Nat) : State := s.setPort p { s.port p with nakOwed := true }

/-- A frame that passes: ACK and credits, then the frame itself where it is in sequence, then the partner's NAK
(R408, R410, R412). -/
def State.frameIn (s : State) (p : Nat) (f : LinkFrame) : State :=
  let x := (((s.port p).acked f.ack).hearCr 0 f.cr0).hearCr 1 f.cr1
  let s := s.setPort p (x.hearCr 2 f.cr2)
  let s := if f.blocks = [] then s else s.incO Obj.PORT_RX_BYTES f.blocks.length p
  let s := if f.kind = 1 ∨ f.kind = 3 then
      (if f.seq % 65536 = ((s.port p).rxSeq + 1) % 65536 then s.acceptFrame p f else s.owe p)
    else s
  if f.nak then s.takeNak p else s

/-- What the FEC makes of a codeword: the message with the symbols corrected, or none (R404, R408, R419). -/
def State.lineIn (s : State) (p : Nat) : Option (Nat × Nat) → State
  | none =>
    let s := s.incO Obj.PORT_FEC_UNCORRECTED 1 p
    (s.setPort p { s.port p with fecWindow := (s.port p).fecWindow + 1 }).owe p
  | some (w, fixed) =>
    let s := if fixed = 0 then s else s.incO Obj.PORT_FEC_CORRECTED fixed p
    match LinkFrame.ofWord w with
    | none => s.owe p
    | some f => s.frameIn p f

/-- LINK_FRAME_RECEIVE: the eight lanes bring a codeword. -/
def execLinkFrameReceive (port : Nat) (lanes : List Nat) (s : State) : Out :=
  if port ≥ 8 then .fault .noSuchUnit
  else if s.portState port ≠ pCHECK ∧ s.portState port ≠ pUP then .next s
  else .next (s.lineIn port (rsDecode (ofLanes lanes)))

/-! ### Beacons that arrive (R300, R302, R303, R414) -/

/-- A beacon names a second master (R304). -/
def State.secondMaster (s : State) (b : Beacon) : Bool :=
  decide (b.master ≠ noMaster) && (if s.isMaster then decide (b.master ≠ s.origin) else s.alm.heard && decide (b.master ≠ s.alm.master))

/-- BEACON_RECEIVE: a beacon arrives on lane 0 of a port, `rxPs` after the tick. One in CHECK is stamped; one of another beat
period is a configuration fault (R300). `lmaxNs` is the largest control latency measured when an acquisition ends here
(R326). Assumptions 38 (DESIGN CHOICE), 40 (DEDUCED). -/
def execBeaconReceive (port : Nat) (b : Beacon) (rxPs lmaxNs : Nat) (s : State) : Out :=
  if port ≥ 8 then .fault .noSuchUnit
  else if s.getO Obj.ALMANAC_ROLE = 3 then .next s
  else if s.portState port = pCHECK then .next (s.stampRx port rxPs b)
  else if s.portUp port = false then .next s
  else if b.beatNs ≠ s.getO Obj.ALMANAC_BEAT_NS then .next (s.portFault port 4)
  else
    let s := if s.isMaster = false ∧ s.getO Obj.ALMANAC_STATE = 0 then s.setO Obj.ALMANAC_STATE 1 else s
    if s.secondMaster b then .next (s.otherMaster port b)
    else
      let fresh := decide (b.master ≠ noMaster) && (s.alm.heard = false || newer 32 b.seq s.alm.masterSeq)
      let s := if fresh then s.newBeacon port b else s
      let own := decide (b.coords = s.coordField (s.neighbour port) ∧ b.port = if port % 2 = 0 then port + 1 else port - 1)
      .next (if own then s.fromNeighbour port b rxPs lmaxNs else s)

/-! ### The receiving side of sends (R425) -/

/-- Areas that the device protects from writes of others while RUNNING: scale slots, bale scale entries, crib metadata,
learning-rate tables and the staging area where it is set (R72, R188, R216, R245, R249, R255).
Assumption 70 (DEDUCED). -/
def State.protectedAreas (s : State) : List (Nat × Nat) :=
  [(s.getO Obj.SCALE_TABLE_BASE, 64 * s.getO Obj.SCALE_SLOTS),
   (s.getO Obj.REDUCE_BSCALE_BASE, 64 * s.getO Obj.REDUCE_BSCALE_ENTRIES),
   (s.getO Obj.CRIB_META_BASE, 24 * s.getO Obj.CRIB_POOL_PAGES),
   (s.getO Obj.REDUCE_STAGE_BASE, if s.getO Obj.REDUCE_STAGE_BASE = 0 then 0 else 16 * s.getO Obj.REDUCE_BALE_BYTES)] ++
  ((List.range 256).filter fun g => decide (s.getO Obj.GROUP_ENABLE g = 1)).map fun g =>
    (s.getO Obj.GROUP_LRT_BASE g, 4 * s.getO Obj.GROUP_LRT_LEN g)

/-- Bytes a to a + n − 1 touch a protected area while RUNNING. Assumption 70 (DEDUCED). -/
def State.isProtected (s : State) (a n : Nat) : Bool := s.running && s.protectedAreas.any fun r => !apart r (a, n)

/-- Areas of a send that R425 protects: those of R245 are not among them. Assumption 70 (DEDUCED). -/
def State.sendProtected (s : State) (a n : Nat) : Bool :=
  s.running && (s.protectedAreas.eraseIdx 1).any fun r => !apart r (a, n)

/-- The runs of blocks of a send that arrived whole: first block and bytes; `cur` is the run at hand, from block `c` on.
Assumption 66 (DEDUCED). -/
def goodRuns (bad : List Nat) : Nat → Nat → List Byte → List Byte → Nat → List (Nat × List Byte)
  | 0, c, cur, _, _ => if cur = [] then [] else [(c, cur)]
  | k + 1, c, cur, bs, i =>
    if bs = [] then (if cur = [] then [] else [(c, cur)])
    else if bad.contains i then (if cur = [] then [] else [(c, cur)]) ++ goodRuns bad k (i + 1) [] (bs.drop 16) (i + 1)
    else goodRuns bad k c (cur ++ bs.take 16) (bs.drop 16) (i + 1)

/-- SEND_DATA_RECEIVE: the data of a send from device `src` is written, then DSEM is signalled where all of it could
be. Assumption 66 (DEDUCED). -/
def execSendDataReceive (port src dst dsem : Nat) (en : Bool) (bytes : List Byte) (bad : List Nat) (s : State) : Out :=
  if port ≥ 8 then .fault .noSuchUnit
  else if s.flows port = false then .next s
  else if inLp dst bytes.length = false ∨ s.sendProtected dst bytes.length then
    .next (s.post { reason := 0x0703, addr := dst, d0 := src, source := 0x320 + port })
  else
    let runs := (goodRuns bad (bytes.length + 1) 0 [] bytes 0).map fun (r : Nat × List Byte) => (dst + 16 * r.1, r.2)
    let (s, f) := s.writeAll runs
    .next (if f.isNone ∧ bad = [] ∧ en then s.signal (dsem % 4096) 1 else s)

end Sys2Proof.Machine
end

