-- ==== Sys2Proof/Machine/Power.lean ====
section
/-! DEFINITION. Power and clocks: the factors of leave, freezes, supply dips, temperatures and the clock tree's PLLs and
multipliers (R483 to R496). -/
namespace Sys2Proof.Machine

/-- The device is powered and out of reset. -/
def State.alive (s : State) : Bool := decide (s.dev ≠ stOFF)

/-! ### Clocks (R492 to R495) -/

/-- PLL numbers, subindex less 1 (R505). -/
def pllCount : Nat := 39
def pllOFF : Nat := 0
def pllLOCKING : Nat := 1
def pllREADY : Nat := 2
def pllCOASTING : Nat := 3

/-- The multiplier that a die's core domain moves to: the target, less the steps of a dip and of its temperature. -/
def State.multLimit (s : State) (d : Nat) : Nat :=
  max 4 (s.getO Obj.CLK_CORE_MULT 0 d - SMap.get 0 s.dipSteps d - SMap.get 0 s.thermSteps d)

/-- One step of a die's multiplier towards its limit (R493). Assumption 82 (DEDUCED). -/
def State.ramp (s : State) (d : Nat) : State :=
  let m := s.getO Obj.CLK_CORE_MULT_NOW 0 d
  let t := s.multLimit d
  if m = t then s
  else (s.setO Obj.CLK_CORE_MULT_NOW (if m < t then m + 1 else m - 1) 0 d).incO Obj.CLK_RAMP_STEPS

/-- One step down, where the multiplier lies above `low` (R490, R491). Assumption 82 (DEDUCED). -/
def State.slow (s : State) (d low : Nat) : State :=
  let m := s.getO Obj.CLK_CORE_MULT_NOW 0 d
  if m ≤ low then s else (s.setO Obj.CLK_CORE_MULT_NOW (m - 1) 0 d).incO Obj.CLK_RAMP_STEPS

/-- CLK_RAMP_STEP: 64 cycles have passed since the last step. A domain on REFCLK has no multiplier. -/
def execClkRampStep (die : Nat) (s : State) : Out :=
  if die ≥ 2 then .fault .noSuchUnit
  else if s.alive = false ∨ s.getO Obj.CLK_CORE_SRC 0 die = 1 then .next s
  else .next (s.ramp die)

/-- A switch of a core domain's source: the new state, or none where the source is not READY (R494). -/
def State.switchSrc (s : State) (d v : Nat) : Option State :=
  let ready := if v = 0 then decide (s.getO Obj.PLL_STATE 0 d = pllREADY) else decide (s.getO Obj.REFCLK_PRESENT = 1)
  if ready then
    let back := decide (s.getO Obj.CLK_CORE_SRC 0 d = 1 ∧ v = 0)
    let s := s.setO Obj.CLK_CORE_SRC v 0 d
    some (if back then s.setO Obj.CLK_CORE_MULT_NOW 4 0 d else s)
  else none

/-- Some PLL coasts. -/
def State.coasting (s : State) : Bool := (List.range pllCount).any fun j => decide (s.getO Obj.PLL_STATE 0 j = pllCOASTING)

/-- A port whose OPLL coasts drops out of UP (R420, R495). -/
def State.dropPort (s : State) (p : Nat) : State :=
  if s.portState p = pUP then (s.portMove p pTRAIN 0).portRecord p 0
  else if s.portState p = pCHECK then s.portMove p pTRAIN 0
  else s

/-- PLL_REFERENCE_LOSS: `refclk` says that REFCLK itself is absent. -/
def execPllReferenceLoss (pll : Nat) (refclk : Bool) (s : State) : Out :=
  if pll ≥ pllCount then .fault .noSuchUnit
  else if s.getO Obj.PLL_STATE 0 pll ≠ pllREADY then .next s
  else
    let s := s.setO Obj.PLL_STATE pllCOASTING 0 pll
    let s := s.orO Obj.PLL_LOSS_FLAGS (2 ^ pll)
    let s := if refclk then s.setO Obj.REFCLK_PRESENT 0 else s
    let s := { s with pllSince := SMap.set 0 s.pllSince pll (s.getO Obj.DEVICE_UPTIME_MS + 1) }
    let s := s.holdNow keyClock rsnCLOCK
    let s := s.post { reason := 0x0905, d0 := pll }
    .next (if 3 ≤ pll ∧ pll ≤ 6 then (s.dropPort (2 * (pll - 3))).dropPort (2 * (pll - 3) + 1) else s)

/-- PLL_RELOCK: the reference is back and the PLL locks. Assumption 83 (DEDUCED). -/
def execPllRelock (pll : Nat) (s : State) : Out :=
  if pll ≥ pllCount then .fault .noSuchUnit
  else if s.getO Obj.PLL_STATE 0 pll ≠ pllCOASTING ∧ s.getO Obj.PLL_STATE 0 pll ≠ pllLOCKING then .next s
  else
    let s := (s.setO Obj.PLL_STATE pllREADY 0 pll).setO Obj.REFCLK_PRESENT 1
    let s := { s with pllSince := SMap.erase s.pllSince pll }
    .next (if s.coasting then s else s.setCond keyClock none)

/-- CLOCK_LOSS_STOP: the PLL has stayed COASTING for CLK_LOSS_STOP_MS. -/
def execClockLossStop (pll : Nat) (s : State) : Out :=
  if pll ≥ pllCount then .fault .noSuchUnit
  else
    let t := SMap.get 0 s.pllSince pll
    if s.getO Obj.PLL_STATE 0 pll ≠ pllCOASTING ∨ t = 0 ∨
        s.getO Obj.DEVICE_UPTIME_MS + 1 < t + s.getO Obj.CLK_LOSS_STOP_MS then .next s
    else .next ({ s with pllSince := SMap.erase s.pllSince pll }.post { reason := 0x0906, d0 := pll })

/-! ### Freezes and supply (R488 to R490) -/

/-- Set or clear one freeze of LEAVE_FROZEN. What waits is served, or raises the hold of the freeze that stands. -/
def State.freeze (s : State) (b : Nat) (on : Bool) (key : Nat) : State :=
  let f := s.getO Obj.LEAVE_FROZEN
  let f := if on then f ||| 2 ^ b else f &&& (255 ^^^ 2 ^ b)
  let s := s.setO Obj.LEAVE_FROZEN f
  let s := if on then s else s.setCond key none
  s.serveLeave

/-- POWER_OVER_LIMIT: the power of 100 µs, mW. -/
def execPowerOverLimit (mw : Nat) (s : State) : Out :=
  if s.alive = false ∨ mw ≤ 1000 * s.getO Obj.POWER_LIMIT_W ∨ bit (s.getO Obj.LEAVE_FROZEN) 1 then .next s
  else .next ((s.incO Obj.POWER_OVER_LIMIT).freeze 1 true keyOver)

/-- OVER_LIMIT_FREEZE_END. -/
def execOverLimitFreezeEnd (mw : Nat) (s : State) : Out :=
  if bit (s.getO Obj.LEAVE_FROZEN) 1 ∧ mw < 1000 * (s.getO Obj.POWER_LIMIT_W - s.getO Obj.LEAVE_MARGIN_W) then
    .next (s.freeze 1 false keyOver)
  else .next s

/-- Nominal voltages of the monitored rails, mV (R546). -/
def railNominal (r : Nat) : Nat := [750, 750, 800, 800, 1050, 500, 1800, 850].getD r 0

/-- Compute dies that a rail's warning affects (R489). -/
def railDies (r : Nat) : List Nat :=
  if r = 0 then [0] else if r = 1 then [1] else if r ≤ 5 then [0, 1] else []

/-- SUPPLY_WARNING: a rail falls to 97 % of nominal. A second rail of one episode adds its flag, count and record.
Assumption 82 (DEDUCED). -/
def execSupplyWarning (rail mv : Nat) (s : State) : Out :=
  if rail ≥ 8 then .fault .noSuchUnit
  else if s.alive = false ∨ 100 * mv > 97 * railNominal rail ∨ (s.dip ∧ bit (s.getO Obj.SUPPLY_WARN_ACTIVE) rail) then .next s
  else
    let first := !s.dip
    let s := ({ s with dip := true }).orO Obj.SUPPLY_WARN_ACTIVE (2 ^ rail)
    let s := if first then s.freeze 0 true keySupply else s
    let s := if first then
        (railDies rail).foldl (fun (s : State) d =>
          ({ s with dipSteps := SMap.set 0 s.dipSteps d 1 }).slow d 4) s
      else s
    let s := (s.orO Obj.SUPPLY_WARN_FLAGS (2 ^ rail)).incO Obj.SUPPLY_DIPS
    .next (s.post { reason := 0x0901, d0 := rail, d1 := mv % 2 ^ 32 })

/-- SUPPLY_RECOVERY: the episode ends, and the clocks ramp back. -/
def execSupplyRecovery (s : State) : Out :=
  if s.dip = false then .next s
  else
    let s := ({ s with dip := false, dipSteps := [] }).setO Obj.SUPPLY_WARN_ACTIVE 0
    .next (s.freeze 0 false keySupply)

/-! ### Leakage, correction and temperatures (R483, R485, R491) -/

/-- Quotient rounded up, of an integer by a positive number. -/
def cdivInt (a : Int) (b : Nat) : Int := -((-a).fdiv b)

/-- LF of a die at temperature t. -/
def State.leakFactor (s : State) (t : Int) : Nat :=
  let k : Int := s.getO Obj.LEAVE_LEAK_PPM
  (min 1536 (max 922 (1024 + cdivInt (k * (t - s.getI Obj.LEAVE_CAL_TEMP_C) * 1024) 1000000))).toNat

/-- LEAVE_CORRECTION_UPDATE: the package power measured, and the mean of the leave held, mW, over the interval. -/
def execLeaveCorrectionUpdate (pm meanHeld : Nat) (s : State) : Out :=
  if s.alive = false then .next s
  else
    let pp := cdiv (1000 * s.getO Obj.LEAVE_BASE_W * s.lfMax) 1024 + meanHeld
    let cf := min 1280 (max 1024 (cdiv (s.getO Obj.LEAVE_CORRECTION * pm) pp))
    .next (s.setO Obj.LEAVE_CORRECTION cf).serveLeave

/-- A compute die's multiplier follows its temperature: `old` is the reading before. -/
def State.thermalClock (s : State) (d : Nat) (old t : Int) : State :=
  let w := s.getI Obj.THERM_WARN_C
  let n := SMap.get 0 s.thermSteps d
  let s := if t > w ∧ old ≤ w then s.incO Obj.THERM_WARN_EVENTS else s
  if t > w then
    (if n < 4 then
      let s := { s with thermSteps := SMap.set 0 s.thermSteps d (n + 1) }
      s.slow d (s.multLimit d)
    else s)
  else if t + 3 ≤ w ∧ n > 0 then ({ s with thermSteps := SMap.set 0 s.thermSteps d (n - 1) }).ramp d
  else s

/-- One die's reading, `j` from 0: CD0, CD1, HB and the optical engines. -/
def State.readDie (s : State) (j : Nat) (t : Int) : State :=
  let old := s.getI Obj.THERM_DIE_C 0 j
  let s := s.setI Obj.THERM_DIE_C t 0 j
  let s := if t > s.getI Obj.THERM_MAX_C 0 j then s.setI Obj.THERM_MAX_C t 0 j else s
  let s := if j < 2 then (s.setO Obj.LEAVE_LEAK_FACTOR (s.leakFactor t) 0 j).thermalClock j old t else s
  if t > s.getI Obj.THERM_STOP_C ∧ old ≤ s.getI Obj.THERM_STOP_C then
    s.post { reason := 0x0903, d0 := j + 1, d1 := ofSigned 32 t }
  else s

/-- The leave table is stale: the first die that lies more than 30 °C from the calibration temperature. -/
def State.staleDie (s : State) : Option Nat :=
  [0, 1].find? fun d => decide (30 < (s.getI Obj.THERM_DIE_C 0 d - s.getI Obj.LEAVE_CAL_TEMP_C).natAbs)

def State.judgeStale (s : State) : State :=
  let was := s.getO Obj.LEAVE_TABLE_STALE
  match s.staleDie with
  | none => s.setO Obj.LEAVE_TABLE_STALE 0
  | some d =>
    let s := s.setO Obj.LEAVE_TABLE_STALE 1
    if was = 1 then s else s.post { reason := 0x0904, d0 := d + 1, d1 := s.getO Obj.THERM_DIE_C 0 d }

/-- Voltages of the rails, mV. -/
def State.readRails (s : State) (rails : List Nat) : State :=
  (rails.take 8).zipIdx.foldl (fun (s : State) (p : Nat × Nat) =>
    let s := s.setO Obj.SUPPLY_MV (p.1 % 65536) 0 p.2
    let s := if p.1 < s.getO Obj.SUPPLY_MIN_MV 0 p.2 then s.setO Obj.SUPPLY_MIN_MV p.1 0 p.2 else s
    if 1000 * p.1 < 975 * railNominal p.2 then s.orO Obj.SUPPLY_WARN_ACTIVE (2 ^ p.2)
    else s.setO Obj.SUPPLY_WARN_ACTIVE (s.getO Obj.SUPPLY_WARN_ACTIVE &&& (255 ^^^ 2 ^ p.2))) s

/-- Power over the last 1 ms, and the energy since POR or WARM. -/
def State.readPower (s : State) (mw : Nat) : State :=
  let s := s.setO Obj.POWER_NOW_W (mw / 1000 % 65536)
  let s := s.maxO Obj.POWER_PEAK_W (mw / 1000 % 65536)
  let e := s.energyUj + mw
  ({ s with energyUj := e % 1000000 }).incO Obj.ENERGY_J (e / 1000000)

/-- Counts that run in device time: uptime and the trial time of each image kind (R530). Assumption 5 (DESIGN CHOICE). -/
def State.passMs (s : State) : State :=
  [0, 1, 2].foldl (fun (s : State) k => s.setO Obj.FW_TRIAL_REMAIN_MS (s.getO Obj.FW_TRIAL_REMAIN_MS k - 1) k)
    (s.incO Obj.DEVICE_UPTIME_MS)

/-- THERMAL_READING: the readings of one millisecond. Assumption 5 (DESIGN CHOICE). -/
def execThermalReading (temps : List Int) (powerMw : Nat) (rails : List Nat) (s : State) : Out :=
  if s.alive = false then .next s
  else
    let s := s.passMs
    let s := (temps.take 7).zipIdx.foldl (fun (s : State) (p : Int × Nat) => s.readDie p.2 p.1) s
    let s := if temps.length < 2 then s else s.judgeStale
    .next ((s.readRails rails).readPower powerMw).serveLeave

end Sys2Proof.Machine
end

