-- ==== Sys2Proof/Machine/Crypto.lean ====
section
/-! DEFINITION. The cryptographic functions that the manual names by standard: SM3, HMAC (RFC 2104), and the SM2
signature, key exchange and key derivation of GB/T 32918 (R448, R449, R513, R514, R515). Their constants are those of the
standards. Octet strings are lists of bytes; integers are big-endian. -/
namespace Sys2Proof.Machine

/-! ### SM3 -/

def sm3IV : List Nat :=
  [0x7380166F, 0x4914B2B9, 0x172442D7, 0xDA8A0600, 0xA96F30BC, 0x163138AA, 0xE38DEE4D, 0xB0FB0E4E]

def sm3P0 (x : Nat) : Nat := x ^^^ rotl32 x 9 ^^^ rotl32 x 17
def sm3P1 (x : Nat) : Nat := x ^^^ rotl32 x 15 ^^^ rotl32 x 23

/-- The message words so far, newest first, extended by `k` more. -/
def sm3Expand : Nat → List Nat → List Nat
  | 0, ws => ws
  | k + 1, ws =>
    let w := fun i => ws.getD (i - 1) 0
    sm3Expand k ((sm3P1 (w 16 ^^^ w 9 ^^^ rotl32 (w 3) 15) ^^^ rotl32 (w 13) 7 ^^^ w 6) :: ws)

/-- The eight working registers. -/
structure Sm3Reg where
  a : Nat
  b : Nat
  c : Nat
  d : Nat
  e : Nat
  f : Nat
  g : Nat
  h : Nat
  deriving DecidableEq, Repr

/-- One round j with message words w and w'. -/
def sm3Round (j w w' : Nat) (r : Sm3Reg) : Sm3Reg :=
  let t := if j < 16 then 0x79CC4519 else 0x7A879D8A
  let ss1 := rotl32 (m32 (rotl32 r.a 12 + r.e + rotl32 t (j % 32))) 7
  let ss2 := ss1 ^^^ rotl32 r.a 12
  let ff := if j < 16 then r.a ^^^ r.b ^^^ r.c else (r.a &&& r.b) ||| (r.a &&& r.c) ||| (r.b &&& r.c)
  let gg := if j < 16 then r.e ^^^ r.f ^^^ r.g else (r.e &&& r.f) ||| ((0xFFFFFFFF ^^^ r.e) &&& r.g)
  { a := m32 (ff + r.d + ss2 + w'), b := r.a, c := rotl32 r.b 9, d := r.c,
    e := sm3P0 (m32 (gg + r.h + ss1 + w)), f := r.e, g := rotl32 r.f 19, h := r.g }

def sm3Rounds : Nat → List Nat → Sm3Reg → Sm3Reg
  | j, w :: ws, r => if ws.length < 4 then r else sm3Rounds (j + 1) ws (sm3Round j w (w ^^^ ws.getD 3 0) r)
  | _, [], r => r

/-- The compression of one 64-byte block. -/
def sm3Block (v : List Nat) (blk : List Byte) : List Nat :=
  let ws := (List.range 16).map fun i => ofBytesBE ((blk.drop (4 * i)).take 4)
  let full := (sm3Expand 52 ws.reverse).reverse
  let g := fun i => v.getD i 0
  let r := sm3Rounds 0 full { a := g 0, b := g 1, c := g 2, d := g 3, e := g 4, f := g 5, g := g 6, h := g 7 }
  [r.a ^^^ g 0, r.b ^^^ g 1, r.c ^^^ g 2, r.d ^^^ g 3, r.e ^^^ g 4, r.f ^^^ g 5, r.g ^^^ g 6, r.h ^^^ g 7]

def sm3Blocks : Nat → List Nat → List Byte → List Nat
  | 0, v, _ => v
  | k + 1, v, bs => sm3Blocks k (sm3Block v (bs.take 64)) (bs.drop 64)

/-- SM3 of a byte string, 32 bytes. -/
def sm3 (m : List Byte) : List Byte :=
  let n := m.length
  let pad := m ++ (BitVec.ofNat 8 0x80 :: List.replicate ((119 - n % 64) % 64) 0) ++ beBytes 8 (8 * n)
  (sm3Blocks (pad.length / 64) sm3IV pad).flatMap fun w => beBytes 4 w

/-- HMAC with SM3 (RFC 2104). -/
def hmacSm3 (key msg : List Byte) : List Byte :=
  let k := if key.length > 64 then sm3 key else key
  let k := k ++ List.replicate (64 - k.length) 0
  let x := fun (c : Nat) => k.map fun b => b ^^^ BitVec.ofNat 8 c
  sm3 (x 0x5C ++ sm3 (x 0x36 ++ msg))

/-- The key derivation function of GB/T 32918 part 4, in bytes. -/
def kdf (z : List Byte) (n : Nat) : List Byte :=
  ((List.range (cdiv n 32)).flatMap fun i => sm3 (z ++ beBytes 4 (i + 1))).take n

/-! ### The SM2 curve y² = x³ + ax + b over the field of p elements -/

def sm2P : Nat := 0xFFFFFFFEFFFFFFFFFFFFFFFFFFFFFFFFFFFFFFFF00000000FFFFFFFFFFFFFFFF
def sm2A : Nat := sm2P - 3
def sm2B : Nat := 0x28E9FA9E9D9F5E344D5A9E4BCF6509A7F39789F515AB8F92DDBCBD414D940E93
def sm2N : Nat := 0xFFFFFFFEFFFFFFFFFFFFFFFFFFFFFFFF7203DF6B21C6052B53BBF40939D54123
def sm2Gx : Nat := 0x32C4AE2C1F1981195F9904466A39C9948FE30BBFF2660BE1715A4589334C74C7
def sm2Gy : Nat := 0xBC3736A2F4F6779C59BDCEE36B692153D0A9877CC62A474002DF32E52139F0A0

/-- x to the power e modulo m, by the bits of e from the lowest. -/
def powMod : Nat → Nat → Nat → Nat → Nat
  | 0, _, _, m => 1 % m
  | k + 1, x, e, m => (if e % 2 = 1 then x else 1) * powMod k (x * x % m) (e / 2) m % m

/-- The inverse modulo a prime. -/
def invMod (x m : Nat) : Nat := powMod 256 (x % m) (m - 2) m

/-- An affine point, or none for the point at infinity. -/
abbrev Pt := Option (Nat × Nat)

def onCurve (x y : Nat) : Bool :=
  decide (x < sm2P ∧ y < sm2P ∧ y * y % sm2P = (x * x * x + sm2A * x + sm2B) % sm2P)

def ptAdd (p q : Pt) : Pt :=
  match p, q with
  | none, q => q
  | p, none => p
  | some (x1, y1), some (x2, y2) =>
    if x1 = x2 ∧ (y1 + y2) % sm2P = 0 then none
    else
      let l := if x1 = x2 then (3 * x1 * x1 + sm2A) * invMod (2 * y1) sm2P % sm2P
        else (y2 + sm2P - y1) * invMod (x2 + sm2P - x1) sm2P % sm2P
      let x3 := (l * l + 2 * sm2P - x1 - x2) % sm2P
      some (x3, (l * (x1 + sm2P - x3) + sm2P - y1) % sm2P)

/-- A point (x ÷ z², y ÷ z³) in Jacobian coordinates, at infinity where z is 0. -/
structure Jac where
  x : Nat
  y : Nat
  z : Nat
  deriving DecidableEq, Repr

def jacZero : Jac := { x := 1, y := 1, z := 0 }
def Jac.ofPt (p : Pt) : Jac :=
  match p with
  | some (x, y) => { x := x, y := y, z := 1 }
  | none => jacZero

def subP (a b : Nat) : Nat := (a + sm2P - b) % sm2P

/-- Twice a point of the curve, whose a is −3. -/
def Jac.dbl (p : Jac) : Jac :=
  let d := p.z * p.z % sm2P
  let g := p.y * p.y % sm2P
  let b := p.x * g % sm2P
  let a := 3 * (p.x + sm2P - d) * (p.x + d) % sm2P
  let x := (a * a + 8 * (sm2P - b)) % sm2P
  { x := x, y := (a * (4 * b + sm2P - x) + 8 * (sm2P - g) * g) % sm2P, z := 2 * p.y * p.z % sm2P }

/-- The sum of two points. -/
def Jac.add (p q : Jac) : Jac :=
  if p.z = 0 then q
  else if q.z = 0 then p
  else
    let zp := p.z * p.z % sm2P
    let zq := q.z * q.z % sm2P
    let u := p.x * zq % sm2P
    let h := subP (q.x * zp % sm2P) u
    let s := p.y * zq * q.z % sm2P
    let r := subP (q.y * zp * p.z % sm2P) s
    if h = 0 then (if r = 0 then p.dbl else jacZero)
    else
      let h2 := h * h % sm2P
      let h3 := h * h2 % sm2P
      let v := u * h2 % sm2P
      let x := (r * r + (sm2P - h3) + 2 * (sm2P - v)) % sm2P
      { x := x, y := (r * (v + sm2P - x) + (sm2P - s) * h3) % sm2P, z := h * p.z * q.z % sm2P }

def Jac.mul : Nat → Nat → Jac → Jac
  | 0, _, _ => jacZero
  | f + 1, k, p => if k = 0 then jacZero else (Jac.mul f (k / 2) p.dbl).add (if k % 2 = 1 then p else jacZero)

def Jac.toPt (p : Jac) : Pt :=
  if p.z = 0 then none
  else
    let i := invMod p.z sm2P
    some (p.x * (i * i) % sm2P, p.y * (i * i * i) % sm2P)

/-- k times a point, for k below 2 to the fuel. -/
def ptMul (f k : Nat) (p : Pt) : Pt := (Jac.mul f k (Jac.ofPt p)).toPt

def sm2G : Pt := some (sm2Gx, sm2Gy)
def mulG (k : Nat) : Pt := ptMul 257 k sm2G

/-- The 64 bytes of a point, x then y. -/
def ptBytes (p : Nat × Nat) : List Byte := beBytes 32 p.1 ++ beBytes 32 p.2
/-- The point that 64 bytes spell, where it lies on the curve. -/
def ptOf (bs : List Byte) : Option (Nat × Nat) :=
  let x := ofBytesBE (bs.take 32)
  let y := ofBytesBE (bs.drop 32)
  if bs.length = 64 ∧ onCurve x y then some (x, y) else none

/-- Z of an identity and public key. -/
def sm2Z (id : List Byte) (p : Nat × Nat) : List Byte :=
  sm3 (beBytes 2 (8 * id.length) ++ id ++ beBytes 32 sm2A ++ beBytes 32 sm2B ++ beBytes 32 sm2Gx ++ beBytes 32 sm2Gy ++
    ptBytes p)

/-- A scalar from 1 to n − 1 from random bits. -/
def scalarOf (r : Nat) : Nat := 1 + r % (sm2N - 1)

/-- A signature of message m with private key d (GB/T 32918 part 2); a nonce that gives none is passed over.
Assumption 75 (DESIGN CHOICE). -/
def sm2Sign (z m : List Byte) (d : Nat) : Nat → Nat → Nat × Nat
  | 0, _ => (0, 0)
  | tries + 1, seed =>
    let k := scalarOf (Config.randomScalar seed)
    let r := (ofBytesBE (sm3 (z ++ m)) + (mulG k).elim 0 Prod.fst) % sm2N
    let s := invMod (1 + d) sm2N * (k + sm2N * sm2N - r * d) % sm2N
    if r = 0 ∨ r + k = sm2N ∨ s = 0 then sm2Sign z m d tries (seed + 1) else (r, s)

/-- A signature verifies. -/
def sm2Verify (z m : List Byte) (p : Nat × Nat) (r s : Nat) : Bool :=
  let t := (r + s) % sm2N
  decide (1 ≤ r ∧ r < sm2N ∧ 1 ≤ s ∧ s < sm2N ∧ t ≠ 0) &&
    (match ptAdd (mulG s) (ptMul 257 t (some p)) with
      | some (x, _) => decide ((ofBytesBE (sm3 (z ++ m)) + x) % sm2N = r)
      | none => false)

/-- The reduced x coordinate of the key exchange. -/
def xBar (x : Nat) : Nat := 2 ^ 127 + x % 2 ^ 127

/-- User B's side of the key exchange (GB/T 32918 part 3): the shared point from B's private key and ephemeral scalar,
and A's public key and ephemeral point. -/
def sharedPoint (d r : Nat) (rb : Nat × Nat) (pa ra : Nat × Nat) : Pt :=
  let t := (d + xBar rb.1 * r) % sm2N
  ptMul 257 t (ptAdd (some pa) (ptMul 257 (xBar ra.1) (some ra)))

/-- The confirmation hash with its tag byte: 2 for S_B, 3 for S_A. -/
def confirmHash (tag : Nat) (v : Nat × Nat) (za zb : List Byte) (ra rb : Nat × Nat) : List Byte :=
  sm3 (beBytes 1 tag ++ beBytes 32 v.2 ++ sm3 (beBytes 32 v.1 ++ za ++ zb ++ ptBytes ra ++ ptBytes rb))

/-- Bytes of ASCII text. -/
def ascii (t : String) : List Byte := t.toList.map fun c => BitVec.ofNat 8 c.toNat

/-- The private key that a label derives from the device secret (R514). -/
def deriveKey (secret : Nat) (label : String) : Nat :=
  1 + ofBytesBE (kdf (beBytes 32 secret ++ ascii label) 32) % (sm2N - 2)

end Sys2Proof.Machine
end

