-- ==== Sys2Proof/Machine/DictRule.lean ====
section
/-! DEFINITION. Which writes the dictionary admits: the device state (R466, step 5 of R462) and the value with the rules of
its chapter (steps 6 and 7 of R462; R79, R202, R205, R216, R266, R298, R337, R339, R399, R427, R455, R456, R472, R491,
R506, R543). -/
namespace Sys2Proof.Machine

/-- READY, RUNNING and STOPPED admit every index; the other states the ranges of R466 and R501. -/
def stateRange (dev idx : Nat) : Bool :=
  if dev = stREADY ∨ dev = stRUNNING ∨ dev = stSTOPPED then true
  else if dev = stCONFIGURED then decide (0x1100 ≤ idx ∧ idx ≤ 0x11FF)
  else if dev = stFALLOW then
    decide (0x1000 ≤ idx ∧ idx ≤ 0x11FF) || decide (0x2000 ≤ idx ∧ idx ≤ 0x24FF) || decide (0x4300 ≤ idx ∧ idx ≤ 0x43FF) ||
      decide (0x9000 ≤ idx ∧ idx ≤ 0x90FF)
  else if dev = stFAULT then
    decide (0x1000 ≤ idx ∧ idx ≤ 0x11FF) || decide (0x2400 ≤ idx ∧ idx ≤ 0x24FF) || decide (0x9000 ≤ idx ∧ idx ≤ 0x90FF)
  else false

/-- The test of a write of these objects runs only in READY or STOPPED, or only in STOPPED (R102, R203, R264, R473).
Assumption 78 (DEDUCED). -/
def stateOnly (dev : Nat) (o : ObjDef) : Bool :=
  if o = Obj.MATRIX_SELFTEST_RUN ∨ o = Obj.REDUCE_RESIDUE_TEST ∨ o = Obj.CRIB_POOL_INIT then decide (dev = stREADY ∨ dev = stSTOPPED)
  else if o = Obj.STORE_CMD then decide (dev = stSTOPPED)
  else true

/-- Step 5 of R462. `load` says that a steward loads the configuration store (R463). -/
def State.stateAdmits (s : State) (load : Bool) (o : ObjDef) (idx : Nat) : Bool :=
  if s.dev = stFUSED then load && decide (o.per = .c)
  else stateRange s.dev idx && !(decide (o.acc = .rws) && decide (s.dev ≠ stSTOPPED)) && !(o.noRun && s.running) &&
    stateOnly s.dev o

/-! ### Values -/

def f32Nan (v : Nat) : Bool := decide (bits v 30 23 = 255 ∧ bits v 22 0 ≠ 0)
def f32Finite (v : Nat) : Bool := decide (bits v 30 23 < 255)
def f32Neg (v : Nat) : Bool := bit v 31 && decide (v % 2 ^ 31 ≠ 0)

/-- The range, alignment and codes of the object's row (R460). -/
def ObjDef.rangeOk (o : ObjDef) (v : Nat) : Bool :=
  let n : Int := if o.ty = .i32 then toSigned 32 v else (v : Int)
  decide (o.lo ≤ n ∧ n ≤ o.hi) && decide (v % o.mult = 0) && (decide (o.codes = []) || o.codes.contains v) &&
    !(decide (o.ty = .bool) && decide (v > 1)) && !(decide (o.ty = .f32) && f32Nan v)

/-- The keys and arrays of a group; one of no elements accepts any base (R205). -/
def State.groupOk (s : State) (g : Nat) : Bool :=
  let n := s.getO Obj.GROUP_ELEMS g
  let rs := s.groupArrays g
  decide (s.getO Obj.GROUP_KEY_ORG g + n ≤ 2 ^ 48) && (decide (n = 0) ||
    (rs.all (fun (r : Nat × Nat) => decide (r.1 % 64 = 0 ∧ r.1 + r.2 ≤ lpEnd)) &&
      rs.zipIdx.all fun (a : (Nat × Nat) × Nat) => (rs.drop (a.2 + 1)).all fun b => apart a.1 b))

/-- Pool and metadata of the crib (R202). -/
def State.cribOk (s : State) : Bool :=
  let n := s.getO Obj.CRIB_POOL_PAGES
  let p : Nat × Nat := (s.getO Obj.CRIB_POOL_BASE, n * s.cribPageBytes)
  let m : Nat × Nat := (s.getO Obj.CRIB_META_BASE, 24 * n)
  decide (p.1 < lpEnd ∧ p.1 + p.2 ≤ lpEnd ∧ m.1 < lpEnd ∧ m.1 + m.2 ≤ lpEnd) && apart p m

/-- Staging area and bale scale table, each where it is set (R266). -/
def State.reduceOk (s : State) : Bool :=
  let a : Nat × Nat := (s.getO Obj.REDUCE_STAGE_BASE,
    if s.getO Obj.REDUCE_STAGE_BASE = 0 then 0 else 16 * s.getO Obj.REDUCE_BALE_BYTES)
  let b : Nat × Nat := (s.getO Obj.REDUCE_BSCALE_BASE, 64 * s.getO Obj.REDUCE_BSCALE_ENTRIES)
  decide (a.1 < lpEnd ∧ a.1 + a.2 ≤ lpEnd ∧ b.1 < lpEnd ∧ b.1 + b.2 ≤ lpEnd) && apart a b

/-- A region lies wholly in LPDDR6 or in the doorbell window (R437). -/
def mrInside (a n : Nat) : Bool :=
  decide (a + n ≤ lpEnd) || decide (bellBase ≤ a ∧ a + n ≤ bellBase + 0x10000)

/-- Ranges of a class's objects that depend on its modality and format (R298). -/
def State.classOk (t : State) (c : Nat) (o : ObjDef) : Bool :=
  let m := t.getO Obj.CLASS_MODALITY c
  let ch := t.getO Obj.CLASS_C c
  let h := t.getO Obj.CLASS_EXT1 c
  if o = Obj.CLASS_C then
    (if m = 1 then decide (ch = 1 ∨ ch = 3 ∨ ch = 4) else if m = 2 then decide (ch = 1 ∨ ch = 2) else decide (ch = 1))
  else if o = Obj.CLASS_EXT1 then decide (1 ≤ h) && (decide (m = 1) || decide (h = 1))
  else if o = Obj.CLASS_SCALE then decide (t.getO Obj.CLASS_FMT c ≠ 2) || decide (t.getO Obj.CLASS_SCALE c = 0)
  else true

/-- Rules of chapters 2 to 9 over the state `t` that the write would leave. -/
def State.ruleCompute (t : State) (rq : Nat) (o : ObjDef) (i : Nat) (v : Nat) : Bool :=
  if o = Obj.SCALE_TABLE_BASE ∨ o = Obj.SCALE_SLOTS then
    decide (t.getO Obj.SCALE_TABLE_BASE + 64 * t.getO Obj.SCALE_SLOTS ≤ lpEnd ∧ t.getO Obj.SCALE_TABLE_BASE < lpEnd)
  else if 0x5420 ≤ o.index ∧ o.index ≤ 0x5427 then decide (t.getO Obj.CRIB_POOL_STATE = 0) && t.cribOk
  else if o = Obj.GROUP_BETA1 ∨ o = Obj.GROUP_BETA2 then !f32Neg v && decide (v % 2 ^ 31 < 0x3F800000)
  else if o = Obj.GROUP_EPS then f32Finite v && decide (0x00800000 ≤ v ∧ v < 2 ^ 31)
  else if o = Obj.GROUP_LR ∨ o = Obj.GROUP_WDECAY ∨ o = Obj.GROUP_CLIP then f32Finite v && !f32Neg v
  else if o = Obj.GROUP_GMUL then f32Finite v
  else if o = Obj.GROUP_LRT_BASE ∨ o = Obj.GROUP_LRT_LEN then
    decide (t.getO Obj.GROUP_LRT_BASE i % 4 = 0 ∧ t.getO Obj.GROUP_LRT_BASE i + 4 * t.getO Obj.GROUP_LRT_LEN i ≤ lpEnd)
  else if o = Obj.GROUP_WHIST then
    decide (v = 0xFFFF8000) || decide (-152 ≤ toSigned 32 v ∧ toSigned 32 v ≤ 143)
  else if o.index = 0x6100 ∧ 0x10 ≤ o.sub ∧ o.sub ≤ 0x15 then t.groupOk i
  else if o.index = 0x6200 ∨ (0x6203 ≤ o.index ∧ o.index ≤ 0x6205) then t.reduceOk
  else if o = Obj.SHUF_SAMPLES then decide (v ≤ 2 ^ 40)
  else if o.index = 0x7040 then t.classOk i o
  else if o = Obj.SHUF_PROBE_POS then decide (v < t.getSel rq Obj.SHUF_PROBE_SAMPLES)
  else true

/-- Rules of the fabric, semaphores, almanac, links and host chapters, of the dictionary itself and of the power and error
chapters. -/
def State.ruleSystem (t : State) (rq : Nat) (o : ObjDef) (v : Nat) : Bool :=
  if o.index = 0x3100 then decide (v ≤ 3)
  else if o = Obj.ARB_C3_BUDGET then decide (1 ≤ v ∧ v ≤ 1024)
  else if o = Obj.EPOCH_BEATS then decide (v > 2 * t.getO Obj.ALMANAC_HOLD_LEAD)
  else if o = Obj.STEP_PHASE then decide (v < t.getO Obj.STEP_EPOCHS)
  else if o = Obj.FURROW_QUERY_TABLE ∨ o = Obj.FURROW_READ_TABLE then decide (v < tableCount)
  else if o = Obj.FURROW_READ_INDEX then decide (v < tableCap (t.getSel rq Obj.FURROW_READ_TABLE))
  else if o = Obj.FURROW_LOAD_SRC then decide (v < lpEnd)
  else if o = Obj.FURROW_LOAD_ENTRIES then decide (v ≤ 1024)
  else if o = Obj.LINK_COORD_X then decide (v < t.getO Obj.LINK_EXT_X)
  else if o = Obj.LINK_COORD_Y then decide (v < t.getO Obj.LINK_EXT_Y)
  else if o = Obj.LINK_COORD_Z then decide (v < t.getO Obj.LINK_EXT_Z)
  else if o = Obj.LINK_COORD_W then decide (v < t.getO Obj.LINK_EXT_W)
  else if o = Obj.LINK_FIELD_NUMBER then decide (v < t.getO Obj.LINK_FIELDS)
  else if o = Obj.OWNER_KEY_MASK then
    decide (t.getO Obj.OWNER_LOCK_KEY_SLOT = 0xFF) || bit v (t.getO Obj.OWNER_LOCK_KEY_SLOT)
  else if o = Obj.THERM_WARN_C ∨ o = Obj.THERM_STOP_C then decide (t.getI Obj.THERM_WARN_C ≤ t.getI Obj.THERM_STOP_C)
  else if o = Obj.RESET_TARGET then decide (v ≤ 799)
  else if o = Obj.ERR_READ_MARK then decide (v ≤ t.getO Obj.ERR_SEQ_NEXT)
  else true

/-- Step 7 of R462 for a numeric object: the range of its row and the rules of its chapter, judged on the state that the
write would leave. Assumption 72 (DEDUCED). -/
def State.valueOk (s : State) (rq : Nat) (o : ObjDef) (i j v : Nat) : Bool :=
  let t := s.setO o v i j
  o.rangeOk v && t.ruleCompute rq o i v && t.ruleSystem rq o v

/-- The whole check of a stored or loaded value: reserved bits and step 7 (R465, R475). -/
def State.storedOk (s : State) (o : ObjDef) (i j v : Nat) : Bool :=
  decide (v < 2 ^ (8 * o.ty.bytes)) && decide (v &&& o.resv = 0) && s.valueOk rqCore o i j v

/-! ### Queue pairs and memory regions (R436, R437, R456) -/

/-- A queue pair may become READY: its port runs, a remote queue pair and address are named, and its path MTU fits the
port. -/
def State.qpValid (s : State) (q : Qp) : Bool :=
  decide (q.port < 2) && decide (s.getO Obj.ETH_MODE q.port ≠ 0) && decide (q.rqpn ≠ 0) && decide (q.ipHi ≠ 0 ∨ q.ipLo ≠ 0) &&
    decide (q.pmtu ≤ 2 ∧ 1024 * 2 ^ q.pmtu + 96 ≤ s.getO Obj.ETH_MTU q.port)

/-- The queue pair after a write of member j, or none where it is refused. -/
def State.qpWrite (s : State) (n j v : Nat) : Option Qp :=
  let q := s.qp n
  if j = 1 then
    if v = 0 then some { q with st := 0, lip := 0, cause := 0, wr := none, snd := none, nakSent := false, rate := 0 }
    else if v = 1 ∧ q.st = 0 ∧ s.qpValid q then some { q with st := 1, msn := 0 }
    else none
  else if q.st ≠ 0 then none
  else match j with
    | 2 => some { q with port := v }
    | 3 => some { q with rqpn := v }
    | 4 => some { q with ipHi := v }
    | 5 => some { q with ipLo := v }
    | 6 => some { q with psn := v }
    | 7 => if 1024 * 2 ^ v + 96 ≤ s.getO Obj.ETH_MTU q.port then some { q with pmtu := v } else none
    | _ => some { q with sport := v }

/-- The region after a write of member j, or none where it is refused. -/
def State.mrWrite (s : State) (n j v : Nat) : Option Mr :=
  let r := s.mr n
  let r : Mr := match j with
    | 1 => { r with base := v }
    | 2 => { r with len := v }
    | 3 => { r with rkey := v }
    | 4 => { r with acc := v }
    | _ => { r with en := decide (v = 1) }
  if r.en ∧ (mrInside r.base r.len = false ∨
      (s.mrs.any fun (p : Nat × Mr) => decide (p.1 ≠ n) && p.2.en && decide (p.2.rkey = r.rkey)) = true) then none
  else some r

end Sys2Proof.Machine
end

