-- ==== Sys2Proof/Machine/Store.lean ====
section
/-! DEFINITION. The configuration store: what a copy holds and when it is valid (R517, R518), loading and restoring (R465,
R475), the dirty flag (R476), and the keys and identity that sign it (R514, R515). -/
namespace Sys2Proof.Machine

/-! ### Identity and derived keys -/

def hexDigit (n : Nat) : Byte := BitVec.ofNat 8 (if n < 10 then 48 + n else 55 + n)
/-- ID_B (R515). -/
def State.idString (s : State) : List Byte :=
  ascii "THRUMOND-HD8-" ++ (List.range 16).map fun i => hexDigit (s.fuses.serial / 16 ^ (15 - i) % 16)

def State.idKey (s : State) : Nat := deriveKey s.fuses.secret "THRUMOND-HD8-ID"
def State.idPub (s : State) : Nat × Nat := (mulG s.idKey).getD (0, 0)
def State.storeKey (s : State) : Nat := deriveKey s.fuses.secret "THRUMOND-HD8-STORE"
def State.storePub (s : State) : Nat × Nat := (mulG s.storeKey).getD (0, 0)

/-! ### Class C objects (R465) -/

/-- Every numeric class C value: its object, repetition and member. -/
def classC : List (ObjDef × Nat × Nat) :=
  (allObjs.filter fun o => decide (o.per = .c) && decide (o.ty ≠ .blob)).flatMap fun o =>
    (List.range o.reps).flatMap fun i => (List.range o.subs).map fun j => (o, i, j)

/-- Key, type code and bytes of every class C value, in ascending order. -/
def State.liveC (s : State) : List (Nat × Nat × List Byte) :=
  let nums : SMap (Nat × List Byte) := classC.foldl (fun m (c : ObjDef × Nat × Nat) =>
    SMap.put m (c.1.key c.2.1 c.2.2) (c.1.ty.code, leBytes c.1.ty.bytes (s.getO c.1 c.2.1 c.2.2))) []
  (List.range 8).foldl (fun m k =>
    SMap.put m (Obj.CLIENT_KEY.key k) (10, SMap.get [] s.blob (Obj.CLIENT_KEY.key k))) nums

/-! ### Copies (R517) -/

/-- An entry: head and value, filled up to 8 bytes. -/
def storeEntry (e : Nat × Nat × List Byte) : List Byte :=
  let n := e.2.2.length
  leBytes 2 (e.1 / 256) ++ leBytes 1 (e.1 % 256) ++ leBytes 1 e.2.1 ++ leBytes 2 n ++ leBytes 2 0 ++ e.2.2 ++
    List.replicate ((8 - n % 8) % 8) 0

/-- Bytes 0 to 63 of a copy's header. -/
def storeHead (gen count bytes : Nat) (hash : List Byte) : List Byte :=
  leBytes 4 0x53434854 ++ leBytes 2 1 ++ leBytes 2 0 ++ leBytes 4 gen ++ leBytes 4 bytes ++ leBytes 4 count ++ leBytes 12 0 ++
    hash

/-- A new copy of the class C values with a generation. -/
def State.buildCopy (s : State) (gen : Nat) : List Byte :=
  let es := s.liveC
  let body := es.flatMap storeEntry
  let head := storeHead gen es.length (128 + body.length) (sm3 body)
  let (r, q) := sm2Sign (sm2Z s.idString s.storePub) head s.storeKey 4 (16 * s.freeCtr)
  head ++ beBytes 32 r ++ beBytes 32 q ++ body

/-- Entries of a copy in order, where every head is well formed and the keys rise. -/
def parseEntries : Nat → Option Nat → List Byte → Option (List (Nat × Nat × List Byte))
  | 0, _, bs => if bs = [] then some [] else none
  | f + 1, last, bs =>
    if bs = [] then some []
    else
      let h := ofBytes (bs.take 8)
      let n := bits h 47 32
      let key := bits h 15 0 * 256 + bits h 23 16
      let size := 8 + cdiv n 8 * 8
      if bs.length < size ∨ bits h 63 48 ≠ 0 ∨ last.any (fun l => decide (key ≤ l)) = true then none
      else (parseEntries f (some key) (bs.drop size)).map fun rest => (key, bits h 31 24, (bs.drop 8).take n) :: rest

/-- Generation and entries of a valid copy (R518). -/
def State.readCopy (s : State) (bs : List Byte) : Option (Nat × List (Nat × Nat × List Byte)) :=
  let h := ofBytes (bs.take 64)
  let body := bs.drop 128
  if bs.length < 128 ∨ bs.length > 2 ^ 20 ∨ bits h 31 0 ≠ 0x53434854 ∨ bits h 47 32 ≠ 1 ∨ bits h 63 48 ≠ 0 ∨
      bits h 95 64 = 0 ∨ bits h 127 96 ≠ bs.length ∨ bits h 255 160 ≠ 0 ∨ (bs.drop 32).take 32 ≠ sm3 body then none
  else if sm2Verify (sm2Z s.idString s.storePub) (bs.take 64) s.storePub (ofBytesBE ((bs.drop 64).take 32))
      (ofBytesBE ((bs.drop 96).take 32)) = false then none
  else
    match parseEntries (bs.length + 1) none body with
    | some es => if es.length = bits h 159 128 then some (bits h 95 64, es) else none
    | none => none

/-- Assumption 9 (DESIGN CHOICE). -/
def Flash.copy (f : Flash) (n : Nat) : List Byte := if n = 0 then f.copy0 else f.copy1
def Flash.setCopy (f : Flash) (n : Nat) (bs : List Byte) : Flash :=
  if n = 0 then { f with copy0 := bs } else { f with copy1 := bs }

/-- The copy slot in force: the valid copy with the higher generation. -/
def State.pickCopy (s : State) : Option Nat :=
  match s.readCopy s.flash.copy0, s.readCopy s.flash.copy1 with
  | some (a, _), some (b, _) => some (if b > a then 1 else 0)
  | some _, none => some 0
  | none, some _ => some 1
  | none, none => none

/-- Entries of the copy in force. -/
def State.storedC (s : State) : List (Nat × Nat × List Byte) :=
  match s.storeSlot.bind fun n => s.readCopy (s.flash.copy n) with
  | some (_, es) => es
  | none => []

/-! ### Loading (R465, R475) -/

def entryFor (es : List (Nat × Nat × List Byte)) (key : Nat) : Option (Nat × List Byte) :=
  (es.find? fun e => decide (e.1 = key)).map (·.2)

/-- A stored client key: empty, or a point of the curve (R455). -/
def clientKeyOk (bs : List Byte) : Bool := decide (bs = []) || (ptOf bs).isSome

/-- The values that a load sets, each judged by the checks of its object with all of them set: an object without entry takes
its default; one whose entry fails takes its default, or keeps its value where `keep` says so. The keys of those that
failed. -/
def State.loadC (s : State) (es : List (Nat × Nat × List Byte)) (keep : Bool) : State × List Nat :=
  let fits := fun (c : ObjDef × Nat × Nat) (e : Nat × List Byte) =>
    decide (e.1 = c.1.ty.code ∧ e.2.length = c.1.ty.bytes)
  let all := classC.foldl (fun (t : State) c =>
    match entryFor es (c.1.key c.2.1 c.2.2) with
    | some e => if fits c e then t.setO c.1 (ofBytes e.2) c.2.1 c.2.2 else t
    | none => t.setO c.1 c.1.dflt c.2.1 c.2.2) s
  let r := classC.foldl (fun (a : State × List Nat) c =>
    match entryFor es (c.1.key c.2.1 c.2.2) with
    | some e =>
      if fits c e && all.storedOk c.1 c.2.1 c.2.2 (ofBytes e.2) then (a.1.setO c.1 (ofBytes e.2) c.2.1 c.2.2, a.2)
      else (if keep then a.1 else a.1.setO c.1 c.1.dflt c.2.1 c.2.2, a.2 ++ [c.1.key c.2.1 c.2.2])
    | none => (a.1.setO c.1 c.1.dflt c.2.1 c.2.2, a.2)) (s, [])
  (List.range 8).foldl (fun (a : State × List Nat) k =>
    let key := Obj.CLIENT_KEY.key k
    match entryFor es key with
    | some e =>
      if e.1 = 10 ∧ clientKeyOk e.2 then ({ a.1 with blob := SMap.set [] a.1.blob key e.2 }, a.2)
      else (if keep then a.1 else { a.1 with blob := SMap.erase a.1.blob key }, a.2 ++ [key])
    | none => ({ a.1 with blob := SMap.erase a.1.blob key }, a.2)) r

/-- STORE_SKIPPED and STORE_FIRST_SKIPPED, and whether any failed. -/
def State.skipped (s : State) (failed : List Nat) : State :=
  let first := match failed with
    | [] => 0xFFFFFFFF
    | k :: ks => ks.foldl min k
  (s.setO Obj.STORE_SKIPPED failed.length).setO Obj.STORE_FIRST_SKIPPED first

/-- STORE_DIRTY: some live value differs from what a load from the present flash would give (R476). -/
def State.redirty (s : State) : State :=
  let t := (s.loadC s.storedC false).1
  let same := classC.all (fun c => decide (s.getO c.1 c.2.1 c.2.2 = t.getO c.1 c.2.1 c.2.2)) &&
    (List.range 8).all fun k =>
      decide (SMap.get [] s.blob (Obj.CLIENT_KEY.key k) = SMap.get [] t.blob (Obj.CLIENT_KEY.key k))
  s.setO Obj.STORE_DIRTY (if same then 0 else 1)

/-- Generation and size of the copy in force. -/
def State.showCopy (s : State) : State :=
  match s.storeSlot.bind fun n => (s.readCopy (s.flash.copy n)).map fun r => (r.1, (s.flash.copy n).length) with
  | some (g, n) => (s.setO Obj.STORE_GENERATION g).setO Obj.STORE_BYTES n
  | none => (s.setO Obj.STORE_GENERATION 0).setO Obj.STORE_BYTES 0

/-- Stage 5: the class C values from the copy in force, and one record where there is none or where values fail (R465,
R518). -/
def State.loadStore (s : State) : State :=
  let s := ({ s with storeSlot := s.pickCopy }).showCopy
  let (s, failed) := s.loadC s.storedC false
  let s := s.skipped failed
  let s := if s.storeSlot = none ∨ failed ≠ [] then
      s.post { reason := 0x0A02, d0 := s.getO Obj.STORE_FIRST_SKIPPED, d1 := failed.length }
    else s
  s.redirty

/-! ### STORE (R473, R474) -/

/-- The copy slot that the next STORE writes. -/
def State.freeCopy (s : State) : Nat := if s.storeSlot = some 0 then 1 else 0

/-- A STORE begins: every class C value is taken in one step, and the slot that it writes is erased. -/
def State.beginStore (s : State) : State :=
  let bs := s.buildCopy (s.getO Obj.STORE_GENERATION + 1)
  let s := { s with storeRun := some bs, flash := s.flash.setCopy s.freeCopy [] }
  s.drew.setO Obj.STORE_STATUS 1

/-- The copy has been written and read back. -/
def State.endStore (s : State) (bs : List Byte) : State :=
  let n := s.freeCopy
  let s := { s with flash := s.flash.setCopy n bs, storeSlot := some n, storeRun := none }
  s.showCopy.redirty

/-- STORE_COMPLETE: the copy is in force, or the store fails and the previous copy stays. -/
def execStoreComplete (flashOk sigOk : Bool) (s : State) : Out :=
  match s.storeRun with
  | none => .next s
  | some bs =>
    if flashOk ∧ sigOk then .next ((s.endStore bs).setO Obj.STORE_STATUS 2)
    else
      let st := if flashOk then 4 else 3
      let s := { s with flash := s.flash.setCopy s.freeCopy [], storeRun := none }
      .next ((s.setO Obj.STORE_STATUS st).post { reason := 0x0A03, d0 := st })

/-! ### Provisioning (R519 to R521) -/

/-- A key record of 72 bytes: slot, enable and key, where it is well formed. -/
def provKey (bs : List Byte) : Option (Nat × Nat × List Byte) :=
  let h := ofBytes (bs.take 8)
  if bs.length < 72 ∨ bits h 63 16 ≠ 0 ∨ bits h 15 8 > 1 ∨ bits h 7 0 > 7 ∨ (ptOf ((bs.drop 8).take 64)).isNone then none
  else some (bits h 7 0, bits h 15 8, (bs.drop 8).take 64)

def provKeys : Nat → List Byte → Option (List (Nat × Nat × List Byte))
  | 0, _ => some []
  | n + 1, bs =>
    match provKey bs, provKeys n (bs.drop 72) with
    | some k, some ks => if ks.any fun (x : Nat × Nat × List Byte) => decide (x.1 = k.1) then none else some (k :: ks)
    | _, _ => none

/-- The mask and key records of a record that passes its checks. -/
def provOk (bs : List Byte) : Option (Nat × List (Nat × Nat × List Byte)) :=
  let h := ofBytes (bs.take 16)
  let n := bits h 39 32
  if bs.length < 16 + 72 * n ∨ bits h 31 0 ≠ 0x52504854 ∨ n = 0 ∨ n > 8 ∨ bits h 63 40 ≠ 0 ∨ bits h 95 72 ≠ 0 ∨
      bits h 127 96 ≠ crc32c ((bs.drop 16).take (72 * n)) then none
  else (provKeys n (bs.drop 16)).map fun ks => (bits h 71 64, ks)

/-- PROVISIONING_IMPORT (R520, R521). An erased region holds no record. -/
def State.provision (s : State) : State :=
  if s.flash.prov = [] ∨ ((List.range 8).any fun k => decide (s.getO Obj.CLIENT_KEY_EN k = 1)) then s
  else
    match provOk s.flash.prov with
    | none => (s.setO Obj.PROV_IMPORTED 0xFF).post { reason := 0x0A04 }
    | some (mask, ks) =>
      let s := ks.foldl (fun (s : State) (k : Nat × Nat × List Byte) =>
        { s with blob := SMap.set [] s.blob (Obj.CLIENT_KEY.key k.1) k.2.2 }.setO Obj.CLIENT_KEY_EN k.2.1 k.1) s
      let s := s.setO Obj.OWNER_KEY_MASK mask
      let s := (s.endStore (s.buildCopy (s.getO Obj.STORE_GENERATION + 1))).drew.setO Obj.STORE_STATUS 2
      { s with flash := { s.flash with prov := [] } }.setO Obj.PROV_IMPORTED ks.length

end Sys2Proof.Machine
end

