-- ==== Sys2Proof/Machine/Reset.lean ====
section
/-! DEFINITION. The resets and what each keeps and clears (R351, R454, R489, R497, R498, R502, R552), and the entry to
FAULT (R535). -/
namespace Sys2Proof.Machine

/-! ### Objects by persistence class (R502) -/

/-- The dictionary without the values that `gone` names: those objects take their defaults. -/
def State.dropObjs (s : State) (gone : ObjDef → Nat → Nat → Bool) : State :=
  let keeps := fun (k : Nat) => match objOfKey k with
    | some (o, i, j) => !gone o i j
    | none => true
  { s with obj := s.obj.filter (fun (p : Nat × Nat) => keeps p.1), blob := s.blob.filter (fun (p : Nat × List Byte) => keeps p.1) }

/-- Class V objects of an index range. -/
def volatileIn (lo hi : Nat) (o : ObjDef) (i : Nat) : Bool := decide (o.per = .v) && decide (lo ≤ o.index + i ∧ o.index + i ≤ hi)

/-- Class V objects of a compute die: its cores, ports and thresher, and the members that name it or its optical
engines. -/
def dieObjs (d : Nat) (o : ObjDef) (i j : Nat) : Bool :=
  volatileIn (0xA000 + 400 * d) (0xA000 + 400 * d + 399) o i || volatileIn (0x4210 + 4 * d) (0x4210 + 4 * d + 3) o i ||
    volatileIn (0x7010 + d) (0x7010 + d) o i || decide (o = if d = 0 then Obj.UPDATE_FLAGS_CD0 else Obj.UPDATE_FLAGS_CD1) ||
    (([Obj.LEAVE_LEAK_FACTOR, Obj.CLK_CORE_MULT_NOW, Obj.CLK_CORE_SRC].contains o) && decide (j = d)) ||
    (([Obj.THERM_DIE_C, Obj.THERM_MAX_C].contains o) && decide (j = d ∨ j = 3 + 2 * d ∨ j = 4 + 2 * d))

/-! ### Operations that end with a unit -/

/-- The request belongs to one of these operations. -/
def reqOfOps (ids : List Nat) (r : SemReq) : Bool :=
  match r.who with
  | .op id => ids.contains id
  | .fill id => ids.contains id
  | _ => false

/-- Operations end without CSEM or event; their leave returns and their waits are withdrawn. They count as abandoned and
leave no record of their own. Assumption 80 (DEDUCED). -/
def State.killOps (s : State) (gone : Nat → Op → Bool) : State :=
  let ids : List Nat := (s.ops.filter fun (p : Nat × Op) => gone p.1 p.2).map (·.1)
  let s := if ids = [] then s else (s.keepWaits fun r => !reqOfOps ids r).regrant
  ids.foldl (fun (s : State) id =>
    match s.op? id with
    | some o => (((s.countAbandoned o.desc).coreFailed o).endOp id o).dropReserved o.entry
    | none => s) s

/-- FAULT at once (R535): operations end as abandoned. Assumption 80 (DEDUCED). -/
def State.enterFault (s : State) (reason : Nat) : State :=
  if s.dev = stOFF ∨ s.dev = stFAULT then s
  else ((s.killOps fun _ _ => true).setO Obj.DEVICE_FAULT_REASON reason).setDev stFAULT

/-- A table is cleared: its entries, swap, load in progress and reservations are gone, and its hold falls.
Assumption 84 (DEDUCED). -/
def State.clearTable (s : State) (t : Nat) : State :=
  let s := { s with
    tables := SMap.erase s.tables t
    resvs := s.resvs.filter fun (r : Resv) => decide (r.table ≠ t)
    load := s.load.filter fun (l : FurrowLoad) => decide (l.table ≠ t) }
  s.judge t

/-! ### CORE, PORT, DIE and FIELD -/

/-- The operation runs on core n: an operation of an edge unit that has begun is not the core's. -/
def onCore (n : Nat) (_ : Nat) (o : Op) : Bool := decide (o.unit = n) && (decide (opUnit o.desc ≤ 5) || !o.phase.begun)

/-- OP_TAG of an operation in progress on a core; 0 where there is none. Assumption 84 (DEDUCED). -/
def State.tagOnCore (s : State) (n : Nat) : Nat :=
  match s.ops.find? fun (p : Nat × Op) => onCore n p.1 p.2 && p.2.phase.begun with
  | some (_, o) => opTag o.desc
  | none => 0

/-- Registers, contexts and loft of a core are zero, with valid check bits. -/
def State.clearCore (s : State) (n : Nat) : State :=
  let other := fun (k : Nat) => decide (k ≠ n)
  let outside := fun (a : Nat) => decide (a < loftBase n) || decide (loftBase n + loftSize ≤ a)
  { s with
    mem := s.mem.filter fun (c : Host.Cell) => outside c.1
    chk := s.chk.filter fun (p : Nat × Nat) => outside (16 * p.1)
    vchk := s.vchk.filter fun (p : Nat × Nat) => other (p.1 / 2 ^ 17)
    vreg := s.vreg.filter fun (p : Nat × Nat) => other (p.1 / 131072)
    mreg := s.mreg.filter fun (p : Nat × Nat) => other (p.1 / 8)
    ctxs := s.ctxs.filter fun (p : Nat × Ctx) => other (p.1 / 2048)
    stopped := s.stopped.filter fun (k : Nat) => other (k / 8)
    waited := s.waited.filter other }

/-- What a CORE reset does before its record. Assumptions 26 (DEDUCED), 84 (DEDUCED). -/
def State.resetCore (s : State) (n : Nat) : State :=
  let s := (s.loseOwner (4096 + n)).killOps (onCore n)
  ((s.clearCore n).dropObjs fun o i _ => volatileIn (0xA000 + n) (0xA000 + n) o i).clearTable n

/-- The port loses its link layer, replay and credit state and its table, and retrains. -/
def State.resetPort (s : State) (p : Nat) : State :=
  let s := (s.portMove p pOFF 0).clearTable (0x320 + p)
  let s := s.dropObjs fun o i _ => volatileIn (0x4210 + p) (0x4210 + p) o i
  if s.portsLive then s.portTrain p else s

/-- The request comes from a core, an operation or the thresher of die d. -/
def State.fromDie (s : State) (d : Nat) (r : SemReq) : Bool :=
  match r.who with
  | .ctx core _ _ => decide (dieOfCore core = d)
  | .slot n => decide (n = d)
  | .op id | .fill id => (s.op? id).any fun (o : Op) => decide (o.die s = d)
  | _ => false

/-- One compute die. Assumption 84 (DEDUCED). -/
def State.resetDie (s : State) (d : Nat) : State :=
  let cores := (List.range 400).map (· + 400 * d)
  let s := s.loseOwners (s.fromDie d) fun id => decide (4096 + 400 * d ≤ id ∧ id < 4096 + 400 * (d + 1))
  let s := s.killOps fun _ o => decide (o.die s = d)
  let s := cores.foldl State.clearCore s
  let s := s.dropObjs (dieObjs d)
  let s := { s with
    thrs := SMap.erase s.thrs d
    thermSteps := SMap.erase s.thermSteps d
    stopped := s.stopped.filter fun (k : Nat) => decide (k / 8 < 800) || decide (dieOfUnit (k / 8) ≠ d) }
  let s := cores.foldl State.clearTable s
  let s := [0x328 + d, 0x32A + d].foldl State.clearTable s
  [0, 1, 2, 3].foldl (fun (s : State) p => s.resetPort (4 * d + p)) s

/-- The almanac is FREE with tick, count, held ticks and grant at 0; schedule objects and every requester's copies of them
take their defaults. -/
def State.resetField (s : State) : State :=
  let s := s.dropObjs fun o i _ => volatileIn 0x4000 0x41FF o i
  let index := fun (p : Nat × Nat) => p.1 % 2 ^ 24 / 256
  ({ s with sel := s.sel.filter fun p => decide (index p < 0x4000 ∨ 0x41FF < index p)
            alm := {}, stepRun := none, stepQueue := [], stepDead := none, resvs := [] }).cancelSwaps

/-! ### POR and WARM -/

/-- Ports that keep only what their laser modules report. -/
def State.litPorts (s : State) : SMap Port :=
  (s.ports.filter fun (p : Nat × Port) => !p.2.laserOk).map fun (p : Nat × Port) => (p.1, { laserOk := false })

/-- ELS_EN0 to ELS_EN7 low. -/
def State.lasersOff (s : State) : State := (List.range 8).foldl (fun (s : State) p => s.emit (.pin (100 + p) false)) s

/-- Whole device, held without power: fuses, flash and the levels at the laser modules remain.
Assumptions 6 (DESIGN CHOICE), 80 (DEDUCED), 121 (DEDUCED). -/
def State.powerDown (s : State) (pins : Pins) : State :=
  let t : State := { pending := s.pending, out := s.out, freeCtr := s.freeCtr, fuses := s.fuses, flash := s.flash,
                     pins := pins, ports := s.litPorts }
  (t.setO Obj.DEVICE_STATE stOFF).lasersOff

/-- PLLs start: they lock where REFCLK is present, and wait for it otherwise. Assumption 83 (DEDUCED). -/
def State.startPlls (s : State) (js : List Nat) : State :=
  let v := if s.getO Obj.REFCLK_PRESENT = 1 then pllREADY else pllLOCKING
  js.foldl (fun (s : State) j => s.setO Obj.PLL_STATE v 0 j) s
def State.stopPlls (s : State) (js : List Nat) : State :=
  { js.foldl (fun (s : State) j => s.setO Obj.PLL_STATE pllOFF 0 j) s with
    pllSince := s.pllSince.filter fun (p : Nat × Nat) => !js.contains p.1 }

/-- The two CPLLs and HPLL, the OPLLs, and the LPLLs (R505). -/
def diePlls : List Nat := [0, 1, 2]
def opticPlls : List Nat := [3, 4, 5, 6]
def memPlls : List Nat := (List.range 32).map (· + 7)

/-- WARM (R498, R502): class W objects, ring configurations, memory regions and LPDDR6 remain; the device starts from
FUSED at stage 2. Assumptions 6 (DESIGN CHOICE), 26 (DEDUCED), 79 (DEDUCED). -/
def State.warmReset (s : State) (cause : Nat) : State :=
  let kept := s.dropObjs fun o _ _ => decide (o.per ≠ .w ∧ o.per ≠ .f)
  let t : State := { pending := s.pending, out := s.out, freeCtr := s.freeCtr, fuses := s.fuses, flash := s.flash,
                     pins := s.pins, ports := s.litPorts, obj := kept.obj, blob := kept.blob, mrs := s.mrs, memRate := s.memRate
                     mem := if s.memLost then [] else s.mem.filter fun (c : Host.Cell) => decide (c.1 < lpEnd)
                     chk := if s.memLost then [] else s.chk.filter fun (p : Nat × Nat) => decide (16 * p.1 < lpEnd)
                     rings := s.rings.map fun (p : Nat × Ring) =>
                       (p.1, { p.2 with p := 0, c := 0, stopped := false, overflows := 0, refused := 0 }) }
  let t := ((t.setO Obj.BOOT_STAGE 2).setO Obj.RESET_CAUSE cause).setO Obj.WARM_MEM_KEPT (b2n (!s.memLost))
  let t := ((t.setO Obj.RESET_LAST_KIND 1).setO Obj.RESET_LAST_TARGET 0).incO Obj.RESET_COUNT 1 0 0
  let t := (t.setO Obj.REFCLK_PRESENT (s.getO Obj.REFCLK_PRESENT)).startPlls diePlls
  t.lasersOff

/-- A reset other than POR and WARM is counted (R506). -/
def State.countReset (s : State) (kind target : Nat) : State :=
  ((s.setO Obj.RESET_LAST_KIND kind).setO Obj.RESET_LAST_TARGET target).incO Obj.RESET_COUNT 1 0 (kind - 1)

/-- A software reset of this kind and target has been asked for; it begins. -/
def State.beginReset (s : State) (kind target : Nat) (run : State → State) : Out :=
  if s.resetAsked = some (kind, target) then
    .next (run ({ s with resetAsked := none, resetRun := some (kind, target) }.countReset kind target))
  else .next s

/-- WARM: 10 ms have passed since the response. -/
def execWarm (s : State) : Out :=
  match s.resetAsked with
  | some (1, _) => .next (s.warmReset 3)
  | _ => .next s

/-- DIE_RESET. -/
def execDieReset (die : Nat) (s : State) : Out :=
  if die ≥ 2 then .fault .noSuchUnit else s.beginReset 2 die fun s => s.resetDie die

/-- CORE_RESET: while RUNNING its record names the core and the operation that was in progress. -/
def execCoreReset (core : Nat) (s : State) : Out :=
  if core ≥ 800 then .fault .noSuchUnit
  else
    s.beginReset 3 core fun s =>
      let tag := s.tagOnCore core
      let s := s.resetCore core
      if s.running then s.post { reason := 0x0109, d0 := core, tag := tag, source := core } else s

/-- PORT_RESET. -/
def execPortReset (port : Nat) (s : State) : Out :=
  if port ≥ 8 then .fault .noSuchUnit else s.beginReset 4 port fun s => s.resetPort port

/-- FIELD_RESTART. It lasts until the almanac is LOCKED (R497). -/
def execFieldRestart (s : State) : Out :=
  match s.resetAsked with
  | some (5, t) => s.beginReset 5 t State.resetField
  | _ => .next s

/-- RESET_COMPLETE: the unit returns to service; a PORT reset ends once the port has left TRAIN.
Assumption 84 (DEDUCED). -/
def execResetComplete (s : State) : Out :=
  match s.resetRun with
  | some (k, t) =>
    if k = 5 ∨ (k = 4 ∧ s.portState t = pTRAIN) then .next s
    else .next ({ s with resetRun := none }.setO Obj.RESET_STATUS 2)
  | none => .next s

/-- POR: PWROK is low. A trip's latch clears (R552). Assumption 81 (DEDUCED). -/
def execPor (s : State) : Out :=
  let t := s.powerDown { pwrok := false }
  .next (if s.pins.tripped then t.emit (.pin 200 true) else t)

/-- POWER_UP: PWROK rises, and stage 1 begins; without fuses loaded the device is still OFF. Assumption 81 (DEDUCED). -/
def execPowerUp (s : State) : Out :=
  if s.pins.pwrok then .next s
  else .next { s with pins := { s.pins with pwrok := true } }

/-- RESET_N: low for `lowUs` µs while PWROK is high gives WARM on its rising edge; a trip prevails. -/
def execResetN (lowUs : Nat) (s : State) : Out :=
  if lowUs < 10 ∨ s.pins.pwrok = false ∨ s.pins.tripped ∨ s.dev = stOFF then .next s else .next (s.warmReset 2)

/-- THERMTRIP: die 1 to 7 reaches its trip level, and the device goes to OFF. Assumption 81 (DEDUCED). -/
def execThermtrip (die : Nat) (s : State) : Out :=
  if die = 0 ∨ die > 7 then .fault .noSuchUnit
  else if s.dev = stOFF then .next s
  else .next ((s.powerDown { pwrok := s.pins.pwrok, tripped := true }).emit (.pin 200 false))

/-- Copies of a requester take their defaults (R459). -/
def State.dropCopies (s : State) (rq : Nat) : State :=
  { s with
    sel := s.sel.filter (fun (p : Nat × Nat) => decide (p.1 / 2 ^ 24 ≠ rq))
    selBlob := s.selBlob.filter (fun (p : Nat × List Byte) => decide (p.1 / 2 ^ 24 ≠ rq)) }

/-- STEWARD_WATCHDOG: a steward has had no service for 1 s; it restarts, or the second expiry within 60 s makes a WARM. -/
def execStewardWatchdog (n : Nat) (s : State) : Out :=
  if n ≥ 4 then .fault .noSuchUnit
  else if s.alive = false then .next s
  else
    let now := s.getO Obj.DEVICE_UPTIME_MS
    if s.watchdogMs ≠ 0 ∧ now + 1 ≤ s.watchdogMs + 60000 then .next (s.warmReset 4)
    else
      let s := (({ s with watchdogMs := now + 1 }).loseOwner (12288 + n)).dropCopies (16 + n)
      .next (s.countReset 6 n)

/-- SUPPLY_RESET: a rail has stayed at its reset level for 1 µs (R489). Assumption 80 (DEDUCED). -/
def execSupplyReset (rail mv : Nat) (s : State) : Out :=
  if rail ≥ 8 then .fault .noSuchUnit
  else if s.alive = false ∨ 100 * mv > 92 * railNominal rail then .next s
  else if rail = 3 then .next (s.powerDown { pwrok := false })
  else
    let s := (s.setO Obj.SUPPLY_RESET_RAIL rail).post { reason := 0x0902, d0 := rail, d1 := mv % 2 ^ 32 }
    let die := fun (s : State) d => ({ s with resetRun := some (2, d) }.countReset 2 d).resetDie d
    if rail = 0 ∨ rail = 1 then .next (die (s.enterFault 0x0902) rail)
    else if rail = 2 then .next (die (die (s.enterFault 0x0902) 0) 1)
    else if rail = 4 ∨ rail = 5 then
      let s := s.enterFault 0x0902
      .next { s with
        memLost := true
        mem := s.mem.filter fun (c : Host.Cell) => decide (lpEnd ≤ c.1)
        chk := s.chk.filter fun (p : Nat × Nat) => decide (lpEnd ≤ 16 * p.1) }
    else .next ((List.range 8).foldl (fun (s : State) p => s.portMove p pFAULT 0) s)

end Sys2Proof.Machine
end

