-- ==== Sys2Proof/Machine/LowPower.lean ====
section
/-! DEFINITION. Low-power states: requests, P1, and the entry to FALLOW (R496, R499 to R501). The steps of its exit stand
with the traffic that waits for them. -/
namespace Sys2Proof.Machine

/-- A unit is in use: an operation is armed or in progress, or a context is not FREE (R496). -/
def State.inUse (s : State) : Bool :=
  decide (s.ops ≠ []) || s.ctxs.any fun (p : Nat × Ctx) => decide (p.2.st ≠ .free)

/-- A semaphore is HELD by a core. -/
def State.coreHolds (s : State) : Bool :=
  s.sems.any fun (p : Nat × Sem) => decide (p.2.st = 1) && decide (p.2.owner / 2 ^ 44 = 1)

/-- A swap is pending, or a load, a store or a firmware update is in progress. -/
def State.changing (s : State) : Bool :=
  (s.tables.any fun (p : Nat × Table) => p.2.swap.isSome) || s.load.isSome || s.storeRun.isSome ||
    decide (s.getO Obj.FW_UPDATE_STATUS = 1 ∨ s.getO Obj.FW_UPDATE_STATUS = 2)

/-- LP_STATUS of a request for P1 (1) or FALLOW (2); 0 where it is accepted (R499). -/
def State.lpRefusal (s : State) (v : Nat) : Nat :=
  if s.readyOrStopped = false ∨ s.getO Obj.LP_STATE ≠ 0 then 1
  else if s.inUse ∨ s.coreHolds then 2
  else if v = 2 ∧ s.isMaster ∧ s.anyPortUp then 3
  else if s.changing then 4
  else 0

/-- P1 ends: the core domains restart at m = 4 (R500). -/
def State.leaveP1 (s : State) : State :=
  let s := ((s.setO Obj.LP_STATE 0).setO Obj.LP_REQUEST 0).incO Obj.P1_EXITS
  let s := (s.setO Obj.CLK_CORE_MULT_NOW 4 0 0).setO Obj.CLK_CORE_MULT_NOW 4 0 1
  s.setCond keyP1 none

/-- A request for P0: it leaves P1, or starts the exit from FALLOW. Assumption 85 (DEDUCED). -/
def State.askP0 (s : State) : State × Nat :=
  let st := s.getO Obj.LP_STATE
  if st = 1 then (s.leaveP1.setO Obj.LP_STATUS 0, 0)
  else if st = 2 then (s.setO Obj.LP_STATUS 1, 3)
  else if st = 3 then (({ s with fallowStep := 0 }.setO Obj.LP_STATE 4).setO Obj.LP_STATUS 0, 0)
  else (s.setO Obj.LP_STATUS 0, 0)

/-- YDP STATUS of a refused request: 3 for the state, else 5. Assumption 72 (DEDUCED). -/
def lpStatusCode (n : Nat) : Nat := if n = 1 then 3 else 5

/-- A request for P1. -/
def State.askP1 (s : State) : State × Nat :=
  let n := s.lpRefusal 1
  if n = 0 then (((s.setO Obj.LP_REQUEST 1).setO Obj.LP_STATE 1).setO Obj.LP_STATUS 0, 0)
  else (s.setO Obj.LP_STATUS n, lpStatusCode n)

/-- A request for FALLOW. -/
def State.askFallow (s : State) : State × Nat :=
  let n := s.lpRefusal 2
  if n = 0 then
    ((({ s with fallowStep := 0 }.setO Obj.LP_REQUEST 2).setO Obj.LP_STATE 2).setO Obj.LP_STATUS 0, 0)
  else (s.setO Obj.LP_STATUS n, lpStatusCode n)

/-- A write of LP_REQUEST: the state after it and its STATUS. -/
def State.lpRequest (s : State) (v : Nat) : State × Nat := if v = 0 then s.askP0 else if v = 1 then s.askP1 else s.askFallow

/-- What takes the device out of P1 by itself: a descriptor waits in a command stream or thresher input, or a START has
come. -/
def State.wakes (s : State) : Bool :=
  s.running || s.alm.start.isSome ||
    s.rings.any fun (p : Nat × Ring) => decide (p.2.binding = 2 ∨ p.2.binding = 3) && decide (p.2.p ≠ p.2.c)

/-- P1_EXIT. -/
def execP1Exit (s : State) : Out :=
  if s.getO Obj.LP_STATE = 1 ∧ s.wakes then .next s.leaveP1 else .next s

/-- Entry step 5: what the cores and edge units hold is lost. -/
def State.loseCores (s : State) : State :=
  let s := { s with
    mem := s.mem.filter fun (c : Host.Cell) => decide (c.1 < lpEnd)
    chk := s.chk.filter fun (p : Nat × Nat) => decide (16 * p.1 < lpEnd)
    vchk := []
    vreg := []
    mreg := []
    ctxs := []
    tables := []
    resvs := []
    thrs := s.thrs.map fun (p : Nat × Thr) => (p.1, { p.2 with merges := [] }) }
  (s.setO Obj.THRESH_MERGES 0 0).setO Obj.THRESH_MERGES 0 1

/-- The almanac is FREE, and knows no master. -/
def State.freeAlmanac (s : State) : State :=
  { s.setO Obj.ALMANAC_STATE 0 with
    alm := { s.alm with heard := false, master := 0, silent := 0, good := 0, depths := [] } }

/-- FALLOW_ENTRY_STEP: the next step of entry ends; the last one makes the device state FALLOW, which only READY and STOPPED
lead to (R467): in any other state the entry is over. Assumption 85 (DEDUCED). -/
def execFallowEntryStep (s : State) : Out :=
  if s.getO Obj.LP_STATE ≠ 2 then .next s
  else if s.readyOrStopped = false then
    .next (({ s with fallowStep := 0 }.setO Obj.LP_STATE 0).setO Obj.LP_REQUEST 0)
  else
    let n := s.fallowStep + 1
    let t := { s with fallowStep := n }
    if n = 1 then .next t
    else if n = 2 then .next ((List.range 8).foldl (fun (s : State) p => s.portMove p pOFF 0) t).lasersOff
    else if n = 3 then .next t.freeAlmanac
    else if n = 4 then .next ((t.stopPlls memPlls).stopPlls opticPlls)
    else
      let t := ({ t with fallowStep := 0 }.loseCores).setO Obj.DEVICE_FALLOW_FROM s.dev
      .next (((t.setDev stFALLOW).setO Obj.LP_STATE 3).incO Obj.FALLOW_ENTRIES)

end Sys2Proof.Machine
end

