-- ==== Sys2Proof/Machine/Net.lean ====
section
/-! DEFINITION. What every message at a host port shares: links, addresses, the judging of frames and packets, next hops, and
sending (R429 to R434, R442). -/
namespace Sys2Proof.Machine

/-! ### Links and addresses (R429, R430, R432, R434) -/

def State.ethUp (s : State) (p : Nat) : Bool := decide (s.getO Obj.ETH_LINK_STATE p = 2)
def State.eth (s : State) (p : Nat) : EthPort := SMap.get {} s.eths p
def State.setEth (s : State) (p : Nat) (x : EthPort) : State := { s with eths := SMap.set {} s.eths p x }
def State.macOf (s : State) (p : Nat) : Nat := (s.fuses.macBase + p) % 2 ^ 48

/-- Modes of a copper cable, which negotiate (R429, R430). -/
def copperMode (m : Nat) : Bool := decide (m = 2 ∨ m = 4 ∨ m = 6)

/-- Lanes that a mode uses, and its MAC rate, Mb/s (R429). -/
def ethLanes (m : Nat) : List Nat := if m = 0 then [] else if m ≤ 2 then [0, 1] else [0]
def ethRate (m : Nat) : Nat := if m = 0 then 0 else if m ≤ 2 then 400000 else if m ≤ 4 then 200000 else 100000

/-- A port begins to train its link, or is off; what it holds of an earlier link is gone. -/
def State.ethTrain (s : State) (p : Nat) : State :=
  let m := s.getO Obj.ETH_MODE p
  let s := { s with eths := SMap.erase s.eths p }
  if m = 0 then s.setO Obj.ETH_LINK_STATE 0 p
  else (s.setO Obj.ETH_LINK_STATE 1 p).emit (.ethTrain p m (ethLanes m) (copperMode m))

/-- IPv4 addresses as addresses of 128 bits. -/
def v4 (a : Nat) : Nat := 0xFFFF * 2 ^ 32 + a % 2 ^ 32
def isV4 (a : Nat) : Bool := decide (a / 2 ^ 32 = 0xFFFF)

/-- The link-local address of a port, by the modified EUI-64 rule. Assumption 68 (PRESUMED). -/
def State.linkLocal (s : State) (p : Nat) : Nat :=
  let m := s.macOf p
  0xFE80 * 2 ^ 112 + (m / 2 ^ 24 ^^^ 0x020000) * 2 ^ 40 + 0xFFFE * 2 ^ 24 + m % 2 ^ 24

/-- An address that the port has; zero is not in use. -/
def State.hasIp6 (s : State) (p a : Nat) : Bool :=
  decide (a ≠ 0) && (decide (a = (s.eth p).ip6) || decide (a = s.linkLocal p))
def State.hasIp4 (s : State) (p a : Nat) : Bool := decide (a ≠ 0) && decide (a = (s.eth p).ip4)
def State.hasIp (s : State) (p a : Nat) : Bool := if isV4 a then s.hasIp4 p (a % 2 ^ 32) else s.hasIp6 p a

/-! ### Judging frames and packets (R431, R433) -/

/-- Multicast addresses that a port joins: solicited nodes of its addresses, all nodes, and IEEE 1588 messages.
Assumption 68 (PRESUMED). -/
def State.joined (s : State) (p : Nat) : List Nat :=
  [0x3333FF000000 + s.linkLocal p % 2 ^ 24, 0x333300000001, 0x011B19000000, 0x01005E000181, 0x333300000181] ++
    if (s.eth p).ip6 = 0 then [] else [0x3333FF000000 + (s.eth p).ip6 % 2 ^ 24]

/-- Bytes of a port's receive buffer that waiting requests take. -/
def State.held (s : State) (p : Nat) : Nat :=
  s.roceHeld.foldl (fun a (x : RocePkt × Bool) => if x.1.eport = p then a + x.1.size else a) 0

def ethBuffer : Nat := 1024 * 1024

def State.pfcOn (s : State) (p prio : Nat) : Bool := bit (s.getO Obj.ETH_PFC_ENABLE p) prio

/-- The frame arrived without an error. -/
def frameWhole (f : EthFrame) : Bool := f.fcsOk && decide (f.lost = 0)

/-- The port takes the frame: size, FCS, destination, VLAN, and room for a priority without flow control.
Assumption 67 (DEDUCED). -/
def State.takesFrame (s : State) (p : Nat) (f : EthFrame) : Bool :=
  let v := s.getO Obj.ETH_VLAN_ID p
  frameWhole f && decide (f.size ≤ s.getO Obj.ETH_MTU p + (if f.vlan = 0 then 18 else 22)) &&
    (decide (f.dst = s.macOf p ∨ f.dst = 2 ^ 48 - 1) || (s.joined p).contains f.dst) && decide (v = 0 ∨ f.vlan = v) &&
    (s.pfcOn p f.prio || decide (s.held p + f.size ≤ ethBuffer))

def State.ethDrop (s : State) (p : Nat) : State := s.incO Obj.ETH_RX_DROPS 1 p
def State.ethTook (s : State) (p : Nat) : State := s.incO Obj.ETH_RX_FRAMES 1 p
def State.ethSent (s : State) (p : Nat) : State := s.incO Obj.ETH_TX_FRAMES 1 p

/-- Count a frame's codewords (R429, R456) and a bad FCS. -/
def State.ethCount (s : State) (p : Nat) (f : EthFrame) : State :=
  let s := if frameWhole f then s else s.incO Obj.ETH_RX_FCS_ERRORS 1 p
  let s := if f.fixed = 0 then s else s.incO Obj.ETH_FEC_CORRECTED f.fixed p
  if f.lost = 0 then s else s.incO Obj.ETH_FEC_UNCORRECTED f.lost p

/-- A frame is judged; `use` goes on with one that is accepted. -/
def State.onFrame (s : State) (p : Nat) (f : EthFrame) (use : State → Out) : Out :=
  if p ≥ 2 then .fault .noSuchUnit
  else if s.ethUp p = false then .next s
  else
    let s := s.ethCount p f
    if s.takesFrame p f then use s else .next (s.ethDrop p)

/-- The packet is a whole one to an address of the port, and to this UDP port. -/
def State.takesNet (s : State) (n : Net) (dport : Nat) : Bool :=
  !n.frag && s.hasIp n.eport n.dstIp && decide (n.dport = dport)

/-- A UDP datagram arrives: `use` goes on with one that is accepted. -/
def State.onNet (s : State) (n : Net) (dport : Nat) (use : State → Out) : Out :=
  s.onFrame n.eport n.frame fun s =>
    if s.takesNet n dport then use (s.ethTook n.eport) else .next (s.ethDrop n.eport)

/-! ### Sending (R431 to R433, R442) -/

/-- The port sends a frame now. -/
def State.sendFrame (s : State) (f : TxFrame) : State := (s.ethSent f.port).emit (.eth f)

/-- Transmission on the priority has stopped for a received PFC frame. -/
def State.txPaused (s : State) (p prio : Nat) : Bool :=
  s.pfcOn p prio && (s.eth p).paused.any fun (a : Pause) => decide (a.prio = prio)

/-- The port sends a frame, or keeps it until its priority goes on; a port that is down sends nothing. -/
def State.transmit (s : State) (f : TxFrame) : State :=
  if s.ethUp f.port = false then s
  else if s.txPaused f.port f.prio then
    s.setEth f.port { s.eth f.port with txq := (s.eth f.port).txq ++ [f] }
  else s.sendFrame f

/-- A frame of the port: tagged where ETH_VLAN_ID is nonzero. -/
def State.frameFor (s : State) (p dst prio : Nat) (body : TxBody) : TxFrame :=
  { port := p, dst := dst, src := s.macOf p, vlan := s.getO Obj.ETH_VLAN_ID p, prio := prio, body := body }

/-- The next hop to an address: itself within the port's prefix or link, else the gateway (R432). -/
def State.nextHop (s : State) (p a : Nat) : Option Nat :=
  let x := s.eth p
  if isV4 a then
    if a % 2 ^ 32 / 2 ^ (32 - x.ip4pfx) = x.ip4 / 2 ^ (32 - x.ip4pfx) then some a
    else if x.ip4gw ≠ 0 then some (v4 x.ip4gw) else none
  else if a / 2 ^ 118 = 0x3FA ∨ (x.ip6 ≠ 0 ∧ a / 2 ^ (128 - x.ip6pfx) = x.ip6 / 2 ^ (128 - x.ip6pfx)) then some a
  else if x.ip6gw ≠ 0 then some x.ip6gw else none

/-- Ask for the MAC address of a neighbour: ARP by broadcast, neighbour discovery to its solicited-node address.
Assumption 119 (DESIGN CHOICE). -/
def State.solicit (s : State) (p hop : Nat) : State :=
  if isV4 hop then s.transmit (s.frameFor p (2 ^ 48 - 1) 0 (.arp false (hop % 2 ^ 32) (s.eth p).ip4))
  else s.transmit (s.frameFor p (0x3333FF000000 + hop % 2 ^ 24) 0 (.nd false hop (s.linkLocal p)))

/-- Send a packet: at once where the next hop's MAC address is known, else when it becomes known; a packet without a next hop is
lost. Assumption 119 (DESIGN CHOICE). -/
def State.sendIp (s : State) (p prio : Nat) (d : Dgram) : State :=
  if s.ethUp p = false then s
  else
    match s.nextHop p d.dst with
    | none => s
    | some h =>
      let x := s.eth p
      let mac := SMap.get 0 x.neigh h
      if mac ≠ 0 then s.transmit (s.frameFor p mac prio (.ip d))
      else (s.setEth p { x with waiting := x.waiting ++ [(h, s.frameFor p 0 prio (.ip d))] }).solicit p h

/-- A neighbour's MAC address becomes known: what waits for it goes out, in order. -/
def State.learn (s : State) (p ip mac : Nat) : State :=
  let x := s.eth p
  let go := x.waiting.filter fun (w : Nat × TxFrame) => decide (w.1 = ip)
  let s := s.setEth p { x with
    neigh := SMap.set 0 x.neigh ip mac
    waiting := x.waiting.filter fun (w : Nat × TxFrame) => decide (w.1 ≠ ip) }
  go.foldl (fun (s : State) w => s.transmit { w.2 with dst := mac }) s

/-- Transmission on a priority goes on: what it kept goes out, in order. -/
def State.resumeTx (s : State) (p prio : Nat) : State :=
  let x := s.eth p
  let go := x.txq.filter fun (f : TxFrame) => decide (f.prio = prio)
  let s := s.setEth p { x with
    paused := x.paused.filter fun (a : Pause) => decide (a.prio ≠ prio)
    txq := x.txq.filter fun (f : TxFrame) => decide (f.prio ≠ prio) }
  go.foldl State.transmit s

/-- The frame is a packet of queue pair number `qpn`'s responder: it is addressed to the remote queue pair of q. -/
def TxFrame.ofQp (f : TxFrame) (q : Qp) : Bool :=
  match f.body with
  | .ip d =>
    match d.load with
    | .roce n _ _ _ _ => decide (n = q.rqpn ∧ d.dst = q.ipHi * 2 ^ 64 + q.ipLo ∧ d.sport = q.sport)
    | _ => false
  | _ => false

/-- A queue pair enters RESET: its packets in flight, received and not yet sent, are discarded (R436). -/
def State.dropQpPackets (s : State) (n : Nat) (q : Qp) : State :=
  let x := s.eth q.port
  let s := s.setEth q.port { x with
    waiting := x.waiting.filter fun (w : Nat × TxFrame) => !w.2.ofQp q
    txq := x.txq.filter fun (f : TxFrame) => !f.ofQp q }
  { s with roceHeld := s.roceHeld.filter fun (p : RocePkt × Bool) => decide (p.1.qp ≠ 0x100 + n) }

end Sys2Proof.Machine
end

