-- ==== Sys2Proof/Machine/Boot.lean ====
section
/-! DEFINITION. Start-up (R507 to R509), images and their slots (R512, R513, R524 to R530), attestation reports (R522, R523)
and the status outputs (R552). An image kind is numbered from 0 here: HUB, WARD, OPTIC. -/
namespace Sys2Proof.Machine

/-! ### Images (R512, R513) -/

def imageHead (bs : List Byte) : Nat := ofBytes (bs.take 256)
def headKind (h : Nat) : Nat := bits h 39 32
def headBody (h : Nat) : Nat := bits h 95 64
def headVersion (h : Nat) : Nat := bits h 127 96
def headEpoch (h : Nat) : Nat := bits h 143 128
def headSvn (h : Nat) : Nat := bits h 255 240
/-- Interface epochs of kind k that the image accepts. -/
def headAcc (h k : Nat) : Nat × Nat := (bits h (159 + 32 * k) (144 + 32 * k), bits h (175 + 32 * k) (160 + 32 * k))

/-- Bytes of a slot of kind k (R511). -/
def slotSize (k : Nat) : Nat := if k = 0 then 12 * 2 ^ 20 else if k = 1 then 8 * 2 ^ 20 else 4 * 2 ^ 20

/-- Assumption 9 (DESIGN CHOICE). -/
def Flash.image (f : Flash) (k n : Nat) : List Byte := SMap.get [] f.images (2 * k + n)
def Flash.setImage (f : Flash) (k n : Nat) (bs : List Byte) : Flash :=
  { f with images := SMap.set [] f.images (2 * k + n) bs }
/-- Assumption 9 (DESIGN CHOICE). -/
def Flash.slot (f : Flash) (k : Nat) : SlotRec := SMap.get {} f.slots k
def Flash.setSlot (f : Flash) (k : Nat) (r : SlotRec) : Flash := { f with slots := SMap.set {} f.slots k r }

/-- The slot of a kind that is not active. -/
def SlotRec.other (r : SlotRec) : Nat := 1 - r.active
def SlotRec.rejected (r : SlotRec) (n : Nat) : Bool := if n = 0 then r.rejA else r.rejB
def SlotRec.setRej (r : SlotRec) (n : Nat) (b : Bool) : SlotRec := if n = 0 then { r with rejA := b } else { r with rejB := b }

/-- Why an image of kind k does not verify: 8 for format, signature or hash, 10 for its security version (R513, R533). -/
def State.imageFault (s : State) (k : Nat) (bs : List Byte) : Option Nat :=
  let h := imageHead bs
  let n := 256 + headBody h
  let key := (bs.drop 64).take 64
  if bs.length < n ∨ n > slotSize k ∨ bits h 31 0 ≠ 0x4D494854 ∨ bits h 47 40 ≠ 1 ∨ headKind h ≠ k + 1 ∨ bits h 63 48 ≠ 0 ∨
      bits h 1535 1024 ≠ 0 ∨ headAcc h k ≠ (0, 0) then some 8
  else if ofBytesBE (sm3 key) ≠ s.fuses.rootHash ∨ sm3 ((bs.drop 256).take (headBody h)) ≠ (bs.drop 32).take 32 then some 8
  else
    match ptOf key with
    | none => some 8
    | some p =>
      if sm2Verify (sm2Z (ascii "THRUMOND-IMAGE") p) (bs.take 192) p (ofBytesBE ((bs.drop 192).take 32))
          (ofBytesBE ((bs.drop 224).take 32)) = false then some 8
      else if headSvn h < s.fuses.svn then some 10
      else none

/-- Verify an image, counting a failure. -/
def State.verify (s : State) (k : Nat) (bs : List Byte) : State × Option Nat :=
  match s.imageFault k bs with
  | none => (s, none)
  | some e => (s.incO Obj.SEC_SIG_FAILS, some e)

/-- Each image's interface epoch lies in the range that each of the other two accepts. -/
def compatible (hs : List Nat) : Bool :=
  [0, 1, 2].all fun a => [0, 1, 2].all fun b =>
    decide (a = b) ||
      decide ((headAcc (hs.getD a 0) b).1 ≤ headEpoch (hs.getD b 0) ∧ headEpoch (hs.getD b 0) ≤ (headAcc (hs.getD a 0) b).2)

/-- SM3 over header and body (R513). -/
def measure (bs : List Byte) : List Byte := sm3 (bs.take (256 + headBody (imageHead bs)))

/-! ### Choosing the images (R526, R530) -/

/-- The image of a slot may be booted. -/
def State.slotGood (s : State) (k n : Nat) : Bool :=
  decide (s.imageFault k (s.flash.image k n) = none) && !(s.flash.slot k).rejected n

/-- The slot of kind k that its own state leads to. -/
def State.slotWanted (s : State) (k : Nat) : Nat :=
  let r := s.flash.slot k
  if r.st ≠ 2 ∧ s.imageFault k (s.flash.image k r.active) = none then r.active else r.other

/-- The chosen slots, or none where stage 4 fails. A PENDING image that does not fit the others falls back.
Assumption 86 (DEDUCED). -/
def State.chooseSlots (s : State) : Option (List Nat) :=
  let heads := fun (c : List Nat) => c.zipIdx.map fun (p : Nat × Nat) => imageHead (s.flash.image p.2 p.1)
  let c := [0, 1, 2].map s.slotWanted
  let c := if compatible (heads c) then c
    else [0, 1, 2].map fun k => if (s.flash.slot k).st = 1 then (s.flash.slot k).other else c.getD k 0
  let good := [0, 1, 2].all fun k =>
    if c.getD k 0 = (s.flash.slot k).active then decide (s.imageFault k (s.flash.image k (c.getD k 0)) = none)
    else s.slotGood k (c.getD k 0)
  if good && compatible (heads c) then some c else none

/-- FW_ACTIVE_SLOT and FW_ACTIVE_STATE follow the slot record. -/
def State.showActive (s : State) (k : Nat) : State :=
  (s.setO Obj.FW_ACTIVE_SLOT (s.flash.slot k).active k).setO Obj.FW_ACTIVE_STATE (s.flash.slot k).st k

/-- What the firmware objects say of a slot, with a failed verification counted. Assumption 86 (DEDUCED). -/
def State.showSlot (s : State) (k n : Nat) : State :=
  let bs := s.flash.image k n
  let h := imageHead bs
  let (s, e) := if bs = [] then (s, none) else s.verify k bs
  let st := if bs = [] then 0 else if (s.flash.slot k).rejected n then 3 else if e = none then 1 else 2
  if n = 0 then ((s.setO Obj.FW_VERSION_A (headVersion h) k).setO Obj.FW_EPOCH_A (headEpoch h) k).setO Obj.FW_SLOT_A_STATE st k
  else ((s.setO Obj.FW_VERSION_B (headVersion h) k).setO Obj.FW_EPOCH_B (headEpoch h) k).setO Obj.FW_SLOT_B_STATE st k

/-- Kind k starts from slot n: the record is written before the image starts. -/
def State.startImage (s : State) (k n : Nat) : State :=
  let r := s.flash.slot k
  if n ≠ r.active then
    let old := headVersion (imageHead (s.flash.image k r.active))
    let s := { s with flash := s.flash.setSlot k ({ r with active := n, st := 0 }.setRej r.active true) }
    (s.incO Obj.FW_FALLBACKS).post { reason := 0x0A06, d0 := k + 1, d1 := old }
  else if r.st = 1 then
    ({ s with flash := s.flash.setSlot k { r with st := 2 } }).setO Obj.FW_TRIAL_REMAIN_MS 30000 k
  else s

/-- Stage 4: none where it fails. Assumption 86 (DEDUCED). -/
def State.stage4 (s : State) : State × Bool :=
  let shown := fun (s : State) => [0, 1, 2].foldl (fun (s : State) k => ((s.showSlot k 0).showSlot k 1).showActive k) s
  match s.chooseSlots with
  | none => (shown s, false)
  | some c => (shown (c.zipIdx.foldl (fun (s : State) (p : Nat × Nat) => s.startImage p.2 p.1) s), true)

/-! ### Start-up (R507) -/

/-- A stage fails: it is recorded, and the device enters FAULT. -/
def State.bootFail (s : State) (stage : Nat) (r : Rec) : State := (s.setO Obj.BOOT_FAIL_STAGE stage).post r

def State.bootNext (s : State) : State := s.incO Obj.BOOT_STAGE

/-- Field ports are enabled and trained. -/
def State.trainPorts (s : State) : State :=
  (List.range 8).foldl (fun (s : State) p => (s.lasers p).portTrain p) (s.startPlls opticPlls).takeLink

/-- No enabled port is still on its way to UP or FAULT. Assumption 86 (DEDUCED). -/
def State.portsSettled (s : State) : Bool :=
  (List.range 8).all fun p => decide (s.portState p ≠ pTRAIN ∧ s.portState p ≠ pCHECK)

/-- Start-up began at POR, not at WARM. -/
def State.coldStart (s : State) : Bool := decide (s.getO Obj.RESET_CAUSE = 1)

/-- Stage 6 ends: every channel trains, or `ch` is the lowest that fails. -/
def State.trainMemory (s : State) (ok : Bool) (ch : Nat) : State :=
  if ok then
    let s := { s with memLost := false }
    ((s.setO Obj.MEM_TRAIN_STATE 2).setO Obj.MEM_RATE_ACTIVE s.memRate).bootNext.trainPorts
  else
    let s := if s.coldStart then s
      else { s.setO Obj.WARM_MEM_KEPT 0 with
             mem := s.mem.filter fun (c : Host.Cell) => decide (lpEnd ≤ c.1)
             chk := s.chk.filter fun (p : Nat × Nat) => decide (lpEnd ≤ 16 * p.1) }
    ((s.setO Obj.MEM_TRAIN_STATE 3).setO Obj.MEM_TRAIN_FAIL_CHANNEL (ch % 128)).bootFail 6 { reason := 0x0206, d0 := ch % 128 }

/-- BOOT_STAGE_COMPLETE: the stage in progress ends. `ok` says that the fuses passed their checks (stage 1), that the flash
is as the manual requires (stage 2) or that every channel trained (stage 6); `detail` is the lowest channel that failed,
or the ms for which ports have trained (stage 7). Assumptions 83 (DEDUCED), 86 (DEDUCED). -/
def execBootStageComplete (ok : Bool) (detail : Nat) (s : State) : Out :=
  let st := s.getO Obj.BOOT_STAGE
  let fail := fun (s : State) => s.bootFail st { reason := 0x0A01, d0 := st }
  if s.pins.pwrok = false ∨ s.pins.tripped ∨ s.dev = stFAULT then .next s
  else match st with
    | 1 =>
      let s := s.setO Obj.DEVICE_STATE stFUSED
      .next (if ok then ((s.setO Obj.REFCLK_PRESENT 1).startPlls diePlls).bootNext else fail s)
    | 2 => .next (if ok ∧ s.flash.recordOk then s.bootNext else fail s)
    | 3 => .next s.bootNext
    | 4 => .next (match s.stage4 with
      | (s, true) => s.bootNext
      | (s, false) => fail s)
    | 5 =>
      let s := s.loadStore.provision
      let s := ({ s with
        udpPort := s.getO Obj.YDP_UDP_PORT
        memRate := if s.coldStart then s.getO Obj.MEM_RATE else s.memRate }).setDev stCONFIGURED
      let s := (s.ethTrain 0).ethTrain 1
      .next ((s.setO Obj.MEM_TRAIN_STATE 1).startPlls memPlls).bootNext
    | 6 => .next (s.trainMemory ok detail)
    | 7 => .next (if s.portsSettled ∨ detail ≥ s.getO Obj.LINK_TRAIN_TIMEOUT_MS then s.bootNext else s)
    | 8 => .next ((s.bootNext.setDev stREADY).setO Obj.DEVICE_STARTUP_MS (s.getO Obj.DEVICE_UPTIME_MS % 2 ^ 32))
    | _ => .next s

/-! ### Staging, activation and trial (R527 to R530) -/

/-- An update is being written or verified. -/
def State.updating (s : State) : Bool := decide (s.getO Obj.FW_UPDATE_STATUS = 1 ∨ s.getO Obj.FW_UPDATE_STATUS = 2)

/-- The first failing condition of R527: STATUS and FW_UPDATE_STATUS. -/
def State.fwRefusal (s : State) : Option (Nat × Nat) :=
  if s.readyOrStopped = false then some (3, 4)
  else if s.getO Obj.SUPPLY_WARN_ACTIVE ≠ 0 ∨ s.getO Obj.POWER_LIMIT_W < s.getO Obj.POWER_BOOT_REQ_W then some (3, 5)
  else if s.getO Obj.OWNER_UPDATE_INHIBIT = 1 then some (3, 6)
  else if s.updating ∨ ([0, 1, 2].any fun k => decide ((s.flash.slot k).st ≠ 0)) then some (8, 7)
  else none

/-- FW_UPDATE_STATUS of a refusal, which does not hide an update in progress. -/
def State.fwCode (s : State) (c : Nat) : State := if s.updating then s else s.setO Obj.FW_UPDATE_STATUS c

/-- An image of kind k is accepted: the slot that is not active is erased and its REJECTED bit cleared. -/
def State.fwBegin (s : State) (k : Nat) (bs : List Byte) : State :=
  let r := s.flash.slot k
  let s := { s with
    flash := (s.flash.setSlot k (r.setRej r.other false)).setImage k r.other []
    fwStage := some (k, bs) }
  (s.setO Obj.FW_UPDATE_STATUS 1).showSlot k r.other

/-- FW_STAGE_COMPLETE: the slot has been written, and then the read-back verified. -/
def execFwStageComplete (flashOk : Bool) (s : State) : Out :=
  match s.fwStage with
  | none => .next s
  | some (k, bs) =>
    let n := (s.flash.slot k).other
    if flashOk = false then
      let s := { s with fwStage := none, flash := s.flash.setImage k n [] }
      .next ((s.showSlot k n).setO Obj.FW_UPDATE_STATUS 11)
    else if s.getO Obj.FW_UPDATE_STATUS = 1 then
      .next ({ s with flash := s.flash.setImage k n bs }.setO Obj.FW_UPDATE_STATUS 2)
    else
      let e := s.imageFault k (s.flash.image k n)
      let s := { s with
        fwStage := none
        blob := SMap.set [] s.blob Obj.FW_UPDATE_IMAGE.key (bs.take 256) }
      let s := (s.showSlot k n).setO Obj.FW_UPDATE_KIND (k + 1)
      .next (s.setO Obj.FW_UPDATE_STATUS (e.getD 3))

/-- FW_ACTIVATE of kind k: the state and STATUS (R529). -/
def State.fwActivate (s : State) (k : Nat) : State × Nat :=
  match s.fwRefusal with
  | some (st, c) => (s.fwCode c, st)
  | none =>
    let r := s.flash.slot k
    match s.verify k (s.flash.image k r.other) with
    | (s, some e) => (s.fwCode e, 5)
    | (s, none) =>
      let heads := [0, 1, 2].map fun j =>
        imageHead (s.flash.image j (if j = k then r.other else (s.flash.slot j).active))
      if compatible heads = false then (s.fwCode 9, 5)
      else if r.rejected r.other then (s.fwCode 13, 5)
      else
        let s := { s with flash := s.flash.setSlot k { r with active := r.other, st := 1 }, resetAsked := some (1, 0) }
        ((s.showActive k).setO Obj.FW_UPDATE_STATUS 12, 0)

/-- FW_SVN_ADVANCE (R528): the fuse minimum rises to the lowest security version that runs. Assumption 87 (DEDUCED). -/
def State.fwAdvance (s : State) : State × Nat :=
  if ([0, 1, 2].any fun k => decide ((s.flash.slot k).st ≠ 0)) then (s, 3)
  else
    let v := ([0, 1, 2].map fun k => headSvn (imageHead (s.flash.image k (s.flash.slot k).active))).foldl min 64
    ({ s with fuses := { s.fuses with svn := max s.fuses.svn v } }, 0)

/-- FW_SELF_CONFIRM: kind 1 to 3 confirms within its trial. -/
def execFwSelfConfirm (kind : Nat) (s : State) : Out :=
  if kind = 0 ∨ kind > 3 then .fault .noSuchUnit
  else
    let k := kind - 1
    if s.getO Obj.FW_ACTIVE_STATE k ≠ 2 then .next s
    else
      let s := { s with flash := s.flash.setSlot k { s.flash.slot k with st := 0 } }
      let s := (s.setO Obj.FW_SELF_CONFIRM 1 k).setO Obj.FW_TRIAL_REMAIN_MS 0 k
      .next (s.showActive k)

/-- FW_TRIAL_EXPIRED: 30 s have passed without confirmation. -/
def execFwTrialExpired (kind : Nat) (s : State) : Out :=
  if kind = 0 ∨ kind > 3 then .fault .noSuchUnit
  else
    let k := kind - 1
    if s.getO Obj.FW_ACTIVE_STATE k ≠ 2 ∨ s.getO Obj.FW_TRIAL_REMAIN_MS k ≠ 0 then .next s
    else .next ((s.setO Obj.FW_ACTIVE_STATE 3 k).post { reason := 0x0A05, d0 := kind })

/-! ### Attestation (R522, R523) -/

/-- Measurement of the store: SM3 over the copy in force (R518). -/
def State.storeMeasure (s : State) : List Byte :=
  match s.storeSlot with
  | some n => sm3 (s.flash.copy n)
  | none => List.replicate 32 0

/-- Bytes 0 to 255 of a report with a nonce. -/
def State.reportBody (s : State) (nonce : List Byte) : List Byte :=
  let img := fun k => s.flash.image k (s.getO Obj.FW_ACTIVE_SLOT k)
  let slots := [0, 1, 2].foldl (fun a k => a + 2 ^ k * s.getO Obj.FW_ACTIVE_SLOT k +
    2 ^ (3 + k) * b2n (decide (s.getO Obj.FW_ACTIVE_STATE k ≠ 0))) 0
  leBytes 4 0x52414854 ++ leBytes 2 1 ++ leBytes 1 s.dev ++
    leBytes 1 (b2n s.fuses.debugLock + 2 * s.getO Obj.STORE_DIRTY) ++ leBytes 8 s.fuses.serial ++
    leBytes 8 (s.getO Obj.DEVICE_UPTIME_MS) ++ leBytes 4 (s.getO Obj.STORE_GENERATION) ++ leBytes 4 0 ++ nonce ++
    measure (img 0) ++ measure (img 1) ++ measure (img 2) ++ s.storeMeasure ++
    leBytes 4 (headVersion (imageHead (img 0))) ++ leBytes 4 (headVersion (imageHead (img 1))) ++
    leBytes 4 (headVersion (imageHead (img 2))) ++ leBytes 2 s.fuses.svn ++ leBytes 2 slots ++ List.replicate 48 0

def selBlobKey (rq : Nat) (o : ObjDef) : Nat := rq * 2 ^ 24 + o.key
def State.getSelBlob (s : State) (rq : Nat) (o : ObjDef) : List Byte := SMap.get [] s.selBlob (selBlobKey rq o)
def State.setSelBlob (s : State) (rq : Nat) (o : ObjDef) (bs : List Byte) : State :=
  { s with selBlob := SMap.set [] s.selBlob (selBlobKey rq o) bs }

/-- A nonce of requester rq starts a report. -/
def State.askReport (s : State) (rq : Nat) (nonce : List Byte) : State :=
  let s := s.setSelBlob rq Obj.ATTEST_NONCE nonce
  if s.attestRun.contains rq then s else { s with attestRun := rq :: s.attestRun }

/-- ATTEST_REPORT_BUILT: the report of session slot 0 to 15 or steward 16 to 19 is built and signed. -/
def execAttestReportBuilt (slot : Nat) (s : State) : Out :=
  if slot ≥ 20 then .fault .noSuchUnit
  else if s.attestRun.contains slot = false then .next s
  else
    let body := s.reportBody (s.getSelBlob slot Obj.ATTEST_NONCE)
    let (r, q) := sm2Sign (sm2Z s.idString s.idPub) body s.idKey 4 (16 * s.freeCtr)
    let s := { s.drew with attestRun := s.attestRun.filter fun (x : Nat) => decide (x ≠ slot) }
    .next ((s.setSelBlob slot Obj.ATTEST_REPORT (body ++ beBytes 32 r ++ beBytes 32 q)).incO Obj.ATTEST_COUNT)

/-! ### Status outputs (R552) -/

/-- FAULT_N is high. -/
def State.faultN (s : State) : Bool := decide (s.dev ≠ stFAULT)

/-- The code on STAT3 to STAT0. -/
def State.stat (s : State) : Nat :=
  let b := s.getO Obj.BOOT_STAGE
  if s.pins.pwrok = false ∨ s.pins.tripped then 0
  else if b < 9 then b
  else if s.dev = stFAULT then 0xE
  else if s.dev = stFALLOW ∨ s.getO Obj.LP_STATE = 1 then 0xA
  else 9

end Sys2Proof.Machine
end

