-- ==== Sys2Proof/Machine/DictWrite.lean ====
section
/-! DEFINITION. Writes and reads of the dictionary: the order of the checks (R462, R463, R566), what each object does when it
is written, the owner lock (R469 to R472), store commands (R473 to R475) and the close of a session (R451). -/
namespace Sys2Proof.Machine

/-! ### The owner lock and sessions (R451, R470) -/

def State.lockHolder (s : State) : Nat := s.getO Obj.OWNER_LOCK_HOLDER
def noHolder : Nat := 0xFF

def State.releaseLock (s : State) : State :=
  ((s.setO Obj.OWNER_LOCK_HOLDER noHolder).setO Obj.OWNER_LOCK_KEY_SLOT 0xFF).setO Obj.OWNER_LOCK_SINCE_MS 0

/-- OWNER_LOCK_TAKE by a session: a refusal counts; the first grant after start-up makes the device STOPPED. -/
def State.takeLock (s : State) (rq : Nat) : State × Nat :=
  let k := (s.session rq).keySlot
  if rq ≥ 16 ∨ bit (s.getO Obj.OWNER_KEY_MASK) k = false then (s.incO Obj.OWNER_LOCK_REFUSALS, 2)
  else if s.lockHolder = rq then (s, 0)
  else if s.lockHolder ≠ noHolder then (s.incO Obj.OWNER_LOCK_REFUSALS, 8)
  else
    let s := ((s.setO Obj.OWNER_LOCK_HOLDER rq).setO Obj.OWNER_LOCK_KEY_SLOT k).setO Obj.OWNER_LOCK_SINCE_MS
      (s.getO Obj.DEVICE_UPTIME_MS)
    let s := s.incO Obj.OWNER_LOCK_GRANTS
    (if s.dev = stREADY then s.setDev stSTOPPED else s, 0)

def State.giveLock (s : State) (rq : Nat) : State × Nat := if s.lockHolder = rq then (s.releaseLock, 0) else (s, 2)

/-- A session closes: its semaphores are orphaned, its lock is free, and its copies and segmented write are gone. -/
def State.closeSession (s : State) (n : Nat) : State :=
  let x := s.session n
  if x.st = 0 then s
  else
    let s := if s.lockHolder = n then s.releaseLock else s
    let s := (s.loseOwner (8192 + n)).dropCopies n
    { s with attestRun := s.attestRun.filter fun (r : Nat) => decide (r ≠ n) }.setSession n { gen := x.gen }

/-! ### What a write of an object does -/

/-- Banks whose entries no longer lie within an epoch are invalid (R339). Assumption 45 (DEDUCED). -/
def State.rejudgeBanks (s : State) : State :=
  let eb := s.getO Obj.EPOCH_BEATS
  let fix := fun (b : Bank) => if b.entries.any fun e => decide (entBeat e ≥ eb) then { entries := [], valid := false, stale := true } else b
  { s with tables := s.tables.map fun (p : Nat × Table) => (p.1, { p.2 with bank0 := fix p.2.bank0, bank1 := fix p.2.bank1 }) }

/-- The probe of the winnow generator recomputes its block (R68). -/
def State.probeWinnow (s : State) (rq : Nat) : State :=
  let g := s.getSel rq
  let q := winnowBlock (g Obj.WINNOW_PROBE_SEED) (g Obj.WINNOW_PROBE_STEP) (g Obj.WINNOW_PROBE_TID) (g Obj.WINNOW_PROBE_PURPOSE)
    (g Obj.WINNOW_PROBE_INDEX) (g Obj.WINNOW_PROBE_DRAW)
  ((s.setSel rq Obj.WINNOW_PROBE_BLOCK_LO (q.a + q.b * 2 ^ 32)).setSel rq Obj.WINNOW_PROBE_BLOCK_HI (q.c + q.d * 2 ^ 32)).setSel rq
    Obj.WINNOW_PROBE_DRAW_VALUE (bits q.a 31 16)

/-- The probe of the shuffle (R275). -/
def State.probeShuffle (s : State) (rq : Nat) : State :=
  let g := s.getSel rq
  let r := shuffle (g Obj.SHUF_PROBE_SAMPLES) (g Obj.SHUF_PROBE_SEED) (g Obj.SHUF_PROBE_EPOCH) (g Obj.SHUF_PROBE_POS)
  (s.setSel rq Obj.SHUF_PROBE_SAMPLE r.1).setSel rq Obj.SHUF_PROBE_WALK r.2

/-- The device state admits a software reset of this kind (R497). -/
def State.resetAdmits (s : State) (k : Nat) : Bool :=
  let d := s.dev
  let idle := decide (d = stREADY ∨ d = stSTOPPED)
  match k with
  | 0 => true
  | 1 => decide (d ≠ stOFF)
  | 2 => idle || decide (d = stFAULT)
  | 3 => idle || decide (d = stRUNNING ∨ d = stFAULT)
  | 4 => idle || decide (d = stFAULT)
  | _ => idle

/-- RESET_GO (R497, R506), in a state that admits it. Assumption 72 (DEDUCED). -/
def State.resetGo (s : State) : State × Nat :=
  let k := s.getO Obj.RESET_KIND
  let t := s.getO Obj.RESET_TARGET
  let inRange := match k with
    | 2 => decide (t < 2)
    | 3 => decide (t < 800)
    | 4 => decide (t < 8)
    | _ => decide (t = 0)
  if k = 0 then (s, 5)
  else if inRange = false then (s.setO Obj.RESET_STATUS 4, 5)
  else if k ≠ 1 ∧ (s.resetAsked.isSome ∨ s.resetRun.isSome) then (s, 8)
  else ({ s with resetAsked := some (k, t) }.setO Obj.RESET_STATUS 1, 0)

/-- SEM_ACT_GO, by its value. Assumption 72 (DEDUCED). -/
def State.semAct (s : State) (rq v : Nat) : State × Nat :=
  let q := s.getSel rq Obj.SEM_SEL_NUMBER
  let n := s.getO Obj.SEM_ACT_COUNT
  let s := if v = 1 then s.semActSet q n else s.semRecover q n
  let r := s.getO Obj.SEM_ACT_STATUS
  (s, if r = 0 then 0 else if r = 1 then 3 else 5)

/-- HOST_SEM_OP, by its value (R342, R346): a misuse receives an error status. Assumption 36 (DEDUCED). -/
def State.hostSem (s : State) (rq v : Nat) : State × Nat :=
  let q := s.getSel rq Obj.HOST_SEM_NUMBER
  let n := s.getSel rq Obj.HOST_SEM_ARG
  let who := if rq < 16 then SemWho.host rq else SemWho.steward (rq - 16)
  let (s, r) := match v with
    | 1 => s.semSignalOp q n who
    | 2 => s.semTryOp q n who
    | 3 => s.semLockTry q who
    | _ => s.semUnlockOp q who
  match r with
  | .misuse => (s, 5)
  | .granted => (s.setSel rq Obj.HOST_SEM_RESULT 0, 0)
  | .orphan => (s.setSel rq Obj.HOST_SEM_RESULT 1, 0)
  | _ => (s.setSel rq Obj.HOST_SEM_RESULT 2, 0)

/-- Some bank is invalid by R339. -/
def State.bankInvalid (s : State) : Bool := s.tables.any fun (p : Nat × Table) => p.2.bank0.stale || p.2.bank1.stale

/-- SCHED_START (R311). -/
def State.askStart (s : State) (e0 : Nat) : State × Nat :=
  if s.isMaster = false ∨ s.readyOrStopped = false ∨ s.alm.start.isSome ∨ s.locked = false ∨
      s.getO Obj.ALMANAC_SKEW_BOUND_NS ≥ s.getO Obj.ALMANAC_BEAT_NS ∨ s.bankInvalid ∨ s.updating then (s, 3)
  else (s.schedStart e0, 0)

/-- FURROW_LOAD_GO, by its value (R320, R479). -/
def State.loadGo (s : State) (v : Nat) : State × Nat :=
  let t := s.getO Obj.FURROW_LOAD_TABLE
  if v = 2 then
    let s := s.furrowCancel
    (s, if s.getO Obj.FURROW_LOAD_STATUS = 10 then 0 else 5)
  else if t < 800 ∧ s.getO Obj.CORE_EXCLUDE t = 1 then (s.loadStatus 8, 5)
  else if s.getO Obj.FURROW_LOAD_ENTRIES > tableCap t ∨
      s.getO Obj.FURROW_LOAD_SRC + 16 * s.getO Obj.FURROW_LOAD_ENTRIES > lpEnd then (s, 5)
  else
    let s := s.furrowLoad
    (s, if s.getO Obj.FURROW_LOAD_STATUS = 1 then 0 else if s.getO Obj.FURROW_LOAD_STATUS = 7 then 8 else 5)

/-- CRIB_POOL_INIT, by its value (R203). -/
def State.cribGo (s : State) (v : Nat) : State × Nat :=
  let p := s.getO Obj.CRIB_POOL_PAGES
  if v = 1 then
    if s.getO Obj.CRIB_POOL_STATE ≠ 0 ∨ p = 0 then (s, 5)
    else
      let table := List.replicate (4 * p) 0 ++ (List.range p).flatMap fun k => leBytes 4 (p - 1 - k)
      let s := { (s.writeMem (s.getO Obj.CRIB_META_BASE) table).1 with ringHead := 0, fences := [] }
      let s := ((s.setO Obj.CRIB_PAGES_FREE p).setO Obj.CRIB_PAGES_FREE_MIN p).setO Obj.CRIB_PAGES_PENDING 0
      ((s.setO Obj.CRIB_NEXT_FENCE 0).setO Obj.CRIB_POOL_STATE 1, 0)
  else if s.fences ≠ [] then (s, 5)
  else (s.setO Obj.CRIB_POOL_STATE 0, 0)

/-- PTP_STATE is off where the association is (R337). -/
def State.ptpOff (s : State) : State := if s.getO Obj.PTP_ASSOC_EN = 0 then s.setO Obj.PTP_STATE 0 else s

/-- What changes of class C values bring about when several are set at once. -/
def State.followUp (s old : State) : State :=
  let s := (List.range 8).foldl (fun (s : State) p =>
    if s.getO Obj.PORT_ENABLE p = old.getO Obj.PORT_ENABLE p then s else s.portEnabled p) s
  let s := [0, 1].foldl (fun (s : State) p =>
    if s.getO Obj.ETH_MODE p = old.getO Obj.ETH_MODE p then s else s.ethTrain p) s
  s.serveLeave.ptpOff

/-- DEFAULTS leaves these objects alone (R473). -/
def keptByDefaults (o : ObjDef) : Bool :=
  decide (0x1100 ≤ o.index ∧ o.index ≤ 0x11FF) || decide (0x4300 ≤ o.index ∧ o.index ≤ 0x43FF) ||
    decide (o = Obj.OWNER_KEY_MASK)

/-- STORE_CMD, by its value (R473 to R475). Assumption 72 (DEDUCED). -/
def State.storeCmd (s : State) (v : Nat) : State × Nat :=
  if s.getO Obj.STORE_STATUS = 1 then (s, 8)
  else if v = 1 then (s.beginStore, 0)
  else if v = 2 then
    if s.storeSlot = none then (s.setO Obj.STORE_STATUS 4, 5)
    else
      let (t, failed) := s.loadC s.storedC true
      (((t.skipped failed).followUp s).redirty.setO Obj.STORE_STATUS 2, 0)
  else
    let t := classC.foldl (fun (t : State) (c : ObjDef × Nat × Nat) =>
      if keptByDefaults c.1 then t else t.setO c.1 c.1.dflt c.2.1 c.2.2) s
    ((t.followUp s).redirty.setO Obj.STORE_STATUS 2, 0)

/-- Clear the bits of a mask in a flag word of any width. -/
def State.clearMask (s : State) (o : ObjDef) (m : Nat) : State :=
  let f := s.getO o
  s.setO o (f ^^^ (f &&& m))

/-- A write of a selector or probe input. -/
def State.writeSel (s : State) (rq : Nat) (o : ObjDef) (v : Nat) : State :=
  let s := s.setSel rq o v
  if o.index = 0x5012 then s.probeWinnow rq
  else if o = Obj.SHUF_PROBE_POS then s.probeShuffle rq
  else s

/-- A plain value, with what follows at once from it. -/
def State.writeValue (s : State) (o : ObjDef) (i j v : Nat) : State :=
  let old := s
  let s := s.setO o v i j
  let s := if o = Obj.PORT_ENABLE then (if old.getO o i = v then s else s.portEnabled i) else s
  let s := if o = Obj.ETH_MODE then (if old.getO o i = v then s else s.ethTrain i) else s
  let s := if o = Obj.EPOCH_BEATS then s.rejudgeBanks else s
  let s := if o = Obj.PTP_ASSOC_EN then s.ptpOff else s
  let s := if 0x2000 ≤ o.index ∧ o.index ≤ 0x202F then s.serveLeave else s
  if o.per = .c then s.redirty else s

/-- Effects of the flag-clearing objects. -/
def State.clearFlags (s : State) (o : ObjDef) (i v : Nat) : Option State :=
  if o = Obj.NUMERIC_FLAGS_CLEAR then
    some ((List.range coreCount).foldl (fun (s : State) n => s.clearBits Obj.CORE_NUMERIC_FLAGS v n) s)
  else if o = Obj.CORE_FLAGS_CLEAR then some (s.clearBits Obj.CORE_NUMERIC_FLAGS v i)
  else if o = Obj.UPDATE_FLAGS_CLEAR then some ((s.clearMask Obj.UPDATE_FLAGS_CD0 v).clearMask Obj.UPDATE_FLAGS_CD1 v)
  else if o = Obj.REDUCE_FLAGS_CLEAR then some (s.clearMask Obj.REDUCE_FLAGS v)
  else if o = Obj.THRESH_FLAGS_CLEAR then some (s.clearMask Obj.THRESH_FLAGS v)
  else if o = Obj.SUPPLY_WARN_CLEAR then some (s.clearMask Obj.SUPPLY_WARN_FLAGS v)
  else if o = Obj.PLL_LOSS_CLEAR then some (s.clearMask Obj.PLL_LOSS_FLAGS v)
  else none

/-- Effects of the command objects, once checks 1 to 7 have passed: the state and STATUS. -/
def State.command (s : State) (rq : Nat) (o : ObjDef) (i v : Nat) : Option (State × Nat) :=
  if o = Obj.OWNER_LOCK_TAKE then some (if v = 1 then s.takeLock rq else s.giveLock rq)
  else if o = Obj.STORE_CMD then some (s.storeCmd v)
  else if o = Obj.SESSION_SEL_CLOSE then some (s.closeSession (s.getSel rq Obj.SESSION_SEL_SLOT), 0)
  else if o = Obj.RESET_GO then some s.resetGo
  else if o = Obj.LP_REQUEST then some (s.lpRequest v)
  else if o = Obj.CLK_CORE_SRC then none
  else if o = Obj.SEM_ACT_GO then some (s.semAct rq v)
  else if o = Obj.HOST_SEM_OP then some (s.hostSem rq v)
  else if o = Obj.SCHED_START then some (s.askStart v)
  else if o = Obj.SCHED_STOP then some (s.post { reason := 0x0406, d0 := if rq < 16 then rq else 0xFF }, 0)
  else if o = Obj.FURROW_LOAD_GO then some (s.loadGo v)
  else if o = Obj.PORT_RETRAIN then some (s.portRetrain i, 0)
  else if o = Obj.ETH_RESTART then some (s.ethTrain i, 0)
  else if o = Obj.MATRIX_SELFTEST_RUN then
    some (if s.getO Obj.MATRIX_SELFTEST_STATE = 1 then (s, 8) else (s.setO Obj.MATRIX_SELFTEST_STATE 1, 0))
  else if o = Obj.REDUCE_RESIDUE_TEST then
    some (if s.getO Obj.REDUCE_RESIDUE_TEST_STATE = 1 then (s, 8) else (s.setO Obj.REDUCE_RESIDUE_TEST_STATE 1, 0))
  else if o = Obj.CRIB_POOL_INIT then some (s.cribGo v)
  else if o = Obj.FW_ACTIVATE then some (s.fwActivate (v - 1))
  else if o = Obj.FW_SVN_ADVANCE then some s.fwAdvance
  else if o = Obj.ERR_CLEAR then
    some (if v = 1 then
        ((List.range 5).foldl (fun (s : State) j => s.setO Obj.ERR_COUNT 0 0 j) s |>.setO Obj.ERR_FIRST_SEQ 0xFFFFFFFF, 0)
      else ({ s with blob := SMap.erase s.blob Obj.CORE_FAULT_MAP.key }.setO Obj.CORE_FAULT_COUNT 0, 0))
  else (s.clearFlags o i v).map fun t => (t, 0)

/-- The effect of an accepted write, or the STATUS of a refusal that an object's own rules make. -/
def State.applyWrite (s : State) (rq : Nat) (o : ObjDef) (i j v : Nat) : State × Nat :=
  match s.command rq o i v with
  | some r => r
  | none =>
    if o = Obj.CLK_CORE_SRC then
      match s.switchSrc j v with
      | some t => (t, 0)
      | none => (s.incO Obj.CLK_SWITCH_REFUSALS, 5)
    else if o.index = 0x3241 then
      let q := s.getSel rq Obj.QUEUE_SEL_NUMBER
      match s.queueCfg q (o.sub - 1) v with
      | .ok r => (s.setRing q r, 0)
      | .error st => (s, st)
    else if o.index = 0x4321 then
      let n := s.getSel rq Obj.QP_SEL
      match s.qpWrite n o.sub v with
      | some q => ((if q.st = 0 then s.dropQpPackets n (s.qp n) else s).setQp n q, 0)
      | none => (s, 5)
    else if o.index = 0x4331 then
      let n := s.getSel rq Obj.MR_SEL
      match s.mrWrite n o.sub v with
      | some r => (s.setMr n r, 0)
      | none => (s, 5)
    else if selObjs.contains o then (s.writeSel rq o v, 0)
    else (s.writeValue o i j v, 0)

/-! ### The checks (R462) -/

/-- Objects whose write of 0 is no action (R566). -/
def zeroIdle (o : ObjDef) : Bool :=
  [Obj.ERR_CLEAR, Obj.SESSION_SEL_CLOSE, Obj.SEM_ACT_GO, Obj.STORE_CMD, Obj.FW_ACTIVATE, Obj.FW_SVN_ADVANCE].contains o

/-- Objects that only the owner-lock session may write beside those of code RWL (R311, R338).
Assumption 78 (DEDUCED). -/
def needsLock (o : ObjDef) : Bool := decide (o.acc = .rwl) || decide (o = Obj.SCHED_START ∨ o = Obj.SCHED_STOP)

/-- A bound ring is not configured while the device is RUNNING (R365). -/
def State.ringLocked (s : State) (rq : Nat) (o : ObjDef) : Bool :=
  decide (o.index = 0x3241) && s.running && decide ((s.ring (s.getSel rq Obj.QUEUE_SEL_NUMBER)).binding ≠ 0)

/-- Type code and length match the object (check 2 of R462): a STR has 0 to 1,024 bytes, and a BLOB is not written this way
(R460, R461). -/
def ObjDef.typed (o : ObjDef) (t n : Nat) : Bool :=
  decide (o.ty ≠ .blob ∧ t = o.ty.code) && (if o.ty = .str then decide (n ≤ 1024) else decide (n = o.ty.bytes))

/-- STATUS of checks 1 to 4 for a write of type `t`, with the object where they pass: none for a reserved index or
subindex. -/
def writeTarget (own : Bool) (idx sub t : Nat) (val : List Byte) : Except Nat (Option (ObjDef × Nat × Nat)) :=
  if ownedIndex idx = false then .error 1
  else
    match findObj idx sub with
    | none => .ok none
    | some (o, i, j) =>
      if o.typed t val.length = false then .error 6
      else if o.acc = .ro then .error 2
      else if needsLock o ∧ own = false then .error 4
      else .ok (some (o, i, j))

/-- The state rules of FW_ACTIVATE and RESET_GO, whose refusal leaves a code of its own (R497, R529): the state after the
refusal. -/
def State.stateRule (s : State) (o : ObjDef) : Option State :=
  if o = Obj.FW_ACTIVATE then
    match s.fwRefusal with
    | some (3, c) => some (s.fwCode c)
    | _ => none
  else if o = Obj.RESET_GO ∧ s.resetAdmits (s.getO Obj.RESET_KIND) = false then some (s.setO Obj.RESET_STATUS 3)
  else none

/-- A write request: the state after it and its STATUS. `own` says that check 4 passes; `load`, that a steward loads the
configuration store. -/
def State.writeReq (s : State) (rq : Nat) (own load : Bool) (idx sub t : Nat) (val : List Byte) : State × Nat :=
  match writeTarget own idx sub t val with
  | .error st => (s, st)
  | .ok none => (s, if stateRange s.dev idx = false then 3 else if ofBytes val = 0 then 0 else 7)
  | .ok (some (o, i, j)) =>
    let v := ofBytes val
    if v = 0 ∧ zeroIdle o then (s, 0)
    else if s.stateAdmits load o idx = false ∨ s.ringLocked rq o then (s, 3)
    else
      match s.stateRule o with
      | some t => (t, 3)
      | none =>
        if v &&& o.resv ≠ 0 then (s, 7)
        else if s.valueOk rq o i j v = false then (s, 5)
        else s.applyWrite rq o i j v

/-- Value of a STR or BLOB object for a requester; repetition i. -/
def State.blobOf (s : State) (rq : Nat) (o : ObjDef) (i : Nat) : List Byte :=
  if o = Obj.DEVICE_NAME then ascii "HD8-W1600-3T"
  else if o = Obj.VENDOR_NAME then ascii "Thrumond Microsystems"
  else if o = Obj.DEVICE_ID_STRING then s.idString
  else if o = Obj.SEC_ROOT_KEY_HASH then beBytes 32 s.fuses.rootHash
  else if o = Obj.SEC_ID_PUBKEY then ptBytes s.idPub
  else if o = Obj.SEC_VENDOR_CERT then Config.vendorCert.take 2048
  else if o = Obj.ATTEST_NONCE ∨ o = Obj.ATTEST_REPORT then s.getSelBlob rq o
  else if o = Obj.ERR_SEL_RECORD then
    match s.log.find? fun (p : Nat × Nat) => decide (p.1 = s.getSel rq Obj.ERR_SEL_SEQ) with
    | some (_, w) => leBytes 64 w
    | none => []
  else if o = Obj.FIELD_FIRST_RECORD then
    match s.fieldFirst with
    | some w => if s.isMaster then leBytes 64 w else []
    | none => []
  else if o = Obj.CORE_FAULT_MAP then SMap.get (List.replicate 100 0) s.blob o.key
  else SMap.get [] s.blob (o.key i)

/-- A READ: the state after it, STATUS, type code and value. -/
def State.readReq (s : State) (rq idx sub : Nat) : State × Nat × Nat × List Byte :=
  if ownedIndex idx = false then (s, 1, 0, [])
  else
    match findObj idx sub with
    | none => (s, 0, OTy.u8.code, leBytes 1 0)
    | some (o, i, j) =>
      if o.ty = .blob then (s, 6, 0, [])
      else if o.ty = .str then (s, 0, OTy.str.code, (s.blobOf rq o i).take 1024)
      else if o.acc = .wo then (s, 2, 0, [])
      else
        let (t, v) := s.readNum rq o i j
        (t, 0, o.ty.code, leBytes o.ty.bytes v)

/-- RESIDUE_TEST_COMPLETE: `missed` is the first undetected flip as 0x6232 codes it, 0xFFFF where there is none (R264).
Assumption 92 (DESIGN CHOICE). -/
def execResidueTestComplete (missed : Nat) (s : State) : Out :=
  if s.getO Obj.REDUCE_RESIDUE_TEST_STATE ≠ 1 then .next s
  else
    let m := missed % 65536
    let s := s.setO Obj.REDUCE_RESIDUE_TEST_FIRST m
    if m = 0xFFFF then .next (s.setO Obj.REDUCE_RESIDUE_TEST_STATE 2)
    else .next ((s.setO Obj.REDUCE_RESIDUE_TEST_STATE 3).post { reason := 0x0502, d0 := m })

end Sys2Proof.Machine
end

