-- ==== Sys2Proof/Machine/ScalarMem.lean ====
section
/-! DEFINITION. Scalar loads and stores of the control core (R124, R125, R128, R138, R358, R373, R390, R565). -/
namespace Sys2Proof.Machine

/-- What disturbs a flit on the mesh (R390): the bits to exclusive-or into the 16-byte codeword that arrives, after
the routers' correction; none where a codeword is uncorrectable. Assumption 32 (DESIGN CHOICE). -/
def State.meshPass (s : State) (noise dest src : Nat) : State × Option Nat :=
  if noise = 0 then (s, some 0)
  else
    match eccFix noise with
    | some 0 => (s, some (noise % 2 ^ 128))
    | some f => (s.incO Obj.MESH_CE, some ((noise ^^^ f) % 2 ^ 128))
    | none => ((s.incO Obj.MESH_UE).post { reason := 0x0204, d0 := dest, source := src }, none)

/-- The region of a scalar access of `n` bytes, or the fault it meets: the address is judged first. -/
def State.access (s : State) (core a n : Nat) (store : Bool) : Except KCause Region :=
  let r := regionOf a
  let ok := match r with
    | .lp => true
    | .loft c => s.loftOpen core c
    | .bell => true
    | .dict => !store
    | .unmapped => false
  if ok = false then .error .address
  else if a % n ≠ 0 then .error .alignment
  else .ok r

/-- Bytes of a loaded value: the state after the read, and none where it is uncorrectable. -/
def State.loadRaw (s : State) (a n : Nat) (r : Region) : State × Option Nat :=
  match r with
  | .bell => (s, some ((s.doorbellWord (a - bellBase) >>> (8 * (a % 8))) % 2 ^ (8 * n)))
  | .dict =>
    let w := (a - dictBase) / 8
    let (s, v) := s.readWindow rqCore (w / 256) (w % 256)
    (s, some ((v >>> (8 * (a % 8))) % 2 ^ (8 * n)))
  | _ =>
    match s.readMem a n with
    | (s, bs, none) => (s, some (ofBytes bs))
    | (s, _, some _) => (s, none)

/-- Load n bytes, zero-extended. -/
def State.loadN (s : State) (core ctx n : Nat) (i : InsI) (noise : Nat) : Out :=
  s.issue core ctx fun s =>
    let a := iea i (s.ctx core ctx)
    let put := fun (v : Nat) (s : State) =>
      let c := s.ctx core ctx
      s.setCtx core ctx { c.set i.d v with pc := (c.pc + 4) % 2 ^ 64 }
    match s.access core a n false with
    | .error k => s.trap core ctx k (put 0)
    | .ok r =>
      match s.loadRaw a n r with
      | (s, none) => s.trap core ctx .uncorrectable (put 0)
      | (s, some v) =>
        if r = .loft core then put v s
        else
          match s.meshPass noise core core with
          | (s, none) => s.trap core ctx .uncorrectable (put 0)
          | (s, some x) => put (v ^^^ ((x >>> (8 * (a % 16))) % 2 ^ (8 * n))) s

def execLd8 (core ctx : Nat) (i : InsI) (noise : Nat) (s : State) : Out := s.loadN core ctx 1 i noise
def execLd16 (core ctx : Nat) (i : InsI) (noise : Nat) (s : State) : Out := s.loadN core ctx 2 i noise
def execLd32 (core ctx : Nat) (i : InsI) (noise : Nat) (s : State) : Out := s.loadN core ctx 4 i noise
def execLd64 (core ctx : Nat) (i : InsI) (noise : Nat) (s : State) : Out := s.loadN core ctx 8 i noise

/-- A store to a doorbell word. The words are 8 bytes wide (R358); what a narrower store does is open: it does nothing,
or writes a word of which the bytes it does not give are 0. Assumption 34 (DESIGN CHOICE). -/
def State.storeBell (s : State) (off n v : Nat) : State :=
  let put := fun (s : State) => s.doorbell (off / 16) (decide (off % 16 < 8)) (v <<< (8 * (off % 8)))
  if n = 8 then put s
  else if Config.freeBit s.freeCtr then put s.drew else s.drew

/-- Store the low n bytes of S[D]. -/
def State.storeN (s : State) (core ctx n : Nat) (i : InsI) : Out :=
  s.issue core ctx fun s =>
    let c := s.ctx core ctx
    let a := iea i c
    let v := c.get i.d % 2 ^ (8 * n)
    match s.access core a n true with
    | .error k => s.trapNop core ctx k
    | .ok .bell => (s.storeBell (a - bellBase) n v).advance core ctx
    | .ok _ =>
      match s.writeMem a (leBytes n v) with
      | (s, some _) => s.trapNop core ctx .uncorrectable
      | (s, none) => s.advance core ctx

def execSt8 (core ctx : Nat) (i : InsI) (s : State) : Out := s.storeN core ctx 1 i
def execSt16 (core ctx : Nat) (i : InsI) (s : State) : Out := s.storeN core ctx 2 i
def execSt32 (core ctx : Nat) (i : InsI) (s : State) : Out := s.storeN core ctx 4 i
def execSt64 (core ctx : Nat) (i : InsI) (s : State) : Out := s.storeN core ctx 8 i

end Sys2Proof.Machine
end

