-- ==== Sys2Proof/Machine/Dma.lean ====
section
/-! DEFINITION. COPY and FILL of the DMA engines and memory engines (R384 to R389). -/
namespace Sys2Proof.Machine

def dmaPattern (d : Nat) : Nat := bits d 425 394

def dmaRoles (c d : Nat) : List Role :=
  let dst : Role := { at_ := descAt d 426, written := true, fmts := [0, 1, 2] }
  if c = 1 then [{ at_ := descAt d 469, fmts := [0, 1, 2] }, dst] else [dst]

/-- The conditions of R387, in its order: source `t` (COPY), destination `u`. -/
def dmaConds (o : Op) (c : Nat) (t u : TD) : List Bool :=
  let d := o.desc
  let cls := opLeaveClass d
  [ decide (cls ≠ 0 ∧ cls ≠ 2) || decide (cls = 0 ∧ u.elems * u.esz > 65536),
    opStrict d || opSround d || opNoexc d,
    decide (c = 1) && (decide (t.fmt ≠ u.fmt ∨ t.sexp ≠ u.sexp ∨ t.rank ≠ u.rank ∨ t.ext ≠ u.ext) || t.overlaps u ||
      decide (dmaPattern d ≠ 0)),
    decide (c = 2) && (decide (bits d 511 469 ≠ 0) || decide (u.fmt = 0 ∧ dmaPattern d / 65536 ≠ 0)) ]

/-- Source and destination among the tensors read. -/
def dmaPair (c : Nat) (ts : List TD) : TD × TD :=
  if c = 1 then (tensor ts 0, tensor ts 1) else (tensor ts 0, tensor ts 0)

/-- Assumption 24 (DEDUCED). -/
def dmaCheck (c : Nat) (s : State) (o : Op) : State × Chk :=
  if bits o.desc 393 128 ≠ 0 then (s, .refuse ⟨1, false⟩)
  else s.tensorsThen (dmaRoles c o.desc) fun ts => dmaConds o c (dmaPair c ts).1 (dmaPair c ts).2

/-- One element of COPY. `dist` is what the mesh leaves disturbed of codeword `flit` (R390).
Assumption 32 (DESIGN CHOICE). -/
def copyElem (t u : TD) (flit dist : Nat) (ix : List Nat) : Piece :=
  let a := t.addr ix
  ([(a, t.esz)], fun s =>
    let x := if a / 16 = flit then (dist >>> (8 * (a % 16))) % 2 ^ (8 * t.esz) else 0
    { writes := [(u.addr ix, leBytes u.esz (s.el t ix ^^^ x))] })

/-- One element of FILL. -/
def fillElem (d : Nat) (u : TD) (ix : List Nat) : Piece :=
  ([], fun _ => { writes := [(u.addr ix, leBytes u.esz (dmaPattern d))] })

/-- The end of a DMA operation: the bytes that it has written are counted, those of an abandoned one too. -/
def dmaDone (s : State) (id : Nat) (o : Op) (u : TD) (w : Work) (f : Option Nat) : State :=
  match f with
  | none => (s.incO Obj.DMA_BYTES (u.elems * u.esz)).worked id o none
  | some a => (s.incO Obj.DMA_BYTES (w.writes.map fun p => p.2.length).sum).worked id o (some a)

/-- Step 4 of COPY. An uncorrectable flit is handled as an uncorrectable read of its codeword: which elements outside it
have been written is open. Assumption 20 (DESIGN CHOICE). -/
def copyRun (flit noise : Nat) (s : State) (id : Nat) (o : Op) : State :=
  let (t, u) := dmaPair 1 o.got.list
  let read := t.cells.any fun (p : Nat × Nat) => decide (p.1 / 16 = flit)
  let (s, dist) := if read then s.meshPass noise o.unit o.unit else (s, some 0)
  match dist with
  | none =>
    let ps := (indices u.ext).map (copyElem t u flit 0)
    let clear := ps.filter fun p => p.1.all fun (q : Nat × Nat) => decide (q.1 / 16 ≠ flit)
    let (s, w) := s.someOf clear.length clear 0 {}
    dmaDone s id o u w (some (flit * 16))
  | some x =>
    let (s, w, f) := s.runPieces ((indices u.ext).map (copyElem t u flit x))
    dmaDone s id o u w f

/-- Step 4 of FILL. -/
def fillRun (s : State) (id : Nat) (o : Op) : State :=
  let (_, u) := dmaPair 2 o.got.list
  let (s, w, f) := s.runPieces ((indices u.ext).map (fillElem o.desc u))
  dmaDone s id o u w f

/-- COPY (R384, R386). `flit` is a codeword of the source, address ÷ 16, and `noise` what disturbs it on the mesh. -/
def execCopy (op flit noise : Nat) (s : State) : Out := .next (s.runOp 5 1 (dmaCheck 1) (copyRun flit noise) op)

/-- FILL (R384, R386). -/
def execFill (op : Nat) (s : State) : Out := .next (s.runOp 5 2 (dmaCheck 2) fillRun op)

end Sys2Proof.Machine
end

