-- ==== Sys2Proof/Machine/Session.lean ====
section
/-! DEFINITION. YDP: messages, sessions and their key exchange, requests and responses, segmented transfers (R445 to R453),
and the write rows of the table that name one object each. -/
namespace Sys2Proof.Machine

/-! ### Messages (R445, R447, R449) -/

/-- A header (R445). -/
def yHead (flags typ status len session seq : Nat) (magic : Nat := 0x4459) (version : Nat := 1) : List Byte :=
  leBytes 2 magic ++ leBytes 1 flags ++ leBytes 1 version ++ leBytes 1 typ ++ leBytes 1 status ++ leBytes 2 len ++
    leBytes 4 session ++ leBytes 4 seq

def yMac (key msg : List Byte) : List Byte := (hmacSm3 key msg).take 16

/-- The MAC that a request must carry. -/
def Session.macOf (x : Session) (h : YHdr) (typ : Nat) (body : List Byte) : Nat :=
  ofBytes (yMac (x.key.take 16) (yHead h.flags typ h.status body.length h.session h.seq h.magic h.version ++ body))

/-- YDP is served at a port (R451, R466). -/
def State.served (s : State) (eport : Nat) : Bool :=
  decide (eport < 2) && decide (s.getO Obj.ETH_LINK_STATE eport = 2) &&
    decide (stCONFIGURED ≤ s.dev ∧ ¬(s.dev = stFAULT ∧ s.getO Obj.DEVICE_STATE_PRIOR ≤ stFUSED))

/-- Send a YDP message from an address of a host port to a peer, at PCP 0 (R433). -/
def State.ySend (s : State) (eport lip ip uport : Nat) (msg : List Byte) : State :=
  s.sendIp eport 0 { src := lip, dst := ip, sport := s.udpPort, dport := uport, dscp := s.getO Obj.ETH_YDP_DSCP eport, load := .ydp msg }

/-- Slot and generation that a message names. -/
def sessionSlot (h : YHdr) : Nat := h.session % 16

/-- The message comes from the place to which the slot's session, in state `st`, is bound (R450). -/
def State.sessionFits (s : State) (h : YHdr) (st : Nat) : Bool :=
  let x := s.session (sessionSlot h)
  decide (x.st = st ∧ x.gen = h.session / 16 ∧ x.ip = h.ip ∧ x.uport = h.uport ∧ x.eport = h.eport ∧ x.lip = h.net.dstIp)

/-- Answer a request of session x in slot n; the answer is kept while the session lasts. -/
def State.yAnswer (s : State) (x : Session) (n typ status seq : Nat) (body : List Byte) : State :=
  let m := yHead 1 typ status body.length (n + 16 * x.gen) seq ++ body
  let m := m ++ yMac (x.key.drop 16) m
  let s := s.ySend x.eport x.lip x.ip x.uport m
  let y := s.session n
  if y.st = 0 then s else s.setSession n { y with lastResp := m }

/-- A YDP datagram arrives at a port that serves YDP. -/
def State.onYdp (s : State) (h : YHdr) (use : State → Out) : Out :=
  if s.served h.eport = false then .next s else s.onNet h.net s.udpPort use

/-- Accept, answer again or discard a request of an open session (R450); `run` executes it for its slot and gives STATUS
and response body. A message whose header or body does not have the form of its type gets STATUS 10 (R447). -/
def State.serveReq (s : State) (h : YHdr) (typ : Nat) (body : List Byte) (run : State → Nat → State × Nat × List Byte) : Out :=
  s.onYdp h fun s =>
    let n := sessionSlot h
    let x := s.session n
    let typ := h.typ.getD typ
    let body := h.raw.getD body
    if s.sessionFits h 2 = false then .next s
    else if h.mac ≠ x.macOf h typ body then .next (s.incO Obj.SESSION_BAD_MACS)
    else if h.seq = x.lastSeq + 1 ∧ h.seq < 2 ^ 32 then
      let s := s.setSession n { x with lastSeq := h.seq, seenMs := s.getO Obj.DEVICE_UPTIME_MS }
      let (s, st, r) := if h.plain && yBodyOk typ body then run s n else (s, 10, [])
      .next (s.yAnswer x n typ st h.seq r)
    else if h.seq = x.lastSeq then .next (s.ySend x.eport x.lip x.ip x.uport x.lastResp)
    else .next (s.incO Obj.SESSION_SEQ_DISCARDS)

/-- A request of steward n, with STATUS and value. -/
def State.stewardReq (s : State) (n : Nat) (run : State → Nat → State × Nat × Nat) : Out :=
  if n ≥ 4 then .fault .noSuchUnit
  else if s.alive = false then .next s
  else
    let (s, st, v) := run s (16 + n)
    .next (s.emit (.steward n st v))

/-! ### READ and WRITE (R446, R462, R463) -/

/-- The steward may write RWL objects (R463). -/
def State.stewardOwns (s : State) (forOwner : Bool) : Bool := forOwner && decide (s.lockHolder ≠ noHolder ∨ s.dev = stFUSED)

/-- A WRITE from a session or steward. -/
def State.doWrite (s : State) (src : Src) (idx sub t : Nat) (val : List Byte) : Out :=
  match src with
  | .ydp h =>
    s.serveReq h 4 (leBytes 2 idx ++ leBytes 1 sub ++ leBytes 1 t ++ val) fun s n =>
      let (s, st) := s.writeReq n (decide (s.lockHolder = n)) false idx sub t val
      (s, st, [])
  | .steward n f =>
    s.stewardReq n fun s rq =>
      let (s, st) := s.writeReq rq (s.stewardOwns f) f idx sub t val
      (s, st, 0)

/-- READ. -/
def execRead (src : Src) (idx sub : Nat) (s : State) : Out :=
  match src with
  | .ydp h =>
    s.serveReq h 3 (leBytes 2 idx ++ leBytes 1 sub ++ leBytes 1 0) fun s n =>
      let (s, st, t, v) := s.readReq n idx sub
      (s, st, if st = 0 then leBytes 1 t ++ leBytes 3 0 ++ v else [])
  | .steward n _ =>
    s.stewardReq n fun s rq =>
      let (s, st, _, v) := s.readReq rq idx sub
      (s, st, ofBytes v)

/-- WRITE. -/
def execWrite (src : Src) (idx sub t : Nat) (value : List Byte) (s : State) : Out := s.doWrite src idx sub t value

/-! ### Opening and closing sessions (R448 to R451) -/

/-- The lowest FREE slot. Assumption 74 (DEDUCED). -/
def State.freeSlot (s : State) : Option Nat := (List.range 16).find? fun n => decide ((s.session n).st = 0)

/-- The 32 messages of one second (R448). -/
def State.helloRate (s : State) : State × Bool :=
  let t := s.getO Obj.DEVICE_UPTIME_MS / 1000
  let n := if s.helloSec.1 = t then s.helloSec.2 else 0
  if n ≥ 32 then (s.incO Obj.SESSION_HELLO_DROPPED, false) else ({ s with helloSec := (t, n + 1) }, true)

/-- A HELLO is well formed, with R_A on the curve. -/
def helloOk (h : YHdr) (body : List Byte) : Bool :=
  h.plain && decide (h.session = 0) && yBodyOk 1 body && (ptOf ((body.drop 4).take 64)).isSome

/-- An answer to HELLO, which carries no MAC. -/
def State.helloAnswer (s : State) (h : YHdr) (status session : Nat) (body : List Byte) : State :=
  s.ySend h.eport h.net.dstIp h.ip h.uport (yHead 1 (h.typ.getD 1) status body.length session h.seq ++ body)

/-- The key exchange of a HELLO with client key pa (GB/T 32918 part 3): a slot is reserved and answered.
Assumptions 74 (DEDUCED), 75 (DESIGN CHOICE). -/
def State.keyExchange (s : State) (h : YHdr) (body : List Byte) (n k : Nat) (pa ra : Nat × Nat) : State :=
  let r := scalarOf (Config.randomScalar (16 * s.freeCtr))
  let s := s.drew
  match mulG r with
  | none => s
  | some rb =>
    match sharedPoint s.idKey r rb pa ra with
    | none => s
    | some v =>
      let za := sm2Z (body.drop 68) pa
      let zb := sm2Z s.idString s.idPub
      let x : Session := { st := 1, gen := ((s.session n).gen + 1) % 2 ^ 28, keySlot := k, ip := h.ip, uport := h.uport,
                           eport := h.eport, lip := h.net.dstIp, key := kdf (ptBytes v ++ za ++ zb) 32, sa := confirmHash 3 v za zb ra rb,
                           seenMs := s.getO Obj.DEVICE_UPTIME_MS }
      (s.setSession n x).helloAnswer h 0 (n + 16 * x.gen)
        (ptBytes rb ++ confirmHash 2 v za zb ra rb ++ leBytes 1 s.idString.length ++ s.idString)

/-- HELLO. A key slot that is not enabled gets no answer. Assumption 74 (DEDUCED). -/
def execHello (h : YHdr) (body : List Byte) (s : State) : Out :=
  s.onYdp h fun s =>
    match s.helloRate with
    | (s, false) => .next s
    | (s, true) =>
      let k := ofBytes (body.take 1)
      if helloOk h body = false then .next (s.helloAnswer h 10 0 [])
      else if k ≥ 8 ∨ s.getO Obj.CLIENT_KEY_EN k = 0 then .next s
      else
        match ptOf (SMap.get [] s.blob (Obj.CLIENT_KEY.key k)), ptOf ((body.drop 4).take 64), s.freeSlot with
        | some pa, some ra, some n => .next (s.keyExchange h body n k pa ra)
        | some _, some _, none => .next (s.helloAnswer h 8 0 [])
        | _, _, _ => .next s

/-- CONFIRM: S_A with SEQ 1 opens the session. In an open session it is a request that no table lists.
Assumption 74 (DEDUCED). -/
def execConfirm (h : YHdr) (body : List Byte) (s : State) : Out :=
  if s.sessionFits h 1 = false then s.serveReq h 2 body fun s _ => (s, 10, [])
  else s.onYdp h fun s =>
    let n := sessionSlot h
    let x := s.session n
    let typ := h.typ.getD 2
    if h.mac ≠ x.macOf h typ body then .next (s.incO Obj.SESSION_BAD_MACS)
    else if h.seq ≠ 1 then .next (s.incO Obj.SESSION_SEQ_DISCARDS)
    else if (h.plain && yBodyOk typ body) = false then .next (s.yAnswer x n typ 10 1 [])
    else if body ≠ x.sa then .next (s.incO Obj.SESSION_AUTH_FAILS)
    else
      let y := { x with st := 2, lastSeq := 1, seenMs := s.getO Obj.DEVICE_UPTIME_MS }
      .next (((s.dropCopies n).setSession n y).yAnswer y n 2 0 1 [])

/-- HANDSHAKE_TIMEOUT: 2 s have passed since the HELLO. Assumption 3 (DESIGN CHOICE). -/
def execHandshakeTimeout (slot : Nat) (s : State) : Out :=
  if slot ≥ 16 then .fault .noSuchUnit
  else
    let x := s.session slot
    if x.st = 1 ∧ s.getO Obj.DEVICE_UPTIME_MS ≥ x.seenMs + 2000 then .next (s.setSession slot { gen := x.gen }) else .next s

/-- SESSION_EXPIRY. -/
def execSessionExpiry (slot : Nat) (s : State) : Out :=
  if slot ≥ 16 then .fault .noSuchUnit
  else
    let x := s.session slot
    if x.st = 2 ∧ s.getO Obj.DEVICE_UPTIME_MS ≥ x.seenMs + 1000 * s.getO Obj.SESSION_IDLE_S then .next (s.closeSession slot)
    else .next s

/-- CLOSE. -/
def execClose (h : YHdr) (s : State) : Out := s.serveReq h 9 [] fun s n => (s.closeSession n, 0, [])

/-- PING. -/
def execPing (h : YHdr) (s : State) : Out := s.serveReq h 10 [] fun s _ => (s, 0, [])

/-! ### Segmented transfers (R453) -/

/-- SEG_READ of a requester: the state, STATUS, total length and the part. -/
def State.segPart (s : State) (rq idx sub offset : Nat) : State × Nat × Nat × List Byte :=
  if ownedIndex idx = false then (s, 1, 0, [])
  else
    match findObj idx sub with
    | none => (s, 6, 0, [])
    | some (o, i, _) =>
      if o.ty ≠ .blob ∧ o.ty ≠ .str then (s, 6, 0, [])
      else if o = Obj.ATTEST_REPORT ∧ s.attestRun.contains rq then (s, 8, 0, [])
      else
        let bs := s.blobOf rq o i
        (s, 0, bs.length, (bs.drop offset).take 1024)

/-- SEG_READ. -/
def execSegRead (src : Src) (idx sub offset : Nat) (s : State) : Out :=
  match src with
  | .ydp h =>
    s.serveReq h 5 (leBytes 2 idx ++ leBytes 1 sub ++ leBytes 1 0 ++ leBytes 4 offset) fun s n =>
      let (s, st, total, part) := s.segPart n idx sub offset
      (s, st, if st = 0 then leBytes 4 total ++ part else [])
  | .steward n _ =>
    s.stewardReq n fun s rq =>
      let (s, st, _, part) := s.segPart rq idx sub offset
      (s, st, ofBytes part)

/-- Longest value of a BLOB that can be written. -/
def blobLimit (o : ObjDef) : Nat :=
  if o = Obj.CLIENT_KEY then 64 else if o = Obj.ATTEST_NONCE then 32 else 12 * 2 ^ 20

/-- Access and state of a segmented write: a STATUS, or the object with its repetition. -/
def State.segTarget (s : State) (n idx sub : Nat) : Except Nat (ObjDef × Nat) :=
  if ownedIndex idx = false then .error 1
  else
    match findObj idx sub with
    | none => .error 6
    | some (o, i, _) =>
      if o.ty ≠ .blob then .error 6
      else if o.acc = .ro then .error 2
      else if o.acc = .rwl ∧ s.lockHolder ≠ n then .error 4
      else if o ≠ Obj.FW_UPDATE_IMAGE ∧ s.stateAdmits false o idx = false then .error 3
      else .ok (o, i)

/-- Sessions other than n with a transfer open on the object; a copy of one's own is nobody else's object.
Assumption 77 (DEDUCED). -/
def State.segRivals (s : State) (n idx sub : Nat) : List Nat :=
  (List.range 16).filter fun k =>
    decide (k ≠ n) && decide (idx ≠ Obj.ATTEST_NONCE.index) &&
      (s.session k).seg.any fun (g : SegW) => decide (g.idx = idx ∧ g.sub = sub)

def State.setSeg (s : State) (n : Nat) (g : Option SegW) : State := s.setSession n { s.session n with seg := g }

/-- A firmware update that R527 refuses: the state with its code, and STATUS. -/
def State.fwGate (s : State) (o : ObjDef) : State × Nat :=
  if o ≠ Obj.FW_UPDATE_IMAGE then (s, 0)
  else
    match s.fwRefusal with
    | some (st, c) => (s.fwCode c, st)
    | none => (s, 0)

/-- SEG_WRITE_START of session n. Assumption 77 (DEDUCED). -/
def State.segStart (s : State) (n idx sub total : Nat) : State × Nat :=
  let s := s.setSeg n none
  match s.segTarget n idx sub with
  | .error st => (s, st)
  | .ok (o, _) =>
    let (s, st) := s.fwGate o
    if st ≠ 0 then (s, st)
    else if total > blobLimit o then (s, 5)
    else
      match s.segRivals n idx sub with
      | [] => (s.setSeg n (some { idx := idx, sub := sub, total := total }), 0)
      | ks => (ks.foldl (fun (s : State) k => s.setSeg k none) s, 8)

/-- SEG_WRITE_START. -/
def execSegWriteStart (h : YHdr) (idx sub total : Nat) (s : State) : Out :=
  s.serveReq h 6 (leBytes 2 idx ++ leBytes 1 sub ++ leBytes 1 0 ++ leBytes 4 total) fun s n =>
    let (s, st) := s.segStart n idx sub total
    (s, st, [])

/-- SEG_WRITE_DATA of session n. -/
def State.segData (s : State) (n offset : Nat) (data : List Byte) : State × Nat :=
  match (s.session n).seg with
  | none => (s, 9)
  | some g =>
    if offset ≠ g.data.length ∨ offset + data.length > g.total then (s, 9)
    else (s.setSeg n (some { g with data := g.data ++ data }), 0)

/-- SEG_WRITE_DATA. -/
def execSegWriteData (h : YHdr) (offset : Nat) (data : List Byte) (s : State) : Out :=
  s.serveReq h 7 (leBytes 4 offset ++ data) fun s n =>
    let (s, st) := s.segData n offset data
    (s, st, [])

/-- A whole BLOB value is written by session n, or refused by the object's rules. Assumption 77 (DEDUCED). -/
def State.writeBlob (s : State) (n : Nat) (o : ObjDef) (i : Nat) (bs : List Byte) : State × Nat :=
  if o = Obj.CLIENT_KEY then
    if clientKeyOk bs then (({ s with blob := SMap.set [] s.blob (o.key i) bs }).redirty, 0) else (s, 5)
  else if o = Obj.ATTEST_NONCE then
    if bs.length = 32 then (s.askReport n bs, 0) else (s, 5)
  else
    let k := headKind (imageHead bs)
    if k = 0 ∨ k > 3 then (s.fwCode 8, 5)
    else if bs.length > slotSize (k - 1) then (s.fwCode 8, 5)
    else (s.fwBegin (k - 1) bs, 0)

/-- SEG_WRITE_END of session n. Assumption 77 (DEDUCED). -/
def State.segEnd (s : State) (n : Nat) (digest : List Byte) : State × Nat :=
  match (s.session n).seg with
  | none => (s, 9)
  | some g =>
    if g.data.length ≠ g.total ∨ sm3 g.data ≠ digest then (s, 9)
    else
      let s := s.setSeg n none
      match s.segTarget n g.idx g.sub with
      | .error st => (s, st)
      | .ok (o, i) =>
        let (s, st) := s.fwGate o
        if st ≠ 0 then (s, st) else s.writeBlob n o i g.data

/-- The message that ends a segmented write. -/
def State.endSegment (s : State) (h : YHdr) (digest : List Byte) : Out :=
  s.serveReq h 8 digest fun s n =>
    let (s, st) := s.segEnd n digest
    (s, st, [])

/-- SEG_WRITE_END. -/
def execSegWriteEnd (h : YHdr) (digest : List Byte) (s : State) : Out := s.endSegment h digest

/-- The transfer that the message's session has open is on this object. -/
def State.segOn (s : State) (h : YHdr) (o : ObjDef) : Bool :=
  (s.session (sessionSlot h)).seg.any fun (g : SegW) => decide (g.idx = o.index ∧ g.sub = o.sub)

/-- ATTEST_NONCE: the end of a segmented write of a nonce (R522). -/
def execAttestNonce (h : YHdr) (digest : List Byte) (s : State) : Out :=
  if s.segOn h Obj.ATTEST_NONCE then s.endSegment h digest else .next s

/-- FW_UPDATE_IMAGE: the end of a segmented write of an image (R527). -/
def execFwUpdateImage (h : YHdr) (digest : List Byte) (s : State) : Out :=
  if s.segOn h Obj.FW_UPDATE_IMAGE then s.endSegment h digest else .next s

/-! ### Rows that write one object -/

/-- A write of a numeric object by its definition. -/
def State.writeObj (s : State) (src : Src) (o : ObjDef) (v : Nat) (i : Nat := 0) (j : Nat := 0) : Out :=
  s.doWrite src (o.index + i) (o.sub + j) o.ty.code (leBytes o.ty.bytes v)

/-- QUEUE_CFG_WRITE: member 1 to 5 of 0x3241. -/
def execQueueCfgWrite (src : Src) (member value : Nat) (s : State) : Out :=
  match member with
  | 1 => s.writeObj src Obj.QUEUE_CFG_BASE value
  | 2 => s.writeObj src Obj.QUEUE_CFG_LOG2_SIZE value
  | 3 => s.writeObj src Obj.QUEUE_CFG_BINDING value
  | 4 => s.writeObj src Obj.QUEUE_CFG_TARGET value
  | 5 => s.writeObj src Obj.QUEUE_CFG_NOTIFY_SEM value
  | m => s.doWrite src 0x3241 m OTy.u8.code (leBytes 1 value)

/-- HOST_SEM_SIGNAL. -/
def execHostSemSignal (src : Src) (s : State) : Out := s.writeObj src Obj.HOST_SEM_OP 1
/-- HOST_SEM_TRY. -/
def execHostSemTry (src : Src) (s : State) : Out := s.writeObj src Obj.HOST_SEM_OP 2
/-- HOST_SEM_LOCK. -/
def execHostSemLock (src : Src) (s : State) : Out := s.writeObj src Obj.HOST_SEM_OP 3
/-- HOST_SEM_UNLOCK. -/
def execHostSemUnlock (src : Src) (s : State) : Out := s.writeObj src Obj.HOST_SEM_OP 4
/-- SEM_ACT_SET. -/
def execSemActSet (src : Src) (s : State) : Out := s.writeObj src Obj.SEM_ACT_GO 1
/-- SEM_RECOVERY_CLEAR. -/
def execSemRecoveryClear (src : Src) (s : State) : Out := s.writeObj src Obj.SEM_ACT_GO 2
/-- FURROW_LOAD. -/
def execFurrowLoad (src : Src) (s : State) : Out := s.writeObj src Obj.FURROW_LOAD_GO 1
/-- FURROW_SWAP_CANCEL. -/
def execFurrowSwapCancel (src : Src) (s : State) : Out := s.writeObj src Obj.FURROW_LOAD_GO 2
/-- SCHED_START. -/
def execSchedStart (src : Src) (e0 : Nat) (s : State) : Out := s.writeObj src Obj.SCHED_START e0
/-- SCHED_STOP. Assumption 44 (DESIGN CHOICE). -/
def execSchedStop (src : Src) (s : State) : Out := s.writeObj src Obj.SCHED_STOP 1
/-- PORT_RETRAIN. -/
def execPortRetrain (src : Src) (port : Nat) (s : State) : Out :=
  if port ≥ 8 then .fault .noSuchUnit else s.writeObj src Obj.PORT_RETRAIN 1 port
/-- PORT_ENABLE. -/
def execPortEnable (src : Src) (port value : Nat) (s : State) : Out :=
  if port ≥ 8 then .fault .noSuchUnit else s.writeObj src Obj.PORT_ENABLE value port
/-- ETH_RESTART. -/
def execEthRestart (src : Src) (port : Nat) (s : State) : Out :=
  if port ≥ 2 then .fault .noSuchUnit else s.writeObj src Obj.ETH_RESTART 1 port
/-- SESSION_SEL_CLOSE. -/
def execSessionSelClose (src : Src) (s : State) : Out := s.writeObj src Obj.SESSION_SEL_CLOSE 1
/-- OWNER_LOCK_TAKE. -/
def execOwnerLockTake (src : Src) (s : State) : Out := s.writeObj src Obj.OWNER_LOCK_TAKE 1
/-- OWNER_LOCK_RELEASE. -/
def execOwnerLockRelease (src : Src) (s : State) : Out := s.writeObj src Obj.OWNER_LOCK_TAKE 2
/-- STORE. -/
def execStore (src : Src) (s : State) : Out := s.writeObj src Obj.STORE_CMD 1
/-- RESTORE. -/
def execRestore (src : Src) (s : State) : Out := s.writeObj src Obj.STORE_CMD 2
/-- DEFAULTS. -/
def execDefaults (src : Src) (s : State) : Out := s.writeObj src Obj.STORE_CMD 3
/-- NUMERIC_FLAGS_CLEAR. -/
def execNumericFlagsClear (src : Src) (mask : Nat) (s : State) : Out := s.writeObj src Obj.NUMERIC_FLAGS_CLEAR mask
/-- CORE_FLAGS_CLEAR. -/
def execCoreFlagsClear (src : Src) (core mask : Nat) (s : State) : Out :=
  if core ≥ 800 then .fault .noSuchUnit else s.writeObj src Obj.CORE_FLAGS_CLEAR mask core
/-- UPDATE_FLAGS_CLEAR. -/
def execUpdateFlagsClear (src : Src) (mask : Nat) (s : State) : Out := s.writeObj src Obj.UPDATE_FLAGS_CLEAR mask
/-- REDUCE_FLAGS_CLEAR. -/
def execReduceFlagsClear (src : Src) (mask : Nat) (s : State) : Out := s.writeObj src Obj.REDUCE_FLAGS_CLEAR mask
/-- THRESH_FLAGS_CLEAR. -/
def execThreshFlagsClear (src : Src) (mask : Nat) (s : State) : Out := s.writeObj src Obj.THRESH_FLAGS_CLEAR mask
/-- SUPPLY_WARN_CLEAR. -/
def execSupplyWarnClear (src : Src) (mask : Nat) (s : State) : Out := s.writeObj src Obj.SUPPLY_WARN_CLEAR mask
/-- PLL_LOSS_CLEAR. -/
def execPllLossClear (src : Src) (mask : Nat) (s : State) : Out := s.writeObj src Obj.PLL_LOSS_CLEAR mask
/-- ATTN_EMPTY_FLAG_CLEAR. -/
def execAttnEmptyFlagClear (src : Src) (s : State) : Out := s.writeObj src Obj.ATTN_EMPTY_FLAG 0
/-- ERR_CLEAR_COUNTS. -/
def execErrClearCounts (src : Src) (s : State) : Out := s.writeObj src Obj.ERR_CLEAR 1
/-- ERR_CLEAR_FAULT_MAP. -/
def execErrClearFaultMap (src : Src) (s : State) : Out := s.writeObj src Obj.ERR_CLEAR 2
/-- WINNOW_PROBE: input member 1 to 6 of 0x5012. -/
def execWinnowProbe (src : Src) (member value : Nat) (s : State) : Out :=
  match member with
  | 1 => s.writeObj src Obj.WINNOW_PROBE_SEED value
  | 2 => s.writeObj src Obj.WINNOW_PROBE_STEP value
  | 3 => s.writeObj src Obj.WINNOW_PROBE_TID value
  | 4 => s.writeObj src Obj.WINNOW_PROBE_PURPOSE value
  | 5 => s.writeObj src Obj.WINNOW_PROBE_INDEX value
  | 6 => s.writeObj src Obj.WINNOW_PROBE_DRAW value
  | m => s.doWrite src 0x5012 m OTy.u8.code (leBytes 1 value)
/-- SHUF_PROBE. -/
def execShufProbe (src : Src) (value : Nat) (s : State) : Out := s.writeObj src Obj.SHUF_PROBE_POS value
/-- SHUF_SAMPLES_WRITE. -/
def execShufSamplesWrite (src : Src) (value : Nat) (s : State) : Out := s.writeObj src Obj.SHUF_SAMPLES value
/-- CRIB_POOL_INIT. -/
def execCribPoolInit (src : Src) (s : State) : Out := s.writeObj src Obj.CRIB_POOL_INIT 1
/-- CRIB_POOL_RELEASE. -/
def execCribPoolRelease (src : Src) (s : State) : Out := s.writeObj src Obj.CRIB_POOL_INIT 2
/-- MATRIX_SELFTEST_RUN. -/
def execMatrixSelftestRun (src : Src) (s : State) : Out := s.writeObj src Obj.MATRIX_SELFTEST_RUN 1
/-- REDUCE_RESIDUE_TEST. -/
def execReduceResidueTest (src : Src) (s : State) : Out := s.writeObj src Obj.REDUCE_RESIDUE_TEST 1
/-- CORE_EXCLUDE. -/
def execCoreExclude (src : Src) (core value : Nat) (s : State) : Out :=
  if core ≥ 800 then .fault .noSuchUnit else s.writeObj src Obj.CORE_EXCLUDE value core
/-- FW_ACTIVATE: kind 1 to 3. -/
def execFwActivate (src : Src) (kind : Nat) (s : State) : Out := s.writeObj src Obj.FW_ACTIVATE kind
/-- FW_SVN_ADVANCE. -/
def execFwSvnAdvance (src : Src) (s : State) : Out := s.writeObj src Obj.FW_SVN_ADVANCE 1
/-- P0_REQUEST. -/
def execP0Request (src : Src) (s : State) : Out := s.writeObj src Obj.LP_REQUEST 0
/-- P1_REQUEST. -/
def execP1Request (src : Src) (s : State) : Out := s.writeObj src Obj.LP_REQUEST 1
/-- FALLOW_REQUEST. -/
def execFallowRequest (src : Src) (s : State) : Out := s.writeObj src Obj.LP_REQUEST 2
/-- CLK_CORE_SRC. -/
def execClkCoreSrc (src : Src) (die value : Nat) (s : State) : Out :=
  if die ≥ 2 then .fault .noSuchUnit else s.writeObj src Obj.CLK_CORE_SRC value 0 die

/-! ### Semaphores of the stewards, and records at the master -/

/-- STEWARD_SEM_OPERATION: 1 signal, 2 try, 3 lock, 4 unlock, for the steward's own purposes (R342). The value says
granted 0, orphan status 1, not granted 2; a misuse gets STATUS 5. Assumption 36 (DEDUCED). -/
def execStewardSemOperation (steward op sem arg : Nat) (s : State) : Out :=
  if sem ≥ 4096 ∨ op = 0 ∨ op > 4 then .fault .noSuchUnit
  else
    s.stewardReq steward fun s _ =>
      let who := SemWho.steward steward
      let (s, r) := match op with
        | 1 => s.semSignalOp sem arg who
        | 2 => s.semTryOp sem arg who
        | 3 => s.semLockTry sem who
        | _ => s.semUnlockOp sem who
      match r with
      | .granted => (s, 0, 0)
      | .orphan => (s, 0, 1)
      | .misuse => (s, 5, 0)
      | _ => (s, 0, 2)

/-- ERROR_RECORD_RECEIVE: a STOP or FATAL record of another device reaches the master, or a device on the way to it (R541).
Assumption 52 (DESIGN CHOICE). -/
def execErrorRecordReceive (rec : Nat) (s : State) : Out :=
  if s.alive = false ∨ bits rec 375 373 < 3 ∨ bits rec 375 373 > 4 then .next s
  else if s.isMaster = false then .next (s.toMaster (leBytes 64 rec))
  else .next (s.masterRecord (rec % 2 ^ 512))

end Sys2Proof.Machine
end

