-- ==== Sys2Proof/Machine/Eth.lean ====
section
/-! DEFINITION. The host ports: links, address resolution and echo (R429 to R434), priority flow control (R442), the
RoCEv2 responder (R435 to R441, R443), the IEEE 1588 clock (R444), and the exit from FALLOW, whose first step lets its
waiting requests go on (R454, R501). -/
namespace Sys2Proof.Machine

/-! ### Links (R429, R430, R434) -/

/-- ETH_LINK_UP: the link comes up, and the address objects take effect. In a copper mode the modes that the
partner advertises must hold the one selected (R430); a module takes no part in negotiation. -/
def execEthLinkUp (l : LinkUp) (s : State) : Out :=
  let port := l.port
  let m := s.getO Obj.ETH_MODE port
  if port ≥ 2 then .fault .noSuchUnit
  else if s.dev < stCONFIGURED ∨ m = 0 ∨ s.ethUp port ∨ (copperMode m && !l.adv.contains m) then .next s
  else
    let g := fun o => s.getO o port
    let x : EthPort := {
      ip4 := g Obj.ETH_IPV4_ADDR
      ip4pfx := g Obj.ETH_IPV4_PREFIX
      ip4gw := g Obj.ETH_IPV4_GATEWAY
      ip6 := g Obj.ETH_IPV6_ADDR_HI * 2 ^ 64 + g Obj.ETH_IPV6_ADDR_LO
      ip6pfx := g Obj.ETH_IPV6_PREFIX
      ip6gw := g Obj.ETH_IPV6_GW_HI * 2 ^ 64 + g Obj.ETH_IPV6_GW_LO }
    .next ((s.setEth port x).setO Obj.ETH_LINK_STATE 2 port)

/-- ETH_LINK_DOWN. -/
def execEthLinkDown (port : Nat) (s : State) : Out :=
  if port ≥ 2 then .fault .noSuchUnit
  else .next { s.setO Obj.ETH_LINK_STATE 0 port with eths := SMap.erase s.eths port }

/-! ### Frames and packets (R431 to R433) -/

/-- UDP ports that are served. -/
def State.udpServed (s : State) (n : Nat) : Bool := decide (n = 4791 ∨ n = s.udpPort ∨ n = 319 ∨ n = 320)

/-- The number in bytes i to i + n − 1, most significant first. -/
def beAt (bs : List Byte) (i n : Nat) : Nat := ofBytesBE ((bs.drop i).take n)

/-- An address to which IEEE 1588 messages go, IPv4 or IPv6. Assumption 68 (PRESUMED). -/
def ptpGroup (a : Nat) : Bool :=
  decide (a = v4 0xE0000181 ∨ a = v4 0xE000006B) || (decide (a / 2 ^ 120 = 0xFF) && decide (a % 2 ^ 112 = 0x181 ∨ a % 2 ^ 112 = 0x6B))

/-- An address to which neighbour discovery goes: all nodes, or the solicited nodes of an own address. -/
def State.ndGroup (s : State) (p a : Nat) : Bool :=
  decide (a = 0xFF02 * 2 ^ 112 + 1) || (decide (a / 2 ^ 24 = (0xFF02 * 2 ^ 112 + 0x1FF000000) / 2 ^ 24) &&
    decide (a % 2 ^ 24 = s.linkLocal p % 2 ^ 24 ∨ ((s.eth p).ip6 ≠ 0 ∧ a % 2 ^ 24 = (s.eth p).ip6 % 2 ^ 24)))

/-- The packet in a frame is one that the device accepts: ARP, IEEE 1588, or unfragmented IP to an address of the port that
carries a served UDP port, an echo request, or neighbour discovery. -/
def State.takesPacket (s : State) (p : Nat) (bs : List Byte) : Bool :=
  let t := beAt bs 0 2
  let ip := bs.drop 2
  if t = 0x0806 ∨ t = 0x88F7 then true
  else if t = 0x0800 then
    let n := 4 * (beAt ip 0 1 % 16)
    let dst := v4 (beAt ip 16 4)
    decide (beAt ip 6 2 % 2 ^ 14 = 0) && (s.hasIp p dst || ptpGroup dst) &&
      (if beAt ip 9 1 = 17 then s.udpServed (beAt ip (n + 2) 2) else decide (beAt ip 9 1 = 1 ∧ beAt ip n 1 = 8))
  else if t = 0x86DD then
    let nh := beAt ip 6 1
    let dst := beAt ip 24 16
    (s.hasIp p dst || ptpGroup dst || s.ndGroup p dst) &&
      (if nh = 17 then s.udpServed (beAt ip 42 2) else decide (nh = 58) && [128, 135, 136].contains (beAt ip 40 1))
  else false

/-- The IEEE 1588 message of a frame, over Ethernet or UDP. Assumption 68 (PRESUMED). -/
def ptpOf (bs : List Byte) : Option (List Byte) :=
  let t := beAt bs 0 2
  if t = 0x88F7 then some (bs.drop 2)
  else if t = 0x0800 ∧ beAt bs 11 1 = 17 then some (bs.drop (2 + 4 * (beAt bs 2 1 % 16) + 8))
  else if t = 0x86DD ∧ beAt bs 8 1 = 17 then some (bs.drop 50)
  else none

/-- The time stamp in an IEEE 1588 message, ns, with its correction. Assumption 68 (PRESUMED). -/
def ptpTime (m : List Byte) : Nat := beAt m 34 6 * 10 ^ 9 + beAt m 40 4 + beAt m 8 8 / 65536

/-- General messages of the port's 1588 master: Follow_Up gives the time of a two-step Sync, Delay_Resp that of the port's own
delay request (R444). Assumption 42 (DEDUCED). -/
def State.ptpGeneral (s : State) (p : Nat) (m : List Byte) : State :=
  let x := s.eth p
  let kind := beAt m 0 1 % 16
  if beAt m 4 1 ≠ s.getO Obj.ETH_PTP_DOMAIN p then s
  else if kind = 8 ∧ x.ptp.twoStep then s.setEth p { x with ptp := { x.ptp with t1 := ptpTime m } }
  else if kind = 9 ∧ beAt m 30 2 = x.ptp.seq % 65536 then s.setEth p { x with ptp := { x.ptp with t4 := ptpTime m } }
  else s

/-- An ARP reply or a neighbour advertisement makes a neighbour known (R432). Assumption 119 (DESIGN CHOICE). -/
def State.frameUse (s : State) (p : Nat) (f : EthFrame) : State :=
  let t := beAt f.bytes 0 2
  if t = 0x0806 then
    if beAt f.bytes 8 2 = 2 then s.learn p (v4 (beAt f.bytes 16 4)) (beAt f.bytes 10 6) else s
  else if t = 0x86DD ∧ beAt f.bytes 8 1 = 58 then
    if beAt f.bytes 42 1 = 136 then
      s.learn p (beAt f.bytes 50 16) (if beAt f.bytes 66 1 = 2 then beAt f.bytes 68 6 else f.src)
    else s
  else
    match ptpOf f.bytes with
    | some m => s.ptpGeneral p m
    | none => s

/-- ETH_FRAME_RECEIVE: a frame is accepted or discarded. Assumption 71 (DESIGN CHOICE). -/
def execEthFrameReceive (port : Nat) (f : EthFrame) (s : State) : Out :=
  s.onFrame port f fun s =>
    if s.takesPacket port f.bytes then .next ((s.ethTook port).frameUse port f) else .next (s.ethDrop port)

/-- ARP_REQUEST for an IPv4 address: the asker becomes known, and is answered. Assumption 119 (DESIGN CHOICE). -/
def execArpRequest (port : Nat) (f : EthFrame) (target senderIp : Nat) (s : State) : Out :=
  s.onFrame port f fun s =>
    let s := s.ethTook port
    if s.hasIp4 port target then
      .next ((s.learn port (v4 senderIp) f.src).transmit (s.frameFor port f.src 0 (.arp true senderIp target)))
    else .next s

/-- NEIGHBOUR_SOLICITATION for an IPv6 address: the asker becomes known, and is answered. Assumption 119 (DESIGN CHOICE). -/
def execNeighbourSolicitation (port : Nat) (f : EthFrame) (target senderIp : Nat) (s : State) : Out :=
  s.onFrame port f fun s =>
    let s := s.ethTook port
    if s.hasIp6 port target then
      let t := if senderIp = 0 then s else s.learn port senderIp f.src
      .next (t.transmit (s.frameFor port f.src 0 (.nd true senderIp target)))
    else .next s

/-- ECHO_REQUEST: up to 1,232 bytes of payload are returned. -/
def execEchoRequest (port : Nat) (f : EthFrame) (target senderIp : Nat) (s : State) : Out :=
  s.onFrame port f fun s =>
    if s.hasIp port target && decide (f.bytes.length ≤ 1232) then
      .next ((s.ethTook port).sendIp port 0 { src := target, dst := senderIp, load := .echo f.bytes })
    else .next (s.ethDrop port)

/-! ### Priority flow control (R442) -/

/-- Priorities with flow control that hold frames in the port's buffer. -/
def State.heldPrios (s : State) (p : Nat) : List Nat :=
  (List.range 8).filter fun k => s.pfcOn p k && s.roceHeld.any fun (x : RocePkt × Bool) => decide (x.1.eport = p ∧ x.1.net.frame.prio = k)

/-- Send a PFC frame for some priorities; none of its own priority holds it back. Assumption 68 (PRESUMED). -/
def State.sendPfc (s : State) (p : Nat) (prios : List Nat) (quanta : Nat) : State :=
  if prios = [] then s
  else (s.incO Obj.ETH_PFC_TX 1 p).sendFrame (s.frameFor p 0x0180C2000001 0 (.pfc prios quanta))

/-- XOFF when the free buffer falls below 256 KiB, for every priority with flow control that holds frames; XON when it rises above
512 KiB. -/
def State.pfcJudge (s : State) (p : Nat) : State :=
  let free := ethBuffer - s.held p
  let x := s.eth p
  let more := (s.heldPrios p).filter fun k => !x.xoff.contains k
  if free < 256 * 1024 then (s.setEth p { x with xoff := x.xoff ++ more }).sendPfc p more 0xFFFF
  else if free > 512 * 1024 then (s.setEth p { x with xoff := [] }).sendPfc p x.xoff 0
  else s

/-- PFC_XOFF_REPEAT: 40 µs have passed, and the free buffer is still below its level. -/
def execPfcXoffRepeat (port : Nat) (s : State) : Out :=
  if port ≥ 2 then .fault .noSuchUnit
  else if ethBuffer - s.held port < 256 * 1024 then .next (s.sendPfc port (s.heldPrios port) 0xFFFF)
  else .next s

/-- A transmit pause of one priority starts, goes on or, with 0 quanta, ends. -/
def State.pauseTx (s : State) (p prio quanta : Nat) : State :=
  let x := s.eth p
  if quanta = 0 then s.resumeTx p prio
  else if x.paused.any fun (a : Pause) => decide (a.prio = prio) then s
  else s.setEth p { x with paused := x.paused ++ [{ prio := prio, sinceMs := s.getO Obj.DEVICE_UPTIME_MS }] }

/-- PFC_FRAME_RECEIVE: the priorities that it names are paused or go on. A PFC frame goes to the address of MAC control
(Assumption 68, PRESUMED) and is subject to no VLAN. -/
def execPfcFrameReceive (port : Nat) (f : EthFrame) (x : PfcPause) (s : State) : Out :=
  if port ≥ 2 then .fault .noSuchUnit
  else if s.ethUp port = false then .next s
  else
    let s := s.ethCount port f
    if frameWhole f = false ∨ (f.dst ≠ 0x0180C2000001 ∧ f.dst ≠ s.macOf port) ∨ f.size > s.getO Obj.ETH_MTU port + 22 then
      .next (s.ethDrop port)
    else
      .next ((List.range 8).foldl (fun (s : State) k =>
        if bit x.prios k && s.pfcOn port k then s.pauseTx port k (x.quanta.getD k 0) else s)
        ((s.ethTook port).incO Obj.ETH_PFC_RX 1 port))

/-- PFC_PAUSE_EXPIRY: the time that the last PFC frame named has passed. -/
def execPfcPauseExpiry (port prio : Nat) (s : State) : Out :=
  if port ≥ 2 ∨ prio ≥ 8 then .fault .noSuchUnit else .next (s.resumeTx port prio)

/-- PFC_STORM: a priority has been paused for more than 100 ms without a break. -/
def execPfcStorm (port prio : Nat) (s : State) : Out :=
  if port ≥ 2 ∨ prio ≥ 8 then .fault .noSuchUnit
  else
    let x := s.eth port
    match x.paused.find? fun (a : Pause) => decide (a.prio = prio) with
    | none => .next s
    | some a =>
      if a.storm ∨ s.getO Obj.DEVICE_UPTIME_MS ≤ a.sinceMs + 100 then .next s
      else
        let ps := x.paused.map fun (b : Pause) => if b.prio = prio then { b with storm := true } else b
        let s := (s.setEth port { x with paused := ps }).incO Obj.ETH_PFC_STORMS 1 port
        .next (s.post { reason := 0x0802, d0 := port, d1 := prio })

/-! ### The RoCEv2 responder (R435 to R440, R443) -/

/-- Number of queue pair 0 (R436). -/
def qpBase : Nat := 0x100
def qpCount : Nat := 1024
def pmtuOf (q : Qp) : Nat := 1024 * 2 ^ q.pmtu

/-- Send a packet of queue pair n. -/
def State.roceSend (s : State) (n opcode psn syndrome : Nat) (payload : List Byte) : State :=
  let q := s.qp n
  s.sendIp q.port (s.getO Obj.ETH_ROCE_PRIO q.port) {
    src := q.lip
    dst := q.ipHi * 2 ^ 64 + q.ipLo
    sport := q.sport
    dport := 4791
    dscp := s.getO Obj.ETH_ROCE_DSCP q.port
    ect := decide (s.getO Obj.ETH_ECN_EN q.port = 1)
    load := .roce q.rqpn opcode (psn % 2 ^ 24) syndrome payload }

/-- Syndromes of Acknowledge packets: ACK, RNR NAK with a timer of 0.64 ms, and the NAK codes.
Assumption 68 (PRESUMED). -/
def synACK : Nat := 0x1F
/-- Assumption 68 (PRESUMED). -/
def synRNR : Nat := 0x2C
/-- Assumption 68 (PRESUMED). -/
def synPSN : Nat := 0x60
/-- Assumption 68 (PRESUMED). -/
def synINVALID : Nat := 0x61
/-- Assumption 68 (PRESUMED). -/
def synACCESS : Nat := 0x62
/-- Assumption 68 (PRESUMED). -/
def synOPERATION : Nat := 0x63

def State.roceAck (s : State) (n psn syndrome : Nat) : State := s.roceSend n 0x11 psn syndrome []

/-- A NAK that puts the queue pair into ERROR. Assumption 69 (DEDUCED). -/
def State.roceFail (s : State) (n psn syndrome cause : Nat) : State :=
  let s := s.roceAck n psn syndrome
  s.setQp n { s.qp n with st := 2, cause := cause, wr := none, snd := none }

/-- Remote Access Error (R437). Assumption 69 (DEDUCED). -/
def State.roceAccess (s : State) (n psn addr rkey : Nat) : State :=
  ((s.roceFail n psn synACCESS 2).incO Obj.ROCE_ACCESS_ERRORS).post { reason := 0x0801, addr := addr, d0 := n, d1 := rkey }

/-- Bytes a to a + n − 1 lie in the doorbell window. -/
def inBell (a n : Nat) : Bool := decide (bellBase ≤ a ∧ a + n ≤ bellBase + 0x10000)

/-- An enabled region grants the access, 1 read or 2 write, to every byte. -/
def State.mrGrants (s : State) (rkey acc a n : Nat) : Bool :=
  s.mrs.any fun (p : Nat × Mr) =>
    p.2.en && decide (p.2.rkey = rkey) && decide (p.2.acc &&& acc ≠ 0) && decide (p.2.base ≤ a ∧ a + n ≤ p.2.base + p.2.len)

/-- Doorbell writes of whole 8-byte words. -/
def State.bellWrite (s : State) : Nat → Nat → List Byte → State
  | 0, _, _ => s
  | k + 1, a, bs =>
    let off := a - bellBase
    (s.doorbell (off / 16) (decide (off % 16 < 8)) (ofBytes (bs.take 8))).bellWrite k (a + 8) (bs.drop 8)

/-- A request was granted when it arrived (R437, R456): a region grants it whole, and a write to the doorbells has whole words.
Assumption 70 (DEDUCED). -/
def State.mrAdmits (s : State) (p : RocePkt) : Bool :=
  if p.opcode = 0x0C then s.mrGrants p.rkey 1 p.va p.len
  else s.mrGrants p.rkey 2 p.va p.len && (!inBell p.va p.len || decide (p.va % 8 = 0 ∧ p.len % 8 = 0))

/-- The packet of expected PSN has been taken; `last` says that it ends a message. -/
def State.roceTook (s : State) (n : Nat) (p : RocePkt) (last : Bool) (syndrome : Nat) : State :=
  let q := s.qp n
  let s := s.setQp n { q with
    psn := (q.psn + 1) % 2 ^ 24, nakSent := false, rxBytes := (q.rxBytes + p.payload.length) % 2 ^ 64
    msn := if last then (q.msn + 1) % 2 ^ 24 else q.msn }
  if p.ackReq then s.roceAck n p.psn syndrome else s

/-- Payload length of a packet at its place in a message: whole path MTUs but at the end. -/
def sizeOk (q : Qp) (last : Bool) (k : Nat) : Bool := if last then decide (k ≤ pmtuOf q) else decide (k = pmtuOf q)

/-- RDMA WRITE: the data of one packet at a, with `left` bytes of the message still to come before it. Protection is judged for
each packet when its data is written. -/
def State.writePacket (s : State) (n : Nat) (p : RocePkt) (rkey a left : Nat) (last : Bool) : State :=
  let q := s.qp n
  let k := p.payload.length
  if sizeOk q last k = false ∨ k > left ∨ (last ∧ k ≠ left) ∨ (last = false ∧ k = left) then s.roceFail n p.psn synINVALID 1
  else if s.isProtected a k then s.roceAccess n p.psn a rkey
  else
    let (s, bad) := if inBell a k then (s.bellWrite (k / 8) a p.payload, none) else s.writeMem a p.payload
    if bad.isSome then s.roceFail n p.psn synOPERATION 0
    else
      let s := s.setQp n { s.qp n with wr := if last then none else some (rkey, a + k, left - k) }
      s.roceTook n p last synACK

/-- An RDMA WRITE packet of the expected PSN; `ok` says that its request was granted. -/
def State.takeWrite (s : State) (n : Nat) (p : RocePkt) (ok : Bool) : State :=
  let q := s.qp n
  let first := decide (p.opcode = 0x06 ∨ p.opcode = 0x0A)
  let last := decide (p.opcode = 0x08 ∨ p.opcode = 0x0A)
  match first, q.wr, q.snd with
  | true, none, none =>
    if ok = false then s.roceAccess n p.psn p.va p.rkey
    else s.writePacket n p p.rkey p.va p.len last
  | false, some (key, a, left), _ => s.writePacket n p key a left last
  | _, _, _ => s.roceFail n p.psn synINVALID 1

/-- Put the descriptors of a message into ring q, from producer index i on; the flag says that a write failed. -/
def State.putDescs (s : State) (q i : Nat) : Nat → List Byte → State × Bool
  | 0, _ => (s, false)
  | k + 1, bs =>
    match s.writeMem ((s.ring q).slot i) (bs.take 64) with
    | (s, some _) => (s, true)
    | (s, none) => s.putDescs q (i + 1) k (bs.drop 64)

/-- A whole SEND message: its descriptors enter the ring, and P advances once (R440). Assumption 69 (DEDUCED). -/
def State.sendMessage (s : State) (n : Nat) (p : RocePkt) (bs : List Byte) : State :=
  match s.ringFor 1 (qpBase + n) with
  | none => s.roceFail n p.psn synINVALID 1
  | some r =>
    let k := bs.length / 64
    if bs.length < 64 ∨ bs.length > 4096 ∨ bs.length % 64 ≠ 0 then s.roceFail n p.psn synINVALID 1
    else if k > (s.ring r).size - (s.ring r).fill then s.roceAck n p.psn synRNR
    else
      match s.putDescs r (s.ring r).p k bs with
      | (s, true) => s.roceFail n p.psn synOPERATION 0
      | (s, false) =>
        let g := s.ring r
        let s := s.setRing r { g with p := (g.p + k) % 2 ^ 32 }
        let s := s.notify (if g.notify < 4096 then some g.notify else none)
        (s.setQp n { s.qp n with snd := none }).roceTook n p true synACK

/-- A SEND packet of the expected PSN. -/
def State.takeSend (s : State) (n : Nat) (p : RocePkt) : State :=
  let q := s.qp n
  let first := decide (p.opcode = 0x00 ∨ p.opcode = 0x04)
  let last := decide (p.opcode = 0x02 ∨ p.opcode = 0x04)
  let go := fun (got : List Byte) =>
    let bs := got ++ p.payload
    if sizeOk q last p.payload.length = false ∨ bs.length > 4096 then s.roceFail n p.psn synINVALID 1
    else if last then s.sendMessage n p bs
    else (s.setQp n { q with snd := some bs }).roceTook n p false synACK
  match first, q.snd, q.wr with
  | true, none, none => if (s.ringFor 1 (qpBase + n)).isSome then go [] else s.roceFail n p.psn synINVALID 1
  | false, some got, _ => go got
  | _, _, _ => s.roceFail n p.psn synINVALID 1

/-- Bytes of the doorbell window: the present indices. -/
def State.bellBytes (s : State) (a k : Nat) : List Byte :=
  (List.range k).map fun i =>
    let off := a + i - bellBase
    BitVec.ofNat 8 (s.doorbellWord (off / 8 * 8) / 2 ^ (8 * (off % 8)))

/-- The packets of a read response from number i of k on. -/
def State.sendParts (s : State) (n psn m k : Nat) : Nat → List Byte → State
  | 0, _ => s
  | j + 1, bs =>
    let i := k - (j + 1)
    let op := if k = 1 then 0x10 else if i = 0 then 0x0D else if j = 0 then 0x0F else 0x0E
    (s.roceSend n op (psn + i) synACK (bs.take m)).sendParts n psn m k j (bs.drop m)

/-- RDMA READ requests of a queue pair whose response has not gone out whole. -/
def State.readsHeld (s : State) (q : Qp) : Nat :=
  let x := s.eth q.port
  ((x.waiting.map (·.2) ++ x.txq).filter fun (f : TxFrame) => f.ofQp q && match f.body with
    | .ip d => (match d.load with
      | .roce _ op _ _ _ => decide (op = 0x0F ∨ op = 0x10)
      | _ => false)
    | _ => false).length

/-- An RDMA READ request; `again` says that it is a duplicate, which moves no PSN, and `ok` that it was granted. A queue pair
holds 16 at once (R436). Assumption 69 (DEDUCED). -/
def State.takeRead (s : State) (n : Nat) (p : RocePkt) (again ok : Bool) : State :=
  let q := s.qp n
  let m := pmtuOf q
  let k := max 1 (cdiv p.len m)
  if p.len > 2 ^ 31 ∨ s.readsHeld q ≥ 16 ∨ (again = false ∧ (q.wr.isSome ∨ q.snd.isSome)) then s.roceFail n p.psn synINVALID 1
  else if ok = false then s.roceAccess n p.psn p.va p.rkey
  else
    let (s, bs, bad) := if inBell p.va p.len then (s, s.bellBytes p.va p.len, none) else s.readMem p.va p.len
    if bad.isSome then s.roceFail n p.psn synOPERATION 0
    else
      let s := s.sendParts n p.psn m k k bs
      if again then s
      else s.setQp n { s.qp n with psn := (q.psn + k) % 2 ^ 24, nakSent := false, msn := (q.msn + 1) % 2 ^ 24 }

/-- What the engine does with a packet of the expected PSN, by its opcode (R435). -/
def State.takeOpcode (s : State) (n : Nat) (p : RocePkt) (ok : Bool) : State :=
  if p.opcode ∈ [0x00, 0x01, 0x02, 0x04] then s.takeSend n p
  else if p.opcode ∈ [0x06, 0x07, 0x08, 0x0A] then s.takeWrite n p ok
  else if p.opcode = 0x0C then s.takeRead n p false ok
  else s.roceFail n p.psn synINVALID 1

/-- A packet marked CE is answered by a CNP (R443). -/
def State.roceCe (s : State) (n : Nat) (p : RocePkt) : State :=
  if p.ce ∧ p.cnpUs ≥ s.getO Obj.ROCE_CNP_INTERVAL_US then
    (s.roceSend n 0x81 0 0 []).incO Obj.ETH_CNP_TX 1 p.eport
  else s

/-- A packet of queue pair n in READY: the PSN decides (R436). -/
def State.takePsn (s : State) (n : Nat) (p : RocePkt) (ok : Bool) : State :=
  let q := s.qp n
  let d := (p.psn + 2 ^ 24 - q.psn) % 2 ^ 24
  if d = 0 then s.takeOpcode n p ok
  else if d < 2 ^ 23 then
    if q.nakSent then s else (s.setQp n { q with nakSent := true }).roceAck n q.psn synPSN
  else if p.opcode = 0x0C then s.takeRead n p true ok
  else if p.ackReq then s.roceAck n (q.psn + 2 ^ 24 - 1) synACK
  else s

/-- Rate of a queue pair's read responses. Assumption 71 (DESIGN CHOICE). -/
def State.rateOf (s : State) (n : Nat) : Nat :=
  let q := s.qp n
  if q.rate = 0 then ethRate (s.getO Obj.ETH_MODE q.port) else q.rate

/-- A CNP halves the queue pair's rate, at most once in an interval (R443). -/
def State.takeCnp (s : State) (n : Nat) (p : RocePkt) : State :=
  let s := s.incO Obj.ETH_CNP_RX 1 p.eport
  if p.cnpUs < s.getO Obj.ROCE_CNP_INTERVAL_US then s
  else s.setQp n { s.qp n with rate := max 1 (s.rateOf n / 2) }

/-- The packet comes from the remote queue pair to queue pair n in READY, at the address that n is bound to (R434, R436). -/
def State.qpFits (s : State) (n : Nat) (p : RocePkt) : Bool :=
  let q := s.qp n
  decide (q.st = 1 ∧ q.port = p.eport ∧ p.srcIp = q.ipHi * 2 ^ 64 + q.ipLo ∧ p.srcQp = q.rqpn) &&
    decide (q.lip = 0 ∨ q.lip = p.net.dstIp)

/-- The engine takes a packet, `ok` where a region granted its request at its arrival: only from the peer of a queue pair that is
READY. Assumption 69 (DEDUCED). -/
def State.takeRoce (s : State) (p : RocePkt) (ok : Bool) : State :=
  let n := p.qp - qpBase
  if p.qp < qpBase ∨ n ≥ qpCount ∨ s.qpFits n p = false then s
  else
    let s := s.setQp n { s.qp n with lip := p.net.dstIp }
    if p.opcode = 0x81 then s.takeCnp n p else (s.roceCe n p).takePsn n p ok

/-- LPDDR6 is in self-refresh, on the way into FALLOW, in it, or before exit step 1 has ended (R454, R501). -/
def State.asleep (s : State) : Bool :=
  let st := s.getO Obj.LP_STATE
  decide (st = 2 ∧ s.fallowStep ≥ 4) || decide (st = 3) || decide (st = 4 ∧ s.fallowStep = 0)

/-- A RoCEv2 packet arrives: it is taken at once, or waits while memory sleeps. -/
def State.onRoce (s : State) (p : RocePkt) : Out :=
  s.onNet p.net 4791 fun s =>
    if s.asleep = false then .next (s.takeRoce p (s.mrAdmits p))
    else .next (({ s with roceHeld := s.roceHeld ++ [(p, s.mrAdmits p)] }).pfcJudge p.eport)

/-- ROCE_SEND. -/
def execRoceSend (p : RocePkt) (s : State) : Out :=
  if p.opcode ∈ [0x00, 0x01, 0x02, 0x04] then s.onRoce p else .next s

/-- RDMA_WRITE. -/
def execRdmaWrite (p : RocePkt) (s : State) : Out :=
  if p.opcode ∈ [0x06, 0x07, 0x08, 0x0A] then s.onRoce p else .next s

/-- RDMA_READ_REQUEST. -/
def execRdmaReadRequest (p : RocePkt) (s : State) : Out := if p.opcode = 0x0C then s.onRoce p else .next s

/-- ROCE_INVALID_OPCODE: an opcode that the table of R435 does not let a requester send. -/
def execRoceInvalidOpcode (p : RocePkt) (s : State) : Out :=
  if p.opcode ∈ [0x00, 0x01, 0x02, 0x04, 0x06, 0x07, 0x08, 0x0A, 0x0C, 0x81] then .next s else s.onRoce p

/-- CNP: it waits like every RoCEv2 packet while memory sleeps. The last one was taken `us` before it. -/
def execCnp (p : RocePkt) (us : Nat) (s : State) : Out :=
  if p.opcode = 0x81 then s.onRoce { p with cnpUs := us } else .next s

/-- ROCE_RATE_INCREASE: 55 µs without a CNP. -/
def execRoceRateIncrease (qp : Nat) (s : State) : Out :=
  if qp < qpBase ∨ qp ≥ qpBase + qpCount then .fault .noSuchUnit
  else
    let n := qp - qpBase
    let q := s.qp n
    let r := s.rateOf n + ethRate (s.getO Obj.ETH_MODE q.port) / 20
    if q.rate = 0 then .next s else .next (s.setQp n { q with rate := if r ≥ ethRate (s.getO Obj.ETH_MODE q.port) then 0 else r })

/-! ### IEEE 1588 (R307, R444) -/

/-- Host network time runs `ppb` parts in 10^9 fast of the master's REFCLK; the steering follows by at most 1 ppm per second
(1 ppb per millisecond passed) and stays within 20 ppm. Assumption 42 (DEDUCED). -/
def State.steer (s : State) (ppb : Int) : State :=
  let f := s.getI Obj.PTP_FREQ_PPB
  let goal := max (-20000) (min 20000 ppb)
  let now := s.getO Obj.DEVICE_UPTIME_MS
  let d : Int := (min 1000 (now - s.alm.steerMs) : Nat)
  let s := s.setI Obj.PTP_FREQ_PPB (max (f - d) (min (f + d) goal))
  let s := { s with alm := { s.alm with steerMs := now } }
  s.setO Obj.PTP_STATE (if ppb > 20000 ∨ ppb < -20000 then 3 else 1)

/-- Where IEEE 1588 messages over an EtherType go. Assumption 68 (PRESUMED). -/
def ptpMac (t : Nat) : Nat := if t = 0x88F7 then 0x011B19000000 else if t = 0x0800 then 0x01005E000181 else 0x333300000181

/-- PTP_EVENT_MESSAGE: a Sync of the port's domain arrives, stamped by the port. Its own time comes with it, or later from
a two-step master. The port's clock asks for the delay, and that event message is stamped too. On the port that the almanac
follows, the master steers by `ppb`, what the clock makes of its stamps. Assumption 42 (DEDUCED). -/
def execPtpEventMessage (port : Nat) (f : EthFrame) (t : PtpTimes) (ppb : Int) (s : State) : Out :=
  s.onFrame port f fun s =>
    match ptpOf f.bytes with
    | none => .next (s.ethDrop port)
    | some m =>
      if s.takesPacket port f.bytes = false then .next (s.ethDrop port)
      else
        let s := s.ethTook port
        let x := s.eth port
        if beAt m 0 1 % 16 ≠ 0 ∨ beAt m 4 1 ≠ s.getO Obj.ETH_PTP_DOMAIN port ∨ s.dev < stCONFIGURED then .next s
        else
          let two := bit (beAt m 6 1) 1
          let p : Ptp := { x.ptp with
            t1 := if two then x.ptp.t1 else ptpTime m
            t2 := t.rx
            t3 := t.tx
            twoStep := two
            seq := (x.ptp.seq + 1) % 65536 }
          let s := s.setEth port { x with ptp := p }
          let s := s.transmit (s.frameFor port (ptpMac (beAt f.bytes 0 2)) 0
            (.delayReq (decide (beAt f.bytes 0 2 = 0x88F7)) (s.getO Obj.ETH_PTP_DOMAIN port) p.seq))
          if s.isMaster ∧ s.getO Obj.PTP_ASSOC_EN = 1 ∧ s.getO Obj.PTP_ASSOC_PORT = port then .next (s.steer ppb) else .next s

/-! ### Exit from FALLOW (R501) -/

/-- Waiting requests are taken in arrival order (R454). -/
def State.resumeRoce (s : State) : State :=
  let ps := s.roceHeld
  let s := ps.foldl (fun (s : State) x => s.takeRoce x.1 x.2) { s with roceHeld := [] }
  (s.pfcJudge 0).pfcJudge 1

/-- FALLOW_EXIT_STEP: the next step of exit ends, `ms` after the request; a channel that fails to retrain (`ok` false)
is named by `ms`. Assumption 85 (DEDUCED). -/
def execFallowExitStep (ok : Bool) (ms : Nat) (s : State) : Out :=
  if s.getO Obj.LP_STATE ≠ 4 ∨ s.dev = stFAULT then .next s
  else
    let n := s.fallowStep + 1
    let t := { s with fallowStep := n }
    if n = 1 then
      if ok then .next (t.startPlls memPlls).resumeRoce
      else .next (((s.setO Obj.MEM_TRAIN_STATE 3).setO Obj.MEM_TRAIN_FAIL_CHANNEL (ms % 128)).post
        { reason := 0x0206, d0 := ms % 128 })
    else if n = 2 then
      let t := ((t.setDev (s.getO Obj.DEVICE_FALLOW_FROM)).setO Obj.DEVICE_FALLOW_FROM 0).setO Obj.FALLOW_EXIT_MS (ms % 2 ^ 32)
      .next t.trainPorts
    else if s.portsSettled ∨ ms ≥ s.getO Obj.LINK_TRAIN_TIMEOUT_MS then
      .next (({ s with fallowStep := 0 }.setO Obj.LP_STATE 0).setO Obj.LP_REQUEST 0)
    else .next s

end Sys2Proof.Machine
end

