-- ==== Sys2Proof/Machine/Fabric.lean ====
section
/-! DEFINITION. The memory controllers' own steps (R382, R383), bridge flits (R20) and the class-3 budget (R397). -/
namespace Sys2Proof.Machine

/-- MEM_TEMP_READ: a controller reads its package's temperature (R382). A package that rises above 105 °C causes a
record and a stop request. Assumption 97 (DEDUCED). -/
def execMemTempRead (package : Nat) (temp : Int) (s : State) : Out :=
  if package ≥ 32 then .fault .noSuchUnit
  else if s.dev = stOFF ∨ s.dev = stFALLOW then .next s
  else
    let old := s.packTemp package
    let s := { s with pkgTemp := SMap.set 0 s.pkgTemp package (ofSigned 32 temp) }
    let s := if temp > s.getI Obj.MEM_TEMP_MAX_C then s.setI Obj.MEM_TEMP_MAX_C temp else s
    .next (if temp > 105 ∧ old ≤ 105 then
        s.post { reason := 0x0207, d0 := package, d1 := ofSigned 32 temp, source := 0x330 + package / 16 }
      else s)

/-- REFRESH: a bank refresh takes time and keeps the data (R382). -/
def execRefresh (subch _bank : Nat) (s : State) : Out :=
  if subch ≥ 256 then .fault .noSuchUnit else .next s

/-- Bytes of a subchannel and of the whole memory (R371). -/
def subchSize : Nat := 0x300000000
def memSize : Nat := 0x30000000000

/-- A disturbance of the 144 stored bits of codeword c. -/
def State.disturb (s : State) (c e : Nat) : State :=
  let d := e % 2 ^ 128
  let x := (e / 2 ^ 128) % 65536 ^^^ eccCheck d
  let s := if d = 0 then s else s.poke (c * 16) (leBytes 16 (ofBytes (s.peek (c * 16) 16) ^^^ d))
  { s with chk := SMap.set 0 s.chk c (SMap.get 0 s.chk c ^^^ x) }

/-- MEM_SCRUB_READ: the patrol scrub of a subchannel reads its next burst (R383). `upset0` and `upset1` are the bits
of its two codewords that have changed since they were written. A subchannel that is through waits for the end of the
pass, and entry to FALLOW suspends the scrub (R501); `late` says that the pass ends after its period. -/
def execMemScrubRead (subch upset0 upset1 : Nat) (late : Bool) (s : State) : Out :=
  if subch ≥ 256 then .fault .noSuchUnit
  else
    let pos := (s.sub subch).pos
    if s.getO Obj.MEM_SCRUB_EN = 0 ∨ ¬(s.dev = stREADY ∨ s.dev = stRUNNING ∨ s.dev = stSTOPPED) ∨
        (s.getO Obj.LP_STATE = 2 ∧ s.fallowStep ≥ 1) ∨ pos ≥ subchSize then
      .next s
    else
      let c := subchAddr subch pos / 16
      let s := (s.disturb c upset0).disturb (c + 1) upset1
      let s := s.setSub subch { s.sub subch with pos := pos + 32 }
      let s := ((s.readCw c 2).1.readCw (c + 1) 2).1
      let n := s.getO Obj.MEM_SCRUB_BYTES + 32
      if n < memSize then .next (s.setO Obj.MEM_SCRUB_BYTES n)
      else
        let s := (s.setO Obj.MEM_SCRUB_BYTES 0).incO Obj.MEM_SCRUB_PASSES
        let s := { s with subch := (List.range 256).foldl (fun (m : SMap Subch) k =>
          SMap.set {} m k { SMap.get {} m k with pos := 0 }) s.subch }
        .next (if late then (s.incO Obj.MEM_SCRUB_LATE).event 0xFFF 6 0xFFF (subch / 2) 0 0xFFFF else s)

/-- Decode the four codewords of a bridge flit: the corrections, and whether one is uncorrectable (R20).
Assumption 32 (DESIGN CHOICE). -/
def bridgeFlit (noise : List Nat) : Nat × Bool :=
  noise.foldl (fun (a : Nat × Bool) e =>
    match eccFix e with
    | some 0 => a
    | some _ => (a.1 + 1, a.2)
    | none => (a.1, true)) (0, false)

/-- Replays of a flit, at most four: the corrections, the replays made, and whether it still fails. -/
def bridgeReplays : Nat → List (List Nat) → Nat × Nat × Bool
  | 0, _ => (0, 0, true)
  | _ + 1, [] => (0, 1, false)
  | n + 1, r :: rs =>
    let (k, bad) := bridgeFlit r
    if bad then
      let (k2, m, f) := bridgeReplays n rs
      (k + k2, m + 1, f)
    else (k, 1, false)

/-- SOURCE of a bridge's receiving end: bridge 1 to 3 as in 0x3112; direction 0 towards CD1 or HB, 1 back. -/
def bridgeSource (b dir : Nat) : Nat :=
  if b = 1 then (if dir = 0 then 0x331 else 0x330) else if dir = 0 then 0xFFF else if b = 2 then 0x330 else 0x331

/-- BRIDGE_FLIT_RECEIVE (R20): correction, replay, and the hold that a replay's latency may raise. Whether the latency
threatens a beat is open; the condition falls with the next flit that needs no replay. Assumption 60 (DESIGN CHOICE). -/
def execBridgeFlitReceive (bridge dir : Nat) (noise : List Nat) (replayed : List (List Nat)) (s : State) : Out :=
  if bridge = 0 ∨ bridge > 3 ∨ dir > 1 then .fault .noSuchUnit
  else
    let (k, bad) := bridgeFlit noise
    let s := if k = 0 then s else s.incO Obj.BRIDGE_CE k 0 (bridge - 1)
    if bad = false then .next (s.setCond (keyBridge bridge dir) none)
    else
      let (k, n, failed) := bridgeReplays 4 replayed
      let s := if k = 0 then s else s.incO Obj.BRIDGE_CE k 0 (bridge - 1)
      let s := if n = 0 then s else s.incO Obj.BRIDGE_REPLAYS n 0 (bridge - 1)
      let s := if s.running ∧ Config.freeBit s.freeCtr then s.drew.holdNow (keyBridge bridge dir) rsnREPLAY else s.drew
      .next (if failed then s.post { reason := 0x0205, d0 := bridge, d1 := dir, source := bridgeSource bridge dir } else s)

/-- ARB_C3_WINDOW: a window of 1,024 cycles ends at an arbitration point (R397, R363): a core's router, or 0x330 + d for
another point of die d. Assumption 91 (DEDUCED). -/
def execArbC3Window (point flits : Nat) (s : State) : Out :=
  if point ≥ 800 ∧ point ≠ 0x330 ∧ point ≠ 0x331 then .fault .noSuchUnit
  else if flits > s.getO Obj.ARB_C3_BUDGET then
    .next ((s.incO Obj.ARB_C3_EXCESS).event 0xFFF 7 point flits 0 0xFFFF)
  else .next s

end Sys2Proof.Machine
end

