-- ==== Sys2Proof/Machine/Scalar.lean ====
section
/-! DEFINITION. Scalar arithmetic, floating point, branches and status of the control core (R123, R124). -/
namespace Sys2Proof.Machine

/-- S[A] and S[B] to S[D] with no flag. -/
def alu (i : InsA) (f : Nat → Nat → Nat) (c : Ctx) : Ctx × Nat := (c.set i.d (f (c.get i.a) (c.get i.b)), 0)

/-- ADD: modulo 2^64. -/
def execAdd (core ctx : Nat) (i : InsA) (s : State) : Out := s.plainA core ctx i (alu i fun a b => (a + b) % 2 ^ 64)
/-- SUB: modulo 2^64. -/
def execSub (core ctx : Nat) (i : InsA) (s : State) : Out :=
  s.plainA core ctx i (alu i fun a b => (a + (2 ^ 64 - b % 2 ^ 64)) % 2 ^ 64)
/-- MUL: the low 64 bits. -/
def execMul (core ctx : Nat) (i : InsA) (s : State) : Out := s.plainA core ctx i (alu i fun a b => (a * b) % 2 ^ 64)
/-- DIVU: all ones on division by zero. -/
def execDivu (core ctx : Nat) (i : InsA) (s : State) : Out :=
  s.plainA core ctx i (alu i fun a b => if b = 0 then 2 ^ 64 - 1 else a / b)
def execAnd (core ctx : Nat) (i : InsA) (s : State) : Out := s.plainA core ctx i (alu i fun a b => a &&& b)
def execOr (core ctx : Nat) (i : InsA) (s : State) : Out := s.plainA core ctx i (alu i fun a b => a ||| b)
def execXor (core ctx : Nat) (i : InsA) (s : State) : Out := s.plainA core ctx i (alu i fun a b => a ^^^ b)
/-- SHL, SHR and SAR shift by S[B] [5:0]. -/
def execShl (core ctx : Nat) (i : InsA) (s : State) : Out :=
  s.plainA core ctx i (alu i fun a b => (a <<< (b % 64)) % 2 ^ 64)
def execShr (core ctx : Nat) (i : InsA) (s : State) : Out := s.plainA core ctx i (alu i fun a b => a >>> (b % 64))
def execSar (core ctx : Nat) (i : InsA) (s : State) : Out :=
  s.plainA core ctx i (alu i fun a b => ofSigned 64 ((toSigned 64 a).fdiv (2 ^ (b % 64) : Nat)))
/-- SLT: signed. -/
def execSlt (core ctx : Nat) (i : InsA) (s : State) : Out :=
  s.plainA core ctx i (alu i fun a b => if toSigned 64 a < toSigned 64 b then 1 else 0)
def execSltu (core ctx : Nat) (i : InsA) (s : State) : Out :=
  s.plainA core ctx i (alu i fun a b => if a < b then 1 else 0)

/-- ADDI. -/
def execAddi (core ctx : Nat) (i : InsI) (s : State) : Out := s.scalarOp core ctx fun c => (c.set i.d (iea i c), 0)
/-- INSI: quarter p = IMM [17:16] of S[A] becomes IMM [15:0]. -/
def execInsi (core ctx : Nat) (i : InsI) (s : State) : Out :=
  s.scalarOp core ctx fun c =>
    let u := ofSigned 18 i.imm
    let p := u / 65536
    (c.set i.d (setBits (c.get i.a) (16 * p + 15) (16 * p) u), 0)

/-! ### Floating point -/

/-- A binary32 result of bits [31:0] of the operands: bits [63:32] become 0. -/
def fpu (i : InsA) (f : Bool → Nat → Nat → Nat → Fl Nat) (c : Ctx) : Ctx × Nat :=
  let (r, fl) := f c.strict (c.get i.a % 2 ^ 32) (c.get i.b % 2 ^ 32) (c.get i.c % 2 ^ 32)
  (c.set i.d r, fl)

def execFadd (core ctx : Nat) (i : InsA) (s : State) : Out :=
  s.plainA core ctx i (fpu i fun st a b _ => add32 st a b)
def execFmul (core ctx : Nat) (i : InsA) (s : State) : Out :=
  s.plainA core ctx i (fpu i fun st a b _ => mul32 st a b)
def execFfma (core ctx : Nat) (i : InsA) (s : State) : Out :=
  s.plainA core ctx i (fpu i fun st a b c => fma32 st a b c)

/-- Comparison of R50: 0 equal, 1 less, 2 less or equal, 3 unordered. -/
def cmpCode (f : Fmt) (strict : Bool) (fn a b : Nat) : Fl Bool :=
  let (x, f1) := f.read strict a
  let (y, f2) := f.read strict b
  let un := x.isNan || y.isNan
  let c := cmpFV x y
  let r := match fn with
    | 0 => !un && decide (c = 0)
    | 1 => !un && decide (c < 0)
    | 2 => !un && decide (c ≤ 0)
    | _ => un
  (r, f1 ||| f2 ||| snanFlag x ||| snanFlag y)

/-- FCMP: a function code above 3 is illegal. -/
def execFcmp (core ctx : Nat) (i : InsA) (s : State) : Out :=
  if i.fn % 1024 ≤ 3 then
    s.scalarOp core ctx (fpu i fun st a b _ => let (r, fl) := cmpCode f32 st (i.fn % 1024) a b; (b2n r, fl))
  else s.issue core ctx fun s => s.trapNop core ctx .illegal

/-- binary32 to a signed 64-bit integer (FCVT 0). -/
def cvtI64 (strict : Bool) (c : Nat) : Fl Nat :=
  let (v, f1) := f32.read strict c
  match v with
  | .nan _ => (0, f1 ||| flIV)
  | .inf n => (if n then 2 ^ 63 else 2 ^ 63 - 1, f1 ||| flIV)
  | .fin n m e =>
    if m = 0 then (0, f1)
    else if magGe m e 1 64 then (if n then 2 ^ 63 else 2 ^ 63 - 1, f1 ||| flIV)
    else
      let (t, ex) := nearestInt n m e
      if t > 2 ^ 63 - 1 then (2 ^ 63 - 1, f1 ||| flIV)
      else if t < -(2 ^ 63) then (2 ^ 63, f1 ||| flIV)
      else (ofSigned 64 t, f1 ||| (if ex then 0 else flNX))

/-- FCVT: a function code above 3 is illegal. No conversion counts a saturation. -/
def execFcvt (core ctx : Nat) (i : InsA) (s : State) : Out :=
  let fn := i.fn % 1024
  if fn ≤ 3 then
    s.scalarOp core ctx fun c =>
      let a := c.get i.a
      let (r, fl) := match fn with
        | 0 => cvtI64 c.strict (a % 2 ^ 32)
        | 1 => cvtFromInt (toSigned 64 a)
        | 2 => narrow c.strict none (a % 2 ^ 32)
        | _ => widen c.strict (a % 2 ^ 16)
      (c.set i.d r, fl)
  else s.issue core ctx fun s => s.trapNop core ctx .illegal

/-! ### Branches and jumps -/

/-- Branch by PC + 4 × IMM where the comparison of S[D] and S[A] holds. -/
def State.branch (s : State) (core ctx : Nat) (i : InsI) (p : Nat → Nat → Bool) : Out :=
  s.issue core ctx fun s =>
    let c := s.ctx core ctx
    let dst := if p (c.get i.d) (c.get i.a) then ofSigned 64 ((c.pc : Int) + 4 * simm i) else (c.pc + 4) % 2 ^ 64
    s.setCtx core ctx { c with pc := dst }

def execBeq (core ctx : Nat) (i : InsI) (s : State) : Out := s.branch core ctx i fun a b => decide (a = b)
def execBne (core ctx : Nat) (i : InsI) (s : State) : Out := s.branch core ctx i fun a b => decide (a ≠ b)
def execBlt (core ctx : Nat) (i : InsI) (s : State) : Out :=
  s.branch core ctx i fun a b => decide (toSigned 64 a < toSigned 64 b)
def execBge (core ctx : Nat) (i : InsI) (s : State) : Out :=
  s.branch core ctx i fun a b => decide (toSigned 64 a ≥ toSigned 64 b)
/-- JAL. -/
def execJal (core ctx : Nat) (i : InsI) (s : State) : Out :=
  s.issue core ctx fun s =>
    let c := s.ctx core ctx
    s.setCtx core ctx { c.set i.d (c.pc + 4) with pc := ofSigned 64 ((c.pc : Int) + 4 * simm i) }
/-- JR: a target that is not 4-byte aligned is a misaligned jump target (R124, R128, R138). -/
def execJr (core ctx : Nat) (i : InsI) (s : State) : Out :=
  s.issue core ctx fun s =>
    let c := s.ctx core ctx
    let dst := iea i c
    if dst % 4 ≠ 0 then s.trapNop core ctx .alignment else s.setCtx core ctx { c with pc := dst }

/-! ### Context and status -/

/-- SPAWN: starts a FREE context in the same operation (R121, R124). -/
def execSpawn (core ctx : Nat) (i : InsA) (s : State) : Out :=
  if i.fn % 1024 ≠ 0 then s.issue core ctx fun s => s.trapNop core ctx .illegal
  else
    s.issue core ctx fun s =>
      let c := s.ctx core ctx
      let n := c.get i.a % 2048
      if (s.ctx core n).st ≠ .free ∨ s.getO Obj.CORE_EXCLUDE core = 1 then
        s.setCtx core ctx { c.set i.d 1 with pc := (c.pc + 4) % 2 ^ 64 }
      else
        let k : Ctx := { pc := c.get i.b, strict := c.strict, sround := c.sround, noexc := c.noexc, tag := c.tag, op := c.op }
        let s := s.setCtx core ctx { c.set i.d 0 with pc := (c.pc + 4) % 2 ^ 64 }
        s.startCtx core n (k.set 1 (c.get i.c))

/-- HALT: the context becomes FREE; its operation is done when every context of it has halted (R121). -/
def execHalt (core ctx : Nat) (i : InsA) (s : State) : Out :=
  if i.fn % 1024 ≠ 0 then s.issue core ctx fun s => s.trapNop core ctx .illegal
  else
    s.issue core ctx fun s =>
      let c := s.ctx core ctx
      let s := s.setCtx core ctx { c with st := .free }
      if s.ctxs.any fun (p : Nat × Ctx) => decide (p.1 / 2048 = core ∧ p.2.op = c.op ∧ p.2.st ≠ .free) then s
      else s.modOp c.op fun o => if o.phase = .executing then { o with phase := .executed } else o

/-- RDST: a function code above 6 is illegal. -/
def execRdst (core ctx : Nat) (i : InsA) (s : State) : Out :=
  let fn := i.fn % 1024
  if fn ≤ 6 then
    s.issue core ctx fun s =>
      let c := s.ctx core ctx
      let v := match fn with
        | 0 => ctx
        | 1 => core
        | 2 => s.count
        | 3 => if c.noexc then c.status % 128 else s.getO Obj.CORE_NUMERIC_FLAGS core
        | 4 => c.status
        | 5 => c.vl
        | _ => c.tag
      s.setCtx core ctx { c.set i.d v with pc := (c.pc + 4) % 2 ^ 64 }
  else s.issue core ctx fun s => s.trapNop core ctx .illegal

/-- SETRC: TID and KORG. -/
def execSetrc (core ctx : Nat) (i : InsA) (s : State) : Out :=
  s.plainA core ctx i fun c => ({ c with tid := c.get i.a % 2 ^ 24, korg := c.get i.b % 2 ^ 48 }, 0)

/-- SETVL: at most 8,192. -/
def execSetvl (core ctx : Nat) (i : InsA) (s : State) : Out :=
  s.plainA core ctx i fun c =>
    let v := min (c.get i.a) 8192
    ({ c with vl := v }.set i.d v, 0)

/-- WAITB: waits until the count is at least S[A] (R122, R124). -/
def execWaitb (core ctx : Nat) (i : InsA) (s : State) : Out :=
  if i.fn % 1024 ≠ 0 then s.issue core ctx fun s => s.trapNop core ctx .illegal
  else
    s.issue core ctx fun s =>
      let c := s.ctx core ctx
      let c := { c with pc := (c.pc + 4) % 2 ^ 64 }
      if s.count ≥ c.get i.a then s.setCtx core ctx (c.set i.d s.count)
      else s.setCtx core ctx { c with st := .waiting, wait := .beat (c.get i.a), dest := i.d }

/-- WAITB_RESUME: the count has reached the operand of a waiting WAITB (R122). -/
def execWaitbResume (core ctx : Nat) (s : State) : Out :=
  if core ≥ 800 ∨ ctx ≥ 2048 then .fault .noSuchUnit
  else
    let c := s.ctx core ctx
    match c.st, c.wait with
    | .waiting, .beat b =>
      .next (if s.count ≥ b then s.setCtx core ctx { c.set c.dest s.count with st := .ready, wait := .none } else s)
    | _, _ => .next s

/-- FENCE: stores are visible as they are made, so the context waits for its DMA submissions (R124, R348). -/
def execFence (core ctx : Nat) (i : InsA) (s : State) : Out :=
  if i.fn % 1024 ≠ 0 then s.issue core ctx fun s => s.trapNop core ctx .illegal
  else
    s.issue core ctx fun s =>
      let c := s.ctx core ctx
      (s.setCtx core ctx { c with pc := (c.pc + 4) % 2 ^ 64, st := .waiting, wait := .fence }).fenceWake core ctx

/-- DMA: submits the descriptor at loft address S[A] to the core's DMA engine, as from a command stream. A descriptor
of another unit is refused (R35). Assumption 96 (DEDUCED). -/
def execDma (core ctx : Nat) (i : InsA) (s : State) : Out :=
  if i.fn % 1024 ≠ 0 then s.issue core ctx fun s => s.trapNop core ctx .illegal
  else
    s.issue core ctx fun s =>
      let a := (s.ctx core ctx).get i.a
      if inLoft core a 64 = false then s.trapNop core ctx .address
      else if a % 64 ≠ 0 then s.trapNop core ctx .alignment
      else
        match s.readDesc a 64 with
        | (s, _, some _) => s.trapNop core ctx .uncorrectable
        | (s, d, none) =>
          let s := s.advance core ctx
          if s.isStopped core 5 then s
          else
            s.submitOp { unit := core, stream := 5, descAddr := a, desc := d, ctx := ctx + 1 } (decide (opUnit d = 5))

/-! ### Semaphores -/

/-- Count argument of a semaphore instruction: bits [31:0] of S[B]. -/
def semArg (c : Ctx) (i : InsA) : Nat := c.get i.b % 2 ^ 32

/-- A semaphore operation of a context: its result goes to S[D]; a misuse is a fault of the context (R346). -/
def State.semIns (s : State) (core ctx : Nat) (i : InsA)
    (f : State → Nat → Nat → SemWho → State × SemRes) : Out :=
  s.issue core ctx fun s =>
    let c := s.ctx core ctx
    let q := c.get i.a % 4096
    let (s', r) := f s q (semArg c i) (.ctx core ctx (i.d % 16))
    let put := fun (v : Nat) =>
      let c := s'.ctx core ctx
      s'.setCtx core ctx { c.set i.d v with pc := (c.pc + 4) % 2 ^ 64 }
    let hold := fun (w : CtxWait) =>
      let c := s'.ctx core ctx
      s'.setCtx core ctx { c with pc := (c.pc + 4) % 2 ^ 64, st := .waiting, wait := w, dest := i.d % 16 }
    match r with
    | .granted => put 0
    | .orphan => put 1
    | .notGranted => put 2
    | .misuse => s'.trapNop core ctx .illegal
    | .queued => hold (.sem q)
    | .unrecorded => hold .unrecorded

/-- SEM FN 0: signal by S[B]. -/
def execSemSignal (core ctx : Nat) (i : InsA) (s : State) : Out :=
  s.semIns core ctx i fun s q n w => s.semSignalOp q n w
/-- SEM FN 1: wait for S[B]. -/
def execSemWait (core ctx : Nat) (i : InsA) (s : State) : Out :=
  s.semIns core ctx i fun s q n w => s.semWaitOp q n false w
/-- SEM FN 2: try for S[B]. -/
def execSemTry (core ctx : Nat) (i : InsA) (s : State) : Out :=
  s.semIns core ctx i fun s q n w => s.semTryOp q n w
/-- SEM FN 3: lock. -/
def execSemLock (core ctx : Nat) (i : InsA) (s : State) : Out :=
  s.semIns core ctx i fun s q _ w => s.semWaitOp q 1 true w
/-- SEM FN 4: unlock. -/
def execSemUnlock (core ctx : Nat) (i : InsA) (s : State) : Out :=
  s.semIns core ctx i fun s q _ w => s.semUnlockOp q w

end Sys2Proof.Machine
end

