-- ==== Sys2Proof/Machine/Vector.lean ====
section
/-! DEFINITION. Vector instructions of a context: arithmetic, special functions, comparison, selection, memory, summaries
and mask logic (R106 to R110, R124 to R130, R132 to R140). -/
namespace Sys2Proof.Machine

/-- A vector source: register, packed or not, and what stands for an element that cannot be read in no-exception mode
(R138). -/
structure VSrc where
  reg : Nat
  h : Bool := false
  sub : Nat := 0x7FC00000
  deriving DecidableEq, Repr

/-- The canonical NaN of an element. -/
def nanOf (h : Bool) : Nat := if h then f16.nan else f32.nan

/-- Read the codewords of every source; the pairs of source and element that are uncorrectable, by element. -/
def State.touchSrcs (s : State) (core : Nat) (es : List Nat) (k : Nat) : List VSrc → State × List (Nat × Nat)
  | [] => (s, [])
  | v :: vs =>
    let (s, bad) := s.touchV core v.reg v.h es
    let (s, r) := s.touchSrcs core es (k + 1) vs
    (s, bad.map (fun (e : Nat) => (k, e)) ++ r)

/-- Record the substitutions of source elements, in the order of the elements. -/
def State.substAll (s : State) (core ctx : Nat) (c : KCause) (es : List Nat) : State :=
  es.foldl (fun (t : State) e => t.substitute core ctx c (some e)) s

/-- The elements an instruction acts on, its mask read and checked (R107, R108): bits that cannot be read are open in
no-exception mode, and none stands for the fault. Assumption 33 (DEDUCED). -/
def State.actives (s : State) (core ctx : Nat) (i : InsV) : State × Option (List Nat) :=
  let all := List.range (s.ctx core ctx).len
  if i.men = false ∨ s.vchk = [] then (s, some (s.active core ctx i))
  else
    let (s, bad) := s.touchM core i.msk all
    if bad = [] then (s, some (s.active core ctx i))
    else if (s.ctx core ctx).noexc = false then (s, none)
    else
      let es := all.filter fun (e : Nat) =>
        if bad.contains e then Config.freeBit (s.freeCtr + e) else bit (s.mask core i.msk) e
      ({ s.substAll core ctx .uncorrectable bad with freeCtr := s.freeCtr + 8192 }, some es)

/-- Run a vector instruction over its sources: `f` gets the active elements and the value of source k at element e. With
VL = 0 nothing changes, S[D] of VRED included (R107, R129). Assumption 109 (DEDUCED). -/
def State.vop (s : State) (core ctx : Nat) (i : InsV) (legal : Bool) (srcs : List VSrc)
    (f : State → List Nat → (Nat → Nat → Nat) → State) : Out :=
  s.issue core ctx fun s =>
    if legal = false then s.trapNop core ctx .illegal
    else if (s.ctx core ctx).vl = 0 then s.advance core ctx
    else
      match s.actives core ctx i with
      | (s, none) => s.kFault core ctx .uncorrectable
      | (s, some es) =>
        let (s, bad) := s.touchSrcs core es 0 srcs
        if bad ≠ [] ∧ (s.ctx core ctx).noexc = false then s.kFault core ctx .uncorrectable
        else
          let s := s.substAll core ctx .uncorrectable
            (es.flatMap fun (e : Nat) => (bad.filter fun (p : Nat × Nat) => decide (p.2 = e)).map (·.2))
          let val := fun (k e : Nat) =>
            let v := srcs.getD k { reg := 0 }
            if bad.contains (k, e) then v.sub else s.velem core v.reg v.h e
          let t := f s es val
          if (t.ctx core ctx).st = .ready then t.advance core ctx else t

/-- Write elements of a destination register. -/
def State.putV (s : State) (core r : Nat) (h : Bool) (xs : List (Nat × Nat)) : State :=
  xs.foldl (fun (t : State) p => t.setVelem core r h p.1 p.2) (s.freshV core r h (xs.map (·.1)))

/-- Flags, saturations and scale records of a vector instruction (R73, R127): in no-exception mode the flags go to the context
and saturations nowhere (R140). -/
def State.vaccount (s : State) (core ctx : Nat) (w : Work) : State :=
  let c := s.ctx core ctx
  if c.noexc then (s.ctxFlags core ctx w.flags 0).recordScale c.tid 0 w.top else s.account core w c.tid

/-- The value of R54 for element i of a binary16 result of a context (R127). -/
def State.ctxW (s : State) (core ctx e : Nat) : Option Nat :=
  let c := s.ctx core ctx
  let step := match s.op? c.op with
    | some o => o.step
    | none => s.getO Obj.WINNOW_STEP
  siteW c.sround (s.getO Obj.WINNOW_JOB_SEED) step c.tid purpOUT16 (c.korg + e) 0

/-- Elementwise arithmetic: `g` gives the code of an element with its flags. -/
def State.elementwise (s : State) (core ctx : Nat) (i : InsV) (h : Bool) (es : List Nat) (g : Nat → Fl Nat) : State :=
  let rs : List (Nat × Fl Nat) := es.map fun (e : Nat) => (e, g e)
  let w : Work := rs.foldl (fun (a : Work) (p : Nat × Fl Nat) =>
    let (_, r) := p
    a.join { flags := r.2, sats := if h ∧ bit r.2 6 then 1 else 0, top := if h then topOf r.1 else none }) {}
  (s.putV core i.d h (rs.map fun (p : Nat × Fl Nat) => (p.1, p.2.1))).vaccount core ctx w

/-- A one-operand function on codes of a format. -/
def op1 (f : Fmt) (strict : Bool) (w : Option Nat) (s : Int) (g : FV → FV) (a : Nat) : Fl Nat :=
  let (x, f1) := f.read strict a
  let (c, f2) := deliver f strict w s (g x)
  (c, f1 ||| f2)

/-- Magnitude. -/
def FV.abs : FV → FV
  | .nan s => .nan s
  | .inf _ => .inf false
  | .fin _ m e => .fin false m e

/-- ABS and NEG are sign operations: a signalling NaN sets no flag. -/
def quietNan : FV → FV
  | .nan _ => .nan false
  | v => v

/-- The result of VARITH function `fn` for one element, with its flags (R124): `f` the format, `w` the value of R54, `sc` the
scale S[C] [7:0], `bc` S[A] [31:0] and `e` the element number; x, y and z are the sources. -/
def varithOf (fn : Nat) (f : Fmt) (st : Bool) (w : Option Nat) (sc : Int) (bc e x y z : Nat) : Fl Nat :=
  match fn with
  | 0 => op2 f st w addFV x y
  | 1 => op2 f st w (fun x y => addFV x y.neg) x y
  | 2 => op2 f st w mulFV x y
  | 3 => op3 f st w fmaFV x y z
  | 4 => op2 f st w minFV x y
  | 5 => op2 f st w maxFV x y
  | 6 => op1 f st w 0 (fun x => quietNan x.abs) x
  | 7 => op1 f st w 0 (fun x => quietNan x.neg) x
  | 8 => op1 f st w 0 (fun x => x.scale sc) x
  | 9 => scaleRead f16 st sc x
  | 10 =>
    let (v, f1) := f32.read st x
    let (r, f2) := deliver f16 st w sc v
    (r, f1 ||| f2)
  | 11 => (bc, 0)
  | 12 => (e, 0)
  | 13 => ((x + y) % 2 ^ 32, 0)
  | 14 => ((x * y) % 2 ^ 32, 0)
  | 15 => cvtU32 st x
  | _ => cvtFromInt x

/-- Format of VARITH's elements, and whether its results are packed. -/
def varithFmt (i : InsV) : Fmt := if i.h then f16 else f32
def varithPacked (i : InsV) : Bool := if i.vfn = 10 then true else i.h

/-- Forms of VARITH that R124 lists: H is used by VFN 0 to 8 only. -/
def varithLegal (i : InsV) : Bool := decide (i.vfn ≤ 16) && (!i.h || decide (i.vfn ≤ 8))

/-- Sources of VARITH. -/
def varithSrcs (i : InsV) : List VSrc :=
  let one : VSrc := { reg := i.a, h := i.h, sub := nanOf i.h }
  let two : List VSrc := [one, { reg := i.b, h := i.h, sub := nanOf i.h }]
  if i.vfn = 3 then two ++ [{ reg := i.c, h := i.h, sub := nanOf i.h }]
  else if i.vfn = 6 ∨ i.vfn = 7 ∨ i.vfn = 8 then [one]
  else if i.vfn = 9 then [{ reg := i.a, h := true, sub := f16.nan }]
  else if i.vfn = 10 ∨ i.vfn = 15 then [{ reg := i.a }]
  else if i.vfn = 11 ∨ i.vfn = 12 then []
  else if i.vfn = 13 ∨ i.vfn = 14 then [{ reg := i.a, sub := 0 }, { reg := i.b, sub := 0 }]
  else if i.vfn = 16 then [{ reg := i.a, sub := 0 }]
  else two

/-- VARITH (R124). -/
def execVarith (core ctx : Nat) (i : InsV) (s : State) : Out :=
  let c := s.ctx core ctx
  s.vop core ctx i (varithLegal i) (varithSrcs i) fun s es v =>
    let w := fun (e : Nat) => if varithPacked i then s.ctxW core ctx e else none
    s.elementwise core ctx i (varithPacked i) es fun (e : Nat) =>
      varithOf i.vfn (varithFmt i) c.strict (w e) (toSigned 8 (c.get i.c)) (c.get i.a % 2 ^ 32) e (v 0 e) (v 1 e) (v 2 e)

/-- The result of VSFN function `fn` for one element (R132 to R136). -/
def vsfnOf (fn : Nat) (st : Bool) (x y : Nat) : Fl Nat :=
  match fn with
  | 0 => exp2N st x
  | 1 => log2N st x
  | 2 => rcpN st x
  | 3 => rsqN st x
  | 4 => divN st x y
  | _ => sqrtN st x

/-- VSFN (R124, R132 to R136). -/
def execVsfn (core ctx : Nat) (i : InsV) (s : State) : Out :=
  let st := (s.ctx core ctx).strict
  s.vop core ctx i (decide (i.vfn ≤ 5) && !i.h) ({ reg := i.a } :: if i.vfn = 4 then [{ reg := i.b }] else []) fun s es v =>
    s.elementwise core ctx i false es fun (e : Nat) => vsfnOf i.vfn st (v 0 e) (v 1 e)

/-- Set the bits of a mask register at some elements. -/
def State.putM (s : State) (core k : Nat) (xs : List (Nat × Bool)) : State :=
  xs.foldl (fun (t : State) p => t.setMask core k (setBits (t.mask core k) p.1 p.1 (b2n p.2))) (s.freshM core k (xs.map (·.1)))

/-- VCMP (R124). -/
def execVcmp (core ctx : Nat) (i : InsV) (s : State) : Out :=
  let st := (s.ctx core ctx).strict
  let f := if i.h then f16 else f32
  s.vop core ctx i (decide (i.d < 8) && decide (i.vfn ≤ 3))
      [{ reg := i.a, h := i.h, sub := nanOf i.h }, { reg := i.b, h := i.h, sub := nanOf i.h }] fun s es v =>
    let rs : List (Nat × Fl Bool) := es.map fun (e : Nat) => (e, cmpCode f st i.vfn (v 0 e) (v 1 e))
    (s.putM core i.d (rs.map fun (p : Nat × Fl Bool) => (p.1, p.2.1))).ctxFlags core ctx
      (rs.foldl (fun (a : Nat) (p : Nat × Fl Bool) => a ||| p.2.2) 0) 0

/-- What an element of unknown type reads as when it cannot be read (R138): the canonical NaN of a floating-point
element, or 0 of an index. Assumption 33 (DEDUCED). -/
def State.untyped (s : State) (h : Bool) : Nat :=
  if h then f16.nan else if Config.freeBit s.freeCtr then f32.nan else 0

/-- VSEL: the mask selects and every element below VL is active (R124). Assumption 33 (DEDUCED). -/
def execVsel (core ctx : Nat) (i : InsV) (s : State) : Out :=
  s.vop core ctx { i with men := false } (i.men && decide (i.vfn = 0)) [] fun s es _ =>
    let (s, badM) := if s.vchk = [] then (s, []) else s.touchM core i.msk es
    let pick := fun (e : Nat) => if badM.contains e then Config.freeBit (s.freeCtr + 1 + e) else bit (s.mask core i.msk) e
    let (s, badA) := s.touchV core i.a i.h (es.filter pick)
    let (s, badB) := s.touchV core i.b i.h (es.filter fun (e : Nat) => !pick e)
    let bad := badM ++ badA ++ badB
    if bad = [] then
      s.putV core i.d i.h (es.map fun (e : Nat) => (e, s.velem core (if pick e then i.a else i.b) i.h e))
    else if (s.ctx core ctx).noexc = false then s.kFault core ctx .uncorrectable
    else
      let t := s.substAll core ctx .uncorrectable (es.filter bad.contains)
      { t.putV core i.d i.h (es.map fun (e : Nat) =>
          (e, if badA.contains e ∨ badB.contains e then s.untyped i.h
            else s.velem core (if pick e then i.a else i.b) i.h e)) with freeCtr := s.freeCtr + 8193 }

/-! ### Vector memory -/

/-- Address of an element access in the core's loft, or its fault (R125, R126): of several, the index comes before the address
and that before the alignment, and the lowest element counts. Assumption 110 (DESIGN CHOICE). -/
def vAddr (core : Nat) (h : Bool) (bound : Option (Nat × Nat)) (a : Nat) : Except KCause Nat :=
  let n := if h then 2 else 4
  let ovf := match bound with
    | some (ix, b) => decide (ix ≥ b)
    | none => false
  if ovf then .error .index
  else if inLoft core a n = false then .error .address
  else if a % n ≠ 0 then .error .alignment
  else .ok a

/-- Outcome of reading the elements in turn: the values read, or the first element that faults. -/
def State.vread (s : State) (n : Nat) : List (Nat × Except KCause Nat) → State × Except (Nat × KCause) (List (Nat × Nat))
  | [] => (s, .ok [])
  | (e, .error k) :: _ => (s, .error (e, k))
  | (e, .ok a) :: rest =>
    match s.readMem a n with
    | (s, _, some _) => (s, .error (e, .uncorrectable))
    | (s, bs, none) =>
      match s.vread n rest with
      | (s, .ok xs) => (s, .ok ((e, ofBytes bs) :: xs))
      | (s, .error x) => (s, .error x)

/-- A load that stops the kernel: which other elements had been loaded is open. Assumption 35 (DEDUCED). -/
def State.someLoads (s : State) (core r : Nat) (h : Bool) (n : Nat) : List (Nat × Except KCause Nat) → State
  | [] => s
  | (e, x) :: rest =>
    let yes := Config.freeBit s.freeCtr
    let s := s.drew
    let s := match x with
      | .ok a =>
        if yes then
          match s.readMem a n with
          | (t, bs, none) => t.putV core r h [(e, ofBytes bs)]
          | (_, _, some _) => s
        else s
      | .error _ => s
    s.someLoads core r h n rest

/-- Loads in no-exception mode, element by element with substitutes (R138). -/
def State.substLoads (s : State) (core ctx : Nat) (h : Bool) (n : Nat) :
    List (Nat × Except KCause Nat) → State × List (Nat × Nat)
  | [] => (s, [])
  | (e, .error k) :: rest =>
    let (s, vs) := (s.substitute core ctx k (some e)).substLoads core ctx h n rest
    (s, (e, 0) :: vs)
  | (e, .ok a) :: rest =>
    let (t, v) := match s.readMem a n with
      | (t, bs, none) => (t, ofBytes bs)
      | (t, _, some _) => ((t.substitute core ctx .uncorrectable (some e)).drew, t.untyped h)
    let (s, vs) := t.substLoads core ctx h n rest
    (s, (e, v) :: vs)

/-- Load elements into V[D]. -/
def State.vloads (s : State) (core ctx : Nat) (i : InsV) (xs : List (Nat × Except KCause Nat)) : State :=
  let n := if i.h then 2 else 4
  if (s.ctx core ctx).noexc then
    let (t, vs) := s.substLoads core ctx i.h n xs
    t.putV core i.d i.h vs
  else
    match s.vread n xs with
    | (t, .ok vs) => t.putV core i.d i.h vs
    | (_, .error (e, k)) =>
      let t := match (xs.lookup e) with
        | some (.ok a) => (s.readMem a n).1
        | _ => s
      (t.someLoads core i.d i.h n (xs.filter fun (p : Nat × Except KCause Nat) => decide (p.1 ≠ e))).kFault core ctx k

/-- Store elements in turn, up to the first that faults. -/
def State.vwrite (s : State) (n : Nat) (val : Nat → Nat) : List (Nat × Except KCause Nat) → State × Option (Nat × KCause)
  | [] => (s, none)
  | (e, .error k) :: _ => (s, some (e, k))
  | (e, .ok a) :: rest =>
    match s.writeMem a (leBytes n (val e)) with
    | (s, some _) => (s, some (e, .uncorrectable))
    | (s, none) => s.vwrite n val rest

def State.someStores (s : State) (n : Nat) (val : Nat → Nat) : List (Nat × Except KCause Nat) → State
  | [] => s
  | (e, x) :: rest =>
    let yes := Config.freeBit s.freeCtr
    let s := s.drew
    let s := match x with
      | .ok a =>
        if yes then
          match s.writeMem a (leBytes n (val e)) with
          | (t, none) => t
          | (_, some _) => s
        else s
      | .error _ => s
    s.someStores n val rest

def State.substStores (s : State) (core ctx n : Nat) (val : Nat → Nat) : List (Nat × Except KCause Nat) → State
  | [] => s
  | (e, .error k) :: rest => (s.substitute core ctx k (some e)).substStores core ctx n val rest
  | (e, .ok a) :: rest =>
    match s.writeMem a (leBytes n (val e)) with
    | (t, none) => t.substStores core ctx n val rest
    | (t, some _) => (t.substitute core ctx .uncorrectable (some e)).substStores core ctx n val rest

/-- Store the elements of V[D]. A higher-numbered element that writes the same bytes lands last (R126).
Assumption 35 (DEDUCED). -/
def State.vstores (s : State) (core ctx : Nat) (i : InsV) (val : Nat → Nat) (xs : List (Nat × Except KCause Nat)) : State :=
  let n := if i.h then 2 else 4
  if (s.ctx core ctx).noexc then s.substStores core ctx n val xs
  else
    match s.vwrite n val xs with
    | (t, none) => t
    | (_, some (e, k)) =>
      let t := match (xs.lookup e) with
        | some (.ok a) => (s.writeMem a (leBytes n (val e))).1
        | _ => s
      (t.someStores n val (xs.filter fun (p : Nat × Except KCause Nat) => decide (p.1 ≠ e))).kFault core ctx k

/-- Element addresses of VLD and VST. -/
def strided (core : Nat) (c : Ctx) (i : InsV) (es : List Nat) : List (Nat × Except KCause Nat) :=
  let t := if c.get i.b = 0 then (if i.h then 2 else 4) else c.get i.b
  es.map fun (e : Nat) => (e, vAddr core i.h none ((c.get i.a + e * t) % 2 ^ 64))

/-- Element addresses of VGATHER and VSCATTER, by the index vector. -/
def indexed (core : Nat) (c : Ctx) (i : InsV) (ix : Nat → Nat) (es : List Nat) : List (Nat × Except KCause Nat) :=
  es.map fun (e : Nat) =>
    (e, vAddr core i.h (some (ix e, c.get i.c)) ((c.get i.a + (if i.h then 2 else 4) * ix e) % 2 ^ 64))

/-- A stored register's source in a vector store. -/
def State.storeSrc (s : State) (i : InsV) : VSrc := { reg := i.d, h := i.h, sub := s.untyped i.h }

/-- VLD. -/
def execVld (core ctx : Nat) (i : InsV) (s : State) : Out :=
  s.vop core ctx i true [] fun s es _ => s.vloads core ctx i (strided core (s.ctx core ctx) i es)

/-- VST. -/
def execVst (core ctx : Nat) (i : InsV) (s : State) : Out :=
  s.vop core ctx i true [s.storeSrc i] fun s es v => (s.vstores core ctx i (v 0) (strided core (s.ctx core ctx) i es)).drew

/-- VGATHER. -/
def execVgather (core ctx : Nat) (i : InsV) (s : State) : Out :=
  s.vop core ctx i true [{ reg := i.b, sub := 0 }] fun s es v =>
    s.vloads core ctx i (indexed core (s.ctx core ctx) i (v 0) es)

/-- VSCATTER. -/
def execVscatter (core ctx : Nat) (i : InsV) (s : State) : Out :=
  s.vop core ctx i true [{ reg := i.b, sub := 0 }, s.storeSrc i] fun s es v =>
    (s.vstores core ctx i (v 1) (indexed core (s.ctx core ctx) i (v 0) es)).drew

/-! ### Summaries and mask logic -/

/-- The sum of R130: 128 strided partial sums, then their sum in ascending order. `x` gives an active element. -/
def vredSum (strict : Bool) (vl : Nat) (active : Nat → Bool) (x : Nat → Nat) : Fl Nat :=
  let z0 := if strict then f32.zero true else 0
  let add := fun (a : Fl Nat) (b : Fl Nat) =>
    let (c, fl) := add32 strict a.1 b.1
    (c, a.2 ||| b.2 ||| fl)
  let part := fun (g : Nat) =>
    ((List.range (cdiv vl 128)).map fun (k : Nat) => g + 128 * k).foldl
      (fun (p : Fl Nat) e => if e < vl ∧ active e then add p (x e, 0) else p) (z0, 0)
  (List.range 127).foldl (fun (t : Fl Nat) g => add t (part (g + 1))) (part 0)

/-- VRED over mask bits (VFN 0 to 3). -/
def vredMask (fn : Nat) (bs : List (Nat × Bool)) : Nat :=
  match fn with
  | 0 => b2n (bs.any (·.2))
  | 1 => b2n (bs.all (·.2))
  | 2 => (bs.filter (·.2)).length
  | _ => ((bs.filter (·.2)).head?).elim 0xFFFFFFFF (·.1)

/-- Write S[D] of a vector instruction. -/
def State.putS (s : State) (core ctx d v : Nat) : State := s.setCtx core ctx ((s.ctx core ctx).set d v)

/-- VRED (R129, R130). -/
def execVred (core ctx : Nat) (i : InsV) (s : State) : Out :=
  let st := (s.ctx core ctx).strict
  let fn := i.vfn
  let srcs : List VSrc := if fn ≤ 3 then [] else [{ reg := i.a, h := i.h, sub := nanOf i.h }]
  s.vop core ctx i (decide (fn ≤ 6)) srcs fun s es v =>
    if fn ≤ 3 then
      let (s, bad) := if s.vchk = [] then (s, []) else s.touchM core i.a es
      if bad ≠ [] ∧ (s.ctx core ctx).noexc = false then s.kFault core ctx .uncorrectable
      else
        let s := s.substAll core ctx .uncorrectable bad
        let r := vredMask fn (es.map fun (e : Nat) =>
          (e, if bad.contains e then Config.freeBit (s.freeCtr + e) else bit (s.mask core i.a) e))
        let s := if bad = [] then s else { s with freeCtr := s.freeCtr + 8192 }
        s.putS core ctx i.d r
    else
      let wide := fun (e : Nat) => if i.h then widen st (v 0 e) else (v 0 e, 0)
      let fl0 := es.foldl (fun (a : Nat) e => a ||| (wide e).2) 0
      let (r, fl) :=
        if fn = 6 then vredSum st (s.ctx core ctx).len es.contains (fun e => (wide e).1)
        else
          es.foldl (fun (p : Fl Nat) e =>
              let (c, f) := if fn = 4 then min32 st p.1 (wide e).1 else max32 st p.1 (wide e).1
              (c, p.2 ||| f)) (f32.inf (decide (fn = 5)), 0)
      (s.putS core ctx i.d r).ctxFlags core ctx (fl0 ||| fl) 0

/-- The result of MOP function `fn` for one bit (R124). -/
def mopOf (fn : Nat) (x y : Bool) : Bool :=
  match fn with
  | 0 => x && y
  | 1 => x || y
  | 2 => xor x y
  | 3 => x && !y
  | 4 => !x
  | 5 => true
  | _ => false

/-- MOP (R124). Assumption 33 (DEDUCED). -/
def execMop (core ctx : Nat) (i : InsV) (s : State) : Out :=
  let fn := i.vfn
  s.vop core ctx i (decide (fn ≤ 6)) [] fun s es _ =>
    let (s, badA) := if s.vchk = [] ∨ fn ≥ 5 then (s, []) else s.touchM core i.a es
    let (s, badB) := if s.vchk = [] ∨ fn ≥ 4 then (s, []) else s.touchM core i.b es
    let bad := badA ++ badB
    if bad ≠ [] ∧ (s.ctx core ctx).noexc = false then s.kFault core ctx .uncorrectable
    else
      let s := s.substAll core ctx .uncorrectable bad
      let a := fun (e : Nat) => if badA.contains e then Config.freeBit (s.freeCtr + e) else bit (s.mask core i.a) e
      let b := fun (e : Nat) => if badB.contains e then Config.freeBit (s.freeCtr + 8192 + e) else bit (s.mask core i.b) e
      let r := fun (e : Nat) => mopOf fn (a e) (b e)
      let t := s.putM core i.d (es.map fun (e : Nat) => (e, r e))
      if bad = [] then t else { t with freeCtr := s.freeCtr + 16384 }

end Sys2Proof.Machine
end

