-- ==== Sys2Proof/Machine/Dispatch.lean ====
section
/-! DEFINITION. Every command and the one meaning it calls. -/
namespace Sys2Proof.Machine

def exec (i : Instr) (s : State) : Host.Outcome State Fault Refusal :=
  match i with
  | .matmul op => Sys2Proof.Machine.execMatmul op s
  | .matmulPartial op => Sys2Proof.Machine.execMatmulPartial op s
  | .partialSum op => Sys2Proof.Machine.execPartialSum op s
  | .permute op => Sys2Proof.Machine.execPermute op s
  | .convert op => Sys2Proof.Machine.execConvert op s
  | .runKernel op => Sys2Proof.Machine.execRunKernel op s
  | .conv op => Sys2Proof.Machine.execConv op s
  | .pool op => Sys2Proof.Machine.execPool op s
  | .attn op => Sys2Proof.Machine.execAttn op s
  | .attnPartial op => Sys2Proof.Machine.execAttnPartial op s
  | .attnMerge op => Sys2Proof.Machine.execAttnMerge op s
  | .cribAppend op => Sys2Proof.Machine.execCribAppend op s
  | .cribShare op => Sys2Proof.Machine.execCribShare op s
  | .cribFree op => Sys2Proof.Machine.execCribFree op s
  | .cribReclaim => Sys2Proof.Machine.execCribReclaim s
  | .copy op flit noise => Sys2Proof.Machine.execCopy op flit noise s
  | .fill op => Sys2Proof.Machine.execFill op s
  | .groupStep op => Sys2Proof.Machine.execGroupStep op s
  | .groupStepLocal op => Sys2Proof.Machine.execGroupStepLocal op s
  | .updateElementApply op e => Sys2Proof.Machine.execUpdateElementApply op e s
  | .baleReduce op => Sys2Proof.Machine.execBaleReduce op s
  | .baleStart op flip => Sys2Proof.Machine.execBaleStart op flip s
  | .reductionPacketReceive port p flip => Sys2Proof.Machine.execReductionPacketReceive port p flip s
  | .threshRun op => Sys2Proof.Machine.execThreshRun op s
  | .mergeLoad op => Sys2Proof.Machine.execMergeLoad op s
  | .sampleDescriptorTake die => Sys2Proof.Machine.execSampleDescriptorTake die s
  | .sampleDecodeComplete die k => Sys2Proof.Machine.execSampleDecodeComplete die k s
  | .slotEmit die => Sys2Proof.Machine.execSlotEmit die s
  | .opWaitGrant op => Sys2Proof.Machine.execOpWaitGrant op s
  | .opLeaveGrant => Sys2Proof.Machine.execOpLeaveGrant s
  | .operationComplete op => Sys2Proof.Machine.execOperationComplete op s
  | .opAbandoned op => Sys2Proof.Machine.execOpAbandoned op s
  | .add core ctx w => Sys2Proof.Machine.execAdd core ctx w s
  | .sub core ctx w => Sys2Proof.Machine.execSub core ctx w s
  | .mul core ctx w => Sys2Proof.Machine.execMul core ctx w s
  | .divu core ctx w => Sys2Proof.Machine.execDivu core ctx w s
  | .and core ctx w => Sys2Proof.Machine.execAnd core ctx w s
  | .or core ctx w => Sys2Proof.Machine.execOr core ctx w s
  | .xor core ctx w => Sys2Proof.Machine.execXor core ctx w s
  | .shl core ctx w => Sys2Proof.Machine.execShl core ctx w s
  | .shr core ctx w => Sys2Proof.Machine.execShr core ctx w s
  | .sar core ctx w => Sys2Proof.Machine.execSar core ctx w s
  | .slt core ctx w => Sys2Proof.Machine.execSlt core ctx w s
  | .sltu core ctx w => Sys2Proof.Machine.execSltu core ctx w s
  | .addi core ctx w => Sys2Proof.Machine.execAddi core ctx w s
  | .insi core ctx w => Sys2Proof.Machine.execInsi core ctx w s
  | .fadd core ctx w => Sys2Proof.Machine.execFadd core ctx w s
  | .fmul core ctx w => Sys2Proof.Machine.execFmul core ctx w s
  | .ffma core ctx w => Sys2Proof.Machine.execFfma core ctx w s
  | .fcmp core ctx w => Sys2Proof.Machine.execFcmp core ctx w s
  | .fcvt core ctx w => Sys2Proof.Machine.execFcvt core ctx w s
  | .ld8 core ctx w noise => Sys2Proof.Machine.execLd8 core ctx w noise s
  | .ld16 core ctx w noise => Sys2Proof.Machine.execLd16 core ctx w noise s
  | .ld32 core ctx w noise => Sys2Proof.Machine.execLd32 core ctx w noise s
  | .ld64 core ctx w noise => Sys2Proof.Machine.execLd64 core ctx w noise s
  | .st8 core ctx w => Sys2Proof.Machine.execSt8 core ctx w s
  | .st16 core ctx w => Sys2Proof.Machine.execSt16 core ctx w s
  | .st32 core ctx w => Sys2Proof.Machine.execSt32 core ctx w s
  | .st64 core ctx w => Sys2Proof.Machine.execSt64 core ctx w s
  | .beq core ctx w => Sys2Proof.Machine.execBeq core ctx w s
  | .bne core ctx w => Sys2Proof.Machine.execBne core ctx w s
  | .blt core ctx w => Sys2Proof.Machine.execBlt core ctx w s
  | .bge core ctx w => Sys2Proof.Machine.execBge core ctx w s
  | .jal core ctx w => Sys2Proof.Machine.execJal core ctx w s
  | .jr core ctx w => Sys2Proof.Machine.execJr core ctx w s
  | .semSignal core ctx w => Sys2Proof.Machine.execSemSignal core ctx w s
  | .semWait core ctx w => Sys2Proof.Machine.execSemWait core ctx w s
  | .semTry core ctx w => Sys2Proof.Machine.execSemTry core ctx w s
  | .semLock core ctx w => Sys2Proof.Machine.execSemLock core ctx w s
  | .semUnlock core ctx w => Sys2Proof.Machine.execSemUnlock core ctx w s
  | .semWaitReissue n => Sys2Proof.Machine.execSemWaitReissue n s
  | .waitb core ctx w => Sys2Proof.Machine.execWaitb core ctx w s
  | .waitbResume core ctx => Sys2Proof.Machine.execWaitbResume core ctx s
  | .fence core ctx w => Sys2Proof.Machine.execFence core ctx w s
  | .dma core ctx w => Sys2Proof.Machine.execDma core ctx w s
  | .spawn core ctx w => Sys2Proof.Machine.execSpawn core ctx w s
  | .halt core ctx w => Sys2Proof.Machine.execHalt core ctx w s
  | .rdst core ctx w => Sys2Proof.Machine.execRdst core ctx w s
  | .setrc core ctx w => Sys2Proof.Machine.execSetrc core ctx w s
  | .setvl core ctx w => Sys2Proof.Machine.execSetvl core ctx w s
  | .varith core ctx w => Sys2Proof.Machine.execVarith core ctx w s
  | .vsfn core ctx w => Sys2Proof.Machine.execVsfn core ctx w s
  | .vcmp core ctx w => Sys2Proof.Machine.execVcmp core ctx w s
  | .vsel core ctx w => Sys2Proof.Machine.execVsel core ctx w s
  | .vld core ctx w => Sys2Proof.Machine.execVld core ctx w s
  | .vst core ctx w => Sys2Proof.Machine.execVst core ctx w s
  | .vgather core ctx w => Sys2Proof.Machine.execVgather core ctx w s
  | .vscatter core ctx w => Sys2Proof.Machine.execVscatter core ctx w s
  | .vred core ctx w => Sys2Proof.Machine.execVred core ctx w s
  | .mop core ctx w => Sys2Proof.Machine.execMop core ctx w s
  | .producerDoorbell ring value => Sys2Proof.Machine.execProducerDoorbell ring value s
  | .consumerDoorbell ring value => Sys2Proof.Machine.execConsumerDoorbell ring value s
  | .commandDescriptorTake ring => Sys2Proof.Machine.execCommandDescriptorTake ring s
  | .queueCfgWrite src member value => Sys2Proof.Machine.execQueueCfgWrite src member value s
  | .hostSemSignal src => Sys2Proof.Machine.execHostSemSignal src s
  | .hostSemTry src => Sys2Proof.Machine.execHostSemTry src s
  | .hostSemLock src => Sys2Proof.Machine.execHostSemLock src s
  | .hostSemUnlock src => Sys2Proof.Machine.execHostSemUnlock src s
  | .semActSet src => Sys2Proof.Machine.execSemActSet src s
  | .semRecoveryClear src => Sys2Proof.Machine.execSemRecoveryClear src s
  | .furrowStart table epoch entry => Sys2Proof.Machine.execFurrowStart table epoch entry s
  | .furrowSignal table epoch entry => Sys2Proof.Machine.execFurrowSignal table epoch entry s
  | .furrowMark table epoch entry => Sys2Proof.Machine.execFurrowMark table epoch entry s
  | .portSlot table epoch entry => Sys2Proof.Machine.execPortSlot table epoch entry s
  | .watchPoint table epoch entry => Sys2Proof.Machine.execWatchPoint table epoch entry s
  | .reservationPoint table epoch entry => Sys2Proof.Machine.execReservationPoint table epoch entry s
  | .reservationRetry => Sys2Proof.Machine.execReservationRetry s
  | .overrun table epoch entry => Sys2Proof.Machine.execOverrun table epoch entry s
  | .furrowLoad src => Sys2Proof.Machine.execFurrowLoad src s
  | .furrowLoadComplete => Sys2Proof.Machine.execFurrowLoadComplete s
  | .furrowSwapCancel src => Sys2Proof.Machine.execFurrowSwapCancel src s
  | .bankSwap table => Sys2Proof.Machine.execBankSwap table s
  | .almanacTick => Sys2Proof.Machine.execAlmanacTick s
  | .beaconSend => Sys2Proof.Machine.execBeaconSend s
  | .beaconReceive port b rxPs lmaxNs => Sys2Proof.Machine.execBeaconReceive port b rxPs lmaxNs s
  | .almanacLost => Sys2Proof.Machine.execAlmanacLost s
  | .lockHopsReport origin hf hi => Sys2Proof.Machine.execLockHopsReport origin hf hi s
  | .hold port m => Sys2Proof.Machine.execHold port m s
  | .release port m => Sys2Proof.Machine.execRelease port m s
  | .resume port m => Sys2Proof.Machine.execResume port m s
  | .masterResume => Sys2Proof.Machine.execMasterResume s
  | .holdLimit => Sys2Proof.Machine.execHoldLimit s
  | .schedStart src e0 => Sys2Proof.Machine.execSchedStart src e0 s
  | .start port m => Sys2Proof.Machine.execStart port m s
  | .startTick => Sys2Proof.Machine.execStartTick s
  | .schedStop src => Sys2Proof.Machine.execSchedStop src s
  | .stopRequest port m => Sys2Proof.Machine.execStopRequest port m s
  | .stop port m => Sys2Proof.Machine.execStop port m s
  | .stopComplete => Sys2Proof.Machine.execStopComplete s
  | .epochBoundary sec ns => Sys2Proof.Machine.execEpochBoundary sec ns s
  | .stepBoundary => Sys2Proof.Machine.execStepBoundary s
  | .censusRecordReceive src level r => Sys2Proof.Machine.execCensusRecordReceive src level r s
  | .ptpEventMessage port f t ppb => Sys2Proof.Machine.execPtpEventMessage port f t ppb s
  | .ptpSourceLost => Sys2Proof.Machine.execPtpSourceLost s
  | .linkFrameReceive port lanes => Sys2Proof.Machine.execLinkFrameReceive port lanes s
  | .linkFrameTransmit f => Sys2Proof.Machine.execLinkFrameTransmit f s
  | .sendDataReceive port src dst dsem en bytes bad => Sys2Proof.Machine.execSendDataReceive port src dst dsem en bytes bad s
  | .portFecLock port => Sys2Proof.Machine.execPortFecLock port s
  | .portCheck port partner beatNs exts lenDm rttNs => Sys2Proof.Machine.execPortCheck port partner beatNs exts lenDm rttNs s
  | .portTrainTimeout port => Sys2Proof.Machine.execPortTrainTimeout port s
  | .portFecLoss port => Sys2Proof.Machine.execPortFecLoss port s
  | .portFecRateWindow port => Sys2Proof.Machine.execPortFecRateWindow port s
  | .laserLow port uw => Sys2Proof.Machine.execLaserLow port uw s
  | .portRetrain src port => Sys2Proof.Machine.execPortRetrain src port s
  | .ethFrameReceive port f => Sys2Proof.Machine.execEthFrameReceive port f s
  | .arpRequest port f target senderIp => Sys2Proof.Machine.execArpRequest port f target senderIp s
  | .neighbourSolicitation port f target senderIp => Sys2Proof.Machine.execNeighbourSolicitation port f target senderIp s
  | .echoRequest port f target senderIp => Sys2Proof.Machine.execEchoRequest port f target senderIp s
  | .roceSend p => Sys2Proof.Machine.execRoceSend p s
  | .rdmaWrite p => Sys2Proof.Machine.execRdmaWrite p s
  | .rdmaReadRequest p => Sys2Proof.Machine.execRdmaReadRequest p s
  | .cnp p us => Sys2Proof.Machine.execCnp p us s
  | .roceInvalidOpcode p => Sys2Proof.Machine.execRoceInvalidOpcode p s
  | .roceRateIncrease qp => Sys2Proof.Machine.execRoceRateIncrease qp s
  | .pfcFrameReceive port f x => Sys2Proof.Machine.execPfcFrameReceive port f x s
  | .pfcXoffRepeat port => Sys2Proof.Machine.execPfcXoffRepeat port s
  | .pfcStorm port prio => Sys2Proof.Machine.execPfcStorm port prio s
  | .ethRestart src port => Sys2Proof.Machine.execEthRestart src port s
  | .hello h body => Sys2Proof.Machine.execHello h body s
  | .confirm h body => Sys2Proof.Machine.execConfirm h body s
  | .handshakeTimeout slot => Sys2Proof.Machine.execHandshakeTimeout slot s
  | .read src idx sub => Sys2Proof.Machine.execRead src idx sub s
  | .write src idx sub t value => Sys2Proof.Machine.execWrite src idx sub t value s
  | .segRead src idx sub offset => Sys2Proof.Machine.execSegRead src idx sub offset s
  | .segWriteStart h idx sub total => Sys2Proof.Machine.execSegWriteStart h idx sub total s
  | .segWriteData h offset data => Sys2Proof.Machine.execSegWriteData h offset data s
  | .segWriteEnd h digest => Sys2Proof.Machine.execSegWriteEnd h digest s
  | .close h => Sys2Proof.Machine.execClose h s
  | .ping h => Sys2Proof.Machine.execPing h s
  | .sessionExpiry slot => Sys2Proof.Machine.execSessionExpiry slot s
  | .sessionSelClose src => Sys2Proof.Machine.execSessionSelClose src s
  | .ownerLockTake src => Sys2Proof.Machine.execOwnerLockTake src s
  | .ownerLockRelease src => Sys2Proof.Machine.execOwnerLockRelease src s
  | .store src => Sys2Proof.Machine.execStore src s
  | .storeComplete flashOk sigOk => Sys2Proof.Machine.execStoreComplete flashOk sigOk s
  | .restore src => Sys2Proof.Machine.execRestore src s
  | .defaults src => Sys2Proof.Machine.execDefaults src s
  | .numericFlagsClear src mask => Sys2Proof.Machine.execNumericFlagsClear src mask s
  | .coreFlagsClear src core mask => Sys2Proof.Machine.execCoreFlagsClear src core mask s
  | .updateFlagsClear src mask => Sys2Proof.Machine.execUpdateFlagsClear src mask s
  | .reduceFlagsClear src mask => Sys2Proof.Machine.execReduceFlagsClear src mask s
  | .threshFlagsClear src mask => Sys2Proof.Machine.execThreshFlagsClear src mask s
  | .supplyWarnClear src mask => Sys2Proof.Machine.execSupplyWarnClear src mask s
  | .pllLossClear src mask => Sys2Proof.Machine.execPllLossClear src mask s
  | .attnEmptyFlagClear src => Sys2Proof.Machine.execAttnEmptyFlagClear src s
  | .errClearCounts src => Sys2Proof.Machine.execErrClearCounts src s
  | .errClearFaultMap src => Sys2Proof.Machine.execErrClearFaultMap src s
  | .winnowProbe src member value => Sys2Proof.Machine.execWinnowProbe src member value s
  | .shufProbe src value => Sys2Proof.Machine.execShufProbe src value s
  | .shufSamplesWrite src value => Sys2Proof.Machine.execShufSamplesWrite src value s
  | .cribPoolInit src => Sys2Proof.Machine.execCribPoolInit src s
  | .cribPoolRelease src => Sys2Proof.Machine.execCribPoolRelease src s
  | .matrixSelftestRun src => Sys2Proof.Machine.execMatrixSelftestRun src s
  | .matrixSelftestComplete failing => Sys2Proof.Machine.execMatrixSelftestComplete failing s
  | .reduceResidueTest src => Sys2Proof.Machine.execReduceResidueTest src s
  | .residueTestComplete missed => Sys2Proof.Machine.execResidueTestComplete missed s
  | .coreExclude src core value => Sys2Proof.Machine.execCoreExclude src core value s
  | .attestNonce h digest => Sys2Proof.Machine.execAttestNonce h digest s
  | .attestReportBuilt slot => Sys2Proof.Machine.execAttestReportBuilt slot s
  | .fwUpdateImage h digest => Sys2Proof.Machine.execFwUpdateImage h digest s
  | .fwStageComplete flashOk => Sys2Proof.Machine.execFwStageComplete flashOk s
  | .fwActivate src kind => Sys2Proof.Machine.execFwActivate src kind s
  | .fwSvnAdvance src => Sys2Proof.Machine.execFwSvnAdvance src s
  | .fwSelfConfirm kind => Sys2Proof.Machine.execFwSelfConfirm kind s
  | .fwTrialExpired kind => Sys2Proof.Machine.execFwTrialExpired kind s
  | .warm => Sys2Proof.Machine.execWarm s
  | .dieReset die => Sys2Proof.Machine.execDieReset die s
  | .coreReset core => Sys2Proof.Machine.execCoreReset core s
  | .portReset port => Sys2Proof.Machine.execPortReset port s
  | .fieldRestart => Sys2Proof.Machine.execFieldRestart s
  | .por => Sys2Proof.Machine.execPor s
  | .powerUp => Sys2Proof.Machine.execPowerUp s
  | .resetN lowUs => Sys2Proof.Machine.execResetN lowUs s
  | .bootStageComplete ok detail => Sys2Proof.Machine.execBootStageComplete ok detail s
  | .stewardWatchdog n => Sys2Proof.Machine.execStewardWatchdog n s
  | .p0Request src => Sys2Proof.Machine.execP0Request src s
  | .p1Request src => Sys2Proof.Machine.execP1Request src s
  | .fallowRequest src => Sys2Proof.Machine.execFallowRequest src s
  | .p1Exit => Sys2Proof.Machine.execP1Exit s
  | .fallowExitStep ok ms => Sys2Proof.Machine.execFallowExitStep ok ms s
  | .supplyWarning rail mv => Sys2Proof.Machine.execSupplyWarning rail mv s
  | .supplyRecovery => Sys2Proof.Machine.execSupplyRecovery s
  | .supplyReset rail mv => Sys2Proof.Machine.execSupplyReset rail mv s
  | .powerOverLimit mw => Sys2Proof.Machine.execPowerOverLimit mw s
  | .leaveCorrectionUpdate pm meanHeld => Sys2Proof.Machine.execLeaveCorrectionUpdate pm meanHeld s
  | .thermalReading temps powerMw rails => Sys2Proof.Machine.execThermalReading temps powerMw rails s
  | .thermtrip die => Sys2Proof.Machine.execThermtrip die s
  | .clkRampStep die => Sys2Proof.Machine.execClkRampStep die s
  | .clkCoreSrc src die value => Sys2Proof.Machine.execClkCoreSrc src die value s
  | .pllReferenceLoss pll refclk => Sys2Proof.Machine.execPllReferenceLoss pll refclk s
  | .pllRelock pll => Sys2Proof.Machine.execPllRelock pll s
  | .clockLossStop pll => Sys2Proof.Machine.execClockLossStop pll s
  | .memTempRead package temp => Sys2Proof.Machine.execMemTempRead package temp s
  | .refresh subch bank => Sys2Proof.Machine.execRefresh subch bank s
  | .memScrubRead subch upset0 upset1 late => Sys2Proof.Machine.execMemScrubRead subch upset0 upset1 late s
  | .bridgeFlitReceive bridge dir noise replayed => Sys2Proof.Machine.execBridgeFlitReceive bridge dir noise replayed s
  | .arbC3Window point flits => Sys2Proof.Machine.execArbC3Window point flits s
  | .errorRecordReceive rec => Sys2Proof.Machine.execErrorRecordReceive rec s
  | .laserInputPresent port uw => Sys2Proof.Machine.execLaserInputPresent port uw s
  | .portEnable src port value => Sys2Proof.Machine.execPortEnable src port value s
  | .ethLinkUp l => Sys2Proof.Machine.execEthLinkUp l s
  | .ethLinkDown port => Sys2Proof.Machine.execEthLinkDown port s
  | .pfcPauseExpiry port prio => Sys2Proof.Machine.execPfcPauseExpiry port prio s
  | .overLimitFreezeEnd mw => Sys2Proof.Machine.execOverLimitFreezeEnd mw s
  | .fallowEntryStep => Sys2Proof.Machine.execFallowEntryStep s
  | .resetComplete => Sys2Proof.Machine.execResetComplete s
  | .stewardSemOperation steward op sem arg => Sys2Proof.Machine.execStewardSemOperation steward op sem arg s

end Sys2Proof.Machine
end

