-- ==== Sys2Proof/WellFormed.lean ====
section
/-! DEFINITION. Which commands can occur: every operand within the width or the count that the manual gives it. A
command of this form is never answered with a fault. -/
namespace Sys2Proof

/-- A number of `w` bits. -/
def fits (w n : Nat) : Bool := decide (n < 2 ^ w)

/-- A core and one of its contexts (R14, R111). -/
def wfCtx (core ctx : Nat) : Bool := decide (core < 800) && decide (ctx < 2048)

/-- Each number of a record fits its field: widths with values. -/
def fields (xs : List (Nat × Nat)) : Bool := xs.all fun x => fits x.1 x.2

/-- Fields of format A (R123). -/
def InsA.wf (i : InsA) : Bool := fields [(4, i.d), (4, i.a), (4, i.b), (4, i.c), (10, i.fn)]

/-- Fields of format I (R123). -/
def InsI.wf (i : InsI) : Bool := fields [(4, i.d), (4, i.a)] && decide (-(2 ^ 17) ≤ i.imm ∧ i.imm < 2 ^ 17)

/-- Fields of format V (R123). -/
def InsV.wf (i : InsV) : Bool := fields [(4, i.d), (4, i.a), (4, i.b), (4, i.c), (3, i.msk), (5, i.vfn)]

/-- Fields of an Ethernet frame (R431). -/
def EthFrame.wf (f : EthFrame) : Bool := fields [(48, f.dst), (48, f.src), (12, f.vlan), (3, f.prio)]

/-- Addresses and UDP ports of a datagram (R433). -/
def Net.wf (n : Net) : Bool :=
  decide (n.eport < 2) && n.frame.wf && fields [(128, n.srcIp), (128, n.dstIp), (16, n.sport), (16, n.dport)]

/-- What a YDP request has beside its operands (R445): a TYPE and a body stand apart only where no message has them. -/
def YHdr.wf (h : YHdr) : Bool :=
  h.net.wf && fields [(32, h.session), (32, h.seq), (128, h.mac), (16, h.magic), (8, h.version), (8, h.flags), (8, h.status)] &&
    h.typ.all fun t => fits 8 t && decide (t = 0 ∨ t > 10)

/-- The body of a request of this type: one that stands in place of the operands is malformed. -/
def YHdr.wfBody (h : YHdr) (typ : Nat) : Bool := h.wf && h.raw.all fun b => !yBodyOk typ b

/-- A host, or one of the four stewards (R460), with a request of this type. -/
def Src.wfBody (typ : Nat) : Src → Bool
  | .ydp h => h.wfBody typ
  | .steward n _ => decide (n < 4)

/-- A source that writes one object. -/
def Src.wf (src : Src) : Bool := src.wfBody 4

/-- Fields of a reduction packet (R250). -/
def RedPacket.wf (p : RedPacket) : Bool :=
  fields [(24, p.bale), (25, p.first), (5, p.level), (20, p.node), (1, p.phase), (32, p.step), (16, p.src)] &&
    decide (-128 ≤ p.scale ∧ p.scale < 128 ∧ p.elems.length ≤ 1024) && p.elems.all (fits 16)

/-- Fields of a beacon (R414). -/
def Beacon.wf (b : Beacon) : Bool :=
  fields ([b.tick, b.count, b.grant, b.rxTick].map ((64, ·)) ++ [b.beatNs, b.master, b.id, b.rxId].map ((16, ·)) ++
    [b.seq, b.ptpEpoch, b.ptpNs, b.txPs, b.rxPs].map ((32, ·)) ++ [(8, b.depth), (18, b.coords), (3, b.port), (48, b.ptpSec)])

/-- Fields of a control message (R415, R416); E0 of a START has 32 bits. -/
def Ctl.wf (m : Ctl) : Bool := fields [(16, m.origin), (24, m.seq), (64, m.x), (32, m.y)]

/-- What the eight lanes of a port bring for one codeword (R404): 5,440 bits. -/
def wfLanes (lanes : List Nat) : Bool := decide (lanes.length = 8) && lanes.all (fits 680)

/-- Fields of a RoCEv2 packet (R435). -/
def RocePkt.wf (p : RocePkt) : Bool :=
  p.net.wf && fields [(24, p.qp), (24, p.srcQp), (24, p.psn), (8, p.opcode), (32, p.rkey), (64, p.va), (32, p.len)]

/-- Index and subindex of an object (R457). -/
def wfObj (idx si : Nat) : Bool := fits 16 idx && fits 8 si

/-- A furrow table and one of its entries in an epoch (R312). -/
def wfEntry (table epoch entry : Nat) : Bool := decide (table < 0x32C) && fits 32 epoch && fits 16 entry

/-- One of the 1,024 queue pairs, by its number (R436). -/
def wfQp (qp : Nat) : Bool := decide (0x100 ≤ qp) && decide (qp < 0x100 + 1024)

/-- Every operand of a command is in range. Assumptions 2 (DESIGN CHOICE), 4 (DESIGN CHOICE). -/
def Instr.wf : Instr → Bool
  | .matmul _ | .matmulPartial _ | .partialSum _ | .permute _ | .convert _ | .runKernel _ => true
  | .conv _ | .pool _ | .attn _ | .attnPartial _ | .attnMerge _ | .cribAppend _ => true
  | .cribShare _ | .cribFree _ | .cribReclaim | .copy _ _ _ | .fill _ | .groupStep _ => true
  | .groupStepLocal _ | .updateElementApply _ _ | .baleReduce _ | .baleStart _ _ => true
  | .reductionPacketReceive port p _ => decide (port < 8) && p.wf
  | .threshRun _ | .mergeLoad _ => true
  | .sampleDescriptorTake die | .sampleDecodeComplete die _ | .slotEmit die => decide (die < 2)
  | .opWaitGrant _ | .opLeaveGrant | .operationComplete _ | .opAbandoned _ => true
  | .add core ctx i | .sub core ctx i | .mul core ctx i | .divu core ctx i | .and core ctx i | .or core ctx i =>
    wfCtx core ctx && i.wf
  | .xor core ctx i | .shl core ctx i | .shr core ctx i | .sar core ctx i | .slt core ctx i | .sltu core ctx i =>
    wfCtx core ctx && i.wf
  | .addi core ctx i | .insi core ctx i | .fadd core ctx i | .fmul core ctx i | .ffma core ctx i | .fcmp core ctx i =>
    wfCtx core ctx && i.wf
  | .fcvt core ctx i | .ld8 core ctx i _ | .ld16 core ctx i _ | .ld32 core ctx i _ | .ld64 core ctx i _
  | .st8 core ctx i => wfCtx core ctx && i.wf
  | .st16 core ctx i | .st32 core ctx i | .st64 core ctx i | .beq core ctx i | .bne core ctx i | .blt core ctx i =>
    wfCtx core ctx && i.wf
  | .bge core ctx i | .jal core ctx i | .jr core ctx i | .semSignal core ctx i | .semWait core ctx i
  | .semTry core ctx i => wfCtx core ctx && i.wf
  | .semLock core ctx i | .semUnlock core ctx i => wfCtx core ctx && i.wf
  | .semWaitReissue _ => true
  | .waitb core ctx i => wfCtx core ctx && i.wf
  | .waitbResume core ctx => wfCtx core ctx
  | .fence core ctx i | .dma core ctx i | .spawn core ctx i | .halt core ctx i | .rdst core ctx i | .setrc core ctx i =>
    wfCtx core ctx && i.wf
  | .setvl core ctx i | .varith core ctx i | .vsfn core ctx i | .vcmp core ctx i | .vsel core ctx i | .vld core ctx i =>
    wfCtx core ctx && i.wf
  | .vst core ctx i | .vgather core ctx i | .vscatter core ctx i | .vred core ctx i | .mop core ctx i =>
    wfCtx core ctx && i.wf
  | .producerDoorbell ring value | .consumerDoorbell ring value => decide (ring < 4096) && fits 64 value
  | .commandDescriptorTake ring => decide (ring < 4096)
  | .queueCfgWrite src member value => src.wf && fits 8 member && fits 64 value
  | .hostSemSignal src | .hostSemTry src | .hostSemLock src | .hostSemUnlock src | .semActSet src
  | .semRecoveryClear src => src.wf
  | .furrowStart table epoch entry | .furrowSignal table epoch entry | .furrowMark table epoch entry =>
    wfEntry table epoch entry
  | .portSlot table epoch entry => decide (800 ≤ table) && decide (table < 0x328) && wfEntry table epoch entry
  | .watchPoint table epoch entry | .reservationPoint table epoch entry => wfEntry table epoch entry
  | .reservationRetry => true
  | .overrun table epoch entry => wfEntry table epoch entry
  | .furrowLoad src => src.wf
  | .furrowLoadComplete => true
  | .furrowSwapCancel src => src.wf
  | .bankSwap table => decide (table < 0x32C)
  | .almanacTick | .beaconSend => true
  | .beaconReceive port b _ _ => decide (port < 8) && b.wf
  | .almanacLost => true
  | .lockHopsReport origin hf hi => fits 16 origin && fits 16 hf && fits 16 hi
  | .hold port m | .release port m | .resume port m => decide (port < 8) && m.wf
  | .masterResume | .holdLimit => true
  | .schedStart src e0 => src.wf && fits 32 e0
  | .start port m => decide (port < 8) && m.wf
  | .startTick => true
  | .schedStop src => src.wf
  | .stopRequest port m | .stop port m => decide (port < 8) && m.wf
  | .stopComplete => true
  | .epochBoundary sec ns => fits 48 sec && fits 32 ns
  | .stepBoundary => true
  | .censusRecordReceive src level r => fits 16 src && fits 5 level && r.words.all (fits 64)
  | .ptpEventMessage port f _ _ => decide (port < 2) && f.wf
  | .ptpSourceLost => true
  | .linkFrameReceive port lanes => decide (port < 8) && wfLanes lanes
  | .linkFrameTransmit f => decide (f.port < 8) && f.noise.all (fits 144)
  | .sendDataReceive port src dst dsem _ _ _ => decide (port < 8) && fits 16 src && fits 48 dst && decide (dsem < 4096)
  | .portFecLock port | .portCheck port _ _ _ _ _ | .portTrainTimeout port | .portFecLoss port
  | .portFecRateWindow port | .laserLow port _ => decide (port < 8)
  | .portRetrain src port => src.wf && decide (port < 8)
  | .ethFrameReceive port f => decide (port < 2) && f.wf
  | .arpRequest port f target senderIp => decide (port < 2) && f.wf && fits 32 target && fits 32 senderIp
  | .neighbourSolicitation port f target senderIp | .echoRequest port f target senderIp =>
    decide (port < 2) && f.wf && fits 128 target && fits 128 senderIp
  | .roceSend p | .rdmaWrite p | .rdmaReadRequest p | .cnp p _ | .roceInvalidOpcode p => p.wf
  | .roceRateIncrease qp => wfQp qp
  | .pfcFrameReceive port f x => decide (port < 2) && f.wf && fits 8 x.prios && x.quanta.all (fits 16)
  | .pfcXoffRepeat port => decide (port < 2)
  | .pfcStorm port prio => decide (port < 2) && decide (prio < 8)
  | .ethRestart src port => src.wf && decide (port < 2)
  | .hello h _ | .confirm h _ => h.wf && h.raw.isNone
  | .handshakeTimeout slot => decide (slot < 16)
  | .read src idx si => src.wfBody 3 && wfObj idx si
  | .write src idx si t _ => src.wf && wfObj idx si && fits 8 t
  | .segRead src idx si offset => src.wfBody 5 && wfObj idx si && fits 32 offset
  | .segWriteStart h idx si total => h.wfBody 6 && wfObj idx si && fits 32 total
  | .segWriteData h offset _ => h.wfBody 7 && fits 32 offset
  | .segWriteEnd h _ => h.wfBody 8
  | .close h => h.wfBody 9
  | .ping h => h.wfBody 10
  | .sessionExpiry slot => decide (slot < 16)
  | .sessionSelClose src | .ownerLockTake src | .ownerLockRelease src | .store src => src.wf
  | .storeComplete _ _ => true
  | .restore src | .defaults src => src.wf
  | .numericFlagsClear src mask => src.wf && fits 8 mask
  | .coreFlagsClear src core mask => src.wf && decide (core < 800) && fits 8 mask
  | .updateFlagsClear src mask | .reduceFlagsClear src mask | .threshFlagsClear src mask | .supplyWarnClear src mask =>
    src.wf && fits 8 mask
  | .pllLossClear src mask => src.wf && fits 64 mask
  | .attnEmptyFlagClear src | .errClearCounts src | .errClearFaultMap src => src.wf
  | .winnowProbe src member value => src.wf && fits 8 member && fits 64 value
  | .shufProbe src value | .shufSamplesWrite src value => src.wf && fits 64 value
  | .cribPoolInit src | .cribPoolRelease src | .matrixSelftestRun src => src.wf
  | .matrixSelftestComplete failing => failing.all fun n => decide (n < 800)
  | .reduceResidueTest src => src.wf
  | .residueTestComplete _ => true
  | .coreExclude src core value => src.wf && decide (core < 800) && fits 8 value
  | .attestNonce h _ => h.wfBody 8
  | .attestReportBuilt slot => decide (slot < 20)
  | .fwUpdateImage h _ => h.wfBody 8
  | .fwStageComplete _ => true
  | .fwActivate src kind => src.wf && fits 8 kind
  | .fwSvnAdvance src => src.wf
  | .fwSelfConfirm kind | .fwTrialExpired kind => decide (1 ≤ kind) && decide (kind ≤ 3)
  | .warm => true
  | .dieReset die => decide (die < 2)
  | .coreReset core => decide (core < 800)
  | .portReset port => decide (port < 8)
  | .fieldRestart | .por | .powerUp | .resetN _ | .bootStageComplete _ _ => true
  | .stewardWatchdog n => decide (n < 4)
  | .p0Request src | .p1Request src | .fallowRequest src => src.wf
  | .p1Exit | .fallowExitStep _ _ => true
  | .supplyWarning rail _ => decide (rail < 8)
  | .supplyRecovery => true
  | .supplyReset rail _ => decide (rail < 8)
  | .powerOverLimit _ | .leaveCorrectionUpdate _ _ => true
  | .thermalReading temps _ rails => decide (temps.length ≤ 7) && decide (rails.length ≤ 8)
  | .thermtrip die => decide (1 ≤ die) && decide (die ≤ 7)
  | .clkRampStep die => decide (die < 2)
  | .clkCoreSrc src die value => src.wf && decide (die < 2) && fits 8 value
  | .pllReferenceLoss pll _ | .pllRelock pll | .clockLossStop pll => decide (pll < 39)
  | .memTempRead package _ => decide (package < 32)
  | .refresh subch _ => decide (subch < 256)
  | .memScrubRead subch upset0 upset1 _ => decide (subch < 256) && fits 144 upset0 && fits 144 upset1
  | .bridgeFlitReceive bridge dir _ _ => decide (1 ≤ bridge) && decide (bridge ≤ 3) && decide (dir ≤ 1)
  | .arbC3Window point _ => decide (point < 800) || decide (point = 0x330) || decide (point = 0x331)
  | .errorRecordReceive rec => fits 512 rec
  | .laserInputPresent port _ => decide (port < 8)
  | .portEnable src port value => src.wf && decide (port < 8) && fits 8 value
  | .ethLinkUp l => decide (l.port < 2)
  | .ethLinkDown port => decide (port < 2)
  | .pfcPauseExpiry port prio => decide (port < 2) && decide (prio < 8)
  | .overLimitFreezeEnd _ | .fallowEntryStep | .resetComplete => true
  | .stewardSemOperation steward op sem _ =>
    decide (steward < 4) && decide (1 ≤ op) && decide (op ≤ 4) && decide (sem < 4096)

end Sys2Proof
end

