-- ==== Sys2Proof/Safety.lean ====
section
/-! DEFINITION. What counts as a safe step and a safe run, and the conditions and effects that claims speak of: when an
instruction of a context issues, and what has changed from one state to the next. -/
namespace Sys2Proof

/-- The copies that a source has (R459), and whether it loads the configuration store (R463). -/
def Src.rq : Src → Nat
  | .ydp h => Machine.sessionSlot h
  | .steward n _ => 16 + n
def Src.load : Src → Bool
  | .ydp _ => false
  | .steward _ f => f

end Sys2Proof

namespace Sys2Proof.Machine

/-- The step neither faults nor is refused. -/
def Safe (s : State) : Prop := ∃ t, step s = .next t

/-- A state that some number of steps leads to. -/
inductive Reaches (s : State) : State → Prop
  | refl : Reaches s s
  | step {t u : State} : Reaches s t → step t = .next u → Reaches s u

/-- The bytes [a, a + n) lie in codewords whose check bits are those of their data (R375). -/
def State.clean (s : State) (a n : Nat) : Prop := ∀ c ∈ cwsOf a n, SMap.get 0 s.chk c = 0

/-- A context issues its next instruction (R111, R121, R128): it is READY on a core in service, and its state and its
instruction can be read. -/
structure State.issues (s : State) (core ctx : Nat) : Prop where
  core_lt : core < 800
  ctx_lt : ctx < 2048
  ready : (s.ctx core ctx).st = .ready
  inService : s.coreState core = 0
  aligned : (s.ctx core ctx).pc % 4 = 0
  region : s.fetches core (s.ctx core ctx).pc = true
  clean : s.clean (s.ctx core ctx).pc 4
  stored : s.cxClean core ctx = true

/-- From s to t only contexts have changed, and of these only one, which is now c. -/
structure State.onlyCtx (s : State) (core ctx : Nat) (c : Ctx) (t : State) : Prop where
  rest : t = { s with ctxs := t.ctxs }
  here : t.ctx core ctx = c
  others : ∀ k n, n < 2048 → k ≠ core ∨ n ≠ ctx → t.ctx k n = s.ctx k n

/-- The writes of pieces of work, in order. -/
def writesOf (s : State) (ps : List Piece) : List (Nat × List Byte) := ps.flatMap fun p => (p.2 s).writes

/-- From s to t the writes `ws` have been made in order: each is found that no later one overlaps, and bytes outside them
are kept. Of bytes that `other` names nothing is said. -/
structure State.wrote (s : State) (ws : List (Nat × List Byte)) (other : Nat → Prop) (t : State) : Prop where
  found : ∀ pre a bs rest, ws = pre ++ (a, bs) :: rest →
    (∀ q ∈ rest, q.1 + q.2.length ≤ a ∨ a + bs.length ≤ q.1) →
    (∀ y, a ≤ y → y < a + bs.length → ¬other y) → t.peek a bs.length = bs
  kept : ∀ y, ¬other y → (∀ q ∈ ws, y < q.1 ∨ q.1 + q.2.length ≤ y) → t.byte y = s.byte y

/-- The bytes of the table of scale slots, where a tensor id has one (R71, R73). -/
def State.inScaleTable (s : State) (tid y : Nat) : Prop :=
  tid ≠ 0 ∧ s.getO Obj.SCALE_TABLE_BASE ≤ y ∧ y < s.getO Obj.SCALE_TABLE_BASE + 64 * s.getO Obj.SCALE_SLOTS

/-- An operation of unit `u` and OP code `c` that may begin step 4 now (R38, R98), and whose scales can be read (R77). -/
structure State.mayRun (s : State) (id : Nat) (o : Op) (u c : Nat) : Prop where
  here : s.op? id = some o
  ready : o.phase = .ready
  unit : opUnit o.desc = u
  code : opCode o.desc = c
  free : s.canStart id o = true
  scales : (s.renewAll o.got.tds).2.2 = none

/-- The operation once its step 4 has begun (R38, R62, R77). -/
def State.begun (s : State) (o : Op) : Op :=
  let (u, ds, _) := s.renewAll o.got.tds
  { o with phase := .executing, blocked := false, step := u.getO Obj.WINNOW_STEP, got := { o.got with tds := ds } }

/-- The state in which its step 4 runs. -/
def State.atStep4 (s : State) (id : Nat) (o : Op) : State :=
  let u := (s.renewAll o.got.tds).1
  { u.setOp id (s.begun o) with readyQ := u.readyQ.filter fun (x : Nat) => decide (x ≠ id) }

/-- A context at its next instruction. -/
def Ctx.next (c : Ctx) : Ctx := { c with pc := (c.pc + 4) % 2 ^ 64 }

/-! ### Error records -/

/-- The error record that a post writes now (R537, R539). -/
def State.recordOf (s : State) (r : Rec) : Nat :=
  recWord s.recStamp.1 s.recStamp.2.1 s.recStamp.2.2 r.reason (recClass r.reason) s.origin r.source r.tag r.addr r.d0 r.d1
    (s.getO Obj.ERR_SEQ_NEXT)

/-- A post now is one record: there is a next SEQ, and the notification of the error stream does not overflow its
semaphore, which would be a record of its own (R347, R360). -/
def State.onePost (s : State) : Prop :=
  s.getO Obj.ERR_SEQ_NEXT + 1 < 2 ^ 32 ∧
    ∀ q, s.ringFor 5 0 = some q → 4096 ≤ (s.ring q).notify ∨ (s.sem (s.ring q).notify).st = 2 ∨
      (s.sem (s.ring q).notify).count + 1 < 2 ^ 32

/-- From s to t one error record has been posted, and it stands in the log. -/
def State.posted (s : State) (r : Rec) (t : State) : Prop :=
  SMap.get 0 t.log (s.getO Obj.ERR_SEQ_NEXT) = s.recordOf r ∧ t.getO Obj.ERR_SEQ_NEXT = s.getO Obj.ERR_SEQ_NEXT + 1 ∧
    t.getO Obj.ERR_LAST_REASON = r.reason

/-- From s to t a stop request with this reason has been raised, if the device is RUNNING and has started a schedule: the
master fixes the stop beat at the first epoch boundary above the highest count that it permits, and another device floods
the request over every trained port (R330). -/
def State.stopRaised (s : State) (reason : Nat) (t : State) : Prop :=
  s.running = true → s.alm.started = true →
    (s.isMaster = true → s.alm.stop = none → t.alm.stop = some (s.boundaryAbove s.permitted)) ∧
    (s.isMaster = false → s.getO Obj.ALMANAC_ROLE ≠ 3 → ∀ p, p < 8 → s.portUp p = true →
      (s.port p).ctlQ ++ [(3, ctlBlocks ctlSTOPREQ
        { origin := s.origin, seq := (s.alm.msgSeq + 1) % 2 ^ 24, x := reason, y := 0 })] <+: (t.port p).ctlQ)

/-! ### Events and furrow entries -/

/-- The event record of R363 that is posted now. -/
def State.eventWord (s : State) (typ source tag sem entry : Nat) : Nat :=
  s.stamp.1 * 2 ^ 448 + typ * 2 ^ 440 + (source % 4096) * 2 ^ 428 + (tag % 2 ^ 24) * 2 ^ 404 + (sem % 4096) * 2 ^ 392 +
    s.stamp.2.1 * 2 ^ 360 + s.stamp.2.2 * 2 ^ 336 + entry * 2 ^ 320

/-- The event ring of a target, if it has one, signals no semaphore. -/
def State.quietEvents (s : State) (target : Nat) : Prop := ∀ n, s.ringFor 4 target = some n → 4096 ≤ (s.ring n).notify

/-- From s to t an event has gone to the ring of its target, or has been counted where it finds none or a full one (R361). -/
def State.eventPosted (s : State) (target word : Nat) (t : State) : Prop :=
  match s.ringFor 4 target with
  | none => s.getO Obj.QUEUE_UNROUTED + 1 < 2 ^ 32 → t.getO Obj.QUEUE_UNROUTED = s.getO Obj.QUEUE_UNROUTED + 1
  | some n =>
    if (s.ring n).fill < (s.ring n).size then
      t.ring n = { s.ring n with p := ((s.ring n).p + 1) % 2 ^ 32 } ∧
        t.peek ((s.ring n).slot (s.ring n).p) 64 = leBytes 64 word
    else t.ring n = { s.ring n with overflows := ((s.ring n).overflows + 1) % 2 ^ 32 }

/-- The count at which the entry e of an epoch falls. -/
def State.entryAt (s : State) (epoch e : Nat) : Nat := (s.beatAt epoch (entBeat e)).toNat

/-- A place of a table is taken: the device is RUNNING, the place holds entry e, and its beat lies below the stop beat. -/
structure State.taking (s : State) (t : Nat) (p : Place) (e : Nat) : Prop where
  table : t < tableCount
  here : (s.table t).entry? p = some e
  running : s.running = true
  epoch : s.getO Obj.SCHED_E0 ≤ p.epoch
  below : ∀ b, s.alm.stop = some b → s.beatAt p.epoch (entBeat e) < (b : Int)

/-- An entry begins on its beat: it is the table's next one, its watch point has been reached with what w says, and no step
procedure keeps it from starting (R310, R316, R318). -/
structure State.begins (s : State) (t : Nat) (p : Place) (e : Nat) (w : Watch) : Prop extends s.taking t p e where
  next : (s.table t).isNext (s.table t).next p = true
  watched : (s.table t).open_.find? (fun (x : Watch) => decide (x.epoch = p.epoch ∧ x.entry = p.entry)) = some w
  onBeat : s.entryAt p.epoch e = s.count
  step : s.stepOpen p.epoch = true

/-! ### Requests -/

/-- The frame of a datagram has been counted and accepted (R456). -/
def State.received (s : State) (n : Net) : State := (s.ethCount n.eport n.frame).ethTook n.eport

/-- A port that is up takes a datagram for this UDP port: its frame and its packet pass (R431, R433). -/
structure State.takes (s : State) (n : Net) (dport : Nat) : Prop where
  port : n.eport < 2
  up : s.ethUp n.eport = true
  frame : (s.ethCount n.eport n.frame).takesFrame n.eport n.frame = true
  net : (s.ethCount n.eport n.frame).takesNet n dport = true

/-- A request is executed now: one of an open session that has the form of its type, its MAC and the next number, or one of
a steward that runs (R447, R450). -/
def State.accepts (s : State) (src : Src) (typ : Nat) (body : List Byte) : Prop :=
  match src with
  | .ydp h =>
    s.served h.eport = true ∧ s.takes h.net s.udpPort ∧ s.sessionFits h 2 = true ∧
      h.mac = (s.session (sessionSlot h)).macOf h typ body ∧ h.seq = (s.session (sessionSlot h)).lastSeq + 1 ∧
      h.seq < 2 ^ 32 ∧ h.plain = true ∧ h.raw = none ∧ yBodyOk typ body = true
  | .steward n _ => n < 4 ∧ s.alive = true

/-- The state in which an accepted request is executed: its frame is counted and its number is the last one. -/
def State.taken (s : State) (src : Src) : State :=
  match src with
  | .ydp h =>
    let u := s.received h.net
    u.setSession (sessionSlot h)
      { u.session (sessionSlot h) with lastSeq := h.seq, seenMs := u.getO Obj.DEVICE_UPTIME_MS }
  | .steward _ _ => s

/-- The state once the request has been answered with STATUS and body, or value to a steward. -/
def State.answered (w s : State) (src : Src) (typ st value : Nat) (body : List Byte) : State :=
  match src with
  | .ydp h => w.yAnswer (s.session (sessionSlot h)) (sessionSlot h) typ st h.seq body
  | .steward n _ => w.emit (.steward n st value)

/-- The source passes check 4 of R462. -/
def State.owns (s : State) (src : Src) : Bool :=
  match src with
  | .ydp h => decide (s.lockHolder = sessionSlot h)
  | .steward _ f => s.stewardOwns f

/-- A write of v to object o is accepted and passes the checks of R462. -/
structure State.acceptedWrite (s : State) (src : Src) (o : ObjDef) (i j v : Nat) : Prop where
  accepts : s.accepts src 4 (leBytes 2 (o.index + i) ++ leBytes 1 (o.sub + j) ++ leBytes 1 o.ty.code ++ leBytes o.ty.bytes v)
  size : v < 2 ^ (8 * o.ty.bytes)
  owner : needsLock o = true → (s.taken src).owns src = true
  state : (s.taken src).stateAdmits src.load o (o.index + i) = true
  ring : (s.taken src).ringLocked src.rq o = false
  rule : (s.taken src).stateRule o = none
  reserved : v &&& o.resv = 0
  value : (s.taken src).valueOk src.rq o i j v = true

end Sys2Proof.Machine
end

