-- ==== Sys2Proof/Certificates/Slice0/Obligations.lean ====
section
/-! DEFINITION. The statements of this model. Each names in its docstring the rules it follows, and says where a clause
rests on a choice or a reading of the model, with the number of its entry in the assumption log. -/
open Sys2Proof Sys2Proof.Machine

/-- A step takes the command at the front of the queue and leaves the rest. That a step with an empty queue idles is the
model's own choice (assumption 1). -/
def Obligations.StepTakesFrontCommand : Prop :=
  (∀ (s : State) (c : Instr), step { s with pending := c :: s.pending } = exec c s) ∧
  (∀ (s : State) (c : Instr) (cs : List Instr), s.pending = c :: cs → step s = exec c { s with pending := cs }) ∧
  ∀ s : State, s.pending = [] → step s = .next s

/-- The state after reset: defaults of the dictionary, and units that hold nothing. That memory reads 0, and that the
device is right after power good, are the model's choices (assumptions 6, 10). -/
def Obligations.ResetValues : Prop :=
  let s := State.reset
  (∀ o i j, s.getO o i j = o.dflt) ∧ s.dev = 0 ∧ s.running = false ∧ s.pending = [] ∧ s.ops = [] ∧ s.unrec = [] ∧
  (∀ core n, (s.ctx core n).st = .free) ∧ (∀ q, s.sem q = { count := 0, st := 0, owner := 0, waits := [] }) ∧
  (∀ q, (s.ring q).p = 0 ∧ (s.ring q).c = 0 ∧ (s.ring q).binding = 0) ∧ (∀ n, (s.session n).st = 0) ∧
  (∀ n, ((s.table n).bank0.valid = false ∧ (s.table n).bank1.valid = false)) ∧
  (∀ die, (s.thr die).run = none) ∧ s.log = [] ∧ s.locked = false ∧ Memory.wf s.mem = true

/-- Every step keeps the canonical form of memory. The form is the model's own (assumption 6); the memory is that of R366
and R370. -/
def Obligations.StepKeepsMemoryCanonical : Prop :=
  ∀ s t : State, Memory.wf s.mem = true → step s = .next t → Memory.wf t.mem = true

/-- No command touches the queue of waiting commands, which is the model's own (assumption 1). -/
def Obligations.CommandsLeaveQueueAlone : Prop :=
  (∀ (c : Instr) (s t : State), exec c s = .next t → t.pending = s.pending) ∧
  ∀ (c : Instr) (cs : List Instr) (s t : State), s.pending = c :: cs → step s = .next t → t.pending = cs

/-- A well-formed command answers a next state in every state; only an operand that names no unit of the device can stop
(assumption 4). -/
def Obligations.WellFormedCommandsComplete : Prop :=
  ∀ (c : Instr) (s : State), c.wf = true → ∃ t, exec c s = .next t

/-- An operation that the header checks of step 1 refuse (R39): nothing is taken or written, its record is posted and its
stream stops. The number in DETAIL1 is the model's reading (assumption 24). -/
def Obligations.RefusedOperation : Prop :=
  ∀ (s : State) (id u c flit noise : Nat) (o : Op) (r : Refused) (x : Instr),
    (x, u, c) ∈ [(Instr.matmul id, 1, 1), (.matmulPartial id, 1, 2), (.partialSum id, 2, 1), (.permute id, 2, 2),
      (.convert id, 2, 3), (.runKernel id, 2, 0x10), (.conv id, 3, 1), (.pool id, 3, 2), (.attn id, 4, 1),
      (.attnPartial id, 4, 2), (.attnMerge id, 4, 3), (.cribAppend id, 4, 0x10), (.cribShare id, 4, 0x11),
      (.cribFree id, 4, 0x12), (.copy id flit noise, 5, 1), (.fill id, 5, 2), (.groupStep id, 6, 1), (.groupStepLocal id, 6, 2),
      (.threshRun id, 8, 1), (.mergeLoad id, 8, 2)] →
    s.op? id = some o → opUnit o.desc = u → opCode o.desc = c → o.phase = .submitted →
    let b := s.entryBegins o
    b.headFail o = some r → b.onePost → o.bale = none →
    ∃ t, exec x s = .next t ∧ t.op? id = none ∧ id ∉ t.leaveQ ∧ id ∉ t.readyQ ∧ t.isStopped o.unit o.stream = true ∧
      b.posted { reason := 0x0101, source := o.unit, tag := opTag o.desc, addr := o.descAddr,
                 d0 := opUnit o.desc * 256 + opCode o.desc, d1 := r.n } t ∧
      b.stopRaised 0x0101 t ∧
      (b.ringFor 5 0 = none → t.mem = b.mem ∧ ∀ q, (t.sem q).count = (b.sem q).count ∧ (t.sem q).st = (b.sem q).st) ∧
      ∀ q, q < 4096 → (t.ring q).binding = 2 → (t.ring q).target = 4 * o.unit + o.stream → o.stream < 4 →
        exec (.commandDescriptorTake q) t = .next t

/-- Epochs, their first beats, and the beat within an epoch (R309). -/
def Obligations.EpochsFollowTheCount : Prop :=
  ∀ (s : State) (a : Nat),
    let eb := s.getO Obj.EPOCH_BEATS
    let e0 := s.getO Obj.SCHED_E0
    let start := s.getO Obj.SCHED_E0_COUNT
    let e := (s.epochOf a).1
    (∀ n, s.firstBeat n = (start : Int) + ((n : Int) - (e0 : Int)) * (eb : Int)) ∧
    (0 < eb → start ≤ a → (a - start) / eb + e0 < 2 ^ 32 →
      s.firstBeat e ≤ (a : Int) ∧ (a : Int) < s.firstBeat (e + 1) ∧ ((s.epochOf a).2 : Int) = (a : Int) - s.firstBeat e ∧
        (s.epochOf a).2 < eb ∧ e0 ≤ e)

/-- The code of memory: encoder and decoder (R375, R376), any one symbol corrected, any two detected, and a corrected read
of LPDDR6. -/
def Obligations.MemoryCodeCorrects : Prop :=
  (∀ d : Nat, d < 2 ^ 128 → eccSyndrome (d + eccCheck d * 2 ^ 128) = (0, 0, 0, 0) ∧ eccCheck d < 2 ^ 16) ∧
  (∀ d : Nat, d < 2 ^ 128 →
    let p := eccSyndromeFrom d (List.range 32)
    let check := fun k => eccCheck d / 2 ^ (4 * (k - 32)) % 16
    check 34 = p.2.1 ∧ check 35 = p.2.2.1 ∧ check 32 = p.1 ^^^ p.2.1 ^^^ p.2.2.1 ∧
      check 33 = p.2.2.2 ^^^ p.2.1 ^^^ gfMul 8 p.2.2.1) ∧
  (∀ e : Nat, e < 2 ^ 144 →
    let y := eccSyndrome e
    (y = (0, 0, 0, 0) → eccFix e = some 0) ∧
    (∀ j, j < 36 → (eccCol j).1 = 1 → y.1 ≠ 0 → y.2 = (gfMul y.1 (eccCol j).2.1, gfMul y.1 (eccCol j).2.2.1,
      gfMul y.1 (eccCol j).2.2.2) → eccFix e = some (y.1 * 2 ^ (4 * j))) ∧
    (y.1 = 0 → y.2.1 = 0 → y.2.2.1 = 0 → y.2.2.2 ≠ 0 → eccFix e = some (y.2.2.2 * 2 ^ 132)) ∧
    (y ≠ (0, 0, 0, 0) → ¬(y.1 = 0 ∧ y.2.1 = 0 ∧ y.2.2.1 = 0) → (∀ j, j < 36 → (eccCol j).1 = 1 → y.1 ≠ 0 →
      y.2 ≠ (gfMul y.1 (eccCol j).2.1, gfMul y.1 (eccCol j).2.2.1, gfMul y.1 (eccCol j).2.2.2)) → eccFix e = none)) ∧
  (∀ j v : Nat, j < 36 → 0 < v → v < 16 → eccFix (v * 2 ^ (4 * j)) = some (v * 2 ^ (4 * j))) ∧
  (∀ i j v w : Nat, i < j → j < 36 → 0 < v → v < 16 → 0 < w → w < 16 → eccFix (v * 2 ^ (4 * i) + w * 2 ^ (4 * j)) = none) ∧
  ∀ (s : State) (c f : Nat), s.decodeCw c = .fixed f → regionOf (c * 16) = .lp →
    (s.readCw c 0).2 = false ∧ (s.readCw c 0).1.decodeCw c = .ok ∧
      (s.ringFor 5 0 = none → (s.readCw c 0).1.peek (c * 16) 16 = leBytes 16 (ofBytes (s.peek (c * 16) 16) ^^^ f)) ∧
      (s.getO Obj.MEM_CE_TOTAL + 1 < 2 ^ 64 → (s.readCw c 0).1.getO Obj.MEM_CE_TOTAL = s.getO Obj.MEM_CE_TOTAL + 1)

/-- Doorbell writes: the index moves where R359 does not refuse, and a refused write is counted. -/
def Obligations.DoorbellResults : Prop :=
  ∀ (s : State) (q v : Nat), q < 4096 → v < 2 ^ 64 →
    let r := s.ring q
    let room := (r.p + 2 ^ 32 - r.c) % 2 ^ 32
    let takes := fun (x : Instr) (ok : Prop) (moved : Ring) =>
      ∃ t, exec x s = .next t ∧ t = { s with rings := t.rings } ∧ (∀ k, k ≠ q → t.ring k = s.ring k) ∧
        (ok → t.ring q = moved) ∧ (¬ok → ∃ n, t.ring q = { r with refused := n } ∧ (r.refused + 1 < 2 ^ 32 → n = r.refused + 1))
    takes (.producerDoorbell q v)
      (r.binding ≠ 1 ∧ r.binding ≠ 4 ∧ r.binding ≠ 5 ∧ r.binding ≠ 0 ∧ v / 2 ^ 32 = 0 ∧
        (v + 2 ^ 32 - r.p) % 2 ^ 32 ≤ 2 ^ r.log2 - room) { r with p := v } ∧
    takes (.consumerDoorbell q v)
      (r.binding ≠ 2 ∧ r.binding ≠ 3 ∧ r.binding ≠ 0 ∧ v / 2 ^ 32 = 0 ∧ (v + 2 ^ 32 - r.c) % 2 ^ 32 ≤ room) { r with c := v }

/-- Results of the integer instructions, and their frame (R124). -/
def Obligations.ScalarIntegerResults : Prop :=
  (∀ (s : State) (core ctx : Nat) (i : InsA), s.issues core ctx → i.fn % 1024 = 0 →
     let c := s.ctx core ctx
     let a := BitVec.ofNat 64 (c.get i.a)
     let b := BitVec.ofNat 64 (c.get i.b)
     let gives := fun (x : Instr) (v : BitVec 64) =>
       ∃ t, exec x s = .next t ∧ s.onlyCtx core ctx (c.set i.d v.toNat).next t
     gives (.add core ctx i) (a + b) ∧ gives (.sub core ctx i) (a - b) ∧ gives (.mul core ctx i) (a * b) ∧
     gives (.divu core ctx i) (if b = 0 then BitVec.allOnes 64 else a / b) ∧
     gives (.and core ctx i) (a &&& b) ∧ gives (.or core ctx i) (a ||| b) ∧ gives (.xor core ctx i) (a ^^^ b) ∧
     gives (.shl core ctx i) (a <<< (b.toNat % 64)) ∧ gives (.shr core ctx i) (a >>> (b.toNat % 64)) ∧
     gives (.sar core ctx i) (a.sshiftRight (b.toNat % 64)) ∧
     gives (.slt core ctx i) (if a.slt b then 1 else 0) ∧ gives (.sltu core ctx i) (if a.ult b then 1 else 0)) ∧
  (∀ (s : State) (core ctx : Nat) (i : InsI), s.issues core ctx →
     let c := s.ctx core ctx
     let a := BitVec.ofNat 64 (c.get i.a)
     let imm := BitVec.ofInt 18 i.imm
     let p := (imm.extractLsb' 16 2).toNat
     (∃ t, exec (.addi core ctx i) s = .next t ∧ s.onlyCtx core ctx (c.set i.d (a + imm.signExtend 64).toNat).next t) ∧
     (∃ t v, exec (.insi core ctx i) s = .next t ∧ s.onlyCtx core ctx (c.set i.d v).next t ∧ v < 2 ^ 64 ∧
       ∀ k < 64, v.testBit k = if k / 16 = p then imm.getLsbD (k % 16) else a.getLsbD k))

/-- Results and flags of the floating-point instructions (R124, R140). -/
def Obligations.ScalarFloatResults : Prop :=
  ∀ (s : State) (core ctx : Nat) (i : InsA), s.issues core ctx →
    let c := s.ctx core ctx
    let a := c.get i.a % 2 ^ 32
    let b := c.get i.b % 2 ^ 32
    let gives := fun (x : Instr) (r : Fl Nat) =>
      ∃ t, exec x s = .next t ∧ t = { s with ctxs := t.ctxs, obj := t.obj } ∧
        t.ctx core ctx = { (c.set i.d r.1).next with
          status := if c.noexc then c.status ||| r.2 % 128 else c.status } ∧
        (∀ k n, n < 2048 → k ≠ core ∨ n ≠ ctx → t.ctx k n = s.ctx k n) ∧
        t.getO Obj.CORE_NUMERIC_FLAGS core =
          (if c.noexc then s.getO Obj.CORE_NUMERIC_FLAGS core else s.getO Obj.CORE_NUMERIC_FLAGS core ||| r.2 % 128) ∧
        ∀ p k l, p.key k l ≠ Obj.CORE_NUMERIC_FLAGS.key core 0 → t.getO p k l = s.getO p k l
    (i.fn % 1024 = 0 →
      gives (.fadd core ctx i) (add32 c.strict a b) ∧ gives (.fmul core ctx i) (mul32 c.strict a b) ∧
      gives (.ffma core ctx i) (fma32 c.strict a b (c.get i.c % 2 ^ 32))) ∧
    (i.fn % 1024 ≤ 3 →
      gives (.fcmp core ctx i)
        (b2n (cmpCode f32 c.strict (i.fn % 1024) a b).1, (cmpCode f32 c.strict (i.fn % 1024) a b).2)) ∧
    (i.fn % 1024 = 0 → gives (.fcvt core ctx i) (cvtI64 c.strict a)) ∧
    (i.fn % 1024 = 1 → gives (.fcvt core ctx i) (cvtFromInt (toSigned 64 (c.get i.a)))) ∧
    (i.fn % 1024 = 2 → gives (.fcvt core ctx i) (narrow c.strict none a)) ∧
    (i.fn % 1024 = 3 → gives (.fcvt core ctx i) (widen c.strict (c.get i.a % 2 ^ 16)))

/-- Loads and stores of the control core: values, bytes written and their frame. The mesh is quiet (assumption 32), and a
narrow store to a doorbell word is open (assumption 34). -/
def Obligations.ScalarMemoryResults : Prop :=
  (∀ (s : State) (core ctx : Nat) (i : InsI), s.issues core ctx →
     let c := s.ctx core ctx
     let a := iea i c
     let loads := fun (x : Instr) (n : Nat) =>
       (∀ r, s.access core a n false = .ok r → (r = .lp ∨ ∃ k, r = .loft k) → s.clean a n →
         ∃ t, exec x s = .next t ∧ s.onlyCtx core ctx (c.set i.d (ofBytes (s.peek a n))).next t) ∧
       (s.access core a n false = .ok .bell →
         ∃ t, exec x s = .next t ∧
           s.onlyCtx core ctx (c.set i.d ((s.doorbellWord (a - bellBase) >>> (8 * (a % 8))) % 2 ^ (8 * n))).next t) ∧
       (∀ k, s.access core a n false = .error k → c.noexc = true →
         ∃ t, exec x s = .next t ∧ t.ctx core ctx = ((c.subst k none).set i.d 0).next ∧ t.mem = s.mem)
     loads (.ld8 core ctx i 0) 1 ∧ loads (.ld16 core ctx i 0) 2 ∧ loads (.ld32 core ctx i 0) 4 ∧ loads (.ld64 core ctx i 0) 8) ∧
  (∀ (s : State) (core ctx : Nat) (i : InsI), s.issues core ctx →
     let c := s.ctx core ctx
     let a := iea i c
     let v := c.get i.d
     let stores := fun (x : Instr) (n : Nat) =>
       (∀ r, s.access core a n true = .ok r → r ≠ .bell → s.clean a n →
         ∃ t, exec x s = .next t ∧ t = { s with mem := t.mem, ctxs := t.ctxs } ∧ t.peek a n = leBytes n v ∧
           (∀ y, y < a ∨ a + n ≤ y → t.byte y = s.byte y) ∧ t.ctx core ctx = c.next ∧
           ∀ k m, m < 2048 → k ≠ core ∨ m ≠ ctx → t.ctx k m = s.ctx k m) ∧
       (s.access core a n true = .ok .bell →
         let off := a - bellBase
         let put := fun (u : State) =>
           (u.doorbell (off / 16) (decide (off % 16 < 8)) ((v % 2 ^ (8 * n)) <<< (8 * (off % 8)))).advance core ctx
         (n = 8 → exec x s = .next (put s)) ∧
         (n ≠ 8 → exec x s = .next (put s.drew) ∨ exec x s = .next (s.drew.advance core ctx)))
     stores (.st8 core ctx i) 1 ∧ stores (.st16 core ctx i) 2 ∧ stores (.st32 core ctx i) 4 ∧ stores (.st64 core ctx i) 8)

/-- Branches and jumps (R124, R138). -/
def Obligations.ScalarBranchResults : Prop :=
  ∀ (s : State) (core ctx : Nat) (i : InsI), s.issues core ctx →
    let c := s.ctx core ctx
    let a := BitVec.ofNat 64 (c.get i.a)
    let d := BitVec.ofNat 64 (c.get i.d)
    let imm := (BitVec.ofInt 18 i.imm).signExtend 64
    let pc := BitVec.ofNat 64 c.pc
    let goes := fun (x : Instr) (c' : Ctx) (dst : BitVec 64) =>
      ∃ t, exec x s = .next t ∧ s.onlyCtx core ctx { c' with pc := dst.toNat } t
    goes (.beq core ctx i) c (if d = a then pc + 4 * imm else pc + 4) ∧
    goes (.bne core ctx i) c (if d = a then pc + 4 else pc + 4 * imm) ∧
    goes (.blt core ctx i) c (if d.slt a then pc + 4 * imm else pc + 4) ∧
    goes (.bge core ctx i) c (if d.slt a then pc + 4 else pc + 4 * imm) ∧
    goes (.jal core ctx i) (c.set i.d (c.pc + 4)) (pc + 4 * imm) ∧
    ((a + imm).toNat % 4 = 0 → goes (.jr core ctx i) c (a + imm)) ∧
    ((a + imm).toNat % 4 ≠ 0 → c.noexc = true →
      ∃ t, exec (.jr core ctx i) s = .next t ∧ t.ctx core ctx = (c.subst .alignment none).next)

/-- Status and control instructions of a context, and the end of WAITB. -/
def Obligations.ContextResults : Prop :=
  (∀ (s : State) (core ctx : Nat) (i : InsA), s.issues core ctx →
     let c := s.ctx core ctx
     let gives := fun (x : Instr) (c' : Ctx) => ∃ t, exec x s = .next t ∧ s.onlyCtx core ctx c'.next t
     (i.fn % 1024 = 0 → gives (.rdst core ctx i) (c.set i.d ctx)) ∧
     (i.fn % 1024 = 1 → gives (.rdst core ctx i) (c.set i.d core)) ∧
     (i.fn % 1024 = 2 → gives (.rdst core ctx i) (c.set i.d s.count)) ∧
     (i.fn % 1024 = 3 → gives (.rdst core ctx i)
       (c.set i.d (if c.noexc then c.status % 128 else s.getO Obj.CORE_NUMERIC_FLAGS core))) ∧
     (i.fn % 1024 = 4 → gives (.rdst core ctx i) (c.set i.d c.status)) ∧
     (i.fn % 1024 = 5 → gives (.rdst core ctx i) (c.set i.d c.vl)) ∧
     (i.fn % 1024 = 6 → gives (.rdst core ctx i) (c.set i.d c.tag)) ∧
     (i.fn % 1024 = 0 → gives (.setrc core ctx i) { c with tid := c.get i.a % 2 ^ 24, korg := c.get i.b % 2 ^ 48 }) ∧
     (i.fn % 1024 = 0 →
       gives (.setvl core ctx i) ({ c with vl := min (c.get i.a) 8192 }.set i.d (min (c.get i.a) 8192)))) ∧
  (∀ (s : State) (core ctx : Nat) (i : InsA), s.issues core ctx → i.fn % 1024 = 0 →
     let c := s.ctx core ctx
     (∃ t, exec (.waitb core ctx i) s = .next t ∧
       (c.get i.a ≤ s.count → s.onlyCtx core ctx (c.set i.d s.count).next t) ∧
       (s.count < c.get i.a →
         s.onlyCtx core ctx { c.next with st := .waiting, wait := .beat (c.get i.a), dest := i.d } t)) ∧
     (∃ t, exec (.fence core ctx i) s = .next t ∧
       ((∀ p ∈ s.ops, ¬(p.2.unit = core ∧ p.2.stream = 5 ∧ p.2.ctx = ctx + 1)) →
         s.onlyCtx core ctx { c.next with wait := .none } t) ∧
       ((∃ p ∈ s.ops, p.2.unit = core ∧ p.2.stream = 5 ∧ p.2.ctx = ctx + 1) →
         s.onlyCtx core ctx { c.next with st := .waiting, wait := .fence } t)) ∧
     (let n := c.get i.a % 2048
      let k : Ctx := { pc := c.get i.b, strict := c.strict, sround := c.sround, noexc := c.noexc, tag := c.tag, op := c.op }
      ((s.ctx core n).st ≠ .free → ∃ t, exec (.spawn core ctx i) s = .next t ∧ s.onlyCtx core ctx (c.set i.d 1).next t) ∧
      ((s.ctx core n).st = .free →
        ∃ t, exec (.spawn core ctx i) s = .next t ∧ t.ctx core ctx = (c.set i.d 0).next ∧
          t.ctx core n = { k.set 1 (c.get i.c) with st := .ready, status := 0xFFFF0000 } ∧
          ∀ m, m < 2048 → m ≠ ctx → m ≠ n → t.ctx core m = s.ctx core m)) ∧
     (∃ t, exec (.halt core ctx i) s = .next t ∧ t.ctx core ctx = { c with st := .free } ∧
       (∀ k n, n < 2048 → k ≠ core ∨ n ≠ ctx → t.ctx k n = s.ctx k n) ∧
       ((∀ p ∈ s.ctxs, p.1 / 2048 = core → p.2.op = c.op → p.1 = ctxKey core ctx ∨ p.2.st = .free) →
         ∀ o, s.op? c.op = some o → o.phase = .executing → t.op? c.op = some { o with phase := .executed }))) ∧
  (∀ (s : State) (core ctx b : Nat), core < 800 → ctx < 2048 → (s.ctx core ctx).st = .waiting →
     (s.ctx core ctx).wait = .beat b →
     let c := s.ctx core ctx
     (b ≤ s.count → ∃ t, exec (.waitbResume core ctx) s = .next t ∧
       s.onlyCtx core ctx { c.set c.dest s.count with st := .ready, wait := .none } t) ∧
     (s.count < b → exec (.waitbResume core ctx) s = .next s))

/-- Semaphore instructions of a context, and the reissue of a wait that was not recorded (R342, R343, R349). The counting
of a reissue is the model's reading (assumption 37). -/
def Obligations.SemaphoreInstructionResults : Prop :=
  (∀ (s : State) (core ctx : Nat) (i : InsA), s.issues core ctx →
     let c := s.ctx core ctx
     let q := c.get i.a % 4096
     let n := c.get i.b % 2 ^ 32
     let x := s.sem q
     let who := SemWho.ctx core ctx (i.d % 16)
     let does := fun (e : Instr) (y : Sem) (c' : Ctx) =>
       ∃ t, exec e s = .next t ∧ t = { s with sems := t.sems, ctxs := t.ctxs, obj := t.obj, freeCtr := t.freeCtr } ∧
         t.sem q = y ∧ (∀ k, k ≠ q → t.sem k = s.sem k) ∧ t.ctx core ctx = c' ∧
         (∀ k m, m < 2048 → k ≠ core ∨ m ≠ ctx → t.ctx k m = s.ctx k m) ∧
         ∀ p k l, p.key k l ≠ Obj.SEM_OPS.key → p.key k l ≠ Obj.SEM_WAIT_POOL_MAX.key → t.getO p k l = s.getO p k l
     let answers := fun (e : Instr) (y : Sem) (v : Nat) => does e y (c.set i.d v).next
     let waits := fun (e : Instr) (m : Nat) (lock : Bool) =>
       does e { x with waits := x.waits ++
           [{ who := who, n := m, lock := lock, sem := q, epoch := s.getO Obj.SCHED_EPOCH }] }
         { c.next with st := .waiting, wait := .sem q, dest := i.d % 16 }
     (n ≠ 0 → x.st ≠ 2 →
       (x.waits = [] → x.count + n < 2 ^ 32 → answers (.semSignal core ctx i) { x with count := x.count + n } 0) ∧
       (x.waits = [] → n ≤ x.count →
         answers (.semWait core ctx i) { x with count := x.count - n } 0 ∧
         answers (.semTry core ctx i) { x with count := x.count - n } 0) ∧
       (¬(x.waits = [] ∧ n ≤ x.count) → answers (.semTry core ctx i) x 2) ∧
       (¬(x.waits = [] ∧ n ≤ x.count) → s.poolUsed < 65536 → waits (.semWait core ctx i) n false)) ∧
     (x.st = 0 → x.waits = [] → 1 ≤ x.count →
       answers (.semLock core ctx i) { x with count := x.count - 1, st := 1, owner := s.ownerTag who } 0) ∧
     (x.st ≠ 2 → ¬(x.st = 1 ∧ x.ownedBy who = true) → ¬(x.waits = [] ∧ 1 ≤ x.count ∧ x.st = 0) → s.poolUsed < 65536 →
       waits (.semLock core ctx i) 1 true) ∧
     (x.st = 1 → x.ownedBy who = true → x.waits = [] → x.count + 1 < 2 ^ 32 →
       answers (.semUnlock core ctx i) { x with count := x.count + 1, st := 0, owner := 0 } 0) ∧
     (x.st = 2 → answers (.semLock core ctx i) x 1 ∧
       (n ≠ 0 → answers (.semSignal core ctx i) x 0 ∧ answers (.semWait core ctx i) x 1 ∧ answers (.semTry core ctx i) x 1))) ∧
  (∀ (s : State) (n : Nat) (r : SemReq), s.unrec[n]? = some r →
     let x := s.sem r.sem
     let rest := s.unrec.eraseIdx n
     ∃ t, exec (.semWaitReissue n) s = .next t ∧ (∀ k, k ≠ r.sem → t.sem k = s.sem k) ∧
       (x.st ≠ 2 → x.waits = [] → r.n ≤ x.count → (r.lock = false ∨ x.st = 0) →
         t.unrec = rest ∧ (t.sem r.sem).count = x.count - r.n ∧
         (∀ core ctx d, r.who = .ctx core ctx d → (s.ctx core ctx).st = .waiting →
           t.ctx core ctx = { (s.ctx core ctx).set d 0 with st := .ready, wait := .none })) ∧
       (x.st ≠ 2 → ¬(x.waits = [] ∧ r.n ≤ x.count ∧ (r.lock = false ∨ x.st = 0)) →
         (s.poolUsed < 65536 → t.unrec = rest ∧ t.sem r.sem = { x with waits := x.waits ++ [{ r with counted := true }] }) ∧
         (65536 ≤ s.poolUsed → t.unrec = rest ++ [{ r with counted := true }] ∧ t.sem r.sem = x)) ∧
       (r.counted = false → s.getO Obj.SEM_WAIT_POOL_FULL + 1 < 2 ^ 64 →
         t.getO Obj.SEM_WAIT_POOL_FULL = s.getO Obj.SEM_WAIT_POOL_FULL + 1))

/-- Vector arithmetic on a core whose storage and memory hold no disturbed codeword (R124, R127, R132). -/
def Obligations.VectorArithmeticResults : Prop :=
  ∀ (s : State) (core ctx : Nat) (i : InsV), s.issues core ctx → s.vchk = [] → s.chk = [] →
    let c := s.ctx core ctx
    let es := s.active core ctx i
    c.vl ≠ 0 →
    let puts := fun (x : Instr) (hd : Bool) (g : Nat → Nat) =>
      ∃ t, exec x s = .next t ∧
        t = { s with vreg := t.vreg, ctxs := t.ctxs, obj := t.obj, mem := t.mem, freeCtr := t.freeCtr } ∧
        (∀ e ∈ es, t.velem core i.d hd e = g e % 2 ^ (if hd then 16 else 32)) ∧
        (∀ e, e < 8192 → e ∉ es → t.velem core i.d hd e = s.velem core i.d hd e) ∧
        (∀ k r m, m < 8192 → k ≠ core ∨ r % 16 ≠ i.d % 16 → t.vslot k r m = s.vslot k r m) ∧
        (∃ st, t.ctx core ctx = { c.next with status := st } ∧ (c.noexc = false → st = c.status)) ∧
        (∀ k n, n < 2048 → k ≠ core ∨ n ≠ ctx → t.ctx k n = s.ctx k n) ∧
        (∀ p k l, p.key k l ≠ Obj.CORE_NUMERIC_FLAGS.key core 0 → p.key k l ≠ Obj.SATURATION_TOTAL.key →
          t.getO p k l = s.getO p k l) ∧
        ∀ y, (∀ n, s.slotOf c.tid = some n → c.tid ≠ 0 → y < s.slotAddr n ∨ s.slotAddr n + 64 ≤ y) →
          t.byte y = s.byte y
    (varithLegal i = true → puts (.varith core ctx i) (varithPacked i) fun e =>
      let v := fun (k : Nat) => match (varithSrcs i)[k]? with
        | some r => s.velem core r.reg r.h e
        | none => s.velem core 0 false e
      (varithOf i.vfn (varithFmt i) c.strict (if varithPacked i then s.ctxW core ctx e else none)
        (toSigned 8 (c.get i.c)) (c.get i.a % 2 ^ 32) e (v 0) (v 1) (v 2)).1) ∧
    (i.vfn = 13 → i.h = false → puts (.varith core ctx i) false fun e =>
      s.velem core i.a false e + s.velem core i.b false e) ∧
    (i.vfn = 14 → i.h = false → puts (.varith core ctx i) false fun e =>
      s.velem core i.a false e * s.velem core i.b false e) ∧
    (i.vfn = 11 → i.h = false → puts (.varith core ctx i) false fun _ => c.get i.a) ∧
    (i.vfn = 12 → i.h = false → puts (.varith core ctx i) false fun e => e) ∧
    (i.vfn ≤ 5 → i.h = false → puts (.vsfn core ctx i) false fun e =>
      (vsfnOf i.vfn c.strict (s.velem core i.a false e) (if i.vfn = 4 then s.velem core i.b false e else s.velem core 0 false e)).1)

/-- Active elements, the elements that keep their value, and VL 0 (R107, R108); comparison, selection, mask logic and
reductions (R124, R129, R130). -/
def Obligations.VectorMaskResults : Prop :=
  ((∀ (s : State) (core ctx : Nat) (i : InsV) (e : Nat),
     e ∈ s.active core ctx i ↔
       e < min (s.ctx core ctx).vl 8192 ∧ (i.men = true → (s.mask core i.msk).testBit e = true)) ∧
   ∀ (s t : State) (core ctx : Nat) (i : InsV), s.vchk = [] →
     let kept := fun (x : Instr) (hd : Bool) => exec x s = .next t →
       ∀ r e, e < 8192 → e ∉ s.active core ctx i → t.velem core r hd e = s.velem core r hd e
     kept (.varith core ctx i) (varithPacked i) ∧ kept (.vsfn core ctx i) false ∧
     kept (.vld core ctx i) i.h ∧ kept (.vgather core ctx i) i.h ∧
     (∀ x ∈ [Instr.vcmp core ctx i, .mop core ctx i], exec x s = .next t →
       ∀ k e, e ∉ s.active core ctx i → bit (t.mask core k) e = bit (s.mask core k) e) ∧
     (s.issues core ctx → (s.ctx core ctx).vl = 0 →
       let idle := fun (x : Instr) => ∃ u, exec x s = .next u ∧ s.onlyCtx core ctx (s.ctx core ctx).next u
       (varithLegal i = true → idle (.varith core ctx i)) ∧ (i.vfn ≤ 5 → i.h = false → idle (.vsfn core ctx i)) ∧
       (i.d < 8 → i.vfn ≤ 3 → idle (.vcmp core ctx i)) ∧ (i.men = true → i.vfn = 0 → idle (.vsel core ctx i)) ∧
       idle (.vld core ctx i) ∧ idle (.vst core ctx i) ∧ idle (.vgather core ctx i) ∧ idle (.vscatter core ctx i) ∧
       (i.vfn ≤ 6 → idle (.vred core ctx i) ∧ idle (.mop core ctx i)))) ∧
  (∀ (s : State) (core ctx : Nat) (i : InsV), s.issues core ctx → s.vchk = [] →
     let c := s.ctx core ctx
     let es := s.active core ctx i
     let f := if i.h then f16 else f32
     c.vl ≠ 0 →
     let sets := fun (x : Instr) (g : Nat → Bool) =>
       ∃ t, exec x s = .next t ∧ (∀ e ∈ es, bit (t.mask core i.d) e = g e) ∧
         (∀ e, e ∉ es → bit (t.mask core i.d) e = bit (s.mask core i.d) e) ∧
         (∀ k r, k ≠ core ∨ r % 8 ≠ i.d % 8 → t.mask k r = s.mask k r) ∧
         t.vreg = s.vreg ∧ t.mem = s.mem ∧ ∃ st, t.ctx core ctx = { c.next with status := st }
     (i.d < 8 → i.vfn ≤ 3 → sets (.vcmp core ctx i) fun e =>
       (cmpCode f c.strict i.vfn (s.velem core i.a i.h e) (s.velem core i.b i.h e)).1) ∧
     (i.vfn ≤ 6 → sets (.mop core ctx i) fun e => mopOf i.vfn (bit (s.mask core i.a) e) (bit (s.mask core i.b) e)) ∧
     (i.men = true → i.vfn = 0 →
       ∃ t, exec (.vsel core ctx i) s = .next t ∧ t = { s with vreg := t.vreg, ctxs := t.ctxs } ∧
         s.onlyCtx core ctx c.next { t with vreg := s.vreg } ∧
         (∀ e, e < c.len → t.velem core i.d i.h e =
           s.velem core (if bit (s.mask core i.msk) e then i.a else i.b) i.h e) ∧
         (∀ e, e < 8192 → c.len ≤ e → t.velem core i.d i.h e = s.velem core i.d i.h e) ∧
         ∀ k r m, m < 8192 → k ≠ core ∨ r % 16 ≠ i.d % 16 → t.vslot k r m = s.vslot k r m) ∧
     (i.vfn ≤ 3 → ∃ t v, exec (.vred core ctx i) s = .next t ∧ s.onlyCtx core ctx (c.set i.d v).next t ∧
       (i.vfn = 0 → v = b2n (decide (∃ e ∈ es, bit (s.mask core i.a) e = true))) ∧
       (i.vfn = 1 → v = b2n (decide (∀ e ∈ es, bit (s.mask core i.a) e = true))) ∧
       (i.vfn = 2 → v = (es.filter fun e => bit (s.mask core i.a) e).length) ∧
       (i.vfn = 3 → v = (((es.filter fun e => bit (s.mask core i.a) e).head?).getD 0xFFFFFFFF))) ∧
     (i.vfn = 4 ∨ i.vfn = 5 ∨ i.vfn = 6 →
       let wide := fun (e : Nat) => (if i.h then (widen c.strict (s.velem core i.a true e)).1 else s.velem core i.a false e)
       ∃ t st, exec (.vred core ctx i) s = .next t ∧ t.vreg = s.vreg ∧ t.mreg = s.mreg ∧ t.mem = s.mem ∧
         t.ctx core ctx = { (c.set i.d (
           if i.vfn = 4 then es.foldl (fun m e => (min32 c.strict m (wide e)).1) (f32.inf false)
           else if i.vfn = 5 then es.foldl (fun m e => (max32 c.strict m (wide e)).1) (f32.inf true)
           else (vredSum c.strict c.len es.contains wide).1)).next with status := st } ∧
         ∀ k n, n < 2048 → k ≠ core ∨ n ≠ ctx → t.ctx k n = s.ctx k n))

/-- Vector memory instructions: addresses, data and frame (R124 to R126). -/
def Obligations.VectorMemoryResults : Prop :=
  ∀ (s : State) (core ctx : Nat) (i : InsV), s.issues core ctx → s.vchk = [] → s.chk = [] →
    let c := s.ctx core ctx
    let es := s.active core ctx i
    let n := if i.h then 2 else 4
    c.vl ≠ 0 →
    let along := fun (e : Nat) => (c.get i.a + e * (if c.get i.b = 0 then n else c.get i.b)) % 2 ^ 64
    let at' := fun (e : Nat) => (c.get i.a + n * s.velem core i.b false e) % 2 ^ 64
    let loads := fun (x : Instr) (adr : Nat → Nat) =>
      ∃ t, exec x s = .next t ∧ t = { s with vreg := t.vreg, ctxs := t.ctxs } ∧
        s.onlyCtx core ctx c.next { t with vreg := s.vreg } ∧
        (∀ e ∈ es, t.velem core i.d i.h e = ofBytes (s.peek (adr e) n)) ∧
        (∀ e, e < 8192 → e ∉ es → t.velem core i.d i.h e = s.velem core i.d i.h e) ∧
        ∀ k r m, m < 8192 → k ≠ core ∨ r % 16 ≠ i.d % 16 → t.vslot k r m = s.vslot k r m
    let stores := fun (x : Instr) (adr : Nat → Nat) =>
      ∃ t, exec x s = .next t ∧ t = { s with mem := t.mem, ctxs := t.ctxs, freeCtr := s.freeCtr + 1 } ∧
        t.ctx core ctx = c.next ∧ (∀ k m, m < 2048 → k ≠ core ∨ m ≠ ctx → t.ctx k m = s.ctx k m) ∧
        (∀ e ∈ es, (∀ e' ∈ es, e < e' → adr e' + n ≤ adr e ∨ adr e + n ≤ adr e') →
          t.peek (adr e) n = leBytes n (s.velem core i.d i.h e)) ∧
        ∀ y, (∀ e ∈ es, y < adr e ∨ adr e + n ≤ y) → t.byte y = s.byte y
    ((∀ e ∈ es, inLoft core (along e) n = true ∧ along e % n = 0) →
      loads (.vld core ctx i) along ∧ stores (.vst core ctx i) along) ∧
    ((∀ e ∈ es, s.velem core i.b false e < c.get i.c ∧ inLoft core (at' e) n = true ∧ at' e % n = 0) →
      loads (.vgather core ctx i) at' ∧ stores (.vscatter core ctx i) at')

/-- Step 4 of the operations that move and compute tensors, on memory without disturbed codewords. What staging areas hold
afterwards is open (assumption 21); results are formed before any is written (assumption 19). -/
def Obligations.UnitOperationResults : Prop :=
  ∀ (s : State) (id : Nat) (o : Op), s.chk = [] →
    let d := o.desc
    let o1 := s.begun o
    let s1 := s.atStep4 id o
    let runs := fun (x : Instr) (u : State) (o2 : Op) (ps : List Piece) (other : Nat → Prop) =>
      ∃ t, exec x s = .next t ∧ t.op? id = some { o2 with phase := .executed } ∧ (∀ k, k ≠ id → t.op? k = s.op? k) ∧
        s.wrote (writesOf u ps) other t ∧ t.ctxs = s.ctxs ∧ t.sems = s.sems ∧ t.vreg = s.vreg ∧ t.rings = s.rings
    let ts := o1.got.list
    let sw := fun (c : Nat) => swTensors c ts
    let stage := fun (tid y : Nat) => s1.inScaleTable tid y ∨
      (loftBase o.unit + (Swin.parse d).stage ≤ y ∧
        y < loftBase o.unit + (Swin.parse d).stage + (Swin.parse d).kib * 1024)
    (s.mayRun id o 1 1 →
      runs (.matmul id) s1 o1 (mmPieces false o1 ts) (s1.inScaleTable (tensor ts 2).tid)) ∧
    (s.mayRun id o 1 2 → runs (.matmulPartial id) s1 o1 (mmPieces true o1 ts) fun _ => False) ∧
    (s.mayRun id o 2 1 → runs (.partialSum id) s1 o1 (voPieces 1 o1 (tensor ts 0) (tensor ts 1))
      (s1.inScaleTable (tensor ts 1).tid)) ∧
    (s.mayRun id o 2 2 → runs (.permute id) s1 o1 (voPieces 2 o1 (tensor ts 0) (tensor ts 1))
      (s1.inScaleTable (tensor ts 1).tid)) ∧
    (s.mayRun id o 2 3 → runs (.convert id) s1 o1 (voPieces 3 o1 (tensor ts 0) (tensor ts 1))
      (s1.inScaleTable (tensor ts 1).tid)) ∧
    (s.mayRun id o 3 1 → runs (.conv id) s1 o1 (convWork o1 (sw 1).1 (sw 1).2.1 (sw 1).2.2) (stage (sw 1).2.2.tid)) ∧
    (s.mayRun id o 3 2 → runs (.pool id) s1 o1
      (swFetch 2 (Swin.parse d) (sw 2).1 :: poolPieces o1 (sw 2).1 (sw 2).2.2) (stage (sw 2).2.2.tid)) ∧
    (s.mayRun id o 5 1 → ∀ flit, let t := dmaPair 1 ts
      runs (.copy id flit 0) s1 o1 ((indices t.2.ext).map (copyElem t.1 t.2 flit 0)) fun _ => False) ∧
    (s.mayRun id o 5 2 → let t := dmaPair 2 ts
      runs (.fill id) s1 o1 ((indices t.2.ext).map (fillElem d t.2)) fun _ => False)

/-- Step 4 of attention operations, on memory without disturbed codewords (R167, R172 to R183, R189). What the score area
holds afterwards is open (assumption 21). -/
def Obligations.AttentionResults : Prop :=
  ∀ (s : State) (id : Nat) (o : Op), s.chk = [] →
    let d := o.desc
    let o1 := s.begun o
    let s1 := s.atStep4 id o
    let a := o1.attn
    let score := fun (tid y : Nat) => s1.inScaleTable tid y ∨
      (loftBase o.unit + a.score ≤ y ∧ y < loftBase o.unit + a.score + a.kib * 1024)
    let runs := fun (x : Instr) (u : State) (o2 : Op) (ps : List Piece) (other : Nat → Prop) =>
      ∃ t, exec x s = .next t ∧ t.op? id = some { o2 with phase := .executed } ∧ (∀ k, k ≠ id → t.op? k = s.op? k) ∧
        s.wrote (writesOf u ps) other t ∧ t.ctxs = s.ctxs ∧ t.sems = s.sems ∧ t.vreg = s.vreg ∧ t.rings = s.rings
    let merge := o1.got.list
    let o2 := { o1 with fence := some (s.getO Obj.CRIB_NEXT_FENCE) }
    let s2 := { (s1.incO Obj.CRIB_NEXT_FENCE).setOp id o2 with fences := s.fences ++ [s.getO Obj.CRIB_NEXT_FENCE] }
    let s3 := s2.judge o2.table
    (∀ x c, (x, c) ∈ [(Instr.attn id, 1), (Instr.attnPartial id, 2)] → s.mayRun id o 4 c →
      let t := o1.attnTensors
      let tid := if c = 1 then t.o.tid else 0
      (a.crib = false → runs x s1 o1 ((s1.attnSrc a t d []).pieces o1 c) (score tid)) ∧
      (a.crib = true → s.fences.length < 4096 →
        ∀ pages, (s2.snapshots t.k a.entries (List.range (t.q.e 3))).2 = .ok pages →
          runs x s3 o2 ((s3.attnSrc a t d pages).pieces o2 c) (score tid))) ∧
    (s.mayRun id o 4 3 →
      runs (.attnMerge id) s1 o1 (mergePieces o1 merge) (s1.inScaleTable (tensor merge 1).tid))

/-- Data that COPY and PERMUTE move and FILL writes, where the elements of the destination lie apart (R114, R384, R386;
assumption 19). -/
def Obligations.CopiedElementsAreUnchanged : Prop :=
  ∀ (s : State) (id : Nat) (o : Op), s.chk = [] →
    let d := o.desc
    let ts := (s.begun o).got.list
    let apart := fun (u : TD) => ∀ i ∈ indices u.ext, ∀ j ∈ indices u.ext, i ≠ j →
      u.addr i + u.esz ≤ u.addr j ∨ u.addr j + u.esz ≤ u.addr i
    (s.mayRun id o 5 1 → ∀ flit, let p := dmaPair 1 ts
      p.1.fmt = p.2.fmt → apart p.2 → ∃ t, exec (.copy id flit 0) s = .next t ∧
        ∀ i ∈ indices p.2.ext, t.el p.2 i = s.el p.1 i) ∧
    (s.mayRun id o 5 2 → let u := (dmaPair 2 ts).2
      apart u → ∃ t, exec (.fill id) s = .next t ∧
        ∀ i ∈ indices u.ext, t.el u i = dmaPattern d % 2 ^ (8 * u.esz)) ∧
    (s.mayRun id o 2 2 →
      let p := tensor ts 0
      let u := tensor ts 1
      p.fmt = u.fmt → u.tid = 0 → voPermOk d u.rank = true → p.rank = u.rank → u.rank ≤ 5 →
      (∀ i, u.rank ≤ i → u.e i = 1) → apart u → u.ext.length = 5 →
      ∃ t, exec (.permute id) s = .next t ∧
        ∀ i ∈ indices u.ext, ∃ j, t.el u i = s.el p j ∧ ∀ k, k < u.rank → j[voPerm d k]? = i[k]?)

/-- Submission from rings and by the DMA instruction, and the start of kernels (R35, R112, R124, R357, R360). That a
kernel waits at the head of its order is the model's form (assumption 25). -/
def Obligations.SubmissionResults : Prop :=
  ((∀ (s : State) (q : Nat), q < 4096 →
     let r := s.ring q
     let core := r.target / 4
     let stream := r.target % 4
     let a := r.base + 64 * (r.c % 2 ^ r.log2)
     let open' := r.binding = 2 ∧ r.stopped = false ∧ (r.p + 2 ^ 32 - r.c) % 2 ^ 32 ≠ 0 ∧ core < 800 ∧
       s.isStopped core stream = false ∧ s.coreState core ≠ 1 ∧ s.coreState core ≠ 3 ∧
       ∀ p ∈ s.ops, ¬(p.2.ring = q ∧ p.2.phase = .submitted)
     let d := ofBytes (s.peek a 64)
     let o : Op := { unit := core, stream := stream, ring := q, descAddr := a, desc := d }
     (open' → s.clean a 64 → opDefined (opUnit d) (opCode d) = true →
       ∃ t, exec (.commandDescriptorTake q) s = .next t ∧ t.op? s.nextOp = some o ∧ (∀ k, k ≠ s.nextOp → t.op? k = s.op? k) ∧
         t = { s with ops := t.ops, nextOp := s.nextOp + 1 }) ∧
     (open' → s.clean a 64 → opDefined (opUnit d) (opCode d) = false → s.onePost →
       ∃ t, exec (.commandDescriptorTake q) s = .next t ∧ t.op? s.nextOp = none ∧ t.isStopped core stream = true ∧
         ∃ n, s.posted { reason := 0x0101, source := core, tag := opTag d, addr := a,
                         d0 := opUnit d * 256 + opCode d, d1 := n } t) ∧
     (¬open' → exec (.commandDescriptorTake q) s = .next s)) ∧
   ∀ (s : State) (core ctx : Nat) (i : InsA), s.issues core ctx → i.fn % 1024 = 0 →
     let c := s.ctx core ctx
     let a := c.get i.a
     let d := ofBytes (s.peek a 64)
     let o : Op := { unit := core, stream := 5, descAddr := a, desc := d, ctx := ctx + 1 }
     inLoft core a 64 = true → a % 64 = 0 → s.clean a 64 →
       ∃ t, exec (.dma core ctx i) s = .next t ∧ t.ctx core ctx = c.next ∧
         (s.isStopped core 5 = true → s.onlyCtx core ctx c.next t) ∧
         (s.isStopped core 5 = false → opUnit d = 5 → opDefined 5 (opCode d) = true →
           t.op? s.nextOp = some o ∧ (∀ k, k ≠ s.nextOp → t.op? k = s.op? k) ∧
           t = { s with ctxs := t.ctxs, ops := t.ops, nextOp := s.nextOp + 1 }) ∧
         (s.isStopped core 5 = false → ¬(opUnit d = 5 ∧ opDefined 5 (opCode d) = true) →
           t.op? s.nextOp = none ∧ t.isStopped core 5 = true)) ∧
  (∀ (s : State) (id : Nat) (o : Op), s.mayRun id o 2 0x10 →
     let d := o.desc
     let k := rkCtx d
     let m := (s.atStep4 id o).mem
     (∀ j, j ≠ id → ∀ t, exec (.runKernel id) s = .next t → t.op? j = s.op? j) ∧
     ((s.ctx o.unit k).st = .free →
       ∃ t, exec (.runKernel id) s = .next t ∧ t.op? id = some (s.begun o) ∧ t.mem = m ∧ t.sems = s.sems ∧ t.vreg = s.vreg ∧
         (∀ core ctx, ctx < 2048 → core ≠ o.unit ∨ ctx ≠ k → t.ctx core ctx = s.ctx core ctx) ∧
         let c := t.ctx o.unit k
         c.st = .ready ∧ c.pc = rkEntry d ∧ c.op = id ∧ c.tag = opTag d ∧ c.strict = opStrict d ∧ c.sround = opSround d ∧
           c.noexc = opNoexc d ∧ c.vl = 0 ∧ c.tid = 0 ∧ c.korg = 0 ∧
           (∀ r, 1 ≤ r → r ≤ 4 → c.get r = rkArg d r) ∧ (∀ r, r < 16 → r = 0 ∨ 4 < r → c.get r = 0)) ∧
     ((s.ctx o.unit k).st ≠ .free →
       ∃ t, exec (.runKernel id) s = .next t ∧ t.op? id = some { s.begun o with phase := .ready, blocked := true } ∧
         t.readyQ.head? = some id ∧ t.ctxs = s.ctxs ∧ t.mem = m))

/-- Completion (steps 5 to 7 of R38) and abandonment. -/
def Obligations.OperationEnds : Prop :=
  (∀ (s : State) (id : Nat) (o : Op), s.op? id = some o → o.phase = .executed →
     let q := opCsem o.desc
     let x := s.sem q
     let done : ObjDef := match opUnit o.desc with
       | 1 => Obj.MATRIX_OPS_DONE
       | 2 => Obj.VECTOR_OPS_DONE
       | 3 => Obj.SWIN_OPS_DONE
       | 4 => Obj.ATTN_OPS_DONE
       | 5 => Obj.DMA_OPS_DONE
       | 6 => Obj.UPDATE_OPS_DONE
       | 7 => Obj.REDUCE_BALES_DONE
       | _ => Obj.THRESH_OPS_DONE
     ∃ t, exec (.operationComplete id) s = .next t ∧ t.op? id = none ∧
       (s.getO done + 1 < 2 ^ (8 * done.ty.bytes) → t.getO done = s.getO done + 1) ∧
       (opCsemEn o.desc = true → opEvent o.desc = false → x.st ≠ 2 → x.waits = [] → x.count + 1 < 2 ^ 32 →
         t.sem q = { x with count := x.count + 1 } ∧ ∀ k, k ≠ q → (t.sem k).count = (s.sem k).count) ∧
       (opCsemEn o.desc = false → opEvent o.desc = false → t.mem = s.mem ∧ t.rings = s.rings ∧
         ∀ k, (t.sem k).count = (s.sem k).count) ∧
       (let target := if o.unit < 800 then o.unit else 0x800 + dieOfUnit o.unit
        opCsemEn o.desc = false → opEvent o.desc = true → s.quietEvents target →
         s.eventPosted target (s.eventWord 1 o.unit (opTag o.desc) 0 0xFFFF) t)) ∧
  (∀ (s : State) (id a cause group : Nat) (o : Op), s.op? id = some o → o.phase = .failing a cause group → s.onePost →
     let u := opUnit o.desc
     let gone : ObjDef := match u with
       | 1 => Obj.MATRIX_ABANDONED
       | 2 => Obj.VECTOR_ABANDONED
       | 3 => Obj.SWIN_ABANDONED
       | 4 => Obj.ATTN_ABANDONED
       | 5 => Obj.DMA_ABANDONED
       | 6 => Obj.UPDATE_ABANDONED
       | _ => Obj.THRESH_ABANDONED
     ∃ t, exec (.opAbandoned id) s = .next t ∧ t.op? id = none ∧ id ∉ t.leaveQ ∧ id ∉ t.readyQ ∧
       s.posted { reason := 0x0104, source := if u = 8 then 0x32A + dieOfUnit o.unit else o.unit, tag := opTag o.desc,
                  addr := a, d0 := cause, d1 := group } t ∧
       (1 ≤ u → u ≤ 8 → u ≠ 7 → ¬(u = 2 ∧ opCode o.desc = 0x10) → s.getO gone + 1 < 2 ^ (8 * gone.ty.bytes) → t.getO gone = s.getO gone + 1) ∧
       (o.unit < 800 → t.getO Obj.CORE_LAST_FAIL_TAG o.unit = opTag o.desc))

/-- The allotment's queue and the ends of step 2 (R38, R353, R484 to R488). -/
def Obligations.LeaveGrantResults : Prop :=
  ∀ (s : State) (id : Nat) (o : Op), s.op? id = some o →
    let used := s.heldLeave + s.reservedLeave
    let c := s.effCost o.ask (o.die s)
    (∀ rest, s.leaveQ = id :: rest → firstUnmade s.resvs = none →
      (s.getO Obj.LEAVE_FROZEN = 0 → used + c ≤ s.pool ∨ (s.pool < c ∧ used = 0) → id ∉ rest →
        ∃ t, exec .opLeaveGrant s = .next t ∧ t.op? id = some { o with held := c, phase := .ready } ∧ id ∈ t.readyQ ∧
          id ∉ t.leaveQ) ∧
      (s.getO Obj.LEAVE_FROZEN = 0 → ¬(used + c ≤ s.pool ∨ (s.pool < c ∧ used = 0)) → exec .opLeaveGrant s = .next s)) ∧
    (s.getO Obj.LEAVE_FROZEN ≠ 0 →
      ∃ t, exec .opLeaveGrant s = .next t ∧ t.ops = s.ops ∧ t.resvs = s.resvs ∧ t.leaveQ = s.leaveQ) ∧
    (o.phase = .semGranted → opLeaveClass o.desc = 0 →
      ∃ t, exec (.opWaitGrant id) s = .next t ∧ t.op? id = some { o with phase := .ready } ∧ t.readyQ = s.readyQ ++ [id]) ∧
    (o.phase = .semGranted → opLeaveClass o.desc ≠ 0 → opLeavePre o.desc = false → s.getO Obj.LEAVE_FROZEN ≠ 0 →
      ∃ t, exec (.opWaitGrant id) s = .next t ∧ t.op? id = some { o with phase := .waitLeave, ask := (o.costOf s).1 } ∧
        t.leaveQ = s.leaveQ ++ [id]) ∧
    (o.phase = .semOrphan → o.bale = none → s.onePost →
      ∃ t, exec (.opWaitGrant id) s = .next t ∧ t.op? id = none ∧ t.isStopped o.unit o.stream = true ∧
        s.posted { reason := 0x0102, source := o.unit, tag := opTag o.desc, addr := o.descAddr, d0 := opWsem o.desc } t)

/-- The writes that clear sticky flags, error counts and the fault map. -/
def Obligations.FlagClearWrites : Prop :=
  ∀ (s : State) (src : Src) (m core : Nat), core < 800 →
    let u := s.taken src
    let writes := fun (x : Instr) (o : ObjDef) (i v : Nat) (P : State → Prop) =>
      s.acceptedWrite src o i 0 v → ∃ w : State, exec x s = .next (w.answered s src 4 0 0 []) ∧ P w
    let clears := fun (x : Instr) (o : ObjDef) (i : Nat) (fs : List (ObjDef × Nat)) =>
      writes x o i m fun w => w = { u with obj := w.obj } ∧
        (∀ f ∈ fs, ∀ k < 8 * f.1.ty.bytes, bit (w.getO f.1 f.2) k = (bit (u.getO f.1 f.2) k && !bit m k)) ∧
        ∀ p k l, (∀ f ∈ fs, p.key k l ≠ f.1.key f.2 0) → w.getO p k l = u.getO p k l
    clears (.numericFlagsClear src m) Obj.NUMERIC_FLAGS_CLEAR 0 ((List.range 800).map fun n => (Obj.CORE_NUMERIC_FLAGS, n)) ∧
    clears (.coreFlagsClear src core m) Obj.CORE_FLAGS_CLEAR core [(Obj.CORE_NUMERIC_FLAGS, core)] ∧
    clears (.updateFlagsClear src m) Obj.UPDATE_FLAGS_CLEAR 0 [(Obj.UPDATE_FLAGS_CD0, 0), (Obj.UPDATE_FLAGS_CD1, 0)] ∧
    clears (.reduceFlagsClear src m) Obj.REDUCE_FLAGS_CLEAR 0 [(Obj.REDUCE_FLAGS, 0)] ∧
    clears (.threshFlagsClear src m) Obj.THRESH_FLAGS_CLEAR 0 [(Obj.THRESH_FLAGS, 0)] ∧
    clears (.supplyWarnClear src m) Obj.SUPPLY_WARN_CLEAR 0 [(Obj.SUPPLY_WARN_FLAGS, 0)] ∧
    clears (.pllLossClear src m) Obj.PLL_LOSS_CLEAR 0 [(Obj.PLL_LOSS_FLAGS, 0)] ∧
    writes (.attnEmptyFlagClear src) Obj.ATTN_EMPTY_FLAG 0 0 (fun w => w = { u with obj := w.obj } ∧
      w.getO Obj.ATTN_EMPTY_FLAG = 0 ∧ ∀ p k l, p.key k l ≠ Obj.ATTN_EMPTY_FLAG.key → w.getO p k l = u.getO p k l) ∧
    writes (.errClearCounts src) Obj.ERR_CLEAR 0 1 (fun w => w = { u with obj := w.obj } ∧
      (∀ j < 5, w.getO Obj.ERR_COUNT 0 j = 0) ∧ w.getO Obj.ERR_FIRST_SEQ = 0xFFFFFFFF ∧
      ∀ p k l, (∀ j < 5, p.key k l ≠ Obj.ERR_COUNT.key 0 j) → p.key k l ≠ Obj.ERR_FIRST_SEQ.key → w.getO p k l = u.getO p k l) ∧
    writes (.errClearFaultMap src) Obj.ERR_CLEAR 0 2 (fun w => w = { u with obj := w.obj, blob := w.blob } ∧
      SMap.get (List.replicate 100 0) w.blob Obj.CORE_FAULT_MAP.key = List.replicate 100 0 ∧
      w.getO Obj.CORE_FAULT_COUNT = 0 ∧ ∀ p k l, p.key k l ≠ Obj.CORE_FAULT_COUNT.key → w.getO p k l = u.getO p k l)

/-- Semaphore operations that poll, the owner's acts, the order in which a signal serves waits, and overflow (R342 to
R347, R354, R365). STATUS 5 of a misuse is the model's reading (assumption 36). -/
def Obligations.PolledSemaphoreResults : Prop :=
  ((∀ (s : State) (src : Src) (k op q n : Nat), k < 4 → s.alive = true → 1 ≤ op → op ≤ 4 → q < 4096 →
     let via := s.acceptedWrite src Obj.HOST_SEM_OP 0 0 op
     let u := s.taken src
     let host : Instr := if op = 1 then .hostSemSignal src else if op = 2 then .hostSemTry src
       else if op = 3 then .hostSemLock src else .hostSemUnlock src
     let hq := u.getSel src.rq Obj.HOST_SEM_NUMBER
     let hn := u.getSel src.rq Obj.HOST_SEM_ARG
     let hwho : SemWho := if src.rq < 16 then .host src.rq else .steward (src.rq - 16)
     let gives := fun (ok : Nat → Nat → SemWho → Sem → Prop) (y : SemWho → Nat → Sem → Sem) (r : Nat) =>
       (ok q n (.steward k) (s.sem q) →
         ∃ w : State, exec (.stewardSemOperation k op q n) s = .next (w.emit (.steward k 0 r)) ∧
           w = { s with sems := w.sems, obj := w.obj, freeCtr := w.freeCtr } ∧ w.sem q = y (.steward k) n (s.sem q) ∧
           ∀ j, j ≠ q → w.sem j = s.sem j) ∧
       (via → ok hq hn hwho (u.sem hq) →
         ∃ w : State, exec host s = .next (w.answered s src 4 0 0 []) ∧
           w = { u with sems := w.sems, obj := w.obj, freeCtr := w.freeCtr, sel := w.sel } ∧
           w.sem hq = y hwho hn (u.sem hq) ∧ (∀ j, j ≠ hq → w.sem j = u.sem j) ∧
           w.getSel src.rq Obj.HOST_SEM_RESULT = r)
     let free := fun (x : Sem) (n : Nat) => x.waits = [] ∧ n ≤ x.count
     gives (fun _ n _ x => op = 1 ∧ n ≠ 0 ∧ x.st ≠ 2 ∧ x.waits = [] ∧ x.count + n < 2 ^ 32)
       (fun _ n x => { x with count := x.count + n }) 0 ∧
     gives (fun _ n _ x => op = 1 ∧ n ≠ 0 ∧ x.st = 2) (fun _ _ x => x) 0 ∧
     gives (fun _ n _ x => op = 2 ∧ n ≠ 0 ∧ x.st ≠ 2 ∧ free x n) (fun _ n x => { x with count := x.count - n }) 0 ∧
     gives (fun _ n _ x => op = 2 ∧ n ≠ 0 ∧ x.st ≠ 2 ∧ ¬free x n) (fun _ _ x => x) 2 ∧
     gives (fun _ n _ x => op = 2 ∧ n ≠ 0 ∧ x.st = 2) (fun _ _ x => x) 1 ∧
     gives (fun _ _ _ x => op = 3 ∧ x.st = 0 ∧ free x 1)
       (fun w _ x => { x with count := x.count - 1, st := 1, owner := s.ownerTag w }) 0 ∧
     gives (fun _ _ w x => op = 3 ∧ x.st ≠ 2 ∧ ¬(x.st = 1 ∧ x.ownedBy w = true) ∧ ¬(x.st = 0 ∧ free x 1)) (fun _ _ x => x) 2 ∧
     gives (fun _ _ _ x => op = 3 ∧ x.st = 2) (fun _ _ x => x) 1 ∧
     gives (fun _ _ w x => op = 4 ∧ x.st = 1 ∧ x.ownedBy w = true ∧ x.waits = [] ∧ x.count + 1 < 2 ^ 32)
       (fun _ _ x => { x with count := x.count + 1, st := 0, owner := 0 }) 0 ∧
     (let x := s.sem q
      let who := SemWho.steward k
      ((op ≤ 2 ∧ n = 0) ∨ (op = 3 ∧ x.st = 1 ∧ x.ownedBy who = true) ∨ (op = 4 ∧ ¬(x.st = 1 ∧ x.ownedBy who = true))) →
       s.onePost → s.getO Obj.SEM_MISUSE + 1 < 2 ^ 32 →
       ∃ w : State, exec (.stewardSemOperation k op q n) s = .next (w.emit (.steward k 5 0)) ∧
         w.getO Obj.SEM_MISUSE = s.getO Obj.SEM_MISUSE + 1 ∧
         s.posted { reason := 0x0301, d0 := q, d1 := bits (s.ownerTag who) 43 32 } w)) ∧
   ∀ (s : State) (src : Src),
     let u := s.taken src
     let q := u.getSel src.rq Obj.SEM_SEL_NUMBER
     let n := u.getO Obj.SEM_ACT_COUNT
     let x := u.sem q
     let acts := fun (i : Instr) (v : Nat) (cond : Prop) (y : Sem) (st code : Nat) =>
       s.acceptedWrite src Obj.SEM_ACT_GO 0 0 v → cond →
         ∃ w : State, exec i s = .next (w.answered s src 4 st 0 []) ∧ w = { u with sems := w.sems, obj := w.obj } ∧ w.sem q = y ∧
           (∀ k, k ≠ q → w.sem k = u.sem k) ∧ w.getO Obj.SEM_ACT_STATUS = code
     acts (.semActSet src) 1 (u.running = false ∧ x.waits = [] ∧ x.st = 0) { x with count := n, st := 0, owner := 0 } 0 0 ∧
     acts (.semActSet src) 1 (u.running = true) x 3 1 ∧
     acts (.semActSet src) 1 (u.running = false ∧ x.waits ≠ []) x 5 2 ∧
     acts (.semActSet src) 1 (u.running = false ∧ x.waits = [] ∧ x.st ≠ 0) x 5 4 ∧
     acts (.semRecoveryClear src) 2 (x.st = 2) { count := n, st := 0, owner := 0, waits := [] } 0 0 ∧
     acts (.semRecoveryClear src) 2 (x.st ≠ 2) x 5 3) ∧
  (∀ (s : State) (k q n : Nat), k < 4 → s.alive = true → q < 4096 → n ≠ 0 →
     let x := s.sem q
     x.st ≠ 2 → x.count + n < 2 ^ 32 →
     ∃ t rest, exec (.stewardSemOperation k 1 q n) s = .next t ∧ x.waits = rest ++ (t.sem q).waits ∧
       (∀ j, j ≠ q → t.sem j = s.sem j) ∧
       (t.sem q).count + (rest.map fun r => if r.lock then 1 else r.n).sum = x.count + n ∧
       ∀ r, (t.sem q).waits.head? = some r →
         if r.lock = true then (t.sem q).count = 0 ∨ (t.sem q).st ≠ 0 else (t.sem q).count < r.n) ∧
  (∀ (s : State) (k q n : Nat), k < 4 → s.alive = true → q < 4096 → n ≠ 0 → n < 2 ^ 32 →
     let x := s.sem q
     x.st ≠ 2 → x.waits = [] → 2 ^ 32 ≤ x.count + n → s.onePost → s.ringFor 5 0 = none →
     ∃ t, exec (.stewardSemOperation k 1 q n) s = .next t ∧ t.sem q = { x with count := 0xFFFFFFFF } ∧
       (∀ j, j ≠ q → (t.sem j).count = (s.sem j).count) ∧
       (s.getO Obj.SEM_OVERFLOWS + 1 < 2 ^ 32 → t.getO Obj.SEM_OVERFLOWS = s.getO Obj.SEM_OVERFLOWS + 1) ∧
       s.posted { reason := 0x0302, d0 := q } t ∧ s.stopRaised 0x0302 t)

/-- The tick (R299, R324, R325), and count at most grant as an invariant of the almanac's commands. That the counters go
on in LOST is the model's choice (assumption 39). -/
def Obligations.AlmanacTickResults : Prop :=
  (∀ (s : State), 2 ≤ s.getO Obj.ALMANAC_STATE → s.tickDue = false →
     let a := s.getO Obj.ALMANAC_COUNT
     let k := (s.getO Obj.ALMANAC_TICK + 1) % 2 ^ 64
     let g := match s.alm.resume with
       | some (t, g) => if t ≤ k then max g (s.getO Obj.ALMANAC_GRANT) else s.getO Obj.ALMANAC_GRANT
       | none => s.getO Obj.ALMANAC_GRANT
     ∃ t, exec .almanacTick s = .next t ∧ t.getO Obj.ALMANAC_TICK = k ∧ g ≤ t.getO Obj.ALMANAC_GRANT ∧
       t.mem = s.mem ∧ t.ops = s.ops ∧ t.sems = s.sems ∧ t.ctxs = s.ctxs ∧ t.tables = s.tables ∧
       (a = g → t.getO Obj.ALMANAC_COUNT = a ∧
         t.getO Obj.ALMANAC_HELD_BEATS = (s.getO Obj.ALMANAC_HELD_BEATS + 1) % 2 ^ 64 ∧
         (t.getO Obj.HOLD_ACTIVE = if s.alm.stop.any (fun b => decide (b ≤ a + 1)) then 0 else 1)) ∧
       (a ≠ g → t.getO Obj.ALMANAC_COUNT = (a + 1) % 2 ^ 64 ∧
         t.getO Obj.ALMANAC_HELD_BEATS = s.getO Obj.ALMANAC_HELD_BEATS ∧ t.getO Obj.HOLD_ACTIVE = 0) ∧
       (s.isMaster = false → t.getO Obj.ALMANAC_GRANT = g) ∧
       (s.isMaster = true → s.alm.capped = false → s.alm.resume = none → ∀ h ∈ s.alm.holds, 0 < h.beat →
         t.getO Obj.ALMANAC_GRANT ≤ max g (h.beat - 1)) ∧
       (s.isMaster = true → s.alm.capped = false → s.alm.resume = none → s.alm.holds = [] → s.alm.stop = none → a ≠ g →
         t.getO Obj.ALMANAC_GRANT = max g ((a + 1) % 2 ^ 64 + s.getO Obj.ALMANAC_HORIZON))) ∧
  (∀ (s t : State) (x : Instr), s.getO Obj.ALMANAC_COUNT ≤ s.getO Obj.ALMANAC_GRANT →
     (x = .almanacTick ∨ x = .beaconSend ∨ (∃ p b r l, x = .beaconReceive p b r l) ∨ x = .almanacLost ∨
       (∃ p m, x = .hold p m ∨ x = .release p m ∨ x = .resume p m ∨ x = .start p m ∨ x = .stopRequest p m ∨ x = .stop p m) ∨
       x = .masterResume ∨ x = .startTick ∨ x = .stopComplete ∨ x = .holdLimit ∨ ∃ sec ns, x = .epochBoundary sec ns) →
     exec x s = .next t → t.getO Obj.ALMANAC_COUNT ≤ t.getO Obj.ALMANAC_GRANT ∧
       (x ≠ .almanacTick → (∀ p b r l, x ≠ .beaconReceive p b r l) → t.getO Obj.ALMANAC_COUNT = s.getO Obj.ALMANAC_COUNT))

/-- Beacons (R302 to R306). The fractions of ticks in stamps are operands (assumption 41). -/
def Obligations.BeaconResults : Prop :=
  (∀ (s : State), s.getO Obj.ALMANAC_ROLE ≠ 3 → s.getO Obj.ALMANAC_STATE = 2 → s.getO Obj.ALMANAC_TICK % 8 = 0 →
    s.alm.sentAt ≠ s.getO Obj.ALMANAC_TICK + 1 →
    ∃ t, exec .beaconSend s = .next t ∧ t = { s with ports := t.ports, alm := t.alm } ∧
      t.alm.sentAt = s.getO Obj.ALMANAC_TICK + 1 ∧
      (s.isMaster = true → t.alm.masterSeq = (s.alm.masterSeq + 1) % 2 ^ 32) ∧
      (s.isMaster = false → t.alm.masterSeq = s.alm.masterSeq) ∧
      ∀ p, p < 8 →
        (s.portUp p = true ∨ s.getO Obj.PORT_STATE p = 2 → ∃ b : Beacon,
          t.port p = { s.port p with beacons := (s.port p).beacons ++ [b] } ∧ b.beatNs = s.getO Obj.ALMANAC_BEAT_NS ∧
          b.seq = t.alm.masterSeq ∧ b.depth = s.getO Obj.ALMANAC_DEPTH ∧ b.port = p ∧
          b.master = (if s.alm.heard then s.alm.master else noMaster)) ∧
        (s.getO Obj.PORT_STATE p ≠ 3 → s.getO Obj.PORT_STATE p ≠ 2 → t.port p = s.port p)) ∧
  (∀ (s : State) (port rxPs lmax : Nat) (b : Beacon), port < 8 → s.getO Obj.ALMANAC_ROLE ≠ 3 →
    let x := Instr.beaconReceive port b rxPs lmax
    let near := b.coords = s.coordField (s.neighbour port)
    let sends := fun (t : State) => ∀ p, p < 8 → p ≠ port → s.portUp p = true →
      (s.port p).ctlQ ++ [(2, beaconBlocks b)] <+: (t.port p).ctlQ
    let second := b.master ≠ noMaster ∧ ((s.isMaster = true ∧ b.master ≠ s.origin) ∨
      (s.isMaster = false ∧ s.alm.heard = true ∧ s.alm.master ≠ b.master))
    (s.getO Obj.PORT_STATE port = 2 → exec x s = .next (s.setPort port
      { s.port port with rxTick := s.getO Obj.ALMANAC_TICK, rxPs := rxPs, rxId := b.id })) ∧
    (s.portUp port = true → b.beatNs ≠ s.getO Obj.ALMANAC_BEAT_NS → ∃ t, exec x s = .next t ∧
      t.getO Obj.PORT_STATE port = 4 ∧ t.getO Obj.PORT_FAULT_REASON port = 4) ∧
    (s.portUp port = true → b.beatNs = s.getO Obj.ALMANAC_BEAT_NS → ¬second → s.isMaster = false → ¬near →
      let st := if s.getO Obj.ALMANAC_STATE = 0 then 1 else s.getO Obj.ALMANAC_STATE
      let fresh := b.master ≠ noMaster ∧ (s.alm.heard = false ∨ newer 32 b.seq s.alm.masterSeq = true)
      ∃ t, exec x s = .next t ∧ t.getO Obj.ALMANAC_STATE = st ∧
        (fresh → t.alm.masterSeq = b.seq ∧ t.alm.master = b.master ∧ t.alm.heard = true ∧ t.alm.silent = 0 ∧ sends t ∧
          (st = 2 → t.getO Obj.ALMANAC_GRANT = max (s.getO Obj.ALMANAC_GRANT) b.grant)) ∧
        (¬fresh → t = s.setO Obj.ALMANAC_STATE st ∨ t = s)) ∧
    (s.portUp port = true → b.beatNs = s.getO Obj.ALMANAC_BEAT_NS → second → s.getO Obj.ALMANAC_STATE ≠ 3 → s.onePost →
      ∃ t, exec x s = .next t ∧ t.getO Obj.ALMANAC_STATE = 3 ∧ t.getO Obj.ERR_LAST_REASON = 0x0401 ∧
        (SMap.get 0 s.alm.others b.master = 0 → sends t))) ∧
  (∀ (s : State) (rxPs t1 lat : Nat) (off : Int) (b : Beacon), s.getO Obj.ALMANAC_STATE = 2 →
    (s.instant b.rxTick b.rxPs : Int) = t1 + lat - off →
    (s.instant (s.getO Obj.ALMANAC_TICK) rxPs : Int) = s.instant b.tick b.txPs + lat + off →
    s.beaconOffset rxPs b t1 = (off, lat)) ∧
  (∀ (s : State), s.getO Obj.ALMANAC_STATE = 2 → s.isMaster = false → s.getO Obj.ALMANAC_LOSS_TICKS ≤ s.alm.silent →
    s.onePost → ∃ t, exec .almanacLost s = .next t ∧ t.getO Obj.ALMANAC_STATE = 3 ∧
      t.getO Obj.ERR_LAST_REASON = 0x0401) ∧
  ∀ (s : State) (o hf hi : Nat), s.isMaster = true →
    ∃ t, exec (.lockHopsReport o hf hi) s = .next t ∧ (o, hf, hi) ∈ t.alm.hops ∧
      (∀ p ∈ t.alm.hops, p.1 = o → p = (o, hf, hi)) ∧
      (s.linkCfg.fields ≤ 1 → t.getO Obj.ALMANAC_SKEW_BOUND_NS = 40) ∧
      (1 < s.linkCfg.fields → o ≠ s.origin →
        4 * hf + 30 * hi + 200 ≤ 10 * t.getO Obj.ALMANAC_SKEW_BOUND_NS)

/-- Control messages (R302, R322, R324, R325, R330, R331). -/
def Obligations.ControlMessageResults : Prop :=
  (∀ (s : State) (port : Nat) (m : Ctl), port < 8 → s.portUp port = true → s.getO Obj.ALMANAC_ROLE ≠ 3 →
     let key := m.origin % 65536 * 2 ^ 24 + m.seq % 2 ^ 24
     (s.alm.seen.contains key = true → ∀ x ∈ [Instr.hold port m, .release port m, .resume port m, .start port m,
       .stopRequest port m, .stop port m], exec x s = .next s) ∧
     (s.alm.seen.contains key = false →
       let sends := fun (x : Instr) (kind : Nat) (P : State → Prop) =>
         ∃ t, exec x s = .next t ∧ t.alm.seen.contains key = true ∧
           (∀ p, p < 8 → p ≠ port → s.portUp p = true →
             (s.port p).ctlQ ++ [(3, ctlBlocks kind m)] <+: (t.port p).ctlQ) ∧ P t
       let fresh := SMap.get 0 s.alm.lastMsg m.origin = 0 ∨ newer 24 m.seq (SMap.get 0 s.alm.lastMsg m.origin - 1) = true
       let others := s.alm.holds.filter fun h => decide (h.origin ≠ m.origin)
       let h := ({ origin := m.origin, beat := m.x, reason := m.y, seq := m.seq } : Held)
       sends (.hold port m) 1 (fun t =>
         (fresh → (∀ k ∈ s.alm.holds, k.origin ≠ m.origin) → t.alm.holds = s.alm.holds ++ [h]) ∧
         (fresh → (∃ k ∈ s.alm.holds, k.origin = m.origin) →
           t.alm.holds = s.alm.holds.map fun k => if k.origin = m.origin then h else k) ∧
         (¬fresh → t.alm.holds = s.alm.holds)) ∧
       sends (.release port m) 2 (fun t =>
         (fresh → t.alm.holds = others) ∧ (¬fresh → t.alm.holds = s.alm.holds)) ∧
       sends (.resume port m) 3 (fun t => t.alm.resume = some (m.x, s.getO Obj.ALMANAC_GRANT + m.y) ∧
         t.getO Obj.ALMANAC_GRANT = s.getO Obj.ALMANAC_GRANT) ∧
       sends (.start port m) 4 (fun t => t.alm.start = some (m.y % 2 ^ 32, m.x)) ∧
       sends (.stopRequest port m) 6 (fun t =>
         (s.isMaster = false → t.alm.stop = s.alm.stop) ∧
         (s.isMaster = true → s.alm.started = true → s.alm.stop = none →
           t.alm.stop = some (s.boundaryAbove (max (s.getO Obj.ALMANAC_GRANT) (s.alm.resume.elim 0 (·.2)))) ∧
           t.alm.holds = [])) ∧
       (s.stoodOut = false → sends (.stop port m) 5 (fun t =>
         (s.alm.stop = none → t.alm.stop = some m.x ∧ t.alm.holds = [] ∧ t.alm.conds = [] ∧ t.stepRun = none ∧
           t.stepQueue = [] ∧ t.getO Obj.SCHED_STOP_BEAT = m.x ∧
           ∀ q, (t.table q).swap = (s.table q).swap.filter fun w => decide (s.firstBeat w.2 < (m.x : Int))) ∧
         (s.alm.stop.isSome = true → t.alm.stop = s.alm.stop))))) ∧
  (∀ (s : State),
     let g := s.getO Obj.ALMANAC_GRANT
     let gn := s.underCaps (g + s.getO Obj.ALMANAC_HORIZON)
     let tres := s.getO Obj.ALMANAC_TICK + s.getO Obj.ALMANAC_PATH_TICKS + 4
     (s.isMaster = true → s.alm.capped = true → s.alm.resume = none → s.getO Obj.ALMANAC_COUNT = g →
       s.getO Obj.ALMANAC_PATH_TICKS ≤ s.alm.stoodTicks → g < gn → s.getO Obj.ALMANAC_ROLE ≠ 3 →
       ∃ t, exec .masterResume s = .next t ∧ t.alm.resume = some (tres, gn) ∧ t.getO Obj.ALMANAC_GRANT = g ∧
         ∀ p, p < 8 → s.portUp p = true → (t.port p).ctlQ = (s.port p).ctlQ ++
           [(3, ctlBlocks 3 { origin := s.origin, seq := (s.alm.msgSeq + 1) % 2 ^ 24, x := tres, y := gn - g })]) ∧
     (gn ≤ g → exec .masterResume s = .next s) ∧
     (∀ h ∈ s.alm.holds, h.beat ≤ g + 1 → exec .masterResume s = .next s))

/-- Start and stop of a schedule (R311, R328, R330, R331, R535). DETAIL0 of a steward's stop is the model's choice
(assumption 44). -/
def Obligations.ScheduleResults : Prop :=
  ((∀ (s : State) (src : Src) (e0 : Nat), s.acceptedWrite src Obj.SCHED_START 0 0 e0 →
     let u := s.taken src
     let may := u.isMaster = true ∧ (u.dev = 3 ∨ u.dev = 5) ∧ u.alm.start = none ∧ u.getO Obj.ALMANAC_STATE = 2 ∧
       u.getO Obj.ALMANAC_SKEW_BOUND_NS < u.getO Obj.ALMANAC_BEAT_NS ∧ u.bankInvalid = false ∧ u.updating = false
     (may → ∃ w : State, exec (.schedStart src e0) s = .next (w.answered s src 4 0 0 []) ∧
       w.alm.start = some (e0, u.getO Obj.ALMANAC_TICK + u.getO Obj.ALMANAC_PATH_TICKS + 4) ∧ w.dev = u.dev) ∧
     (¬may → exec (.schedStart src e0) s = .next (u.answered s src 4 3 0 []))) ∧
   ∀ (s : State) (e0 t0 : Nat), s.alm.start = some (e0, t0) → t0 ≤ s.getO Obj.ALMANAC_TICK →
     let a := s.getO Obj.ALMANAC_COUNT
     let may := (s.dev = 3 ∨ s.dev = 5) ∧ s.getO Obj.ALMANAC_STATE = 2 ∧ s.getO Obj.LP_STATE ≠ 2 ∧ s.updating = false
     ∃ t, exec .startTick s = .next t ∧ t.getO Obj.SCHED_E0 = e0 ∧ t.getO Obj.SCHED_E0_COUNT = a ∧
       t.getO Obj.ALMANAC_COUNT = a ∧ t.alm.start = none ∧ t.alm.started = true ∧
       t.getO Obj.ALMANAC_GRANT = max (s.getO Obj.ALMANAC_GRANT) (a + s.getO Obj.ALMANAC_HORIZON) ∧
       t.getO Obj.SCHED_EPOCH = e0 ∧
       (may → t.dev = 4 ∧ t.alm.stop = none ∧ t.getO Obj.DEVICE_STATE_PRIOR = s.dev) ∧
       (¬may → s.onePost → t.dev = s.dev ∧ t.getO Obj.ERR_LAST_REASON = 0x0408)) ∧
  ((∀ (s : State) (src : Src), s.acceptedWrite src Obj.SCHED_STOP 0 0 1 → s.onePost →
     ∃ w : State, exec (.schedStop src) s = .next (w.answered s src 4 0 0 []) ∧
       (s.taken src).posted { reason := 0x0406, d0 := if src.rq < 16 then src.rq else 0xFF } w ∧
       (s.running = true → s.alm.started = true → s.isMaster = true → s.alm.stop = none →
         w.alm.stop = some (s.boundaryAbove s.permitted))) ∧
   (∀ (s : State) (b : Nat), s.running = true → s.alm.stop = some b → b ≤ s.getO Obj.ALMANAC_COUNT + 1 →
     ((∀ p ∈ s.ops, p.2.phase = .submitted ∧ p.2.entry = none) →
       ∃ t, exec .stopComplete s = .next t ∧ t.dev = (if s.alm.fatal then 7 else 5) ∧ t.getO Obj.DEVICE_STATE_PRIOR = 4 ∧
         (∀ q, (t.table q).swap = none ∧ (t.table q).open_ = [] ∧ (t.table q).bank0 = (s.table q).bank0 ∧
           (t.table q).bank1 = (s.table q).bank1 ∧ (t.table q).active = (s.table q).active) ∧
         t = { s with obj := t.obj, freeCtr := t.freeCtr, alm := t.alm, ports := t.ports, tables := t.tables, load := t.load }) ∧
     ((∃ p ∈ s.ops, p.2.phase ≠ .submitted ∨ p.2.entry ≠ none) → exec .stopComplete s = .next s)) ∧
   ∀ (s : State), s.isMaster = true → s.running = true → s.stoodOut = true → s.onePost →
     let h := s.alm.holds.headD { origin := s.getO Obj.HOLD_LAST_SOURCE, beat := 0, reason := 0, seq := 0 }
     ∃ t, exec .holdLimit s = .next t ∧ t.alm.stop = some (s.getO Obj.ALMANAC_GRANT + 1) ∧
       t.getO Obj.HOLD_LAST_SOURCE = h.origin ∧ t.getO Obj.HOLD_LAST_REASON = h.reason ∧
       t.getO Obj.ERR_LAST_REASON = 0x0403)

/-- Epoch boundaries and the association with IEEE 1588 time (R307, R310). The rate within a second is the model's reading
(assumption 42). -/
def Obligations.EpochBoundaryResults : Prop :=
  (∀ (s : State) (sec ns : Nat), s.alm.started = true →
     let e := (s.epochOf s.count).1
     let stamps := fun (t : State) (n : Nat) => s.isMaster = true → s.getO Obj.PTP_ASSOC_EN = 1 →
       s.getO Obj.PTP_STATE = 1 ∨ s.getO Obj.PTP_STATE = 3 →
       t.getO Obj.PTP_STAMP_EPOCH = n ∧ t.getO Obj.PTP_STAMP_SECONDS = sec % 2 ^ 48 ∧ t.getO Obj.PTP_STAMP_NS = ns % 2 ^ 32
     (s.alm.e0Due = true → ∃ t, exec (.epochBoundary sec ns) s = .next t ∧ t.alm.e0Due = false ∧
       stamps t (s.getO Obj.SCHED_E0) ∧ t.getO Obj.SCHED_EPOCH = s.getO Obj.SCHED_EPOCH ∧ t.stepRun = s.stepRun) ∧
     (s.alm.e0Due = false → s.getO Obj.SCHED_EPOCH = e → exec (.epochBoundary sec ns) s = .next s) ∧
     (s.alm.e0Due = false → s.getO Obj.SCHED_EPOCH ≠ e →
       ∃ t, exec (.epochBoundary sec ns) s = .next t ∧ t.getO Obj.SCHED_EPOCH = e ∧
         t.getO Obj.ALMANAC_COUNT = s.getO Obj.ALMANAC_COUNT ∧ stamps t e ∧
         ((∀ p ∈ s.sems, p.2.waits = []) → s.unrec = [] → s.alm.stop = none →
           let step := s.running = true ∧ s.stepDead = none ∧ e % s.getO Obj.STEP_EPOCHS = s.getO Obj.STEP_PHASE
           (step → s.stepRun = none → t.stepRun = some { boundary := e } ∧ t.stepQueue = s.stepQueue) ∧
           (step → s.stepRun.isSome = true → t.stepRun = s.stepRun ∧ t.stepQueue = s.stepQueue ++ [e]) ∧
           (¬step → t.stepRun = s.stepRun ∧ t.stepQueue = s.stepQueue)))) ∧
  ((∀ (s : State) (p rxNs txNs : Nat) (f : EthFrame) (m : List Byte) (ppb : Int), p < 2 → s.isMaster = true →
     s.getO Obj.PTP_ASSOC_EN = 1 → s.getO Obj.PTP_ASSOC_PORT = p → 2 ≤ s.dev → s.ethUp p = true →
     let u := s.ethCount p f
     u.takesFrame p f = true → ptpOf f.bytes = some m → u.takesPacket p f.bytes = true → beAt m 0 1 % 16 = 0 →
     beAt m 4 1 = s.getO Obj.ETH_PTP_DOMAIN p →
     let g := s.getI Obj.PTP_FREQ_PPB
     (-20000 ≤ g ∧ g ≤ 20000) →
     ∃ t, exec (.ptpEventMessage p f ⟨rxNs, txNs⟩ ppb) s = .next t ∧
       t = { s with obj := t.obj, freeCtr := t.freeCtr, alm := t.alm, eths := t.eths, out := t.out } ∧
       -20000 ≤ t.getI Obj.PTP_FREQ_PPB ∧ t.getI Obj.PTP_FREQ_PPB ≤ 20000 ∧
       (t.getI Obj.PTP_FREQ_PPB - g).natAbs ≤ s.getO Obj.DEVICE_UPTIME_MS - s.alm.steerMs ∧
       (t.getI Obj.PTP_FREQ_PPB - max (-20000) (min 20000 ppb)).natAbs ≤ (g - max (-20000) (min 20000 ppb)).natAbs ∧
       t.getO Obj.PTP_STATE = (if 20000 < ppb ∨ ppb < -20000 then 3 else 1) ∧
       t.getO Obj.ALMANAC_TICK = s.getO Obj.ALMANAC_TICK ∧ t.getO Obj.ALMANAC_COUNT = s.getO Obj.ALMANAC_COUNT ∧
       (t.eth p).ptp.t2 = rxNs ∧ (t.eth p).ptp.t3 = txNs ∧ (t.eth p).ptp.seq = ((s.eth p).ptp.seq + 1) % 65536 ∧
       (bit (beAt m 6 1) 1 = false → (t.eth p).ptp.t1 = ptpTime m)) ∧
   ∀ (s : State), s.isMaster = true → s.getO Obj.PTP_ASSOC_EN = 1 → s.getO Obj.PTP_STATE ≠ 0 →
     ∃ t, exec .ptpSourceLost s = .next t ∧ t.getO Obj.PTP_STATE = 2 ∧ t.getO Obj.PTP_FREQ_PPB = s.getO Obj.PTP_FREQ_PPB ∧
       t = { s with obj := t.obj })

/-- Actions of furrow entries (R312 to R316, R423). The depth of the furrow stream is the model's choice (assumption 27). -/
def Obligations.FurrowEntryResults : Prop :=
  ∀ (s : State) (tb epoch entry e : Nat) (w : Watch),
    let p : Place := { epoch := epoch, entry := entry }
    let target := if tb < 800 then tb else 0x800 + dieOfUnit tb
    s.begins tb p e w → s.quietEvents target →
    let gone := fun (t : State) => (t.table tb).next = { p with entry := entry + 1 } ∧
      (t.table tb).open_ = (s.table tb).open_.filter fun x => !decide (x.epoch = epoch ∧ x.entry = entry)
    let stamped := fun (t : State) => entStamp e = true → s.eventPosted target (s.eventWord 3 tb (entArg e) 0 entry) t
    (entKind e = 1 → w.bad = false → (∀ q ∈ s.ops, q.2.entry ≠ some (tb, epoch, entry)) →
      (isBale w.desc = false → s.isStopped tb 4 = false → s.streamFree tb = true →
        ∃ t, exec (.furrowStart tb epoch entry) s = .next t ∧ t.nextOp = s.nextOp + 1 ∧
          (if unitOk tb (opUnit w.desc) = true ∧ opDefined (opUnit w.desc) (opCode w.desc) = true then
            t.table tb = s.table tb ∧ (∀ k, k ≠ s.nextOp → t.op? k = s.op? k) ∧
            t.op? s.nextOp = some { unit := tb, stream := 4, descAddr := entAddr e * 64, desc := w.desc,
                                    entry := some (tb, epoch, entry) }
          else gone t ∧ t.op? s.nextOp = none ∧ t.isStopped tb 4 = true)) ∧
      (isBale w.desc = false → s.isStopped tb 4 = false → s.streamFree tb = false →
        exec (.furrowStart tb epoch entry) s = .next s) ∧
      (isBale w.desc = true ∨ s.isStopped tb 4 = true → ∃ t, exec (.furrowStart tb epoch entry) s = .next t ∧ gone t ∧
        ∀ r ∈ t.resvs, ¬(r.table = tb ∧ r.epoch = epoch ∧ r.entry = entry))) ∧
    (entKind e = 1 → w.bad = false → (∃ q ∈ s.ops, q.2.entry = some (tb, epoch, entry)) →
      exec (.furrowStart tb epoch entry) s = .next s) ∧
    (∀ o : Op, o.entry = some (tb, epoch, entry) → o.bale = none → gone (s.entryBegins o) ∧ stamped (s.entryBegins o)) ∧
    (entKind e = 1 → w.bad = true → ∃ t, exec (.furrowStart tb epoch entry) s = .next t ∧ gone t ∧ t.ops = s.ops) ∧
    (entKind e = 2 → let x := s.sem (entSem e)
      x.st ≠ 2 → x.waits = [] → x.count + entArg e % 65536 < 2 ^ 32 →
      ∃ t, exec (.furrowSignal tb epoch entry) s = .next t ∧ gone t ∧ stamped t ∧
        t.sem (entSem e) = { x with count := x.count + entArg e % 65536 } ∧
        (∀ k, k ≠ entSem e → t.sem k = s.sem k)) ∧
    (entKind e = 4 → ∃ t, exec (.furrowMark tb epoch entry) s = .next t ∧ gone t ∧
      s.eventPosted target (s.eventWord 2 tb (entArg e) 0 entry) t ∧ t.sems = s.sems ∧ t.ops = s.ops) ∧
    (entKind e = 3 → 800 ≤ tb → tb < 0x328 → w.bad = false →
      ∀ r, s.resvs.find? (fun r => decide (r.table = tb ∧ r.epoch = epoch ∧ r.entry = entry)) = some r → r.made = true →
      ∃ t, exec (.portSlot tb epoch entry) s = .next t ∧ gone t ∧ stamped t ∧
        t.slots = s.slots ++ [{ port := tb - 0x320, entry := entry, left := entArg e, leave := r.cost }] ∧
        t.resvs = s.resvs.filter (fun q => !q.same r) ∧
        (entAddr e = 0 → t.out = s.out ∧ ∀ q, (t.port q).vc2 = (s.port q).vc2) ∧
        (entAddr e ≠ 0 → s.clean (sendSrc w.desc) (sendBytes w.desc) →
          let b := padBlocks (s.peek (sendSrc w.desc) (sendBytes w.desc))
          t.out = s.out ++ [.send (tb - 0x320) (sendDest w.desc) (sendDst w.desc) (bits w.desc 367 356) (bit w.desc 355)] ∧
          (s.vc2Port (sendDest w.desc) = none → ∀ q, (t.port q).vc2 = (s.port q).vc2) ∧
          ∀ q, s.vc2Port (sendDest w.desc) = some q →
            (∀ k, k ≠ q → (t.port k).vc2 = (s.port k).vc2) ∧
            (t.port q).vc2 = (s.port q).vc2 ++ [{ bytes := leBytes 16 (sendDest w.desc * 2 ^ 112 + s.origin * 2 ^ 96 +
              2 * 2 ^ 88 + (b.length / 16) * 2 ^ 64) ++ b }]))

/-- Watch points, reservations and overruns (R317, R318, R329, R486, R487). -/
def Obligations.FurrowPointResults : Prop :=
  (∀ (s : State) (tb epoch entry e : Nat),
     let p : Place := { epoch := epoch, entry := entry }
     let x := s.table tb
     let b := s.entryAt epoch e
     s.taking tb p e →
     (x.isNext x.watch p = true → x.open_.length < 16 → b ≤ s.count + s.getO Obj.ALMANAC_HOLD_LEAD →
       let d := ofBytes (s.peek (entAddr e * 64) 64)
       let w : Watch := { epoch := epoch, entry := entry }
       let seen := fun (w : Watch) (P : State → Prop) =>
         ∃ t, exec (.watchPoint tb epoch entry) s = .next t ∧ (t.table tb).watch = { p with entry := entry + 1 } ∧
           (t.table tb).open_ = x.open_ ++ [w] ∧ P t
       (entKind e = 1 → s.clean (entAddr e * 64) 64 → isBale d = false ∨ s.isStopped tb 4 = true →
         seen { w with desc := d } fun t => t.ops = s.ops) ∧
       (entKind e = 1 → s.clean (entAddr e * 64) 64 → isBale d = true → s.isStopped tb 4 = false →
         seen { w with desc := d } fun t => t.op? s.nextOp = if tb < 800 then
           some { unit := tb, stream := 4, descAddr := entAddr e * 64, desc := d, beat := b, entry := some (tb, epoch, entry),
                  bale := some { n := baleNum d, elems := baleElems d } }
           else none) ∧
       (entKind e = 3 → entAddr e ≠ 0 → s.clean (entAddr e * 64) 64 → s.sendFail d (entArg e) = none →
         seen { w with desc := d } fun t => t.ops = s.ops) ∧
       (entKind e = 3 → entAddr e ≠ 0 → s.clean (entAddr e * 64) 64 → ∀ n, s.sendFail d (entArg e) = some n →
         seen { w with bad := true } fun t => ∀ r ∈ t.resvs, ¬(r.table = tb ∧ r.epoch = epoch ∧ r.entry = entry)) ∧
       (entKind e = 2 ∨ entKind e = 4 ∨ (entKind e = 3 ∧ entAddr e = 0) → seen w fun t => t.ops = s.ops)) ∧
     (x.open_.length = 16 → exec (.watchPoint tb epoch entry) s = .next s) ∧
     (x.isNext x.resv p = true → b ≤ s.count + s.getO Obj.ALMANAC_HOLD_LEAD + s.getO Obj.LEAVE_RESERVE_LEAD →
       let o : Op := { unit := tb, stream := 4, desc := ofBytes (s.peek (entAddr e * 64) 64) }
       let asks : Option (Nat × Nat) := if entKind e = 3 then some (s.leaveCost 6, dieOfUnit tb)
         else if entKind e = 1 ∧ opLeavePre o.desc = true ∧ (o.costOf s).1 ≠ 0 then some ((o.costOf s).1, o.die s) else none
       (entKind e = 1 → s.clean (entAddr e * 64) 64) →
       ∃ t, exec (.reservationPoint tb epoch entry) s = .next t ∧ (t.table tb).resv = { p with entry := entry + 1 } ∧
         (asks = none → t.resvs = s.resvs) ∧
         ∀ c die, asks = some (c, die) → firstUnmade s.resvs = none → s.getO Obj.LEAVE_FROZEN = 0 →
           (∀ q ∈ s.ops, q.2.entry ≠ some (tb, epoch, entry)) →
           let r : Resv := { beat := b, table := tb, entry := entry, epoch := epoch, cost := c, die := die }
           (s.heldLeave + s.reservedLeave + s.effCost c die ≤ s.pool →
             { r with made := true, cost := s.effCost c die } ∈ t.resvs) ∧
           (s.pool < s.heldLeave + s.reservedLeave + s.effCost c die → t.resvs = s.resvs ++ [r])) ∧
     (x.notBegun p = true → b < s.count → (∀ d, s.stepDead = some d → epoch < d) →
       (x.overrun.contains p = false → s.onePost →
         ∃ t, exec (.overrun tb epoch entry) s = .next t ∧ (t.table tb).overrun = p :: x.overrun ∧
           (t.table tb).next = x.next ∧ t.getO Obj.SCHED_OVERRUN_TABLE = tb ∧ t.getO Obj.SCHED_OVERRUN_ENTRY = entry ∧
           t.getO Obj.SCHED_OVERRUN_BEAT = b ∧
           (s.getO Obj.SCHED_OVERRUNS + 1 < 2 ^ 32 → t.getO Obj.SCHED_OVERRUNS = s.getO Obj.SCHED_OVERRUNS + 1) ∧
           t.getO Obj.ERR_LAST_REASON = (if entHard e = true ∨ (800 ≤ tb ∧ tb < 0x328) then 0x0405 else 0x0404)) ∧
       (x.overrun.contains p = true → exec (.overrun tb epoch entry) s = .next s))) ∧
  (∀ (s : State) (r : Resv), firstUnmade s.resvs = some r → s.getO Obj.LEAVE_FROZEN = 0 →
     let c := s.effCost r.cost r.die
     let waits := s.ops.find? fun p => decide (p.2.entry = some (r.table, r.epoch, r.entry) ∧ p.2.phase = .waitLeave)
     (s.heldLeave + s.reservedLeave + c ≤ s.pool →
       ∃ t, exec .reservationRetry s = .next t ∧
         (waits = none → { r with made := true, cost := c } ∈ t.resvs) ∧
         ∀ id o, waits = some (id, o) → id ∉ s.leaveQ →
           t.op? id = some { o with held := c, phase := .ready } ∧ id ∈ t.readyQ ∧ ∀ q ∈ t.resvs, q.same r = false) ∧
     (s.pool < s.heldLeave + s.reservedLeave + c → exec .reservationRetry s = .next s))

/-- Furrow loads and swaps (R315, R319 to R321). The order of the codes of refusal is the model's reading (assumption 46). -/
def Obligations.FurrowLoadResults : Prop :=
  (∀ (s : State) (src : Src),
    let u := s.taken src
    let tb := u.getO Obj.FURROW_LOAD_TABLE
    let bk := u.getO Obj.FURROW_LOAD_BANK
    let e := u.getO Obj.FURROW_LOAD_SWAP_EPOCH
    let a := u.getO Obj.FURROW_LOAD_SRC
    let n := u.getO Obj.FURROW_LOAD_ENTRIES
    let x := u.table tb
    (s.acceptedWrite src Obj.FURROW_LOAD_GO 0 0 1 → ¬(tb < 800 ∧ u.getO Obj.CORE_EXCLUDE tb = 1) → n ≤ tableCap tb →
      a + 16 * n ≤ lpEnd →
      let tells := fun (w : State) (reply status : Nat) =>
        exec (.furrowLoad src) s = .next (w.answered s src 4 reply 0 []) ∧ w.getO Obj.FURROW_LOAD_STATUS = status
      ∃ w : State,
        (bk = x.active → tells w 5 4 ∧ w.load = u.load) ∧
        (bk ≠ x.active → x.swap.isSome = true → tells w 5 5 ∧ w.load = u.load) ∧
        (bk ≠ x.active → x.swap = none → u.load.isSome = true → tells w 8 7 ∧ w.load = u.load) ∧
        (bk ≠ x.active → x.swap = none → u.load = none → e ≠ 0xFFFFFFFF → u.swapNear e = true →
          tells w 5 6 ∧ w.load = none) ∧
        (bk ≠ x.active → x.swap = none → u.load = none → (e = 0xFFFFFFFF ∨ u.swapNear e = false) →
          tells w 0 1 ∧ w.load = some { table := tb, bank := bk, src := a, entries := n, swap := e })) ∧
    (s.acceptedWrite src Obj.FURROW_LOAD_GO 0 0 2 → ∀ k ep, x.swap = some (k, ep) →
      ∃ w : State, w.getO Obj.FURROW_LOAD_STATUS = (if u.swapNear ep then 11 else 10) ∧
        exec (.furrowSwapCancel src) s = .next (w.answered s src 4 (if u.swapNear ep then 5 else 0) 0 []) ∧
        w.table tb = (if u.swapNear ep then x else { x with swap := none }) ∧ ∀ q, q ≠ tb → w.table q = u.table q) ∧
    (s.acceptedWrite src Obj.FURROW_LOAD_GO 0 0 2 → x.swap = none →
      let mine := fun (l : FurrowLoad) => l.table = tb ∧ l.swap ≠ 0xFFFFFFFF ∧ u.swapNear l.swap = false
      ∃ w : State, (∀ q, w.table q = u.table q) ∧
        ((∀ l, u.load = some l → ¬mine l) → w.getO Obj.FURROW_LOAD_STATUS = 11 ∧ w.load = u.load ∧
          exec (.furrowSwapCancel src) s = .next (w.answered s src 4 5 0 [])) ∧
        ∀ l, u.load = some l → mine l → w.getO Obj.FURROW_LOAD_STATUS = 10 ∧
          w.load = some { l with swap := 0xFFFFFFFF } ∧
          exec (.furrowSwapCancel src) s = .next (w.answered s src 4 0 0 []))) ∧
  (∀ (s : State) (l : FurrowLoad), s.load = some l → s.chk = [] →
    let es := entriesOf l.entries (s.peek l.src (16 * l.entries))
    let x := s.table l.table
    ∃ t, exec .furrowLoadComplete s = .next t ∧ t.load = none ∧ (t.table l.table).active = x.active ∧
      (∀ q, q ≠ l.table → t.table q = s.table q) ∧ t.mem = s.mem ∧
      (s.firstBad l.table 0 0 es = none → ((t.table l.table).bank l.bank) = { entries := es, valid := true } ∧
        t.getO Obj.FURROW_LOAD_STATUS = (if l.swap = 0xFFFFFFFF then 3 else 2) ∧
        (t.table l.table).swap = if l.swap = 0xFFFFFFFF then x.swap else some (l.bank, l.swap)) ∧
      ∀ i, s.firstBad l.table 0 0 es = some i → ((t.table l.table).bank l.bank).valid = false ∧
        (t.table l.table).swap = x.swap ∧ t.getO Obj.FURROW_LOAD_STATUS = 8 ∧ t.getO Obj.FURROW_LOAD_BAD_ENTRY = i) ∧
  ∀ (s : State) (tb b e : Nat), tb < tableCount → (s.table tb).swap = some (b, e) →
    let due := s.running = true ∧ (e ≤ s.getO Obj.SCHED_E0 ∨ s.firstBeat e ≤ (s.count : Int))
    (due → ∃ t, exec (.bankSwap tb) s = .next t ∧ t.table tb = { s.table tb with active := b, since := e, swap := none } ∧
      (∀ q, q ≠ tb → t.table q = s.table q) ∧
      (s.getO Obj.SCHED_SWAPS + 1 < 2 ^ 64 → t.getO Obj.SCHED_SWAPS = s.getO Obj.SCHED_SWAPS + 1)) ∧
    (¬due → exec (.bankSwap tb) s = .next s)

/-- The order of R411 at a frame time. One message per DATA frame is the model's choice (assumption 62), and so are the
details of the line code (assumption 103). -/
def Obligations.FrameTransmitResults : Prop :=
  ∀ (s : State) (p txPs : Nat) (noise : List Nat), p < 8 →
    let x := s.port p
    let c := Instr.linkFrameTransmit ⟨p, txPs, noise⟩
    let sent := fun (kind vc seq : Nat) (m : Msg) (P : State → Prop) =>
      ∃ t, exec c s = .next t ∧
        t.out = s.out ++ (if x.words = 0 then [.marker p] else []) ++ [.line p (LinkFrame.lanes
          { kind := kind, vc := vc, seq := seq, ack := x.rxSeq, nak := x.nakOwed, cr0 := SMap.get 0 x.freed 0
            cr1 := SMap.get 0 x.freed 1, cr2 := SMap.get 0 x.freed 2, blocks := m.bytes, bad := m.bad })] ∧
        (t.port p).words = (x.words + 1) % 4096 ∧ P t
    let kept := fun (kind vc : Nat) (m : Msg) (t : State) => (t.port p).txSeq = (x.txSeq + 1) % 65536 ∧
      (t.port p).replay = x.replay ++ [{ seq := x.txSeq, kind := kind, vc := vc, msg := m }]
    let lone := fun (t : State) => (t.port p).replay = x.replay ∧ (t.port p).txSeq = x.txSeq
    (s.portState p ≠ 2 → s.portState p ≠ 3 → exec c s = .next s) ∧
    (s.portState p = 2 ∨ s.portState p = 3 →
      (∀ i k, x.resend = some i → x.replay[i]? = some k →
        sent k.kind k.vc k.seq k.msg fun t => lone t ∧
          (t.port p).resend = if i + 1 < x.replay.length then some (i + 1) else none) ∧
      (x.resend = none → ∀ b rest, x.beacons = b :: rest →
        let b' := { b with tick := s.getO Obj.ALMANAC_TICK, count := s.getO Obj.ALMANAC_COUNT
                           grant := s.getO Obj.ALMANAC_GRANT, txPs := txPs, rxTick := x.rxTick, rxPs := x.rxPs
                           rxId := x.rxId, id := (x.beaconId + 1) % 65536 }
        sent 2 0 0 { bytes := beaconBlocks b' } fun t => lone t ∧ (t.port p).beacons = rest ∧
          (t.port p).beaconId = (x.beaconId + 1) % 65536) ∧
      (x.resend = none → x.beacons = [] →
        (∀ pre b post, x.ctlQ = pre ++ (2, b) :: post → (∀ q ∈ pre, q.1 ≠ 2) → pre = [] ∨ 1024 ≤ x.replay.length →
          sent 2 0 0 { bytes := b } fun t => lone t ∧ (t.port p).ctlQ = pre ++ post) ∧
        (∀ kind b rest, x.ctlQ = (kind, b) :: rest → kind ≠ 2 → x.replay.length < 1024 →
          sent 3 0 x.txSeq { bytes := b } fun t => kept 3 0 { bytes := b } t ∧ (t.port p).ctlQ = rest) ∧
        (x.ctlQ = [] →
          let data := fun (vc : Nat) (m : Msg) (ms : List Msg) =>
            x.queue vc = m :: ms → 0 < x.blocksFor vc m → x.replay.length < 1024 → m.src ≠ p + 1 →
            let n := x.blocksFor vc m
            let w := (s.txDecode p noise (m.take n)).2
            sent 1 vc x.txSeq w fun t => kept 1 vc w t ∧ t.slots = slotTick p s.slots ∧
              (t.port p).queue vc = (if (m.drop n).bytes = [] ∧ m.left = 0 then ms else m.drop n :: ms) ∧
              (vc < 2 → (t.port p).turn = decide (vc = 0)) ∧
              ∀ q, m.src = q + 1 → (t.port q).freed = ((s.port q).free 2 (m.take n).bytes.length).freed
          let first := if x.turn then 1 else 0
          (s.flows p = true → ∀ m ms, data 2 m ms) ∧
          (s.flows p = false ∨ x.vc2 = [] →
            (∀ m ms, data first m ms) ∧ (x.queue first = [] → ∀ m ms, data (1 - first) m ms) ∧
            (x.vc0 = [] → x.vc1 = [] → sent 0 0 0 {} fun t => lone t ∧ t.slots = slotTick p s.slots))))) ∧
    ∀ (m : Msg) (k e : Nat), m.bytes.length % 16 = 0 → 16 * k < m.bytes.length → m.bad = [] → e < 2 ^ 128 →
      let r := s.txDecode p (List.replicate k 0 ++ [e]) m
      s.txDecode p [] m = (s, m) ∧
      (∀ f, e ≠ 0 → eccFix e = some f → f = e → r.2 = m ∧ (s.getO Obj.PORT_CE p + 1 < 2 ^ 64 →
        r.1.getO Obj.PORT_CE p = s.getO Obj.PORT_CE p + 1)) ∧
      (eccFix e = none → r.1 = s ∧ r.2.bad = [k])

/-- Frames on the line (R404, R406), frames that arrive (R408, R412), messages (R422) and the data of a send (R425). What
is written of a send with bad blocks is the model's reading (assumption 66). -/
def Obligations.FrameReceiveResults : Prop :=
  (∀ f : LinkFrame, f.kind < 16 → f.vc < 4 → f.seq < 65536 → f.ack < 65536 → f.cr0 < 4096 → f.cr1 < 4096 → f.cr2 < 4096 →
     f.blocks.length % 16 = 0 → f.blocks.length ≤ 608 → f.bad = ((List.range 38).filter fun i => f.bad.contains i) →
     LinkFrame.ofWord f.word = some f ∧ rsDecode (ofLanes f.lanes) = some (f.word, 0)) ∧
  (∀ (s : State) (p : Nat) (lanes : List Nat), p < 8 → s.portState p = 2 ∨ s.portState p = 3 →
     let x := s.port p
     let d := rsDecode (ofLanes lanes)
     let got := fun (P : State → Prop) => ∃ t, exec (.linkFrameReceive p lanes) s = .next t ∧ P t
     (d = none → got fun t => t.port p = { x with nakOwed := true, fecWindow := x.fecWindow + 1 } ∧
       (s.getO Obj.PORT_FEC_UNCORRECTED p + 1 < 2 ^ 64 →
         t.getO Obj.PORT_FEC_UNCORRECTED p = s.getO Obj.PORT_FEC_UNCORRECTED p + 1)) ∧
     ∀ w n, d = some (w, n) →
       (s.getO Obj.PORT_FEC_CORRECTED p + n < 2 ^ 64 → LinkFrame.ofWord w = none → got fun t =>
         t.port p = { x with nakOwed := true } ∧
         t.getO Obj.PORT_FEC_CORRECTED p = s.getO Obj.PORT_FEC_CORRECTED p + n) ∧
       ∀ f, LinkFrame.ofWord w = some f →
         let data := f.kind = 1 ∨ f.kind = 3
         (f.nak = false →
           let left := x.replay.dropWhile fun k => covered f.ack k.seq
           (data → f.seq % 65536 = (x.rxSeq + 1) % 65536 → got fun t => (t.port p).rxSeq = f.seq % 65536 ∧
             (t.port p).nakOwed = false ∧ (t.port p).replay = left) ∧
           (data → f.seq % 65536 ≠ (x.rxSeq + 1) % 65536 → got fun t => (t.port p).rxSeq = x.rxSeq ∧
             (t.port p).nakOwed = true ∧ (t.port p).replay = left) ∧
           (¬data → got fun t => (t.port p).rxSeq = x.rxSeq ∧ (t.port p).nakOwed = x.nakOwed ∧
             (t.port p).replay = left)) ∧
         (f.nak = true → ¬data → x.resend = none → ∀ k rest, x.replay = k :: rest → covered f.ack k.seq = false →
           (let n := if x.lastReplay = k.seq then x.replays else 0
            (n < 8 → got fun t => (t.port p).resend = some 0 ∧ (t.port p).replays = n + 1 ∧
              (t.port p).lastReplay = k.seq) ∧
            (8 ≤ n → got fun t => t.portState p = 4 ∧ t.getO Obj.PORT_FAULT_REASON p = 5)))) ∧
  (∀ (s : State) (p w n : Nat) (lanes : List Nat) (f : LinkFrame), p < 8 → s.portState p = 3 →
     rsDecode (ofLanes lanes) = some (w, n) → LinkFrame.ofWord w = some f →
     f.kind = 1 → f.vc = 2 → f.nak = false → f.seq % 65536 = ((s.port p).rxSeq + 1) % 65536 → (s.port p).rxLeft = 0 →
     let h := ofBytes (f.blocks.take 16)
     let body := f.blocks.drop 16
     16 ≤ f.blocks.length → body.length = 16 * bits h 87 64 → 0 ∉ f.bad → (s.port p).cut = false →
     let dest := bits h 127 112
     let m : Msg := { bytes := f.blocks, bad := f.bad.filter fun i => decide (i < f.blocks.length / 16) }
     let got := fun (P : State → Prop) => ∃ t, exec (.linkFrameReceive p lanes) s = .next t ∧ (t.port p).rxLeft = 0 ∧ P t
     (bits h 95 88 = 1 → 0 < body.length → dest = s.origin → got fun t => (t.port p).inbox = (s.port p).inbox ++ [m] ∧
       (t.port p).freed = (s.port p).freed ∧ t.getO Obj.REDUCE_BYTES_FORWARDED = s.getO Obj.REDUCE_BYTES_FORWARDED) ∧
     (∀ q, q ≠ p → s.vc2Port dest = some q → dest ≠ s.origin →
       (bits h 95 88 ≠ 1 → (∀ k ∈ (s.port q).vc2, k.src ≠ p + 1 ∨ k.left = 0) → got fun t =>
         (t.port q).vc2 = (s.port q).vc2 ++ [{ m with src := p + 1 }] ∧ (t.port p).freed = (s.port p).freed) ∧
       (bits h 95 88 = 1 → 0 < body.length → bits (ofBytes (body.take 32)) 255 232 ∉ s.balesAborted → got fun t =>
         (t.port q).vc2 = (s.port q).vc2 ++ [{ m with src := p + 1 }] ∧ (t.port p).freed = (s.port p).freed ∧
         (s.getO Obj.REDUCE_BYTES_FORWARDED + packetSize m < 2 ^ 64 →
           t.getO Obj.REDUCE_BYTES_FORWARDED = s.getO Obj.REDUCE_BYTES_FORWARDED + packetSize m)) ∧
       (bits h 95 88 = 1 → 0 < body.length → bits (ofBytes (body.take 32)) 255 232 ∈ s.balesAborted → got fun t =>
         (t.port q).vc2 = (s.port q).vc2 ∧ (t.port p).freed = ((s.port p).free 2 f.blocks.length).freed)) ∧
     (bits h 95 88 ≠ 1 → dest = s.origin ∨ s.vc2Port dest = none → got fun t => ∀ k, k < 8 →
       (t.port k).vc2 = (s.port k).vc2 ∧ (t.port k).inbox = (s.port k).inbox)) ∧
  (∀ (s : State) (p src dst q : Nat) (en : Bool) (bytes : List Byte) (bad : List Nat), p < 8 → q < 4096 →
     let n := bytes.length
     (s.flows p = false → exec (.sendDataReceive p src dst q en bytes bad) s = .next s) ∧
     (s.flows p = true → inLp dst n = true → s.sendProtected dst n = false → s.clean dst n →
       ∃ t, exec (.sendDataReceive p src dst q en bytes bad) s = .next t ∧
         (bad = [] → ((s.sem q).count + 1 < 2 ^ 32 ∨ en = false) → t.peek dst n = bytes ∧
           (∀ y, y < dst ∨ dst + n ≤ y → t.byte y = s.byte y) ∧
           (en = true → (s.sem q).st ≠ 2 → (s.sem q).waits = [] → t.sem q = { s.sem q with count := (s.sem q).count + 1 }) ∧
           (en = false → t.sems = s.sems)) ∧
         (bad ≠ [] → t.sems = s.sems ∧ (∀ y, y < dst ∨ dst + n ≤ y → t.byte y = s.byte y) ∧
           (∀ i ∈ bad, ∀ y, dst + 16 * i ≤ y → y < dst + 16 * i + 16 → t.byte y = s.byte y) ∧
           ∀ i, i ∉ bad → 16 * i + 16 ≤ n → t.peek (dst + 16 * i) 16 = (bytes.drop (16 * i)).take 16)) ∧
     (s.flows p = true → inLp dst n = false ∨ s.sendProtected dst n = true → s.onePost →
       ∃ t, exec (.sendDataReceive p src dst q en bytes bad) s = .next t ∧
         s.posted { reason := 0x0703, addr := dst, d0 := src, source := 0x320 + p } t))

/-- States of field ports (R417 to R420, R426, R427). The laser threshold in µW and the packing of the extents are the
model's readings (assumptions 64, 65). -/
def Obligations.PortStateResults : Prop :=
  ∀ (s : State) (p : Nat), p < 8 →
    let st := s.portState p
    let moves := fun (x : Instr) (to' reason : Nat) (P : State → Prop) =>
      ∃ t, exec x s = .next t ∧ t.portState p = to' ∧ t.getO Obj.PORT_FAULT_REASON p = reason ∧
        (∀ k, k < 8 → k ≠ p → t.portState k = s.portState k) ∧ P t
    let quiet := s.onePost ∧ ∀ q ∈ s.ops, q.2.bale = none
    (st = 1 → moves (.portFecLock p) 2 0 fun t => (t.port p).vc0 = [{ bytes := leBytes 16 s.extents }]) ∧
    (st = 1 → moves (.portTrainTimeout p) 4 2 fun t => s.onePost → t.getO Obj.ERR_LAST_REASON = 0x0701) ∧
    (st ≠ 1 → exec (.portFecLock p) s = .next s ∧ exec (.portTrainTimeout p) s = .next s) ∧
    (st = 2 → ∀ partner beat exts len rtt,
      (partner = s.partnerCode p → exts = s.extents → beat = s.getO Obj.ALMANAC_BEAT_NS →
        moves (.portCheck p partner beat exts len rtt) 3 0 fun t => t.getO Obj.PORT_PARTNER p = partner ∧
          t.getO Obj.PORT_LENGTH_DM p = len % 65536 ∧ t.getO Obj.PORT_RTT_NS p = rtt % 2 ^ 32) ∧
      (partner ≠ s.partnerCode p ∨ exts ≠ s.extents → moves (.portCheck p partner beat exts len rtt) 4 3 fun _ => True) ∧
      (partner = s.partnerCode p → exts = s.extents → beat ≠ s.getO Obj.ALMANAC_BEAT_NS →
        moves (.portCheck p partner beat exts len rtt) 4 4 fun _ => True)) ∧
    (st = 2 → moves (.portFecLoss p) 1 0 fun t => t.linkCfg = s.linkLive) ∧
    (st = 3 → moves (.portFecLoss p) 1 0 fun t => t.linkCfg = s.linkLive ∧ (s.running = true → (t.port p).cut = true) ∧
      (quiet → s.getO Obj.PORT_RETRAINS p + 1 < 2 ^ 32 → t.getO Obj.ERR_LAST_REASON = 0x0701 ∧
        t.getO Obj.PORT_RETRAINS p = s.getO Obj.PORT_RETRAINS p + 1)) ∧
    (st = 3 → s.getO Obj.LINK_FEC_ALARM < (s.port p).fecWindow → moves (.portFecRateWindow p) 4 6 fun t =>
      quiet → t.getO Obj.ERR_LAST_REASON = 0x0701) ∧
    (st ≠ 3 ∨ (s.port p).fecWindow ≤ s.getO Obj.LINK_FEC_ALARM →
      ∃ t, exec (.portFecRateWindow p) s = .next t ∧ t.port p = { s.port p with fecWindow := 0 } ∧
        t = { s with ports := t.ports }) ∧
    (∀ uw, st ≠ 0 → moves (.laserLow p uw) 0 1 fun t => t.getO Obj.PORT_LASER_UW p = uw % 2 ^ 32 ∧
      (t.port p).laserOk = false ∧ (quiet → t.getO Obj.ERR_LAST_REASON = 0x0702)) ∧
    (∀ uw, st = 0 → 31623 ≤ uw → s.portsLive = true → s.getO Obj.PORT_ENABLE p = 1 → 1 < s.linkLive.rings.getD (p / 2) 1 →
      moves (.laserInputPresent p uw) 1 0 fun t => t.linkCfg = s.linkLive ∧ t.getO Obj.PORT_LASER_UW p = uw % 2 ^ 32 ∧ (t.port p).laserOk = true) ∧
    (∀ uw, uw < 31623 → ∃ t, exec (.laserInputPresent p uw) s = .next t ∧ t = { s with obj := t.obj } ∧
      t.getO Obj.PORT_LASER_UW p = uw % 2 ^ 32) ∧
    ∀ src : Src,
      let u := s.taken src
      (s.acceptedWrite src Obj.PORT_RETRAIN p 0 1 → ∃ w : State,
        exec (.portRetrain src p) s = .next (w.answered s src 4 0 0 []) ∧
        w.portState p = (if u.portMay p = true then 1 else 0) ∧
        .pin (100 + p) (u.portOn p) ∈ w.out ∧
        ∀ k, k < 8 → k ≠ p → w.portState k = s.portState k) ∧
      ∀ v, s.acceptedWrite src Obj.PORT_ENABLE p 0 v → v ≠ u.getO Obj.PORT_ENABLE p → ∃ w : State,
        exec (.portEnable src p v) s = .next (w.answered s src 4 0 0 []) ∧ w.getO Obj.PORT_ENABLE p = v ∧
        .pin (100 + p) (decide (v = 1 ∧ 1 < s.linkLive.rings.getD (p / 2) 1)) ∈ w.out ∧
        w.portState p = (if v = 0 then 0 else if st = 0 ∧ s.portsLive = true ∧ (s.port p).laserOk = true ∧
          1 < s.linkLive.rings.getD (p / 2) 1 then 1 else st) ∧
        ∀ k, k < 8 → k ≠ p → w.portState k = s.portState k

/-- A bale from its submission to its start (R246, R248, R249, R252, R253). When its number is judged is the model's
reading (assumption 49). -/
def Obligations.BaleResults : Prop :=
  (∀ (s : State) (id tb ep n : Nat) (o : Op) (b : Bale), s.op? id = some o → isBale o.desc = true → o.phase = .submitted →
     o.bale = some b → o.entry = some (tb, ep, n) → 4096 ≤ o.ring → s.isStopped o.unit o.stream = false →
     (∀ p ∈ s.ops, p.1 < id → ∀ b', p.2.bale = some b' → b'.started = true) →
     let d := o.desc
     let w := opWsem d
     let x := s.sem w
     let f := brFillSem d
     let y := s.sem f
     ¬(o.unit < 800 ∧ s.getO Obj.CORE_EXCLUDE o.unit = 1) →
     (∀ k, s.headerFail d = some k → s.onePost → ∃ t, exec (.baleReduce id) s = .next t ∧ t.op? id = none ∧
       t.isStopped o.unit o.stream = true ∧ t.getO Obj.ERR_LAST_REASON = 0x0101) ∧
     (∀ g r, s.headerFail d = none → brCheck s o = (s, .ok g) → opLeaveClass d ≠ 0 → opLeavePre d = true →
       s.resvs.find? (fun r => decide (r.table = tb ∧ r.epoch = ep ∧ r.entry = n)) = some r → r.made = true →
       let ready := fun (t : State) (filled : Bool) =>
         t.op? id = some { o with got := g, phase := .ready, held := r.cost, bale := some { b with fillTaken := filled } } ∧
           id ∈ t.readyQ
       (opWsemEn d = true → brTrigger d = false → opWcount d ≠ 0 → x.st ≠ 2 → x.waits = [] → opWcount d ≤ x.count →
         ∃ t, exec (.baleReduce id) s = .next t ∧ ready t true ∧ t.sem w = { x with count := x.count - opWcount d }) ∧
       (opWsemEn d = false → brTrigger d = true → brFillCount d ≠ 0 → y.st ≠ 2 → y.waits = [] → brFillCount d ≤ y.count →
         ∃ t, exec (.baleReduce id) s = .next t ∧ ready t true ∧ t.sem f = { y with count := y.count - brFillCount d }) ∧
       (opWsemEn d = false → brTrigger d = true → brFillCount d ≠ 0 → y.st ≠ 2 →
         ¬(y.waits = [] ∧ brFillCount d ≤ y.count) → s.poolUsed < 65536 →
         ∃ t, exec (.baleReduce id) s = .next t ∧ ready t b.fillTaken ∧
           t.sem f = { y with waits := y.waits ++
             [{ who := .fill id, n := brFillCount d, sem := f, epoch := s.getO Obj.SCHED_EPOCH }] }))) ∧
  (∀ (s : State) (id tb ep n e m elems flip level : Nat) (w : Watch) (o : Op), s.op? id = some o → o.phase = .ready →
     o.entry = some (tb, ep, n) → o.bale = some { n := m, elems := elems, fillTaken := true } →
     s.begins tb { epoch := ep, entry := n } e w → entStamp e = false → s.chk = [] →
     (∀ p ∈ s.ops, p.2.upd = none) →
     let d := o.desc
     let sc := (s.baleScale d m).2.1
     let u := tensor o.got.list 0
     let b : Bale := { n := m, elems := elems, fillTaken := true, started := true, scale := sc, lo := 0, hi := elems
                       pair := s.freePair }
     let o' := { o with phase := .executing, step := s.getO Obj.WINNOW_STEP }
     let vals := (s.localTree o' b u).map (·.1)
     let x := Instr.baleStart id ⟨flip, level⟩
     (s.inFlight < 8 → m = s.getO Obj.REDUCE_NEXT_BALE → (∀ q ∈ s.earlyPkts, q.2.bale ≠ m) → m + 1 < 2 ^ 32 →
       let begun := fun (P : State → Prop) => ∃ t, exec x s = .next t ∧ t.getO Obj.REDUCE_NEXT_BALE = m + 1 ∧
         (t.table tb).next = { epoch := ep, entry := n + 1 } ∧ id ∉ t.readyQ ∧ P t
       let aborted := fun (t : State) => t.op? id = none ∧ m ∈ t.balesAborted ∧ t.abortedInStep = true
       (s.pathLost = false → s.localChecks o' b u flip level = false →
         (0 < s.levels → begun fun t => t.op? id = some { o' with bale := some { b with vals := vals } }) ∧
         (s.levels = 0 → begun fun t => ∃ p, t.op? id = some p ∧ p.phase = .executed)) ∧
       (s.pathLost = true → begun aborted) ∧
       (s.pathLost = false → s.localChecks o' b u flip level = true → begun fun t => aborted t ∧
         t.getO Obj.REDUCE_RESIDUE_LAST_STAGE = flip ∧ t.getO Obj.REDUCE_RESIDUE_LAST_LEVEL = level ∧
         t.getO Obj.REDUCE_RESIDUE_LAST_BALE = m ∧ t.getO Obj.REDUCE_RESIDUE_LAST_ADDER = 8 + dieOfUnit o.unit ∧
         (s.getO Obj.REDUCE_RESIDUE_FAULTS + 1 < 2 ^ 32 →
           t.getO Obj.REDUCE_RESIDUE_FAULTS = s.getO Obj.REDUCE_RESIDUE_FAULTS + 1))) ∧
     (8 ≤ s.inFlight ∨ m ≠ s.getO Obj.REDUCE_NEXT_BALE → exec x s = .next s))

/-- Packets of bales (R239, R250, R251, R254). -/
def Obligations.ReductionPacketResults : Prop :=
  ∀ (s : State) (port flip level : Nat) (p : RedPacket), port < 8 →
    let x := Instr.reductionPacketReceive port p ⟨flip, level⟩
    let next := s.getO Obj.REDUCE_NEXT_BALE
    (s.flows port = false → exec x s = .next s) ∧
    (s.flows port = true → (∃ i ∈ p.bad, i < 2) → ∃ t, exec x s = .next t ∧ t = { s with ports := t.ports } ∧
      ∀ m ∈ (s.port port).inbox, (∀ k ∈ (s.port port).inbox, k.bytes.drop 16 = padBlocks (packetBytes p) ↔ k = m) →
        t.port port = ({ s.port port with inbox := (s.port port).inbox.erase m } : Port).free 2 m.bytes.length) ∧
    (s.flows port = true → (∀ i ∈ p.bad, 2 ≤ i) →
      (s.flying p.bale = none →
        (p.bale = next → p.bale ∉ s.balesAborted → ∃ t, exec x s = .next t ∧
          t = { s with earlyPkts := s.earlyPkts ++ [(port, p)] }) ∧
        (p.bale < next ∨ p.bale ∈ s.balesAborted → s.getO Obj.REDUCE_LATE_PACKETS + 1 < 2 ^ 32 → ∃ t, exec x s = .next t ∧
          t.getO Obj.REDUCE_LATE_PACKETS = s.getO Obj.REDUCE_LATE_PACKETS + 1 ∧
          t = { s with obj := t.obj, ports := t.ports }) ∧
        (next < p.bale → p.bale ∉ s.balesAborted → s.onePost → ∃ t, exec x s = .next t ∧
          s.posted { reason := 0x0501, d0 := p.bale, d1 := 3 * 2 ^ 24 } t)) ∧
      ∀ id o b, s.flying p.bale = some (id, o, b) → o.phase = .executing → o.bale = some b →
        let aborted := fun (t : State) => t.op? id = none ∧ b.n ∈ t.balesAborted ∧ t.abortedInStep = true
        (p.abort = true ∨ s.packetExch o b p = none ∨ p.bad ≠ [] → (∀ q ∈ s.ops, q.2.upd = none) →
          ∃ t, exec x s = .next t ∧ aborted t) ∧
        ∀ y, p.abort = false → s.packetExch o b p = some y → p.bad = [] → b.gather = false → b.lev < s.levels →
          let j := b.lev + 1
          let held := if y = j ∨ p.elems = [] then b
            else { b with staged := (y, p.first, p.elems.length) :: b.staged }
          let b' := held.take y port p
          let r := rangeAt s.rank b.elems j
          let seed := s.getO Obj.WINNOW_JOB_SEED
          let struck := flip ≠ 0 ∧ flip ≤ 3 ∧ level = brLocal o.desc + j ∧ b'.checksAt (b'.hop o seed) s.rank j = true
          (b'.complete s.rank j = false → ∃ t, exec x s = .next t ∧ t.op? id = some { o with bale := some b' }) ∧
          (b'.complete s.rank j = true → s.chk = [] →
            (¬struck → j < s.levels → b'.complete s.rank (j + 1) = false → ∃ t, exec x s = .next t ∧
              t.op? id = some { o with bale := some { b' with
                vals := (b'.node o seed s.rank j).1, lo := r.1, hi := r.2, lev := j } }) ∧
            (struck → (∀ q ∈ s.ops, q.2.upd = none) → ∃ t, exec x s = .next t ∧ aborted t ∧
              t.getO Obj.REDUCE_RESIDUE_LAST_STAGE = flip ∧ t.getO Obj.REDUCE_RESIDUE_LAST_LEVEL = level ∧
              t.getO Obj.REDUCE_RESIDUE_LAST_BALE = b.n)))

/-- The step procedure (R226, R258, R259) and the rule of the history windows (R75, R226, R245). -/
def Obligations.StepBoundaryResults : Prop :=
  ((∀ (s : State) (r : StepRun), s.stepRun = some r → r.begun = false →
     (s.stepQuiet = false → exec .stepBoundary s = .next s) ∧
     (s.stepQuiet = true → s.chk = [] →
       let rec' := s.censusRecord.2
       (0 < s.levels → r.level = 0 → (∀ p ∈ s.censusRecv, p.1 ≠ 1) →
         ∃ t, exec .stepBoundary s = .next t ∧
           t.stepRun = some { r with begun := true, items := rec'.1, words := rec'.2 } ∧
           t.getO Obj.WINNOW_STEP = s.getO Obj.WINNOW_STEP) ∧
       (s.levels = 0 → r.level = 0 → ∃ t, exec .stepBoundary s = .next t ∧
         t.stepRun = (s.stepQueue.head?.map fun e => { boundary := e }) ∧ t.stepQueue = s.stepQueue.tail ∧
         t.getO Obj.WINNOW_STEP = (s.getO Obj.WINNOW_STEP + 1) % 2 ^ 32 ∧ t.getO Obj.REDUCE_NEXT_BALE = 0 ∧
         t.getO Obj.REDUCE_CENSUS_STEP = 0 ∧ t.getO Obj.REDUCE_CENSUS_PREV_STEP = s.getO Obj.REDUCE_CENSUS_STEP ∧
         t.updWait = [] ∧ t.balesDone = [] ∧ t.balesAborted = [] ∧ t.abortedInStep = false ∧
         ∀ g, g < 256 → s.getO Obj.GROUP_ENABLE g = 1 → s.getO Obj.GROUP_WSCALE_MODE g = 1 →
           let x : Scale := { hist := (List.range 16).map fun j => s.getO Obj.GROUP_WHIST g j % 65536,
                              pos := s.getO Obj.GROUP_WHPOS g % 16, exp := s.getI Obj.GROUP_WSCALE g }
           let y := x.next (s.getO Obj.GROUP_WMARGIN g) (ofSigned 16 (((SMap.get 0 s.wmax g : Nat) : Int) - 32768))
             (min 0xFFFFFFFF (SMap.get 0 s.wsat g))
           t.getI Obj.GROUP_WSCALE g = y.exp ∧ t.getO Obj.GROUP_WHPOS g = y.pos ∧ SMap.get 0 t.wmax g = 0 ∧
             SMap.get 0 t.wsat g = 0))) ∧
   ∀ (s : State) (src j : Nat) (ws : List Nat),
     let now := ws.map (· % 2 ^ 64)
     exec (.censusRecordReceive src j ⟨ws, true⟩) s = .next s ∧
     (j = 0 ∨ s.levels < j ∨ s.partner j ≠ src → exec (.censusRecordReceive src j ⟨ws, false⟩) s = .next s) ∧
     (1 ≤ j → j ≤ s.levels → s.partner j = src →
       (s.stepRun = none → ∃ t, exec (.censusRecordReceive src j ⟨ws, false⟩) s = .next t ∧
         t = { s with censusRecv := t.censusRecv } ∧ SMap.get [] t.censusRecv j = now) ∧
       ∀ r, s.stepRun = some r → r.begun = true → r.level + 1 = j →
         (now.length = r.words.length → j < s.levels → (∀ p ∈ s.censusRecv, p.1 ≠ j + 1) →
           ∃ t, exec (.censusRecordReceive src j ⟨ws, false⟩) s = .next t ∧
             t.stepRun = some { r with level := j, words := combine r.words now }) ∧
         (now.length ≠ r.words.length → s.onePost →
           ∃ t, exec (.censusRecordReceive src j ⟨ws, false⟩) s = .next t ∧ t.stepRun = none ∧ t.stepDead = some r.boundary ∧
             s.posted { reason := 0x0503, addr := src, d0 := r.words.length, d1 := ws.length } t))) ∧
  (∀ (x : Scale) (mg top sats : Nat), x.hist.length = 16 → x.pos < 16 → (-128 ≤ x.exp ∧ x.exp ≤ 127) →
     (∀ c ∈ x.hist, c < 65536) → top < 65536 →
     let y := x.next mg top sats
     y.pos = (x.pos + 1) % 16 ∧ y.hist.length = 16 ∧ (∀ k, k ≠ x.pos → y.hist[k]? = x.hist[k]?) ∧
       y.hist[x.pos]? = some (if 0 < sats then ofSigned 16 (x.exp + 16) else top) ∧ (-128 ≤ y.exp ∧ y.exp ≤ 127) ∧
       ((∀ c ∈ y.hist, c = 0x8000) → y.exp = x.exp) ∧
       ((∃ c ∈ y.hist, c ≠ 0x8000) → ∃ c ∈ y.hist, c ≠ 0x8000 ∧ (∀ k ∈ y.hist, k ≠ 0x8000 → toSigned 16 k ≤ toSigned 16 c) ∧
         y.exp = min 127 (max (-128) (toSigned 16 c + (mg : Int) - 15))))

/-- Crib operations on pages that differ and tables that lie apart (R187 to R195), pages for an append (R192), and the
reclaim ring (R194). -/
def Obligations.CribResults : Prop :=
  (∀ (s : State) (id : Nat) (o : Op), s.chk = [] →
     let d := o.desc
     let x := Crib.parse d
     let s1 := s.atStep4 id o
     let pages := s.getO Obj.CRIB_POOL_PAGES
     let data := s.getO Obj.CRIB_META_BASE
     let table := tensor (s.begun o).got.list
     let word := fun (w : State) (a : Nat) => ofBytes (w.peek a 4)
     let count := fun (w : State) (p : Nat) => word w (data + 4 * p)
     let out := fun (a : Nat) => a + 4 ≤ data ∨ data + 24 * pages ≤ a
     let apart := fun (a b : Nat) => a + 4 ≤ b ∨ b + 4 ≤ a
     let range := fun (n : Nat) => x.entry0 ≤ n ∧ n ≤ x.entry0 + x.entries
     (s.mayRun id o 4 0x11 →
       let src := fun (n : Nat) => (table 0).addr [n, x.seq]
       let dst := fun (n : Nat) => (table 1).addr [n, x.dst]
       let page := fun (n : Nat) => word s (src n)
       (∀ n m, range n → range m → apart (src n) (dst m) ∧ (n ≠ m → apart (dst n) (dst m))) →
       (∀ n, range n → out (src n) ∧ out (dst n)) →
       (∀ n, range n → page n ≠ unmapped → page n < pages ∧ count s (page n) < 65535 ∧ word s (dst n) = unmapped) →
       (∀ n m, range n → range m → n ≠ m → page n = page m → page n = unmapped) →
       ∃ t, exec (.cribShare id) s = .next t ∧ t.op? id = some { s.begun o with phase := .executed } ∧
         (∀ n, range n → page n ≠ unmapped → word t (dst n) = page n ∧ count t (page n) = count s (page n) + 1) ∧
         (∀ n, range n → page n = unmapped → word t (dst n) = word s (dst n)) ∧
         (∀ y, (y < data ∨ data + 4 * pages ≤ y) → (∀ n, range n → y < dst n ∨ dst n + 4 ≤ y) → t.byte y = s.byte y)) ∧
     (s.mayRun id o 4 0x12 →
       let ent := fun (n : Nat) => (table 0).addr [n, x.seq]
       let page := fun (n : Nat) => word s (ent n)
       (∀ n m, range n → range m → n ≠ m → apart (ent n) (ent m)) →
       (∀ n, range n → out (ent n)) →
       (∀ n, range n → page n ≠ unmapped → page n < pages ∧ count s (page n) ≠ 0) →
       (∀ n m, range n → range m → n ≠ m → page n = page m → page n = unmapped) →
       ∃ t, exec (.cribFree id) s = .next t ∧ t.op? id = some { s.begun o with phase := .executed } ∧
         (∀ n, range n → word t (ent n) = unmapped) ∧
         (∀ n, range n → page n ≠ unmapped → count t (page n) = count s (page n) - 1) ∧
         t.getO Obj.CRIB_PAGES_FREE = s.getO Obj.CRIB_PAGES_FREE ∧
         t.getO Obj.CRIB_PAGES_PENDING = s.getO Obj.CRIB_PAGES_PENDING +
           (x.span.filter fun n => decide (page n ≠ unmapped ∧ count s (page n) = 1)).length ∧
         (∀ y, (y < data ∨ data + 24 * pages ≤ y) → (∀ n, range n → y < ent n ∨ ent n + 4 ≤ y) → t.byte y = s.byte y)) ∧
     (s.mayRun id o 4 0x10 → s.fences.length < 4096 →
       let f := s.getO Obj.CRIB_NEXT_FENCE
       let o2 := { s.begun o with fence := some f }
       let s2 := { (s1.incO Obj.CRIB_NEXT_FENCE).setOp id o2 with fences := s.fences ++ [f] }
       let u := table 1
       let ns := (List.range ((x.dst + u.e 1 - 1) / 256 + 1)).filter fun n => decide (x.dst / 256 ≤ n)
       let done := s2.appendAll (table 0) u (table 2) x ns
       done.2 = none →
         ∃ t, exec (.cribAppend id) s = .next t ∧ t.op? id = some { o2 with phase := .executed } ∧ t.mem = done.1.mem ∧
           t.fences = s.fences ++ [f] ∧ t.ctxs = s.ctxs ∧ t.sems = s.sems) ∧
     (s.mayRun id o 4 0x10 → 4096 ≤ s.fences.length →
       ∃ t, exec (.cribAppend id) s = .next t ∧ t.op? id = some { s.begun o with phase := .ready, blocked := true } ∧
         t.mem = s.mem ∧ t.fences = s.fences)) ∧
  ((∀ (s : State) (t : TD) (seq n : Nat), s.chk = [] →
     let pages := s.getO Obj.CRIB_POOL_PAGES
     let data := s.getO Obj.CRIB_META_BASE
     let left := s.getO Obj.CRIB_PAGES_FREE
     let ent := t.addr [n, seq]
     let word := fun (w : State) (a : Nat) => ofBytes (w.peek a 4)
     let p := word s ent
     let top := word s (data + 4 * pages + 4 * (left - 1))
     let bytes := s.cribPageBytes
     let area := s.getO Obj.CRIB_POOL_BASE
     let w := (s.appendPage t seq n).1
     ent + 4 ≤ data ∨ data + 24 * pages ≤ ent →
     (p = unmapped → left ≠ 0 → left ≤ pages → top < pages →
       (s.appendPage t seq n).2 = .ok top ∧ word w ent = top ∧ word w (data + 4 * top) = 1 ∧
         w.getO Obj.CRIB_PAGES_FREE = left - 1 ∧ w.getO Obj.CRIB_COPIES = s.getO Obj.CRIB_COPIES) ∧
     (p ≠ unmapped → p < pages → word s (data + 4 * p) = 1 → s.appendPage t seq n = (s, .ok p)) ∧
     (p < pages → 1 < word s (data + 4 * p) → word s (data + 4 * p) < 2 ^ 16 → left ≠ 0 → left ≤ pages → top < pages →
       top ≠ p → p ≠ unmapped →
       area + pages * bytes ≤ data ∨ data + 24 * pages ≤ area → ent + 4 ≤ area ∨ area + pages * bytes ≤ ent →
       bytes % 64 = 0 → s.getO Obj.CRIB_COPIES + 1 < 2 ^ 64 →
       (s.appendPage t seq n).2 = .ok top ∧ word w ent = top ∧ word w (data + 4 * top) = 1 ∧
         word w (data + 4 * p) = word s (data + 4 * p) - 1 ∧ w.peek (area + top * bytes) bytes = s.peek (area + p * bytes) bytes ∧
         w.peek (area + p * bytes) bytes = s.peek (area + p * bytes) bytes ∧
         w.getO Obj.CRIB_PAGES_FREE = left - 1 ∧ w.getO Obj.CRIB_COPIES = s.getO Obj.CRIB_COPIES + 1) ∧
     (p = unmapped → left = 0 → (s.appendPage t seq n).2 = .error (.crib n))) ∧
   ∀ (s : State), s.chk = [] → s.getO Obj.CRIB_PAGES_PENDING ≠ 0 → s.getO Obj.CRIB_POOL_STATE = 1 →
     let w := ofBytes (s.peek (s.reclaimAddr s.ringHead) 16)
     let left := s.getO Obj.CRIB_PAGES_FREE
     ((∃ f ∈ s.fences, f < w / 2 ^ 64) → exec .cribReclaim s = .next s) ∧
     ((∀ f ∈ s.fences, w / 2 ^ 64 ≤ f) →
       ∃ t, exec .cribReclaim s = .next t ∧ t.getO Obj.CRIB_PAGES_FREE = left + 1 ∧
         t.getO Obj.CRIB_PAGES_PENDING = s.getO Obj.CRIB_PAGES_PENDING - 1 ∧
         ofBytes (t.peek (s.stackAddr left) 4) = w % 2 ^ 32 ∧
         t.ringHead = (s.ringHead + 1) % max 1 (s.getO Obj.CRIB_POOL_PAGES) ∧ t.fences = s.fences ∧ t.ops = s.ops))

/-- The update engine (R209 to R222). When values reach the engine and when its scalars are read are the model's readings
(assumptions 29, 30). -/
def Obligations.UpdateResults : Prop :=
  (∀ (s : State) (id : Nat) (o : Op), s.mayRun id o 6 1 → s.chk = [] → o.upd = none →
     let d := o.desc
     let g := updGroup d
     let o1 := s.begun o
     let s1 := s.atStep4 id o
     let ns := baleSpan (updFirst d) (updLast d)
     let r := (s1.scalars o1).2.1
     (16 ≤ s1.armed (o1.die s1) id → ∃ t, exec (.groupStep id) s = .next t ∧
       t.op? id = some { o1 with phase := .ready, blocked := true } ∧ t.mem = s.mem) ∧
     (s1.armed (o1.die s1) id < 16 → (∀ n ∈ ns, n ∉ s.balesAborted) → (∃ n ∈ ns, s.baleDone n = false) →
       ∃ t, exec (.groupStep id) s = .next t ∧ t.mem = s.mem ∧ t.getO Obj.GROUP_STEP g = s.getO Obj.GROUP_STEP g ∧
         (s.getO Obj.GROUP_NAN_POLICY g = 1 → t.op? id = some { o1 with upd := some { r with decided := true } }) ∧
         (s.getO Obj.GROUP_NAN_POLICY g ≠ 1 →
           t.op? id = some { o1 with upd := some { group := g, ws := s.getI Obj.GROUP_WSCALE g } })) ∧
     (s1.armed (o1.die s1) id < 16 → (∃ n ∈ ns, n ∈ s.balesAborted) →
       ∃ t, exec (.groupStep id) s = .next t ∧ (∃ p, t.op? id = some p ∧ p.phase = .failing 0 5 g) ∧ t.mem = s.mem)) ∧
  (∀ (s : State) (id : Nat) (o : Op), s.mayRun id o 6 2 → s.chk = [] →
     let d := o.desc
     let g := updGroup d
     let o1 := s.begun o
     let s1 := s.atStep4 id o
     let t0 := tensor o1.got.list 0
     let ix := t0.list
     let r := (s1.scalars o1).2.1
     let gin := fun i => s1.val t0 (opStrict d) i
     let bad := (ix.filter fun i => !t0.flt.isFinite (s1.el t0 i)).length
     let policy := s.getO Obj.GROUP_NAN_POLICY g
     let ws := ix.zipIdx.flatMap fun p => (s1.updElem o1 r p.2 (gin p.1).1).writes
     let kept := fun (t : State) => t.getO Obj.GROUP_STEP g = s.getO Obj.GROUP_STEP g ∧
       t.getO Obj.GROUP_POW1 g = s.getO Obj.GROUP_POW1 g ∧ t.getO Obj.GROUP_POW2 g = s.getO Obj.GROUP_POW2 g
     (16 ≤ s1.armed (o1.die s1) id → ∃ t, exec (.groupStepLocal id) s = .next t ∧
       t.op? id = some { o1 with phase := .ready, blocked := true } ∧ t.mem = s.mem) ∧
     (s1.armed (o1.die s1) id < 16 → policy = 1 ∨ bad = 0 → (∀ i ∈ ix, f32.isFinite (gin i).1 = true ∨ policy = 1) →
       ∃ t, exec (.groupStepLocal id) s = .next t ∧ t.op? id = some { o1 with phase := .executed } ∧
         (s.wrote ws (fun y => s.getO Obj.GROUP_WSCALE_MODE g = 1 ∧ s.getO Obj.GROUP_WORK_DESC g ≤ y ∧
           y < s.getO Obj.GROUP_WORK_DESC g + 32) t) ∧
         t.getO Obj.GROUP_STEP g = (s.getO Obj.GROUP_STEP g + 1) % 2 ^ 32 ∧ t.getO Obj.GROUP_POW1 g = r.p1 ∧
         t.getO Obj.GROUP_POW2 g = r.p2 ∧ t.getO Obj.GROUP_LAST_STEP g = 2 ^ 32 + s.getO Obj.WINNOW_STEP ∧
         t.getO Obj.GROUP_CENSUS_LAST g = bad % 2 ^ 64 ∧
         (s.getO Obj.UPDATE_ELEMS_DONE + t0.elems < 2 ^ 64 →
           t.getO Obj.UPDATE_ELEMS_DONE = s.getO Obj.UPDATE_ELEMS_DONE + t0.elems)) ∧
     (s1.armed (o1.die s1) id < 16 → policy = 0 → bad ≠ 0 →
       ∃ t, exec (.groupStepLocal id) s = .next t ∧ t.op? id = some { o1 with phase := .executed } ∧ t.mem = s.mem ∧ kept t ∧
         t.getO Obj.GROUP_LAST_STEP g = 2 ^ 32 + s.getO Obj.WINNOW_STEP ∧ t.getO Obj.GROUP_CENSUS_LAST g = bad % 2 ^ 64 ∧
         (s.getO Obj.GROUP_SKIPS g + 1 < 2 ^ 32 → t.getO Obj.GROUP_SKIPS g = s.getO Obj.GROUP_SKIPS g + 1)) ∧
     (s1.armed (o1.die s1) id < 16 → policy = 2 → bad ≠ 0 → s.onePost →
       ∃ t, exec (.groupStepLocal id) s = .next t ∧ t.op? id = none ∧ kept t ∧
         t.getO Obj.GROUP_LAST_STEP g = s.getO Obj.GROUP_LAST_STEP g ∧
         s.posted { reason := 0x0105, source := o.unit, tag := opTag d, d0 := g, d1 := bad % 2 ^ 32 } t)) ∧
  (∀ (s : State) (id e n p gin fl : Nat) (o : Op) (r : UpdRun), s.op? id = some o → o.phase = .executing → o.upd = some r →
     o.bale = none → s.chk = [] → r.decided = true → e < s.getO Obj.GROUP_ELEMS r.group →
     let d := o.desc
     let g := r.group
     let ns := baleSpan (updFirst d) (updLast d)
     let policy := s.getO Obj.GROUP_NAN_POLICY g
     let here := s.elemPlace (updFirst d) (updOffset d) (updLast d) e
     let ready := here = some (n, p) ∧ s.reduced n p (decide (policy = 1)) = some (gin, fl)
     let w := s.updElem o r e gin
     let next := fun (P : State → Prop) => ∃ t, exec (.updateElementApply id e) s = .next t ∧ P t ∧
       (s.getO Obj.UPDATE_ELEMS_DONE + 1 < 2 ^ 64 → t.getO Obj.UPDATE_ELEMS_DONE = s.getO Obj.UPDATE_ELEMS_DONE + 1) ∧
       s.wrote w.writes (fun y => s.getO Obj.GROUP_WSCALE_MODE g = 1 ∧ s.getO Obj.GROUP_WORK_DESC g ≤ y ∧
         y < s.getO Obj.GROUP_WORK_DESC g + 32) t
     (here = none → exec (.updateElementApply id e) s = .next s) ∧
     (here = some (n, p) → s.reduced n p (decide (policy = 1)) = none → exec (.updateElementApply id e) s = .next s) ∧
     (ready → f32.isFinite gin = true ∨ policy = 1 → (∀ k ∈ ns, k ∉ s.balesAborted) → (∃ k ∈ ns, s.baleDone k = false) →
       next fun t => t.op? id = some { o with upd := some (r.applied 1 w) } ∧
         t.getO Obj.GROUP_STEP g = s.getO Obj.GROUP_STEP g) ∧
     (ready → f32.isFinite gin = true ∨ policy = 1 → (∀ k ∈ ns, k ∉ s.balesAborted) → (∀ k ∈ ns, s.baleDone k = true) →
       r.done + 1 = s.getO Obj.GROUP_ELEMS g →
       next fun t => (∃ q, t.op? id = some q ∧ q.phase = .executed) ∧ t.getO Obj.GROUP_STEP g = r.t ∧
         t.getO Obj.GROUP_POW1 g = r.p1 ∧ t.getO Obj.GROUP_POW2 g = r.p2 ∧
         t.getO Obj.GROUP_LAST_STEP g = 2 ^ 32 + o.step))

/-- Thresher operations and the take of sample descriptors (R270, R275, R276, R281, R293). The cause of a descriptor with
bad fields is the model's reading (assumption 56), and so is a waiting MERGE_LOAD (assumption 58). -/
def Obligations.ThresherResults : Prop :=
  (∀ (s : State) (id : Nat) (o : Op),
     let d := o.desc
     let die := dieOfUnit o.unit
     let x := s.thr die
     let u := s.atStep4 id o
     let waits := fun (c : Instr) => ∃ t, exec c s = .next t ∧ t.thrs = s.thrs ∧
       t.op? id = some { s.begun o with phase := .ready, blocked := true }
     (s.mayRun id o 8 1 → x.run = none →
       ∃ t, exec (.threshRun id) s = .next t ∧ t.thr die = { x with run := some id, left := thCount d } ∧
         (∀ e, e ≠ die → t.thr e = s.thr e) ∧ t.op? id = some (s.begun o) ∧ t.mem = u.mem) ∧
     (s.mayRun id o 8 1 → x.run.isSome = true → waits (.threshRun id)) ∧
     (s.mayRun id o 8 2 → x.run.isSome = true → waits (.mergeLoad id)) ∧
     (s.mayRun id o 8 2 → x.run = none → u.clean (thTable d) (8 * thMerges d) →
       let entry := fun (r : Nat) => ofBytes (u.peek (thTable d + 8 * r) 8)
       let good := fun (r : Nat) => entry r % 2 ^ 32 < 256 + r ∧ entry r / 2 ^ 32 < 256 + r
       ((∀ r, r < thMerges d → good r) →
         ∃ t, exec (.mergeLoad id) s = .next t ∧ t.op? id = some { s.begun o with phase := .executed } ∧
           (t.thr die).merges = (List.range (thMerges d)).map entry ∧ t.getO Obj.THRESH_MERGES die = thMerges d ∧
           t.mem = u.mem ∧ ∀ e, e ≠ die → t.thr e = s.thr e) ∧
       ∀ r, r < thMerges d → ¬good r → (∀ q, q < r → good q) →
         ∃ t, exec (.mergeLoad id) s = .next t ∧ t.op? id = some { s.begun o with phase := .failing r 4 0 } ∧ t.thrs = s.thrs)) ∧
  (∀ (s : State) (die id : Nat) (o : Op), die ≤ 1 → s.running? die = some (id, o) →
     let q := thRing o.desc
     let r := s.ring q
     let x := s.thr die
     let a := r.slot r.c
     let d := ofBytes (s.peek a 64)
     let taken := x.windowFull = false ∧ x.lanes.length < x.left ∧ r.binding = 3 ∧ r.target = die ∧ r.stopped = false ∧ r.fill ≠ 0
     let total := s.getO Obj.SHUF_SAMPLES
     let wraps := total ≤ s.thrPos die (s.getO Obj.THRESH_NEXT_K die)
     let e := if wraps then (s.getO Obj.THRESH_DATA_EPOCH die + 1) % 2 ^ 32 else s.getO Obj.THRESH_DATA_EPOCH die
     let k := if wraps then 0 else s.getO Obj.THRESH_NEXT_K die
     let p := s.thrPos die k
     let v := (shuffle total (s.getO Obj.WINNOW_JOB_SEED) e p).1
     let c := sdClass d
     let skip := s.getO Obj.THRESH_SKIP die c
     let fits := sdEpoch d = e ∧ sdPos d = p ∧ sdSample d = v ∧ s.sampleBad die d = false
     (¬taken → exec (.sampleDescriptorTake die) s = .next s) ∧
     (taken → s.clean a 64 → 4096 ≤ r.notify →
       ∃ t, exec (.sampleDescriptorTake die) s = .next t ∧ t.ring q = { r with c := (r.c + 1) % 2 ^ 32 } ∧ t.mem = s.mem ∧
         t.getO Obj.THRESH_DATA_EPOCH die = e ∧
         (fits → t.getO Obj.THRESH_NEXT_K die = (k + 1) % 2 ^ 64 ∧ t.op? id = some o ∧
           (skip = 0 → t.thr die = { x with taken := x.taken + 1, lanes := x.lanes ++
             [{ epoch := e, k := k, pos := p, sample := v, cls := c, desc := d, seq := x.taken + 1 }] }) ∧
           (skip ≠ 0 → t.getO Obj.THRESH_SKIP die c = skip - 1 ∧
             t.thr die = { x with taken := x.taken + 1, past := x.past ++
               [{ epoch := e, k := k, cls := c, seq := x.taken + 1, skipped := true }] })) ∧
         (¬fits → t.op? id = some { o with phase := .failing p 3 0 } ∧ t.thr die = x)))

/-- The end of the decode of a sample (R282, R284) and the emission of samples in order (R273, R274, R281, R296). JPEG,
PNG, FLAC and the framing of Opus packets are decoded after their standards (assumption 54), and the output of the
Opus reference decoder is a free function (assumption 120); the work area is open (assumption 21); that slots are
numbered by CLASS_EMITTED is the model's reading (assumption 57). -/
def Obligations.SampleDecodeAndEmitResults : Prop :=
  (∀ (s : State) (die id k : Nat) (o : Op) (l : Lane), die ≤ 1 → s.running? die = some (id, o) → s.chk = [] →
     let x := s.thr die
     let cn := 8 * die + l.cls
     let c := s.cls cn
     let a := sdRec l.desc
     let done := fun (typ : Nat) (work : List (Nat × Nat)) (r : Except DropAt Good) =>
       { x with lanes := x.lanes.set k { laneDone l c (s.classTensor cn) typ r with work := work } }
     let head := (s.headOf die l).2
     x.lanes[k]? = some l →
       (l.done = true ∨ s.inLane x k l = false → exec (.sampleDecodeComplete die k) s = .next s) ∧
       (l.done = false → s.inLane x k l = true →
         (∀ typ d, head = .drop typ d →
           exec (.sampleDecodeComplete die k) s = .next (s.setThr die (done typ [] (.error d)))) ∧
         ∀ h p bs size need, head = .ok h p bs size need →
           let r := decodeSample c h p x.merges (s.peek (a + 16) size)
           let work := s.workRoom die need
           (s.hasRoom die k need = false → exec (.sampleDecodeComplete die k) s = .next s) ∧
           (s.hasRoom die k need = true → ∃ t, exec (.sampleDecodeComplete die k) s = .next t ∧
             t.thr die = done h.typ (if r.isOk then work else []) r ∧ t.obj = s.obj ∧ t.ops = s.ops ∧ t.sems = s.sems ∧
             ∀ y, (∀ w ∈ work, y < w.1 ∨ w.1 + w.2 ≤ y) → t.byte y = s.byte y))) ∧
  (∀ (s : State) (die : Nat) (l : Lane),
     let c := s.cls (8 * die + l.cls)
     let a := sdRec l.desc
     let h := Sheaf.parse (ofBytes (s.peek a 16))
     let drops := fun (n : Nat) => s.headOf die l = (s, .drop h.typ ⟨n, 0⟩)
     let formed := h.magic = sheafMagic ∧ 0 < h.len ∧ h.len ≤ 268435456
     let known := formed ∧ h.flags / 2 = 0 ∧ modality h.typ ≠ 0
     s.clean a 16 →
       (¬formed → drops 2) ∧ (formed → h.flags / 2 ≠ 0 → drops 3) ∧
       (formed → h.flags / 2 = 0 → modality h.typ = 0 → drops 2) ∧
       (known → modality h.typ ≠ c.modality → drops 9) ∧
       (known → modality h.typ = c.modality → (c.modality > 2 ∨ sdParam l.desc = 0) →
         overLength c (Params.parse 0) (sdDecl l.desc) = true → drops 7) ∧
       (known → modality h.typ = c.modality → c.modality ≤ 2 → sdParam l.desc ≠ 0 → s.clean (sdParam l.desc) 128 →
         let p := Params.parse (ofBytes (s.peek (sdParam l.desc) 128))
         (overLength c p (sdDecl l.desc) = true → drops 7) ∧
         (overLength c p (sdDecl l.desc) = false → p.bad c.modality = true → drops 9))) ∧
  (∀ (s : State) (die id : Nat) (o : Op) (l : Lane), die ≤ 1 → s.running? die = some (id, o) →
     let x := s.thr die
     let cn := 8 * die + l.cls
     let free := s.getO Obj.CLASS_FREE_SEM cn
     let full := s.getO Obj.CLASS_FULL_SEM cn
     let y := s.sem free
     let z := s.sem full
     let a := s.getO Obj.CLASS_OUT_BASE cn + s.getO Obj.CLASS_EMITTED cn % s.getO Obj.CLASS_SLOTS cn * s.slotBytes cn
     let emits := fun (t : State) => (t.thr die).lanes = x.lanes.drop 1 ∧ (t.thr die).left = x.left - 1 ∧
       (t.thr die).slotGranted = false ∧
       s.wrote ((a, leBytes 32 l.head) :: l.body.map fun p => (a + p.1, p.2)) (fun _ => False) t ∧
       (z.st ≠ 2 → z.waits = [] → z.count + 1 < 2 ^ 32 → free ≠ full → t.sem full = { z with count := z.count + 1 }) ∧
       (s.getO Obj.CLASS_EMITTED cn + 1 < 2 ^ 64 → t.getO Obj.CLASS_EMITTED cn = s.getO Obj.CLASS_EMITTED cn + 1) ∧
       (l.drop = none → t.getO Obj.THRESH_FLAGS = s.getO Obj.THRESH_FLAGS ||| l.flags % 128 ∧
         t.getO Obj.THRESH_DROPS die = s.getO Obj.THRESH_DROPS die) ∧
       (∀ r, l.drop = some r → 1 ≤ r → r ≤ 12 → s.getO Obj.THRESH_DROPS die + 1 < 2 ^ 64 →
         t.getO Obj.THRESH_DROPS die = s.getO Obj.THRESH_DROPS die + 1 ∧ t.getO Obj.THRESH_FLAGS = s.getO Obj.THRESH_FLAGS ∧
           (r ≠ 6 → r ≠ 7 → t.getO Obj.ERR_LAST_REASON = 0x0601) ∧
           (r = 6 ∨ r = 7 → t.getO Obj.ERR_SEQ_NEXT = s.getO Obj.ERR_SEQ_NEXT)) ∧
       (x.left ≤ 1 → t.op? id = some { o with phase := .executed }) ∧ (1 < x.left → t.op? id = some o)
     x.lanes.head? = some l → l.cls < 8 → x.slotOrphan = false → s.chk = [] → z.st = 2 ∨ z.waits = [] →
       l.drop = none ∨ s.ringFor 5 0 = none →
       (l.done = false ∨ x.waitSlot = true → exec (.slotEmit die) s = .next s) ∧
       (l.done = true → x.waitSlot = false → x.slotGranted = true → z.count + 1 < 2 ^ 32 →
         ∃ t, exec (.slotEmit die) s = .next t ∧ emits t) ∧
       (l.done = true → x.waitSlot = false → x.slotGranted = false → z.count + 1 < 2 ^ 32 →
         (y.st ≠ 2 → y.waits = [] → 1 ≤ y.count → free ≠ full →
           ∃ t, exec (.slotEmit die) s = .next t ∧ emits t ∧ t.sem free = { y with count := y.count - 1 }) ∧
         (y.st ≠ 2 → ¬(y.waits = [] ∧ 1 ≤ y.count) → s.poolUsed < 65536 →
           ∃ t, exec (.slotEmit die) s = .next t ∧ t.thr die = { x with waitSlot := true } ∧ t.mem = s.mem ∧
             t.sem free = { y with waits := y.waits ++
               [{ who := .slot die, n := 1, sem := free, epoch := s.getO Obj.SCHED_EPOCH }] }) ∧
         (y.st = 2 → ∃ t, exec (.slotEmit die) s = .next t ∧ t.op? id = some { o with phase := .failing l.pos 0 0 } ∧
           t.mem = s.mem)))

/-- Host Ethernet below RoCE (R429 to R434). Addresses given by standard are the standards' (assumptions 68, 67); details
of the next hop are the model's (assumption 119). -/
def Obligations.EthernetResults : Prop :=
  (∀ (s : State) (port : Nat) (f : EthFrame) (target who : Nat), port < 2 →
     let up := s.getO Obj.ETH_LINK_STATE port = 2
     let mac := (s.fuses.macBase + port) % 2 ^ 48
     let vlan := s.getO Obj.ETH_VLAN_ID port
     let fits := f.fcsOk = true ∧ f.lost = 0 ∧ f.size ≤ s.getO Obj.ETH_MTU port + (if f.vlan = 0 then 18 else 22) ∧
       (f.dst = mac ∨ f.dst = 2 ^ 48 - 1 ∨ f.dst ∈ s.joined port) ∧ (vlan = 0 ∨ f.vlan = vlan) ∧
       (bit (s.getO Obj.ETH_PFC_ENABLE port) f.prio = true ∨ s.held port + f.size ≤ 1048576)
     let plus := fun (t : State) (o : ObjDef) (n : Nat) => s.getO o port + n < 2 ^ 64 → t.getO o port = s.getO o port + n
     let ends := fun (c : Instr) (took sent : Nat) (P : State → Prop) => ∃ t, exec c s = .next t ∧
       plus t Obj.ETH_FEC_CORRECTED f.fixed ∧ plus t Obj.ETH_FEC_UNCORRECTED f.lost ∧
       plus t Obj.ETH_RX_FCS_ERRORS (if f.fcsOk = true ∧ f.lost = 0 then 0 else 1) ∧
       plus t Obj.ETH_RX_FRAMES took ∧ plus t Obj.ETH_RX_DROPS (1 - took) ∧ plus t Obj.ETH_TX_FRAMES sent ∧
       t = { s with obj := t.obj, freeCtr := t.freeCtr, eths := t.eths, out := t.out } ∧ P t
     let still := fun (t : State) => t.eths = s.eths ∧ t.out = s.out
     let sends := fun (t : State) (dst : Nat) (b : TxBody) => t.out = s.out ++
       [.eth { port := port, dst := dst, src := mac, vlan := vlan, prio := 0, body := b }]
     let has4 := target ≠ 0 ∧ target = (s.eth port).ip4
     let has6 := target ≠ 0 ∧ (target = (s.eth port).ip6 ∨ target = s.linkLocal port)
     let has := if isV4 target = true then target % 2 ^ 32 ≠ 0 ∧ target % 2 ^ 32 = (s.eth port).ip4 else has6
     let open_ := s.txPaused port 0 = false
     let mode := s.getO Obj.ETH_MODE port
     let copper := mode = 2 ∨ mode = 4 ∨ mode = 6
     (∀ adv : List Nat, 2 ≤ s.dev → mode ≠ 0 → ¬up →
       (copper ∧ mode ∉ adv → exec (.ethLinkUp ⟨port, adv⟩) s = .next s) ∧
       (¬copper ∨ mode ∈ adv → ∃ t, exec (.ethLinkUp ⟨port, adv⟩) s = .next t ∧
         t.getO Obj.ETH_LINK_STATE port = 2 ∧ (t.eth port).ip4 = s.getO Obj.ETH_IPV4_ADDR port ∧
         (t.eth port).ip6 = s.getO Obj.ETH_IPV6_ADDR_HI port * 2 ^ 64 + s.getO Obj.ETH_IPV6_ADDR_LO port ∧
         (t.eth port).ip4gw = s.getO Obj.ETH_IPV4_GATEWAY port ∧ (t.eth port).neigh = [] ∧
         t = { s with obj := t.obj, eths := t.eths })) ∧
     (∃ t, exec (.ethLinkDown port) s = .next t ∧ t.getO Obj.ETH_LINK_STATE port = 0 ∧ t.eth port = {} ∧
       t = { s with obj := t.obj, eths := t.eths }) ∧
     (¬up → ∀ c ∈ [Instr.ethFrameReceive port f, .arpRequest port f target who, .neighbourSolicitation port f target who,
       .echoRequest port f target who], exec c s = .next s) ∧
     (up → ¬fits → ∀ c ∈ [Instr.ethFrameReceive port f, .arpRequest port f target who,
       .neighbourSolicitation port f target who, .echoRequest port f target who], ends c 0 0 still) ∧
     (up → fits →
       (s.takesPacket port f.bytes = false → ends (.ethFrameReceive port f) 0 0 still) ∧
       (s.takesPacket port f.bytes = true → ∃ t, exec (.ethFrameReceive port f) s = .next t ∧ plus t Obj.ETH_RX_FRAMES 1 ∧
         plus t Obj.ETH_RX_DROPS 0 ∧ t = { s with obj := t.obj, freeCtr := t.freeCtr, eths := t.eths, out := t.out }) ∧
       (s.takesPacket port f.bytes = true → beAt f.bytes 0 2 = 0x0806 → beAt f.bytes 8 2 ≠ 2 →
         ends (.ethFrameReceive port f) 1 0 still) ∧
       (beAt f.bytes 0 2 = 0x0806 → beAt f.bytes 8 2 = 2 → 0 < beAt f.bytes 10 6 →
         let ip := v4 (beAt f.bytes 16 4)
         ∀ w, (s.eth port).waiting = [(ip, w)] → w.port = port → s.txPaused port w.prio = false →
           ends (.ethFrameReceive port f) 1 1 fun t => SMap.get 0 (t.eth port).neigh ip = beAt f.bytes 10 6 ∧
             (t.eth port).waiting = [] ∧ t.out = s.out ++ [.eth { w with dst := beAt f.bytes 10 6 }]) ∧
       (¬has4 → ends (.arpRequest port f target who) 1 0 still) ∧
       (has4 → (s.eth port).waiting = [] → open_ → 0 < f.src → ends (.arpRequest port f target who) 1 1 fun t =>
         sends t f.src (.arp true who target) ∧ SMap.get 0 (t.eth port).neigh (v4 who) = f.src) ∧
       (¬has6 → ends (.neighbourSolicitation port f target who) 1 0 still) ∧
       (has6 → (s.eth port).waiting = [] → open_ → 0 < f.src → ends (.neighbourSolicitation port f target who) 1 1 fun t =>
         sends t f.src (.nd true who target) ∧ (who ≠ 0 → SMap.get 0 (t.eth port).neigh who = f.src)) ∧
       (¬(has ∧ f.bytes.length ≤ 1232) → ends (.echoRequest port f target who) 0 0 still) ∧
       (has ∧ f.bytes.length ≤ 1232 →
         (s.nextHop port who = none → ends (.echoRequest port f target who) 1 0 still) ∧
         ∀ h, s.nextHop port who = some h → open_ →
           let d : Dgram := { src := target, dst := who, load := .echo f.bytes }
           (SMap.get 0 (s.eth port).neigh h ≠ 0 → ends (.echoRequest port f target who) 1 1 fun t => t.eths = s.eths ∧
             sends t (SMap.get 0 (s.eth port).neigh h) (.ip d)) ∧
           (SMap.get 0 (s.eth port).neigh h = 0 → ends (.echoRequest port f target who) 1 1 fun t =>
             (t.eth port).waiting = (s.eth port).waiting ++
               [(h, { port := port, dst := 0, src := mac, vlan := vlan, prio := 0, body := .ip d })] ∧
             (isV4 h = true → sends t (2 ^ 48 - 1) (.arp false (h % 2 ^ 32) (s.eth port).ip4)) ∧
             (isV4 h = false → sends t (0x3333FF000000 + h % 2 ^ 24) (.nd false h (s.linkLocal port)))))) ∧
     ∀ src, s.acceptedWrite src Obj.ETH_RESTART port 0 1 → ∃ w : State,
       exec (.ethRestart src port) s = .next (w.answered s src 4 0 0 []) ∧ w.eth port = {} ∧
         w.getO Obj.ETH_LINK_STATE port = (if mode = 0 then 0 else 1) ∧
         (mode ≠ 0 → .ethTrain port mode (if mode ≤ 2 then [0, 1] else [0]) (copperMode mode) ∈ w.out)) ∧
  (∀ (s : State) (p a : Nat), let x := s.eth p
     (∀ v, a = 0xFFFF * 2 ^ 32 + v → v < 2 ^ 32 → x.ip4 < 2 ^ 32 → x.ip4pfx ≤ 32 →
       let near := v / 2 ^ (32 - x.ip4pfx) = x.ip4 / 2 ^ (32 - x.ip4pfx)
       (near → s.nextHop p a = some a) ∧ (¬near → x.ip4gw ≠ 0 → s.nextHop p a = some (v4 x.ip4gw)) ∧
         (¬near → x.ip4gw = 0 → s.nextHop p a = none)) ∧
     (isV4 a = false →
       let near := a / 2 ^ 118 = 0xFE80 / 2 ^ 6 ∨ (x.ip6 ≠ 0 ∧ a / 2 ^ (128 - x.ip6pfx) = x.ip6 / 2 ^ (128 - x.ip6pfx))
       (near → s.nextHop p a = some a) ∧ (¬near → x.ip6gw ≠ 0 → s.nextHop p a = some x.ip6gw) ∧
         (¬near → x.ip6gw = 0 → s.nextHop p a = none)))

/-- Priority flow control and congestion (R441 to R443). The pacing of read responses is timing (assumption 71). -/
def Obligations.PauseAndRateResults : Prop :=
  (∀ (s : State) (port prio : Nat), port < 2 → prio < 8 →
     let x := s.eth port
     let up := s.getO Obj.ETH_LINK_STATE port = 2
     let others := fun (t : State) => ∀ p, p ≠ port → t.eth p = s.eth p
     (∀ (f : EthFrame) (prios : Nat) (quanta : List Nat),
       let c := Instr.pfcFrameReceive port f ⟨prios, quanta⟩
       let whole := f.fcsOk = true ∧ f.lost = 0 ∧ (f.dst = 0x0180C2000001 ∨ f.dst = s.macOf port) ∧
         f.size ≤ s.getO Obj.ETH_MTU port + 22
       (¬up → exec c s = .next s) ∧
       (up → ¬whole → ∃ t, exec c s = .next t ∧ t = { s with obj := t.obj, freeCtr := t.freeCtr } ∧
         (s.getO Obj.ETH_RX_DROPS port + 1 < 2 ^ 64 → t.getO Obj.ETH_RX_DROPS port = s.getO Obj.ETH_RX_DROPS port + 1)) ∧
       (up → whole → bit prios prio = true → bit (s.getO Obj.ETH_PFC_ENABLE port) prio = true →
         (∀ g ∈ x.txq, g.port = port) → ∃ t, exec c s = .next t ∧ others t ∧
           (quanta.getD prio 0 = 0 → (∀ p ∈ (t.eth port).paused, p.prio ≠ prio) ∧
             ∀ g ∈ x.txq, g.prio = prio → .eth g ∈ t.out) ∧
           (quanta.getD prio 0 ≠ 0 → (∀ p ∈ x.paused, p.prio ≠ prio) →
             ({ prio := prio, sinceMs := s.getO Obj.DEVICE_UPTIME_MS } : Pause) ∈ (t.eth port).paused) ∧
           (quanta.getD prio 0 ≠ 0 → ∀ p ∈ x.paused, p.prio = prio → p ∈ (t.eth port).paused) ∧
           (s.getO Obj.ETH_PFC_RX port + 1 < 2 ^ 64 → t.getO Obj.ETH_PFC_RX port = s.getO Obj.ETH_PFC_RX port + 1))) ∧
     ((∀ g ∈ x.txq, g.port = port) → ∃ t, exec (.pfcPauseExpiry port prio) s = .next t ∧ others t ∧
       (t.eth port).paused = (x.paused.filter fun p => decide (p.prio ≠ prio)) ∧
       (up → (t.eth port).txq = (x.txq.filter fun g => decide (g.prio ≠ prio)) ∧
         t.out = s.out ++ (x.txq.filter fun g => decide (g.prio = prio)).map Output.eth)) ∧
     (∀ g : TxFrame, g.port = port → g.prio = prio → up → bit (s.getO Obj.ETH_PFC_ENABLE port) prio = true →
       (∃ p ∈ x.paused, p.prio = prio) → s.transmit g = s.setEth port { x with txq := x.txq ++ [g] }) ∧
     (let ps := s.heldPrios port
      let low := 1048576 - s.held port < 262144
      (ps ≠ [] → low → ∃ t, exec (.pfcXoffRepeat port) s = .next t ∧ t.out = s.out ++
         [.eth { port := port, dst := 0x0180C2000001, src := s.macOf port, vlan := s.getO Obj.ETH_VLAN_ID port, prio := 0
                 body := .pfc ps 0xFFFF }] ∧ t.eths = s.eths ∧
         (s.getO Obj.ETH_PFC_TX port + 1 < 2 ^ 64 → t.getO Obj.ETH_PFC_TX port = s.getO Obj.ETH_PFC_TX port + 1)) ∧
      (ps = [] ∨ ¬low → exec (.pfcXoffRepeat port) s = .next s) ∧
      (prio ∈ ps ↔ bit (s.getO Obj.ETH_PFC_ENABLE port) prio = true ∧
        ∃ h ∈ s.roceHeld, h.1.eport = port ∧ h.1.net.frame.prio = prio)) ∧
     ∀ p, x.paused.find? (fun p => decide (p.prio = prio)) = some p →
       (p.storm = false → p.sinceMs + 100 < s.getO Obj.DEVICE_UPTIME_MS → s.onePost →
         ∃ t, exec (.pfcStorm port prio) s = .next t ∧ others t ∧
           (s.getO Obj.ETH_PFC_STORMS port + 1 < 2 ^ 32 → t.getO Obj.ETH_PFC_STORMS port = s.getO Obj.ETH_PFC_STORMS port + 1) ∧
           (t.eth port).paused = (x.paused.map fun q => if q.prio = prio then { q with storm := true } else q) ∧
           s.posted { reason := 0x0802, d0 := port, d1 := prio } t) ∧
       (p.storm = true ∨ s.getO Obj.DEVICE_UPTIME_MS ≤ p.sinceMs + 100 → exec (.pfcStorm port prio) s = .next s)) ∧
  (∀ (s : State) (m : Nat), m < 1024 →
     let q := s.qp m
     let mode := s.getO Obj.ETH_MODE q.port
     let full := if mode = 0 then 0 else if mode ≤ 2 then 400000 else if mode ≤ 4 then 200000 else 100000
     let rate := if q.rate = 0 then full else q.rate
     let rest := fun (t : State) => (∀ j, j ≠ m → t.qp j = s.qp j) ∧ t.mem = s.mem ∧ t.out = s.out
     (∀ (p : RocePkt) (us : Nat), p.opcode = 0x81 → p.qp = 0x100 + m → s.takes p.net 4791 → s.asleep = false → s.qpFits m p = true →
       ∃ t, exec (.cnp p us) s = .next t ∧ rest t ∧
         (s.getO Obj.ETH_CNP_RX q.port + 1 < 2 ^ 64 → t.getO Obj.ETH_CNP_RX q.port = s.getO Obj.ETH_CNP_RX q.port + 1) ∧
         (s.getO Obj.ROCE_CNP_INTERVAL_US ≤ us → t.qp m = { q with lip := p.net.dstIp, rate := max 1 (rate / 2) }) ∧
         (us < s.getO Obj.ROCE_CNP_INTERVAL_US → t.qp m = { q with lip := p.net.dstIp })) ∧
     (q.rate ≠ 0 → ∃ t, exec (.roceRateIncrease (0x100 + m)) s = .next t ∧ rest t ∧
       t.qp m = { q with rate := if full ≤ q.rate + full / 20 then 0 else q.rate + full / 20 }) ∧
     (q.rate = 0 → exec (.roceRateIncrease (0x100 + m)) s = .next s))

/-- The RoCE engine (R435 to R440). Syndromes, and when protected areas are judged, are the model's (assumptions 68, 69,
70). -/
def Obligations.QueuePairResults : Prop :=
  (∀ (s : State) (p : RocePkt) (hop mac : Nat), s.takes p.net 4791 → s.asleep = false → p.ce = false →
     0x100 ≤ p.qp → p.qp < 0x500 → s.qpFits (p.qp - 0x100) p = true → s.nextHop p.eport p.srcIp = some hop →
     SMap.get 0 (s.eth p.eport).neigh hop = mac → mac ≠ 0 →
     let prio := s.getO Obj.ETH_ROCE_PRIO p.eport
     s.txPaused p.eport prio = false →
     let n := p.qp - 0x100
     let q := { s.qp n with lip := p.net.dstIp }
     let k := p.payload.length
     let mtu := 1024 * 2 ^ q.pmtu
     let others := fun (t : State) => ∀ m, m ≠ n → t.qp m = s.qp m
     let rest := fun (t : State) => others t ∧ t.ops = s.ops ∧ t.ctxs = s.ctxs
     let reply := fun (opcode psn syndrome : Nat) (bs : List Byte) => Output.eth
       { port := p.eport, dst := mac, src := s.macOf p.eport, vlan := s.getO Obj.ETH_VLAN_ID p.eport, prio := prio
         body := .ip { src := p.net.dstIp, dst := p.srcIp, sport := q.sport, dport := 4791
                       dscp := s.getO Obj.ETH_ROCE_DSCP p.eport, ect := decide (s.getO Obj.ETH_ECN_EN p.eport = 1)
                       load := .roce q.rqpn opcode (psn % 2 ^ 24) syndrome bs } }
     let replies := fun (t : State) (opcode psn syndrome : Nat) (bs : List Byte) =>
       t.out = s.out ++ [reply opcode psn syndrome bs]
     let acks := fun (t : State) => (p.ackReq = true → replies t 0x11 p.psn synACK []) ∧ (p.ackReq = false → t.out = s.out)
     let on := fun (last : Bool) => { q with psn := (q.psn + 1) % 2 ^ 24, nakSent := false, rxBytes := (q.rxBytes + k) % 2 ^ 64,
                                             msn := if last then (q.msn + 1) % 2 ^ 24 else q.msn }
     let invalid := fun (x : Instr) => ∃ t, exec x s = .next t ∧ rest t ∧ replies t 0x11 p.psn synINVALID [] ∧
       t.qp n = { q with st := 2, cause := 1, wr := none, snd := none } ∧ t.mem = s.mem
     let refused := s.onePost →
         ∃ t, exec (.rdmaWrite p) s = .next t ∧ others t ∧ (t.qp n).st = 2 ∧ (t.qp n).cause = 2 ∧
           (∃ l, t.out = s.out ++ reply 0x11 p.psn synACCESS [] :: l) ∧
           (s.getO Obj.ROCE_ACCESS_ERRORS + 1 < 2 ^ 32 →
             t.getO Obj.ROCE_ACCESS_ERRORS = s.getO Obj.ROCE_ACCESS_ERRORS + 1) ∧
           t.getO Obj.ERR_LAST_REASON = 0x0801
     let write := fun (key a left : Nat) (last : Bool) =>
       k ≤ mtu → (last = false → k = mtu ∧ k < left) → (last = true → k = left) →
         let goes := { on last with wr := if last then none else some (key, a + k, left - k) }
         (s.isProtected a k = false → inBell a k = false → s.clean (a / 32 * 32) (a % 32 + k + 32) →
           ∃ t, exec (.rdmaWrite p) s = .next t ∧ rest t ∧ acks t ∧ t.peek a k = p.payload ∧ t.qp n = goes ∧
             ∀ y, y < a ∨ a + k ≤ y → t.byte y = s.byte y) ∧
         (s.isProtected a k = false → inBell a k = true → k = 8 →
           ∃ t, exec (.rdmaWrite p) s = .next t ∧ rest t ∧ acks t ∧ t.mem = s.mem ∧ t.qp n = goes ∧
             t.rings = (s.doorbell ((a - bellBase) / 16) (decide ((a - bellBase) % 16 < 8)) (ofBytes p.payload)).rings) ∧
         (s.isProtected a k = true → refused)
     (p.psn = q.psn → q.psn < 2 ^ 24 →
       (p.opcode = 0x06 ∨ p.opcode = 0x0A → q.wr = none → q.snd = none →
         (s.mrAdmits p = true → write p.rkey p.va p.len (decide (p.opcode = 0x0A))) ∧ (s.mrAdmits p = false → refused)) ∧
       (p.opcode = 0x07 ∨ p.opcode = 0x08 → ∀ key a left, q.wr = some (key, a, left) →
         write key a left (decide (p.opcode = 0x08))) ∧
       (p.opcode = 0x0C → q.wr = none → q.snd = none → 0 < p.len → p.len ≤ mtu → p.len ≤ 2 ^ 31 →
         (16 ≤ s.readsHeld q → invalid (.rdmaReadRequest p)) ∧
         (s.readsHeld q < 16 → s.mrGrants p.rkey 1 p.va p.len = true → inBell p.va p.len = false → s.clean p.va p.len →
           ∃ t, exec (.rdmaReadRequest p) s = .next t ∧ rest t ∧ replies t 0x10 p.psn synACK (s.peek p.va p.len) ∧
             t.mem = s.mem ∧ t.qp n = { q with psn := (q.psn + 1) % 2 ^ 24, nakSent := false, msn := (q.msn + 1) % 2 ^ 24 })) ∧
       (p.opcode = 0x00 → q.wr = none → q.snd = none → k = mtu → k ≤ 4096 → (s.ringFor 1 p.qp).isSome = true →
         ∃ t, exec (.roceSend p) s = .next t ∧ rest t ∧ acks t ∧ t.mem = s.mem ∧ t.rings = s.rings ∧
           t.qp n = { on false with snd := some p.payload }) ∧
       (p.opcode = 0x04 → q.wr = none → q.snd = none → k ≤ mtu → 64 ≤ k → k ≤ 4096 → k % 64 = 0 → s.chk = [] →
         ∀ r, s.ringFor 1 p.qp = some r → 4096 ≤ (s.ring r).notify →
         (k / 64 ≤ (s.ring r).size - (s.ring r).fill →
           ∃ t, exec (.roceSend p) s = .next t ∧ rest t ∧ acks t ∧ t.qp n = on true ∧
             t.ring r = { s.ring r with p := ((s.ring r).p + k / 64) % 2 ^ 32 } ∧
             ∀ i, i < k / 64 → t.peek ((s.ring r).slot ((s.ring r).p + i)) 64 = (p.payload.drop (64 * i)).take 64) ∧
         ((s.ring r).size - (s.ring r).fill < k / 64 →
           ∃ t, exec (.roceSend p) s = .next t ∧ rest t ∧ replies t 0x11 p.psn synRNR [] ∧ t.qp n = q ∧ t.mem = s.mem ∧
             t.rings = s.rings)) ∧
       (p.opcode ∉ [0x00, 0x01, 0x02, 0x04, 0x06, 0x07, 0x08, 0x0A, 0x0C, 0x81] → invalid (.roceInvalidOpcode p))) ∧
     (∀ d, 0 < d → d < 2 ^ 23 → p.psn = (q.psn + d) % 2 ^ 24 → q.psn < 2 ^ 24 → p.opcode = 0x0A →
       (q.nakSent = false → ∃ t, exec (.rdmaWrite p) s = .next t ∧ rest t ∧ replies t 0x11 q.psn synPSN [] ∧
         t.qp n = { q with nakSent := true } ∧ t.mem = s.mem) ∧
       (q.nakSent = true → ∃ t, exec (.rdmaWrite p) s = .next t ∧ rest t ∧ t.out = s.out ∧ t.qp n = q ∧ t.mem = s.mem))) ∧
  (∀ (s : State) (p : RocePkt) (us : Nat),
     let x := if p.opcode = 0x0C then Instr.rdmaReadRequest p else if p.opcode = 0x81 then .cnp p us
       else if p.opcode ∈ [0x00, 0x01, 0x02, 0x04] then .roceSend p
       else if p.opcode ∈ [0x06, 0x07, 0x08, 0x0A] then .rdmaWrite p else .roceInvalidOpcode p
     let n := p.qp - 0x100
     (∀ c ∈ [Instr.roceSend p, .rdmaWrite p, .rdmaReadRequest p, .cnp p us, .roceInvalidOpcode p], c ≠ x → exec c s = .next s) ∧
     (p.eport < 2 → s.ethUp p.eport = false → exec x s = .next s) ∧
     (s.takes p.net 4791 → s.asleep = false → p.qp < 0x100 ∨ 0x500 ≤ p.qp ∨ s.qpFits n p = false →
       exec x s = .next (s.received p.net)) ∧
     (s.takes p.net 4791 → s.asleep = true → ∃ t, exec x s = .next t ∧ 
       t.roceHeld = s.roceHeld ++ [(if p.opcode = 0x81 then { p with cnpUs := us } else p, s.mrAdmits p)] ∧
       t.mem = s.mem ∧ t.qps = s.qps) ∧
     (s.takes p.net 4791 → s.asleep = false → 0x100 ≤ p.qp → p.qp < 0x500 → s.qpFits n p = true → p.opcode = 0x0A →
       p.ce = true → s.getO Obj.ROCE_CNP_INTERVAL_US ≤ p.cnpUs → ∀ hop mac, s.nextHop p.eport p.srcIp = some hop →
       SMap.get 0 (s.eth p.eport).neigh hop = mac → mac ≠ 0 → s.txPaused p.eport (s.getO Obj.ETH_ROCE_PRIO p.eport) = false →
       ∃ t f d l, exec x s = .next t ∧ t.out = s.out ++ .eth f :: l ∧ f.port = p.eport ∧ f.dst = mac ∧ f.body = .ip d ∧
         d.dst = p.srcIp ∧ d.load = .roce (s.qp n).rqpn 0x81 0 0 [] ∧
         (s.getO Obj.ETH_CNP_TX p.eport + 1 < 2 ^ 64 →
           t.getO Obj.ETH_CNP_TX p.eport = s.getO Obj.ETH_CNP_TX p.eport + 1)))

/-- HELLO and CONFIRM (R448). The slot taken, and a CONFIRM that fails, are the model's readings (assumption 74); the
ephemeral key is free (assumption 75). -/
def Obligations.SessionOpenResults : Prop :=
  (∀ (s : State) (x : Session) (n typ status seq hop mac : Nat) (body : List Byte), s.ethUp x.eport = true →
     s.nextHop x.eport x.ip = some hop → SMap.get 0 (s.eth x.eport).neigh hop = mac → mac ≠ 0 → s.txPaused x.eport 0 = false →
     let len := body.length
     let head := leBytes 2 0x4459 ++ leBytes 1 1 ++ leBytes 1 1 ++ leBytes 1 typ ++ leBytes 1 status ++ leBytes 2 len ++
       leBytes 4 (n + 16 * x.gen) ++ leBytes 4 seq
     let m := (head ++ body) ++ (hmacSm3 (x.key.drop 16) (head ++ body)).take 16
     let t := s.yAnswer x n typ status seq body
     t.out = s.out ++ [.eth { port := x.eport, dst := mac, src := s.macOf x.eport, vlan := s.getO Obj.ETH_VLAN_ID x.eport, prio := 0
                              body := .ip { src := x.lip, dst := x.ip, sport := s.udpPort, dport := x.uport
                                            dscp := s.getO Obj.ETH_YDP_DSCP x.eport, load := .ydp m } }] ∧
       t = { s with out := t.out, sessions := t.sessions, obj := t.obj, freeCtr := t.freeCtr } ∧
       ((s.session n).st ≠ 0 → t.session n = { s.session n with lastResp := m }) ∧
       ((s.session n).st = 0 → t.sessions = s.sessions) ∧ ∀ j, j ≠ n → t.session j = s.session j) ∧
  (∀ (s : State) (h : YHdr) (body : List Byte), s.served h.eport = true → s.takes h.net s.udpPort →
     let u := s.received h.net
     let sec := s.getO Obj.DEVICE_UPTIME_MS / 1000
     let sent := if s.helloSec.1 = sec then s.helloSec.2 else 0
     let v := { u with helloSec := (sec, sent + 1) }
     let k := ofBytes (body.take 1)
     let tells := fun (w : State) (status session : Nat) (b : List Byte) => exec (.hello h body) s = .next
       (w.ySend h.eport h.net.dstIp h.ip h.uport (yHead 1 (h.typ.getD 1) status b.length session h.seq ++ b))
     let n := sessionSlot h
     let x := s.session n
     let typ := h.typ.getD 2
     let counts := fun (o : ObjDef) => ∃ t, exec (.confirm h body) s = .next t ∧ t.sessions = s.sessions ∧ t.out = s.out ∧
       (s.getO o + 1 < 2 ^ 32 → t.getO o = s.getO o + 1)
     (32 ≤ sent → ∃ t, exec (.hello h body) s = .next t ∧ t.sessions = s.sessions ∧ t.out = s.out ∧
       (s.getO Obj.SESSION_HELLO_DROPPED + 1 < 2 ^ 32 →
         t.getO Obj.SESSION_HELLO_DROPPED = s.getO Obj.SESSION_HELLO_DROPPED + 1)) ∧
     (sent < 32 → helloOk h body = false → tells v 10 0 []) ∧
     (sent < 32 → helloOk h body = true → k ≥ 8 ∨ s.getO Obj.CLIENT_KEY_EN k = 0 → exec (.hello h body) s = .next v) ∧
     (∀ pa ra, sent < 32 → helloOk h body = true → k < 8 → s.getO Obj.CLIENT_KEY_EN k ≠ 0 →
       ptOf (SMap.get [] s.blob (Obj.CLIENT_KEY.key k)) = some pa → ptOf ((body.drop 4).take 64) = some ra →
       (s.freeSlot = none → tells v 8 0 []) ∧
       ∀ m, s.freeSlot = some m →
         let r := scalarOf (Config.randomScalar (16 * u.freeCtr))
         let za := sm2Z (body.drop 68) pa
         let zb := sm2Z s.idString s.idPub
         ∀ rb p, mulG r = some rb → sharedPoint s.idKey r rb pa ra = some p →
           let gen := ((s.session m).gen + 1) % 2 ^ 28
           tells (v.drew.setSession m
             { st := 1, gen := gen, keySlot := k, ip := h.ip, uport := h.uport, eport := h.eport, lip := h.net.dstIp
               key := kdf (ptBytes p ++ za ++ zb) 32, sa := confirmHash 3 p za zb ra rb
               seenMs := s.getO Obj.DEVICE_UPTIME_MS }) 0 (m + 16 * gen)
             (ptBytes rb ++ confirmHash 2 p za zb ra rb ++ leBytes 1 s.idString.length ++ s.idString)) ∧
     (s.sessionFits h 1 = true →
       (h.mac ≠ x.macOf h typ body → counts Obj.SESSION_BAD_MACS) ∧
       (h.mac = x.macOf h typ body → h.seq ≠ 1 → counts Obj.SESSION_SEQ_DISCARDS) ∧
       (h.mac = x.macOf h typ body → h.seq = 1 → h.plain = false ∨ body.length ≠ 32 →
         exec (.confirm h body) s = .next (u.yAnswer x n typ 10 1 [])) ∧
       (h.mac = x.macOf h typ body → h.seq = 1 → h.plain = true → body.length = 32 →
         (body ≠ x.sa → counts Obj.SESSION_AUTH_FAILS) ∧
         (body = x.sa →
           let y := { x with st := 2, lastSeq := 1, seenMs := s.getO Obj.DEVICE_UPTIME_MS }
           ∃ w : State, exec (.confirm h body) s = .next (w.yAnswer y n 2 0 1 []) ∧ w.session n = y ∧
             ∀ j, j ≠ n → w.session j = s.session j))))

/-- Ends of sessions (R448 to R450) and the owner lock (R467, R469). -/
def Obligations.SessionEndResults : Prop :=
  (∀ (s : State) (m : Nat) (h : YHdr) (src : Src), m < 16 →
     let x := s.session m
     let now := s.getO Obj.DEVICE_UPTIME_MS
     let u := s.taken (.ydp h)
     let n := sessionSlot h
     let z := s.session n
     let gone := fun (v t : State) (k : Nat) => t.session k = { gen := (v.session k).gen } ∧
       (∀ j, j ≠ k → t.session j = v.session j) ∧
       t.getO Obj.OWNER_LOCK_HOLDER = (if v.getO Obj.OWNER_LOCK_HOLDER = k then 0xFF else v.getO Obj.OWNER_LOCK_HOLDER)
     let free := fun (v : State) => ∀ p ∈ v.sems, p.2.st = 0 ∧ p.2.waits = []
     let counts := fun (o : ObjDef) => ∃ t, exec (.ping h) s = .next t ∧ t.sessions = s.sessions ∧ t.out = s.out ∧
       (s.getO o + 1 < 2 ^ 32 → t.getO o = s.getO o + 1)
     (x.st = 1 → x.seenMs + 2000 ≤ now → ∃ t, exec (.handshakeTimeout m) s = .next t ∧ t.session m = { gen := x.gen } ∧
       t = { s with sessions := t.sessions } ∧ ∀ j, j ≠ m → t.session j = s.session j) ∧
     (x.st ≠ 1 ∨ now < x.seenMs + 2000 → exec (.handshakeTimeout m) s = .next s) ∧
     (x.st = 2 → x.seenMs + 1000 * s.getO Obj.SESSION_IDLE_S ≤ now → free s →
       ∃ t, exec (.sessionExpiry m) s = .next t ∧ gone s t m ∧ t.mem = s.mem) ∧
     (x.st ≠ 2 ∨ now < x.seenMs + 1000 * s.getO Obj.SESSION_IDLE_S → exec (.sessionExpiry m) s = .next s) ∧
     (s.accepts (.ydp h) 10 [] → exec (.ping h) s = .next (u.answered s (.ydp h) 10 0 0 [])) ∧
     (s.accepts (.ydp h) 9 [] → free s → ∃ w : State, exec (.close h) s = .next (w.answered s (.ydp h) 9 0 0 []) ∧ gone u w n) ∧
     (s.served h.eport = true → s.takes h.net s.udpPort →
       (s.sessionFits h 2 = false → exec (.ping h) s = .next (s.received h.net)) ∧
       (s.sessionFits h 2 = true → h.typ = none → h.raw = none →
         (h.mac ≠ z.macOf h 10 [] → counts Obj.SESSION_BAD_MACS) ∧
         (h.mac = z.macOf h 10 [] → h.seq = z.lastSeq → exec (.ping h) s = .next
           ((s.received h.net).ySend z.eport z.lip z.ip z.uport z.lastResp)) ∧
         (h.mac = z.macOf h 10 [] → h.seq < z.lastSeq ∨ z.lastSeq + 1 < h.seq → counts Obj.SESSION_SEQ_DISCARDS))) ∧
     (s.acceptedWrite src Obj.SESSION_SEL_CLOSE 0 0 1 → free s →
       let v := s.taken src
       let k := v.getSel src.rq Obj.SESSION_SEL_SLOT
       (v.session k).st ≠ 0 →
       ∃ w : State, exec (.sessionSelClose src) s = .next (w.answered s src 4 0 0 []) ∧ gone v w k)) ∧
  (∀ (s : State) (h : YHdr) (idx sub offset total t : Nat) (val digest : List Byte), s.served h.eport = true →
     s.takes h.net s.udpPort → s.sessionFits h 2 = true →
     let n := sessionSlot h
     let x := s.session n
     let u := s.received h.net
     let v := u.setSession n { x with lastSeq := h.seq, seenMs := s.getO Obj.DEVICE_UPTIME_MS }
     let at' := leBytes 2 idx ++ leBytes 1 sub
     (∀ c typ body, (c, typ, body) ∈ [(Instr.read (.ydp h) idx sub, 3, at' ++ leBytes 1 0),
         (.write (.ydp h) idx sub t val, 4, at' ++ leBytes 1 t ++ val),
         (.segRead (.ydp h) idx sub offset, 5, at' ++ leBytes 1 0 ++ leBytes 4 offset),
         (.segWriteStart h idx sub total, 6, at' ++ leBytes 1 0 ++ leBytes 4 total),
         (.segWriteData h offset val, 7, leBytes 4 offset ++ val), (.segWriteEnd h digest, 8, digest), (.close h, 9, []),
         (.ping h, 10, [])] →
       let ty := h.typ.getD typ
       let b := h.raw.getD body
       h.mac = x.macOf h ty b → h.seq = x.lastSeq + 1 → h.seq < 2 ^ 32 → h.plain = false ∨ yBodyOk ty b = false →
         exec c s = .next (v.yAnswer x n ty 10 h.seq [])) ∧
     (h.mac = x.macOf h (h.typ.getD 2) (h.raw.getD digest) → h.seq = x.lastSeq + 1 → h.seq < 2 ^ 32 →
       exec (.confirm h digest) s = .next (v.yAnswer x n (h.typ.getD 2) 10 h.seq [])) ∧
     (∀ b : List Byte, (yBodyOk 7 b = true ↔ 5 ≤ b.length ∧ b.length ≤ 1028) ∧ (yBodyOk 8 b = true ↔ b.length = 32) ∧
       (yBodyOk 9 b = true ↔ b = []) ∧ (yBodyOk 10 b = true ↔ b = []) ∧
       ∀ k, (10 < k → yBodyOk k b = false) ∧
         (k = 5 ∨ k = 6 → (yBodyOk k b = true ↔ b.length = 8 ∧ b.getD 3 0 = 0)) ∧
         (k = 3 → (yBodyOk k b = true ↔ b.length = 4 ∧ b.getD 3 0 = 0)))) ∧
  (∀ (s : State) (src : Src),
     let u := s.taken src
     let rq := src.rq
     let slot := (u.session rq).keySlot
     let holder := u.getO Obj.OWNER_LOCK_HOLDER
     let allowed := rq < 16 ∧ bit (u.getO Obj.OWNER_KEY_MASK) slot = true
     let replies := fun (c : Instr) (status : Nat) (P : State → Prop) =>
       ∃ w : State, exec c s = .next (w.answered s src 4 status 0 []) ∧ P w
     let refused := fun (w : State) => w.getO Obj.OWNER_LOCK_HOLDER = holder ∧ w.dev = u.dev ∧
       (u.getO Obj.OWNER_LOCK_REFUSALS + 1 < 2 ^ 32 → w.getO Obj.OWNER_LOCK_REFUSALS = u.getO Obj.OWNER_LOCK_REFUSALS + 1)
     (s.acceptedWrite src Obj.OWNER_LOCK_TAKE 0 0 1 →
       (¬allowed → replies (.ownerLockTake src) 2 refused) ∧
       (allowed → holder = rq → replies (.ownerLockTake src) 0 fun w => w = u) ∧
       (allowed → holder ≠ rq → holder ≠ 0xFF → replies (.ownerLockTake src) 8 refused) ∧
       (allowed → holder = 0xFF → replies (.ownerLockTake src) 0 fun w => w.getO Obj.OWNER_LOCK_HOLDER = rq ∧
         w.getO Obj.OWNER_LOCK_KEY_SLOT = slot ∧ w.getO Obj.OWNER_LOCK_SINCE_MS = u.getO Obj.DEVICE_UPTIME_MS ∧
         (u.dev = 3 → w.dev = 5) ∧ (u.dev ≠ 3 → w.dev = u.dev))) ∧
     (s.acceptedWrite src Obj.OWNER_LOCK_TAKE 0 0 2 →
       (holder = rq → replies (.ownerLockRelease src) 0 fun w => w.getO Obj.OWNER_LOCK_HOLDER = 0xFF ∧
         w.getO Obj.OWNER_LOCK_KEY_SLOT = 0xFF ∧ w.getO Obj.OWNER_LOCK_SINCE_MS = 0 ∧ w.dev = u.dev) ∧
       (holder ≠ rq → replies (.ownerLockRelease src) 2 fun w => w = u)))

/-- READ and SEG_READ (R10, R453, R459, R461). -/
def Obligations.DictionaryReadResults : Prop :=
  ∀ (s : State) (src : Src) (idx sub offset : Nat),
    let u := s.taken src
    let rq := src.rq
    let r := u.readReq rq idx sub
    let g := u.segPart rq idx sub offset
    let own := ownedIndex idx = true
    (s.accepts src 3 (leBytes 2 idx ++ leBytes 1 sub ++ leBytes 1 0) →
      exec (.read src idx sub) s = .next (r.1.answered s src 3 r.2.1 (ofBytes r.2.2.2)
        (if r.2.1 = 0 then leBytes 1 r.2.2.1 ++ leBytes 3 0 ++ r.2.2.2 else [])) ∧
      (¬own → r = (u, 1, 0, [])) ∧
      (own → findObj idx sub = none → r = (u, 0, 2, [0])) ∧
      ∀ o i j, own → findObj idx sub = some (o, i, j) →
        (o.ty = .blob → r = (u, 6, 0, [])) ∧
        (o.ty = .str → r = (u, 0, OTy.str.code, (u.blobOf rq o i).take 1024)) ∧
        (o.ty ≠ .blob → o.ty ≠ .str → o.acc = .wo → r = (u, 2, 0, [])) ∧
        (o.ty ≠ .blob → o.ty ≠ .str → o.acc ≠ .wo → r.2.1 = 0 ∧ r.2.2.1 = o.ty.code ∧ r.2.2.2.length = o.ty.bytes ∧
          (selObjs.contains o = true → ofBytes r.2.2.2 = u.getSel rq o % 2 ^ (8 * o.ty.bytes)))) ∧
    (s.accepts src 5 (leBytes 2 idx ++ leBytes 1 sub ++ leBytes 1 0 ++ leBytes 4 offset) →
      exec (.segRead src idx sub offset) s = .next (g.1.answered s src 5 g.2.1 (ofBytes g.2.2.2)
        (if g.2.1 = 0 then leBytes 4 g.2.2.1 ++ g.2.2.2 else [])) ∧
      g.1 = u ∧
      (¬own → g.2.1 = 1) ∧
      (own → findObj idx sub = none → g.2.1 = 6) ∧
      ∀ o i j, own → findObj idx sub = some (o, i, j) →
        (o.ty ≠ .blob → o.ty ≠ .str → g.2.1 = 6) ∧
        (o.ty = .blob → o ≠ Obj.ATTEST_REPORT →
          g.2 = (0, (u.blobOf rq o i).length, ((u.blobOf rq o i).drop offset).take 1024)))

/-- The checks of a write in the order of R462, and plain values. -/
def Obligations.DictionaryWriteResults : Prop :=
  ∀ (s : State) (src : Src) (idx sub t : Nat) (val : List Byte), val.length ≤ 1180 →
    s.accepts src 4 (leBytes 2 idx ++ leBytes 1 sub ++ leBytes 1 t ++ val) →
    let u := s.taken src
    let v := ofBytes val
    let answers := fun (w : State) (status : Nat) => exec (.write src idx sub t val) s = .next (w.answered s src 4 status 0 [])
    (ownedIndex idx = false → answers u 1) ∧
    (ownedIndex idx = true → findObj idx sub = none → answers u (if stateRange u.dev idx = false then 3 else if v = 0 then 0 else 7)) ∧
    ∀ o i j, ownedIndex idx = true → findObj idx sub = some (o, i, j) →
      let typed := o.ty ≠ .blob ∧ t = o.ty.code ∧ (if o.ty = .str then val.length ≤ 1024 else val.length = o.ty.bytes)
      let mine := needsLock o = true → u.owns src = true
      let acts := ¬(v = 0 ∧ zeroIdle o = true)
      let admits := u.stateAdmits src.load o idx = true ∧ u.ringLocked src.rq o = false
      (¬typed → answers u 6) ∧
      (typed → o.acc = .ro → answers u 2) ∧
      (typed → o.acc ≠ .ro → ¬mine → answers u 4) ∧
      (typed → o.acc ≠ .ro → mine → ¬acts → answers u 0) ∧
      (typed → o.acc ≠ .ro → mine → acts → ¬admits → answers u 3) ∧
      (∀ w, typed → o.acc ≠ .ro → mine → acts → admits → u.stateRule o = some w → answers w 3) ∧
      (typed → o.acc ≠ .ro → mine → acts → admits → u.stateRule o = none →
        (v &&& o.resv ≠ 0 → answers u 7) ∧
        (v &&& o.resv = 0 → u.valueOk src.rq o i j v = false → answers u 5) ∧
        (v &&& o.resv = 0 → u.valueOk src.rq o i j v = true →
        (∃ w st, answers w st) ∧
        (u.command src.rq o i v = none → o ≠ Obj.CLK_CORE_SRC → o.index ≠ 0x3241 → o.index ≠ 0x4321 → o.index ≠ 0x4331 →
          (selObjs.contains o = false → o.index < 0x2000 ∨ 0x2030 ≤ o.index → o ≠ Obj.PORT_ENABLE → o ≠ Obj.ETH_MODE →
            o ≠ Obj.EPOCH_BEATS → ∃ w : State, answers w 0 ∧ w.getO o i j = v ∧ w.mem = u.mem ∧ w.ops = u.ops) ∧
          (selObjs.contains o = true → ∃ w : State, answers w 0 ∧ w.getSel src.rq o = v ∧ w.obj = u.obj ∧ w.mem = u.mem))))

/-- Segmented writes of BLOB objects (R453, R455, R522, R527). What a failed END leaves is the model's reading (assumption
77). -/
def Obligations.SegmentedWriteResults : Prop :=
  ∀ (s : State) (h : YHdr) (idx sub total offset : Nat) (data digest : List Byte),
    let u := s.taken (.ydp h)
    let n := sessionSlot h
    let answers := fun (c : Instr) (w : State) (typ status : Nat) => exec c s = .next (w.answered s (.ydp h) typ status 0 [])
    let at' := fun (w : State) (g : Option SegW) => (w.session n).seg = g ∧ ∀ k, k ≠ n → w.session k = u.session k
    (s.accepts (.ydp h) 6 (leBytes 2 idx ++ leBytes 1 sub ++ leBytes 1 0 ++ leBytes 4 total) →
      let start := Instr.segWriteStart h idx sub total
      let u0 := u.setSeg n none
      (∀ st, u0.segTarget n idx sub = .error st → ∃ w : State, answers start w 6 st ∧ at' w none) ∧
      ∀ o i, u0.segTarget n idx sub = .ok (o, i) → o ≠ Obj.FW_UPDATE_IMAGE ∨ u0.fwRefusal = none →
        (blobLimit o < total → ∃ w : State, answers start w 6 5 ∧ at' w none) ∧
        (total ≤ blobLimit o → u0.segRivals n idx sub = [] →
          ∃ w : State, answers start w 6 0 ∧ at' w (some { idx := idx, sub := sub, total := total })) ∧
        (total ≤ blobLimit o → u0.segRivals n idx sub ≠ [] →
          ∃ w : State, answers start w 6 8 ∧ (w.session n).seg = none ∧
            ∀ k, k ∈ u0.segRivals n idx sub → (w.session k).seg = none)) ∧
    (s.accepts (.ydp h) 7 (leBytes 4 offset ++ data) →
      let part := Instr.segWriteData h offset data
      ((u.session n).seg = none → answers part u 7 9) ∧
      ∀ g, (u.session n).seg = some g →
        (offset = g.data.length → offset + data.length ≤ g.total →
          ∃ w : State, answers part w 7 0 ∧ at' w (some { g with data := g.data ++ data })) ∧
        (offset ≠ g.data.length ∨ g.total < offset + data.length → answers part u 7 9)) ∧
    (s.accepts (.ydp h) 8 digest →
      ∀ c ∈ [Instr.segWriteEnd h digest, .attestNonce h digest, .fwUpdateImage h digest],
      ∀ g, (u.session n).seg = some g →
        (c = .attestNonce h digest → g.idx = Obj.ATTEST_NONCE.index ∧ g.sub = Obj.ATTEST_NONCE.sub) →
        (c = .fwUpdateImage h digest → g.idx = Obj.FW_UPDATE_IMAGE.index ∧ g.sub = Obj.FW_UPDATE_IMAGE.sub) →
        let whole := g.data.length = g.total ∧ sm3 g.data = digest
        let u0 := u.setSeg n none
        (¬whole → answers c u 8 9) ∧
        (whole → ∀ st, u0.segTarget n g.idx g.sub = .error st → ∃ w : State, answers c w 8 st ∧ at' w none) ∧
        (whole → ∀ o i, u0.segTarget n g.idx g.sub = .ok (o, i) →
          (o = Obj.CLIENT_KEY → clientKeyOk g.data = true →
            ∃ w : State, answers c w 8 0 ∧ at' w none ∧ SMap.get [] w.blob (Obj.CLIENT_KEY.key i) = g.data) ∧
          (o = Obj.CLIENT_KEY → clientKeyOk g.data = false →
            ∃ w : State, answers c w 8 5 ∧ at' w none ∧ w.blob = u.blob) ∧
          (o = Obj.ATTEST_NONCE → g.data.length = 32 → ∃ w : State, answers c w 8 0 ∧ at' w none ∧ n ∈ w.attestRun ∧
            w.getSelBlob n Obj.ATTEST_NONCE = g.data) ∧
          (o = Obj.ATTEST_NONCE → g.data.length ≠ 32 → ∃ w : State, answers c w 8 5 ∧ at' w none ∧ w.attestRun = u.attestRun) ∧
          (o = Obj.FW_UPDATE_IMAGE → u0.fwRefusal = none →
            let k := headKind (imageHead g.data)
            (1 ≤ k → k ≤ 3 → g.data.length ≤ slotSize (k - 1) →
              ∃ w : State, answers c w 8 0 ∧ at' w none ∧ w.fwStage = some (k - 1, g.data) ∧
                w.getO Obj.FW_UPDATE_STATUS = 1 ∧ w.flash.image (k - 1) (u.flash.slot (k - 1)).other = []) ∧
            (k = 0 ∨ 3 < k ∨ slotSize (k - 1) < g.data.length →
              ∃ w : State, answers c w 8 5 ∧ at' w none ∧ w.fwStage = u.fwStage)) ∧
          (o = Obj.FW_UPDATE_IMAGE → ∀ st code, u0.fwRefusal = some (st, code) →
            ∃ w : State, answers c w 8 st ∧ at' w none ∧ w.fwStage = u.fwStage)))

/-- Writes of single objects with effects of their own (R68, R102, R203, R264, R275, R365, R479, R494). The outcomes of
self-tests are operands (assumption 92). -/
def Obligations.ConfigurationWrites : Prop :=
  (∀ (s : State) (src : Src) (v : Nat),
     let u := s.taken src
     let rq := src.rq
     let writes := fun (x : Instr) (status : Nat) (P : State → Prop) =>
       ∃ w : State, exec x s = .next (w.answered s src 4 status 0 []) ∧ P w
     let inputs := [(1, Obj.WINNOW_PROBE_SEED), (2, Obj.WINNOW_PROBE_STEP), (3, Obj.WINNOW_PROBE_TID),
       (4, Obj.WINNOW_PROBE_PURPOSE), (5, Obj.WINNOW_PROBE_INDEX), (6, Obj.WINNOW_PROBE_DRAW)]
     let members := [(1, Obj.QUEUE_CFG_BASE), (2, Obj.QUEUE_CFG_LOG2_SIZE), (3, Obj.QUEUE_CFG_BINDING),
       (4, Obj.QUEUE_CFG_TARGET), (5, Obj.QUEUE_CFG_NOTIFY_SEM)]
     (∀ m o, (m, o) ∈ inputs → s.acceptedWrite src o 0 0 v → writes (.winnowProbe src m v) 0 fun w =>
       let g := fun p => if p = o then v else u.getSel rq p
       let q := winnowBlock (g Obj.WINNOW_PROBE_SEED) (g Obj.WINNOW_PROBE_STEP) (g Obj.WINNOW_PROBE_TID)
         (g Obj.WINNOW_PROBE_PURPOSE) (g Obj.WINNOW_PROBE_INDEX) (g Obj.WINNOW_PROBE_DRAW)
       w.getSel rq o = v ∧ w.getSel rq Obj.WINNOW_PROBE_BLOCK_LO = q.a + q.b * 2 ^ 32 ∧
         w.getSel rq Obj.WINNOW_PROBE_BLOCK_HI = q.c + q.d * 2 ^ 32 ∧
         w.getSel rq Obj.WINNOW_PROBE_DRAW_VALUE = q.a / 65536 % 65536 ∧ w = { u with sel := w.sel } ∧
         ∀ k p, k ≠ rq → k < 20 → p ∈ selObjs → w.getSel k p = u.getSel k p) ∧
     (s.acceptedWrite src Obj.SHUF_PROBE_POS 0 0 v → writes (.shufProbe src v) 0 fun w =>
       let r := shuffle (u.getSel rq Obj.SHUF_PROBE_SAMPLES) (u.getSel rq Obj.SHUF_PROBE_SEED)
         (u.getSel rq Obj.SHUF_PROBE_EPOCH) v
       w.getSel rq Obj.SHUF_PROBE_POS = v ∧ w.getSel rq Obj.SHUF_PROBE_SAMPLE = r.1 ∧
         w.getSel rq Obj.SHUF_PROBE_WALK = r.2 ∧ w = { u with sel := w.sel }) ∧
     (s.acceptedWrite src Obj.SHUF_SAMPLES 0 0 v → writes (.shufSamplesWrite src v) 0 fun w =>
       w.getO Obj.SHUF_SAMPLES = v ∧ w = { u with obj := w.obj } ∧
         ∀ p k l, p.key k l ≠ Obj.SHUF_SAMPLES.key → w.getO p k l = u.getO p k l) ∧
     ∀ m o, (m, o) ∈ members → s.acceptedWrite src o 0 0 v →
       let q := u.getSel rq Obj.QUEUE_SEL_NUMBER
       let r := u.ring q
       let n : Ring := { r with
         base := if m = 1 then v else r.base, log2 := if m = 2 then v else r.log2, binding := if m = 3 then v else r.binding,
         target := if m = 4 then v else r.target, notify := if m = 5 then v else r.notify, p := 0, c := 0, stopped := false }
       let bad := lpEnd < n.base + 64 * 2 ^ n.log2 ∨ (m = 5 ∧ 4096 ≤ v ∧ v ≤ 0xFFFE) ∨
         targetOk n.binding n.target = false ∨
         (3 ≤ n.binding ∧ ∃ p ∈ u.rings, p.1 ≠ q ∧ p.2.binding = n.binding ∧ p.2.target = n.target) ∨
         (n.binding = 2 ∧ 4 ≤ (u.rings.filter fun p => decide (p.1 ≠ q ∧ p.2.binding = 2 ∧ p.2.target / 4 = n.target / 4)).length)
       (¬bad → writes (.queueCfgWrite src m v) 0 fun w =>
         w.ring q = n ∧ (∀ k, k ≠ q → w.ring k = u.ring k) ∧ w = { u with rings := w.rings }) ∧
       (bad → writes (.queueCfgWrite src m v) 5 fun w => w = u)) ∧
  (∀ (s : State) (src : Src) (v n : Nat),
     let u := s.taken src
     let writes := fun (x : Instr) (o : ObjDef) (i j k status : Nat) (P : State → Prop) =>
       s.acceptedWrite src o i j k → ∃ w : State, exec x s = .next (w.answered s src 4 status 0 []) ∧ P w
     let pages := u.getO Obj.CRIB_POOL_PAGES
     let data := u.getO Obj.CRIB_META_BASE
     let word := fun (w : State) (a : Nat) => ofBytes (w.peek a 4)
     (u.getO Obj.CRIB_POOL_STATE = 0 → pages ≠ 0 → pages < 2 ^ 32 → u.chk = [] →
       writes (.cribPoolInit src) Obj.CRIB_POOL_INIT 0 0 1 0 fun w =>
         w.getO Obj.CRIB_POOL_STATE = 1 ∧ w.getO Obj.CRIB_PAGES_FREE = pages ∧ w.getO Obj.CRIB_PAGES_PENDING = 0 ∧
           w.getO Obj.CRIB_NEXT_FENCE = 0 ∧ w.ringHead = 0 ∧ w.fences = [] ∧
           (∀ p, p < pages → word w (data + 4 * p) = 0) ∧
           (∀ k, k < pages → word w (data + 4 * pages + 4 * k) = pages - 1 - k) ∧
           ∀ y, y < data ∨ data + 8 * pages ≤ y → w.byte y = u.byte y) ∧
     (u.getO Obj.CRIB_POOL_STATE ≠ 0 ∨ pages = 0 →
       writes (.cribPoolInit src) Obj.CRIB_POOL_INIT 0 0 1 5 fun w => w = u) ∧
     (u.fences = [] → writes (.cribPoolRelease src) Obj.CRIB_POOL_INIT 0 0 2 0 fun w =>
       w.getO Obj.CRIB_POOL_STATE = 0 ∧ w = { u with obj := w.obj }) ∧
     (u.fences ≠ [] → writes (.cribPoolRelease src) Obj.CRIB_POOL_INIT 0 0 2 5 fun w => w = u) ∧
     (u.getO Obj.MATRIX_SELFTEST_STATE ≠ 1 → writes (.matrixSelftestRun src) Obj.MATRIX_SELFTEST_RUN 0 0 1 0 fun w =>
       w.getO Obj.MATRIX_SELFTEST_STATE = 1 ∧ w = { u with obj := w.obj }) ∧
     (u.getO Obj.MATRIX_SELFTEST_STATE = 1 →
       writes (.matrixSelftestRun src) Obj.MATRIX_SELFTEST_RUN 0 0 1 8 fun w => w = u) ∧
     (u.getO Obj.REDUCE_RESIDUE_TEST_STATE ≠ 1 → writes (.reduceResidueTest src) Obj.REDUCE_RESIDUE_TEST 0 0 1 0 fun w =>
       w.getO Obj.REDUCE_RESIDUE_TEST_STATE = 1 ∧ w = { u with obj := w.obj }) ∧
     (u.getO Obj.REDUCE_RESIDUE_TEST_STATE = 1 →
       writes (.reduceResidueTest src) Obj.REDUCE_RESIDUE_TEST 0 0 1 8 fun w => w = u) ∧
     (n < 800 → writes (.coreExclude src n v) Obj.CORE_EXCLUDE n 0 v 0 fun w =>
       w.getO Obj.CORE_EXCLUDE n = v ∧ w = { u with obj := w.obj } ∧
         ∀ k, k < 800 → k ≠ n → w.getO Obj.CORE_EXCLUDE k = u.getO Obj.CORE_EXCLUDE k) ∧
     (n < 2 →
       let ready := (v = 0 ∧ u.getO Obj.PLL_STATE 0 n = 2) ∨ (v = 1 ∧ u.getO Obj.REFCLK_PRESENT = 1)
       (ready → writes (.clkCoreSrc src n v) Obj.CLK_CORE_SRC 0 n v 0 fun w =>
         w.getO Obj.CLK_CORE_SRC 0 n = v ∧ w = { u with obj := w.obj } ∧
           w.getO Obj.CLK_CORE_MULT_NOW 0 n =
             (if u.getO Obj.CLK_CORE_SRC 0 n = 1 ∧ v = 0 then 4 else u.getO Obj.CLK_CORE_MULT_NOW 0 n)) ∧
       (¬ready → writes (.clkCoreSrc src n v) Obj.CLK_CORE_SRC 0 n v 5 fun w =>
         w.getO Obj.CLK_CORE_SRC 0 n = u.getO Obj.CLK_CORE_SRC 0 n ∧
           (u.getO Obj.CLK_SWITCH_REFUSALS + 1 < 2 ^ 32 →
             w.getO Obj.CLK_SWITCH_REFUSALS = u.getO Obj.CLK_SWITCH_REFUSALS + 1)))) ∧
  ((∀ (s : State) (failing : List Nat), s.getO Obj.MATRIX_SELFTEST_STATE = 1 →
     let bad := (List.range 800).filter fun c => decide (c ∈ failing)
     ∃ t, exec (.matrixSelftestComplete failing) s = .next t ∧
       t.getO Obj.MATRIX_SELFTEST_STATE = (if bad = [] then 2 else 3) ∧ t.getO Obj.MATRIX_SELFTEST_FAILS = bad.length ∧
       t.getO Obj.MATRIX_SELFTEST_FIRST_CORE = bad.headD 0xFFFF ∧
       (∀ c, c < 800 → t.getO Obj.CORE_SELFTEST c = if c ∈ failing then 2 else 1) ∧
       (bad = [] → t = { s with obj := t.obj }) ∧
       ∀ c, bad = [c] → s.onePost → s.posted { reason := 0x0108, source := c, d0 := c } t) ∧
   (∀ (s : State) (failing : List Nat), s.getO Obj.MATRIX_SELFTEST_STATE ≠ 1 →
     exec (.matrixSelftestComplete failing) s = .next s) ∧
   (∀ (s : State) (m : Nat), s.getO Obj.REDUCE_RESIDUE_TEST_STATE = 1 → m < 2 ^ 16 →
     ∃ t, exec (.residueTestComplete m) s = .next t ∧ t.getO Obj.REDUCE_RESIDUE_TEST_FIRST = m ∧
       (m = 0xFFFF → t.getO Obj.REDUCE_RESIDUE_TEST_STATE = 2 ∧ t = { s with obj := t.obj }) ∧
       (m ≠ 0xFFFF → t.getO Obj.REDUCE_RESIDUE_TEST_STATE = 3 ∧ (s.onePost → s.posted { reason := 0x0502, d0 := m } t))) ∧
   ∀ (s : State) (m : Nat), s.getO Obj.REDUCE_RESIDUE_TEST_STATE ≠ 1 → exec (.residueTestComplete m) s = .next s)

/-- Low-power states (R499 to R501). P0 during entry, and the STATUS of refusals, are the model's readings (assumptions
85, 72). -/
def Obligations.LowPowerResults : Prop :=
  (∀ (s : State) (src : Src),
     let u := s.taken src
     let st := u.getO Obj.LP_STATE
     let writes := fun (x : Instr) (v status : Nat) (P : State → Prop) =>
       s.acceptedWrite src Obj.LP_REQUEST 0 0 v → ∃ w : State, exec x s = .next (w.answered s src 4 status 0 []) ∧ P w
     let turned := fun (x : Instr) (v code status : Nat) =>
       writes x v status fun w => w.getO Obj.LP_STATUS = code ∧ w.getO Obj.LP_STATE = st ∧ w = { u with obj := w.obj }
     let asks := fun (x : Instr) (v : Nat) =>
       let rest := u.dev = 3 ∨ u.dev = 5
       let busy := u.ops ≠ [] ∨ (∃ p ∈ u.ctxs, p.2.st ≠ .free) ∨ ∃ p ∈ u.sems, p.2.st = 1 ∧ p.2.owner / 2 ^ 44 = 1
       let leads := v = 2 ∧ u.isMaster = true ∧ u.anyPortUp = true
       let changes := u.changing = true
       (¬(rest ∧ st = 0) → turned x v 1 3) ∧
       (rest → st = 0 → busy → turned x v 2 5) ∧
       (rest → st = 0 → ¬busy → leads → turned x v 3 5) ∧
       (rest → st = 0 → ¬busy → ¬leads → changes → turned x v 4 5) ∧
       (rest → st = 0 → ¬busy → ¬leads → ¬changes → writes x v 0 fun w => w.getO Obj.LP_STATE = v ∧
         w.getO Obj.LP_REQUEST = v ∧ w.getO Obj.LP_STATUS = 0 ∧ (v = 2 → w.fallowStep = 0) ∧ w.dev = u.dev)
     asks (.p1Request src) 1 ∧ asks (.fallowRequest src) 2 ∧
     (st = 1 → writes (.p0Request src) 0 0 fun w => w.getO Obj.LP_STATE = 0 ∧ w.getO Obj.LP_REQUEST = 0 ∧
       w.getO Obj.LP_STATUS = 0 ∧ w.getO Obj.CLK_CORE_MULT_NOW 0 0 = 4 ∧ w.getO Obj.CLK_CORE_MULT_NOW 0 1 = 4) ∧
     (st = 2 → turned (.p0Request src) 0 1 3) ∧
     (st = 3 → writes (.p0Request src) 0 0 fun w => w.getO Obj.LP_STATE = 4 ∧ w.getO Obj.LP_STATUS = 0 ∧ w.fallowStep = 0) ∧
     (st = 0 → turned (.p0Request src) 0 0 0)) ∧
  (∀ (s : State),
     let st := s.getO Obj.LP_STATE
     let woken := s.dev = 4 ∨ s.alm.start.isSome = true ∨
       ∃ p ∈ s.rings, (p.2.binding = 2 ∨ p.2.binding = 3) ∧ p.2.p ≠ p.2.c
     let rest := s.dev = 3 ∨ s.dev = 5
     let enters := fun (n : Nat) (P : State → Prop) => st = 2 → rest → s.fallowStep = n →
       ∃ t, exec .fallowEntryStep s = .next t ∧ t.dev = s.dev ∧ t.getO Obj.LP_STATE = 2 ∧ t.fallowStep = n + 1 ∧ P t
     (st = 1 → woken → ∃ t, exec .p1Exit s = .next t ∧ t.getO Obj.LP_STATE = 0 ∧ t.getO Obj.LP_REQUEST = 0 ∧
       t.getO Obj.CLK_CORE_MULT_NOW 0 0 = 4 ∧ t.getO Obj.CLK_CORE_MULT_NOW 0 1 = 4 ∧
       (s.getO Obj.P1_EXITS + 1 < 2 ^ 32 → t.getO Obj.P1_EXITS = s.getO Obj.P1_EXITS + 1)) ∧
     (¬(st = 1 ∧ woken) → exec .p1Exit s = .next s) ∧
     (st ≠ 2 → exec .fallowEntryStep s = .next s) ∧
     (st = 2 → ¬rest → ∃ t, exec .fallowEntryStep s = .next t ∧ t.getO Obj.LP_STATE = 0 ∧ t.getO Obj.LP_REQUEST = 0 ∧
       t.fallowStep = 0 ∧ t = { s with obj := t.obj, fallowStep := 0 }) ∧
     enters 0 (fun t => t = { s with fallowStep := 1 }) ∧
     (s.ops = [] → enters 1 fun t => (∀ p, p < 8 → t.portState p = 0) ∧ t.mem = s.mem) ∧
     enters 2 (fun t => t.getO Obj.ALMANAC_STATE = 0 ∧ t.alm.heard = false ∧ t.mem = s.mem) ∧
     enters 3 (fun t => (∀ j, 3 ≤ j → j < 39 → t.getO Obj.PLL_STATE 0 j = 0) ∧ t.mem = s.mem) ∧
     (st = 2 → rest → s.fallowStep = 4 → ∃ t, exec .fallowEntryStep s = .next t ∧ t.dev = 6 ∧
       t.getO Obj.LP_STATE = 3 ∧ t.getO Obj.DEVICE_FALLOW_FROM = s.dev ∧ t.fallowStep = 0 ∧ t.ctxs = [] ∧ t.vreg = [] ∧
       t.tables = [] ∧ (∀ a, a < lpEnd → t.byte a = s.byte a) ∧ ∀ a, lpEnd ≤ a → t.byte a = 0) ∧
     (∀ ok ms, st ≠ 4 ∨ s.dev = 7 → exec (.fallowExitStep ok ms) s = .next s) ∧
     (∀ ms, st = 4 → s.dev ≠ 7 → s.fallowStep = 0 →
       (s.roceHeld = [] → ∃ t, exec (.fallowExitStep true ms) s = .next t ∧
         t.fallowStep = 1 ∧ t.getO Obj.LP_STATE = 4 ∧ t.dev = s.dev ∧ t.mem = s.mem) ∧
       (s.onePost → ∃ t, exec (.fallowExitStep false ms) s = .next t ∧ t.getO Obj.MEM_TRAIN_STATE = 3 ∧
         t.getO Obj.MEM_TRAIN_FAIL_CHANNEL = ms % 128 ∧ s.posted { reason := 0x0206, d0 := ms % 128 } t)) ∧
     (∀ ok ms, st = 4 → s.dev ≠ 7 → s.fallowStep = 1 → (∀ p, p < 8 → s.portState p = 0) →
       ∃ t, exec (.fallowExitStep ok ms) s = .next t ∧
       t.fallowStep = 2 ∧ t.dev = s.getO Obj.DEVICE_FALLOW_FROM ∧ t.getO Obj.FALLOW_EXIT_MS = ms % 2 ^ 32 ∧
       t.getO Obj.DEVICE_FALLOW_FROM = 0) ∧
     (∀ ok ms, st = 4 → s.dev ≠ 7 → s.fallowStep = 2 →
       let settled := (∀ p, p < 8 → s.portState p ≠ 1 ∧ s.portState p ≠ 2) ∨ s.getO Obj.LINK_TRAIN_TIMEOUT_MS ≤ ms
       (settled → ∃ t, exec (.fallowExitStep ok ms) s = .next t ∧ t.getO Obj.LP_STATE = 0 ∧ t.getO Obj.LP_REQUEST = 0 ∧
         t.fallowStep = 0 ∧ t = { s with obj := t.obj, fallowStep := 0 }) ∧
       (¬settled → exec (.fallowExitStep ok ms) s = .next s)))

/-- The configuration store (R473 to R476, R518), firmware images (R527 to R531) and attestation (R522, R523). The version
to which the fuses go is the model's reading (assumption 87). -/
def Obligations.StoreAndFirmwareResults : Prop :=
  ((∀ (s : State) (src : Src),
     let u := s.taken src
     let writes := fun (x : Instr) (v status : Nat) (P : State → Prop) =>
       s.acceptedWrite src Obj.STORE_CMD 0 0 v → ∃ w : State, exec x s = .next (w.answered s src 4 status 0 []) ∧ P w
     let busy := u.getO Obj.STORE_STATUS = 1
     let rows := [(Instr.store src, 1), (.restore src, 2), (.defaults src, 3)]
     (busy → ∀ x v, (x, v) ∈ rows → writes x v 8 fun w => w = u) ∧
     (¬busy → writes (.store src) 1 0 fun w => w.getO Obj.STORE_STATUS = 1 ∧
       w.storeRun = some (u.buildCopy (u.getO Obj.STORE_GENERATION + 1)) ∧ w.flash.copy u.freeCopy = [] ∧
       w.flash.copy (1 - u.freeCopy) = u.flash.copy (1 - u.freeCopy) ∧ w.storeSlot = u.storeSlot) ∧
     (¬busy → u.storeSlot = none → writes (.restore src) 2 5 fun w =>
       w.getO Obj.STORE_STATUS = 4 ∧ w = { u with obj := w.obj }) ∧
     (¬busy → u.storeSlot ≠ none → writes (.restore src) 2 0 fun w =>
       let t := (u.loadC u.storedC true).1
       w.getO Obj.STORE_STATUS = 2 ∧ (∀ o i j, (o, i, j) ∈ classC → w.getO o i j = t.getO o i j) ∧ w.flash = u.flash ∧
         ∀ o i j, (o, i, j) ∈ classC → entryFor u.storedC (o.key i j) = none → w.getO o i j = o.dflt) ∧
     (¬busy → writes (.defaults src) 3 0 fun w => w.getO Obj.STORE_STATUS = 2 ∧ w.flash = u.flash ∧
       (∀ k, k < 8 → SMap.get [] w.blob (Obj.CLIENT_KEY.key k) = SMap.get [] u.blob (Obj.CLIENT_KEY.key k)) ∧
       ∀ o i j, (o, i, j) ∈ classC → w.getO o i j = (if keptByDefaults o then u.getO o i j else o.dflt))) ∧
   ∀ (s : State),
     (∀ ok sig, s.storeRun = none → exec (.storeComplete ok sig) s = .next s) ∧
     ∀ bs, s.storeRun = some bs →
       (∃ t, exec (.storeComplete true true) s = .next t ∧ t.getO Obj.STORE_STATUS = 2 ∧ t.storeRun = none ∧
         t.storeSlot = some s.freeCopy ∧ t.flash.copy s.freeCopy = bs ∧
         t.flash.copy (1 - s.freeCopy) = s.flash.copy (1 - s.freeCopy)) ∧
       ∀ ok sig, ok = false ∨ sig = false → s.onePost →
         let code := if ok then 4 else 3
         ∃ t, exec (.storeComplete ok sig) s = .next t ∧ t.getO Obj.STORE_STATUS = code ∧ t.storeRun = none ∧
           t.storeSlot = s.storeSlot ∧ t.flash.copy (1 - s.freeCopy) = s.flash.copy (1 - s.freeCopy) ∧
           s.posted { reason := 0x0A03, d0 := code } t) ∧
  ((∀ (s : State) (src : Src) (k : Nat), k < 3 →
     let u := s.taken src
     let r := u.flash.slot k
     let img := u.flash.image k r.other
     let heads := [0, 1, 2].map fun j => imageHead (u.flash.image j (if j = k then r.other else (u.flash.slot j).active))
     let writes := fun (status : Nat) (P : State → Prop) =>
       ∃ w : State, exec (.fwActivate src (k + 1)) s = .next (w.answered s src 4 status 0 []) ∧ P w
     let kept := fun (w : State) (code : Nat) => w.getO Obj.FW_UPDATE_STATUS = code ∧ w.flash = u.flash ∧
       w.resetAsked = u.resetAsked
     let trial := ∃ j, j < 3 ∧ (u.flash.slot j).st ≠ 0
     let lowest := (([0, 1, 2].map fun j => headSvn (imageHead (u.flash.image j (u.flash.slot j).active))).foldl min 64)
     (s.acceptedWrite src Obj.FW_ACTIVATE 0 0 (k + 1) →
       (∀ st code, u.fwRefusal = some (st, code) → u.updating = false → writes st fun w => kept w code) ∧
       (∀ e, u.fwRefusal = none → u.imageFault k img = some e → writes 5 fun w => kept w e) ∧
       (u.fwRefusal = none → u.imageFault k img = none → compatible heads = false → writes 5 fun w => kept w 9) ∧
       (u.fwRefusal = none → u.imageFault k img = none → compatible heads = true → r.rejected r.other = true →
         writes 5 fun w => kept w 13) ∧
       (u.fwRefusal = none → u.imageFault k img = none → compatible heads = true → r.rejected r.other = false →
         writes 0 fun w => w.getO Obj.FW_UPDATE_STATUS = 12 ∧ w.resetAsked = some (1, 0) ∧
           w.flash.slot k = { r with active := r.other, st := 1 } ∧ ∀ j, j ≠ k → w.flash.slot j = u.flash.slot j)) ∧
     (s.acceptedWrite src Obj.FW_SVN_ADVANCE 0 0 1 →
       (trial → exec (.fwSvnAdvance src) s = .next (u.answered s src 4 3 0 [])) ∧
       (¬trial → ∃ w : State, exec (.fwSvnAdvance src) s = .next (w.answered s src 4 0 0 []) ∧
         w = { u with fuses := { u.fuses with svn := max u.fuses.svn lowest } }))) ∧
   (∀ (s : State) (ok : Bool),
     (s.fwStage = none → exec (.fwStageComplete ok) s = .next s) ∧
     ∀ k bs, s.fwStage = some (k, bs) →
       let n := (s.flash.slot k).other
       (ok = false → ∃ t, exec (.fwStageComplete ok) s = .next t ∧ t.fwStage = none ∧ t.flash.image k n = [] ∧
         t.getO Obj.FW_UPDATE_STATUS = 11) ∧
       (ok = true → s.getO Obj.FW_UPDATE_STATUS = 1 → ∃ t, exec (.fwStageComplete ok) s = .next t ∧
         t.fwStage = some (k, bs) ∧ t.flash.image k n = bs ∧ t.getO Obj.FW_UPDATE_STATUS = 2) ∧
       (ok = true → s.getO Obj.FW_UPDATE_STATUS ≠ 1 → ∃ t, exec (.fwStageComplete ok) s = .next t ∧ t.fwStage = none ∧
         t.flash = s.flash ∧ t.getO Obj.FW_UPDATE_KIND = k + 1 ∧
         t.getO Obj.FW_UPDATE_STATUS = (s.imageFault k (s.flash.image k n)).getD 3)) ∧
   (∀ (s : State) (k : Nat), k < 3 →
     (s.getO Obj.FW_ACTIVE_STATE k = 2 → ∃ t, exec (.fwSelfConfirm (k + 1)) s = .next t ∧ (t.flash.slot k).st = 0 ∧
       (t.flash.slot k).active = (s.flash.slot k).active ∧ t.getO Obj.FW_ACTIVE_STATE k = 0 ∧
       t.getO Obj.FW_SELF_CONFIRM k = 1 ∧ t.getO Obj.FW_TRIAL_REMAIN_MS k = 0) ∧
     (s.getO Obj.FW_ACTIVE_STATE k ≠ 2 → exec (.fwSelfConfirm (k + 1)) s = .next s) ∧
     (s.getO Obj.FW_ACTIVE_STATE k = 2 → s.getO Obj.FW_TRIAL_REMAIN_MS k = 0 → s.onePost →
       ∃ t, exec (.fwTrialExpired (k + 1)) s = .next t ∧ t.getO Obj.FW_ACTIVE_STATE k = 3 ∧ t.flash = s.flash ∧
         s.posted { reason := 0x0A05, d0 := k + 1 } t) ∧
     (s.getO Obj.FW_ACTIVE_STATE k ≠ 2 ∨ s.getO Obj.FW_TRIAL_REMAIN_MS k ≠ 0 →
       exec (.fwTrialExpired (k + 1)) s = .next s)) ∧
   ∀ (s : State) (rq : Nat), rq < 20 →
     (rq ∉ s.attestRun → exec (.attestReportBuilt rq) s = .next s) ∧
     (rq ∈ s.attestRun → ∃ t, exec (.attestReportBuilt rq) s = .next t ∧ rq ∉ t.attestRun ∧
       (∃ sig, sig.length = 64 ∧
         t.getSelBlob rq Obj.ATTEST_REPORT = s.reportBody (s.getSelBlob rq Obj.ATTEST_NONCE) ++ sig) ∧
       (s.getO Obj.ATTEST_COUNT + 1 < 2 ^ 32 → t.getO Obj.ATTEST_COUNT = s.getO Obj.ATTEST_COUNT + 1)))

/-- Resets of the whole device (R489, R491, R497, R498, R502, R552). What WARM leaves beyond the rule's words, VHUB, and
unwritten memory are the model's readings (assumptions 79, 80, 6). -/
def Obligations.DeviceResetResults : Prop :=
  ∀ (s : State),
    let set' := [Obj.BOOT_STAGE, Obj.RESET_CAUSE, Obj.WARM_MEM_KEPT, Obj.RESET_LAST_KIND, Obj.RESET_LAST_TARGET,
      Obj.RESET_COUNT, Obj.REFCLK_PRESENT, Obj.PLL_STATE]
    let cleared := fun (t : State) => t.ctxs = [] ∧ t.vreg = [] ∧ t.mreg = [] ∧ t.ops = [] ∧ t.sems = [] ∧ t.tables = [] ∧
      t.sessions = [] ∧ t.qps = [] ∧ t.thrs = [] ∧ t.resvs = [] ∧ t.log = [] ∧ t.sel = [] ∧ t.stopped = [] ∧ t.fences = [] ∧
      t.load = none ∧ t.flash = s.flash ∧ t.fuses = s.fuses
    let warm := fun (x : Instr) (cause : Nat) => ∃ t, exec x s = .next t ∧ cleared t ∧ t.pins = s.pins ∧ t.mrs = s.mrs ∧
      t.getO Obj.BOOT_STAGE = 2 ∧ t.getO Obj.RESET_CAUSE = cause ∧ t.getO Obj.RESET_LAST_KIND = 1 ∧
      t.getO Obj.RESET_LAST_TARGET = 0 ∧ t.getO Obj.WARM_MEM_KEPT = (if s.memLost then 0 else 1) ∧
      (s.getO Obj.RESET_COUNT 0 0 + 1 < 2 ^ 32 → t.getO Obj.RESET_COUNT 0 0 = s.getO Obj.RESET_COUNT 0 0 + 1) ∧
      (∀ o i j, findObj (o.index + i) (o.sub + j) = some (o, i, j) → o ∉ set' →
        t.getO o i j = if o.per = .w ∨ o.per = .f then s.getO o i j else o.dflt) ∧
      (s.memLost = false → ∀ a, a < lpEnd → t.byte a = s.byte a) ∧ (∀ a, lpEnd ≤ a ∨ s.memLost = true → t.byte a = 0) ∧
      (∀ q, (t.ring q).p = 0 ∧ (t.ring q).c = 0 ∧ (t.ring q).base = (s.ring q).base ∧ (t.ring q).binding = (s.ring q).binding ∧
        (t.ring q).target = (s.ring q).target ∧ (t.ring q).notify = (s.ring q).notify ∧ (t.ring q).log2 = (s.ring q).log2)
    let off := fun (t : State) => cleared t ∧ t.dev = 0 ∧ t.mem = [] ∧ t.rings = [] ∧
      ∀ o i j, o.key i j ≠ Obj.DEVICE_STATE.key → t.getO o i j = o.dflt
    (∀ x, s.resetAsked = some (1, x) → warm .warm 3) ∧
    (∀ k x, s.resetAsked = some (k, x) → k ≠ 1 → exec .warm s = .next s) ∧
    (∀ us, 10 ≤ us → s.pins.pwrok = true → s.pins.tripped = false → s.dev ≠ 0 → warm (.resetN us) 2) ∧
    (∀ us, us < 10 ∨ s.pins.pwrok = false ∨ s.pins.tripped = true ∨ s.dev = 0 → exec (.resetN us) s = .next s) ∧
    (∀ n, n < 4 → s.dev ≠ 0 → s.watchdogMs ≠ 0 → s.getO Obj.DEVICE_UPTIME_MS + 1 ≤ s.watchdogMs + 60000 →
      warm (.stewardWatchdog n) 4) ∧
    (∀ n, n < 4 → s.dev ≠ 0 → s.watchdogMs = 0 ∨ s.watchdogMs + 60000 < s.getO Obj.DEVICE_UPTIME_MS + 1 →
      (∀ p ∈ s.sems, p.2.st = 0 ∧ p.2.waits = []) →
      ∃ t, exec (.stewardWatchdog n) s = .next t ∧ t.watchdogMs = s.getO Obj.DEVICE_UPTIME_MS + 1 ∧
        t.getO Obj.RESET_LAST_KIND = 6 ∧ t.getO Obj.RESET_LAST_TARGET = n ∧ t.dev = s.dev ∧ t.mem = s.mem ∧
        (s.getO Obj.RESET_COUNT 0 5 + 1 < 2 ^ 32 → t.getO Obj.RESET_COUNT 0 5 = s.getO Obj.RESET_COUNT 0 5 + 1) ∧
        ∀ o ∈ selObjs, t.getSel (16 + n) o = o.dflt) ∧
    (∃ t, exec .por s = .next t ∧ off t ∧ t.pins.pwrok = false ∧ t.pins.tripped = false) ∧
    (s.pins.pwrok = false → ∃ t, exec .powerUp s = .next t ∧ t = { s with pins := { s.pins with pwrok := true } }) ∧
    (s.pins.pwrok = true → exec .powerUp s = .next s) ∧
    (∀ die, 1 ≤ die → die ≤ 7 → s.dev ≠ 0 → ∃ t, exec (.thermtrip die) s = .next t ∧ off t ∧ t.pins.tripped = true ∧
      t.pins.pwrok = s.pins.pwrok ∧ t.out.getLast? = some (.pin 200 false)) ∧
    (∀ die, 1 ≤ die → die ≤ 7 → s.dev = 0 → exec (.thermtrip die) s = .next s) ∧
    ∀ mv, s.dev ≠ 0 → 100 * mv ≤ 92 * 800 → ∃ t, exec (.supplyReset 3 mv) s = .next t ∧ off t ∧ t.pins.pwrok = false

/-- Resets of parts of the device (R489, R497, R498, R506). What follows a rail beyond the rule's words, and when PORT and
FIELD resets are done, are the model's readings (assumptions 80, 84). -/
def Obligations.PartResetResults : Prop :=
  ∀ (s : State), (∀ p ∈ s.sems, p.2.st = 0 ∧ p.2.waits = []) → s.ops = [] →
    let asked := fun (k n : Nat) => s.resetAsked = some (k, n)
    let began := fun (t : State) (k n : Nat) => t.resetAsked = none ∧ t.resetRun = some (k, n) ∧
      t.getO Obj.RESET_LAST_KIND = k ∧ t.getO Obj.RESET_LAST_TARGET = n ∧
      (s.getO Obj.RESET_COUNT 0 (k - 1) + 1 < 2 ^ 32 →
        t.getO Obj.RESET_COUNT 0 (k - 1) = s.getO Obj.RESET_COUNT 0 (k - 1) + 1)
    let empty := fun (t : State) (n : Nat) => (∀ c, c < 2048 → t.ctx n c = {}) ∧ t.table n = {} ∧
      (∀ r i, r < 16 → i < 8192 → t.vslot n r i = 0) ∧ (∀ k, k < 8 → t.mask n k = 0)
    let loft := fun (t : State) (n : Nat) => ∀ a, loftBase n ≤ a → a < loftBase n + loftSize → t.byte a = 0
    let other := fun (t : State) (n : Nat) => ∀ k c, c < 2048 → k ≠ n → t.ctx k c = s.ctx k c
    (∀ n, n < 800 → asked 3 n → s.dev ≠ 4 → ∃ t, exec (.coreReset n) s = .next t ∧ began t 3 n ∧ empty t n ∧ other t n ∧
      loft t n ∧ (∀ a, a < loftBase n ∨ loftBase n + loftSize ≤ a → t.byte a = s.byte a) ∧ t.dev = s.dev) ∧
    (∀ n, n < 800 → asked 3 n → s.dev = 4 → s.onePost → ∃ t, exec (.coreReset n) s = .next t ∧ began t 3 n ∧ empty t n ∧
      other t n ∧ s.posted { reason := 0x0109, source := n, d0 := n } t) ∧
    (∀ d, d < 2 → asked 2 d → ∃ t, exec (.dieReset d) s = .next t ∧ began t 2 d ∧
      (∀ n, 400 * d ≤ n → n < 400 * d + 400 → empty t n ∧ loft t n) ∧ t.thr d = {} ∧
      (∀ n, n < 800 → n / 400 ≠ d → ∀ c, c < 2048 → t.ctx n c = s.ctx n c) ∧ ∀ a, a < lpEnd → t.byte a = s.byte a) ∧
    (∀ p, p < 8 → asked 4 p → ∃ t, exec (.portReset p) s = .next t ∧ began t 4 p ∧ t.table (0x320 + p) = {} ∧
      t.portState p = (if s.portsLive = true ∧ s.portMay p = true then 1 else 0) ∧
      (∀ q, q < 8 → q ≠ p → t.portState q = s.portState q) ∧ t.mem = s.mem ∧ t.ctxs = s.ctxs) ∧
    (∀ n, asked 5 n → ∃ t, exec .fieldRestart s = .next t ∧ began t 5 n ∧ t.count = 0 ∧ t.getO Obj.ALMANAC_GRANT = 0 ∧
      t.getO Obj.ALMANAC_STATE = 0 ∧ (∀ q, (t.table q).swap = none) ∧ t.resvs = [] ∧ t.mem = s.mem ∧ t.ctxs = s.ctxs ∧
      ∀ o i j, o.per = .v → 0x4000 ≤ o.index → o.index + i ≤ 0x41FF → findObj (o.index + i) (o.sub + j) = some (o, i, j) →
        t.getO o i j = o.dflt) ∧
    (s.resetAsked = none → ∀ c ∈ [Instr.coreReset 0, .dieReset 0, .portReset 0, .fieldRestart], exec c s = .next s) ∧
    (∀ k n, s.resetRun = some (k, n) →
      let lasts := k = 5 ∨ (k = 4 ∧ s.portState n = 1)
      (lasts → exec .resetComplete s = .next s) ∧
      (¬lasts → ∃ t, exec .resetComplete s = .next t ∧ t.resetRun = none ∧ t.getO Obj.RESET_STATUS = 2 ∧
        t = { s with resetRun := none, obj := t.obj })) ∧
    (s.resetRun = none → exec .resetComplete s = .next s) ∧
    ∀ r mv, r < 8 → r ≠ 3 → s.dev ≠ 0 →
      (92 * railNominal r < 100 * mv → exec (.supplyReset r mv) s = .next s) ∧
      (100 * mv ≤ 92 * railNominal r → s.onePost → ∃ t, exec (.supplyReset r mv) s = .next t ∧
        t.getO Obj.SUPPLY_RESET_RAIL = r ∧ t.getO Obj.ERR_LAST_REASON = 0x0902 ∧
        (r ≠ 6 → r ≠ 7 → t.dev = 7) ∧ (r = 0 ∨ r = 1 ∨ r = 2 → ∀ d, d < 2 → r = d ∨ r = 2 → ∀ n, 400 * d ≤ n →
          n < 400 * d + 400 → empty t n) ∧
        (r = 4 ∨ r = 5 → t.memLost = true ∧ ∀ a, a < lpEnd → t.byte a = 0) ∧
        (r = 6 ∨ r = 7 → ∀ p, p < 8 → t.portState p = 4))

/-- Start-up (R507 to R509, R526). The end of stage 7 and a PENDING image that does not fit are the model's readings
(assumptions 86, 83). -/
def Obligations.BootStageResults : Prop :=
  ∀ (s : State) (ok : Bool) (detail : Nat),
    let stage := s.getO Obj.BOOT_STAGE
    let runs := s.pins.pwrok = true ∧ s.pins.tripped = false ∧ s.dev ≠ 7
    let done := fun (P : State → Prop) => ∃ t, exec (.bootStageComplete ok detail) s = .next t ∧
      t.getO Obj.BOOT_STAGE = stage + 1 ∧ P t
    let fails := ∃ t, exec (.bootStageComplete ok detail) s = .next t ∧ t.dev = 7 ∧ t.getO Obj.BOOT_FAIL_STAGE = stage ∧
      t.getO Obj.ERR_LAST_REASON = 0x0A01 ∧ t.getO Obj.DEVICE_FAULT_REASON = 0x0A01
    let settled := (∀ p, p < 8 → s.portState p ≠ 1 ∧ s.portState p ≠ 2) ∨ s.getO Obj.LINK_TRAIN_TIMEOUT_MS ≤ detail
    (¬runs → exec (.bootStageComplete ok detail) s = .next s) ∧
    (runs → stage = 1 → ok = true → done fun t => t.dev = 1 ∧ t.getO Obj.REFCLK_PRESENT = 1 ∧
      ∀ j, j < 3 → t.getO Obj.PLL_STATE 0 j = 2) ∧
    (runs → stage = 1 → ok = false → s.onePost → fails) ∧
    (runs → stage = 2 → ok = true → s.flash.recordOk = true → done fun t => t.dev = s.dev) ∧
    (runs → stage = 2 → ok = false ∨ s.flash.recordOk = false → s.dev = 1 → s.onePost → fails) ∧
    (runs → stage = 3 → done fun t => t.dev = s.dev ∧ t.flash = s.flash) ∧
    (runs → stage = 4 → ∀ c, s.chooseSlots = some c →
      (∀ k, k < 3 → (s.flash.slot k).active = c.getD k 0 ∧ (s.flash.slot k).st = 0) →
      done fun t => t.flash = s.flash ∧ t.dev = s.dev ∧ (∀ k, k < 3 → t.getO Obj.FW_ACTIVE_SLOT k = (s.flash.slot k).active)) ∧
    (runs → stage = 4 → s.chooseSlots = none → s.dev = 1 → s.onePost → fails) ∧
    (runs → stage = 5 → done fun t => t.dev = 2 ∧ t.getO Obj.MEM_TRAIN_STATE = 1 ∧
      t.udpPort = t.getO Obj.YDP_UDP_PORT ∧
      t.memRate = (if s.getO Obj.RESET_CAUSE = 1 then t.getO Obj.MEM_RATE else s.memRate) ∧ (t.storeSlot = none → s.pickCopy = none)) ∧
    (runs → stage = 6 → ok = true → s.ops = [] → done fun t => t.getO Obj.MEM_TRAIN_STATE = 2 ∧ t.memLost = false ∧
      t.getO Obj.MEM_RATE_ACTIVE = s.memRate ∧ t.mem = s.mem) ∧
    (runs → stage = 6 → ok = false → s.dev = 2 → s.onePost → ∃ t, exec (.bootStageComplete ok detail) s = .next t ∧
      t.dev = 7 ∧ t.getO Obj.MEM_TRAIN_STATE = 3 ∧ t.getO Obj.MEM_TRAIN_FAIL_CHANNEL = detail % 128 ∧
      t.getO Obj.BOOT_FAIL_STAGE = 6 ∧ t.getO Obj.ERR_LAST_REASON = 0x0206) ∧
    (runs → stage = 7 → settled → done fun t => t.dev = s.dev) ∧
    (runs → stage = 7 → ¬settled → exec (.bootStageComplete ok detail) s = .next s) ∧
    (runs → stage = 8 → done fun t => t.dev = 3 ∧ t.getO Obj.DEVICE_STARTUP_MS = s.getO Obj.DEVICE_UPTIME_MS % 2 ^ 32) ∧
    (runs → 8 < stage → exec (.bootStageComplete ok detail) s = .next s)

/-- Supply, power limits and clocks (R483, R488 to R496). A second rail within a dip is the model's reading (assumptions
82, 83). -/
def Obligations.PowerAndClockResults : Prop :=
  (∀ (s : State), s.leaveQ = [] → s.resvs = [] →
     let frozen := s.getO Obj.LEAVE_FROZEN
     let dies := fun (r : Nat) => railDies r
     (∀ r mv, r < 8 → s.dev = 0 ∨ 97 * railNominal r < 100 * mv ∨ (s.dip = true ∧ bit (s.getO Obj.SUPPLY_WARN_ACTIVE) r = true) →
       exec (.supplyWarning r mv) s = .next s) ∧
     (∀ r mv, r < 8 → s.dev ≠ 0 → 100 * mv ≤ 97 * railNominal r →
       (s.dip = true → bit (s.getO Obj.SUPPLY_WARN_ACTIVE) r = false → s.onePost →
         ∃ t, exec (.supplyWarning r mv) s = .next t ∧ t.dip = true ∧ bit (t.getO Obj.SUPPLY_WARN_ACTIVE) r = true ∧
           bit (t.getO Obj.SUPPLY_WARN_FLAGS) r = true ∧ t.getO Obj.LEAVE_FROZEN = frozen ∧
           (∀ d, d < 2 → t.getO Obj.CLK_CORE_MULT_NOW 0 d = s.getO Obj.CLK_CORE_MULT_NOW 0 d) ∧
           s.posted { reason := 0x0901, d0 := r, d1 := mv % 2 ^ 32 } t) ∧
       (s.dip = false → s.onePost → ∃ t, exec (.supplyWarning r mv) s = .next t ∧ t.dip = true ∧
         bit (t.getO Obj.SUPPLY_WARN_FLAGS) r = true ∧ t.getO Obj.LEAVE_FROZEN = frozen ||| 1 ∧
         (s.getO Obj.SUPPLY_DIPS + 1 < 2 ^ 32 → t.getO Obj.SUPPLY_DIPS = s.getO Obj.SUPPLY_DIPS + 1) ∧
         s.posted { reason := 0x0901, d0 := r, d1 := mv % 2 ^ 32 } t ∧
         ∀ d, d < 2 → 4 < s.getO Obj.CLK_CORE_MULT_NOW 0 d →
            t.getO Obj.CLK_CORE_MULT_NOW 0 d = s.getO Obj.CLK_CORE_MULT_NOW 0 d - (if d ∈ dies r then 1 else 0))) ∧
     (s.dip = true → ∃ t, exec .supplyRecovery s = .next t ∧ t.dip = false ∧ t.dipSteps = [] ∧
       t.getO Obj.SUPPLY_WARN_ACTIVE = 0 ∧ t.getO Obj.LEAVE_FROZEN = frozen &&& 254 ∧ t.mem = s.mem) ∧
     (s.dip = false → exec .supplyRecovery s = .next s) ∧
     (∀ mw, s.dev ≠ 0 → 1000 * s.getO Obj.POWER_LIMIT_W < mw → bit frozen 1 = false →
       ∃ t, exec (.powerOverLimit mw) s = .next t ∧ t.getO Obj.LEAVE_FROZEN = frozen ||| 2 ∧ t.mem = s.mem ∧
         (s.getO Obj.POWER_OVER_LIMIT + 1 < 2 ^ 32 → t.getO Obj.POWER_OVER_LIMIT = s.getO Obj.POWER_OVER_LIMIT + 1)) ∧
     (∀ mw, s.dev = 0 ∨ mw ≤ 1000 * s.getO Obj.POWER_LIMIT_W ∨ bit frozen 1 = true → exec (.powerOverLimit mw) s = .next s) ∧
     (∀ mw,
       let low := mw < 1000 * (s.getO Obj.POWER_LIMIT_W - s.getO Obj.LEAVE_MARGIN_W)
       (bit frozen 1 = true → low → ∃ t, exec (.overLimitFreezeEnd mw) s = .next t ∧
         t.getO Obj.LEAVE_FROZEN = frozen &&& 253 ∧ t.mem = s.mem) ∧
       (¬(bit frozen 1 = true ∧ low) → exec (.overLimitFreezeEnd mw) s = .next s)) ∧
     ∀ pm held, s.dev ≠ 0 →
       let pp := (1000 * s.getO Obj.LEAVE_BASE_W * s.lfMax + 1023) / 1024 + held
       ∃ t, exec (.leaveCorrectionUpdate pm held) s = .next t ∧ t.mem = s.mem ∧
         t.getO Obj.LEAVE_CORRECTION = min 1280 (max 1024 ((s.getO Obj.LEAVE_CORRECTION * pm + pp - 1) / pp))) ∧
  (∀ (s : State) (d : Nat), d < 2 →
     let m := s.getO Obj.CLK_CORE_MULT_NOW 0 d
     let to' := max 4 (s.getO Obj.CLK_CORE_MULT 0 d - SMap.get 0 s.dipSteps d - SMap.get 0 s.thermSteps d)
     let moves := s.dev ≠ 0 ∧ s.getO Obj.CLK_CORE_SRC 0 d ≠ 1 ∧ m ≠ to'
     (moves → ∃ t, exec (.clkRampStep d) s = .next t ∧
       t.getO Obj.CLK_CORE_MULT_NOW 0 d = (if m < to' then m + 1 else m - 1) ∧ t = { s with obj := t.obj, freeCtr := t.freeCtr } ∧
       t.getO Obj.CLK_CORE_MULT_NOW 0 (1 - d) = s.getO Obj.CLK_CORE_MULT_NOW 0 (1 - d)) ∧
     (¬moves → exec (.clkRampStep d) s = .next s) ∧
     ∀ pll, pll < 39 →
       let st := s.getO Obj.PLL_STATE 0 pll
       let others := fun (t : State) => ∀ j, j < 39 → j ≠ pll → t.getO Obj.PLL_STATE 0 j = s.getO Obj.PLL_STATE 0 j
       (∀ ref, st = 2 → s.onePost → s.ops = [] → ∃ t, exec (.pllReferenceLoss pll ref) s = .next t ∧
         t.getO Obj.PLL_STATE 0 pll = 3 ∧ others t ∧ bit (t.getO Obj.PLL_LOSS_FLAGS) pll = true ∧
         (ref = true → t.getO Obj.REFCLK_PRESENT = 0) ∧ (pll < 3 ∨ 6 < pll → ∃ c ∈ t.alm.conds, c.key = keyClock) ∧
         SMap.get 0 t.pllSince pll = s.getO Obj.DEVICE_UPTIME_MS + 1 ∧
         (pll < 3 ∨ 6 < pll → s.posted { reason := 0x0905, d0 := pll } t) ∧
         (3 ≤ pll → pll ≤ 6 → ∀ p, p / 2 = pll - 3 → s.portState p = 3 → t.portState p = 1)) ∧
       (∀ ref, st ≠ 2 → exec (.pllReferenceLoss pll ref) s = .next s) ∧
       (st = 3 ∨ st = 1 → ∃ t, exec (.pllRelock pll) s = .next t ∧ t.getO Obj.PLL_STATE 0 pll = 2 ∧ others t ∧
         t.getO Obj.REFCLK_PRESENT = 1 ∧ SMap.get 0 t.pllSince pll = 0 ∧
         ((∀ j, j < 39 → j ≠ pll → s.getO Obj.PLL_STATE 0 j ≠ 3) → ∀ c ∈ t.alm.conds, c.key ≠ keyClock)) ∧
       (st ≠ 3 → st ≠ 1 → exec (.pllRelock pll) s = .next s) ∧
       (let since := SMap.get 0 s.pllSince pll
        let lost := st = 3 ∧ since ≠ 0 ∧ since + s.getO Obj.CLK_LOSS_STOP_MS ≤ s.getO Obj.DEVICE_UPTIME_MS + 1
        (lost → s.onePost → ∃ t, exec (.clockLossStop pll) s = .next t ∧ SMap.get 0 t.pllSince pll = 0 ∧
          t.getO Obj.PLL_STATE 0 pll = 3 ∧ s.posted { reason := 0x0906, d0 := pll } t) ∧
        (¬lost → exec (.clockLossStop pll) s = .next s)))

/-- Temperatures, rails and energy (R483 to R485, R491), memory refresh and scrub (R382, R383), bridges (R20), the
arbiters' budget (R397), and the first record of the farm (R541). -/
def Obligations.ReadingsAndFabricResults : Prop :=
  (∀ (s : State) (temps : List Int) (mw : Nat) (rails : List Nat),
     let warn := s.getI Obj.THERM_WARN_C
     let stop := s.getI Obj.THERM_STOP_C
     let i32 := fun (t : Int) => -2147483648 ≤ t ∧ t < 2147483648
     (s.dev = 0 → exec (.thermalReading temps mw rails) s = .next s) ∧
     (s.dev ≠ 0 → temps.length ≤ 7 → rails.length ≤ 8 → (∀ t ∈ temps, i32 t ∧ t ≤ stop) → (∀ v ∈ rails, v < 65536) →
       s.getO Obj.LEAVE_TABLE_STALE = 1 → s.getO Obj.DEVICE_UPTIME_MS + 1 < 2 ^ 64 →
       s.energyUj < 1000000 → s.getO Obj.ENERGY_J + mw / 1000000 + 1 < 2 ^ 64 →
       ∃ t, exec (.thermalReading temps mw rails) s = .next t ∧
         t.getO Obj.DEVICE_UPTIME_MS = s.getO Obj.DEVICE_UPTIME_MS + 1 ∧
         (∀ j c, temps[j]? = some c → t.getI Obj.THERM_DIE_C 0 j = c ∧
           t.getI Obj.THERM_MAX_C 0 j = max c (s.getI Obj.THERM_MAX_C 0 j)) ∧
         (∀ j c, j < 2 → temps[j]? = some c → t.getO Obj.LEAVE_LEAK_FACTOR 0 j = s.leakFactor c) ∧
         (∀ j c, j < 2 → temps[j]? = some c → warn < c → SMap.get 0 s.thermSteps j < 4 →
           SMap.get 0 t.thermSteps j = SMap.get 0 s.thermSteps j + 1) ∧
         (∀ j c, j < 2 → temps[j]? = some c → c + 3 ≤ warn → SMap.get 0 t.thermSteps j = SMap.get 0 s.thermSteps j - 1) ∧
         (∀ j c, j < 2 → temps[j]? = some c → c ≤ warn → warn < c + 3 → SMap.get 0 t.thermSteps j = SMap.get 0 s.thermSteps j) ∧
         (∀ r v, rails[r]? = some v → t.getO Obj.SUPPLY_MV 0 r = v ∧
           t.getO Obj.SUPPLY_MIN_MV 0 r = min v (s.getO Obj.SUPPLY_MIN_MV 0 r)) ∧
         t.getO Obj.POWER_NOW_W = mw / 1000 % 65536 ∧
         1000000 * t.getO Obj.ENERGY_J + t.energyUj = 1000000 * s.getO Obj.ENERGY_J + s.energyUj + mw ∧ t.energyUj < 1000000 ∧
         (2 ≤ temps.length → t.getO Obj.LEAVE_TABLE_STALE = if t.staleDie = none then 0 else 1) ∧ t.mem = s.mem) ∧
     ∀ j c, j < 7 → s.dev ≠ 0 → i32 c → stop < c → s.getI Obj.THERM_DIE_C 0 j ≤ stop → s.onePost →
       s.posted { reason := 0x0903, d0 := j + 1, d1 := ofSigned 32 c } (s.readDie j c)) ∧
  ((∀ (s : State) (p : Nat) (c : Int), p < 32 → -2147483648 ≤ c → c < 2147483648 →
     (s.dev = 0 ∨ s.dev = 6 → exec (.memTempRead p c) s = .next s) ∧
     (s.dev ≠ 0 → s.dev ≠ 6 → s.onePost → ∃ t, exec (.memTempRead p c) s = .next t ∧ t.packTemp p = c ∧
       (∀ q, q ≠ p → t.packTemp q = s.packTemp q) ∧ t.getI Obj.MEM_TEMP_MAX_C = max c (s.getI Obj.MEM_TEMP_MAX_C) ∧
       (105 < c → s.packTemp p ≤ 105 →
         s.posted { reason := 0x0207, source := 0x330 + p / 16, d0 := p, d1 := ofSigned 32 c } t) ∧
       (c ≤ 105 ∨ 105 < s.packTemp p → t.getO Obj.ERR_SEQ_NEXT = s.getO Obj.ERR_SEQ_NEXT ∧ t.mem = s.mem))) ∧
   (∀ (s : State) (k b : Nat), k < 256 → exec (.refresh k b) s = .next s) ∧
   ∀ (s : State) (k : Nat) (late : Bool), k < 256 →
     let pos := (s.sub k).pos
     let c := subchAddr k pos / 16
     let n := s.getO Obj.MEM_SCRUB_BYTES + 32
     let scrubs := s.getO Obj.MEM_SCRUB_EN ≠ 0 ∧ (s.dev = 3 ∨ s.dev = 4 ∨ s.dev = 5) ∧
       ¬(s.getO Obj.LP_STATE = 2 ∧ 1 ≤ s.fallowStep) ∧ pos < subchSize
     (∀ u0 u1, ¬scrubs → exec (.memScrubRead k u0 u1 late) s = .next s) ∧
     (scrubs → s.chk = [] → n < memSize →
       (∃ t, exec (.memScrubRead k 0 0 late) s = .next t ∧ (t.sub k).pos = pos + 32 ∧ t.getO Obj.MEM_SCRUB_BYTES = n ∧
         t.mem = s.mem ∧ t.chk = [] ∧ ∀ j, j ≠ k → t.sub j = s.sub j) ∧
       ∀ i, i < 144 → (s.sub k).hour.length < s.getO Obj.MEM_CE_ALARM →
         ∃ t, exec (.memScrubRead k (2 ^ i) 0 late) s = .next t ∧ (t.sub k).pos = pos + 32 ∧
         (∀ y, t.byte y = s.byte y) ∧ SMap.get 0 t.chk c = 0 ∧ t.getO Obj.MEM_SCRUB_BYTES = n) ∧
     (scrubs → s.chk = [] → n = memSize →
       ∃ t, exec (.memScrubRead k 0 0 false) s = .next t ∧ (∀ j, j < 256 → (t.sub j).pos = 0) ∧ t.mem = s.mem ∧
         t.getO Obj.MEM_SCRUB_BYTES = 0 ∧
         (s.getO Obj.MEM_SCRUB_PASSES + 1 < 2 ^ 32 → t.getO Obj.MEM_SCRUB_PASSES = s.getO Obj.MEM_SCRUB_PASSES + 1))) ∧
  ((∀ (s : State) (b d : Nat) (noise : List Nat), 1 ≤ b → b ≤ 3 → d ≤ 1 →
     let k := (bridgeFlit noise).1
     let ce := fun (t : State) (n : Nat) => s.getO Obj.BRIDGE_CE 0 (b - 1) + n < 2 ^ 32 →
       t.getO Obj.BRIDGE_CE 0 (b - 1) = s.getO Obj.BRIDGE_CE 0 (b - 1) + n
     ((bridgeFlit noise).2 = false → ∃ t, exec (.bridgeFlitReceive b d noise []) s = .next t ∧ ce t k ∧ t.mem = s.mem ∧
       t.ctxs = s.ctxs ∧ t.getO Obj.BRIDGE_REPLAYS 0 (b - 1) = s.getO Obj.BRIDGE_REPLAYS 0 (b - 1)) ∧
     ((bridgeFlit noise).2 = true → ∃ t, exec (.bridgeFlitReceive b d noise []) s = .next t ∧ ce t k ∧ t.mem = s.mem ∧
       (s.getO Obj.BRIDGE_REPLAYS 0 (b - 1) + 1 < 2 ^ 32 →
         t.getO Obj.BRIDGE_REPLAYS 0 (b - 1) = s.getO Obj.BRIDGE_REPLAYS 0 (b - 1) + 1)) ∧
     ((bridgeFlit noise).2 = true → s.onePost → s.running = false →
       ∃ t, exec (.bridgeFlitReceive b d noise [noise, noise, noise, noise]) s = .next t ∧ ce t (5 * k) ∧
         (s.getO Obj.BRIDGE_REPLAYS 0 (b - 1) + 4 < 2 ^ 32 →
           t.getO Obj.BRIDGE_REPLAYS 0 (b - 1) = s.getO Obj.BRIDGE_REPLAYS 0 (b - 1) + 4) ∧
         t.getO Obj.ERR_LAST_REASON = 0x0205)) ∧
   (∀ (s : State) (p n : Nat), p < 800 ∨ p = 0x330 ∨ p = 0x331 →
     (n ≤ s.getO Obj.ARB_C3_BUDGET → exec (.arbC3Window p n) s = .next s) ∧
     (s.getO Obj.ARB_C3_BUDGET < n → s.quietEvents 0xFFF → ∃ t, exec (.arbC3Window p n) s = .next t ∧
       (s.getO Obj.ARB_C3_EXCESS + 1 < 2 ^ 32 → t.getO Obj.ARB_C3_EXCESS = s.getO Obj.ARB_C3_EXCESS + 1) ∧
       s.eventPosted 0xFFF (s.eventWord 7 p n 0 0xFFFF) t)) ∧
   ∀ (s : State) (r : Nat), r < 2 ^ 512 →
     let cls := r / 2 ^ 373 % 8
     let takes := s.isMaster = true ∧ s.dev ≠ 0 ∧ (cls = 3 ∨ cls = 4)
     let stamp := fun (a : Nat) => a / 2 ^ 448 % 2 ^ 64
     let before := fun (a b : Nat) => stamp a < stamp b ∨
       (stamp a = stamp b ∧ a / 2 ^ 352 % 65536 < b / 2 ^ 352 % 65536)
     (¬takes → exec (.errorRecordReceive r) s = .next s) ∧
     (takes → ∃ t, exec (.errorRecordReceive r) s = .next t ∧
       (s.getO Obj.FIELD_RECORDS + 1 < 2 ^ 32 → t.getO Obj.FIELD_RECORDS = s.getO Obj.FIELD_RECORDS + 1) ∧
       (s.fieldFirst = none → t.fieldFirst = some r) ∧
       (∀ f, s.fieldFirst = some f → before r f → t.fieldFirst = some r) ∧
       (∀ f, s.fieldFirst = some f → ¬before r f → t.fieldFirst = some f) ∧ t.mem = s.mem ∧ t.ops = s.ops))
end

