-- ==== Sys2Proof/Laws/SMap.lean ====
section
/-! SUPPORT. Laws of sparse maps: what a lookup gives after a write, and that every operation keeps the canonical form. -/
namespace Sys2Proof.Machine

section
variable {α : Type}

@[simp] theorem SMap.get_nil (d : α) (i : Nat) : SMap.get d [] i = d := rfl

theorem SMap.get_cons (d : α) (k : Nat) (v : α) (m : SMap α) (i : Nat) :
    SMap.get d ((k, v) :: m) i = if k = i then v else SMap.get d m i := rfl

@[simp] theorem SMap.get_erase_same (d : α) (m : SMap α) (i : Nat) : SMap.get d (m.erase i) i = d := by
  induction m with
  | nil => rfl
  | cons p m ih =>
    obtain ⟨k, v⟩ := p
    simp only [SMap.erase]
    split_ifs with h
    · exact ih
    · simp [SMap.get, h, ih]

theorem SMap.get_erase_ne (d : α) (m : SMap α) (i j : Nat) (h : j ≠ i) :
    SMap.get d (m.erase i) j = SMap.get d m j := by
  induction m with
  | nil => rfl
  | cons p m ih =>
    obtain ⟨k, v⟩ := p
    simp only [SMap.erase]
    split_ifs with h1
    · subst h1; simp [SMap.get, h.symm, ih]
    · simp [SMap.get, ih]

/-- No entry of a key is left once it has been erased. -/
theorem SMap.mem_erase_iff {m : SMap α} {i : Nat} {q : Nat × α} : q ∈ m.erase i ↔ q ∈ m ∧ q.1 ≠ i := by
  induction m with
  | nil => simp [SMap.erase]
  | cons p m ih =>
    obtain ⟨k, v⟩ := p
    simp only [SMap.erase]
    split_ifs with h
    · subst h; rw [ih]; constructor
      · rintro ⟨h1, h2⟩; exact ⟨List.mem_cons_of_mem _ h1, h2⟩
      · rintro ⟨h1, h2⟩
        rcases List.mem_cons.1 h1 with rfl | h1
        · exact absurd rfl h2
        · exact ⟨h1, h2⟩
    · rw [List.mem_cons, List.mem_cons, ih]; constructor
      · rintro (rfl | ⟨h1, h2⟩)
        · exact ⟨.inl rfl, h⟩
        · exact ⟨.inr h1, h2⟩
      · rintro ⟨rfl | h1, h2⟩
        · exact .inl rfl
        · exact .inr ⟨h1, h2⟩

theorem SMap.mem_insert_iff {m : SMap α} {i : Nat} {a : α} {q : Nat × α} : q ∈ m.insert i a ↔ q = (i, a) ∨ q ∈ m := by
  induction m with
  | nil => simp [SMap.insert]
  | cons p m ih =>
    obtain ⟨k, v⟩ := p
    simp only [SMap.insert]
    split_ifs
    · simp only [List.mem_cons]
    · simp only [List.mem_cons, ih]; tauto

/-- The entries after a write: the new one, and those of other keys. -/
theorem SMap.mem_put_iff {m : SMap α} {i : Nat} {a : α} {q : Nat × α} :
    q ∈ m.put i a ↔ q = (i, a) ∨ (q ∈ m ∧ q.1 ≠ i) := by
  rw [SMap.put, SMap.mem_insert_iff, SMap.mem_erase_iff]

theorem SMap.get_of_not_mem (d : α) (m : SMap α) (i : Nat) (h : ∀ q ∈ m, q.1 ≠ i) : SMap.get d m i = d := by
  induction m with
  | nil => rfl
  | cons p m ih =>
    obtain ⟨k, v⟩ := p
    have h1 := h (k, v) List.mem_cons_self
    simp only at h1
    rw [SMap.get_cons, if_neg h1, ih fun q hq => h q (List.mem_cons_of_mem _ hq)]

theorem SMap.get_insert_same (d : α) (m : SMap α) (i : Nat) (a : α) (h : ∀ q ∈ m, q.1 ≠ i) :
    SMap.get d (m.insert i a) i = a := by
  induction m with
  | nil => simp [SMap.insert, SMap.get]
  | cons p m ih =>
    obtain ⟨k, v⟩ := p
    have h1 := h (k, v) List.mem_cons_self
    simp only at h1
    simp only [SMap.insert]
    split_ifs
    · simp [SMap.get]
    · rw [SMap.get_cons, if_neg h1, ih fun q hq => h q (List.mem_cons_of_mem _ hq)]

theorem SMap.get_insert_ne (d : α) (m : SMap α) (i j : Nat) (a : α) (h : j ≠ i) :
    SMap.get d (m.insert i a) j = SMap.get d m j := by
  induction m with
  | nil => simp [SMap.insert, SMap.get, h.symm]
  | cons p m ih =>
    obtain ⟨k, v⟩ := p
    simp only [SMap.insert]
    split_ifs
    · simp [SMap.get, h.symm]
    · simp [SMap.get, ih]

@[simp] theorem SMap.get_put_same (d : α) (m : SMap α) (i : Nat) (a : α) : SMap.get d (m.put i a) i = a :=
  SMap.get_insert_same d _ i a fun _ hq => (SMap.mem_erase_iff.1 hq).2

theorem SMap.get_put_ne (d : α) (m : SMap α) (i j : Nat) (a : α) (h : j ≠ i) :
    SMap.get d (m.put i a) j = SMap.get d m j := by
  rw [SMap.put, SMap.get_insert_ne _ _ _ _ _ h, SMap.get_erase_ne _ _ _ _ h]

/-- A key reads the value written to it. -/
@[simp] theorem SMap.get_set_same [DecidableEq α] (d : α) (m : SMap α) (i : Nat) (a : α) :
    SMap.get d (m.set d i a) i = a := by
  unfold SMap.set
  split_ifs with h
  · simp [h]
  · simp

/-- A write leaves every other key alone. -/
theorem SMap.get_set_ne [DecidableEq α] (d : α) (m : SMap α) (i j : Nat) (a : α) (h : j ≠ i) :
    SMap.get d (m.set d i a) j = SMap.get d m j := by
  unfold SMap.set
  split_ifs
  · exact SMap.get_erase_ne d m i j h
  · exact SMap.get_put_ne d m i j a h

/-- What every key reads after a write. -/
theorem SMap.get_set [DecidableEq α] (d : α) (m : SMap α) (i j : Nat) (a : α) :
    SMap.get d (m.set d i a) j = if j = i then a else SMap.get d m j := by
  split_ifs with h
  · subst h; simp
  · exact SMap.get_set_ne d m i j a h

theorem SMap.above_mono {b c : Nat} (m : SMap α) (h : c ≤ b) (hm : SMap.above (some b) m = true) :
    SMap.above (some c) m = true := by
  cases m with
  | nil => rfl
  | cons p m =>
    simp only [SMap.above, Bool.and_eq_true, decide_eq_true_eq] at hm ⊢
    exact ⟨by omega, hm.2⟩

theorem SMap.above_none {b : Nat} (m : SMap α) (hm : SMap.above (some b) m = true) : SMap.above none m = true := by
  cases m with
  | nil => rfl
  | cons p m => simp only [SMap.above, Bool.and_eq_true, Bool.true_and] at hm ⊢; exact hm.2

theorem SMap.above_insert (m : SMap α) (b i : Nat) (a : α) (hi : b < i) (hm : SMap.above (some b) m = true)
    (hn : ∀ q ∈ m, q.1 ≠ i) : SMap.above (some b) (m.insert i a) = true := by
  induction m generalizing b with
  | nil => simp [SMap.insert, SMap.above, hi]
  | cons p m ih =>
    obtain ⟨k, v⟩ := p
    simp only [SMap.above, Bool.and_eq_true, decide_eq_true_eq] at hm
    have h1 := hn (k, v) List.mem_cons_self
    simp only at h1
    simp only [SMap.insert]
    split_ifs with h2
    · simp only [SMap.above, Bool.and_eq_true, decide_eq_true_eq]; exact ⟨hi, h2, hm.2⟩
    · simp only [SMap.above, Bool.and_eq_true, decide_eq_true_eq]
      exact ⟨hm.1, ih k (by omega) hm.2 fun q hq => hn q (List.mem_cons_of_mem _ hq)⟩

theorem SMap.above_erase (m : SMap α) (b i : Nat) (hm : SMap.above (some b) m = true) :
    SMap.above (some b) (m.erase i) = true := by
  induction m generalizing b with
  | nil => rfl
  | cons p m ih =>
    obtain ⟨k, v⟩ := p
    simp only [SMap.above, Bool.and_eq_true, decide_eq_true_eq] at hm
    simp only [SMap.erase]
    split_ifs with h1
    · exact ih b (SMap.above_mono m (by omega) hm.2)
    · simp only [SMap.above, Bool.and_eq_true, decide_eq_true_eq]; exact ⟨hm.1, ih k hm.2⟩

theorem SMap.mem_put {m : SMap α} {i : Nat} {a : α} {q : Nat × α} (h : q ∈ m.put i a) : q = (i, a) ∨ q ∈ m :=
  (SMap.mem_put_iff.1 h).imp_right And.left

theorem SMap.mem_erase {m : SMap α} {i : Nat} {q : Nat × α} (h : q ∈ m.erase i) : q ∈ m := (SMap.mem_erase_iff.1 h).1

/-- The canonical form: keys rise, and no entry has the value of an unlisted key. -/
theorem SMap.wf_iff [DecidableEq α] (d : α) (m : SMap α) :
    SMap.wf d m = true ↔ SMap.above none m = true ∧ ∀ q ∈ m, q.2 ≠ d := by
  simp [SMap.wf]

@[simp] theorem SMap.wf_nil [DecidableEq α] (d : α) : SMap.wf d ([] : SMap α) = true := rfl

theorem SMap.above_none_erase (m : SMap α) (i : Nat) (hm : SMap.above none m = true) :
    SMap.above none (m.erase i) = true := by
  cases m with
  | nil => rfl
  | cons p m =>
    obtain ⟨k, v⟩ := p
    simp only [SMap.above, Bool.true_and] at hm
    simp only [SMap.erase]
    split_ifs with h1
    · exact SMap.above_none _ (SMap.above_erase m k i hm)
    · simpa [SMap.above] using SMap.above_erase m k i hm

theorem SMap.above_none_put (m : SMap α) (i : Nat) (a : α) (hm : SMap.above none m = true) :
    SMap.above none (m.put i a) = true := by
  have hn : ∀ q ∈ m.erase i, q.1 ≠ i := fun _ hq => (SMap.mem_erase_iff.1 hq).2
  have he := SMap.above_none_erase m i hm
  unfold SMap.put
  generalize m.erase i = e at hn he
  cases e with
  | nil => rfl
  | cons p e =>
    obtain ⟨k, v⟩ := p
    simp only [SMap.above, Bool.true_and] at he
    have h1 := hn (k, v) List.mem_cons_self
    simp only at h1
    simp only [SMap.insert]
    split_ifs with h2
    · simp only [SMap.above, Bool.true_and, Bool.and_eq_true, decide_eq_true_eq]; exact ⟨h2, he⟩
    · simp only [SMap.above, Bool.true_and]
      exact SMap.above_insert e k i a (by omega) he fun q hq => hn q (List.mem_cons_of_mem _ hq)

/-- A write keeps the canonical form. -/
theorem SMap.wf_set [DecidableEq α] (d : α) (m : SMap α) (i : Nat) (a : α) (hm : SMap.wf d m = true) :
    SMap.wf d (m.set d i a) = true := by
  rw [SMap.wf_iff] at hm ⊢
  unfold SMap.set
  split_ifs with h
  · exact ⟨SMap.above_none_erase m i hm.1, fun q hq => hm.2 q (SMap.mem_erase hq)⟩
  · refine ⟨SMap.above_none_put m i a hm.1, fun q hq => ?_⟩
    rcases SMap.mem_put hq with rfl | hq
    · exact h
    · exact hm.2 q hq

theorem SMap.above_filter (p : Nat × α → Bool) (m : SMap α) (b : Nat) (hm : SMap.above (some b) m = true) :
    SMap.above (some b) (m.filter p) = true := by
  induction m generalizing b with
  | nil => rfl
  | cons q m ih =>
    simp only [SMap.above, Bool.and_eq_true, decide_eq_true_eq] at hm
    rw [List.filter_cons]
    split_ifs
    · simp only [SMap.above, Bool.and_eq_true, decide_eq_true_eq]; exact ⟨hm.1, ih _ hm.2⟩
    · exact ih b (SMap.above_mono m (by omega) hm.2)

/-- Dropping entries keeps the canonical form. -/
theorem SMap.wf_filter [DecidableEq α] (d : α) (p : Nat × α → Bool) (m : SMap α) (hm : SMap.wf d m = true) :
    SMap.wf d (m.filter p) = true := by
  rw [SMap.wf_iff] at hm ⊢
  refine ⟨?_, fun q hq => hm.2 q (List.mem_of_mem_filter hq)⟩
  cases m with
  | nil => rfl
  | cons q m =>
    have h := hm.1
    simp only [SMap.above, Bool.true_and] at h
    rw [List.filter_cons]
    split_ifs
    · simpa [SMap.above] using SMap.above_filter p m q.1 h
    · exact SMap.above_none _ (SMap.above_filter p m q.1 h)

end

end Sys2Proof.Machine
end

