-- ==== Sys2Proof/Laws/State.lean ====
section
/-! SUPPORT. What each field of the state is after each of its plain updates: one lemma per field and update, true by
unfolding, so that no later proof unfolds a record update. -/
namespace Sys2Proof.Machine

section
variable (s : State)

/-! ### `setO` -/

@[simp] theorem State.setO_pending (o : ObjDef) (v i j : Nat) : (s.setO o v i j).pending = s.pending := rfl
@[simp] theorem State.setO_out (o : ObjDef) (v i j : Nat) : (s.setO o v i j).out = s.out := rfl
@[simp] theorem State.setO_obj (o : ObjDef) (v i j : Nat) : (s.setO o v i j).obj = SMap.set o.dflt s.obj (o.key i j) v := rfl
@[simp] theorem State.setO_blob (o : ObjDef) (v i j : Nat) : (s.setO o v i j).blob = s.blob := rfl
@[simp] theorem State.setO_sel (o : ObjDef) (v i j : Nat) : (s.setO o v i j).sel = s.sel := rfl
@[simp] theorem State.setO_selBlob (o : ObjDef) (v i j : Nat) : (s.setO o v i j).selBlob = s.selBlob := rfl
@[simp] theorem State.setO_freeCtr (o : ObjDef) (v i j : Nat) : (s.setO o v i j).freeCtr = s.freeCtr := rfl
@[simp] theorem State.setO_mem (o : ObjDef) (v i j : Nat) : (s.setO o v i j).mem = s.mem := rfl
@[simp] theorem State.setO_chk (o : ObjDef) (v i j : Nat) : (s.setO o v i j).chk = s.chk := rfl
@[simp] theorem State.setO_vchk (o : ObjDef) (v i j : Nat) : (s.setO o v i j).vchk = s.vchk := rfl
@[simp] theorem State.setO_subch (o : ObjDef) (v i j : Nat) : (s.setO o v i j).subch = s.subch := rfl
@[simp] theorem State.setO_pkgTemp (o : ObjDef) (v i j : Nat) : (s.setO o v i j).pkgTemp = s.pkgTemp := rfl
@[simp] theorem State.setO_vreg (o : ObjDef) (v i j : Nat) : (s.setO o v i j).vreg = s.vreg := rfl
@[simp] theorem State.setO_mreg (o : ObjDef) (v i j : Nat) : (s.setO o v i j).mreg = s.mreg := rfl
@[simp] theorem State.setO_ctxs (o : ObjDef) (v i j : Nat) : (s.setO o v i j).ctxs = s.ctxs := rfl
@[simp] theorem State.setO_ops (o : ObjDef) (v i j : Nat) : (s.setO o v i j).ops = s.ops := rfl
@[simp] theorem State.setO_nextOp (o : ObjDef) (v i j : Nat) : (s.setO o v i j).nextOp = s.nextOp := rfl
@[simp] theorem State.setO_stopped (o : ObjDef) (v i j : Nat) : (s.setO o v i j).stopped = s.stopped := rfl
@[simp] theorem State.setO_sems (o : ObjDef) (v i j : Nat) : (s.setO o v i j).sems = s.sems := rfl
@[simp] theorem State.setO_unrec (o : ObjDef) (v i j : Nat) : (s.setO o v i j).unrec = s.unrec := rfl
@[simp] theorem State.setO_rings (o : ObjDef) (v i j : Nat) : (s.setO o v i j).rings = s.rings := rfl
@[simp] theorem State.setO_tables (o : ObjDef) (v i j : Nat) : (s.setO o v i j).tables = s.tables := rfl
@[simp] theorem State.setO_load (o : ObjDef) (v i j : Nat) : (s.setO o v i j).load = s.load := rfl
@[simp] theorem State.setO_alm (o : ObjDef) (v i j : Nat) : (s.setO o v i j).alm = s.alm := rfl
@[simp] theorem State.setO_stepRun (o : ObjDef) (v i j : Nat) : (s.setO o v i j).stepRun = s.stepRun := rfl
@[simp] theorem State.setO_stepDead (o : ObjDef) (v i j : Nat) : (s.setO o v i j).stepDead = s.stepDead := rfl
@[simp] theorem State.setO_stepQueue (o : ObjDef) (v i j : Nat) : (s.setO o v i j).stepQueue = s.stepQueue := rfl
@[simp] theorem State.setO_censusRecv (o : ObjDef) (v i j : Nat) : (s.setO o v i j).censusRecv = s.censusRecv := rfl
@[simp] theorem State.setO_updWait (o : ObjDef) (v i j : Nat) : (s.setO o v i j).updWait = s.updWait := rfl
@[simp] theorem State.setO_baleFrom (o : ObjDef) (v i j : Nat) : (s.setO o v i j).baleFrom = s.baleFrom := rfl
@[simp] theorem State.setO_balesDone (o : ObjDef) (v i j : Nat) : (s.setO o v i j).balesDone = s.balesDone := rfl
@[simp] theorem State.setO_balesAborted (o : ObjDef) (v i j : Nat) : (s.setO o v i j).balesAborted = s.balesAborted := rfl
@[simp] theorem State.setO_updDiscard (o : ObjDef) (v i j : Nat) : (s.setO o v i j).updDiscard = s.updDiscard := rfl
@[simp] theorem State.setO_wmax (o : ObjDef) (v i j : Nat) : (s.setO o v i j).wmax = s.wmax := rfl
@[simp] theorem State.setO_wsat (o : ObjDef) (v i j : Nat) : (s.setO o v i j).wsat = s.wsat := rfl
@[simp] theorem State.setO_abortedInStep (o : ObjDef) (v i j : Nat) : (s.setO o v i j).abortedInStep = s.abortedInStep := rfl
@[simp] theorem State.setO_earlyPkts (o : ObjDef) (v i j : Nat) : (s.setO o v i j).earlyPkts = s.earlyPkts := rfl
@[simp] theorem State.setO_leaveQ (o : ObjDef) (v i j : Nat) : (s.setO o v i j).leaveQ = s.leaveQ := rfl
@[simp] theorem State.setO_waited (o : ObjDef) (v i j : Nat) : (s.setO o v i j).waited = s.waited := rfl
@[simp] theorem State.setO_readyQ (o : ObjDef) (v i j : Nat) : (s.setO o v i j).readyQ = s.readyQ := rfl
@[simp] theorem State.setO_resvs (o : ObjDef) (v i j : Nat) : (s.setO o v i j).resvs = s.resvs := rfl
@[simp] theorem State.setO_dip (o : ObjDef) (v i j : Nat) : (s.setO o v i j).dip = s.dip := rfl
@[simp] theorem State.setO_thermSteps (o : ObjDef) (v i j : Nat) : (s.setO o v i j).thermSteps = s.thermSteps := rfl
@[simp] theorem State.setO_dipSteps (o : ObjDef) (v i j : Nat) : (s.setO o v i j).dipSteps = s.dipSteps := rfl
@[simp] theorem State.setO_fences (o : ObjDef) (v i j : Nat) : (s.setO o v i j).fences = s.fences := rfl
@[simp] theorem State.setO_ringHead (o : ObjDef) (v i j : Nat) : (s.setO o v i j).ringHead = s.ringHead := rfl
@[simp] theorem State.setO_thrs (o : ObjDef) (v i j : Nat) : (s.setO o v i j).thrs = s.thrs := rfl
@[simp] theorem State.setO_ports (o : ObjDef) (v i j : Nat) : (s.setO o v i j).ports = s.ports := rfl
@[simp] theorem State.setO_slots (o : ObjDef) (v i j : Nat) : (s.setO o v i j).slots = s.slots := rfl
@[simp] theorem State.setO_qps (o : ObjDef) (v i j : Nat) : (s.setO o v i j).qps = s.qps := rfl
@[simp] theorem State.setO_mrs (o : ObjDef) (v i j : Nat) : (s.setO o v i j).mrs = s.mrs := rfl
@[simp] theorem State.setO_sessions (o : ObjDef) (v i j : Nat) : (s.setO o v i j).sessions = s.sessions := rfl
@[simp] theorem State.setO_eths (o : ObjDef) (v i j : Nat) : (s.setO o v i j).eths = s.eths := rfl
@[simp] theorem State.setO_log (o : ObjDef) (v i j : Nat) : (s.setO o v i j).log = s.log := rfl
@[simp] theorem State.setO_fieldFirst (o : ObjDef) (v i j : Nat) : (s.setO o v i j).fieldFirst = s.fieldFirst := rfl
@[simp] theorem State.setO_fieldStamps (o : ObjDef) (v i j : Nat) : (s.setO o v i j).fieldStamps = s.fieldStamps := rfl
@[simp] theorem State.setO_flash (o : ObjDef) (v i j : Nat) : (s.setO o v i j).flash = s.flash := rfl
@[simp] theorem State.setO_fuses (o : ObjDef) (v i j : Nat) : (s.setO o v i j).fuses = s.fuses := rfl
@[simp] theorem State.setO_pins (o : ObjDef) (v i j : Nat) : (s.setO o v i j).pins = s.pins := rfl
@[simp] theorem State.setO_roceHeld (o : ObjDef) (v i j : Nat) : (s.setO o v i j).roceHeld = s.roceHeld := rfl
@[simp] theorem State.setO_helloSec (o : ObjDef) (v i j : Nat) : (s.setO o v i j).helloSec = s.helloSec := rfl
@[simp] theorem State.setO_resetAsked (o : ObjDef) (v i j : Nat) : (s.setO o v i j).resetAsked = s.resetAsked := rfl
@[simp] theorem State.setO_resetRun (o : ObjDef) (v i j : Nat) : (s.setO o v i j).resetRun = s.resetRun := rfl
@[simp] theorem State.setO_fallowStep (o : ObjDef) (v i j : Nat) : (s.setO o v i j).fallowStep = s.fallowStep := rfl
@[simp] theorem State.setO_storeRun (o : ObjDef) (v i j : Nat) : (s.setO o v i j).storeRun = s.storeRun := rfl
@[simp] theorem State.setO_storeSlot (o : ObjDef) (v i j : Nat) : (s.setO o v i j).storeSlot = s.storeSlot := rfl
@[simp] theorem State.setO_fwStage (o : ObjDef) (v i j : Nat) : (s.setO o v i j).fwStage = s.fwStage := rfl
@[simp] theorem State.setO_attestRun (o : ObjDef) (v i j : Nat) : (s.setO o v i j).attestRun = s.attestRun := rfl
@[simp] theorem State.setO_watchdogMs (o : ObjDef) (v i j : Nat) : (s.setO o v i j).watchdogMs = s.watchdogMs := rfl
@[simp] theorem State.setO_pllSince (o : ObjDef) (v i j : Nat) : (s.setO o v i j).pllSince = s.pllSince := rfl
@[simp] theorem State.setO_energyUj (o : ObjDef) (v i j : Nat) : (s.setO o v i j).energyUj = s.energyUj := rfl
@[simp] theorem State.setO_memLost (o : ObjDef) (v i j : Nat) : (s.setO o v i j).memLost = s.memLost := rfl
@[simp] theorem State.setO_udpPort (o : ObjDef) (v i j : Nat) : (s.setO o v i j).udpPort = s.udpPort := rfl
@[simp] theorem State.setO_memRate (o : ObjDef) (v i j : Nat) : (s.setO o v i j).memRate = s.memRate := rfl
@[simp] theorem State.setO_linkCfg (o : ObjDef) (v i j : Nat) : (s.setO o v i j).linkCfg = s.linkCfg := rfl

/-! ### `drew` -/

@[simp] theorem State.drew_pending : (s.drew).pending = s.pending := rfl
@[simp] theorem State.drew_out : (s.drew).out = s.out := rfl
@[simp] theorem State.drew_obj : (s.drew).obj = s.obj := rfl
@[simp] theorem State.drew_blob : (s.drew).blob = s.blob := rfl
@[simp] theorem State.drew_sel : (s.drew).sel = s.sel := rfl
@[simp] theorem State.drew_selBlob : (s.drew).selBlob = s.selBlob := rfl
@[simp] theorem State.drew_freeCtr : (s.drew).freeCtr = s.freeCtr + 1 := rfl
@[simp] theorem State.drew_mem : (s.drew).mem = s.mem := rfl
@[simp] theorem State.drew_chk : (s.drew).chk = s.chk := rfl
@[simp] theorem State.drew_vchk : (s.drew).vchk = s.vchk := rfl
@[simp] theorem State.drew_subch : (s.drew).subch = s.subch := rfl
@[simp] theorem State.drew_pkgTemp : (s.drew).pkgTemp = s.pkgTemp := rfl
@[simp] theorem State.drew_vreg : (s.drew).vreg = s.vreg := rfl
@[simp] theorem State.drew_mreg : (s.drew).mreg = s.mreg := rfl
@[simp] theorem State.drew_ctxs : (s.drew).ctxs = s.ctxs := rfl
@[simp] theorem State.drew_ops : (s.drew).ops = s.ops := rfl
@[simp] theorem State.drew_nextOp : (s.drew).nextOp = s.nextOp := rfl
@[simp] theorem State.drew_stopped : (s.drew).stopped = s.stopped := rfl
@[simp] theorem State.drew_sems : (s.drew).sems = s.sems := rfl
@[simp] theorem State.drew_unrec : (s.drew).unrec = s.unrec := rfl
@[simp] theorem State.drew_rings : (s.drew).rings = s.rings := rfl
@[simp] theorem State.drew_tables : (s.drew).tables = s.tables := rfl
@[simp] theorem State.drew_load : (s.drew).load = s.load := rfl
@[simp] theorem State.drew_alm : (s.drew).alm = s.alm := rfl
@[simp] theorem State.drew_stepRun : (s.drew).stepRun = s.stepRun := rfl
@[simp] theorem State.drew_stepDead : (s.drew).stepDead = s.stepDead := rfl
@[simp] theorem State.drew_stepQueue : (s.drew).stepQueue = s.stepQueue := rfl
@[simp] theorem State.drew_censusRecv : (s.drew).censusRecv = s.censusRecv := rfl
@[simp] theorem State.drew_updWait : (s.drew).updWait = s.updWait := rfl
@[simp] theorem State.drew_baleFrom : (s.drew).baleFrom = s.baleFrom := rfl
@[simp] theorem State.drew_balesDone : (s.drew).balesDone = s.balesDone := rfl
@[simp] theorem State.drew_balesAborted : (s.drew).balesAborted = s.balesAborted := rfl
@[simp] theorem State.drew_updDiscard : (s.drew).updDiscard = s.updDiscard := rfl
@[simp] theorem State.drew_wmax : (s.drew).wmax = s.wmax := rfl
@[simp] theorem State.drew_wsat : (s.drew).wsat = s.wsat := rfl
@[simp] theorem State.drew_abortedInStep : (s.drew).abortedInStep = s.abortedInStep := rfl
@[simp] theorem State.drew_earlyPkts : (s.drew).earlyPkts = s.earlyPkts := rfl
@[simp] theorem State.drew_leaveQ : (s.drew).leaveQ = s.leaveQ := rfl
@[simp] theorem State.drew_waited : (s.drew).waited = s.waited := rfl
@[simp] theorem State.drew_readyQ : (s.drew).readyQ = s.readyQ := rfl
@[simp] theorem State.drew_resvs : (s.drew).resvs = s.resvs := rfl
@[simp] theorem State.drew_dip : (s.drew).dip = s.dip := rfl
@[simp] theorem State.drew_thermSteps : (s.drew).thermSteps = s.thermSteps := rfl
@[simp] theorem State.drew_dipSteps : (s.drew).dipSteps = s.dipSteps := rfl
@[simp] theorem State.drew_fences : (s.drew).fences = s.fences := rfl
@[simp] theorem State.drew_ringHead : (s.drew).ringHead = s.ringHead := rfl
@[simp] theorem State.drew_thrs : (s.drew).thrs = s.thrs := rfl
@[simp] theorem State.drew_ports : (s.drew).ports = s.ports := rfl
@[simp] theorem State.drew_slots : (s.drew).slots = s.slots := rfl
@[simp] theorem State.drew_qps : (s.drew).qps = s.qps := rfl
@[simp] theorem State.drew_mrs : (s.drew).mrs = s.mrs := rfl
@[simp] theorem State.drew_sessions : (s.drew).sessions = s.sessions := rfl
@[simp] theorem State.drew_eths : (s.drew).eths = s.eths := rfl
@[simp] theorem State.drew_log : (s.drew).log = s.log := rfl
@[simp] theorem State.drew_fieldFirst : (s.drew).fieldFirst = s.fieldFirst := rfl
@[simp] theorem State.drew_fieldStamps : (s.drew).fieldStamps = s.fieldStamps := rfl
@[simp] theorem State.drew_flash : (s.drew).flash = s.flash := rfl
@[simp] theorem State.drew_fuses : (s.drew).fuses = s.fuses := rfl
@[simp] theorem State.drew_pins : (s.drew).pins = s.pins := rfl
@[simp] theorem State.drew_roceHeld : (s.drew).roceHeld = s.roceHeld := rfl
@[simp] theorem State.drew_helloSec : (s.drew).helloSec = s.helloSec := rfl
@[simp] theorem State.drew_resetAsked : (s.drew).resetAsked = s.resetAsked := rfl
@[simp] theorem State.drew_resetRun : (s.drew).resetRun = s.resetRun := rfl
@[simp] theorem State.drew_fallowStep : (s.drew).fallowStep = s.fallowStep := rfl
@[simp] theorem State.drew_storeRun : (s.drew).storeRun = s.storeRun := rfl
@[simp] theorem State.drew_storeSlot : (s.drew).storeSlot = s.storeSlot := rfl
@[simp] theorem State.drew_fwStage : (s.drew).fwStage = s.fwStage := rfl
@[simp] theorem State.drew_attestRun : (s.drew).attestRun = s.attestRun := rfl
@[simp] theorem State.drew_watchdogMs : (s.drew).watchdogMs = s.watchdogMs := rfl
@[simp] theorem State.drew_pllSince : (s.drew).pllSince = s.pllSince := rfl
@[simp] theorem State.drew_energyUj : (s.drew).energyUj = s.energyUj := rfl
@[simp] theorem State.drew_memLost : (s.drew).memLost = s.memLost := rfl
@[simp] theorem State.drew_udpPort : (s.drew).udpPort = s.udpPort := rfl
@[simp] theorem State.drew_memRate : (s.drew).memRate = s.memRate := rfl
@[simp] theorem State.drew_linkCfg : (s.drew).linkCfg = s.linkCfg := rfl

/-! ### `emit` -/

@[simp] theorem State.emit_pending (o : Output) : (s.emit o).pending = s.pending := rfl
@[simp] theorem State.emit_out (o : Output) : (s.emit o).out = s.out ++ [o] := rfl
@[simp] theorem State.emit_obj (o : Output) : (s.emit o).obj = s.obj := rfl
@[simp] theorem State.emit_blob (o : Output) : (s.emit o).blob = s.blob := rfl
@[simp] theorem State.emit_sel (o : Output) : (s.emit o).sel = s.sel := rfl
@[simp] theorem State.emit_selBlob (o : Output) : (s.emit o).selBlob = s.selBlob := rfl
@[simp] theorem State.emit_freeCtr (o : Output) : (s.emit o).freeCtr = s.freeCtr := rfl
@[simp] theorem State.emit_mem (o : Output) : (s.emit o).mem = s.mem := rfl
@[simp] theorem State.emit_chk (o : Output) : (s.emit o).chk = s.chk := rfl
@[simp] theorem State.emit_vchk (o : Output) : (s.emit o).vchk = s.vchk := rfl
@[simp] theorem State.emit_subch (o : Output) : (s.emit o).subch = s.subch := rfl
@[simp] theorem State.emit_pkgTemp (o : Output) : (s.emit o).pkgTemp = s.pkgTemp := rfl
@[simp] theorem State.emit_vreg (o : Output) : (s.emit o).vreg = s.vreg := rfl
@[simp] theorem State.emit_mreg (o : Output) : (s.emit o).mreg = s.mreg := rfl
@[simp] theorem State.emit_ctxs (o : Output) : (s.emit o).ctxs = s.ctxs := rfl
@[simp] theorem State.emit_ops (o : Output) : (s.emit o).ops = s.ops := rfl
@[simp] theorem State.emit_nextOp (o : Output) : (s.emit o).nextOp = s.nextOp := rfl
@[simp] theorem State.emit_stopped (o : Output) : (s.emit o).stopped = s.stopped := rfl
@[simp] theorem State.emit_sems (o : Output) : (s.emit o).sems = s.sems := rfl
@[simp] theorem State.emit_unrec (o : Output) : (s.emit o).unrec = s.unrec := rfl
@[simp] theorem State.emit_rings (o : Output) : (s.emit o).rings = s.rings := rfl
@[simp] theorem State.emit_tables (o : Output) : (s.emit o).tables = s.tables := rfl
@[simp] theorem State.emit_load (o : Output) : (s.emit o).load = s.load := rfl
@[simp] theorem State.emit_alm (o : Output) : (s.emit o).alm = s.alm := rfl
@[simp] theorem State.emit_stepRun (o : Output) : (s.emit o).stepRun = s.stepRun := rfl
@[simp] theorem State.emit_stepDead (o : Output) : (s.emit o).stepDead = s.stepDead := rfl
@[simp] theorem State.emit_stepQueue (o : Output) : (s.emit o).stepQueue = s.stepQueue := rfl
@[simp] theorem State.emit_censusRecv (o : Output) : (s.emit o).censusRecv = s.censusRecv := rfl
@[simp] theorem State.emit_updWait (o : Output) : (s.emit o).updWait = s.updWait := rfl
@[simp] theorem State.emit_baleFrom (o : Output) : (s.emit o).baleFrom = s.baleFrom := rfl
@[simp] theorem State.emit_balesDone (o : Output) : (s.emit o).balesDone = s.balesDone := rfl
@[simp] theorem State.emit_balesAborted (o : Output) : (s.emit o).balesAborted = s.balesAborted := rfl
@[simp] theorem State.emit_updDiscard (o : Output) : (s.emit o).updDiscard = s.updDiscard := rfl
@[simp] theorem State.emit_wmax (o : Output) : (s.emit o).wmax = s.wmax := rfl
@[simp] theorem State.emit_wsat (o : Output) : (s.emit o).wsat = s.wsat := rfl
@[simp] theorem State.emit_abortedInStep (o : Output) : (s.emit o).abortedInStep = s.abortedInStep := rfl
@[simp] theorem State.emit_earlyPkts (o : Output) : (s.emit o).earlyPkts = s.earlyPkts := rfl
@[simp] theorem State.emit_leaveQ (o : Output) : (s.emit o).leaveQ = s.leaveQ := rfl
@[simp] theorem State.emit_waited (o : Output) : (s.emit o).waited = s.waited := rfl
@[simp] theorem State.emit_readyQ (o : Output) : (s.emit o).readyQ = s.readyQ := rfl
@[simp] theorem State.emit_resvs (o : Output) : (s.emit o).resvs = s.resvs := rfl
@[simp] theorem State.emit_dip (o : Output) : (s.emit o).dip = s.dip := rfl
@[simp] theorem State.emit_thermSteps (o : Output) : (s.emit o).thermSteps = s.thermSteps := rfl
@[simp] theorem State.emit_dipSteps (o : Output) : (s.emit o).dipSteps = s.dipSteps := rfl
@[simp] theorem State.emit_fences (o : Output) : (s.emit o).fences = s.fences := rfl
@[simp] theorem State.emit_ringHead (o : Output) : (s.emit o).ringHead = s.ringHead := rfl
@[simp] theorem State.emit_thrs (o : Output) : (s.emit o).thrs = s.thrs := rfl
@[simp] theorem State.emit_ports (o : Output) : (s.emit o).ports = s.ports := rfl
@[simp] theorem State.emit_slots (o : Output) : (s.emit o).slots = s.slots := rfl
@[simp] theorem State.emit_qps (o : Output) : (s.emit o).qps = s.qps := rfl
@[simp] theorem State.emit_mrs (o : Output) : (s.emit o).mrs = s.mrs := rfl
@[simp] theorem State.emit_sessions (o : Output) : (s.emit o).sessions = s.sessions := rfl
@[simp] theorem State.emit_eths (o : Output) : (s.emit o).eths = s.eths := rfl
@[simp] theorem State.emit_log (o : Output) : (s.emit o).log = s.log := rfl
@[simp] theorem State.emit_fieldFirst (o : Output) : (s.emit o).fieldFirst = s.fieldFirst := rfl
@[simp] theorem State.emit_fieldStamps (o : Output) : (s.emit o).fieldStamps = s.fieldStamps := rfl
@[simp] theorem State.emit_flash (o : Output) : (s.emit o).flash = s.flash := rfl
@[simp] theorem State.emit_fuses (o : Output) : (s.emit o).fuses = s.fuses := rfl
@[simp] theorem State.emit_pins (o : Output) : (s.emit o).pins = s.pins := rfl
@[simp] theorem State.emit_roceHeld (o : Output) : (s.emit o).roceHeld = s.roceHeld := rfl
@[simp] theorem State.emit_helloSec (o : Output) : (s.emit o).helloSec = s.helloSec := rfl
@[simp] theorem State.emit_resetAsked (o : Output) : (s.emit o).resetAsked = s.resetAsked := rfl
@[simp] theorem State.emit_resetRun (o : Output) : (s.emit o).resetRun = s.resetRun := rfl
@[simp] theorem State.emit_fallowStep (o : Output) : (s.emit o).fallowStep = s.fallowStep := rfl
@[simp] theorem State.emit_storeRun (o : Output) : (s.emit o).storeRun = s.storeRun := rfl
@[simp] theorem State.emit_storeSlot (o : Output) : (s.emit o).storeSlot = s.storeSlot := rfl
@[simp] theorem State.emit_fwStage (o : Output) : (s.emit o).fwStage = s.fwStage := rfl
@[simp] theorem State.emit_attestRun (o : Output) : (s.emit o).attestRun = s.attestRun := rfl
@[simp] theorem State.emit_watchdogMs (o : Output) : (s.emit o).watchdogMs = s.watchdogMs := rfl
@[simp] theorem State.emit_pllSince (o : Output) : (s.emit o).pllSince = s.pllSince := rfl
@[simp] theorem State.emit_energyUj (o : Output) : (s.emit o).energyUj = s.energyUj := rfl
@[simp] theorem State.emit_memLost (o : Output) : (s.emit o).memLost = s.memLost := rfl
@[simp] theorem State.emit_udpPort (o : Output) : (s.emit o).udpPort = s.udpPort := rfl
@[simp] theorem State.emit_memRate (o : Output) : (s.emit o).memRate = s.memRate := rfl
@[simp] theorem State.emit_linkCfg (o : Output) : (s.emit o).linkCfg = s.linkCfg := rfl

/-! ### `setByte` -/

@[simp] theorem State.setByte_pending (a : Nat) (b : Byte) : (s.setByte a b).pending = s.pending := rfl
@[simp] theorem State.setByte_out (a : Nat) (b : Byte) : (s.setByte a b).out = s.out := rfl
@[simp] theorem State.setByte_obj (a : Nat) (b : Byte) : (s.setByte a b).obj = s.obj := rfl
@[simp] theorem State.setByte_blob (a : Nat) (b : Byte) : (s.setByte a b).blob = s.blob := rfl
@[simp] theorem State.setByte_sel (a : Nat) (b : Byte) : (s.setByte a b).sel = s.sel := rfl
@[simp] theorem State.setByte_selBlob (a : Nat) (b : Byte) : (s.setByte a b).selBlob = s.selBlob := rfl
@[simp] theorem State.setByte_freeCtr (a : Nat) (b : Byte) : (s.setByte a b).freeCtr = s.freeCtr := rfl
@[simp] theorem State.setByte_mem (a : Nat) (b : Byte) : (s.setByte a b).mem = SMap.set 0 s.mem a b := rfl
@[simp] theorem State.setByte_chk (a : Nat) (b : Byte) : (s.setByte a b).chk = s.chk := rfl
@[simp] theorem State.setByte_vchk (a : Nat) (b : Byte) : (s.setByte a b).vchk = s.vchk := rfl
@[simp] theorem State.setByte_subch (a : Nat) (b : Byte) : (s.setByte a b).subch = s.subch := rfl
@[simp] theorem State.setByte_pkgTemp (a : Nat) (b : Byte) : (s.setByte a b).pkgTemp = s.pkgTemp := rfl
@[simp] theorem State.setByte_vreg (a : Nat) (b : Byte) : (s.setByte a b).vreg = s.vreg := rfl
@[simp] theorem State.setByte_mreg (a : Nat) (b : Byte) : (s.setByte a b).mreg = s.mreg := rfl
@[simp] theorem State.setByte_ctxs (a : Nat) (b : Byte) : (s.setByte a b).ctxs = s.ctxs := rfl
@[simp] theorem State.setByte_ops (a : Nat) (b : Byte) : (s.setByte a b).ops = s.ops := rfl
@[simp] theorem State.setByte_nextOp (a : Nat) (b : Byte) : (s.setByte a b).nextOp = s.nextOp := rfl
@[simp] theorem State.setByte_stopped (a : Nat) (b : Byte) : (s.setByte a b).stopped = s.stopped := rfl
@[simp] theorem State.setByte_sems (a : Nat) (b : Byte) : (s.setByte a b).sems = s.sems := rfl
@[simp] theorem State.setByte_unrec (a : Nat) (b : Byte) : (s.setByte a b).unrec = s.unrec := rfl
@[simp] theorem State.setByte_rings (a : Nat) (b : Byte) : (s.setByte a b).rings = s.rings := rfl
@[simp] theorem State.setByte_tables (a : Nat) (b : Byte) : (s.setByte a b).tables = s.tables := rfl
@[simp] theorem State.setByte_load (a : Nat) (b : Byte) : (s.setByte a b).load = s.load := rfl
@[simp] theorem State.setByte_alm (a : Nat) (b : Byte) : (s.setByte a b).alm = s.alm := rfl
@[simp] theorem State.setByte_stepRun (a : Nat) (b : Byte) : (s.setByte a b).stepRun = s.stepRun := rfl
@[simp] theorem State.setByte_stepDead (a : Nat) (b : Byte) : (s.setByte a b).stepDead = s.stepDead := rfl
@[simp] theorem State.setByte_stepQueue (a : Nat) (b : Byte) : (s.setByte a b).stepQueue = s.stepQueue := rfl
@[simp] theorem State.setByte_censusRecv (a : Nat) (b : Byte) : (s.setByte a b).censusRecv = s.censusRecv := rfl
@[simp] theorem State.setByte_updWait (a : Nat) (b : Byte) : (s.setByte a b).updWait = s.updWait := rfl
@[simp] theorem State.setByte_baleFrom (a : Nat) (b : Byte) : (s.setByte a b).baleFrom = s.baleFrom := rfl
@[simp] theorem State.setByte_balesDone (a : Nat) (b : Byte) : (s.setByte a b).balesDone = s.balesDone := rfl
@[simp] theorem State.setByte_balesAborted (a : Nat) (b : Byte) : (s.setByte a b).balesAborted = s.balesAborted := rfl
@[simp] theorem State.setByte_updDiscard (a : Nat) (b : Byte) : (s.setByte a b).updDiscard = s.updDiscard := rfl
@[simp] theorem State.setByte_wmax (a : Nat) (b : Byte) : (s.setByte a b).wmax = s.wmax := rfl
@[simp] theorem State.setByte_wsat (a : Nat) (b : Byte) : (s.setByte a b).wsat = s.wsat := rfl
@[simp] theorem State.setByte_abortedInStep (a : Nat) (b : Byte) : (s.setByte a b).abortedInStep = s.abortedInStep := rfl
@[simp] theorem State.setByte_earlyPkts (a : Nat) (b : Byte) : (s.setByte a b).earlyPkts = s.earlyPkts := rfl
@[simp] theorem State.setByte_leaveQ (a : Nat) (b : Byte) : (s.setByte a b).leaveQ = s.leaveQ := rfl
@[simp] theorem State.setByte_waited (a : Nat) (b : Byte) : (s.setByte a b).waited = s.waited := rfl
@[simp] theorem State.setByte_readyQ (a : Nat) (b : Byte) : (s.setByte a b).readyQ = s.readyQ := rfl
@[simp] theorem State.setByte_resvs (a : Nat) (b : Byte) : (s.setByte a b).resvs = s.resvs := rfl
@[simp] theorem State.setByte_dip (a : Nat) (b : Byte) : (s.setByte a b).dip = s.dip := rfl
@[simp] theorem State.setByte_thermSteps (a : Nat) (b : Byte) : (s.setByte a b).thermSteps = s.thermSteps := rfl
@[simp] theorem State.setByte_dipSteps (a : Nat) (b : Byte) : (s.setByte a b).dipSteps = s.dipSteps := rfl
@[simp] theorem State.setByte_fences (a : Nat) (b : Byte) : (s.setByte a b).fences = s.fences := rfl
@[simp] theorem State.setByte_ringHead (a : Nat) (b : Byte) : (s.setByte a b).ringHead = s.ringHead := rfl
@[simp] theorem State.setByte_thrs (a : Nat) (b : Byte) : (s.setByte a b).thrs = s.thrs := rfl
@[simp] theorem State.setByte_ports (a : Nat) (b : Byte) : (s.setByte a b).ports = s.ports := rfl
@[simp] theorem State.setByte_slots (a : Nat) (b : Byte) : (s.setByte a b).slots = s.slots := rfl
@[simp] theorem State.setByte_qps (a : Nat) (b : Byte) : (s.setByte a b).qps = s.qps := rfl
@[simp] theorem State.setByte_mrs (a : Nat) (b : Byte) : (s.setByte a b).mrs = s.mrs := rfl
@[simp] theorem State.setByte_sessions (a : Nat) (b : Byte) : (s.setByte a b).sessions = s.sessions := rfl
@[simp] theorem State.setByte_eths (a : Nat) (b : Byte) : (s.setByte a b).eths = s.eths := rfl
@[simp] theorem State.setByte_log (a : Nat) (b : Byte) : (s.setByte a b).log = s.log := rfl
@[simp] theorem State.setByte_fieldFirst (a : Nat) (b : Byte) : (s.setByte a b).fieldFirst = s.fieldFirst := rfl
@[simp] theorem State.setByte_fieldStamps (a : Nat) (b : Byte) : (s.setByte a b).fieldStamps = s.fieldStamps := rfl
@[simp] theorem State.setByte_flash (a : Nat) (b : Byte) : (s.setByte a b).flash = s.flash := rfl
@[simp] theorem State.setByte_fuses (a : Nat) (b : Byte) : (s.setByte a b).fuses = s.fuses := rfl
@[simp] theorem State.setByte_pins (a : Nat) (b : Byte) : (s.setByte a b).pins = s.pins := rfl
@[simp] theorem State.setByte_roceHeld (a : Nat) (b : Byte) : (s.setByte a b).roceHeld = s.roceHeld := rfl
@[simp] theorem State.setByte_helloSec (a : Nat) (b : Byte) : (s.setByte a b).helloSec = s.helloSec := rfl
@[simp] theorem State.setByte_resetAsked (a : Nat) (b : Byte) : (s.setByte a b).resetAsked = s.resetAsked := rfl
@[simp] theorem State.setByte_resetRun (a : Nat) (b : Byte) : (s.setByte a b).resetRun = s.resetRun := rfl
@[simp] theorem State.setByte_fallowStep (a : Nat) (b : Byte) : (s.setByte a b).fallowStep = s.fallowStep := rfl
@[simp] theorem State.setByte_storeRun (a : Nat) (b : Byte) : (s.setByte a b).storeRun = s.storeRun := rfl
@[simp] theorem State.setByte_storeSlot (a : Nat) (b : Byte) : (s.setByte a b).storeSlot = s.storeSlot := rfl
@[simp] theorem State.setByte_fwStage (a : Nat) (b : Byte) : (s.setByte a b).fwStage = s.fwStage := rfl
@[simp] theorem State.setByte_attestRun (a : Nat) (b : Byte) : (s.setByte a b).attestRun = s.attestRun := rfl
@[simp] theorem State.setByte_watchdogMs (a : Nat) (b : Byte) : (s.setByte a b).watchdogMs = s.watchdogMs := rfl
@[simp] theorem State.setByte_pllSince (a : Nat) (b : Byte) : (s.setByte a b).pllSince = s.pllSince := rfl
@[simp] theorem State.setByte_energyUj (a : Nat) (b : Byte) : (s.setByte a b).energyUj = s.energyUj := rfl
@[simp] theorem State.setByte_memLost (a : Nat) (b : Byte) : (s.setByte a b).memLost = s.memLost := rfl
@[simp] theorem State.setByte_udpPort (a : Nat) (b : Byte) : (s.setByte a b).udpPort = s.udpPort := rfl
@[simp] theorem State.setByte_memRate (a : Nat) (b : Byte) : (s.setByte a b).memRate = s.memRate := rfl
@[simp] theorem State.setByte_linkCfg (a : Nat) (b : Byte) : (s.setByte a b).linkCfg = s.linkCfg := rfl

/-! ### `poke` -/

@[simp] theorem State.poke_pending (a : Nat) (bs : List Byte) : (s.poke a bs).pending = s.pending := rfl
@[simp] theorem State.poke_out (a : Nat) (bs : List Byte) : (s.poke a bs).out = s.out := rfl
@[simp] theorem State.poke_obj (a : Nat) (bs : List Byte) : (s.poke a bs).obj = s.obj := rfl
@[simp] theorem State.poke_blob (a : Nat) (bs : List Byte) : (s.poke a bs).blob = s.blob := rfl
@[simp] theorem State.poke_sel (a : Nat) (bs : List Byte) : (s.poke a bs).sel = s.sel := rfl
@[simp] theorem State.poke_selBlob (a : Nat) (bs : List Byte) : (s.poke a bs).selBlob = s.selBlob := rfl
@[simp] theorem State.poke_freeCtr (a : Nat) (bs : List Byte) : (s.poke a bs).freeCtr = s.freeCtr := rfl
@[simp] theorem State.poke_mem (a : Nat) (bs : List Byte) : (s.poke a bs).mem = putBytes s.mem a bs := rfl
@[simp] theorem State.poke_chk (a : Nat) (bs : List Byte) : (s.poke a bs).chk = s.chk := rfl
@[simp] theorem State.poke_vchk (a : Nat) (bs : List Byte) : (s.poke a bs).vchk = s.vchk := rfl
@[simp] theorem State.poke_subch (a : Nat) (bs : List Byte) : (s.poke a bs).subch = s.subch := rfl
@[simp] theorem State.poke_pkgTemp (a : Nat) (bs : List Byte) : (s.poke a bs).pkgTemp = s.pkgTemp := rfl
@[simp] theorem State.poke_vreg (a : Nat) (bs : List Byte) : (s.poke a bs).vreg = s.vreg := rfl
@[simp] theorem State.poke_mreg (a : Nat) (bs : List Byte) : (s.poke a bs).mreg = s.mreg := rfl
@[simp] theorem State.poke_ctxs (a : Nat) (bs : List Byte) : (s.poke a bs).ctxs = s.ctxs := rfl
@[simp] theorem State.poke_ops (a : Nat) (bs : List Byte) : (s.poke a bs).ops = s.ops := rfl
@[simp] theorem State.poke_nextOp (a : Nat) (bs : List Byte) : (s.poke a bs).nextOp = s.nextOp := rfl
@[simp] theorem State.poke_stopped (a : Nat) (bs : List Byte) : (s.poke a bs).stopped = s.stopped := rfl
@[simp] theorem State.poke_sems (a : Nat) (bs : List Byte) : (s.poke a bs).sems = s.sems := rfl
@[simp] theorem State.poke_unrec (a : Nat) (bs : List Byte) : (s.poke a bs).unrec = s.unrec := rfl
@[simp] theorem State.poke_rings (a : Nat) (bs : List Byte) : (s.poke a bs).rings = s.rings := rfl
@[simp] theorem State.poke_tables (a : Nat) (bs : List Byte) : (s.poke a bs).tables = s.tables := rfl
@[simp] theorem State.poke_load (a : Nat) (bs : List Byte) : (s.poke a bs).load = s.load := rfl
@[simp] theorem State.poke_alm (a : Nat) (bs : List Byte) : (s.poke a bs).alm = s.alm := rfl
@[simp] theorem State.poke_stepRun (a : Nat) (bs : List Byte) : (s.poke a bs).stepRun = s.stepRun := rfl
@[simp] theorem State.poke_stepDead (a : Nat) (bs : List Byte) : (s.poke a bs).stepDead = s.stepDead := rfl
@[simp] theorem State.poke_stepQueue (a : Nat) (bs : List Byte) : (s.poke a bs).stepQueue = s.stepQueue := rfl
@[simp] theorem State.poke_censusRecv (a : Nat) (bs : List Byte) : (s.poke a bs).censusRecv = s.censusRecv := rfl
@[simp] theorem State.poke_updWait (a : Nat) (bs : List Byte) : (s.poke a bs).updWait = s.updWait := rfl
@[simp] theorem State.poke_baleFrom (a : Nat) (bs : List Byte) : (s.poke a bs).baleFrom = s.baleFrom := rfl
@[simp] theorem State.poke_balesDone (a : Nat) (bs : List Byte) : (s.poke a bs).balesDone = s.balesDone := rfl
@[simp] theorem State.poke_balesAborted (a : Nat) (bs : List Byte) : (s.poke a bs).balesAborted = s.balesAborted := rfl
@[simp] theorem State.poke_updDiscard (a : Nat) (bs : List Byte) : (s.poke a bs).updDiscard = s.updDiscard := rfl
@[simp] theorem State.poke_wmax (a : Nat) (bs : List Byte) : (s.poke a bs).wmax = s.wmax := rfl
@[simp] theorem State.poke_wsat (a : Nat) (bs : List Byte) : (s.poke a bs).wsat = s.wsat := rfl
@[simp] theorem State.poke_abortedInStep (a : Nat) (bs : List Byte) : (s.poke a bs).abortedInStep = s.abortedInStep := rfl
@[simp] theorem State.poke_earlyPkts (a : Nat) (bs : List Byte) : (s.poke a bs).earlyPkts = s.earlyPkts := rfl
@[simp] theorem State.poke_leaveQ (a : Nat) (bs : List Byte) : (s.poke a bs).leaveQ = s.leaveQ := rfl
@[simp] theorem State.poke_waited (a : Nat) (bs : List Byte) : (s.poke a bs).waited = s.waited := rfl
@[simp] theorem State.poke_readyQ (a : Nat) (bs : List Byte) : (s.poke a bs).readyQ = s.readyQ := rfl
@[simp] theorem State.poke_resvs (a : Nat) (bs : List Byte) : (s.poke a bs).resvs = s.resvs := rfl
@[simp] theorem State.poke_dip (a : Nat) (bs : List Byte) : (s.poke a bs).dip = s.dip := rfl
@[simp] theorem State.poke_thermSteps (a : Nat) (bs : List Byte) : (s.poke a bs).thermSteps = s.thermSteps := rfl
@[simp] theorem State.poke_dipSteps (a : Nat) (bs : List Byte) : (s.poke a bs).dipSteps = s.dipSteps := rfl
@[simp] theorem State.poke_fences (a : Nat) (bs : List Byte) : (s.poke a bs).fences = s.fences := rfl
@[simp] theorem State.poke_ringHead (a : Nat) (bs : List Byte) : (s.poke a bs).ringHead = s.ringHead := rfl
@[simp] theorem State.poke_thrs (a : Nat) (bs : List Byte) : (s.poke a bs).thrs = s.thrs := rfl
@[simp] theorem State.poke_ports (a : Nat) (bs : List Byte) : (s.poke a bs).ports = s.ports := rfl
@[simp] theorem State.poke_slots (a : Nat) (bs : List Byte) : (s.poke a bs).slots = s.slots := rfl
@[simp] theorem State.poke_qps (a : Nat) (bs : List Byte) : (s.poke a bs).qps = s.qps := rfl
@[simp] theorem State.poke_mrs (a : Nat) (bs : List Byte) : (s.poke a bs).mrs = s.mrs := rfl
@[simp] theorem State.poke_sessions (a : Nat) (bs : List Byte) : (s.poke a bs).sessions = s.sessions := rfl
@[simp] theorem State.poke_eths (a : Nat) (bs : List Byte) : (s.poke a bs).eths = s.eths := rfl
@[simp] theorem State.poke_log (a : Nat) (bs : List Byte) : (s.poke a bs).log = s.log := rfl
@[simp] theorem State.poke_fieldFirst (a : Nat) (bs : List Byte) : (s.poke a bs).fieldFirst = s.fieldFirst := rfl
@[simp] theorem State.poke_fieldStamps (a : Nat) (bs : List Byte) : (s.poke a bs).fieldStamps = s.fieldStamps := rfl
@[simp] theorem State.poke_flash (a : Nat) (bs : List Byte) : (s.poke a bs).flash = s.flash := rfl
@[simp] theorem State.poke_fuses (a : Nat) (bs : List Byte) : (s.poke a bs).fuses = s.fuses := rfl
@[simp] theorem State.poke_pins (a : Nat) (bs : List Byte) : (s.poke a bs).pins = s.pins := rfl
@[simp] theorem State.poke_roceHeld (a : Nat) (bs : List Byte) : (s.poke a bs).roceHeld = s.roceHeld := rfl
@[simp] theorem State.poke_helloSec (a : Nat) (bs : List Byte) : (s.poke a bs).helloSec = s.helloSec := rfl
@[simp] theorem State.poke_resetAsked (a : Nat) (bs : List Byte) : (s.poke a bs).resetAsked = s.resetAsked := rfl
@[simp] theorem State.poke_resetRun (a : Nat) (bs : List Byte) : (s.poke a bs).resetRun = s.resetRun := rfl
@[simp] theorem State.poke_fallowStep (a : Nat) (bs : List Byte) : (s.poke a bs).fallowStep = s.fallowStep := rfl
@[simp] theorem State.poke_storeRun (a : Nat) (bs : List Byte) : (s.poke a bs).storeRun = s.storeRun := rfl
@[simp] theorem State.poke_storeSlot (a : Nat) (bs : List Byte) : (s.poke a bs).storeSlot = s.storeSlot := rfl
@[simp] theorem State.poke_fwStage (a : Nat) (bs : List Byte) : (s.poke a bs).fwStage = s.fwStage := rfl
@[simp] theorem State.poke_attestRun (a : Nat) (bs : List Byte) : (s.poke a bs).attestRun = s.attestRun := rfl
@[simp] theorem State.poke_watchdogMs (a : Nat) (bs : List Byte) : (s.poke a bs).watchdogMs = s.watchdogMs := rfl
@[simp] theorem State.poke_pllSince (a : Nat) (bs : List Byte) : (s.poke a bs).pllSince = s.pllSince := rfl
@[simp] theorem State.poke_energyUj (a : Nat) (bs : List Byte) : (s.poke a bs).energyUj = s.energyUj := rfl
@[simp] theorem State.poke_memLost (a : Nat) (bs : List Byte) : (s.poke a bs).memLost = s.memLost := rfl
@[simp] theorem State.poke_udpPort (a : Nat) (bs : List Byte) : (s.poke a bs).udpPort = s.udpPort := rfl
@[simp] theorem State.poke_memRate (a : Nat) (bs : List Byte) : (s.poke a bs).memRate = s.memRate := rfl
@[simp] theorem State.poke_linkCfg (a : Nat) (bs : List Byte) : (s.poke a bs).linkCfg = s.linkCfg := rfl

/-! ### `setPort` -/

@[simp] theorem State.setPort_pending (p : Nat) (x : Port) : (s.setPort p x).pending = s.pending := rfl
@[simp] theorem State.setPort_out (p : Nat) (x : Port) : (s.setPort p x).out = s.out := rfl
@[simp] theorem State.setPort_obj (p : Nat) (x : Port) : (s.setPort p x).obj = s.obj := rfl
@[simp] theorem State.setPort_blob (p : Nat) (x : Port) : (s.setPort p x).blob = s.blob := rfl
@[simp] theorem State.setPort_sel (p : Nat) (x : Port) : (s.setPort p x).sel = s.sel := rfl
@[simp] theorem State.setPort_selBlob (p : Nat) (x : Port) : (s.setPort p x).selBlob = s.selBlob := rfl
@[simp] theorem State.setPort_freeCtr (p : Nat) (x : Port) : (s.setPort p x).freeCtr = s.freeCtr := rfl
@[simp] theorem State.setPort_mem (p : Nat) (x : Port) : (s.setPort p x).mem = s.mem := rfl
@[simp] theorem State.setPort_chk (p : Nat) (x : Port) : (s.setPort p x).chk = s.chk := rfl
@[simp] theorem State.setPort_vchk (p : Nat) (x : Port) : (s.setPort p x).vchk = s.vchk := rfl
@[simp] theorem State.setPort_subch (p : Nat) (x : Port) : (s.setPort p x).subch = s.subch := rfl
@[simp] theorem State.setPort_pkgTemp (p : Nat) (x : Port) : (s.setPort p x).pkgTemp = s.pkgTemp := rfl
@[simp] theorem State.setPort_vreg (p : Nat) (x : Port) : (s.setPort p x).vreg = s.vreg := rfl
@[simp] theorem State.setPort_mreg (p : Nat) (x : Port) : (s.setPort p x).mreg = s.mreg := rfl
@[simp] theorem State.setPort_ctxs (p : Nat) (x : Port) : (s.setPort p x).ctxs = s.ctxs := rfl
@[simp] theorem State.setPort_ops (p : Nat) (x : Port) : (s.setPort p x).ops = s.ops := rfl
@[simp] theorem State.setPort_nextOp (p : Nat) (x : Port) : (s.setPort p x).nextOp = s.nextOp := rfl
@[simp] theorem State.setPort_stopped (p : Nat) (x : Port) : (s.setPort p x).stopped = s.stopped := rfl
@[simp] theorem State.setPort_sems (p : Nat) (x : Port) : (s.setPort p x).sems = s.sems := rfl
@[simp] theorem State.setPort_unrec (p : Nat) (x : Port) : (s.setPort p x).unrec = s.unrec := rfl
@[simp] theorem State.setPort_rings (p : Nat) (x : Port) : (s.setPort p x).rings = s.rings := rfl
@[simp] theorem State.setPort_tables (p : Nat) (x : Port) : (s.setPort p x).tables = s.tables := rfl
@[simp] theorem State.setPort_load (p : Nat) (x : Port) : (s.setPort p x).load = s.load := rfl
@[simp] theorem State.setPort_alm (p : Nat) (x : Port) : (s.setPort p x).alm = s.alm := rfl
@[simp] theorem State.setPort_stepRun (p : Nat) (x : Port) : (s.setPort p x).stepRun = s.stepRun := rfl
@[simp] theorem State.setPort_stepDead (p : Nat) (x : Port) : (s.setPort p x).stepDead = s.stepDead := rfl
@[simp] theorem State.setPort_stepQueue (p : Nat) (x : Port) : (s.setPort p x).stepQueue = s.stepQueue := rfl
@[simp] theorem State.setPort_censusRecv (p : Nat) (x : Port) : (s.setPort p x).censusRecv = s.censusRecv := rfl
@[simp] theorem State.setPort_updWait (p : Nat) (x : Port) : (s.setPort p x).updWait = s.updWait := rfl
@[simp] theorem State.setPort_baleFrom (p : Nat) (x : Port) : (s.setPort p x).baleFrom = s.baleFrom := rfl
@[simp] theorem State.setPort_balesDone (p : Nat) (x : Port) : (s.setPort p x).balesDone = s.balesDone := rfl
@[simp] theorem State.setPort_balesAborted (p : Nat) (x : Port) : (s.setPort p x).balesAborted = s.balesAborted := rfl
@[simp] theorem State.setPort_updDiscard (p : Nat) (x : Port) : (s.setPort p x).updDiscard = s.updDiscard := rfl
@[simp] theorem State.setPort_wmax (p : Nat) (x : Port) : (s.setPort p x).wmax = s.wmax := rfl
@[simp] theorem State.setPort_wsat (p : Nat) (x : Port) : (s.setPort p x).wsat = s.wsat := rfl
@[simp] theorem State.setPort_abortedInStep (p : Nat) (x : Port) : (s.setPort p x).abortedInStep = s.abortedInStep := rfl
@[simp] theorem State.setPort_earlyPkts (p : Nat) (x : Port) : (s.setPort p x).earlyPkts = s.earlyPkts := rfl
@[simp] theorem State.setPort_leaveQ (p : Nat) (x : Port) : (s.setPort p x).leaveQ = s.leaveQ := rfl
@[simp] theorem State.setPort_waited (p : Nat) (x : Port) : (s.setPort p x).waited = s.waited := rfl
@[simp] theorem State.setPort_readyQ (p : Nat) (x : Port) : (s.setPort p x).readyQ = s.readyQ := rfl
@[simp] theorem State.setPort_resvs (p : Nat) (x : Port) : (s.setPort p x).resvs = s.resvs := rfl
@[simp] theorem State.setPort_dip (p : Nat) (x : Port) : (s.setPort p x).dip = s.dip := rfl
@[simp] theorem State.setPort_thermSteps (p : Nat) (x : Port) : (s.setPort p x).thermSteps = s.thermSteps := rfl
@[simp] theorem State.setPort_dipSteps (p : Nat) (x : Port) : (s.setPort p x).dipSteps = s.dipSteps := rfl
@[simp] theorem State.setPort_fences (p : Nat) (x : Port) : (s.setPort p x).fences = s.fences := rfl
@[simp] theorem State.setPort_ringHead (p : Nat) (x : Port) : (s.setPort p x).ringHead = s.ringHead := rfl
@[simp] theorem State.setPort_thrs (p : Nat) (x : Port) : (s.setPort p x).thrs = s.thrs := rfl
@[simp] theorem State.setPort_ports (p : Nat) (x : Port) : (s.setPort p x).ports = SMap.set {} s.ports p x := rfl
@[simp] theorem State.setPort_slots (p : Nat) (x : Port) : (s.setPort p x).slots = s.slots := rfl
@[simp] theorem State.setPort_qps (p : Nat) (x : Port) : (s.setPort p x).qps = s.qps := rfl
@[simp] theorem State.setPort_mrs (p : Nat) (x : Port) : (s.setPort p x).mrs = s.mrs := rfl
@[simp] theorem State.setPort_sessions (p : Nat) (x : Port) : (s.setPort p x).sessions = s.sessions := rfl
@[simp] theorem State.setPort_eths (p : Nat) (x : Port) : (s.setPort p x).eths = s.eths := rfl
@[simp] theorem State.setPort_log (p : Nat) (x : Port) : (s.setPort p x).log = s.log := rfl
@[simp] theorem State.setPort_fieldFirst (p : Nat) (x : Port) : (s.setPort p x).fieldFirst = s.fieldFirst := rfl
@[simp] theorem State.setPort_fieldStamps (p : Nat) (x : Port) : (s.setPort p x).fieldStamps = s.fieldStamps := rfl
@[simp] theorem State.setPort_flash (p : Nat) (x : Port) : (s.setPort p x).flash = s.flash := rfl
@[simp] theorem State.setPort_fuses (p : Nat) (x : Port) : (s.setPort p x).fuses = s.fuses := rfl
@[simp] theorem State.setPort_pins (p : Nat) (x : Port) : (s.setPort p x).pins = s.pins := rfl
@[simp] theorem State.setPort_roceHeld (p : Nat) (x : Port) : (s.setPort p x).roceHeld = s.roceHeld := rfl
@[simp] theorem State.setPort_helloSec (p : Nat) (x : Port) : (s.setPort p x).helloSec = s.helloSec := rfl
@[simp] theorem State.setPort_resetAsked (p : Nat) (x : Port) : (s.setPort p x).resetAsked = s.resetAsked := rfl
@[simp] theorem State.setPort_resetRun (p : Nat) (x : Port) : (s.setPort p x).resetRun = s.resetRun := rfl
@[simp] theorem State.setPort_fallowStep (p : Nat) (x : Port) : (s.setPort p x).fallowStep = s.fallowStep := rfl
@[simp] theorem State.setPort_storeRun (p : Nat) (x : Port) : (s.setPort p x).storeRun = s.storeRun := rfl
@[simp] theorem State.setPort_storeSlot (p : Nat) (x : Port) : (s.setPort p x).storeSlot = s.storeSlot := rfl
@[simp] theorem State.setPort_fwStage (p : Nat) (x : Port) : (s.setPort p x).fwStage = s.fwStage := rfl
@[simp] theorem State.setPort_attestRun (p : Nat) (x : Port) : (s.setPort p x).attestRun = s.attestRun := rfl
@[simp] theorem State.setPort_watchdogMs (p : Nat) (x : Port) : (s.setPort p x).watchdogMs = s.watchdogMs := rfl
@[simp] theorem State.setPort_pllSince (p : Nat) (x : Port) : (s.setPort p x).pllSince = s.pllSince := rfl
@[simp] theorem State.setPort_energyUj (p : Nat) (x : Port) : (s.setPort p x).energyUj = s.energyUj := rfl
@[simp] theorem State.setPort_memLost (p : Nat) (x : Port) : (s.setPort p x).memLost = s.memLost := rfl
@[simp] theorem State.setPort_udpPort (p : Nat) (x : Port) : (s.setPort p x).udpPort = s.udpPort := rfl
@[simp] theorem State.setPort_memRate (p : Nat) (x : Port) : (s.setPort p x).memRate = s.memRate := rfl
@[simp] theorem State.setPort_linkCfg (p : Nat) (x : Port) : (s.setPort p x).linkCfg = s.linkCfg := rfl

/-! ### `setCtx` -/

@[simp] theorem State.setCtx_pending (core ctx : Nat) (c : Ctx) : (s.setCtx core ctx c).pending = s.pending := rfl
@[simp] theorem State.setCtx_out (core ctx : Nat) (c : Ctx) : (s.setCtx core ctx c).out = s.out := rfl
@[simp] theorem State.setCtx_obj (core ctx : Nat) (c : Ctx) : (s.setCtx core ctx c).obj = s.obj := rfl
@[simp] theorem State.setCtx_blob (core ctx : Nat) (c : Ctx) : (s.setCtx core ctx c).blob = s.blob := rfl
@[simp] theorem State.setCtx_sel (core ctx : Nat) (c : Ctx) : (s.setCtx core ctx c).sel = s.sel := rfl
@[simp] theorem State.setCtx_selBlob (core ctx : Nat) (c : Ctx) : (s.setCtx core ctx c).selBlob = s.selBlob := rfl
@[simp] theorem State.setCtx_freeCtr (core ctx : Nat) (c : Ctx) : (s.setCtx core ctx c).freeCtr = s.freeCtr := rfl
@[simp] theorem State.setCtx_mem (core ctx : Nat) (c : Ctx) : (s.setCtx core ctx c).mem = s.mem := rfl
@[simp] theorem State.setCtx_chk (core ctx : Nat) (c : Ctx) : (s.setCtx core ctx c).chk = s.chk := rfl
@[simp] theorem State.setCtx_vchk (core ctx : Nat) (c : Ctx) : (s.setCtx core ctx c).vchk = s.vchk := rfl
@[simp] theorem State.setCtx_subch (core ctx : Nat) (c : Ctx) : (s.setCtx core ctx c).subch = s.subch := rfl
@[simp] theorem State.setCtx_pkgTemp (core ctx : Nat) (c : Ctx) : (s.setCtx core ctx c).pkgTemp = s.pkgTemp := rfl
@[simp] theorem State.setCtx_vreg (core ctx : Nat) (c : Ctx) : (s.setCtx core ctx c).vreg = s.vreg := rfl
@[simp] theorem State.setCtx_mreg (core ctx : Nat) (c : Ctx) : (s.setCtx core ctx c).mreg = s.mreg := rfl
@[simp] theorem State.setCtx_ctxs (core ctx : Nat) (c : Ctx) : (s.setCtx core ctx c).ctxs = SMap.set {} s.ctxs (ctxKey core ctx) c := rfl
@[simp] theorem State.setCtx_ops (core ctx : Nat) (c : Ctx) : (s.setCtx core ctx c).ops = s.ops := rfl
@[simp] theorem State.setCtx_nextOp (core ctx : Nat) (c : Ctx) : (s.setCtx core ctx c).nextOp = s.nextOp := rfl
@[simp] theorem State.setCtx_stopped (core ctx : Nat) (c : Ctx) : (s.setCtx core ctx c).stopped = s.stopped := rfl
@[simp] theorem State.setCtx_sems (core ctx : Nat) (c : Ctx) : (s.setCtx core ctx c).sems = s.sems := rfl
@[simp] theorem State.setCtx_unrec (core ctx : Nat) (c : Ctx) : (s.setCtx core ctx c).unrec = s.unrec := rfl
@[simp] theorem State.setCtx_rings (core ctx : Nat) (c : Ctx) : (s.setCtx core ctx c).rings = s.rings := rfl
@[simp] theorem State.setCtx_tables (core ctx : Nat) (c : Ctx) : (s.setCtx core ctx c).tables = s.tables := rfl
@[simp] theorem State.setCtx_load (core ctx : Nat) (c : Ctx) : (s.setCtx core ctx c).load = s.load := rfl
@[simp] theorem State.setCtx_alm (core ctx : Nat) (c : Ctx) : (s.setCtx core ctx c).alm = s.alm := rfl
@[simp] theorem State.setCtx_stepRun (core ctx : Nat) (c : Ctx) : (s.setCtx core ctx c).stepRun = s.stepRun := rfl
@[simp] theorem State.setCtx_stepDead (core ctx : Nat) (c : Ctx) : (s.setCtx core ctx c).stepDead = s.stepDead := rfl
@[simp] theorem State.setCtx_stepQueue (core ctx : Nat) (c : Ctx) : (s.setCtx core ctx c).stepQueue = s.stepQueue := rfl
@[simp] theorem State.setCtx_censusRecv (core ctx : Nat) (c : Ctx) : (s.setCtx core ctx c).censusRecv = s.censusRecv := rfl
@[simp] theorem State.setCtx_updWait (core ctx : Nat) (c : Ctx) : (s.setCtx core ctx c).updWait = s.updWait := rfl
@[simp] theorem State.setCtx_baleFrom (core ctx : Nat) (c : Ctx) : (s.setCtx core ctx c).baleFrom = s.baleFrom := rfl
@[simp] theorem State.setCtx_balesDone (core ctx : Nat) (c : Ctx) : (s.setCtx core ctx c).balesDone = s.balesDone := rfl
@[simp] theorem State.setCtx_balesAborted (core ctx : Nat) (c : Ctx) : (s.setCtx core ctx c).balesAborted = s.balesAborted := rfl
@[simp] theorem State.setCtx_updDiscard (core ctx : Nat) (c : Ctx) : (s.setCtx core ctx c).updDiscard = s.updDiscard := rfl
@[simp] theorem State.setCtx_wmax (core ctx : Nat) (c : Ctx) : (s.setCtx core ctx c).wmax = s.wmax := rfl
@[simp] theorem State.setCtx_wsat (core ctx : Nat) (c : Ctx) : (s.setCtx core ctx c).wsat = s.wsat := rfl
@[simp] theorem State.setCtx_abortedInStep (core ctx : Nat) (c : Ctx) : (s.setCtx core ctx c).abortedInStep = s.abortedInStep := rfl
@[simp] theorem State.setCtx_earlyPkts (core ctx : Nat) (c : Ctx) : (s.setCtx core ctx c).earlyPkts = s.earlyPkts := rfl
@[simp] theorem State.setCtx_leaveQ (core ctx : Nat) (c : Ctx) : (s.setCtx core ctx c).leaveQ = s.leaveQ := rfl
@[simp] theorem State.setCtx_waited (core ctx : Nat) (c : Ctx) : (s.setCtx core ctx c).waited = s.waited := rfl
@[simp] theorem State.setCtx_readyQ (core ctx : Nat) (c : Ctx) : (s.setCtx core ctx c).readyQ = s.readyQ := rfl
@[simp] theorem State.setCtx_resvs (core ctx : Nat) (c : Ctx) : (s.setCtx core ctx c).resvs = s.resvs := rfl
@[simp] theorem State.setCtx_dip (core ctx : Nat) (c : Ctx) : (s.setCtx core ctx c).dip = s.dip := rfl
@[simp] theorem State.setCtx_thermSteps (core ctx : Nat) (c : Ctx) : (s.setCtx core ctx c).thermSteps = s.thermSteps := rfl
@[simp] theorem State.setCtx_dipSteps (core ctx : Nat) (c : Ctx) : (s.setCtx core ctx c).dipSteps = s.dipSteps := rfl
@[simp] theorem State.setCtx_fences (core ctx : Nat) (c : Ctx) : (s.setCtx core ctx c).fences = s.fences := rfl
@[simp] theorem State.setCtx_ringHead (core ctx : Nat) (c : Ctx) : (s.setCtx core ctx c).ringHead = s.ringHead := rfl
@[simp] theorem State.setCtx_thrs (core ctx : Nat) (c : Ctx) : (s.setCtx core ctx c).thrs = s.thrs := rfl
@[simp] theorem State.setCtx_ports (core ctx : Nat) (c : Ctx) : (s.setCtx core ctx c).ports = s.ports := rfl
@[simp] theorem State.setCtx_slots (core ctx : Nat) (c : Ctx) : (s.setCtx core ctx c).slots = s.slots := rfl
@[simp] theorem State.setCtx_qps (core ctx : Nat) (c : Ctx) : (s.setCtx core ctx c).qps = s.qps := rfl
@[simp] theorem State.setCtx_mrs (core ctx : Nat) (c : Ctx) : (s.setCtx core ctx c).mrs = s.mrs := rfl
@[simp] theorem State.setCtx_sessions (core ctx : Nat) (c : Ctx) : (s.setCtx core ctx c).sessions = s.sessions := rfl
@[simp] theorem State.setCtx_eths (core ctx : Nat) (c : Ctx) : (s.setCtx core ctx c).eths = s.eths := rfl
@[simp] theorem State.setCtx_log (core ctx : Nat) (c : Ctx) : (s.setCtx core ctx c).log = s.log := rfl
@[simp] theorem State.setCtx_fieldFirst (core ctx : Nat) (c : Ctx) : (s.setCtx core ctx c).fieldFirst = s.fieldFirst := rfl
@[simp] theorem State.setCtx_fieldStamps (core ctx : Nat) (c : Ctx) : (s.setCtx core ctx c).fieldStamps = s.fieldStamps := rfl
@[simp] theorem State.setCtx_flash (core ctx : Nat) (c : Ctx) : (s.setCtx core ctx c).flash = s.flash := rfl
@[simp] theorem State.setCtx_fuses (core ctx : Nat) (c : Ctx) : (s.setCtx core ctx c).fuses = s.fuses := rfl
@[simp] theorem State.setCtx_pins (core ctx : Nat) (c : Ctx) : (s.setCtx core ctx c).pins = s.pins := rfl
@[simp] theorem State.setCtx_roceHeld (core ctx : Nat) (c : Ctx) : (s.setCtx core ctx c).roceHeld = s.roceHeld := rfl
@[simp] theorem State.setCtx_helloSec (core ctx : Nat) (c : Ctx) : (s.setCtx core ctx c).helloSec = s.helloSec := rfl
@[simp] theorem State.setCtx_resetAsked (core ctx : Nat) (c : Ctx) : (s.setCtx core ctx c).resetAsked = s.resetAsked := rfl
@[simp] theorem State.setCtx_resetRun (core ctx : Nat) (c : Ctx) : (s.setCtx core ctx c).resetRun = s.resetRun := rfl
@[simp] theorem State.setCtx_fallowStep (core ctx : Nat) (c : Ctx) : (s.setCtx core ctx c).fallowStep = s.fallowStep := rfl
@[simp] theorem State.setCtx_storeRun (core ctx : Nat) (c : Ctx) : (s.setCtx core ctx c).storeRun = s.storeRun := rfl
@[simp] theorem State.setCtx_storeSlot (core ctx : Nat) (c : Ctx) : (s.setCtx core ctx c).storeSlot = s.storeSlot := rfl
@[simp] theorem State.setCtx_fwStage (core ctx : Nat) (c : Ctx) : (s.setCtx core ctx c).fwStage = s.fwStage := rfl
@[simp] theorem State.setCtx_attestRun (core ctx : Nat) (c : Ctx) : (s.setCtx core ctx c).attestRun = s.attestRun := rfl
@[simp] theorem State.setCtx_watchdogMs (core ctx : Nat) (c : Ctx) : (s.setCtx core ctx c).watchdogMs = s.watchdogMs := rfl
@[simp] theorem State.setCtx_pllSince (core ctx : Nat) (c : Ctx) : (s.setCtx core ctx c).pllSince = s.pllSince := rfl
@[simp] theorem State.setCtx_energyUj (core ctx : Nat) (c : Ctx) : (s.setCtx core ctx c).energyUj = s.energyUj := rfl
@[simp] theorem State.setCtx_memLost (core ctx : Nat) (c : Ctx) : (s.setCtx core ctx c).memLost = s.memLost := rfl
@[simp] theorem State.setCtx_udpPort (core ctx : Nat) (c : Ctx) : (s.setCtx core ctx c).udpPort = s.udpPort := rfl
@[simp] theorem State.setCtx_memRate (core ctx : Nat) (c : Ctx) : (s.setCtx core ctx c).memRate = s.memRate := rfl
@[simp] theorem State.setCtx_linkCfg (core ctx : Nat) (c : Ctx) : (s.setCtx core ctx c).linkCfg = s.linkCfg := rfl

/-! ### `setOp` -/

@[simp] theorem State.setOp_pending (id : Nat) (o : Op) : (s.setOp id o).pending = s.pending := rfl
@[simp] theorem State.setOp_out (id : Nat) (o : Op) : (s.setOp id o).out = s.out := rfl
@[simp] theorem State.setOp_obj (id : Nat) (o : Op) : (s.setOp id o).obj = s.obj := rfl
@[simp] theorem State.setOp_blob (id : Nat) (o : Op) : (s.setOp id o).blob = s.blob := rfl
@[simp] theorem State.setOp_sel (id : Nat) (o : Op) : (s.setOp id o).sel = s.sel := rfl
@[simp] theorem State.setOp_selBlob (id : Nat) (o : Op) : (s.setOp id o).selBlob = s.selBlob := rfl
@[simp] theorem State.setOp_freeCtr (id : Nat) (o : Op) : (s.setOp id o).freeCtr = s.freeCtr := rfl
@[simp] theorem State.setOp_mem (id : Nat) (o : Op) : (s.setOp id o).mem = s.mem := rfl
@[simp] theorem State.setOp_chk (id : Nat) (o : Op) : (s.setOp id o).chk = s.chk := rfl
@[simp] theorem State.setOp_vchk (id : Nat) (o : Op) : (s.setOp id o).vchk = s.vchk := rfl
@[simp] theorem State.setOp_subch (id : Nat) (o : Op) : (s.setOp id o).subch = s.subch := rfl
@[simp] theorem State.setOp_pkgTemp (id : Nat) (o : Op) : (s.setOp id o).pkgTemp = s.pkgTemp := rfl
@[simp] theorem State.setOp_vreg (id : Nat) (o : Op) : (s.setOp id o).vreg = s.vreg := rfl
@[simp] theorem State.setOp_mreg (id : Nat) (o : Op) : (s.setOp id o).mreg = s.mreg := rfl
@[simp] theorem State.setOp_ctxs (id : Nat) (o : Op) : (s.setOp id o).ctxs = s.ctxs := rfl
@[simp] theorem State.setOp_ops (id : Nat) (o : Op) : (s.setOp id o).ops = SMap.put s.ops id o := rfl
@[simp] theorem State.setOp_nextOp (id : Nat) (o : Op) : (s.setOp id o).nextOp = s.nextOp := rfl
@[simp] theorem State.setOp_stopped (id : Nat) (o : Op) : (s.setOp id o).stopped = s.stopped := rfl
@[simp] theorem State.setOp_sems (id : Nat) (o : Op) : (s.setOp id o).sems = s.sems := rfl
@[simp] theorem State.setOp_unrec (id : Nat) (o : Op) : (s.setOp id o).unrec = s.unrec := rfl
@[simp] theorem State.setOp_rings (id : Nat) (o : Op) : (s.setOp id o).rings = s.rings := rfl
@[simp] theorem State.setOp_tables (id : Nat) (o : Op) : (s.setOp id o).tables = s.tables := rfl
@[simp] theorem State.setOp_load (id : Nat) (o : Op) : (s.setOp id o).load = s.load := rfl
@[simp] theorem State.setOp_alm (id : Nat) (o : Op) : (s.setOp id o).alm = s.alm := rfl
@[simp] theorem State.setOp_stepRun (id : Nat) (o : Op) : (s.setOp id o).stepRun = s.stepRun := rfl
@[simp] theorem State.setOp_stepDead (id : Nat) (o : Op) : (s.setOp id o).stepDead = s.stepDead := rfl
@[simp] theorem State.setOp_stepQueue (id : Nat) (o : Op) : (s.setOp id o).stepQueue = s.stepQueue := rfl
@[simp] theorem State.setOp_censusRecv (id : Nat) (o : Op) : (s.setOp id o).censusRecv = s.censusRecv := rfl
@[simp] theorem State.setOp_updWait (id : Nat) (o : Op) : (s.setOp id o).updWait = s.updWait := rfl
@[simp] theorem State.setOp_baleFrom (id : Nat) (o : Op) : (s.setOp id o).baleFrom = s.baleFrom := rfl
@[simp] theorem State.setOp_balesDone (id : Nat) (o : Op) : (s.setOp id o).balesDone = s.balesDone := rfl
@[simp] theorem State.setOp_balesAborted (id : Nat) (o : Op) : (s.setOp id o).balesAborted = s.balesAborted := rfl
@[simp] theorem State.setOp_updDiscard (id : Nat) (o : Op) : (s.setOp id o).updDiscard = s.updDiscard := rfl
@[simp] theorem State.setOp_wmax (id : Nat) (o : Op) : (s.setOp id o).wmax = s.wmax := rfl
@[simp] theorem State.setOp_wsat (id : Nat) (o : Op) : (s.setOp id o).wsat = s.wsat := rfl
@[simp] theorem State.setOp_abortedInStep (id : Nat) (o : Op) : (s.setOp id o).abortedInStep = s.abortedInStep := rfl
@[simp] theorem State.setOp_earlyPkts (id : Nat) (o : Op) : (s.setOp id o).earlyPkts = s.earlyPkts := rfl
@[simp] theorem State.setOp_leaveQ (id : Nat) (o : Op) : (s.setOp id o).leaveQ = s.leaveQ := rfl
@[simp] theorem State.setOp_waited (id : Nat) (o : Op) : (s.setOp id o).waited = s.waited := rfl
@[simp] theorem State.setOp_readyQ (id : Nat) (o : Op) : (s.setOp id o).readyQ = s.readyQ := rfl
@[simp] theorem State.setOp_resvs (id : Nat) (o : Op) : (s.setOp id o).resvs = s.resvs := rfl
@[simp] theorem State.setOp_dip (id : Nat) (o : Op) : (s.setOp id o).dip = s.dip := rfl
@[simp] theorem State.setOp_thermSteps (id : Nat) (o : Op) : (s.setOp id o).thermSteps = s.thermSteps := rfl
@[simp] theorem State.setOp_dipSteps (id : Nat) (o : Op) : (s.setOp id o).dipSteps = s.dipSteps := rfl
@[simp] theorem State.setOp_fences (id : Nat) (o : Op) : (s.setOp id o).fences = s.fences := rfl
@[simp] theorem State.setOp_ringHead (id : Nat) (o : Op) : (s.setOp id o).ringHead = s.ringHead := rfl
@[simp] theorem State.setOp_thrs (id : Nat) (o : Op) : (s.setOp id o).thrs = s.thrs := rfl
@[simp] theorem State.setOp_ports (id : Nat) (o : Op) : (s.setOp id o).ports = s.ports := rfl
@[simp] theorem State.setOp_slots (id : Nat) (o : Op) : (s.setOp id o).slots = s.slots := rfl
@[simp] theorem State.setOp_qps (id : Nat) (o : Op) : (s.setOp id o).qps = s.qps := rfl
@[simp] theorem State.setOp_mrs (id : Nat) (o : Op) : (s.setOp id o).mrs = s.mrs := rfl
@[simp] theorem State.setOp_sessions (id : Nat) (o : Op) : (s.setOp id o).sessions = s.sessions := rfl
@[simp] theorem State.setOp_eths (id : Nat) (o : Op) : (s.setOp id o).eths = s.eths := rfl
@[simp] theorem State.setOp_log (id : Nat) (o : Op) : (s.setOp id o).log = s.log := rfl
@[simp] theorem State.setOp_fieldFirst (id : Nat) (o : Op) : (s.setOp id o).fieldFirst = s.fieldFirst := rfl
@[simp] theorem State.setOp_fieldStamps (id : Nat) (o : Op) : (s.setOp id o).fieldStamps = s.fieldStamps := rfl
@[simp] theorem State.setOp_flash (id : Nat) (o : Op) : (s.setOp id o).flash = s.flash := rfl
@[simp] theorem State.setOp_fuses (id : Nat) (o : Op) : (s.setOp id o).fuses = s.fuses := rfl
@[simp] theorem State.setOp_pins (id : Nat) (o : Op) : (s.setOp id o).pins = s.pins := rfl
@[simp] theorem State.setOp_roceHeld (id : Nat) (o : Op) : (s.setOp id o).roceHeld = s.roceHeld := rfl
@[simp] theorem State.setOp_helloSec (id : Nat) (o : Op) : (s.setOp id o).helloSec = s.helloSec := rfl
@[simp] theorem State.setOp_resetAsked (id : Nat) (o : Op) : (s.setOp id o).resetAsked = s.resetAsked := rfl
@[simp] theorem State.setOp_resetRun (id : Nat) (o : Op) : (s.setOp id o).resetRun = s.resetRun := rfl
@[simp] theorem State.setOp_fallowStep (id : Nat) (o : Op) : (s.setOp id o).fallowStep = s.fallowStep := rfl
@[simp] theorem State.setOp_storeRun (id : Nat) (o : Op) : (s.setOp id o).storeRun = s.storeRun := rfl
@[simp] theorem State.setOp_storeSlot (id : Nat) (o : Op) : (s.setOp id o).storeSlot = s.storeSlot := rfl
@[simp] theorem State.setOp_fwStage (id : Nat) (o : Op) : (s.setOp id o).fwStage = s.fwStage := rfl
@[simp] theorem State.setOp_attestRun (id : Nat) (o : Op) : (s.setOp id o).attestRun = s.attestRun := rfl
@[simp] theorem State.setOp_watchdogMs (id : Nat) (o : Op) : (s.setOp id o).watchdogMs = s.watchdogMs := rfl
@[simp] theorem State.setOp_pllSince (id : Nat) (o : Op) : (s.setOp id o).pllSince = s.pllSince := rfl
@[simp] theorem State.setOp_energyUj (id : Nat) (o : Op) : (s.setOp id o).energyUj = s.energyUj := rfl
@[simp] theorem State.setOp_memLost (id : Nat) (o : Op) : (s.setOp id o).memLost = s.memLost := rfl
@[simp] theorem State.setOp_udpPort (id : Nat) (o : Op) : (s.setOp id o).udpPort = s.udpPort := rfl
@[simp] theorem State.setOp_memRate (id : Nat) (o : Op) : (s.setOp id o).memRate = s.memRate := rfl
@[simp] theorem State.setOp_linkCfg (id : Nat) (o : Op) : (s.setOp id o).linkCfg = s.linkCfg := rfl

/-! ### `dropOp` -/

@[simp] theorem State.dropOp_pending (id : Nat) : (s.dropOp id).pending = s.pending := rfl
@[simp] theorem State.dropOp_out (id : Nat) : (s.dropOp id).out = s.out := rfl
@[simp] theorem State.dropOp_obj (id : Nat) : (s.dropOp id).obj = s.obj := rfl
@[simp] theorem State.dropOp_blob (id : Nat) : (s.dropOp id).blob = s.blob := rfl
@[simp] theorem State.dropOp_sel (id : Nat) : (s.dropOp id).sel = s.sel := rfl
@[simp] theorem State.dropOp_selBlob (id : Nat) : (s.dropOp id).selBlob = s.selBlob := rfl
@[simp] theorem State.dropOp_freeCtr (id : Nat) : (s.dropOp id).freeCtr = s.freeCtr := rfl
@[simp] theorem State.dropOp_mem (id : Nat) : (s.dropOp id).mem = s.mem := rfl
@[simp] theorem State.dropOp_chk (id : Nat) : (s.dropOp id).chk = s.chk := rfl
@[simp] theorem State.dropOp_vchk (id : Nat) : (s.dropOp id).vchk = s.vchk := rfl
@[simp] theorem State.dropOp_subch (id : Nat) : (s.dropOp id).subch = s.subch := rfl
@[simp] theorem State.dropOp_pkgTemp (id : Nat) : (s.dropOp id).pkgTemp = s.pkgTemp := rfl
@[simp] theorem State.dropOp_vreg (id : Nat) : (s.dropOp id).vreg = s.vreg := rfl
@[simp] theorem State.dropOp_mreg (id : Nat) : (s.dropOp id).mreg = s.mreg := rfl
@[simp] theorem State.dropOp_ctxs (id : Nat) : (s.dropOp id).ctxs = s.ctxs := rfl
@[simp] theorem State.dropOp_ops (id : Nat) : (s.dropOp id).ops = SMap.erase s.ops id := rfl
@[simp] theorem State.dropOp_nextOp (id : Nat) : (s.dropOp id).nextOp = s.nextOp := rfl
@[simp] theorem State.dropOp_stopped (id : Nat) : (s.dropOp id).stopped = s.stopped := rfl
@[simp] theorem State.dropOp_sems (id : Nat) : (s.dropOp id).sems = s.sems := rfl
@[simp] theorem State.dropOp_unrec (id : Nat) : (s.dropOp id).unrec = s.unrec := rfl
@[simp] theorem State.dropOp_rings (id : Nat) : (s.dropOp id).rings = s.rings := rfl
@[simp] theorem State.dropOp_tables (id : Nat) : (s.dropOp id).tables = s.tables := rfl
@[simp] theorem State.dropOp_load (id : Nat) : (s.dropOp id).load = s.load := rfl
@[simp] theorem State.dropOp_alm (id : Nat) : (s.dropOp id).alm = s.alm := rfl
@[simp] theorem State.dropOp_stepRun (id : Nat) : (s.dropOp id).stepRun = s.stepRun := rfl
@[simp] theorem State.dropOp_stepDead (id : Nat) : (s.dropOp id).stepDead = s.stepDead := rfl
@[simp] theorem State.dropOp_stepQueue (id : Nat) : (s.dropOp id).stepQueue = s.stepQueue := rfl
@[simp] theorem State.dropOp_censusRecv (id : Nat) : (s.dropOp id).censusRecv = s.censusRecv := rfl
@[simp] theorem State.dropOp_updWait (id : Nat) : (s.dropOp id).updWait = s.updWait := rfl
@[simp] theorem State.dropOp_baleFrom (id : Nat) : (s.dropOp id).baleFrom = s.baleFrom := rfl
@[simp] theorem State.dropOp_balesDone (id : Nat) : (s.dropOp id).balesDone = s.balesDone := rfl
@[simp] theorem State.dropOp_balesAborted (id : Nat) : (s.dropOp id).balesAborted = s.balesAborted := rfl
@[simp] theorem State.dropOp_updDiscard (id : Nat) : (s.dropOp id).updDiscard = s.updDiscard := rfl
@[simp] theorem State.dropOp_wmax (id : Nat) : (s.dropOp id).wmax = s.wmax := rfl
@[simp] theorem State.dropOp_wsat (id : Nat) : (s.dropOp id).wsat = s.wsat := rfl
@[simp] theorem State.dropOp_abortedInStep (id : Nat) : (s.dropOp id).abortedInStep = s.abortedInStep := rfl
@[simp] theorem State.dropOp_earlyPkts (id : Nat) : (s.dropOp id).earlyPkts = s.earlyPkts := rfl
@[simp] theorem State.dropOp_leaveQ (id : Nat) : (s.dropOp id).leaveQ = s.leaveQ := rfl
@[simp] theorem State.dropOp_waited (id : Nat) : (s.dropOp id).waited = s.waited := rfl
@[simp] theorem State.dropOp_readyQ (id : Nat) : (s.dropOp id).readyQ = s.readyQ := rfl
@[simp] theorem State.dropOp_resvs (id : Nat) : (s.dropOp id).resvs = s.resvs := rfl
@[simp] theorem State.dropOp_dip (id : Nat) : (s.dropOp id).dip = s.dip := rfl
@[simp] theorem State.dropOp_thermSteps (id : Nat) : (s.dropOp id).thermSteps = s.thermSteps := rfl
@[simp] theorem State.dropOp_dipSteps (id : Nat) : (s.dropOp id).dipSteps = s.dipSteps := rfl
@[simp] theorem State.dropOp_fences (id : Nat) : (s.dropOp id).fences = s.fences := rfl
@[simp] theorem State.dropOp_ringHead (id : Nat) : (s.dropOp id).ringHead = s.ringHead := rfl
@[simp] theorem State.dropOp_thrs (id : Nat) : (s.dropOp id).thrs = s.thrs := rfl
@[simp] theorem State.dropOp_ports (id : Nat) : (s.dropOp id).ports = s.ports := rfl
@[simp] theorem State.dropOp_slots (id : Nat) : (s.dropOp id).slots = s.slots := rfl
@[simp] theorem State.dropOp_qps (id : Nat) : (s.dropOp id).qps = s.qps := rfl
@[simp] theorem State.dropOp_mrs (id : Nat) : (s.dropOp id).mrs = s.mrs := rfl
@[simp] theorem State.dropOp_sessions (id : Nat) : (s.dropOp id).sessions = s.sessions := rfl
@[simp] theorem State.dropOp_eths (id : Nat) : (s.dropOp id).eths = s.eths := rfl
@[simp] theorem State.dropOp_log (id : Nat) : (s.dropOp id).log = s.log := rfl
@[simp] theorem State.dropOp_fieldFirst (id : Nat) : (s.dropOp id).fieldFirst = s.fieldFirst := rfl
@[simp] theorem State.dropOp_fieldStamps (id : Nat) : (s.dropOp id).fieldStamps = s.fieldStamps := rfl
@[simp] theorem State.dropOp_flash (id : Nat) : (s.dropOp id).flash = s.flash := rfl
@[simp] theorem State.dropOp_fuses (id : Nat) : (s.dropOp id).fuses = s.fuses := rfl
@[simp] theorem State.dropOp_pins (id : Nat) : (s.dropOp id).pins = s.pins := rfl
@[simp] theorem State.dropOp_roceHeld (id : Nat) : (s.dropOp id).roceHeld = s.roceHeld := rfl
@[simp] theorem State.dropOp_helloSec (id : Nat) : (s.dropOp id).helloSec = s.helloSec := rfl
@[simp] theorem State.dropOp_resetAsked (id : Nat) : (s.dropOp id).resetAsked = s.resetAsked := rfl
@[simp] theorem State.dropOp_resetRun (id : Nat) : (s.dropOp id).resetRun = s.resetRun := rfl
@[simp] theorem State.dropOp_fallowStep (id : Nat) : (s.dropOp id).fallowStep = s.fallowStep := rfl
@[simp] theorem State.dropOp_storeRun (id : Nat) : (s.dropOp id).storeRun = s.storeRun := rfl
@[simp] theorem State.dropOp_storeSlot (id : Nat) : (s.dropOp id).storeSlot = s.storeSlot := rfl
@[simp] theorem State.dropOp_fwStage (id : Nat) : (s.dropOp id).fwStage = s.fwStage := rfl
@[simp] theorem State.dropOp_attestRun (id : Nat) : (s.dropOp id).attestRun = s.attestRun := rfl
@[simp] theorem State.dropOp_watchdogMs (id : Nat) : (s.dropOp id).watchdogMs = s.watchdogMs := rfl
@[simp] theorem State.dropOp_pllSince (id : Nat) : (s.dropOp id).pllSince = s.pllSince := rfl
@[simp] theorem State.dropOp_energyUj (id : Nat) : (s.dropOp id).energyUj = s.energyUj := rfl
@[simp] theorem State.dropOp_memLost (id : Nat) : (s.dropOp id).memLost = s.memLost := rfl
@[simp] theorem State.dropOp_udpPort (id : Nat) : (s.dropOp id).udpPort = s.udpPort := rfl
@[simp] theorem State.dropOp_memRate (id : Nat) : (s.dropOp id).memRate = s.memRate := rfl
@[simp] theorem State.dropOp_linkCfg (id : Nat) : (s.dropOp id).linkCfg = s.linkCfg := rfl

/-! ### `setThr` -/

@[simp] theorem State.setThr_pending (d : Nat) (t : Thr) : (s.setThr d t).pending = s.pending := rfl
@[simp] theorem State.setThr_out (d : Nat) (t : Thr) : (s.setThr d t).out = s.out := rfl
@[simp] theorem State.setThr_obj (d : Nat) (t : Thr) : (s.setThr d t).obj = s.obj := rfl
@[simp] theorem State.setThr_blob (d : Nat) (t : Thr) : (s.setThr d t).blob = s.blob := rfl
@[simp] theorem State.setThr_sel (d : Nat) (t : Thr) : (s.setThr d t).sel = s.sel := rfl
@[simp] theorem State.setThr_selBlob (d : Nat) (t : Thr) : (s.setThr d t).selBlob = s.selBlob := rfl
@[simp] theorem State.setThr_freeCtr (d : Nat) (t : Thr) : (s.setThr d t).freeCtr = s.freeCtr := rfl
@[simp] theorem State.setThr_mem (d : Nat) (t : Thr) : (s.setThr d t).mem = s.mem := rfl
@[simp] theorem State.setThr_chk (d : Nat) (t : Thr) : (s.setThr d t).chk = s.chk := rfl
@[simp] theorem State.setThr_vchk (d : Nat) (t : Thr) : (s.setThr d t).vchk = s.vchk := rfl
@[simp] theorem State.setThr_subch (d : Nat) (t : Thr) : (s.setThr d t).subch = s.subch := rfl
@[simp] theorem State.setThr_pkgTemp (d : Nat) (t : Thr) : (s.setThr d t).pkgTemp = s.pkgTemp := rfl
@[simp] theorem State.setThr_vreg (d : Nat) (t : Thr) : (s.setThr d t).vreg = s.vreg := rfl
@[simp] theorem State.setThr_mreg (d : Nat) (t : Thr) : (s.setThr d t).mreg = s.mreg := rfl
@[simp] theorem State.setThr_ctxs (d : Nat) (t : Thr) : (s.setThr d t).ctxs = s.ctxs := rfl
@[simp] theorem State.setThr_ops (d : Nat) (t : Thr) : (s.setThr d t).ops = s.ops := rfl
@[simp] theorem State.setThr_nextOp (d : Nat) (t : Thr) : (s.setThr d t).nextOp = s.nextOp := rfl
@[simp] theorem State.setThr_stopped (d : Nat) (t : Thr) : (s.setThr d t).stopped = s.stopped := rfl
@[simp] theorem State.setThr_sems (d : Nat) (t : Thr) : (s.setThr d t).sems = s.sems := rfl
@[simp] theorem State.setThr_unrec (d : Nat) (t : Thr) : (s.setThr d t).unrec = s.unrec := rfl
@[simp] theorem State.setThr_rings (d : Nat) (t : Thr) : (s.setThr d t).rings = s.rings := rfl
@[simp] theorem State.setThr_tables (d : Nat) (t : Thr) : (s.setThr d t).tables = s.tables := rfl
@[simp] theorem State.setThr_load (d : Nat) (t : Thr) : (s.setThr d t).load = s.load := rfl
@[simp] theorem State.setThr_alm (d : Nat) (t : Thr) : (s.setThr d t).alm = s.alm := rfl
@[simp] theorem State.setThr_stepRun (d : Nat) (t : Thr) : (s.setThr d t).stepRun = s.stepRun := rfl
@[simp] theorem State.setThr_stepDead (d : Nat) (t : Thr) : (s.setThr d t).stepDead = s.stepDead := rfl
@[simp] theorem State.setThr_stepQueue (d : Nat) (t : Thr) : (s.setThr d t).stepQueue = s.stepQueue := rfl
@[simp] theorem State.setThr_censusRecv (d : Nat) (t : Thr) : (s.setThr d t).censusRecv = s.censusRecv := rfl
@[simp] theorem State.setThr_updWait (d : Nat) (t : Thr) : (s.setThr d t).updWait = s.updWait := rfl
@[simp] theorem State.setThr_baleFrom (d : Nat) (t : Thr) : (s.setThr d t).baleFrom = s.baleFrom := rfl
@[simp] theorem State.setThr_balesDone (d : Nat) (t : Thr) : (s.setThr d t).balesDone = s.balesDone := rfl
@[simp] theorem State.setThr_balesAborted (d : Nat) (t : Thr) : (s.setThr d t).balesAborted = s.balesAborted := rfl
@[simp] theorem State.setThr_updDiscard (d : Nat) (t : Thr) : (s.setThr d t).updDiscard = s.updDiscard := rfl
@[simp] theorem State.setThr_wmax (d : Nat) (t : Thr) : (s.setThr d t).wmax = s.wmax := rfl
@[simp] theorem State.setThr_wsat (d : Nat) (t : Thr) : (s.setThr d t).wsat = s.wsat := rfl
@[simp] theorem State.setThr_abortedInStep (d : Nat) (t : Thr) : (s.setThr d t).abortedInStep = s.abortedInStep := rfl
@[simp] theorem State.setThr_earlyPkts (d : Nat) (t : Thr) : (s.setThr d t).earlyPkts = s.earlyPkts := rfl
@[simp] theorem State.setThr_leaveQ (d : Nat) (t : Thr) : (s.setThr d t).leaveQ = s.leaveQ := rfl
@[simp] theorem State.setThr_waited (d : Nat) (t : Thr) : (s.setThr d t).waited = s.waited := rfl
@[simp] theorem State.setThr_readyQ (d : Nat) (t : Thr) : (s.setThr d t).readyQ = s.readyQ := rfl
@[simp] theorem State.setThr_resvs (d : Nat) (t : Thr) : (s.setThr d t).resvs = s.resvs := rfl
@[simp] theorem State.setThr_dip (d : Nat) (t : Thr) : (s.setThr d t).dip = s.dip := rfl
@[simp] theorem State.setThr_thermSteps (d : Nat) (t : Thr) : (s.setThr d t).thermSteps = s.thermSteps := rfl
@[simp] theorem State.setThr_dipSteps (d : Nat) (t : Thr) : (s.setThr d t).dipSteps = s.dipSteps := rfl
@[simp] theorem State.setThr_fences (d : Nat) (t : Thr) : (s.setThr d t).fences = s.fences := rfl
@[simp] theorem State.setThr_ringHead (d : Nat) (t : Thr) : (s.setThr d t).ringHead = s.ringHead := rfl
@[simp] theorem State.setThr_thrs (d : Nat) (t : Thr) : (s.setThr d t).thrs = SMap.set {} s.thrs d t := rfl
@[simp] theorem State.setThr_ports (d : Nat) (t : Thr) : (s.setThr d t).ports = s.ports := rfl
@[simp] theorem State.setThr_slots (d : Nat) (t : Thr) : (s.setThr d t).slots = s.slots := rfl
@[simp] theorem State.setThr_qps (d : Nat) (t : Thr) : (s.setThr d t).qps = s.qps := rfl
@[simp] theorem State.setThr_mrs (d : Nat) (t : Thr) : (s.setThr d t).mrs = s.mrs := rfl
@[simp] theorem State.setThr_sessions (d : Nat) (t : Thr) : (s.setThr d t).sessions = s.sessions := rfl
@[simp] theorem State.setThr_eths (d : Nat) (t : Thr) : (s.setThr d t).eths = s.eths := rfl
@[simp] theorem State.setThr_log (d : Nat) (t : Thr) : (s.setThr d t).log = s.log := rfl
@[simp] theorem State.setThr_fieldFirst (d : Nat) (t : Thr) : (s.setThr d t).fieldFirst = s.fieldFirst := rfl
@[simp] theorem State.setThr_fieldStamps (d : Nat) (t : Thr) : (s.setThr d t).fieldStamps = s.fieldStamps := rfl
@[simp] theorem State.setThr_flash (d : Nat) (t : Thr) : (s.setThr d t).flash = s.flash := rfl
@[simp] theorem State.setThr_fuses (d : Nat) (t : Thr) : (s.setThr d t).fuses = s.fuses := rfl
@[simp] theorem State.setThr_pins (d : Nat) (t : Thr) : (s.setThr d t).pins = s.pins := rfl
@[simp] theorem State.setThr_roceHeld (d : Nat) (t : Thr) : (s.setThr d t).roceHeld = s.roceHeld := rfl
@[simp] theorem State.setThr_helloSec (d : Nat) (t : Thr) : (s.setThr d t).helloSec = s.helloSec := rfl
@[simp] theorem State.setThr_resetAsked (d : Nat) (t : Thr) : (s.setThr d t).resetAsked = s.resetAsked := rfl
@[simp] theorem State.setThr_resetRun (d : Nat) (t : Thr) : (s.setThr d t).resetRun = s.resetRun := rfl
@[simp] theorem State.setThr_fallowStep (d : Nat) (t : Thr) : (s.setThr d t).fallowStep = s.fallowStep := rfl
@[simp] theorem State.setThr_storeRun (d : Nat) (t : Thr) : (s.setThr d t).storeRun = s.storeRun := rfl
@[simp] theorem State.setThr_storeSlot (d : Nat) (t : Thr) : (s.setThr d t).storeSlot = s.storeSlot := rfl
@[simp] theorem State.setThr_fwStage (d : Nat) (t : Thr) : (s.setThr d t).fwStage = s.fwStage := rfl
@[simp] theorem State.setThr_attestRun (d : Nat) (t : Thr) : (s.setThr d t).attestRun = s.attestRun := rfl
@[simp] theorem State.setThr_watchdogMs (d : Nat) (t : Thr) : (s.setThr d t).watchdogMs = s.watchdogMs := rfl
@[simp] theorem State.setThr_pllSince (d : Nat) (t : Thr) : (s.setThr d t).pllSince = s.pllSince := rfl
@[simp] theorem State.setThr_energyUj (d : Nat) (t : Thr) : (s.setThr d t).energyUj = s.energyUj := rfl
@[simp] theorem State.setThr_memLost (d : Nat) (t : Thr) : (s.setThr d t).memLost = s.memLost := rfl
@[simp] theorem State.setThr_udpPort (d : Nat) (t : Thr) : (s.setThr d t).udpPort = s.udpPort := rfl
@[simp] theorem State.setThr_memRate (d : Nat) (t : Thr) : (s.setThr d t).memRate = s.memRate := rfl
@[simp] theorem State.setThr_linkCfg (d : Nat) (t : Thr) : (s.setThr d t).linkCfg = s.linkCfg := rfl

/-! ### `setSem` -/

@[simp] theorem State.setSem_pending (n : Nat) (x : Sem) : (s.setSem n x).pending = s.pending := rfl
@[simp] theorem State.setSem_out (n : Nat) (x : Sem) : (s.setSem n x).out = s.out := rfl
@[simp] theorem State.setSem_obj (n : Nat) (x : Sem) : (s.setSem n x).obj = s.obj := rfl
@[simp] theorem State.setSem_blob (n : Nat) (x : Sem) : (s.setSem n x).blob = s.blob := rfl
@[simp] theorem State.setSem_sel (n : Nat) (x : Sem) : (s.setSem n x).sel = s.sel := rfl
@[simp] theorem State.setSem_selBlob (n : Nat) (x : Sem) : (s.setSem n x).selBlob = s.selBlob := rfl
@[simp] theorem State.setSem_freeCtr (n : Nat) (x : Sem) : (s.setSem n x).freeCtr = s.freeCtr := rfl
@[simp] theorem State.setSem_mem (n : Nat) (x : Sem) : (s.setSem n x).mem = s.mem := rfl
@[simp] theorem State.setSem_chk (n : Nat) (x : Sem) : (s.setSem n x).chk = s.chk := rfl
@[simp] theorem State.setSem_vchk (n : Nat) (x : Sem) : (s.setSem n x).vchk = s.vchk := rfl
@[simp] theorem State.setSem_subch (n : Nat) (x : Sem) : (s.setSem n x).subch = s.subch := rfl
@[simp] theorem State.setSem_pkgTemp (n : Nat) (x : Sem) : (s.setSem n x).pkgTemp = s.pkgTemp := rfl
@[simp] theorem State.setSem_vreg (n : Nat) (x : Sem) : (s.setSem n x).vreg = s.vreg := rfl
@[simp] theorem State.setSem_mreg (n : Nat) (x : Sem) : (s.setSem n x).mreg = s.mreg := rfl
@[simp] theorem State.setSem_ctxs (n : Nat) (x : Sem) : (s.setSem n x).ctxs = s.ctxs := rfl
@[simp] theorem State.setSem_ops (n : Nat) (x : Sem) : (s.setSem n x).ops = s.ops := rfl
@[simp] theorem State.setSem_nextOp (n : Nat) (x : Sem) : (s.setSem n x).nextOp = s.nextOp := rfl
@[simp] theorem State.setSem_stopped (n : Nat) (x : Sem) : (s.setSem n x).stopped = s.stopped := rfl
@[simp] theorem State.setSem_sems (n : Nat) (x : Sem) : (s.setSem n x).sems = SMap.set {} s.sems n x := rfl
@[simp] theorem State.setSem_unrec (n : Nat) (x : Sem) : (s.setSem n x).unrec = s.unrec := rfl
@[simp] theorem State.setSem_rings (n : Nat) (x : Sem) : (s.setSem n x).rings = s.rings := rfl
@[simp] theorem State.setSem_tables (n : Nat) (x : Sem) : (s.setSem n x).tables = s.tables := rfl
@[simp] theorem State.setSem_load (n : Nat) (x : Sem) : (s.setSem n x).load = s.load := rfl
@[simp] theorem State.setSem_alm (n : Nat) (x : Sem) : (s.setSem n x).alm = s.alm := rfl
@[simp] theorem State.setSem_stepRun (n : Nat) (x : Sem) : (s.setSem n x).stepRun = s.stepRun := rfl
@[simp] theorem State.setSem_stepDead (n : Nat) (x : Sem) : (s.setSem n x).stepDead = s.stepDead := rfl
@[simp] theorem State.setSem_stepQueue (n : Nat) (x : Sem) : (s.setSem n x).stepQueue = s.stepQueue := rfl
@[simp] theorem State.setSem_censusRecv (n : Nat) (x : Sem) : (s.setSem n x).censusRecv = s.censusRecv := rfl
@[simp] theorem State.setSem_updWait (n : Nat) (x : Sem) : (s.setSem n x).updWait = s.updWait := rfl
@[simp] theorem State.setSem_baleFrom (n : Nat) (x : Sem) : (s.setSem n x).baleFrom = s.baleFrom := rfl
@[simp] theorem State.setSem_balesDone (n : Nat) (x : Sem) : (s.setSem n x).balesDone = s.balesDone := rfl
@[simp] theorem State.setSem_balesAborted (n : Nat) (x : Sem) : (s.setSem n x).balesAborted = s.balesAborted := rfl
@[simp] theorem State.setSem_updDiscard (n : Nat) (x : Sem) : (s.setSem n x).updDiscard = s.updDiscard := rfl
@[simp] theorem State.setSem_wmax (n : Nat) (x : Sem) : (s.setSem n x).wmax = s.wmax := rfl
@[simp] theorem State.setSem_wsat (n : Nat) (x : Sem) : (s.setSem n x).wsat = s.wsat := rfl
@[simp] theorem State.setSem_abortedInStep (n : Nat) (x : Sem) : (s.setSem n x).abortedInStep = s.abortedInStep := rfl
@[simp] theorem State.setSem_earlyPkts (n : Nat) (x : Sem) : (s.setSem n x).earlyPkts = s.earlyPkts := rfl
@[simp] theorem State.setSem_leaveQ (n : Nat) (x : Sem) : (s.setSem n x).leaveQ = s.leaveQ := rfl
@[simp] theorem State.setSem_waited (n : Nat) (x : Sem) : (s.setSem n x).waited = s.waited := rfl
@[simp] theorem State.setSem_readyQ (n : Nat) (x : Sem) : (s.setSem n x).readyQ = s.readyQ := rfl
@[simp] theorem State.setSem_resvs (n : Nat) (x : Sem) : (s.setSem n x).resvs = s.resvs := rfl
@[simp] theorem State.setSem_dip (n : Nat) (x : Sem) : (s.setSem n x).dip = s.dip := rfl
@[simp] theorem State.setSem_thermSteps (n : Nat) (x : Sem) : (s.setSem n x).thermSteps = s.thermSteps := rfl
@[simp] theorem State.setSem_dipSteps (n : Nat) (x : Sem) : (s.setSem n x).dipSteps = s.dipSteps := rfl
@[simp] theorem State.setSem_fences (n : Nat) (x : Sem) : (s.setSem n x).fences = s.fences := rfl
@[simp] theorem State.setSem_ringHead (n : Nat) (x : Sem) : (s.setSem n x).ringHead = s.ringHead := rfl
@[simp] theorem State.setSem_thrs (n : Nat) (x : Sem) : (s.setSem n x).thrs = s.thrs := rfl
@[simp] theorem State.setSem_ports (n : Nat) (x : Sem) : (s.setSem n x).ports = s.ports := rfl
@[simp] theorem State.setSem_slots (n : Nat) (x : Sem) : (s.setSem n x).slots = s.slots := rfl
@[simp] theorem State.setSem_qps (n : Nat) (x : Sem) : (s.setSem n x).qps = s.qps := rfl
@[simp] theorem State.setSem_mrs (n : Nat) (x : Sem) : (s.setSem n x).mrs = s.mrs := rfl
@[simp] theorem State.setSem_sessions (n : Nat) (x : Sem) : (s.setSem n x).sessions = s.sessions := rfl
@[simp] theorem State.setSem_eths (n : Nat) (x : Sem) : (s.setSem n x).eths = s.eths := rfl
@[simp] theorem State.setSem_log (n : Nat) (x : Sem) : (s.setSem n x).log = s.log := rfl
@[simp] theorem State.setSem_fieldFirst (n : Nat) (x : Sem) : (s.setSem n x).fieldFirst = s.fieldFirst := rfl
@[simp] theorem State.setSem_fieldStamps (n : Nat) (x : Sem) : (s.setSem n x).fieldStamps = s.fieldStamps := rfl
@[simp] theorem State.setSem_flash (n : Nat) (x : Sem) : (s.setSem n x).flash = s.flash := rfl
@[simp] theorem State.setSem_fuses (n : Nat) (x : Sem) : (s.setSem n x).fuses = s.fuses := rfl
@[simp] theorem State.setSem_pins (n : Nat) (x : Sem) : (s.setSem n x).pins = s.pins := rfl
@[simp] theorem State.setSem_roceHeld (n : Nat) (x : Sem) : (s.setSem n x).roceHeld = s.roceHeld := rfl
@[simp] theorem State.setSem_helloSec (n : Nat) (x : Sem) : (s.setSem n x).helloSec = s.helloSec := rfl
@[simp] theorem State.setSem_resetAsked (n : Nat) (x : Sem) : (s.setSem n x).resetAsked = s.resetAsked := rfl
@[simp] theorem State.setSem_resetRun (n : Nat) (x : Sem) : (s.setSem n x).resetRun = s.resetRun := rfl
@[simp] theorem State.setSem_fallowStep (n : Nat) (x : Sem) : (s.setSem n x).fallowStep = s.fallowStep := rfl
@[simp] theorem State.setSem_storeRun (n : Nat) (x : Sem) : (s.setSem n x).storeRun = s.storeRun := rfl
@[simp] theorem State.setSem_storeSlot (n : Nat) (x : Sem) : (s.setSem n x).storeSlot = s.storeSlot := rfl
@[simp] theorem State.setSem_fwStage (n : Nat) (x : Sem) : (s.setSem n x).fwStage = s.fwStage := rfl
@[simp] theorem State.setSem_attestRun (n : Nat) (x : Sem) : (s.setSem n x).attestRun = s.attestRun := rfl
@[simp] theorem State.setSem_watchdogMs (n : Nat) (x : Sem) : (s.setSem n x).watchdogMs = s.watchdogMs := rfl
@[simp] theorem State.setSem_pllSince (n : Nat) (x : Sem) : (s.setSem n x).pllSince = s.pllSince := rfl
@[simp] theorem State.setSem_energyUj (n : Nat) (x : Sem) : (s.setSem n x).energyUj = s.energyUj := rfl
@[simp] theorem State.setSem_memLost (n : Nat) (x : Sem) : (s.setSem n x).memLost = s.memLost := rfl
@[simp] theorem State.setSem_udpPort (n : Nat) (x : Sem) : (s.setSem n x).udpPort = s.udpPort := rfl
@[simp] theorem State.setSem_memRate (n : Nat) (x : Sem) : (s.setSem n x).memRate = s.memRate := rfl
@[simp] theorem State.setSem_linkCfg (n : Nat) (x : Sem) : (s.setSem n x).linkCfg = s.linkCfg := rfl

/-! ### `setRing` -/

@[simp] theorem State.setRing_pending (q : Nat) (r : Ring) : (s.setRing q r).pending = s.pending := rfl
@[simp] theorem State.setRing_out (q : Nat) (r : Ring) : (s.setRing q r).out = s.out := rfl
@[simp] theorem State.setRing_obj (q : Nat) (r : Ring) : (s.setRing q r).obj = s.obj := rfl
@[simp] theorem State.setRing_blob (q : Nat) (r : Ring) : (s.setRing q r).blob = s.blob := rfl
@[simp] theorem State.setRing_sel (q : Nat) (r : Ring) : (s.setRing q r).sel = s.sel := rfl
@[simp] theorem State.setRing_selBlob (q : Nat) (r : Ring) : (s.setRing q r).selBlob = s.selBlob := rfl
@[simp] theorem State.setRing_freeCtr (q : Nat) (r : Ring) : (s.setRing q r).freeCtr = s.freeCtr := rfl
@[simp] theorem State.setRing_mem (q : Nat) (r : Ring) : (s.setRing q r).mem = s.mem := rfl
@[simp] theorem State.setRing_chk (q : Nat) (r : Ring) : (s.setRing q r).chk = s.chk := rfl
@[simp] theorem State.setRing_vchk (q : Nat) (r : Ring) : (s.setRing q r).vchk = s.vchk := rfl
@[simp] theorem State.setRing_subch (q : Nat) (r : Ring) : (s.setRing q r).subch = s.subch := rfl
@[simp] theorem State.setRing_pkgTemp (q : Nat) (r : Ring) : (s.setRing q r).pkgTemp = s.pkgTemp := rfl
@[simp] theorem State.setRing_vreg (q : Nat) (r : Ring) : (s.setRing q r).vreg = s.vreg := rfl
@[simp] theorem State.setRing_mreg (q : Nat) (r : Ring) : (s.setRing q r).mreg = s.mreg := rfl
@[simp] theorem State.setRing_ctxs (q : Nat) (r : Ring) : (s.setRing q r).ctxs = s.ctxs := rfl
@[simp] theorem State.setRing_ops (q : Nat) (r : Ring) : (s.setRing q r).ops = s.ops := rfl
@[simp] theorem State.setRing_nextOp (q : Nat) (r : Ring) : (s.setRing q r).nextOp = s.nextOp := rfl
@[simp] theorem State.setRing_stopped (q : Nat) (r : Ring) : (s.setRing q r).stopped = s.stopped := rfl
@[simp] theorem State.setRing_sems (q : Nat) (r : Ring) : (s.setRing q r).sems = s.sems := rfl
@[simp] theorem State.setRing_unrec (q : Nat) (r : Ring) : (s.setRing q r).unrec = s.unrec := rfl
@[simp] theorem State.setRing_rings (q : Nat) (r : Ring) : (s.setRing q r).rings = SMap.set {} s.rings q r := rfl
@[simp] theorem State.setRing_tables (q : Nat) (r : Ring) : (s.setRing q r).tables = s.tables := rfl
@[simp] theorem State.setRing_load (q : Nat) (r : Ring) : (s.setRing q r).load = s.load := rfl
@[simp] theorem State.setRing_alm (q : Nat) (r : Ring) : (s.setRing q r).alm = s.alm := rfl
@[simp] theorem State.setRing_stepRun (q : Nat) (r : Ring) : (s.setRing q r).stepRun = s.stepRun := rfl
@[simp] theorem State.setRing_stepDead (q : Nat) (r : Ring) : (s.setRing q r).stepDead = s.stepDead := rfl
@[simp] theorem State.setRing_stepQueue (q : Nat) (r : Ring) : (s.setRing q r).stepQueue = s.stepQueue := rfl
@[simp] theorem State.setRing_censusRecv (q : Nat) (r : Ring) : (s.setRing q r).censusRecv = s.censusRecv := rfl
@[simp] theorem State.setRing_updWait (q : Nat) (r : Ring) : (s.setRing q r).updWait = s.updWait := rfl
@[simp] theorem State.setRing_baleFrom (q : Nat) (r : Ring) : (s.setRing q r).baleFrom = s.baleFrom := rfl
@[simp] theorem State.setRing_balesDone (q : Nat) (r : Ring) : (s.setRing q r).balesDone = s.balesDone := rfl
@[simp] theorem State.setRing_balesAborted (q : Nat) (r : Ring) : (s.setRing q r).balesAborted = s.balesAborted := rfl
@[simp] theorem State.setRing_updDiscard (q : Nat) (r : Ring) : (s.setRing q r).updDiscard = s.updDiscard := rfl
@[simp] theorem State.setRing_wmax (q : Nat) (r : Ring) : (s.setRing q r).wmax = s.wmax := rfl
@[simp] theorem State.setRing_wsat (q : Nat) (r : Ring) : (s.setRing q r).wsat = s.wsat := rfl
@[simp] theorem State.setRing_abortedInStep (q : Nat) (r : Ring) : (s.setRing q r).abortedInStep = s.abortedInStep := rfl
@[simp] theorem State.setRing_earlyPkts (q : Nat) (r : Ring) : (s.setRing q r).earlyPkts = s.earlyPkts := rfl
@[simp] theorem State.setRing_leaveQ (q : Nat) (r : Ring) : (s.setRing q r).leaveQ = s.leaveQ := rfl
@[simp] theorem State.setRing_waited (q : Nat) (r : Ring) : (s.setRing q r).waited = s.waited := rfl
@[simp] theorem State.setRing_readyQ (q : Nat) (r : Ring) : (s.setRing q r).readyQ = s.readyQ := rfl
@[simp] theorem State.setRing_resvs (q : Nat) (r : Ring) : (s.setRing q r).resvs = s.resvs := rfl
@[simp] theorem State.setRing_dip (q : Nat) (r : Ring) : (s.setRing q r).dip = s.dip := rfl
@[simp] theorem State.setRing_thermSteps (q : Nat) (r : Ring) : (s.setRing q r).thermSteps = s.thermSteps := rfl
@[simp] theorem State.setRing_dipSteps (q : Nat) (r : Ring) : (s.setRing q r).dipSteps = s.dipSteps := rfl
@[simp] theorem State.setRing_fences (q : Nat) (r : Ring) : (s.setRing q r).fences = s.fences := rfl
@[simp] theorem State.setRing_ringHead (q : Nat) (r : Ring) : (s.setRing q r).ringHead = s.ringHead := rfl
@[simp] theorem State.setRing_thrs (q : Nat) (r : Ring) : (s.setRing q r).thrs = s.thrs := rfl
@[simp] theorem State.setRing_ports (q : Nat) (r : Ring) : (s.setRing q r).ports = s.ports := rfl
@[simp] theorem State.setRing_slots (q : Nat) (r : Ring) : (s.setRing q r).slots = s.slots := rfl
@[simp] theorem State.setRing_qps (q : Nat) (r : Ring) : (s.setRing q r).qps = s.qps := rfl
@[simp] theorem State.setRing_mrs (q : Nat) (r : Ring) : (s.setRing q r).mrs = s.mrs := rfl
@[simp] theorem State.setRing_sessions (q : Nat) (r : Ring) : (s.setRing q r).sessions = s.sessions := rfl
@[simp] theorem State.setRing_eths (q : Nat) (r : Ring) : (s.setRing q r).eths = s.eths := rfl
@[simp] theorem State.setRing_log (q : Nat) (r : Ring) : (s.setRing q r).log = s.log := rfl
@[simp] theorem State.setRing_fieldFirst (q : Nat) (r : Ring) : (s.setRing q r).fieldFirst = s.fieldFirst := rfl
@[simp] theorem State.setRing_fieldStamps (q : Nat) (r : Ring) : (s.setRing q r).fieldStamps = s.fieldStamps := rfl
@[simp] theorem State.setRing_flash (q : Nat) (r : Ring) : (s.setRing q r).flash = s.flash := rfl
@[simp] theorem State.setRing_fuses (q : Nat) (r : Ring) : (s.setRing q r).fuses = s.fuses := rfl
@[simp] theorem State.setRing_pins (q : Nat) (r : Ring) : (s.setRing q r).pins = s.pins := rfl
@[simp] theorem State.setRing_roceHeld (q : Nat) (r : Ring) : (s.setRing q r).roceHeld = s.roceHeld := rfl
@[simp] theorem State.setRing_helloSec (q : Nat) (r : Ring) : (s.setRing q r).helloSec = s.helloSec := rfl
@[simp] theorem State.setRing_resetAsked (q : Nat) (r : Ring) : (s.setRing q r).resetAsked = s.resetAsked := rfl
@[simp] theorem State.setRing_resetRun (q : Nat) (r : Ring) : (s.setRing q r).resetRun = s.resetRun := rfl
@[simp] theorem State.setRing_fallowStep (q : Nat) (r : Ring) : (s.setRing q r).fallowStep = s.fallowStep := rfl
@[simp] theorem State.setRing_storeRun (q : Nat) (r : Ring) : (s.setRing q r).storeRun = s.storeRun := rfl
@[simp] theorem State.setRing_storeSlot (q : Nat) (r : Ring) : (s.setRing q r).storeSlot = s.storeSlot := rfl
@[simp] theorem State.setRing_fwStage (q : Nat) (r : Ring) : (s.setRing q r).fwStage = s.fwStage := rfl
@[simp] theorem State.setRing_attestRun (q : Nat) (r : Ring) : (s.setRing q r).attestRun = s.attestRun := rfl
@[simp] theorem State.setRing_watchdogMs (q : Nat) (r : Ring) : (s.setRing q r).watchdogMs = s.watchdogMs := rfl
@[simp] theorem State.setRing_pllSince (q : Nat) (r : Ring) : (s.setRing q r).pllSince = s.pllSince := rfl
@[simp] theorem State.setRing_energyUj (q : Nat) (r : Ring) : (s.setRing q r).energyUj = s.energyUj := rfl
@[simp] theorem State.setRing_memLost (q : Nat) (r : Ring) : (s.setRing q r).memLost = s.memLost := rfl
@[simp] theorem State.setRing_udpPort (q : Nat) (r : Ring) : (s.setRing q r).udpPort = s.udpPort := rfl
@[simp] theorem State.setRing_memRate (q : Nat) (r : Ring) : (s.setRing q r).memRate = s.memRate := rfl
@[simp] theorem State.setRing_linkCfg (q : Nat) (r : Ring) : (s.setRing q r).linkCfg = s.linkCfg := rfl

/-! ### `setSub` -/

@[simp] theorem State.setSub_pending (c : Nat) (x : Subch) : (s.setSub c x).pending = s.pending := rfl
@[simp] theorem State.setSub_out (c : Nat) (x : Subch) : (s.setSub c x).out = s.out := rfl
@[simp] theorem State.setSub_obj (c : Nat) (x : Subch) : (s.setSub c x).obj = s.obj := rfl
@[simp] theorem State.setSub_blob (c : Nat) (x : Subch) : (s.setSub c x).blob = s.blob := rfl
@[simp] theorem State.setSub_sel (c : Nat) (x : Subch) : (s.setSub c x).sel = s.sel := rfl
@[simp] theorem State.setSub_selBlob (c : Nat) (x : Subch) : (s.setSub c x).selBlob = s.selBlob := rfl
@[simp] theorem State.setSub_freeCtr (c : Nat) (x : Subch) : (s.setSub c x).freeCtr = s.freeCtr := rfl
@[simp] theorem State.setSub_mem (c : Nat) (x : Subch) : (s.setSub c x).mem = s.mem := rfl
@[simp] theorem State.setSub_chk (c : Nat) (x : Subch) : (s.setSub c x).chk = s.chk := rfl
@[simp] theorem State.setSub_vchk (c : Nat) (x : Subch) : (s.setSub c x).vchk = s.vchk := rfl
@[simp] theorem State.setSub_subch (c : Nat) (x : Subch) : (s.setSub c x).subch = SMap.set {} s.subch c x := rfl
@[simp] theorem State.setSub_pkgTemp (c : Nat) (x : Subch) : (s.setSub c x).pkgTemp = s.pkgTemp := rfl
@[simp] theorem State.setSub_vreg (c : Nat) (x : Subch) : (s.setSub c x).vreg = s.vreg := rfl
@[simp] theorem State.setSub_mreg (c : Nat) (x : Subch) : (s.setSub c x).mreg = s.mreg := rfl
@[simp] theorem State.setSub_ctxs (c : Nat) (x : Subch) : (s.setSub c x).ctxs = s.ctxs := rfl
@[simp] theorem State.setSub_ops (c : Nat) (x : Subch) : (s.setSub c x).ops = s.ops := rfl
@[simp] theorem State.setSub_nextOp (c : Nat) (x : Subch) : (s.setSub c x).nextOp = s.nextOp := rfl
@[simp] theorem State.setSub_stopped (c : Nat) (x : Subch) : (s.setSub c x).stopped = s.stopped := rfl
@[simp] theorem State.setSub_sems (c : Nat) (x : Subch) : (s.setSub c x).sems = s.sems := rfl
@[simp] theorem State.setSub_unrec (c : Nat) (x : Subch) : (s.setSub c x).unrec = s.unrec := rfl
@[simp] theorem State.setSub_rings (c : Nat) (x : Subch) : (s.setSub c x).rings = s.rings := rfl
@[simp] theorem State.setSub_tables (c : Nat) (x : Subch) : (s.setSub c x).tables = s.tables := rfl
@[simp] theorem State.setSub_load (c : Nat) (x : Subch) : (s.setSub c x).load = s.load := rfl
@[simp] theorem State.setSub_alm (c : Nat) (x : Subch) : (s.setSub c x).alm = s.alm := rfl
@[simp] theorem State.setSub_stepRun (c : Nat) (x : Subch) : (s.setSub c x).stepRun = s.stepRun := rfl
@[simp] theorem State.setSub_stepDead (c : Nat) (x : Subch) : (s.setSub c x).stepDead = s.stepDead := rfl
@[simp] theorem State.setSub_stepQueue (c : Nat) (x : Subch) : (s.setSub c x).stepQueue = s.stepQueue := rfl
@[simp] theorem State.setSub_censusRecv (c : Nat) (x : Subch) : (s.setSub c x).censusRecv = s.censusRecv := rfl
@[simp] theorem State.setSub_updWait (c : Nat) (x : Subch) : (s.setSub c x).updWait = s.updWait := rfl
@[simp] theorem State.setSub_baleFrom (c : Nat) (x : Subch) : (s.setSub c x).baleFrom = s.baleFrom := rfl
@[simp] theorem State.setSub_balesDone (c : Nat) (x : Subch) : (s.setSub c x).balesDone = s.balesDone := rfl
@[simp] theorem State.setSub_balesAborted (c : Nat) (x : Subch) : (s.setSub c x).balesAborted = s.balesAborted := rfl
@[simp] theorem State.setSub_updDiscard (c : Nat) (x : Subch) : (s.setSub c x).updDiscard = s.updDiscard := rfl
@[simp] theorem State.setSub_wmax (c : Nat) (x : Subch) : (s.setSub c x).wmax = s.wmax := rfl
@[simp] theorem State.setSub_wsat (c : Nat) (x : Subch) : (s.setSub c x).wsat = s.wsat := rfl
@[simp] theorem State.setSub_abortedInStep (c : Nat) (x : Subch) : (s.setSub c x).abortedInStep = s.abortedInStep := rfl
@[simp] theorem State.setSub_earlyPkts (c : Nat) (x : Subch) : (s.setSub c x).earlyPkts = s.earlyPkts := rfl
@[simp] theorem State.setSub_leaveQ (c : Nat) (x : Subch) : (s.setSub c x).leaveQ = s.leaveQ := rfl
@[simp] theorem State.setSub_waited (c : Nat) (x : Subch) : (s.setSub c x).waited = s.waited := rfl
@[simp] theorem State.setSub_readyQ (c : Nat) (x : Subch) : (s.setSub c x).readyQ = s.readyQ := rfl
@[simp] theorem State.setSub_resvs (c : Nat) (x : Subch) : (s.setSub c x).resvs = s.resvs := rfl
@[simp] theorem State.setSub_dip (c : Nat) (x : Subch) : (s.setSub c x).dip = s.dip := rfl
@[simp] theorem State.setSub_thermSteps (c : Nat) (x : Subch) : (s.setSub c x).thermSteps = s.thermSteps := rfl
@[simp] theorem State.setSub_dipSteps (c : Nat) (x : Subch) : (s.setSub c x).dipSteps = s.dipSteps := rfl
@[simp] theorem State.setSub_fences (c : Nat) (x : Subch) : (s.setSub c x).fences = s.fences := rfl
@[simp] theorem State.setSub_ringHead (c : Nat) (x : Subch) : (s.setSub c x).ringHead = s.ringHead := rfl
@[simp] theorem State.setSub_thrs (c : Nat) (x : Subch) : (s.setSub c x).thrs = s.thrs := rfl
@[simp] theorem State.setSub_ports (c : Nat) (x : Subch) : (s.setSub c x).ports = s.ports := rfl
@[simp] theorem State.setSub_slots (c : Nat) (x : Subch) : (s.setSub c x).slots = s.slots := rfl
@[simp] theorem State.setSub_qps (c : Nat) (x : Subch) : (s.setSub c x).qps = s.qps := rfl
@[simp] theorem State.setSub_mrs (c : Nat) (x : Subch) : (s.setSub c x).mrs = s.mrs := rfl
@[simp] theorem State.setSub_sessions (c : Nat) (x : Subch) : (s.setSub c x).sessions = s.sessions := rfl
@[simp] theorem State.setSub_eths (c : Nat) (x : Subch) : (s.setSub c x).eths = s.eths := rfl
@[simp] theorem State.setSub_log (c : Nat) (x : Subch) : (s.setSub c x).log = s.log := rfl
@[simp] theorem State.setSub_fieldFirst (c : Nat) (x : Subch) : (s.setSub c x).fieldFirst = s.fieldFirst := rfl
@[simp] theorem State.setSub_fieldStamps (c : Nat) (x : Subch) : (s.setSub c x).fieldStamps = s.fieldStamps := rfl
@[simp] theorem State.setSub_flash (c : Nat) (x : Subch) : (s.setSub c x).flash = s.flash := rfl
@[simp] theorem State.setSub_fuses (c : Nat) (x : Subch) : (s.setSub c x).fuses = s.fuses := rfl
@[simp] theorem State.setSub_pins (c : Nat) (x : Subch) : (s.setSub c x).pins = s.pins := rfl
@[simp] theorem State.setSub_roceHeld (c : Nat) (x : Subch) : (s.setSub c x).roceHeld = s.roceHeld := rfl
@[simp] theorem State.setSub_helloSec (c : Nat) (x : Subch) : (s.setSub c x).helloSec = s.helloSec := rfl
@[simp] theorem State.setSub_resetAsked (c : Nat) (x : Subch) : (s.setSub c x).resetAsked = s.resetAsked := rfl
@[simp] theorem State.setSub_resetRun (c : Nat) (x : Subch) : (s.setSub c x).resetRun = s.resetRun := rfl
@[simp] theorem State.setSub_fallowStep (c : Nat) (x : Subch) : (s.setSub c x).fallowStep = s.fallowStep := rfl
@[simp] theorem State.setSub_storeRun (c : Nat) (x : Subch) : (s.setSub c x).storeRun = s.storeRun := rfl
@[simp] theorem State.setSub_storeSlot (c : Nat) (x : Subch) : (s.setSub c x).storeSlot = s.storeSlot := rfl
@[simp] theorem State.setSub_fwStage (c : Nat) (x : Subch) : (s.setSub c x).fwStage = s.fwStage := rfl
@[simp] theorem State.setSub_attestRun (c : Nat) (x : Subch) : (s.setSub c x).attestRun = s.attestRun := rfl
@[simp] theorem State.setSub_watchdogMs (c : Nat) (x : Subch) : (s.setSub c x).watchdogMs = s.watchdogMs := rfl
@[simp] theorem State.setSub_pllSince (c : Nat) (x : Subch) : (s.setSub c x).pllSince = s.pllSince := rfl
@[simp] theorem State.setSub_energyUj (c : Nat) (x : Subch) : (s.setSub c x).energyUj = s.energyUj := rfl
@[simp] theorem State.setSub_memLost (c : Nat) (x : Subch) : (s.setSub c x).memLost = s.memLost := rfl
@[simp] theorem State.setSub_udpPort (c : Nat) (x : Subch) : (s.setSub c x).udpPort = s.udpPort := rfl
@[simp] theorem State.setSub_memRate (c : Nat) (x : Subch) : (s.setSub c x).memRate = s.memRate := rfl
@[simp] theorem State.setSub_linkCfg (c : Nat) (x : Subch) : (s.setSub c x).linkCfg = s.linkCfg := rfl

/-! ### `setTable` -/

@[simp] theorem State.setTable_pending (t : Nat) (x : Table) : (s.setTable t x).pending = s.pending := rfl
@[simp] theorem State.setTable_out (t : Nat) (x : Table) : (s.setTable t x).out = s.out := rfl
@[simp] theorem State.setTable_obj (t : Nat) (x : Table) : (s.setTable t x).obj = s.obj := rfl
@[simp] theorem State.setTable_blob (t : Nat) (x : Table) : (s.setTable t x).blob = s.blob := rfl
@[simp] theorem State.setTable_sel (t : Nat) (x : Table) : (s.setTable t x).sel = s.sel := rfl
@[simp] theorem State.setTable_selBlob (t : Nat) (x : Table) : (s.setTable t x).selBlob = s.selBlob := rfl
@[simp] theorem State.setTable_freeCtr (t : Nat) (x : Table) : (s.setTable t x).freeCtr = s.freeCtr := rfl
@[simp] theorem State.setTable_mem (t : Nat) (x : Table) : (s.setTable t x).mem = s.mem := rfl
@[simp] theorem State.setTable_chk (t : Nat) (x : Table) : (s.setTable t x).chk = s.chk := rfl
@[simp] theorem State.setTable_vchk (t : Nat) (x : Table) : (s.setTable t x).vchk = s.vchk := rfl
@[simp] theorem State.setTable_subch (t : Nat) (x : Table) : (s.setTable t x).subch = s.subch := rfl
@[simp] theorem State.setTable_pkgTemp (t : Nat) (x : Table) : (s.setTable t x).pkgTemp = s.pkgTemp := rfl
@[simp] theorem State.setTable_vreg (t : Nat) (x : Table) : (s.setTable t x).vreg = s.vreg := rfl
@[simp] theorem State.setTable_mreg (t : Nat) (x : Table) : (s.setTable t x).mreg = s.mreg := rfl
@[simp] theorem State.setTable_ctxs (t : Nat) (x : Table) : (s.setTable t x).ctxs = s.ctxs := rfl
@[simp] theorem State.setTable_ops (t : Nat) (x : Table) : (s.setTable t x).ops = s.ops := rfl
@[simp] theorem State.setTable_nextOp (t : Nat) (x : Table) : (s.setTable t x).nextOp = s.nextOp := rfl
@[simp] theorem State.setTable_stopped (t : Nat) (x : Table) : (s.setTable t x).stopped = s.stopped := rfl
@[simp] theorem State.setTable_sems (t : Nat) (x : Table) : (s.setTable t x).sems = s.sems := rfl
@[simp] theorem State.setTable_unrec (t : Nat) (x : Table) : (s.setTable t x).unrec = s.unrec := rfl
@[simp] theorem State.setTable_rings (t : Nat) (x : Table) : (s.setTable t x).rings = s.rings := rfl
@[simp] theorem State.setTable_tables (t : Nat) (x : Table) : (s.setTable t x).tables = SMap.set {} s.tables t x := rfl
@[simp] theorem State.setTable_load (t : Nat) (x : Table) : (s.setTable t x).load = s.load := rfl
@[simp] theorem State.setTable_alm (t : Nat) (x : Table) : (s.setTable t x).alm = s.alm := rfl
@[simp] theorem State.setTable_stepRun (t : Nat) (x : Table) : (s.setTable t x).stepRun = s.stepRun := rfl
@[simp] theorem State.setTable_stepDead (t : Nat) (x : Table) : (s.setTable t x).stepDead = s.stepDead := rfl
@[simp] theorem State.setTable_stepQueue (t : Nat) (x : Table) : (s.setTable t x).stepQueue = s.stepQueue := rfl
@[simp] theorem State.setTable_censusRecv (t : Nat) (x : Table) : (s.setTable t x).censusRecv = s.censusRecv := rfl
@[simp] theorem State.setTable_updWait (t : Nat) (x : Table) : (s.setTable t x).updWait = s.updWait := rfl
@[simp] theorem State.setTable_baleFrom (t : Nat) (x : Table) : (s.setTable t x).baleFrom = s.baleFrom := rfl
@[simp] theorem State.setTable_balesDone (t : Nat) (x : Table) : (s.setTable t x).balesDone = s.balesDone := rfl
@[simp] theorem State.setTable_balesAborted (t : Nat) (x : Table) : (s.setTable t x).balesAborted = s.balesAborted := rfl
@[simp] theorem State.setTable_updDiscard (t : Nat) (x : Table) : (s.setTable t x).updDiscard = s.updDiscard := rfl
@[simp] theorem State.setTable_wmax (t : Nat) (x : Table) : (s.setTable t x).wmax = s.wmax := rfl
@[simp] theorem State.setTable_wsat (t : Nat) (x : Table) : (s.setTable t x).wsat = s.wsat := rfl
@[simp] theorem State.setTable_abortedInStep (t : Nat) (x : Table) : (s.setTable t x).abortedInStep = s.abortedInStep := rfl
@[simp] theorem State.setTable_earlyPkts (t : Nat) (x : Table) : (s.setTable t x).earlyPkts = s.earlyPkts := rfl
@[simp] theorem State.setTable_leaveQ (t : Nat) (x : Table) : (s.setTable t x).leaveQ = s.leaveQ := rfl
@[simp] theorem State.setTable_waited (t : Nat) (x : Table) : (s.setTable t x).waited = s.waited := rfl
@[simp] theorem State.setTable_readyQ (t : Nat) (x : Table) : (s.setTable t x).readyQ = s.readyQ := rfl
@[simp] theorem State.setTable_resvs (t : Nat) (x : Table) : (s.setTable t x).resvs = s.resvs := rfl
@[simp] theorem State.setTable_dip (t : Nat) (x : Table) : (s.setTable t x).dip = s.dip := rfl
@[simp] theorem State.setTable_thermSteps (t : Nat) (x : Table) : (s.setTable t x).thermSteps = s.thermSteps := rfl
@[simp] theorem State.setTable_dipSteps (t : Nat) (x : Table) : (s.setTable t x).dipSteps = s.dipSteps := rfl
@[simp] theorem State.setTable_fences (t : Nat) (x : Table) : (s.setTable t x).fences = s.fences := rfl
@[simp] theorem State.setTable_ringHead (t : Nat) (x : Table) : (s.setTable t x).ringHead = s.ringHead := rfl
@[simp] theorem State.setTable_thrs (t : Nat) (x : Table) : (s.setTable t x).thrs = s.thrs := rfl
@[simp] theorem State.setTable_ports (t : Nat) (x : Table) : (s.setTable t x).ports = s.ports := rfl
@[simp] theorem State.setTable_slots (t : Nat) (x : Table) : (s.setTable t x).slots = s.slots := rfl
@[simp] theorem State.setTable_qps (t : Nat) (x : Table) : (s.setTable t x).qps = s.qps := rfl
@[simp] theorem State.setTable_mrs (t : Nat) (x : Table) : (s.setTable t x).mrs = s.mrs := rfl
@[simp] theorem State.setTable_sessions (t : Nat) (x : Table) : (s.setTable t x).sessions = s.sessions := rfl
@[simp] theorem State.setTable_eths (t : Nat) (x : Table) : (s.setTable t x).eths = s.eths := rfl
@[simp] theorem State.setTable_log (t : Nat) (x : Table) : (s.setTable t x).log = s.log := rfl
@[simp] theorem State.setTable_fieldFirst (t : Nat) (x : Table) : (s.setTable t x).fieldFirst = s.fieldFirst := rfl
@[simp] theorem State.setTable_fieldStamps (t : Nat) (x : Table) : (s.setTable t x).fieldStamps = s.fieldStamps := rfl
@[simp] theorem State.setTable_flash (t : Nat) (x : Table) : (s.setTable t x).flash = s.flash := rfl
@[simp] theorem State.setTable_fuses (t : Nat) (x : Table) : (s.setTable t x).fuses = s.fuses := rfl
@[simp] theorem State.setTable_pins (t : Nat) (x : Table) : (s.setTable t x).pins = s.pins := rfl
@[simp] theorem State.setTable_roceHeld (t : Nat) (x : Table) : (s.setTable t x).roceHeld = s.roceHeld := rfl
@[simp] theorem State.setTable_helloSec (t : Nat) (x : Table) : (s.setTable t x).helloSec = s.helloSec := rfl
@[simp] theorem State.setTable_resetAsked (t : Nat) (x : Table) : (s.setTable t x).resetAsked = s.resetAsked := rfl
@[simp] theorem State.setTable_resetRun (t : Nat) (x : Table) : (s.setTable t x).resetRun = s.resetRun := rfl
@[simp] theorem State.setTable_fallowStep (t : Nat) (x : Table) : (s.setTable t x).fallowStep = s.fallowStep := rfl
@[simp] theorem State.setTable_storeRun (t : Nat) (x : Table) : (s.setTable t x).storeRun = s.storeRun := rfl
@[simp] theorem State.setTable_storeSlot (t : Nat) (x : Table) : (s.setTable t x).storeSlot = s.storeSlot := rfl
@[simp] theorem State.setTable_fwStage (t : Nat) (x : Table) : (s.setTable t x).fwStage = s.fwStage := rfl
@[simp] theorem State.setTable_attestRun (t : Nat) (x : Table) : (s.setTable t x).attestRun = s.attestRun := rfl
@[simp] theorem State.setTable_watchdogMs (t : Nat) (x : Table) : (s.setTable t x).watchdogMs = s.watchdogMs := rfl
@[simp] theorem State.setTable_pllSince (t : Nat) (x : Table) : (s.setTable t x).pllSince = s.pllSince := rfl
@[simp] theorem State.setTable_energyUj (t : Nat) (x : Table) : (s.setTable t x).energyUj = s.energyUj := rfl
@[simp] theorem State.setTable_memLost (t : Nat) (x : Table) : (s.setTable t x).memLost = s.memLost := rfl
@[simp] theorem State.setTable_udpPort (t : Nat) (x : Table) : (s.setTable t x).udpPort = s.udpPort := rfl
@[simp] theorem State.setTable_memRate (t : Nat) (x : Table) : (s.setTable t x).memRate = s.memRate := rfl
@[simp] theorem State.setTable_linkCfg (t : Nat) (x : Table) : (s.setTable t x).linkCfg = s.linkCfg := rfl

/-! ### `setVslot` -/

@[simp] theorem State.setVslot_pending (core r slot v : Nat) : (s.setVslot core r slot v).pending = s.pending := rfl
@[simp] theorem State.setVslot_out (core r slot v : Nat) : (s.setVslot core r slot v).out = s.out := rfl
@[simp] theorem State.setVslot_obj (core r slot v : Nat) : (s.setVslot core r slot v).obj = s.obj := rfl
@[simp] theorem State.setVslot_blob (core r slot v : Nat) : (s.setVslot core r slot v).blob = s.blob := rfl
@[simp] theorem State.setVslot_sel (core r slot v : Nat) : (s.setVslot core r slot v).sel = s.sel := rfl
@[simp] theorem State.setVslot_selBlob (core r slot v : Nat) : (s.setVslot core r slot v).selBlob = s.selBlob := rfl
@[simp] theorem State.setVslot_freeCtr (core r slot v : Nat) : (s.setVslot core r slot v).freeCtr = s.freeCtr := rfl
@[simp] theorem State.setVslot_mem (core r slot v : Nat) : (s.setVslot core r slot v).mem = s.mem := rfl
@[simp] theorem State.setVslot_chk (core r slot v : Nat) : (s.setVslot core r slot v).chk = s.chk := rfl
@[simp] theorem State.setVslot_vchk (core r slot v : Nat) : (s.setVslot core r slot v).vchk = s.vchk := rfl
@[simp] theorem State.setVslot_subch (core r slot v : Nat) : (s.setVslot core r slot v).subch = s.subch := rfl
@[simp] theorem State.setVslot_pkgTemp (core r slot v : Nat) : (s.setVslot core r slot v).pkgTemp = s.pkgTemp := rfl
@[simp] theorem State.setVslot_vreg (core r slot v : Nat) : (s.setVslot core r slot v).vreg = SMap.set 0 s.vreg (vKey core r slot) (v % 2 ^ 32) := rfl
@[simp] theorem State.setVslot_mreg (core r slot v : Nat) : (s.setVslot core r slot v).mreg = s.mreg := rfl
@[simp] theorem State.setVslot_ctxs (core r slot v : Nat) : (s.setVslot core r slot v).ctxs = s.ctxs := rfl
@[simp] theorem State.setVslot_ops (core r slot v : Nat) : (s.setVslot core r slot v).ops = s.ops := rfl
@[simp] theorem State.setVslot_nextOp (core r slot v : Nat) : (s.setVslot core r slot v).nextOp = s.nextOp := rfl
@[simp] theorem State.setVslot_stopped (core r slot v : Nat) : (s.setVslot core r slot v).stopped = s.stopped := rfl
@[simp] theorem State.setVslot_sems (core r slot v : Nat) : (s.setVslot core r slot v).sems = s.sems := rfl
@[simp] theorem State.setVslot_unrec (core r slot v : Nat) : (s.setVslot core r slot v).unrec = s.unrec := rfl
@[simp] theorem State.setVslot_rings (core r slot v : Nat) : (s.setVslot core r slot v).rings = s.rings := rfl
@[simp] theorem State.setVslot_tables (core r slot v : Nat) : (s.setVslot core r slot v).tables = s.tables := rfl
@[simp] theorem State.setVslot_load (core r slot v : Nat) : (s.setVslot core r slot v).load = s.load := rfl
@[simp] theorem State.setVslot_alm (core r slot v : Nat) : (s.setVslot core r slot v).alm = s.alm := rfl
@[simp] theorem State.setVslot_stepRun (core r slot v : Nat) : (s.setVslot core r slot v).stepRun = s.stepRun := rfl
@[simp] theorem State.setVslot_stepDead (core r slot v : Nat) : (s.setVslot core r slot v).stepDead = s.stepDead := rfl
@[simp] theorem State.setVslot_stepQueue (core r slot v : Nat) : (s.setVslot core r slot v).stepQueue = s.stepQueue := rfl
@[simp] theorem State.setVslot_censusRecv (core r slot v : Nat) : (s.setVslot core r slot v).censusRecv = s.censusRecv := rfl
@[simp] theorem State.setVslot_updWait (core r slot v : Nat) : (s.setVslot core r slot v).updWait = s.updWait := rfl
@[simp] theorem State.setVslot_baleFrom (core r slot v : Nat) : (s.setVslot core r slot v).baleFrom = s.baleFrom := rfl
@[simp] theorem State.setVslot_balesDone (core r slot v : Nat) : (s.setVslot core r slot v).balesDone = s.balesDone := rfl
@[simp] theorem State.setVslot_balesAborted (core r slot v : Nat) : (s.setVslot core r slot v).balesAborted = s.balesAborted := rfl
@[simp] theorem State.setVslot_updDiscard (core r slot v : Nat) : (s.setVslot core r slot v).updDiscard = s.updDiscard := rfl
@[simp] theorem State.setVslot_wmax (core r slot v : Nat) : (s.setVslot core r slot v).wmax = s.wmax := rfl
@[simp] theorem State.setVslot_wsat (core r slot v : Nat) : (s.setVslot core r slot v).wsat = s.wsat := rfl
@[simp] theorem State.setVslot_abortedInStep (core r slot v : Nat) : (s.setVslot core r slot v).abortedInStep = s.abortedInStep := rfl
@[simp] theorem State.setVslot_earlyPkts (core r slot v : Nat) : (s.setVslot core r slot v).earlyPkts = s.earlyPkts := rfl
@[simp] theorem State.setVslot_leaveQ (core r slot v : Nat) : (s.setVslot core r slot v).leaveQ = s.leaveQ := rfl
@[simp] theorem State.setVslot_waited (core r slot v : Nat) : (s.setVslot core r slot v).waited = s.waited := rfl
@[simp] theorem State.setVslot_readyQ (core r slot v : Nat) : (s.setVslot core r slot v).readyQ = s.readyQ := rfl
@[simp] theorem State.setVslot_resvs (core r slot v : Nat) : (s.setVslot core r slot v).resvs = s.resvs := rfl
@[simp] theorem State.setVslot_dip (core r slot v : Nat) : (s.setVslot core r slot v).dip = s.dip := rfl
@[simp] theorem State.setVslot_thermSteps (core r slot v : Nat) : (s.setVslot core r slot v).thermSteps = s.thermSteps := rfl
@[simp] theorem State.setVslot_dipSteps (core r slot v : Nat) : (s.setVslot core r slot v).dipSteps = s.dipSteps := rfl
@[simp] theorem State.setVslot_fences (core r slot v : Nat) : (s.setVslot core r slot v).fences = s.fences := rfl
@[simp] theorem State.setVslot_ringHead (core r slot v : Nat) : (s.setVslot core r slot v).ringHead = s.ringHead := rfl
@[simp] theorem State.setVslot_thrs (core r slot v : Nat) : (s.setVslot core r slot v).thrs = s.thrs := rfl
@[simp] theorem State.setVslot_ports (core r slot v : Nat) : (s.setVslot core r slot v).ports = s.ports := rfl
@[simp] theorem State.setVslot_slots (core r slot v : Nat) : (s.setVslot core r slot v).slots = s.slots := rfl
@[simp] theorem State.setVslot_qps (core r slot v : Nat) : (s.setVslot core r slot v).qps = s.qps := rfl
@[simp] theorem State.setVslot_mrs (core r slot v : Nat) : (s.setVslot core r slot v).mrs = s.mrs := rfl
@[simp] theorem State.setVslot_sessions (core r slot v : Nat) : (s.setVslot core r slot v).sessions = s.sessions := rfl
@[simp] theorem State.setVslot_eths (core r slot v : Nat) : (s.setVslot core r slot v).eths = s.eths := rfl
@[simp] theorem State.setVslot_log (core r slot v : Nat) : (s.setVslot core r slot v).log = s.log := rfl
@[simp] theorem State.setVslot_fieldFirst (core r slot v : Nat) : (s.setVslot core r slot v).fieldFirst = s.fieldFirst := rfl
@[simp] theorem State.setVslot_fieldStamps (core r slot v : Nat) : (s.setVslot core r slot v).fieldStamps = s.fieldStamps := rfl
@[simp] theorem State.setVslot_flash (core r slot v : Nat) : (s.setVslot core r slot v).flash = s.flash := rfl
@[simp] theorem State.setVslot_fuses (core r slot v : Nat) : (s.setVslot core r slot v).fuses = s.fuses := rfl
@[simp] theorem State.setVslot_pins (core r slot v : Nat) : (s.setVslot core r slot v).pins = s.pins := rfl
@[simp] theorem State.setVslot_roceHeld (core r slot v : Nat) : (s.setVslot core r slot v).roceHeld = s.roceHeld := rfl
@[simp] theorem State.setVslot_helloSec (core r slot v : Nat) : (s.setVslot core r slot v).helloSec = s.helloSec := rfl
@[simp] theorem State.setVslot_resetAsked (core r slot v : Nat) : (s.setVslot core r slot v).resetAsked = s.resetAsked := rfl
@[simp] theorem State.setVslot_resetRun (core r slot v : Nat) : (s.setVslot core r slot v).resetRun = s.resetRun := rfl
@[simp] theorem State.setVslot_fallowStep (core r slot v : Nat) : (s.setVslot core r slot v).fallowStep = s.fallowStep := rfl
@[simp] theorem State.setVslot_storeRun (core r slot v : Nat) : (s.setVslot core r slot v).storeRun = s.storeRun := rfl
@[simp] theorem State.setVslot_storeSlot (core r slot v : Nat) : (s.setVslot core r slot v).storeSlot = s.storeSlot := rfl
@[simp] theorem State.setVslot_fwStage (core r slot v : Nat) : (s.setVslot core r slot v).fwStage = s.fwStage := rfl
@[simp] theorem State.setVslot_attestRun (core r slot v : Nat) : (s.setVslot core r slot v).attestRun = s.attestRun := rfl
@[simp] theorem State.setVslot_watchdogMs (core r slot v : Nat) : (s.setVslot core r slot v).watchdogMs = s.watchdogMs := rfl
@[simp] theorem State.setVslot_pllSince (core r slot v : Nat) : (s.setVslot core r slot v).pllSince = s.pllSince := rfl
@[simp] theorem State.setVslot_energyUj (core r slot v : Nat) : (s.setVslot core r slot v).energyUj = s.energyUj := rfl
@[simp] theorem State.setVslot_memLost (core r slot v : Nat) : (s.setVslot core r slot v).memLost = s.memLost := rfl
@[simp] theorem State.setVslot_udpPort (core r slot v : Nat) : (s.setVslot core r slot v).udpPort = s.udpPort := rfl
@[simp] theorem State.setVslot_memRate (core r slot v : Nat) : (s.setVslot core r slot v).memRate = s.memRate := rfl
@[simp] theorem State.setVslot_linkCfg (core r slot v : Nat) : (s.setVslot core r slot v).linkCfg = s.linkCfg := rfl

/-! ### `setMask` -/

@[simp] theorem State.setMask_pending (core k v : Nat) : (s.setMask core k v).pending = s.pending := rfl
@[simp] theorem State.setMask_out (core k v : Nat) : (s.setMask core k v).out = s.out := rfl
@[simp] theorem State.setMask_obj (core k v : Nat) : (s.setMask core k v).obj = s.obj := rfl
@[simp] theorem State.setMask_blob (core k v : Nat) : (s.setMask core k v).blob = s.blob := rfl
@[simp] theorem State.setMask_sel (core k v : Nat) : (s.setMask core k v).sel = s.sel := rfl
@[simp] theorem State.setMask_selBlob (core k v : Nat) : (s.setMask core k v).selBlob = s.selBlob := rfl
@[simp] theorem State.setMask_freeCtr (core k v : Nat) : (s.setMask core k v).freeCtr = s.freeCtr := rfl
@[simp] theorem State.setMask_mem (core k v : Nat) : (s.setMask core k v).mem = s.mem := rfl
@[simp] theorem State.setMask_chk (core k v : Nat) : (s.setMask core k v).chk = s.chk := rfl
@[simp] theorem State.setMask_vchk (core k v : Nat) : (s.setMask core k v).vchk = s.vchk := rfl
@[simp] theorem State.setMask_subch (core k v : Nat) : (s.setMask core k v).subch = s.subch := rfl
@[simp] theorem State.setMask_pkgTemp (core k v : Nat) : (s.setMask core k v).pkgTemp = s.pkgTemp := rfl
@[simp] theorem State.setMask_vreg (core k v : Nat) : (s.setMask core k v).vreg = s.vreg := rfl
@[simp] theorem State.setMask_mreg (core k v : Nat) : (s.setMask core k v).mreg = SMap.set 0 s.mreg (core * 8 + k % 8) v := rfl
@[simp] theorem State.setMask_ctxs (core k v : Nat) : (s.setMask core k v).ctxs = s.ctxs := rfl
@[simp] theorem State.setMask_ops (core k v : Nat) : (s.setMask core k v).ops = s.ops := rfl
@[simp] theorem State.setMask_nextOp (core k v : Nat) : (s.setMask core k v).nextOp = s.nextOp := rfl
@[simp] theorem State.setMask_stopped (core k v : Nat) : (s.setMask core k v).stopped = s.stopped := rfl
@[simp] theorem State.setMask_sems (core k v : Nat) : (s.setMask core k v).sems = s.sems := rfl
@[simp] theorem State.setMask_unrec (core k v : Nat) : (s.setMask core k v).unrec = s.unrec := rfl
@[simp] theorem State.setMask_rings (core k v : Nat) : (s.setMask core k v).rings = s.rings := rfl
@[simp] theorem State.setMask_tables (core k v : Nat) : (s.setMask core k v).tables = s.tables := rfl
@[simp] theorem State.setMask_load (core k v : Nat) : (s.setMask core k v).load = s.load := rfl
@[simp] theorem State.setMask_alm (core k v : Nat) : (s.setMask core k v).alm = s.alm := rfl
@[simp] theorem State.setMask_stepRun (core k v : Nat) : (s.setMask core k v).stepRun = s.stepRun := rfl
@[simp] theorem State.setMask_stepDead (core k v : Nat) : (s.setMask core k v).stepDead = s.stepDead := rfl
@[simp] theorem State.setMask_stepQueue (core k v : Nat) : (s.setMask core k v).stepQueue = s.stepQueue := rfl
@[simp] theorem State.setMask_censusRecv (core k v : Nat) : (s.setMask core k v).censusRecv = s.censusRecv := rfl
@[simp] theorem State.setMask_updWait (core k v : Nat) : (s.setMask core k v).updWait = s.updWait := rfl
@[simp] theorem State.setMask_baleFrom (core k v : Nat) : (s.setMask core k v).baleFrom = s.baleFrom := rfl
@[simp] theorem State.setMask_balesDone (core k v : Nat) : (s.setMask core k v).balesDone = s.balesDone := rfl
@[simp] theorem State.setMask_balesAborted (core k v : Nat) : (s.setMask core k v).balesAborted = s.balesAborted := rfl
@[simp] theorem State.setMask_updDiscard (core k v : Nat) : (s.setMask core k v).updDiscard = s.updDiscard := rfl
@[simp] theorem State.setMask_wmax (core k v : Nat) : (s.setMask core k v).wmax = s.wmax := rfl
@[simp] theorem State.setMask_wsat (core k v : Nat) : (s.setMask core k v).wsat = s.wsat := rfl
@[simp] theorem State.setMask_abortedInStep (core k v : Nat) : (s.setMask core k v).abortedInStep = s.abortedInStep := rfl
@[simp] theorem State.setMask_earlyPkts (core k v : Nat) : (s.setMask core k v).earlyPkts = s.earlyPkts := rfl
@[simp] theorem State.setMask_leaveQ (core k v : Nat) : (s.setMask core k v).leaveQ = s.leaveQ := rfl
@[simp] theorem State.setMask_waited (core k v : Nat) : (s.setMask core k v).waited = s.waited := rfl
@[simp] theorem State.setMask_readyQ (core k v : Nat) : (s.setMask core k v).readyQ = s.readyQ := rfl
@[simp] theorem State.setMask_resvs (core k v : Nat) : (s.setMask core k v).resvs = s.resvs := rfl
@[simp] theorem State.setMask_dip (core k v : Nat) : (s.setMask core k v).dip = s.dip := rfl
@[simp] theorem State.setMask_thermSteps (core k v : Nat) : (s.setMask core k v).thermSteps = s.thermSteps := rfl
@[simp] theorem State.setMask_dipSteps (core k v : Nat) : (s.setMask core k v).dipSteps = s.dipSteps := rfl
@[simp] theorem State.setMask_fences (core k v : Nat) : (s.setMask core k v).fences = s.fences := rfl
@[simp] theorem State.setMask_ringHead (core k v : Nat) : (s.setMask core k v).ringHead = s.ringHead := rfl
@[simp] theorem State.setMask_thrs (core k v : Nat) : (s.setMask core k v).thrs = s.thrs := rfl
@[simp] theorem State.setMask_ports (core k v : Nat) : (s.setMask core k v).ports = s.ports := rfl
@[simp] theorem State.setMask_slots (core k v : Nat) : (s.setMask core k v).slots = s.slots := rfl
@[simp] theorem State.setMask_qps (core k v : Nat) : (s.setMask core k v).qps = s.qps := rfl
@[simp] theorem State.setMask_mrs (core k v : Nat) : (s.setMask core k v).mrs = s.mrs := rfl
@[simp] theorem State.setMask_sessions (core k v : Nat) : (s.setMask core k v).sessions = s.sessions := rfl
@[simp] theorem State.setMask_eths (core k v : Nat) : (s.setMask core k v).eths = s.eths := rfl
@[simp] theorem State.setMask_log (core k v : Nat) : (s.setMask core k v).log = s.log := rfl
@[simp] theorem State.setMask_fieldFirst (core k v : Nat) : (s.setMask core k v).fieldFirst = s.fieldFirst := rfl
@[simp] theorem State.setMask_fieldStamps (core k v : Nat) : (s.setMask core k v).fieldStamps = s.fieldStamps := rfl
@[simp] theorem State.setMask_flash (core k v : Nat) : (s.setMask core k v).flash = s.flash := rfl
@[simp] theorem State.setMask_fuses (core k v : Nat) : (s.setMask core k v).fuses = s.fuses := rfl
@[simp] theorem State.setMask_pins (core k v : Nat) : (s.setMask core k v).pins = s.pins := rfl
@[simp] theorem State.setMask_roceHeld (core k v : Nat) : (s.setMask core k v).roceHeld = s.roceHeld := rfl
@[simp] theorem State.setMask_helloSec (core k v : Nat) : (s.setMask core k v).helloSec = s.helloSec := rfl
@[simp] theorem State.setMask_resetAsked (core k v : Nat) : (s.setMask core k v).resetAsked = s.resetAsked := rfl
@[simp] theorem State.setMask_resetRun (core k v : Nat) : (s.setMask core k v).resetRun = s.resetRun := rfl
@[simp] theorem State.setMask_fallowStep (core k v : Nat) : (s.setMask core k v).fallowStep = s.fallowStep := rfl
@[simp] theorem State.setMask_storeRun (core k v : Nat) : (s.setMask core k v).storeRun = s.storeRun := rfl
@[simp] theorem State.setMask_storeSlot (core k v : Nat) : (s.setMask core k v).storeSlot = s.storeSlot := rfl
@[simp] theorem State.setMask_fwStage (core k v : Nat) : (s.setMask core k v).fwStage = s.fwStage := rfl
@[simp] theorem State.setMask_attestRun (core k v : Nat) : (s.setMask core k v).attestRun = s.attestRun := rfl
@[simp] theorem State.setMask_watchdogMs (core k v : Nat) : (s.setMask core k v).watchdogMs = s.watchdogMs := rfl
@[simp] theorem State.setMask_pllSince (core k v : Nat) : (s.setMask core k v).pllSince = s.pllSince := rfl
@[simp] theorem State.setMask_energyUj (core k v : Nat) : (s.setMask core k v).energyUj = s.energyUj := rfl
@[simp] theorem State.setMask_memLost (core k v : Nat) : (s.setMask core k v).memLost = s.memLost := rfl
@[simp] theorem State.setMask_udpPort (core k v : Nat) : (s.setMask core k v).udpPort = s.udpPort := rfl
@[simp] theorem State.setMask_memRate (core k v : Nat) : (s.setMask core k v).memRate = s.memRate := rfl
@[simp] theorem State.setMask_linkCfg (core k v : Nat) : (s.setMask core k v).linkCfg = s.linkCfg := rfl

/-! ### `setSel` -/

@[simp] theorem State.setSel_pending (rq : Nat) (o : ObjDef) (v : Nat) : (s.setSel rq o v).pending = s.pending := rfl
@[simp] theorem State.setSel_out (rq : Nat) (o : ObjDef) (v : Nat) : (s.setSel rq o v).out = s.out := rfl
@[simp] theorem State.setSel_obj (rq : Nat) (o : ObjDef) (v : Nat) : (s.setSel rq o v).obj = s.obj := rfl
@[simp] theorem State.setSel_blob (rq : Nat) (o : ObjDef) (v : Nat) : (s.setSel rq o v).blob = s.blob := rfl
@[simp] theorem State.setSel_sel (rq : Nat) (o : ObjDef) (v : Nat) : (s.setSel rq o v).sel = SMap.set o.dflt s.sel (selKey rq o) v := rfl
@[simp] theorem State.setSel_selBlob (rq : Nat) (o : ObjDef) (v : Nat) : (s.setSel rq o v).selBlob = s.selBlob := rfl
@[simp] theorem State.setSel_freeCtr (rq : Nat) (o : ObjDef) (v : Nat) : (s.setSel rq o v).freeCtr = s.freeCtr := rfl
@[simp] theorem State.setSel_mem (rq : Nat) (o : ObjDef) (v : Nat) : (s.setSel rq o v).mem = s.mem := rfl
@[simp] theorem State.setSel_chk (rq : Nat) (o : ObjDef) (v : Nat) : (s.setSel rq o v).chk = s.chk := rfl
@[simp] theorem State.setSel_vchk (rq : Nat) (o : ObjDef) (v : Nat) : (s.setSel rq o v).vchk = s.vchk := rfl
@[simp] theorem State.setSel_subch (rq : Nat) (o : ObjDef) (v : Nat) : (s.setSel rq o v).subch = s.subch := rfl
@[simp] theorem State.setSel_pkgTemp (rq : Nat) (o : ObjDef) (v : Nat) : (s.setSel rq o v).pkgTemp = s.pkgTemp := rfl
@[simp] theorem State.setSel_vreg (rq : Nat) (o : ObjDef) (v : Nat) : (s.setSel rq o v).vreg = s.vreg := rfl
@[simp] theorem State.setSel_mreg (rq : Nat) (o : ObjDef) (v : Nat) : (s.setSel rq o v).mreg = s.mreg := rfl
@[simp] theorem State.setSel_ctxs (rq : Nat) (o : ObjDef) (v : Nat) : (s.setSel rq o v).ctxs = s.ctxs := rfl
@[simp] theorem State.setSel_ops (rq : Nat) (o : ObjDef) (v : Nat) : (s.setSel rq o v).ops = s.ops := rfl
@[simp] theorem State.setSel_nextOp (rq : Nat) (o : ObjDef) (v : Nat) : (s.setSel rq o v).nextOp = s.nextOp := rfl
@[simp] theorem State.setSel_stopped (rq : Nat) (o : ObjDef) (v : Nat) : (s.setSel rq o v).stopped = s.stopped := rfl
@[simp] theorem State.setSel_sems (rq : Nat) (o : ObjDef) (v : Nat) : (s.setSel rq o v).sems = s.sems := rfl
@[simp] theorem State.setSel_unrec (rq : Nat) (o : ObjDef) (v : Nat) : (s.setSel rq o v).unrec = s.unrec := rfl
@[simp] theorem State.setSel_rings (rq : Nat) (o : ObjDef) (v : Nat) : (s.setSel rq o v).rings = s.rings := rfl
@[simp] theorem State.setSel_tables (rq : Nat) (o : ObjDef) (v : Nat) : (s.setSel rq o v).tables = s.tables := rfl
@[simp] theorem State.setSel_load (rq : Nat) (o : ObjDef) (v : Nat) : (s.setSel rq o v).load = s.load := rfl
@[simp] theorem State.setSel_alm (rq : Nat) (o : ObjDef) (v : Nat) : (s.setSel rq o v).alm = s.alm := rfl
@[simp] theorem State.setSel_stepRun (rq : Nat) (o : ObjDef) (v : Nat) : (s.setSel rq o v).stepRun = s.stepRun := rfl
@[simp] theorem State.setSel_stepDead (rq : Nat) (o : ObjDef) (v : Nat) : (s.setSel rq o v).stepDead = s.stepDead := rfl
@[simp] theorem State.setSel_stepQueue (rq : Nat) (o : ObjDef) (v : Nat) : (s.setSel rq o v).stepQueue = s.stepQueue := rfl
@[simp] theorem State.setSel_censusRecv (rq : Nat) (o : ObjDef) (v : Nat) : (s.setSel rq o v).censusRecv = s.censusRecv := rfl
@[simp] theorem State.setSel_updWait (rq : Nat) (o : ObjDef) (v : Nat) : (s.setSel rq o v).updWait = s.updWait := rfl
@[simp] theorem State.setSel_baleFrom (rq : Nat) (o : ObjDef) (v : Nat) : (s.setSel rq o v).baleFrom = s.baleFrom := rfl
@[simp] theorem State.setSel_balesDone (rq : Nat) (o : ObjDef) (v : Nat) : (s.setSel rq o v).balesDone = s.balesDone := rfl
@[simp] theorem State.setSel_balesAborted (rq : Nat) (o : ObjDef) (v : Nat) : (s.setSel rq o v).balesAborted = s.balesAborted := rfl
@[simp] theorem State.setSel_updDiscard (rq : Nat) (o : ObjDef) (v : Nat) : (s.setSel rq o v).updDiscard = s.updDiscard := rfl
@[simp] theorem State.setSel_wmax (rq : Nat) (o : ObjDef) (v : Nat) : (s.setSel rq o v).wmax = s.wmax := rfl
@[simp] theorem State.setSel_wsat (rq : Nat) (o : ObjDef) (v : Nat) : (s.setSel rq o v).wsat = s.wsat := rfl
@[simp] theorem State.setSel_abortedInStep (rq : Nat) (o : ObjDef) (v : Nat) : (s.setSel rq o v).abortedInStep = s.abortedInStep := rfl
@[simp] theorem State.setSel_earlyPkts (rq : Nat) (o : ObjDef) (v : Nat) : (s.setSel rq o v).earlyPkts = s.earlyPkts := rfl
@[simp] theorem State.setSel_leaveQ (rq : Nat) (o : ObjDef) (v : Nat) : (s.setSel rq o v).leaveQ = s.leaveQ := rfl
@[simp] theorem State.setSel_waited (rq : Nat) (o : ObjDef) (v : Nat) : (s.setSel rq o v).waited = s.waited := rfl
@[simp] theorem State.setSel_readyQ (rq : Nat) (o : ObjDef) (v : Nat) : (s.setSel rq o v).readyQ = s.readyQ := rfl
@[simp] theorem State.setSel_resvs (rq : Nat) (o : ObjDef) (v : Nat) : (s.setSel rq o v).resvs = s.resvs := rfl
@[simp] theorem State.setSel_dip (rq : Nat) (o : ObjDef) (v : Nat) : (s.setSel rq o v).dip = s.dip := rfl
@[simp] theorem State.setSel_thermSteps (rq : Nat) (o : ObjDef) (v : Nat) : (s.setSel rq o v).thermSteps = s.thermSteps := rfl
@[simp] theorem State.setSel_dipSteps (rq : Nat) (o : ObjDef) (v : Nat) : (s.setSel rq o v).dipSteps = s.dipSteps := rfl
@[simp] theorem State.setSel_fences (rq : Nat) (o : ObjDef) (v : Nat) : (s.setSel rq o v).fences = s.fences := rfl
@[simp] theorem State.setSel_ringHead (rq : Nat) (o : ObjDef) (v : Nat) : (s.setSel rq o v).ringHead = s.ringHead := rfl
@[simp] theorem State.setSel_thrs (rq : Nat) (o : ObjDef) (v : Nat) : (s.setSel rq o v).thrs = s.thrs := rfl
@[simp] theorem State.setSel_ports (rq : Nat) (o : ObjDef) (v : Nat) : (s.setSel rq o v).ports = s.ports := rfl
@[simp] theorem State.setSel_slots (rq : Nat) (o : ObjDef) (v : Nat) : (s.setSel rq o v).slots = s.slots := rfl
@[simp] theorem State.setSel_qps (rq : Nat) (o : ObjDef) (v : Nat) : (s.setSel rq o v).qps = s.qps := rfl
@[simp] theorem State.setSel_mrs (rq : Nat) (o : ObjDef) (v : Nat) : (s.setSel rq o v).mrs = s.mrs := rfl
@[simp] theorem State.setSel_sessions (rq : Nat) (o : ObjDef) (v : Nat) : (s.setSel rq o v).sessions = s.sessions := rfl
@[simp] theorem State.setSel_eths (rq : Nat) (o : ObjDef) (v : Nat) : (s.setSel rq o v).eths = s.eths := rfl
@[simp] theorem State.setSel_log (rq : Nat) (o : ObjDef) (v : Nat) : (s.setSel rq o v).log = s.log := rfl
@[simp] theorem State.setSel_fieldFirst (rq : Nat) (o : ObjDef) (v : Nat) : (s.setSel rq o v).fieldFirst = s.fieldFirst := rfl
@[simp] theorem State.setSel_fieldStamps (rq : Nat) (o : ObjDef) (v : Nat) : (s.setSel rq o v).fieldStamps = s.fieldStamps := rfl
@[simp] theorem State.setSel_flash (rq : Nat) (o : ObjDef) (v : Nat) : (s.setSel rq o v).flash = s.flash := rfl
@[simp] theorem State.setSel_fuses (rq : Nat) (o : ObjDef) (v : Nat) : (s.setSel rq o v).fuses = s.fuses := rfl
@[simp] theorem State.setSel_pins (rq : Nat) (o : ObjDef) (v : Nat) : (s.setSel rq o v).pins = s.pins := rfl
@[simp] theorem State.setSel_roceHeld (rq : Nat) (o : ObjDef) (v : Nat) : (s.setSel rq o v).roceHeld = s.roceHeld := rfl
@[simp] theorem State.setSel_helloSec (rq : Nat) (o : ObjDef) (v : Nat) : (s.setSel rq o v).helloSec = s.helloSec := rfl
@[simp] theorem State.setSel_resetAsked (rq : Nat) (o : ObjDef) (v : Nat) : (s.setSel rq o v).resetAsked = s.resetAsked := rfl
@[simp] theorem State.setSel_resetRun (rq : Nat) (o : ObjDef) (v : Nat) : (s.setSel rq o v).resetRun = s.resetRun := rfl
@[simp] theorem State.setSel_fallowStep (rq : Nat) (o : ObjDef) (v : Nat) : (s.setSel rq o v).fallowStep = s.fallowStep := rfl
@[simp] theorem State.setSel_storeRun (rq : Nat) (o : ObjDef) (v : Nat) : (s.setSel rq o v).storeRun = s.storeRun := rfl
@[simp] theorem State.setSel_storeSlot (rq : Nat) (o : ObjDef) (v : Nat) : (s.setSel rq o v).storeSlot = s.storeSlot := rfl
@[simp] theorem State.setSel_fwStage (rq : Nat) (o : ObjDef) (v : Nat) : (s.setSel rq o v).fwStage = s.fwStage := rfl
@[simp] theorem State.setSel_attestRun (rq : Nat) (o : ObjDef) (v : Nat) : (s.setSel rq o v).attestRun = s.attestRun := rfl
@[simp] theorem State.setSel_watchdogMs (rq : Nat) (o : ObjDef) (v : Nat) : (s.setSel rq o v).watchdogMs = s.watchdogMs := rfl
@[simp] theorem State.setSel_pllSince (rq : Nat) (o : ObjDef) (v : Nat) : (s.setSel rq o v).pllSince = s.pllSince := rfl
@[simp] theorem State.setSel_energyUj (rq : Nat) (o : ObjDef) (v : Nat) : (s.setSel rq o v).energyUj = s.energyUj := rfl
@[simp] theorem State.setSel_memLost (rq : Nat) (o : ObjDef) (v : Nat) : (s.setSel rq o v).memLost = s.memLost := rfl
@[simp] theorem State.setSel_udpPort (rq : Nat) (o : ObjDef) (v : Nat) : (s.setSel rq o v).udpPort = s.udpPort := rfl
@[simp] theorem State.setSel_memRate (rq : Nat) (o : ObjDef) (v : Nat) : (s.setSel rq o v).memRate = s.memRate := rfl
@[simp] theorem State.setSel_linkCfg (rq : Nat) (o : ObjDef) (v : Nat) : (s.setSel rq o v).linkCfg = s.linkCfg := rfl

/-! ### `setSelBlob` -/

@[simp] theorem State.setSelBlob_pending (rq : Nat) (o : ObjDef) (bs : List Byte) : (s.setSelBlob rq o bs).pending = s.pending := rfl
@[simp] theorem State.setSelBlob_out (rq : Nat) (o : ObjDef) (bs : List Byte) : (s.setSelBlob rq o bs).out = s.out := rfl
@[simp] theorem State.setSelBlob_obj (rq : Nat) (o : ObjDef) (bs : List Byte) : (s.setSelBlob rq o bs).obj = s.obj := rfl
@[simp] theorem State.setSelBlob_blob (rq : Nat) (o : ObjDef) (bs : List Byte) : (s.setSelBlob rq o bs).blob = s.blob := rfl
@[simp] theorem State.setSelBlob_sel (rq : Nat) (o : ObjDef) (bs : List Byte) : (s.setSelBlob rq o bs).sel = s.sel := rfl
@[simp] theorem State.setSelBlob_selBlob (rq : Nat) (o : ObjDef) (bs : List Byte) : (s.setSelBlob rq o bs).selBlob = SMap.set [] s.selBlob (selBlobKey rq o) bs := rfl
@[simp] theorem State.setSelBlob_freeCtr (rq : Nat) (o : ObjDef) (bs : List Byte) : (s.setSelBlob rq o bs).freeCtr = s.freeCtr := rfl
@[simp] theorem State.setSelBlob_mem (rq : Nat) (o : ObjDef) (bs : List Byte) : (s.setSelBlob rq o bs).mem = s.mem := rfl
@[simp] theorem State.setSelBlob_chk (rq : Nat) (o : ObjDef) (bs : List Byte) : (s.setSelBlob rq o bs).chk = s.chk := rfl
@[simp] theorem State.setSelBlob_vchk (rq : Nat) (o : ObjDef) (bs : List Byte) : (s.setSelBlob rq o bs).vchk = s.vchk := rfl
@[simp] theorem State.setSelBlob_subch (rq : Nat) (o : ObjDef) (bs : List Byte) : (s.setSelBlob rq o bs).subch = s.subch := rfl
@[simp] theorem State.setSelBlob_pkgTemp (rq : Nat) (o : ObjDef) (bs : List Byte) : (s.setSelBlob rq o bs).pkgTemp = s.pkgTemp := rfl
@[simp] theorem State.setSelBlob_vreg (rq : Nat) (o : ObjDef) (bs : List Byte) : (s.setSelBlob rq o bs).vreg = s.vreg := rfl
@[simp] theorem State.setSelBlob_mreg (rq : Nat) (o : ObjDef) (bs : List Byte) : (s.setSelBlob rq o bs).mreg = s.mreg := rfl
@[simp] theorem State.setSelBlob_ctxs (rq : Nat) (o : ObjDef) (bs : List Byte) : (s.setSelBlob rq o bs).ctxs = s.ctxs := rfl
@[simp] theorem State.setSelBlob_ops (rq : Nat) (o : ObjDef) (bs : List Byte) : (s.setSelBlob rq o bs).ops = s.ops := rfl
@[simp] theorem State.setSelBlob_nextOp (rq : Nat) (o : ObjDef) (bs : List Byte) : (s.setSelBlob rq o bs).nextOp = s.nextOp := rfl
@[simp] theorem State.setSelBlob_stopped (rq : Nat) (o : ObjDef) (bs : List Byte) : (s.setSelBlob rq o bs).stopped = s.stopped := rfl
@[simp] theorem State.setSelBlob_sems (rq : Nat) (o : ObjDef) (bs : List Byte) : (s.setSelBlob rq o bs).sems = s.sems := rfl
@[simp] theorem State.setSelBlob_unrec (rq : Nat) (o : ObjDef) (bs : List Byte) : (s.setSelBlob rq o bs).unrec = s.unrec := rfl
@[simp] theorem State.setSelBlob_rings (rq : Nat) (o : ObjDef) (bs : List Byte) : (s.setSelBlob rq o bs).rings = s.rings := rfl
@[simp] theorem State.setSelBlob_tables (rq : Nat) (o : ObjDef) (bs : List Byte) : (s.setSelBlob rq o bs).tables = s.tables := rfl
@[simp] theorem State.setSelBlob_load (rq : Nat) (o : ObjDef) (bs : List Byte) : (s.setSelBlob rq o bs).load = s.load := rfl
@[simp] theorem State.setSelBlob_alm (rq : Nat) (o : ObjDef) (bs : List Byte) : (s.setSelBlob rq o bs).alm = s.alm := rfl
@[simp] theorem State.setSelBlob_stepRun (rq : Nat) (o : ObjDef) (bs : List Byte) : (s.setSelBlob rq o bs).stepRun = s.stepRun := rfl
@[simp] theorem State.setSelBlob_stepDead (rq : Nat) (o : ObjDef) (bs : List Byte) : (s.setSelBlob rq o bs).stepDead = s.stepDead := rfl
@[simp] theorem State.setSelBlob_stepQueue (rq : Nat) (o : ObjDef) (bs : List Byte) : (s.setSelBlob rq o bs).stepQueue = s.stepQueue := rfl
@[simp] theorem State.setSelBlob_censusRecv (rq : Nat) (o : ObjDef) (bs : List Byte) : (s.setSelBlob rq o bs).censusRecv = s.censusRecv := rfl
@[simp] theorem State.setSelBlob_updWait (rq : Nat) (o : ObjDef) (bs : List Byte) : (s.setSelBlob rq o bs).updWait = s.updWait := rfl
@[simp] theorem State.setSelBlob_baleFrom (rq : Nat) (o : ObjDef) (bs : List Byte) : (s.setSelBlob rq o bs).baleFrom = s.baleFrom := rfl
@[simp] theorem State.setSelBlob_balesDone (rq : Nat) (o : ObjDef) (bs : List Byte) : (s.setSelBlob rq o bs).balesDone = s.balesDone := rfl
@[simp] theorem State.setSelBlob_balesAborted (rq : Nat) (o : ObjDef) (bs : List Byte) : (s.setSelBlob rq o bs).balesAborted = s.balesAborted := rfl
@[simp] theorem State.setSelBlob_updDiscard (rq : Nat) (o : ObjDef) (bs : List Byte) : (s.setSelBlob rq o bs).updDiscard = s.updDiscard := rfl
@[simp] theorem State.setSelBlob_wmax (rq : Nat) (o : ObjDef) (bs : List Byte) : (s.setSelBlob rq o bs).wmax = s.wmax := rfl
@[simp] theorem State.setSelBlob_wsat (rq : Nat) (o : ObjDef) (bs : List Byte) : (s.setSelBlob rq o bs).wsat = s.wsat := rfl
@[simp] theorem State.setSelBlob_abortedInStep (rq : Nat) (o : ObjDef) (bs : List Byte) : (s.setSelBlob rq o bs).abortedInStep = s.abortedInStep := rfl
@[simp] theorem State.setSelBlob_earlyPkts (rq : Nat) (o : ObjDef) (bs : List Byte) : (s.setSelBlob rq o bs).earlyPkts = s.earlyPkts := rfl
@[simp] theorem State.setSelBlob_leaveQ (rq : Nat) (o : ObjDef) (bs : List Byte) : (s.setSelBlob rq o bs).leaveQ = s.leaveQ := rfl
@[simp] theorem State.setSelBlob_waited (rq : Nat) (o : ObjDef) (bs : List Byte) : (s.setSelBlob rq o bs).waited = s.waited := rfl
@[simp] theorem State.setSelBlob_readyQ (rq : Nat) (o : ObjDef) (bs : List Byte) : (s.setSelBlob rq o bs).readyQ = s.readyQ := rfl
@[simp] theorem State.setSelBlob_resvs (rq : Nat) (o : ObjDef) (bs : List Byte) : (s.setSelBlob rq o bs).resvs = s.resvs := rfl
@[simp] theorem State.setSelBlob_dip (rq : Nat) (o : ObjDef) (bs : List Byte) : (s.setSelBlob rq o bs).dip = s.dip := rfl
@[simp] theorem State.setSelBlob_thermSteps (rq : Nat) (o : ObjDef) (bs : List Byte) : (s.setSelBlob rq o bs).thermSteps = s.thermSteps := rfl
@[simp] theorem State.setSelBlob_dipSteps (rq : Nat) (o : ObjDef) (bs : List Byte) : (s.setSelBlob rq o bs).dipSteps = s.dipSteps := rfl
@[simp] theorem State.setSelBlob_fences (rq : Nat) (o : ObjDef) (bs : List Byte) : (s.setSelBlob rq o bs).fences = s.fences := rfl
@[simp] theorem State.setSelBlob_ringHead (rq : Nat) (o : ObjDef) (bs : List Byte) : (s.setSelBlob rq o bs).ringHead = s.ringHead := rfl
@[simp] theorem State.setSelBlob_thrs (rq : Nat) (o : ObjDef) (bs : List Byte) : (s.setSelBlob rq o bs).thrs = s.thrs := rfl
@[simp] theorem State.setSelBlob_ports (rq : Nat) (o : ObjDef) (bs : List Byte) : (s.setSelBlob rq o bs).ports = s.ports := rfl
@[simp] theorem State.setSelBlob_slots (rq : Nat) (o : ObjDef) (bs : List Byte) : (s.setSelBlob rq o bs).slots = s.slots := rfl
@[simp] theorem State.setSelBlob_qps (rq : Nat) (o : ObjDef) (bs : List Byte) : (s.setSelBlob rq o bs).qps = s.qps := rfl
@[simp] theorem State.setSelBlob_mrs (rq : Nat) (o : ObjDef) (bs : List Byte) : (s.setSelBlob rq o bs).mrs = s.mrs := rfl
@[simp] theorem State.setSelBlob_sessions (rq : Nat) (o : ObjDef) (bs : List Byte) : (s.setSelBlob rq o bs).sessions = s.sessions := rfl
@[simp] theorem State.setSelBlob_eths (rq : Nat) (o : ObjDef) (bs : List Byte) : (s.setSelBlob rq o bs).eths = s.eths := rfl
@[simp] theorem State.setSelBlob_log (rq : Nat) (o : ObjDef) (bs : List Byte) : (s.setSelBlob rq o bs).log = s.log := rfl
@[simp] theorem State.setSelBlob_fieldFirst (rq : Nat) (o : ObjDef) (bs : List Byte) : (s.setSelBlob rq o bs).fieldFirst = s.fieldFirst := rfl
@[simp] theorem State.setSelBlob_fieldStamps (rq : Nat) (o : ObjDef) (bs : List Byte) : (s.setSelBlob rq o bs).fieldStamps = s.fieldStamps := rfl
@[simp] theorem State.setSelBlob_flash (rq : Nat) (o : ObjDef) (bs : List Byte) : (s.setSelBlob rq o bs).flash = s.flash := rfl
@[simp] theorem State.setSelBlob_fuses (rq : Nat) (o : ObjDef) (bs : List Byte) : (s.setSelBlob rq o bs).fuses = s.fuses := rfl
@[simp] theorem State.setSelBlob_pins (rq : Nat) (o : ObjDef) (bs : List Byte) : (s.setSelBlob rq o bs).pins = s.pins := rfl
@[simp] theorem State.setSelBlob_roceHeld (rq : Nat) (o : ObjDef) (bs : List Byte) : (s.setSelBlob rq o bs).roceHeld = s.roceHeld := rfl
@[simp] theorem State.setSelBlob_helloSec (rq : Nat) (o : ObjDef) (bs : List Byte) : (s.setSelBlob rq o bs).helloSec = s.helloSec := rfl
@[simp] theorem State.setSelBlob_resetAsked (rq : Nat) (o : ObjDef) (bs : List Byte) : (s.setSelBlob rq o bs).resetAsked = s.resetAsked := rfl
@[simp] theorem State.setSelBlob_resetRun (rq : Nat) (o : ObjDef) (bs : List Byte) : (s.setSelBlob rq o bs).resetRun = s.resetRun := rfl
@[simp] theorem State.setSelBlob_fallowStep (rq : Nat) (o : ObjDef) (bs : List Byte) : (s.setSelBlob rq o bs).fallowStep = s.fallowStep := rfl
@[simp] theorem State.setSelBlob_storeRun (rq : Nat) (o : ObjDef) (bs : List Byte) : (s.setSelBlob rq o bs).storeRun = s.storeRun := rfl
@[simp] theorem State.setSelBlob_storeSlot (rq : Nat) (o : ObjDef) (bs : List Byte) : (s.setSelBlob rq o bs).storeSlot = s.storeSlot := rfl
@[simp] theorem State.setSelBlob_fwStage (rq : Nat) (o : ObjDef) (bs : List Byte) : (s.setSelBlob rq o bs).fwStage = s.fwStage := rfl
@[simp] theorem State.setSelBlob_attestRun (rq : Nat) (o : ObjDef) (bs : List Byte) : (s.setSelBlob rq o bs).attestRun = s.attestRun := rfl
@[simp] theorem State.setSelBlob_watchdogMs (rq : Nat) (o : ObjDef) (bs : List Byte) : (s.setSelBlob rq o bs).watchdogMs = s.watchdogMs := rfl
@[simp] theorem State.setSelBlob_pllSince (rq : Nat) (o : ObjDef) (bs : List Byte) : (s.setSelBlob rq o bs).pllSince = s.pllSince := rfl
@[simp] theorem State.setSelBlob_energyUj (rq : Nat) (o : ObjDef) (bs : List Byte) : (s.setSelBlob rq o bs).energyUj = s.energyUj := rfl
@[simp] theorem State.setSelBlob_memLost (rq : Nat) (o : ObjDef) (bs : List Byte) : (s.setSelBlob rq o bs).memLost = s.memLost := rfl
@[simp] theorem State.setSelBlob_udpPort (rq : Nat) (o : ObjDef) (bs : List Byte) : (s.setSelBlob rq o bs).udpPort = s.udpPort := rfl
@[simp] theorem State.setSelBlob_memRate (rq : Nat) (o : ObjDef) (bs : List Byte) : (s.setSelBlob rq o bs).memRate = s.memRate := rfl
@[simp] theorem State.setSelBlob_linkCfg (rq : Nat) (o : ObjDef) (bs : List Byte) : (s.setSelBlob rq o bs).linkCfg = s.linkCfg := rfl

/-! ### `setQp` -/

@[simp] theorem State.setQp_pending (n : Nat) (q : Qp) : (s.setQp n q).pending = s.pending := rfl
@[simp] theorem State.setQp_out (n : Nat) (q : Qp) : (s.setQp n q).out = s.out := rfl
@[simp] theorem State.setQp_obj (n : Nat) (q : Qp) : (s.setQp n q).obj = s.obj := rfl
@[simp] theorem State.setQp_blob (n : Nat) (q : Qp) : (s.setQp n q).blob = s.blob := rfl
@[simp] theorem State.setQp_sel (n : Nat) (q : Qp) : (s.setQp n q).sel = s.sel := rfl
@[simp] theorem State.setQp_selBlob (n : Nat) (q : Qp) : (s.setQp n q).selBlob = s.selBlob := rfl
@[simp] theorem State.setQp_freeCtr (n : Nat) (q : Qp) : (s.setQp n q).freeCtr = s.freeCtr := rfl
@[simp] theorem State.setQp_mem (n : Nat) (q : Qp) : (s.setQp n q).mem = s.mem := rfl
@[simp] theorem State.setQp_chk (n : Nat) (q : Qp) : (s.setQp n q).chk = s.chk := rfl
@[simp] theorem State.setQp_vchk (n : Nat) (q : Qp) : (s.setQp n q).vchk = s.vchk := rfl
@[simp] theorem State.setQp_subch (n : Nat) (q : Qp) : (s.setQp n q).subch = s.subch := rfl
@[simp] theorem State.setQp_pkgTemp (n : Nat) (q : Qp) : (s.setQp n q).pkgTemp = s.pkgTemp := rfl
@[simp] theorem State.setQp_vreg (n : Nat) (q : Qp) : (s.setQp n q).vreg = s.vreg := rfl
@[simp] theorem State.setQp_mreg (n : Nat) (q : Qp) : (s.setQp n q).mreg = s.mreg := rfl
@[simp] theorem State.setQp_ctxs (n : Nat) (q : Qp) : (s.setQp n q).ctxs = s.ctxs := rfl
@[simp] theorem State.setQp_ops (n : Nat) (q : Qp) : (s.setQp n q).ops = s.ops := rfl
@[simp] theorem State.setQp_nextOp (n : Nat) (q : Qp) : (s.setQp n q).nextOp = s.nextOp := rfl
@[simp] theorem State.setQp_stopped (n : Nat) (q : Qp) : (s.setQp n q).stopped = s.stopped := rfl
@[simp] theorem State.setQp_sems (n : Nat) (q : Qp) : (s.setQp n q).sems = s.sems := rfl
@[simp] theorem State.setQp_unrec (n : Nat) (q : Qp) : (s.setQp n q).unrec = s.unrec := rfl
@[simp] theorem State.setQp_rings (n : Nat) (q : Qp) : (s.setQp n q).rings = s.rings := rfl
@[simp] theorem State.setQp_tables (n : Nat) (q : Qp) : (s.setQp n q).tables = s.tables := rfl
@[simp] theorem State.setQp_load (n : Nat) (q : Qp) : (s.setQp n q).load = s.load := rfl
@[simp] theorem State.setQp_alm (n : Nat) (q : Qp) : (s.setQp n q).alm = s.alm := rfl
@[simp] theorem State.setQp_stepRun (n : Nat) (q : Qp) : (s.setQp n q).stepRun = s.stepRun := rfl
@[simp] theorem State.setQp_stepDead (n : Nat) (q : Qp) : (s.setQp n q).stepDead = s.stepDead := rfl
@[simp] theorem State.setQp_stepQueue (n : Nat) (q : Qp) : (s.setQp n q).stepQueue = s.stepQueue := rfl
@[simp] theorem State.setQp_censusRecv (n : Nat) (q : Qp) : (s.setQp n q).censusRecv = s.censusRecv := rfl
@[simp] theorem State.setQp_updWait (n : Nat) (q : Qp) : (s.setQp n q).updWait = s.updWait := rfl
@[simp] theorem State.setQp_baleFrom (n : Nat) (q : Qp) : (s.setQp n q).baleFrom = s.baleFrom := rfl
@[simp] theorem State.setQp_balesDone (n : Nat) (q : Qp) : (s.setQp n q).balesDone = s.balesDone := rfl
@[simp] theorem State.setQp_balesAborted (n : Nat) (q : Qp) : (s.setQp n q).balesAborted = s.balesAborted := rfl
@[simp] theorem State.setQp_updDiscard (n : Nat) (q : Qp) : (s.setQp n q).updDiscard = s.updDiscard := rfl
@[simp] theorem State.setQp_wmax (n : Nat) (q : Qp) : (s.setQp n q).wmax = s.wmax := rfl
@[simp] theorem State.setQp_wsat (n : Nat) (q : Qp) : (s.setQp n q).wsat = s.wsat := rfl
@[simp] theorem State.setQp_abortedInStep (n : Nat) (q : Qp) : (s.setQp n q).abortedInStep = s.abortedInStep := rfl
@[simp] theorem State.setQp_earlyPkts (n : Nat) (q : Qp) : (s.setQp n q).earlyPkts = s.earlyPkts := rfl
@[simp] theorem State.setQp_leaveQ (n : Nat) (q : Qp) : (s.setQp n q).leaveQ = s.leaveQ := rfl
@[simp] theorem State.setQp_waited (n : Nat) (q : Qp) : (s.setQp n q).waited = s.waited := rfl
@[simp] theorem State.setQp_readyQ (n : Nat) (q : Qp) : (s.setQp n q).readyQ = s.readyQ := rfl
@[simp] theorem State.setQp_resvs (n : Nat) (q : Qp) : (s.setQp n q).resvs = s.resvs := rfl
@[simp] theorem State.setQp_dip (n : Nat) (q : Qp) : (s.setQp n q).dip = s.dip := rfl
@[simp] theorem State.setQp_thermSteps (n : Nat) (q : Qp) : (s.setQp n q).thermSteps = s.thermSteps := rfl
@[simp] theorem State.setQp_dipSteps (n : Nat) (q : Qp) : (s.setQp n q).dipSteps = s.dipSteps := rfl
@[simp] theorem State.setQp_fences (n : Nat) (q : Qp) : (s.setQp n q).fences = s.fences := rfl
@[simp] theorem State.setQp_ringHead (n : Nat) (q : Qp) : (s.setQp n q).ringHead = s.ringHead := rfl
@[simp] theorem State.setQp_thrs (n : Nat) (q : Qp) : (s.setQp n q).thrs = s.thrs := rfl
@[simp] theorem State.setQp_ports (n : Nat) (q : Qp) : (s.setQp n q).ports = s.ports := rfl
@[simp] theorem State.setQp_slots (n : Nat) (q : Qp) : (s.setQp n q).slots = s.slots := rfl
@[simp] theorem State.setQp_qps (n : Nat) (q : Qp) : (s.setQp n q).qps = SMap.set {} s.qps n q := rfl
@[simp] theorem State.setQp_mrs (n : Nat) (q : Qp) : (s.setQp n q).mrs = s.mrs := rfl
@[simp] theorem State.setQp_sessions (n : Nat) (q : Qp) : (s.setQp n q).sessions = s.sessions := rfl
@[simp] theorem State.setQp_eths (n : Nat) (q : Qp) : (s.setQp n q).eths = s.eths := rfl
@[simp] theorem State.setQp_log (n : Nat) (q : Qp) : (s.setQp n q).log = s.log := rfl
@[simp] theorem State.setQp_fieldFirst (n : Nat) (q : Qp) : (s.setQp n q).fieldFirst = s.fieldFirst := rfl
@[simp] theorem State.setQp_fieldStamps (n : Nat) (q : Qp) : (s.setQp n q).fieldStamps = s.fieldStamps := rfl
@[simp] theorem State.setQp_flash (n : Nat) (q : Qp) : (s.setQp n q).flash = s.flash := rfl
@[simp] theorem State.setQp_fuses (n : Nat) (q : Qp) : (s.setQp n q).fuses = s.fuses := rfl
@[simp] theorem State.setQp_pins (n : Nat) (q : Qp) : (s.setQp n q).pins = s.pins := rfl
@[simp] theorem State.setQp_roceHeld (n : Nat) (q : Qp) : (s.setQp n q).roceHeld = s.roceHeld := rfl
@[simp] theorem State.setQp_helloSec (n : Nat) (q : Qp) : (s.setQp n q).helloSec = s.helloSec := rfl
@[simp] theorem State.setQp_resetAsked (n : Nat) (q : Qp) : (s.setQp n q).resetAsked = s.resetAsked := rfl
@[simp] theorem State.setQp_resetRun (n : Nat) (q : Qp) : (s.setQp n q).resetRun = s.resetRun := rfl
@[simp] theorem State.setQp_fallowStep (n : Nat) (q : Qp) : (s.setQp n q).fallowStep = s.fallowStep := rfl
@[simp] theorem State.setQp_storeRun (n : Nat) (q : Qp) : (s.setQp n q).storeRun = s.storeRun := rfl
@[simp] theorem State.setQp_storeSlot (n : Nat) (q : Qp) : (s.setQp n q).storeSlot = s.storeSlot := rfl
@[simp] theorem State.setQp_fwStage (n : Nat) (q : Qp) : (s.setQp n q).fwStage = s.fwStage := rfl
@[simp] theorem State.setQp_attestRun (n : Nat) (q : Qp) : (s.setQp n q).attestRun = s.attestRun := rfl
@[simp] theorem State.setQp_watchdogMs (n : Nat) (q : Qp) : (s.setQp n q).watchdogMs = s.watchdogMs := rfl
@[simp] theorem State.setQp_pllSince (n : Nat) (q : Qp) : (s.setQp n q).pllSince = s.pllSince := rfl
@[simp] theorem State.setQp_energyUj (n : Nat) (q : Qp) : (s.setQp n q).energyUj = s.energyUj := rfl
@[simp] theorem State.setQp_memLost (n : Nat) (q : Qp) : (s.setQp n q).memLost = s.memLost := rfl
@[simp] theorem State.setQp_udpPort (n : Nat) (q : Qp) : (s.setQp n q).udpPort = s.udpPort := rfl
@[simp] theorem State.setQp_memRate (n : Nat) (q : Qp) : (s.setQp n q).memRate = s.memRate := rfl
@[simp] theorem State.setQp_linkCfg (n : Nat) (q : Qp) : (s.setQp n q).linkCfg = s.linkCfg := rfl

/-! ### `setMr` -/

@[simp] theorem State.setMr_pending (n : Nat) (q : Mr) : (s.setMr n q).pending = s.pending := rfl
@[simp] theorem State.setMr_out (n : Nat) (q : Mr) : (s.setMr n q).out = s.out := rfl
@[simp] theorem State.setMr_obj (n : Nat) (q : Mr) : (s.setMr n q).obj = s.obj := rfl
@[simp] theorem State.setMr_blob (n : Nat) (q : Mr) : (s.setMr n q).blob = s.blob := rfl
@[simp] theorem State.setMr_sel (n : Nat) (q : Mr) : (s.setMr n q).sel = s.sel := rfl
@[simp] theorem State.setMr_selBlob (n : Nat) (q : Mr) : (s.setMr n q).selBlob = s.selBlob := rfl
@[simp] theorem State.setMr_freeCtr (n : Nat) (q : Mr) : (s.setMr n q).freeCtr = s.freeCtr := rfl
@[simp] theorem State.setMr_mem (n : Nat) (q : Mr) : (s.setMr n q).mem = s.mem := rfl
@[simp] theorem State.setMr_chk (n : Nat) (q : Mr) : (s.setMr n q).chk = s.chk := rfl
@[simp] theorem State.setMr_vchk (n : Nat) (q : Mr) : (s.setMr n q).vchk = s.vchk := rfl
@[simp] theorem State.setMr_subch (n : Nat) (q : Mr) : (s.setMr n q).subch = s.subch := rfl
@[simp] theorem State.setMr_pkgTemp (n : Nat) (q : Mr) : (s.setMr n q).pkgTemp = s.pkgTemp := rfl
@[simp] theorem State.setMr_vreg (n : Nat) (q : Mr) : (s.setMr n q).vreg = s.vreg := rfl
@[simp] theorem State.setMr_mreg (n : Nat) (q : Mr) : (s.setMr n q).mreg = s.mreg := rfl
@[simp] theorem State.setMr_ctxs (n : Nat) (q : Mr) : (s.setMr n q).ctxs = s.ctxs := rfl
@[simp] theorem State.setMr_ops (n : Nat) (q : Mr) : (s.setMr n q).ops = s.ops := rfl
@[simp] theorem State.setMr_nextOp (n : Nat) (q : Mr) : (s.setMr n q).nextOp = s.nextOp := rfl
@[simp] theorem State.setMr_stopped (n : Nat) (q : Mr) : (s.setMr n q).stopped = s.stopped := rfl
@[simp] theorem State.setMr_sems (n : Nat) (q : Mr) : (s.setMr n q).sems = s.sems := rfl
@[simp] theorem State.setMr_unrec (n : Nat) (q : Mr) : (s.setMr n q).unrec = s.unrec := rfl
@[simp] theorem State.setMr_rings (n : Nat) (q : Mr) : (s.setMr n q).rings = s.rings := rfl
@[simp] theorem State.setMr_tables (n : Nat) (q : Mr) : (s.setMr n q).tables = s.tables := rfl
@[simp] theorem State.setMr_load (n : Nat) (q : Mr) : (s.setMr n q).load = s.load := rfl
@[simp] theorem State.setMr_alm (n : Nat) (q : Mr) : (s.setMr n q).alm = s.alm := rfl
@[simp] theorem State.setMr_stepRun (n : Nat) (q : Mr) : (s.setMr n q).stepRun = s.stepRun := rfl
@[simp] theorem State.setMr_stepDead (n : Nat) (q : Mr) : (s.setMr n q).stepDead = s.stepDead := rfl
@[simp] theorem State.setMr_stepQueue (n : Nat) (q : Mr) : (s.setMr n q).stepQueue = s.stepQueue := rfl
@[simp] theorem State.setMr_censusRecv (n : Nat) (q : Mr) : (s.setMr n q).censusRecv = s.censusRecv := rfl
@[simp] theorem State.setMr_updWait (n : Nat) (q : Mr) : (s.setMr n q).updWait = s.updWait := rfl
@[simp] theorem State.setMr_baleFrom (n : Nat) (q : Mr) : (s.setMr n q).baleFrom = s.baleFrom := rfl
@[simp] theorem State.setMr_balesDone (n : Nat) (q : Mr) : (s.setMr n q).balesDone = s.balesDone := rfl
@[simp] theorem State.setMr_balesAborted (n : Nat) (q : Mr) : (s.setMr n q).balesAborted = s.balesAborted := rfl
@[simp] theorem State.setMr_updDiscard (n : Nat) (q : Mr) : (s.setMr n q).updDiscard = s.updDiscard := rfl
@[simp] theorem State.setMr_wmax (n : Nat) (q : Mr) : (s.setMr n q).wmax = s.wmax := rfl
@[simp] theorem State.setMr_wsat (n : Nat) (q : Mr) : (s.setMr n q).wsat = s.wsat := rfl
@[simp] theorem State.setMr_abortedInStep (n : Nat) (q : Mr) : (s.setMr n q).abortedInStep = s.abortedInStep := rfl
@[simp] theorem State.setMr_earlyPkts (n : Nat) (q : Mr) : (s.setMr n q).earlyPkts = s.earlyPkts := rfl
@[simp] theorem State.setMr_leaveQ (n : Nat) (q : Mr) : (s.setMr n q).leaveQ = s.leaveQ := rfl
@[simp] theorem State.setMr_waited (n : Nat) (q : Mr) : (s.setMr n q).waited = s.waited := rfl
@[simp] theorem State.setMr_readyQ (n : Nat) (q : Mr) : (s.setMr n q).readyQ = s.readyQ := rfl
@[simp] theorem State.setMr_resvs (n : Nat) (q : Mr) : (s.setMr n q).resvs = s.resvs := rfl
@[simp] theorem State.setMr_dip (n : Nat) (q : Mr) : (s.setMr n q).dip = s.dip := rfl
@[simp] theorem State.setMr_thermSteps (n : Nat) (q : Mr) : (s.setMr n q).thermSteps = s.thermSteps := rfl
@[simp] theorem State.setMr_dipSteps (n : Nat) (q : Mr) : (s.setMr n q).dipSteps = s.dipSteps := rfl
@[simp] theorem State.setMr_fences (n : Nat) (q : Mr) : (s.setMr n q).fences = s.fences := rfl
@[simp] theorem State.setMr_ringHead (n : Nat) (q : Mr) : (s.setMr n q).ringHead = s.ringHead := rfl
@[simp] theorem State.setMr_thrs (n : Nat) (q : Mr) : (s.setMr n q).thrs = s.thrs := rfl
@[simp] theorem State.setMr_ports (n : Nat) (q : Mr) : (s.setMr n q).ports = s.ports := rfl
@[simp] theorem State.setMr_slots (n : Nat) (q : Mr) : (s.setMr n q).slots = s.slots := rfl
@[simp] theorem State.setMr_qps (n : Nat) (q : Mr) : (s.setMr n q).qps = s.qps := rfl
@[simp] theorem State.setMr_mrs (n : Nat) (q : Mr) : (s.setMr n q).mrs = SMap.set {} s.mrs n q := rfl
@[simp] theorem State.setMr_sessions (n : Nat) (q : Mr) : (s.setMr n q).sessions = s.sessions := rfl
@[simp] theorem State.setMr_eths (n : Nat) (q : Mr) : (s.setMr n q).eths = s.eths := rfl
@[simp] theorem State.setMr_log (n : Nat) (q : Mr) : (s.setMr n q).log = s.log := rfl
@[simp] theorem State.setMr_fieldFirst (n : Nat) (q : Mr) : (s.setMr n q).fieldFirst = s.fieldFirst := rfl
@[simp] theorem State.setMr_fieldStamps (n : Nat) (q : Mr) : (s.setMr n q).fieldStamps = s.fieldStamps := rfl
@[simp] theorem State.setMr_flash (n : Nat) (q : Mr) : (s.setMr n q).flash = s.flash := rfl
@[simp] theorem State.setMr_fuses (n : Nat) (q : Mr) : (s.setMr n q).fuses = s.fuses := rfl
@[simp] theorem State.setMr_pins (n : Nat) (q : Mr) : (s.setMr n q).pins = s.pins := rfl
@[simp] theorem State.setMr_roceHeld (n : Nat) (q : Mr) : (s.setMr n q).roceHeld = s.roceHeld := rfl
@[simp] theorem State.setMr_helloSec (n : Nat) (q : Mr) : (s.setMr n q).helloSec = s.helloSec := rfl
@[simp] theorem State.setMr_resetAsked (n : Nat) (q : Mr) : (s.setMr n q).resetAsked = s.resetAsked := rfl
@[simp] theorem State.setMr_resetRun (n : Nat) (q : Mr) : (s.setMr n q).resetRun = s.resetRun := rfl
@[simp] theorem State.setMr_fallowStep (n : Nat) (q : Mr) : (s.setMr n q).fallowStep = s.fallowStep := rfl
@[simp] theorem State.setMr_storeRun (n : Nat) (q : Mr) : (s.setMr n q).storeRun = s.storeRun := rfl
@[simp] theorem State.setMr_storeSlot (n : Nat) (q : Mr) : (s.setMr n q).storeSlot = s.storeSlot := rfl
@[simp] theorem State.setMr_fwStage (n : Nat) (q : Mr) : (s.setMr n q).fwStage = s.fwStage := rfl
@[simp] theorem State.setMr_attestRun (n : Nat) (q : Mr) : (s.setMr n q).attestRun = s.attestRun := rfl
@[simp] theorem State.setMr_watchdogMs (n : Nat) (q : Mr) : (s.setMr n q).watchdogMs = s.watchdogMs := rfl
@[simp] theorem State.setMr_pllSince (n : Nat) (q : Mr) : (s.setMr n q).pllSince = s.pllSince := rfl
@[simp] theorem State.setMr_energyUj (n : Nat) (q : Mr) : (s.setMr n q).energyUj = s.energyUj := rfl
@[simp] theorem State.setMr_memLost (n : Nat) (q : Mr) : (s.setMr n q).memLost = s.memLost := rfl
@[simp] theorem State.setMr_udpPort (n : Nat) (q : Mr) : (s.setMr n q).udpPort = s.udpPort := rfl
@[simp] theorem State.setMr_memRate (n : Nat) (q : Mr) : (s.setMr n q).memRate = s.memRate := rfl
@[simp] theorem State.setMr_linkCfg (n : Nat) (q : Mr) : (s.setMr n q).linkCfg = s.linkCfg := rfl

/-! ### `setSession` -/

@[simp] theorem State.setSession_pending (n : Nat) (x : Session) : (s.setSession n x).pending = s.pending := rfl
@[simp] theorem State.setSession_out (n : Nat) (x : Session) : (s.setSession n x).out = s.out := rfl
@[simp] theorem State.setSession_obj (n : Nat) (x : Session) : (s.setSession n x).obj = s.obj := rfl
@[simp] theorem State.setSession_blob (n : Nat) (x : Session) : (s.setSession n x).blob = s.blob := rfl
@[simp] theorem State.setSession_sel (n : Nat) (x : Session) : (s.setSession n x).sel = s.sel := rfl
@[simp] theorem State.setSession_selBlob (n : Nat) (x : Session) : (s.setSession n x).selBlob = s.selBlob := rfl
@[simp] theorem State.setSession_freeCtr (n : Nat) (x : Session) : (s.setSession n x).freeCtr = s.freeCtr := rfl
@[simp] theorem State.setSession_mem (n : Nat) (x : Session) : (s.setSession n x).mem = s.mem := rfl
@[simp] theorem State.setSession_chk (n : Nat) (x : Session) : (s.setSession n x).chk = s.chk := rfl
@[simp] theorem State.setSession_vchk (n : Nat) (x : Session) : (s.setSession n x).vchk = s.vchk := rfl
@[simp] theorem State.setSession_subch (n : Nat) (x : Session) : (s.setSession n x).subch = s.subch := rfl
@[simp] theorem State.setSession_pkgTemp (n : Nat) (x : Session) : (s.setSession n x).pkgTemp = s.pkgTemp := rfl
@[simp] theorem State.setSession_vreg (n : Nat) (x : Session) : (s.setSession n x).vreg = s.vreg := rfl
@[simp] theorem State.setSession_mreg (n : Nat) (x : Session) : (s.setSession n x).mreg = s.mreg := rfl
@[simp] theorem State.setSession_ctxs (n : Nat) (x : Session) : (s.setSession n x).ctxs = s.ctxs := rfl
@[simp] theorem State.setSession_ops (n : Nat) (x : Session) : (s.setSession n x).ops = s.ops := rfl
@[simp] theorem State.setSession_nextOp (n : Nat) (x : Session) : (s.setSession n x).nextOp = s.nextOp := rfl
@[simp] theorem State.setSession_stopped (n : Nat) (x : Session) : (s.setSession n x).stopped = s.stopped := rfl
@[simp] theorem State.setSession_sems (n : Nat) (x : Session) : (s.setSession n x).sems = s.sems := rfl
@[simp] theorem State.setSession_unrec (n : Nat) (x : Session) : (s.setSession n x).unrec = s.unrec := rfl
@[simp] theorem State.setSession_rings (n : Nat) (x : Session) : (s.setSession n x).rings = s.rings := rfl
@[simp] theorem State.setSession_tables (n : Nat) (x : Session) : (s.setSession n x).tables = s.tables := rfl
@[simp] theorem State.setSession_load (n : Nat) (x : Session) : (s.setSession n x).load = s.load := rfl
@[simp] theorem State.setSession_alm (n : Nat) (x : Session) : (s.setSession n x).alm = s.alm := rfl
@[simp] theorem State.setSession_stepRun (n : Nat) (x : Session) : (s.setSession n x).stepRun = s.stepRun := rfl
@[simp] theorem State.setSession_stepDead (n : Nat) (x : Session) : (s.setSession n x).stepDead = s.stepDead := rfl
@[simp] theorem State.setSession_stepQueue (n : Nat) (x : Session) : (s.setSession n x).stepQueue = s.stepQueue := rfl
@[simp] theorem State.setSession_censusRecv (n : Nat) (x : Session) : (s.setSession n x).censusRecv = s.censusRecv := rfl
@[simp] theorem State.setSession_updWait (n : Nat) (x : Session) : (s.setSession n x).updWait = s.updWait := rfl
@[simp] theorem State.setSession_baleFrom (n : Nat) (x : Session) : (s.setSession n x).baleFrom = s.baleFrom := rfl
@[simp] theorem State.setSession_balesDone (n : Nat) (x : Session) : (s.setSession n x).balesDone = s.balesDone := rfl
@[simp] theorem State.setSession_balesAborted (n : Nat) (x : Session) : (s.setSession n x).balesAborted = s.balesAborted := rfl
@[simp] theorem State.setSession_updDiscard (n : Nat) (x : Session) : (s.setSession n x).updDiscard = s.updDiscard := rfl
@[simp] theorem State.setSession_wmax (n : Nat) (x : Session) : (s.setSession n x).wmax = s.wmax := rfl
@[simp] theorem State.setSession_wsat (n : Nat) (x : Session) : (s.setSession n x).wsat = s.wsat := rfl
@[simp] theorem State.setSession_abortedInStep (n : Nat) (x : Session) : (s.setSession n x).abortedInStep = s.abortedInStep := rfl
@[simp] theorem State.setSession_earlyPkts (n : Nat) (x : Session) : (s.setSession n x).earlyPkts = s.earlyPkts := rfl
@[simp] theorem State.setSession_leaveQ (n : Nat) (x : Session) : (s.setSession n x).leaveQ = s.leaveQ := rfl
@[simp] theorem State.setSession_waited (n : Nat) (x : Session) : (s.setSession n x).waited = s.waited := rfl
@[simp] theorem State.setSession_readyQ (n : Nat) (x : Session) : (s.setSession n x).readyQ = s.readyQ := rfl
@[simp] theorem State.setSession_resvs (n : Nat) (x : Session) : (s.setSession n x).resvs = s.resvs := rfl
@[simp] theorem State.setSession_dip (n : Nat) (x : Session) : (s.setSession n x).dip = s.dip := rfl
@[simp] theorem State.setSession_thermSteps (n : Nat) (x : Session) : (s.setSession n x).thermSteps = s.thermSteps := rfl
@[simp] theorem State.setSession_dipSteps (n : Nat) (x : Session) : (s.setSession n x).dipSteps = s.dipSteps := rfl
@[simp] theorem State.setSession_fences (n : Nat) (x : Session) : (s.setSession n x).fences = s.fences := rfl
@[simp] theorem State.setSession_ringHead (n : Nat) (x : Session) : (s.setSession n x).ringHead = s.ringHead := rfl
@[simp] theorem State.setSession_thrs (n : Nat) (x : Session) : (s.setSession n x).thrs = s.thrs := rfl
@[simp] theorem State.setSession_ports (n : Nat) (x : Session) : (s.setSession n x).ports = s.ports := rfl
@[simp] theorem State.setSession_slots (n : Nat) (x : Session) : (s.setSession n x).slots = s.slots := rfl
@[simp] theorem State.setSession_qps (n : Nat) (x : Session) : (s.setSession n x).qps = s.qps := rfl
@[simp] theorem State.setSession_mrs (n : Nat) (x : Session) : (s.setSession n x).mrs = s.mrs := rfl
@[simp] theorem State.setSession_sessions (n : Nat) (x : Session) : (s.setSession n x).sessions = SMap.set {} s.sessions n x := rfl
@[simp] theorem State.setSession_eths (n : Nat) (x : Session) : (s.setSession n x).eths = s.eths := rfl
@[simp] theorem State.setSession_log (n : Nat) (x : Session) : (s.setSession n x).log = s.log := rfl
@[simp] theorem State.setSession_fieldFirst (n : Nat) (x : Session) : (s.setSession n x).fieldFirst = s.fieldFirst := rfl
@[simp] theorem State.setSession_fieldStamps (n : Nat) (x : Session) : (s.setSession n x).fieldStamps = s.fieldStamps := rfl
@[simp] theorem State.setSession_flash (n : Nat) (x : Session) : (s.setSession n x).flash = s.flash := rfl
@[simp] theorem State.setSession_fuses (n : Nat) (x : Session) : (s.setSession n x).fuses = s.fuses := rfl
@[simp] theorem State.setSession_pins (n : Nat) (x : Session) : (s.setSession n x).pins = s.pins := rfl
@[simp] theorem State.setSession_roceHeld (n : Nat) (x : Session) : (s.setSession n x).roceHeld = s.roceHeld := rfl
@[simp] theorem State.setSession_helloSec (n : Nat) (x : Session) : (s.setSession n x).helloSec = s.helloSec := rfl
@[simp] theorem State.setSession_resetAsked (n : Nat) (x : Session) : (s.setSession n x).resetAsked = s.resetAsked := rfl
@[simp] theorem State.setSession_resetRun (n : Nat) (x : Session) : (s.setSession n x).resetRun = s.resetRun := rfl
@[simp] theorem State.setSession_fallowStep (n : Nat) (x : Session) : (s.setSession n x).fallowStep = s.fallowStep := rfl
@[simp] theorem State.setSession_storeRun (n : Nat) (x : Session) : (s.setSession n x).storeRun = s.storeRun := rfl
@[simp] theorem State.setSession_storeSlot (n : Nat) (x : Session) : (s.setSession n x).storeSlot = s.storeSlot := rfl
@[simp] theorem State.setSession_fwStage (n : Nat) (x : Session) : (s.setSession n x).fwStage = s.fwStage := rfl
@[simp] theorem State.setSession_attestRun (n : Nat) (x : Session) : (s.setSession n x).attestRun = s.attestRun := rfl
@[simp] theorem State.setSession_watchdogMs (n : Nat) (x : Session) : (s.setSession n x).watchdogMs = s.watchdogMs := rfl
@[simp] theorem State.setSession_pllSince (n : Nat) (x : Session) : (s.setSession n x).pllSince = s.pllSince := rfl
@[simp] theorem State.setSession_energyUj (n : Nat) (x : Session) : (s.setSession n x).energyUj = s.energyUj := rfl
@[simp] theorem State.setSession_memLost (n : Nat) (x : Session) : (s.setSession n x).memLost = s.memLost := rfl
@[simp] theorem State.setSession_udpPort (n : Nat) (x : Session) : (s.setSession n x).udpPort = s.udpPort := rfl
@[simp] theorem State.setSession_memRate (n : Nat) (x : Session) : (s.setSession n x).memRate = s.memRate := rfl
@[simp] theorem State.setSession_linkCfg (n : Nat) (x : Session) : (s.setSession n x).linkCfg = s.linkCfg := rfl

/-! ### `setEth` -/

@[simp] theorem State.setEth_pending (p : Nat) (x : EthPort) : (s.setEth p x).pending = s.pending := rfl
@[simp] theorem State.setEth_out (p : Nat) (x : EthPort) : (s.setEth p x).out = s.out := rfl
@[simp] theorem State.setEth_obj (p : Nat) (x : EthPort) : (s.setEth p x).obj = s.obj := rfl
@[simp] theorem State.setEth_blob (p : Nat) (x : EthPort) : (s.setEth p x).blob = s.blob := rfl
@[simp] theorem State.setEth_sel (p : Nat) (x : EthPort) : (s.setEth p x).sel = s.sel := rfl
@[simp] theorem State.setEth_selBlob (p : Nat) (x : EthPort) : (s.setEth p x).selBlob = s.selBlob := rfl
@[simp] theorem State.setEth_freeCtr (p : Nat) (x : EthPort) : (s.setEth p x).freeCtr = s.freeCtr := rfl
@[simp] theorem State.setEth_mem (p : Nat) (x : EthPort) : (s.setEth p x).mem = s.mem := rfl
@[simp] theorem State.setEth_chk (p : Nat) (x : EthPort) : (s.setEth p x).chk = s.chk := rfl
@[simp] theorem State.setEth_vchk (p : Nat) (x : EthPort) : (s.setEth p x).vchk = s.vchk := rfl
@[simp] theorem State.setEth_subch (p : Nat) (x : EthPort) : (s.setEth p x).subch = s.subch := rfl
@[simp] theorem State.setEth_pkgTemp (p : Nat) (x : EthPort) : (s.setEth p x).pkgTemp = s.pkgTemp := rfl
@[simp] theorem State.setEth_vreg (p : Nat) (x : EthPort) : (s.setEth p x).vreg = s.vreg := rfl
@[simp] theorem State.setEth_mreg (p : Nat) (x : EthPort) : (s.setEth p x).mreg = s.mreg := rfl
@[simp] theorem State.setEth_ctxs (p : Nat) (x : EthPort) : (s.setEth p x).ctxs = s.ctxs := rfl
@[simp] theorem State.setEth_ops (p : Nat) (x : EthPort) : (s.setEth p x).ops = s.ops := rfl
@[simp] theorem State.setEth_nextOp (p : Nat) (x : EthPort) : (s.setEth p x).nextOp = s.nextOp := rfl
@[simp] theorem State.setEth_stopped (p : Nat) (x : EthPort) : (s.setEth p x).stopped = s.stopped := rfl
@[simp] theorem State.setEth_sems (p : Nat) (x : EthPort) : (s.setEth p x).sems = s.sems := rfl
@[simp] theorem State.setEth_unrec (p : Nat) (x : EthPort) : (s.setEth p x).unrec = s.unrec := rfl
@[simp] theorem State.setEth_rings (p : Nat) (x : EthPort) : (s.setEth p x).rings = s.rings := rfl
@[simp] theorem State.setEth_tables (p : Nat) (x : EthPort) : (s.setEth p x).tables = s.tables := rfl
@[simp] theorem State.setEth_load (p : Nat) (x : EthPort) : (s.setEth p x).load = s.load := rfl
@[simp] theorem State.setEth_alm (p : Nat) (x : EthPort) : (s.setEth p x).alm = s.alm := rfl
@[simp] theorem State.setEth_stepRun (p : Nat) (x : EthPort) : (s.setEth p x).stepRun = s.stepRun := rfl
@[simp] theorem State.setEth_stepDead (p : Nat) (x : EthPort) : (s.setEth p x).stepDead = s.stepDead := rfl
@[simp] theorem State.setEth_stepQueue (p : Nat) (x : EthPort) : (s.setEth p x).stepQueue = s.stepQueue := rfl
@[simp] theorem State.setEth_censusRecv (p : Nat) (x : EthPort) : (s.setEth p x).censusRecv = s.censusRecv := rfl
@[simp] theorem State.setEth_updWait (p : Nat) (x : EthPort) : (s.setEth p x).updWait = s.updWait := rfl
@[simp] theorem State.setEth_baleFrom (p : Nat) (x : EthPort) : (s.setEth p x).baleFrom = s.baleFrom := rfl
@[simp] theorem State.setEth_balesDone (p : Nat) (x : EthPort) : (s.setEth p x).balesDone = s.balesDone := rfl
@[simp] theorem State.setEth_balesAborted (p : Nat) (x : EthPort) : (s.setEth p x).balesAborted = s.balesAborted := rfl
@[simp] theorem State.setEth_updDiscard (p : Nat) (x : EthPort) : (s.setEth p x).updDiscard = s.updDiscard := rfl
@[simp] theorem State.setEth_wmax (p : Nat) (x : EthPort) : (s.setEth p x).wmax = s.wmax := rfl
@[simp] theorem State.setEth_wsat (p : Nat) (x : EthPort) : (s.setEth p x).wsat = s.wsat := rfl
@[simp] theorem State.setEth_abortedInStep (p : Nat) (x : EthPort) : (s.setEth p x).abortedInStep = s.abortedInStep := rfl
@[simp] theorem State.setEth_earlyPkts (p : Nat) (x : EthPort) : (s.setEth p x).earlyPkts = s.earlyPkts := rfl
@[simp] theorem State.setEth_leaveQ (p : Nat) (x : EthPort) : (s.setEth p x).leaveQ = s.leaveQ := rfl
@[simp] theorem State.setEth_waited (p : Nat) (x : EthPort) : (s.setEth p x).waited = s.waited := rfl
@[simp] theorem State.setEth_readyQ (p : Nat) (x : EthPort) : (s.setEth p x).readyQ = s.readyQ := rfl
@[simp] theorem State.setEth_resvs (p : Nat) (x : EthPort) : (s.setEth p x).resvs = s.resvs := rfl
@[simp] theorem State.setEth_dip (p : Nat) (x : EthPort) : (s.setEth p x).dip = s.dip := rfl
@[simp] theorem State.setEth_thermSteps (p : Nat) (x : EthPort) : (s.setEth p x).thermSteps = s.thermSteps := rfl
@[simp] theorem State.setEth_dipSteps (p : Nat) (x : EthPort) : (s.setEth p x).dipSteps = s.dipSteps := rfl
@[simp] theorem State.setEth_fences (p : Nat) (x : EthPort) : (s.setEth p x).fences = s.fences := rfl
@[simp] theorem State.setEth_ringHead (p : Nat) (x : EthPort) : (s.setEth p x).ringHead = s.ringHead := rfl
@[simp] theorem State.setEth_thrs (p : Nat) (x : EthPort) : (s.setEth p x).thrs = s.thrs := rfl
@[simp] theorem State.setEth_ports (p : Nat) (x : EthPort) : (s.setEth p x).ports = s.ports := rfl
@[simp] theorem State.setEth_slots (p : Nat) (x : EthPort) : (s.setEth p x).slots = s.slots := rfl
@[simp] theorem State.setEth_qps (p : Nat) (x : EthPort) : (s.setEth p x).qps = s.qps := rfl
@[simp] theorem State.setEth_mrs (p : Nat) (x : EthPort) : (s.setEth p x).mrs = s.mrs := rfl
@[simp] theorem State.setEth_sessions (p : Nat) (x : EthPort) : (s.setEth p x).sessions = s.sessions := rfl
@[simp] theorem State.setEth_eths (p : Nat) (x : EthPort) : (s.setEth p x).eths = SMap.set {} s.eths p x := rfl
@[simp] theorem State.setEth_log (p : Nat) (x : EthPort) : (s.setEth p x).log = s.log := rfl
@[simp] theorem State.setEth_fieldFirst (p : Nat) (x : EthPort) : (s.setEth p x).fieldFirst = s.fieldFirst := rfl
@[simp] theorem State.setEth_fieldStamps (p : Nat) (x : EthPort) : (s.setEth p x).fieldStamps = s.fieldStamps := rfl
@[simp] theorem State.setEth_flash (p : Nat) (x : EthPort) : (s.setEth p x).flash = s.flash := rfl
@[simp] theorem State.setEth_fuses (p : Nat) (x : EthPort) : (s.setEth p x).fuses = s.fuses := rfl
@[simp] theorem State.setEth_pins (p : Nat) (x : EthPort) : (s.setEth p x).pins = s.pins := rfl
@[simp] theorem State.setEth_roceHeld (p : Nat) (x : EthPort) : (s.setEth p x).roceHeld = s.roceHeld := rfl
@[simp] theorem State.setEth_helloSec (p : Nat) (x : EthPort) : (s.setEth p x).helloSec = s.helloSec := rfl
@[simp] theorem State.setEth_resetAsked (p : Nat) (x : EthPort) : (s.setEth p x).resetAsked = s.resetAsked := rfl
@[simp] theorem State.setEth_resetRun (p : Nat) (x : EthPort) : (s.setEth p x).resetRun = s.resetRun := rfl
@[simp] theorem State.setEth_fallowStep (p : Nat) (x : EthPort) : (s.setEth p x).fallowStep = s.fallowStep := rfl
@[simp] theorem State.setEth_storeRun (p : Nat) (x : EthPort) : (s.setEth p x).storeRun = s.storeRun := rfl
@[simp] theorem State.setEth_storeSlot (p : Nat) (x : EthPort) : (s.setEth p x).storeSlot = s.storeSlot := rfl
@[simp] theorem State.setEth_fwStage (p : Nat) (x : EthPort) : (s.setEth p x).fwStage = s.fwStage := rfl
@[simp] theorem State.setEth_attestRun (p : Nat) (x : EthPort) : (s.setEth p x).attestRun = s.attestRun := rfl
@[simp] theorem State.setEth_watchdogMs (p : Nat) (x : EthPort) : (s.setEth p x).watchdogMs = s.watchdogMs := rfl
@[simp] theorem State.setEth_pllSince (p : Nat) (x : EthPort) : (s.setEth p x).pllSince = s.pllSince := rfl
@[simp] theorem State.setEth_energyUj (p : Nat) (x : EthPort) : (s.setEth p x).energyUj = s.energyUj := rfl
@[simp] theorem State.setEth_memLost (p : Nat) (x : EthPort) : (s.setEth p x).memLost = s.memLost := rfl
@[simp] theorem State.setEth_udpPort (p : Nat) (x : EthPort) : (s.setEth p x).udpPort = s.udpPort := rfl
@[simp] theorem State.setEth_memRate (p : Nat) (x : EthPort) : (s.setEth p x).memRate = s.memRate := rfl
@[simp] theorem State.setEth_linkCfg (p : Nat) (x : EthPort) : (s.setEth p x).linkCfg = s.linkCfg := rfl

end

end Sys2Proof.Machine
end

