-- ==== Sys2Proof/Laws/Access.lean ====
section
/-! SUPPORT. What each named reading of the state gives after each of its plain updates: what was written, at the place
written, and elsewhere what it gave before. -/
namespace Sys2Proof.Machine

/-- A write with one default leaves other keys alone under any default. -/
theorem SMap.get_set_ne' {α : Type} [DecidableEq α] (d e : α) (m : SMap α) (i j : Nat) (a : α) (h : j ≠ i) :
    SMap.get e (m.set d i a) j = SMap.get e m j := by
  unfold SMap.set
  split_ifs
  · exact SMap.get_erase_ne e m i j h
  · exact SMap.get_put_ne e m i j a h

theorem SMap.find_eq_get {α : Type} (m : SMap α) (i : Nat) :
    (m.find? fun p => decide (p.1 = i)).map (·.2) = SMap.get none (m.map fun p => (p.1, some p.2)) i := by
  induction m with
  | nil => rfl
  | cons p m ih =>
    obtain ⟨k, v⟩ := p
    by_cases h : k = i
    · simp [SMap.get, h]
    · simpa [SMap.get, List.find?_cons, h] using ih

theorem SMap.map_erase {α β : Type} (f : α → β) (m : SMap α) (i : Nat) :
    (m.erase i).map (fun p => (p.1, f p.2)) = SMap.erase (m.map fun p => (p.1, f p.2)) i := by
  induction m with
  | nil => rfl
  | cons p m ih =>
    obtain ⟨k, v⟩ := p
    simp only [SMap.erase, List.map_cons]
    split_ifs <;> simp [ih]

theorem SMap.map_put {α β : Type} (f : α → β) (m : SMap α) (i : Nat) (a : α) :
    (m.put i a).map (fun p => (p.1, f p.2)) = SMap.put (m.map fun p => (p.1, f p.2)) i (f a) := by
  unfold SMap.put
  rw [← SMap.map_erase]
  generalize m.erase i = e
  induction e with
  | nil => rfl
  | cons p m ih =>
    obtain ⟨k, v⟩ := p
    simp only [SMap.insert, List.map_cons]
    split_ifs <;> simp [ih]

theorem SMap.find_put_same {α : Type} (m : SMap α) (i : Nat) (a : α) :
    ((m.put i a).find? fun p => decide (p.1 = i)).map (·.2) = some a := by
  rw [SMap.find_eq_get, SMap.map_put, SMap.get_put_same]

theorem SMap.find_put_ne {α : Type} (m : SMap α) (i j : Nat) (a : α) (h : j ≠ i) :
    ((m.put i a).find? fun p => decide (p.1 = j)).map (·.2) = (m.find? fun p => decide (p.1 = j)).map (·.2) := by
  rw [SMap.find_eq_get, SMap.find_eq_get, SMap.map_put, SMap.get_put_ne _ _ _ _ _ h]

theorem SMap.find_erase_same {α : Type} (m : SMap α) (i : Nat) :
    ((m.erase i).find? fun p => decide (p.1 = i)).map (·.2) = none := by
  rw [SMap.find_eq_get, SMap.map_erase, SMap.get_erase_same]

theorem SMap.find_erase_ne {α : Type} (m : SMap α) (i j : Nat) (h : j ≠ i) :
    ((m.erase i).find? fun p => decide (p.1 = j)).map (·.2) = (m.find? fun p => decide (p.1 = j)).map (·.2) := by
  rw [SMap.find_eq_get, SMap.find_eq_get, SMap.map_erase, SMap.get_erase_ne _ _ _ _ h]

section
variable (s : State)

/-! ### A reading of one kind of state after an update of another -/

@[simp] theorem State.byte_setO (o : ObjDef) (v i j : Nat) (y : Nat) : (s.setO o v i j).byte y = s.byte y := rfl
@[simp] theorem State.peek_setO (o : ObjDef) (v i j : Nat) (y z : Nat) : (s.setO o v i j).peek y z = s.peek y z := rfl
@[simp] theorem State.port_setO (o : ObjDef) (v i j : Nat) (y : Nat) : (s.setO o v i j).port y = s.port y := rfl
@[simp] theorem State.ctx_setO (o : ObjDef) (v i j : Nat) (y z : Nat) : (s.setO o v i j).ctx y z = s.ctx y z := rfl
@[simp] theorem State.op_setO (o : ObjDef) (v i j : Nat) (y : Nat) : (s.setO o v i j).op? y = s.op? y := rfl
@[simp] theorem State.thr_setO (o : ObjDef) (v i j : Nat) (y : Nat) : (s.setO o v i j).thr y = s.thr y := rfl
@[simp] theorem State.sem_setO (o : ObjDef) (v i j : Nat) (y : Nat) : (s.setO o v i j).sem y = s.sem y := rfl
@[simp] theorem State.ring_setO (o : ObjDef) (v i j : Nat) (y : Nat) : (s.setO o v i j).ring y = s.ring y := rfl
@[simp] theorem State.sub_setO (o : ObjDef) (v i j : Nat) (y : Nat) : (s.setO o v i j).sub y = s.sub y := rfl
@[simp] theorem State.table_setO (o : ObjDef) (v i j : Nat) (y : Nat) : (s.setO o v i j).table y = s.table y := rfl
@[simp] theorem State.vslot_setO (o : ObjDef) (v i j : Nat) (w y z : Nat) : (s.setO o v i j).vslot w y z = s.vslot w y z := rfl
@[simp] theorem State.mask_setO (o : ObjDef) (v i j : Nat) (y z : Nat) : (s.setO o v i j).mask y z = s.mask y z := rfl
@[simp] theorem State.qp_setO (o : ObjDef) (v i j : Nat) (y : Nat) : (s.setO o v i j).qp y = s.qp y := rfl
@[simp] theorem State.mr_setO (o : ObjDef) (v i j : Nat) (y : Nat) : (s.setO o v i j).mr y = s.mr y := rfl
@[simp] theorem State.session_setO (o : ObjDef) (v i j : Nat) (y : Nat) : (s.setO o v i j).session y = s.session y := rfl
@[simp] theorem State.eth_setO (o : ObjDef) (v i j : Nat) (y : Nat) : (s.setO o v i j).eth y = s.eth y := rfl
@[simp] theorem State.getO_drew (w : ObjDef) (y z : Nat) : (s.drew).getO w y z = s.getO w y z := rfl
@[simp] theorem State.byte_drew (y : Nat) : (s.drew).byte y = s.byte y := rfl
@[simp] theorem State.peek_drew (y z : Nat) : (s.drew).peek y z = s.peek y z := rfl
@[simp] theorem State.port_drew (y : Nat) : (s.drew).port y = s.port y := rfl
@[simp] theorem State.ctx_drew (y z : Nat) : (s.drew).ctx y z = s.ctx y z := rfl
@[simp] theorem State.op_drew (y : Nat) : (s.drew).op? y = s.op? y := rfl
@[simp] theorem State.thr_drew (y : Nat) : (s.drew).thr y = s.thr y := rfl
@[simp] theorem State.sem_drew (y : Nat) : (s.drew).sem y = s.sem y := rfl
@[simp] theorem State.ring_drew (y : Nat) : (s.drew).ring y = s.ring y := rfl
@[simp] theorem State.sub_drew (y : Nat) : (s.drew).sub y = s.sub y := rfl
@[simp] theorem State.table_drew (y : Nat) : (s.drew).table y = s.table y := rfl
@[simp] theorem State.vslot_drew (w y z : Nat) : (s.drew).vslot w y z = s.vslot w y z := rfl
@[simp] theorem State.mask_drew (y z : Nat) : (s.drew).mask y z = s.mask y z := rfl
@[simp] theorem State.qp_drew (y : Nat) : (s.drew).qp y = s.qp y := rfl
@[simp] theorem State.mr_drew (y : Nat) : (s.drew).mr y = s.mr y := rfl
@[simp] theorem State.session_drew (y : Nat) : (s.drew).session y = s.session y := rfl
@[simp] theorem State.eth_drew (y : Nat) : (s.drew).eth y = s.eth y := rfl
@[simp] theorem State.getO_emit (o : Output) (w : ObjDef) (y z : Nat) : (s.emit o).getO w y z = s.getO w y z := rfl
@[simp] theorem State.byte_emit (o : Output) (y : Nat) : (s.emit o).byte y = s.byte y := rfl
@[simp] theorem State.peek_emit (o : Output) (y z : Nat) : (s.emit o).peek y z = s.peek y z := rfl
@[simp] theorem State.port_emit (o : Output) (y : Nat) : (s.emit o).port y = s.port y := rfl
@[simp] theorem State.ctx_emit (o : Output) (y z : Nat) : (s.emit o).ctx y z = s.ctx y z := rfl
@[simp] theorem State.op_emit (o : Output) (y : Nat) : (s.emit o).op? y = s.op? y := rfl
@[simp] theorem State.thr_emit (o : Output) (y : Nat) : (s.emit o).thr y = s.thr y := rfl
@[simp] theorem State.sem_emit (o : Output) (y : Nat) : (s.emit o).sem y = s.sem y := rfl
@[simp] theorem State.ring_emit (o : Output) (y : Nat) : (s.emit o).ring y = s.ring y := rfl
@[simp] theorem State.sub_emit (o : Output) (y : Nat) : (s.emit o).sub y = s.sub y := rfl
@[simp] theorem State.table_emit (o : Output) (y : Nat) : (s.emit o).table y = s.table y := rfl
@[simp] theorem State.vslot_emit (o : Output) (w y z : Nat) : (s.emit o).vslot w y z = s.vslot w y z := rfl
@[simp] theorem State.mask_emit (o : Output) (y z : Nat) : (s.emit o).mask y z = s.mask y z := rfl
@[simp] theorem State.qp_emit (o : Output) (y : Nat) : (s.emit o).qp y = s.qp y := rfl
@[simp] theorem State.mr_emit (o : Output) (y : Nat) : (s.emit o).mr y = s.mr y := rfl
@[simp] theorem State.session_emit (o : Output) (y : Nat) : (s.emit o).session y = s.session y := rfl
@[simp] theorem State.eth_emit (o : Output) (y : Nat) : (s.emit o).eth y = s.eth y := rfl
@[simp] theorem State.getO_setByte (a : Nat) (b : Byte) (w : ObjDef) (y z : Nat) : (s.setByte a b).getO w y z = s.getO w y z := rfl
@[simp] theorem State.port_setByte (a : Nat) (b : Byte) (y : Nat) : (s.setByte a b).port y = s.port y := rfl
@[simp] theorem State.ctx_setByte (a : Nat) (b : Byte) (y z : Nat) : (s.setByte a b).ctx y z = s.ctx y z := rfl
@[simp] theorem State.op_setByte (a : Nat) (b : Byte) (y : Nat) : (s.setByte a b).op? y = s.op? y := rfl
@[simp] theorem State.thr_setByte (a : Nat) (b : Byte) (y : Nat) : (s.setByte a b).thr y = s.thr y := rfl
@[simp] theorem State.sem_setByte (a : Nat) (b : Byte) (y : Nat) : (s.setByte a b).sem y = s.sem y := rfl
@[simp] theorem State.ring_setByte (a : Nat) (b : Byte) (y : Nat) : (s.setByte a b).ring y = s.ring y := rfl
@[simp] theorem State.sub_setByte (a : Nat) (b : Byte) (y : Nat) : (s.setByte a b).sub y = s.sub y := rfl
@[simp] theorem State.table_setByte (a : Nat) (b : Byte) (y : Nat) : (s.setByte a b).table y = s.table y := rfl
@[simp] theorem State.vslot_setByte (a : Nat) (b : Byte) (w y z : Nat) : (s.setByte a b).vslot w y z = s.vslot w y z := rfl
@[simp] theorem State.mask_setByte (a : Nat) (b : Byte) (y z : Nat) : (s.setByte a b).mask y z = s.mask y z := rfl
@[simp] theorem State.qp_setByte (a : Nat) (b : Byte) (y : Nat) : (s.setByte a b).qp y = s.qp y := rfl
@[simp] theorem State.mr_setByte (a : Nat) (b : Byte) (y : Nat) : (s.setByte a b).mr y = s.mr y := rfl
@[simp] theorem State.session_setByte (a : Nat) (b : Byte) (y : Nat) : (s.setByte a b).session y = s.session y := rfl
@[simp] theorem State.eth_setByte (a : Nat) (b : Byte) (y : Nat) : (s.setByte a b).eth y = s.eth y := rfl
@[simp] theorem State.getO_poke (a : Nat) (bs : List Byte) (w : ObjDef) (y z : Nat) : (s.poke a bs).getO w y z = s.getO w y z := rfl
@[simp] theorem State.port_poke (a : Nat) (bs : List Byte) (y : Nat) : (s.poke a bs).port y = s.port y := rfl
@[simp] theorem State.ctx_poke (a : Nat) (bs : List Byte) (y z : Nat) : (s.poke a bs).ctx y z = s.ctx y z := rfl
@[simp] theorem State.op_poke (a : Nat) (bs : List Byte) (y : Nat) : (s.poke a bs).op? y = s.op? y := rfl
@[simp] theorem State.thr_poke (a : Nat) (bs : List Byte) (y : Nat) : (s.poke a bs).thr y = s.thr y := rfl
@[simp] theorem State.sem_poke (a : Nat) (bs : List Byte) (y : Nat) : (s.poke a bs).sem y = s.sem y := rfl
@[simp] theorem State.ring_poke (a : Nat) (bs : List Byte) (y : Nat) : (s.poke a bs).ring y = s.ring y := rfl
@[simp] theorem State.sub_poke (a : Nat) (bs : List Byte) (y : Nat) : (s.poke a bs).sub y = s.sub y := rfl
@[simp] theorem State.table_poke (a : Nat) (bs : List Byte) (y : Nat) : (s.poke a bs).table y = s.table y := rfl
@[simp] theorem State.vslot_poke (a : Nat) (bs : List Byte) (w y z : Nat) : (s.poke a bs).vslot w y z = s.vslot w y z := rfl
@[simp] theorem State.mask_poke (a : Nat) (bs : List Byte) (y z : Nat) : (s.poke a bs).mask y z = s.mask y z := rfl
@[simp] theorem State.qp_poke (a : Nat) (bs : List Byte) (y : Nat) : (s.poke a bs).qp y = s.qp y := rfl
@[simp] theorem State.mr_poke (a : Nat) (bs : List Byte) (y : Nat) : (s.poke a bs).mr y = s.mr y := rfl
@[simp] theorem State.session_poke (a : Nat) (bs : List Byte) (y : Nat) : (s.poke a bs).session y = s.session y := rfl
@[simp] theorem State.eth_poke (a : Nat) (bs : List Byte) (y : Nat) : (s.poke a bs).eth y = s.eth y := rfl
@[simp] theorem State.getO_setPort (p : Nat) (x : Port) (w : ObjDef) (y z : Nat) : (s.setPort p x).getO w y z = s.getO w y z := rfl
@[simp] theorem State.byte_setPort (p : Nat) (x : Port) (y : Nat) : (s.setPort p x).byte y = s.byte y := rfl
@[simp] theorem State.peek_setPort (p : Nat) (x : Port) (y z : Nat) : (s.setPort p x).peek y z = s.peek y z := rfl
@[simp] theorem State.ctx_setPort (p : Nat) (x : Port) (y z : Nat) : (s.setPort p x).ctx y z = s.ctx y z := rfl
@[simp] theorem State.op_setPort (p : Nat) (x : Port) (y : Nat) : (s.setPort p x).op? y = s.op? y := rfl
@[simp] theorem State.thr_setPort (p : Nat) (x : Port) (y : Nat) : (s.setPort p x).thr y = s.thr y := rfl
@[simp] theorem State.sem_setPort (p : Nat) (x : Port) (y : Nat) : (s.setPort p x).sem y = s.sem y := rfl
@[simp] theorem State.ring_setPort (p : Nat) (x : Port) (y : Nat) : (s.setPort p x).ring y = s.ring y := rfl
@[simp] theorem State.sub_setPort (p : Nat) (x : Port) (y : Nat) : (s.setPort p x).sub y = s.sub y := rfl
@[simp] theorem State.table_setPort (p : Nat) (x : Port) (y : Nat) : (s.setPort p x).table y = s.table y := rfl
@[simp] theorem State.vslot_setPort (p : Nat) (x : Port) (w y z : Nat) : (s.setPort p x).vslot w y z = s.vslot w y z := rfl
@[simp] theorem State.mask_setPort (p : Nat) (x : Port) (y z : Nat) : (s.setPort p x).mask y z = s.mask y z := rfl
@[simp] theorem State.qp_setPort (p : Nat) (x : Port) (y : Nat) : (s.setPort p x).qp y = s.qp y := rfl
@[simp] theorem State.mr_setPort (p : Nat) (x : Port) (y : Nat) : (s.setPort p x).mr y = s.mr y := rfl
@[simp] theorem State.session_setPort (p : Nat) (x : Port) (y : Nat) : (s.setPort p x).session y = s.session y := rfl
@[simp] theorem State.eth_setPort (p : Nat) (x : Port) (y : Nat) : (s.setPort p x).eth y = s.eth y := rfl
@[simp] theorem State.getO_setCtx (core ctx : Nat) (c : Ctx) (w : ObjDef) (y z : Nat) : (s.setCtx core ctx c).getO w y z = s.getO w y z := rfl
@[simp] theorem State.byte_setCtx (core ctx : Nat) (c : Ctx) (y : Nat) : (s.setCtx core ctx c).byte y = s.byte y := rfl
@[simp] theorem State.peek_setCtx (core ctx : Nat) (c : Ctx) (y z : Nat) : (s.setCtx core ctx c).peek y z = s.peek y z := rfl
@[simp] theorem State.port_setCtx (core ctx : Nat) (c : Ctx) (y : Nat) : (s.setCtx core ctx c).port y = s.port y := rfl
@[simp] theorem State.op_setCtx (core ctx : Nat) (c : Ctx) (y : Nat) : (s.setCtx core ctx c).op? y = s.op? y := rfl
@[simp] theorem State.thr_setCtx (core ctx : Nat) (c : Ctx) (y : Nat) : (s.setCtx core ctx c).thr y = s.thr y := rfl
@[simp] theorem State.sem_setCtx (core ctx : Nat) (c : Ctx) (y : Nat) : (s.setCtx core ctx c).sem y = s.sem y := rfl
@[simp] theorem State.ring_setCtx (core ctx : Nat) (c : Ctx) (y : Nat) : (s.setCtx core ctx c).ring y = s.ring y := rfl
@[simp] theorem State.sub_setCtx (core ctx : Nat) (c : Ctx) (y : Nat) : (s.setCtx core ctx c).sub y = s.sub y := rfl
@[simp] theorem State.table_setCtx (core ctx : Nat) (c : Ctx) (y : Nat) : (s.setCtx core ctx c).table y = s.table y := rfl
@[simp] theorem State.vslot_setCtx (core ctx : Nat) (c : Ctx) (w y z : Nat) : (s.setCtx core ctx c).vslot w y z = s.vslot w y z := rfl
@[simp] theorem State.mask_setCtx (core ctx : Nat) (c : Ctx) (y z : Nat) : (s.setCtx core ctx c).mask y z = s.mask y z := rfl
@[simp] theorem State.qp_setCtx (core ctx : Nat) (c : Ctx) (y : Nat) : (s.setCtx core ctx c).qp y = s.qp y := rfl
@[simp] theorem State.mr_setCtx (core ctx : Nat) (c : Ctx) (y : Nat) : (s.setCtx core ctx c).mr y = s.mr y := rfl
@[simp] theorem State.session_setCtx (core ctx : Nat) (c : Ctx) (y : Nat) : (s.setCtx core ctx c).session y = s.session y := rfl
@[simp] theorem State.eth_setCtx (core ctx : Nat) (c : Ctx) (y : Nat) : (s.setCtx core ctx c).eth y = s.eth y := rfl
@[simp] theorem State.getO_setOp (id : Nat) (o : Op) (w : ObjDef) (y z : Nat) : (s.setOp id o).getO w y z = s.getO w y z := rfl
@[simp] theorem State.byte_setOp (id : Nat) (o : Op) (y : Nat) : (s.setOp id o).byte y = s.byte y := rfl
@[simp] theorem State.peek_setOp (id : Nat) (o : Op) (y z : Nat) : (s.setOp id o).peek y z = s.peek y z := rfl
@[simp] theorem State.port_setOp (id : Nat) (o : Op) (y : Nat) : (s.setOp id o).port y = s.port y := rfl
@[simp] theorem State.ctx_setOp (id : Nat) (o : Op) (y z : Nat) : (s.setOp id o).ctx y z = s.ctx y z := rfl
@[simp] theorem State.thr_setOp (id : Nat) (o : Op) (y : Nat) : (s.setOp id o).thr y = s.thr y := rfl
@[simp] theorem State.sem_setOp (id : Nat) (o : Op) (y : Nat) : (s.setOp id o).sem y = s.sem y := rfl
@[simp] theorem State.ring_setOp (id : Nat) (o : Op) (y : Nat) : (s.setOp id o).ring y = s.ring y := rfl
@[simp] theorem State.sub_setOp (id : Nat) (o : Op) (y : Nat) : (s.setOp id o).sub y = s.sub y := rfl
@[simp] theorem State.table_setOp (id : Nat) (o : Op) (y : Nat) : (s.setOp id o).table y = s.table y := rfl
@[simp] theorem State.vslot_setOp (id : Nat) (o : Op) (w y z : Nat) : (s.setOp id o).vslot w y z = s.vslot w y z := rfl
@[simp] theorem State.mask_setOp (id : Nat) (o : Op) (y z : Nat) : (s.setOp id o).mask y z = s.mask y z := rfl
@[simp] theorem State.qp_setOp (id : Nat) (o : Op) (y : Nat) : (s.setOp id o).qp y = s.qp y := rfl
@[simp] theorem State.mr_setOp (id : Nat) (o : Op) (y : Nat) : (s.setOp id o).mr y = s.mr y := rfl
@[simp] theorem State.session_setOp (id : Nat) (o : Op) (y : Nat) : (s.setOp id o).session y = s.session y := rfl
@[simp] theorem State.eth_setOp (id : Nat) (o : Op) (y : Nat) : (s.setOp id o).eth y = s.eth y := rfl
@[simp] theorem State.getO_dropOp (id : Nat) (w : ObjDef) (y z : Nat) : (s.dropOp id).getO w y z = s.getO w y z := rfl
@[simp] theorem State.byte_dropOp (id : Nat) (y : Nat) : (s.dropOp id).byte y = s.byte y := rfl
@[simp] theorem State.peek_dropOp (id : Nat) (y z : Nat) : (s.dropOp id).peek y z = s.peek y z := rfl
@[simp] theorem State.port_dropOp (id : Nat) (y : Nat) : (s.dropOp id).port y = s.port y := rfl
@[simp] theorem State.ctx_dropOp (id : Nat) (y z : Nat) : (s.dropOp id).ctx y z = s.ctx y z := rfl
@[simp] theorem State.thr_dropOp (id : Nat) (y : Nat) : (s.dropOp id).thr y = s.thr y := rfl
@[simp] theorem State.sem_dropOp (id : Nat) (y : Nat) : (s.dropOp id).sem y = s.sem y := rfl
@[simp] theorem State.ring_dropOp (id : Nat) (y : Nat) : (s.dropOp id).ring y = s.ring y := rfl
@[simp] theorem State.sub_dropOp (id : Nat) (y : Nat) : (s.dropOp id).sub y = s.sub y := rfl
@[simp] theorem State.table_dropOp (id : Nat) (y : Nat) : (s.dropOp id).table y = s.table y := rfl
@[simp] theorem State.vslot_dropOp (id : Nat) (w y z : Nat) : (s.dropOp id).vslot w y z = s.vslot w y z := rfl
@[simp] theorem State.mask_dropOp (id : Nat) (y z : Nat) : (s.dropOp id).mask y z = s.mask y z := rfl
@[simp] theorem State.qp_dropOp (id : Nat) (y : Nat) : (s.dropOp id).qp y = s.qp y := rfl
@[simp] theorem State.mr_dropOp (id : Nat) (y : Nat) : (s.dropOp id).mr y = s.mr y := rfl
@[simp] theorem State.session_dropOp (id : Nat) (y : Nat) : (s.dropOp id).session y = s.session y := rfl
@[simp] theorem State.eth_dropOp (id : Nat) (y : Nat) : (s.dropOp id).eth y = s.eth y := rfl
@[simp] theorem State.getO_setThr (d : Nat) (t : Thr) (w : ObjDef) (y z : Nat) : (s.setThr d t).getO w y z = s.getO w y z := rfl
@[simp] theorem State.byte_setThr (d : Nat) (t : Thr) (y : Nat) : (s.setThr d t).byte y = s.byte y := rfl
@[simp] theorem State.peek_setThr (d : Nat) (t : Thr) (y z : Nat) : (s.setThr d t).peek y z = s.peek y z := rfl
@[simp] theorem State.port_setThr (d : Nat) (t : Thr) (y : Nat) : (s.setThr d t).port y = s.port y := rfl
@[simp] theorem State.ctx_setThr (d : Nat) (t : Thr) (y z : Nat) : (s.setThr d t).ctx y z = s.ctx y z := rfl
@[simp] theorem State.op_setThr (d : Nat) (t : Thr) (y : Nat) : (s.setThr d t).op? y = s.op? y := rfl
@[simp] theorem State.sem_setThr (d : Nat) (t : Thr) (y : Nat) : (s.setThr d t).sem y = s.sem y := rfl
@[simp] theorem State.ring_setThr (d : Nat) (t : Thr) (y : Nat) : (s.setThr d t).ring y = s.ring y := rfl
@[simp] theorem State.sub_setThr (d : Nat) (t : Thr) (y : Nat) : (s.setThr d t).sub y = s.sub y := rfl
@[simp] theorem State.table_setThr (d : Nat) (t : Thr) (y : Nat) : (s.setThr d t).table y = s.table y := rfl
@[simp] theorem State.vslot_setThr (d : Nat) (t : Thr) (w y z : Nat) : (s.setThr d t).vslot w y z = s.vslot w y z := rfl
@[simp] theorem State.mask_setThr (d : Nat) (t : Thr) (y z : Nat) : (s.setThr d t).mask y z = s.mask y z := rfl
@[simp] theorem State.qp_setThr (d : Nat) (t : Thr) (y : Nat) : (s.setThr d t).qp y = s.qp y := rfl
@[simp] theorem State.mr_setThr (d : Nat) (t : Thr) (y : Nat) : (s.setThr d t).mr y = s.mr y := rfl
@[simp] theorem State.session_setThr (d : Nat) (t : Thr) (y : Nat) : (s.setThr d t).session y = s.session y := rfl
@[simp] theorem State.eth_setThr (d : Nat) (t : Thr) (y : Nat) : (s.setThr d t).eth y = s.eth y := rfl
@[simp] theorem State.getO_setSem (n : Nat) (x : Sem) (w : ObjDef) (y z : Nat) : (s.setSem n x).getO w y z = s.getO w y z := rfl
@[simp] theorem State.byte_setSem (n : Nat) (x : Sem) (y : Nat) : (s.setSem n x).byte y = s.byte y := rfl
@[simp] theorem State.peek_setSem (n : Nat) (x : Sem) (y z : Nat) : (s.setSem n x).peek y z = s.peek y z := rfl
@[simp] theorem State.port_setSem (n : Nat) (x : Sem) (y : Nat) : (s.setSem n x).port y = s.port y := rfl
@[simp] theorem State.ctx_setSem (n : Nat) (x : Sem) (y z : Nat) : (s.setSem n x).ctx y z = s.ctx y z := rfl
@[simp] theorem State.op_setSem (n : Nat) (x : Sem) (y : Nat) : (s.setSem n x).op? y = s.op? y := rfl
@[simp] theorem State.thr_setSem (n : Nat) (x : Sem) (y : Nat) : (s.setSem n x).thr y = s.thr y := rfl
@[simp] theorem State.ring_setSem (n : Nat) (x : Sem) (y : Nat) : (s.setSem n x).ring y = s.ring y := rfl
@[simp] theorem State.sub_setSem (n : Nat) (x : Sem) (y : Nat) : (s.setSem n x).sub y = s.sub y := rfl
@[simp] theorem State.table_setSem (n : Nat) (x : Sem) (y : Nat) : (s.setSem n x).table y = s.table y := rfl
@[simp] theorem State.vslot_setSem (n : Nat) (x : Sem) (w y z : Nat) : (s.setSem n x).vslot w y z = s.vslot w y z := rfl
@[simp] theorem State.mask_setSem (n : Nat) (x : Sem) (y z : Nat) : (s.setSem n x).mask y z = s.mask y z := rfl
@[simp] theorem State.qp_setSem (n : Nat) (x : Sem) (y : Nat) : (s.setSem n x).qp y = s.qp y := rfl
@[simp] theorem State.mr_setSem (n : Nat) (x : Sem) (y : Nat) : (s.setSem n x).mr y = s.mr y := rfl
@[simp] theorem State.session_setSem (n : Nat) (x : Sem) (y : Nat) : (s.setSem n x).session y = s.session y := rfl
@[simp] theorem State.eth_setSem (n : Nat) (x : Sem) (y : Nat) : (s.setSem n x).eth y = s.eth y := rfl
@[simp] theorem State.getO_setRing (q : Nat) (r : Ring) (w : ObjDef) (y z : Nat) : (s.setRing q r).getO w y z = s.getO w y z := rfl
@[simp] theorem State.byte_setRing (q : Nat) (r : Ring) (y : Nat) : (s.setRing q r).byte y = s.byte y := rfl
@[simp] theorem State.peek_setRing (q : Nat) (r : Ring) (y z : Nat) : (s.setRing q r).peek y z = s.peek y z := rfl
@[simp] theorem State.port_setRing (q : Nat) (r : Ring) (y : Nat) : (s.setRing q r).port y = s.port y := rfl
@[simp] theorem State.ctx_setRing (q : Nat) (r : Ring) (y z : Nat) : (s.setRing q r).ctx y z = s.ctx y z := rfl
@[simp] theorem State.op_setRing (q : Nat) (r : Ring) (y : Nat) : (s.setRing q r).op? y = s.op? y := rfl
@[simp] theorem State.thr_setRing (q : Nat) (r : Ring) (y : Nat) : (s.setRing q r).thr y = s.thr y := rfl
@[simp] theorem State.sem_setRing (q : Nat) (r : Ring) (y : Nat) : (s.setRing q r).sem y = s.sem y := rfl
@[simp] theorem State.sub_setRing (q : Nat) (r : Ring) (y : Nat) : (s.setRing q r).sub y = s.sub y := rfl
@[simp] theorem State.table_setRing (q : Nat) (r : Ring) (y : Nat) : (s.setRing q r).table y = s.table y := rfl
@[simp] theorem State.vslot_setRing (q : Nat) (r : Ring) (w y z : Nat) : (s.setRing q r).vslot w y z = s.vslot w y z := rfl
@[simp] theorem State.mask_setRing (q : Nat) (r : Ring) (y z : Nat) : (s.setRing q r).mask y z = s.mask y z := rfl
@[simp] theorem State.qp_setRing (q : Nat) (r : Ring) (y : Nat) : (s.setRing q r).qp y = s.qp y := rfl
@[simp] theorem State.mr_setRing (q : Nat) (r : Ring) (y : Nat) : (s.setRing q r).mr y = s.mr y := rfl
@[simp] theorem State.session_setRing (q : Nat) (r : Ring) (y : Nat) : (s.setRing q r).session y = s.session y := rfl
@[simp] theorem State.eth_setRing (q : Nat) (r : Ring) (y : Nat) : (s.setRing q r).eth y = s.eth y := rfl
@[simp] theorem State.getO_setSub (c : Nat) (x : Subch) (w : ObjDef) (y z : Nat) : (s.setSub c x).getO w y z = s.getO w y z := rfl
@[simp] theorem State.byte_setSub (c : Nat) (x : Subch) (y : Nat) : (s.setSub c x).byte y = s.byte y := rfl
@[simp] theorem State.peek_setSub (c : Nat) (x : Subch) (y z : Nat) : (s.setSub c x).peek y z = s.peek y z := rfl
@[simp] theorem State.port_setSub (c : Nat) (x : Subch) (y : Nat) : (s.setSub c x).port y = s.port y := rfl
@[simp] theorem State.ctx_setSub (c : Nat) (x : Subch) (y z : Nat) : (s.setSub c x).ctx y z = s.ctx y z := rfl
@[simp] theorem State.op_setSub (c : Nat) (x : Subch) (y : Nat) : (s.setSub c x).op? y = s.op? y := rfl
@[simp] theorem State.thr_setSub (c : Nat) (x : Subch) (y : Nat) : (s.setSub c x).thr y = s.thr y := rfl
@[simp] theorem State.sem_setSub (c : Nat) (x : Subch) (y : Nat) : (s.setSub c x).sem y = s.sem y := rfl
@[simp] theorem State.ring_setSub (c : Nat) (x : Subch) (y : Nat) : (s.setSub c x).ring y = s.ring y := rfl
@[simp] theorem State.table_setSub (c : Nat) (x : Subch) (y : Nat) : (s.setSub c x).table y = s.table y := rfl
@[simp] theorem State.vslot_setSub (c : Nat) (x : Subch) (w y z : Nat) : (s.setSub c x).vslot w y z = s.vslot w y z := rfl
@[simp] theorem State.mask_setSub (c : Nat) (x : Subch) (y z : Nat) : (s.setSub c x).mask y z = s.mask y z := rfl
@[simp] theorem State.qp_setSub (c : Nat) (x : Subch) (y : Nat) : (s.setSub c x).qp y = s.qp y := rfl
@[simp] theorem State.mr_setSub (c : Nat) (x : Subch) (y : Nat) : (s.setSub c x).mr y = s.mr y := rfl
@[simp] theorem State.session_setSub (c : Nat) (x : Subch) (y : Nat) : (s.setSub c x).session y = s.session y := rfl
@[simp] theorem State.eth_setSub (c : Nat) (x : Subch) (y : Nat) : (s.setSub c x).eth y = s.eth y := rfl
@[simp] theorem State.getO_setTable (t : Nat) (x : Table) (w : ObjDef) (y z : Nat) : (s.setTable t x).getO w y z = s.getO w y z := rfl
@[simp] theorem State.byte_setTable (t : Nat) (x : Table) (y : Nat) : (s.setTable t x).byte y = s.byte y := rfl
@[simp] theorem State.peek_setTable (t : Nat) (x : Table) (y z : Nat) : (s.setTable t x).peek y z = s.peek y z := rfl
@[simp] theorem State.port_setTable (t : Nat) (x : Table) (y : Nat) : (s.setTable t x).port y = s.port y := rfl
@[simp] theorem State.ctx_setTable (t : Nat) (x : Table) (y z : Nat) : (s.setTable t x).ctx y z = s.ctx y z := rfl
@[simp] theorem State.op_setTable (t : Nat) (x : Table) (y : Nat) : (s.setTable t x).op? y = s.op? y := rfl
@[simp] theorem State.thr_setTable (t : Nat) (x : Table) (y : Nat) : (s.setTable t x).thr y = s.thr y := rfl
@[simp] theorem State.sem_setTable (t : Nat) (x : Table) (y : Nat) : (s.setTable t x).sem y = s.sem y := rfl
@[simp] theorem State.ring_setTable (t : Nat) (x : Table) (y : Nat) : (s.setTable t x).ring y = s.ring y := rfl
@[simp] theorem State.sub_setTable (t : Nat) (x : Table) (y : Nat) : (s.setTable t x).sub y = s.sub y := rfl
@[simp] theorem State.vslot_setTable (t : Nat) (x : Table) (w y z : Nat) : (s.setTable t x).vslot w y z = s.vslot w y z := rfl
@[simp] theorem State.mask_setTable (t : Nat) (x : Table) (y z : Nat) : (s.setTable t x).mask y z = s.mask y z := rfl
@[simp] theorem State.qp_setTable (t : Nat) (x : Table) (y : Nat) : (s.setTable t x).qp y = s.qp y := rfl
@[simp] theorem State.mr_setTable (t : Nat) (x : Table) (y : Nat) : (s.setTable t x).mr y = s.mr y := rfl
@[simp] theorem State.session_setTable (t : Nat) (x : Table) (y : Nat) : (s.setTable t x).session y = s.session y := rfl
@[simp] theorem State.eth_setTable (t : Nat) (x : Table) (y : Nat) : (s.setTable t x).eth y = s.eth y := rfl
@[simp] theorem State.getO_setVslot (core r slot v : Nat) (w : ObjDef) (y z : Nat) : (s.setVslot core r slot v).getO w y z = s.getO w y z := rfl
@[simp] theorem State.byte_setVslot (core r slot v : Nat) (y : Nat) : (s.setVslot core r slot v).byte y = s.byte y := rfl
@[simp] theorem State.peek_setVslot (core r slot v : Nat) (y z : Nat) : (s.setVslot core r slot v).peek y z = s.peek y z := rfl
@[simp] theorem State.port_setVslot (core r slot v : Nat) (y : Nat) : (s.setVslot core r slot v).port y = s.port y := rfl
@[simp] theorem State.ctx_setVslot (core r slot v : Nat) (y z : Nat) : (s.setVslot core r slot v).ctx y z = s.ctx y z := rfl
@[simp] theorem State.op_setVslot (core r slot v : Nat) (y : Nat) : (s.setVslot core r slot v).op? y = s.op? y := rfl
@[simp] theorem State.thr_setVslot (core r slot v : Nat) (y : Nat) : (s.setVslot core r slot v).thr y = s.thr y := rfl
@[simp] theorem State.sem_setVslot (core r slot v : Nat) (y : Nat) : (s.setVslot core r slot v).sem y = s.sem y := rfl
@[simp] theorem State.ring_setVslot (core r slot v : Nat) (y : Nat) : (s.setVslot core r slot v).ring y = s.ring y := rfl
@[simp] theorem State.sub_setVslot (core r slot v : Nat) (y : Nat) : (s.setVslot core r slot v).sub y = s.sub y := rfl
@[simp] theorem State.table_setVslot (core r slot v : Nat) (y : Nat) : (s.setVslot core r slot v).table y = s.table y := rfl
@[simp] theorem State.mask_setVslot (core r slot v : Nat) (y z : Nat) : (s.setVslot core r slot v).mask y z = s.mask y z := rfl
@[simp] theorem State.qp_setVslot (core r slot v : Nat) (y : Nat) : (s.setVslot core r slot v).qp y = s.qp y := rfl
@[simp] theorem State.mr_setVslot (core r slot v : Nat) (y : Nat) : (s.setVslot core r slot v).mr y = s.mr y := rfl
@[simp] theorem State.session_setVslot (core r slot v : Nat) (y : Nat) : (s.setVslot core r slot v).session y = s.session y := rfl
@[simp] theorem State.eth_setVslot (core r slot v : Nat) (y : Nat) : (s.setVslot core r slot v).eth y = s.eth y := rfl
@[simp] theorem State.getO_setMask (core k v : Nat) (w : ObjDef) (y z : Nat) : (s.setMask core k v).getO w y z = s.getO w y z := rfl
@[simp] theorem State.byte_setMask (core k v : Nat) (y : Nat) : (s.setMask core k v).byte y = s.byte y := rfl
@[simp] theorem State.peek_setMask (core k v : Nat) (y z : Nat) : (s.setMask core k v).peek y z = s.peek y z := rfl
@[simp] theorem State.port_setMask (core k v : Nat) (y : Nat) : (s.setMask core k v).port y = s.port y := rfl
@[simp] theorem State.ctx_setMask (core k v : Nat) (y z : Nat) : (s.setMask core k v).ctx y z = s.ctx y z := rfl
@[simp] theorem State.op_setMask (core k v : Nat) (y : Nat) : (s.setMask core k v).op? y = s.op? y := rfl
@[simp] theorem State.thr_setMask (core k v : Nat) (y : Nat) : (s.setMask core k v).thr y = s.thr y := rfl
@[simp] theorem State.sem_setMask (core k v : Nat) (y : Nat) : (s.setMask core k v).sem y = s.sem y := rfl
@[simp] theorem State.ring_setMask (core k v : Nat) (y : Nat) : (s.setMask core k v).ring y = s.ring y := rfl
@[simp] theorem State.sub_setMask (core k v : Nat) (y : Nat) : (s.setMask core k v).sub y = s.sub y := rfl
@[simp] theorem State.table_setMask (core k v : Nat) (y : Nat) : (s.setMask core k v).table y = s.table y := rfl
@[simp] theorem State.vslot_setMask (core k v : Nat) (w y z : Nat) : (s.setMask core k v).vslot w y z = s.vslot w y z := rfl
@[simp] theorem State.qp_setMask (core k v : Nat) (y : Nat) : (s.setMask core k v).qp y = s.qp y := rfl
@[simp] theorem State.mr_setMask (core k v : Nat) (y : Nat) : (s.setMask core k v).mr y = s.mr y := rfl
@[simp] theorem State.session_setMask (core k v : Nat) (y : Nat) : (s.setMask core k v).session y = s.session y := rfl
@[simp] theorem State.eth_setMask (core k v : Nat) (y : Nat) : (s.setMask core k v).eth y = s.eth y := rfl
@[simp] theorem State.getO_setSel (rq : Nat) (o : ObjDef) (v : Nat) (w : ObjDef) (y z : Nat) : (s.setSel rq o v).getO w y z = s.getO w y z := rfl
@[simp] theorem State.byte_setSel (rq : Nat) (o : ObjDef) (v : Nat) (y : Nat) : (s.setSel rq o v).byte y = s.byte y := rfl
@[simp] theorem State.peek_setSel (rq : Nat) (o : ObjDef) (v : Nat) (y z : Nat) : (s.setSel rq o v).peek y z = s.peek y z := rfl
@[simp] theorem State.port_setSel (rq : Nat) (o : ObjDef) (v : Nat) (y : Nat) : (s.setSel rq o v).port y = s.port y := rfl
@[simp] theorem State.ctx_setSel (rq : Nat) (o : ObjDef) (v : Nat) (y z : Nat) : (s.setSel rq o v).ctx y z = s.ctx y z := rfl
@[simp] theorem State.op_setSel (rq : Nat) (o : ObjDef) (v : Nat) (y : Nat) : (s.setSel rq o v).op? y = s.op? y := rfl
@[simp] theorem State.thr_setSel (rq : Nat) (o : ObjDef) (v : Nat) (y : Nat) : (s.setSel rq o v).thr y = s.thr y := rfl
@[simp] theorem State.sem_setSel (rq : Nat) (o : ObjDef) (v : Nat) (y : Nat) : (s.setSel rq o v).sem y = s.sem y := rfl
@[simp] theorem State.ring_setSel (rq : Nat) (o : ObjDef) (v : Nat) (y : Nat) : (s.setSel rq o v).ring y = s.ring y := rfl
@[simp] theorem State.sub_setSel (rq : Nat) (o : ObjDef) (v : Nat) (y : Nat) : (s.setSel rq o v).sub y = s.sub y := rfl
@[simp] theorem State.table_setSel (rq : Nat) (o : ObjDef) (v : Nat) (y : Nat) : (s.setSel rq o v).table y = s.table y := rfl
@[simp] theorem State.vslot_setSel (rq : Nat) (o : ObjDef) (v : Nat) (w y z : Nat) : (s.setSel rq o v).vslot w y z = s.vslot w y z := rfl
@[simp] theorem State.mask_setSel (rq : Nat) (o : ObjDef) (v : Nat) (y z : Nat) : (s.setSel rq o v).mask y z = s.mask y z := rfl
@[simp] theorem State.qp_setSel (rq : Nat) (o : ObjDef) (v : Nat) (y : Nat) : (s.setSel rq o v).qp y = s.qp y := rfl
@[simp] theorem State.mr_setSel (rq : Nat) (o : ObjDef) (v : Nat) (y : Nat) : (s.setSel rq o v).mr y = s.mr y := rfl
@[simp] theorem State.session_setSel (rq : Nat) (o : ObjDef) (v : Nat) (y : Nat) : (s.setSel rq o v).session y = s.session y := rfl
@[simp] theorem State.eth_setSel (rq : Nat) (o : ObjDef) (v : Nat) (y : Nat) : (s.setSel rq o v).eth y = s.eth y := rfl
@[simp] theorem State.getO_setSelBlob (rq : Nat) (o : ObjDef) (bs : List Byte) (w : ObjDef) (y z : Nat) : (s.setSelBlob rq o bs).getO w y z = s.getO w y z := rfl
@[simp] theorem State.byte_setSelBlob (rq : Nat) (o : ObjDef) (bs : List Byte) (y : Nat) : (s.setSelBlob rq o bs).byte y = s.byte y := rfl
@[simp] theorem State.peek_setSelBlob (rq : Nat) (o : ObjDef) (bs : List Byte) (y z : Nat) : (s.setSelBlob rq o bs).peek y z = s.peek y z := rfl
@[simp] theorem State.port_setSelBlob (rq : Nat) (o : ObjDef) (bs : List Byte) (y : Nat) : (s.setSelBlob rq o bs).port y = s.port y := rfl
@[simp] theorem State.ctx_setSelBlob (rq : Nat) (o : ObjDef) (bs : List Byte) (y z : Nat) : (s.setSelBlob rq o bs).ctx y z = s.ctx y z := rfl
@[simp] theorem State.op_setSelBlob (rq : Nat) (o : ObjDef) (bs : List Byte) (y : Nat) : (s.setSelBlob rq o bs).op? y = s.op? y := rfl
@[simp] theorem State.thr_setSelBlob (rq : Nat) (o : ObjDef) (bs : List Byte) (y : Nat) : (s.setSelBlob rq o bs).thr y = s.thr y := rfl
@[simp] theorem State.sem_setSelBlob (rq : Nat) (o : ObjDef) (bs : List Byte) (y : Nat) : (s.setSelBlob rq o bs).sem y = s.sem y := rfl
@[simp] theorem State.ring_setSelBlob (rq : Nat) (o : ObjDef) (bs : List Byte) (y : Nat) : (s.setSelBlob rq o bs).ring y = s.ring y := rfl
@[simp] theorem State.sub_setSelBlob (rq : Nat) (o : ObjDef) (bs : List Byte) (y : Nat) : (s.setSelBlob rq o bs).sub y = s.sub y := rfl
@[simp] theorem State.table_setSelBlob (rq : Nat) (o : ObjDef) (bs : List Byte) (y : Nat) : (s.setSelBlob rq o bs).table y = s.table y := rfl
@[simp] theorem State.vslot_setSelBlob (rq : Nat) (o : ObjDef) (bs : List Byte) (w y z : Nat) : (s.setSelBlob rq o bs).vslot w y z = s.vslot w y z := rfl
@[simp] theorem State.mask_setSelBlob (rq : Nat) (o : ObjDef) (bs : List Byte) (y z : Nat) : (s.setSelBlob rq o bs).mask y z = s.mask y z := rfl
@[simp] theorem State.qp_setSelBlob (rq : Nat) (o : ObjDef) (bs : List Byte) (y : Nat) : (s.setSelBlob rq o bs).qp y = s.qp y := rfl
@[simp] theorem State.mr_setSelBlob (rq : Nat) (o : ObjDef) (bs : List Byte) (y : Nat) : (s.setSelBlob rq o bs).mr y = s.mr y := rfl
@[simp] theorem State.session_setSelBlob (rq : Nat) (o : ObjDef) (bs : List Byte) (y : Nat) : (s.setSelBlob rq o bs).session y = s.session y := rfl
@[simp] theorem State.eth_setSelBlob (rq : Nat) (o : ObjDef) (bs : List Byte) (y : Nat) : (s.setSelBlob rq o bs).eth y = s.eth y := rfl
@[simp] theorem State.getO_setQp (n : Nat) (q : Qp) (w : ObjDef) (y z : Nat) : (s.setQp n q).getO w y z = s.getO w y z := rfl
@[simp] theorem State.byte_setQp (n : Nat) (q : Qp) (y : Nat) : (s.setQp n q).byte y = s.byte y := rfl
@[simp] theorem State.peek_setQp (n : Nat) (q : Qp) (y z : Nat) : (s.setQp n q).peek y z = s.peek y z := rfl
@[simp] theorem State.port_setQp (n : Nat) (q : Qp) (y : Nat) : (s.setQp n q).port y = s.port y := rfl
@[simp] theorem State.ctx_setQp (n : Nat) (q : Qp) (y z : Nat) : (s.setQp n q).ctx y z = s.ctx y z := rfl
@[simp] theorem State.op_setQp (n : Nat) (q : Qp) (y : Nat) : (s.setQp n q).op? y = s.op? y := rfl
@[simp] theorem State.thr_setQp (n : Nat) (q : Qp) (y : Nat) : (s.setQp n q).thr y = s.thr y := rfl
@[simp] theorem State.sem_setQp (n : Nat) (q : Qp) (y : Nat) : (s.setQp n q).sem y = s.sem y := rfl
@[simp] theorem State.ring_setQp (n : Nat) (q : Qp) (y : Nat) : (s.setQp n q).ring y = s.ring y := rfl
@[simp] theorem State.sub_setQp (n : Nat) (q : Qp) (y : Nat) : (s.setQp n q).sub y = s.sub y := rfl
@[simp] theorem State.table_setQp (n : Nat) (q : Qp) (y : Nat) : (s.setQp n q).table y = s.table y := rfl
@[simp] theorem State.vslot_setQp (n : Nat) (q : Qp) (w y z : Nat) : (s.setQp n q).vslot w y z = s.vslot w y z := rfl
@[simp] theorem State.mask_setQp (n : Nat) (q : Qp) (y z : Nat) : (s.setQp n q).mask y z = s.mask y z := rfl
@[simp] theorem State.mr_setQp (n : Nat) (q : Qp) (y : Nat) : (s.setQp n q).mr y = s.mr y := rfl
@[simp] theorem State.session_setQp (n : Nat) (q : Qp) (y : Nat) : (s.setQp n q).session y = s.session y := rfl
@[simp] theorem State.eth_setQp (n : Nat) (q : Qp) (y : Nat) : (s.setQp n q).eth y = s.eth y := rfl
@[simp] theorem State.getO_setMr (n : Nat) (q : Mr) (w : ObjDef) (y z : Nat) : (s.setMr n q).getO w y z = s.getO w y z := rfl
@[simp] theorem State.byte_setMr (n : Nat) (q : Mr) (y : Nat) : (s.setMr n q).byte y = s.byte y := rfl
@[simp] theorem State.peek_setMr (n : Nat) (q : Mr) (y z : Nat) : (s.setMr n q).peek y z = s.peek y z := rfl
@[simp] theorem State.port_setMr (n : Nat) (q : Mr) (y : Nat) : (s.setMr n q).port y = s.port y := rfl
@[simp] theorem State.ctx_setMr (n : Nat) (q : Mr) (y z : Nat) : (s.setMr n q).ctx y z = s.ctx y z := rfl
@[simp] theorem State.op_setMr (n : Nat) (q : Mr) (y : Nat) : (s.setMr n q).op? y = s.op? y := rfl
@[simp] theorem State.thr_setMr (n : Nat) (q : Mr) (y : Nat) : (s.setMr n q).thr y = s.thr y := rfl
@[simp] theorem State.sem_setMr (n : Nat) (q : Mr) (y : Nat) : (s.setMr n q).sem y = s.sem y := rfl
@[simp] theorem State.ring_setMr (n : Nat) (q : Mr) (y : Nat) : (s.setMr n q).ring y = s.ring y := rfl
@[simp] theorem State.sub_setMr (n : Nat) (q : Mr) (y : Nat) : (s.setMr n q).sub y = s.sub y := rfl
@[simp] theorem State.table_setMr (n : Nat) (q : Mr) (y : Nat) : (s.setMr n q).table y = s.table y := rfl
@[simp] theorem State.vslot_setMr (n : Nat) (q : Mr) (w y z : Nat) : (s.setMr n q).vslot w y z = s.vslot w y z := rfl
@[simp] theorem State.mask_setMr (n : Nat) (q : Mr) (y z : Nat) : (s.setMr n q).mask y z = s.mask y z := rfl
@[simp] theorem State.qp_setMr (n : Nat) (q : Mr) (y : Nat) : (s.setMr n q).qp y = s.qp y := rfl
@[simp] theorem State.session_setMr (n : Nat) (q : Mr) (y : Nat) : (s.setMr n q).session y = s.session y := rfl
@[simp] theorem State.eth_setMr (n : Nat) (q : Mr) (y : Nat) : (s.setMr n q).eth y = s.eth y := rfl
@[simp] theorem State.getO_setSession (n : Nat) (x : Session) (w : ObjDef) (y z : Nat) : (s.setSession n x).getO w y z = s.getO w y z := rfl
@[simp] theorem State.byte_setSession (n : Nat) (x : Session) (y : Nat) : (s.setSession n x).byte y = s.byte y := rfl
@[simp] theorem State.peek_setSession (n : Nat) (x : Session) (y z : Nat) : (s.setSession n x).peek y z = s.peek y z := rfl
@[simp] theorem State.port_setSession (n : Nat) (x : Session) (y : Nat) : (s.setSession n x).port y = s.port y := rfl
@[simp] theorem State.ctx_setSession (n : Nat) (x : Session) (y z : Nat) : (s.setSession n x).ctx y z = s.ctx y z := rfl
@[simp] theorem State.op_setSession (n : Nat) (x : Session) (y : Nat) : (s.setSession n x).op? y = s.op? y := rfl
@[simp] theorem State.thr_setSession (n : Nat) (x : Session) (y : Nat) : (s.setSession n x).thr y = s.thr y := rfl
@[simp] theorem State.sem_setSession (n : Nat) (x : Session) (y : Nat) : (s.setSession n x).sem y = s.sem y := rfl
@[simp] theorem State.ring_setSession (n : Nat) (x : Session) (y : Nat) : (s.setSession n x).ring y = s.ring y := rfl
@[simp] theorem State.sub_setSession (n : Nat) (x : Session) (y : Nat) : (s.setSession n x).sub y = s.sub y := rfl
@[simp] theorem State.table_setSession (n : Nat) (x : Session) (y : Nat) : (s.setSession n x).table y = s.table y := rfl
@[simp] theorem State.vslot_setSession (n : Nat) (x : Session) (w y z : Nat) : (s.setSession n x).vslot w y z = s.vslot w y z := rfl
@[simp] theorem State.mask_setSession (n : Nat) (x : Session) (y z : Nat) : (s.setSession n x).mask y z = s.mask y z := rfl
@[simp] theorem State.qp_setSession (n : Nat) (x : Session) (y : Nat) : (s.setSession n x).qp y = s.qp y := rfl
@[simp] theorem State.mr_setSession (n : Nat) (x : Session) (y : Nat) : (s.setSession n x).mr y = s.mr y := rfl
@[simp] theorem State.eth_setSession (n : Nat) (x : Session) (y : Nat) : (s.setSession n x).eth y = s.eth y := rfl
@[simp] theorem State.getO_setEth (p : Nat) (x : EthPort) (w : ObjDef) (y z : Nat) : (s.setEth p x).getO w y z = s.getO w y z := rfl
@[simp] theorem State.byte_setEth (p : Nat) (x : EthPort) (y : Nat) : (s.setEth p x).byte y = s.byte y := rfl
@[simp] theorem State.peek_setEth (p : Nat) (x : EthPort) (y z : Nat) : (s.setEth p x).peek y z = s.peek y z := rfl
@[simp] theorem State.port_setEth (p : Nat) (x : EthPort) (y : Nat) : (s.setEth p x).port y = s.port y := rfl
@[simp] theorem State.ctx_setEth (p : Nat) (x : EthPort) (y z : Nat) : (s.setEth p x).ctx y z = s.ctx y z := rfl
@[simp] theorem State.op_setEth (p : Nat) (x : EthPort) (y : Nat) : (s.setEth p x).op? y = s.op? y := rfl
@[simp] theorem State.thr_setEth (p : Nat) (x : EthPort) (y : Nat) : (s.setEth p x).thr y = s.thr y := rfl
@[simp] theorem State.sem_setEth (p : Nat) (x : EthPort) (y : Nat) : (s.setEth p x).sem y = s.sem y := rfl
@[simp] theorem State.ring_setEth (p : Nat) (x : EthPort) (y : Nat) : (s.setEth p x).ring y = s.ring y := rfl
@[simp] theorem State.sub_setEth (p : Nat) (x : EthPort) (y : Nat) : (s.setEth p x).sub y = s.sub y := rfl
@[simp] theorem State.table_setEth (p : Nat) (x : EthPort) (y : Nat) : (s.setEth p x).table y = s.table y := rfl
@[simp] theorem State.vslot_setEth (p : Nat) (x : EthPort) (w y z : Nat) : (s.setEth p x).vslot w y z = s.vslot w y z := rfl
@[simp] theorem State.mask_setEth (p : Nat) (x : EthPort) (y z : Nat) : (s.setEth p x).mask y z = s.mask y z := rfl
@[simp] theorem State.qp_setEth (p : Nat) (x : EthPort) (y : Nat) : (s.setEth p x).qp y = s.qp y := rfl
@[simp] theorem State.mr_setEth (p : Nat) (x : EthPort) (y : Nat) : (s.setEth p x).mr y = s.mr y := rfl
@[simp] theorem State.session_setEth (p : Nat) (x : EthPort) (y : Nat) : (s.setEth p x).session y = s.session y := rfl

/-! ### A reading of the state just written -/

@[simp] theorem State.getO_setO_same (o : ObjDef) (v i j : Nat) : (s.setO o v i j).getO o i j = v := by
  simp [State.getO]
theorem State.getO_setO_ne (o p : ObjDef) (v i j k l : Nat) (h : p.key k l ≠ o.key i j) :
    (s.setO o v i j).getO p k l = s.getO p k l := by
  simp only [State.getO, State.setO_obj]; exact SMap.get_set_ne' _ _ _ _ _ _ h
theorem State.ctxKey_inj {a b c d : Nat} (hb : b < 2048) (hd : d < 2048) : ctxKey a b = ctxKey c d ↔ a = c ∧ b = d := by
  unfold ctxKey; omega
@[simp] theorem State.ctx_setCtx_same (core ctx : Nat) (c : Ctx) : (s.setCtx core ctx c).ctx core ctx = c := by
  simp [State.ctx]
theorem State.ctx_setCtx_ne (core ctx k l : Nat) (c : Ctx) (h : ctxKey k l ≠ ctxKey core ctx) :
    (s.setCtx core ctx c).ctx k l = s.ctx k l := by
  simp only [State.ctx, State.setCtx_ctxs]; exact SMap.get_set_ne _ _ _ _ _ h
@[simp] theorem State.op_setOp_same (id : Nat) (o : Op) : (s.setOp id o).op? id = some o := by
  simp only [State.op?, State.setOp_ops]; exact SMap.find_put_same _ _ _
theorem State.op_setOp_ne (id k : Nat) (o : Op) (h : k ≠ id) : (s.setOp id o).op? k = s.op? k := by
  simp only [State.op?, State.setOp_ops]; exact SMap.find_put_ne _ _ _ _ h
@[simp] theorem State.op_dropOp_same (id : Nat) : (s.dropOp id).op? id = none := by
  simp only [State.op?, State.dropOp_ops]; exact SMap.find_erase_same _ _
theorem State.op_dropOp_ne (id k : Nat) (h : k ≠ id) : (s.dropOp id).op? k = s.op? k := by
  simp only [State.op?, State.dropOp_ops]; exact SMap.find_erase_ne _ _ _ h

@[simp] theorem State.port_setPort_same (n : Nat) (x : Port) : (s.setPort n x).port n = x := by simp [State.port]
theorem State.port_setPort_ne (n k : Nat) (x : Port) (h : k ≠ n) : (s.setPort n x).port k = s.port k := by
  simp only [State.port, State.setPort_ports]; exact SMap.get_set_ne _ _ _ _ _ h
@[simp] theorem State.thr_setThr_same (n : Nat) (x : Thr) : (s.setThr n x).thr n = x := by simp [State.thr]
theorem State.thr_setThr_ne (n k : Nat) (x : Thr) (h : k ≠ n) : (s.setThr n x).thr k = s.thr k := by
  simp only [State.thr, State.setThr_thrs]; exact SMap.get_set_ne _ _ _ _ _ h
@[simp] theorem State.sem_setSem_same (n : Nat) (x : Sem) : (s.setSem n x).sem n = x := by simp [State.sem]
theorem State.sem_setSem_ne (n k : Nat) (x : Sem) (h : k ≠ n) : (s.setSem n x).sem k = s.sem k := by
  simp only [State.sem, State.setSem_sems]; exact SMap.get_set_ne _ _ _ _ _ h
@[simp] theorem State.ring_setRing_same (n : Nat) (x : Ring) : (s.setRing n x).ring n = x := by simp [State.ring]
theorem State.ring_setRing_ne (n k : Nat) (x : Ring) (h : k ≠ n) : (s.setRing n x).ring k = s.ring k := by
  simp only [State.ring, State.setRing_rings]; exact SMap.get_set_ne _ _ _ _ _ h
@[simp] theorem State.sub_setSub_same (n : Nat) (x : Subch) : (s.setSub n x).sub n = x := by simp [State.sub]
theorem State.sub_setSub_ne (n k : Nat) (x : Subch) (h : k ≠ n) : (s.setSub n x).sub k = s.sub k := by
  simp only [State.sub, State.setSub_subch]; exact SMap.get_set_ne _ _ _ _ _ h
@[simp] theorem State.table_setTable_same (n : Nat) (x : Table) : (s.setTable n x).table n = x := by simp [State.table]
theorem State.table_setTable_ne (n k : Nat) (x : Table) (h : k ≠ n) : (s.setTable n x).table k = s.table k := by
  simp only [State.table, State.setTable_tables]; exact SMap.get_set_ne _ _ _ _ _ h
@[simp] theorem State.qp_setQp_same (n : Nat) (x : Qp) : (s.setQp n x).qp n = x := by simp [State.qp]
theorem State.qp_setQp_ne (n k : Nat) (x : Qp) (h : k ≠ n) : (s.setQp n x).qp k = s.qp k := by
  simp only [State.qp, State.setQp_qps]; exact SMap.get_set_ne _ _ _ _ _ h
@[simp] theorem State.mr_setMr_same (n : Nat) (x : Mr) : (s.setMr n x).mr n = x := by simp [State.mr]
theorem State.mr_setMr_ne (n k : Nat) (x : Mr) (h : k ≠ n) : (s.setMr n x).mr k = s.mr k := by
  simp only [State.mr, State.setMr_mrs]; exact SMap.get_set_ne _ _ _ _ _ h
@[simp] theorem State.session_setSession_same (n : Nat) (x : Session) : (s.setSession n x).session n = x := by simp [State.session]
theorem State.session_setSession_ne (n k : Nat) (x : Session) (h : k ≠ n) : (s.setSession n x).session k = s.session k := by
  simp only [State.session, State.setSession_sessions]; exact SMap.get_set_ne _ _ _ _ _ h
@[simp] theorem State.eth_setEth_same (n : Nat) (x : EthPort) : (s.setEth n x).eth n = x := by simp [State.eth]
theorem State.eth_setEth_ne (n k : Nat) (x : EthPort) (h : k ≠ n) : (s.setEth n x).eth k = s.eth k := by
  simp only [State.eth, State.setEth_eths]; exact SMap.get_set_ne _ _ _ _ _ h
@[simp] theorem State.byte_setByte_same (a : Nat) (b : Byte) : (s.setByte a b).byte a = b := by simp [State.byte]
theorem State.byte_setByte_ne (a x : Nat) (b : Byte) (h : x ≠ a) : (s.setByte a b).byte x = s.byte x := by
  simp only [State.byte, State.setByte_mem]; exact SMap.get_set_ne _ _ _ _ _ h
theorem State.vKey_inj {c r l c' r' l' : Nat} (hl : l < 8192) (hl' : l' < 8192) :
    vKey c r l = vKey c' r' l' ↔ c = c' ∧ r % 16 = r' % 16 ∧ l = l' := by
  unfold vKey; omega
@[simp] theorem State.vslot_setVslot_same (core r slot v : Nat) :
    (s.setVslot core r slot v).vslot core r slot = v % 2 ^ 32 := by
  simp only [State.vslot, State.setVslot_vreg, SMap.get_set_same]
theorem State.vslot_setVslot_ne (core r slot v k l m : Nat) (h : vKey k l m ≠ vKey core r slot) :
    (s.setVslot core r slot v).vslot k l m = s.vslot k l m := by
  simp only [State.vslot, State.setVslot_vreg]; exact SMap.get_set_ne _ _ _ _ _ h
@[simp] theorem State.mask_setMask_same (core k v : Nat) : (s.setMask core k v).mask core k = v := by
  simp only [State.mask, State.setMask_mreg, SMap.get_set_same]
theorem State.mask_setMask_ne (core k v c l : Nat) (h : c * 8 + l % 8 ≠ core * 8 + k % 8) :
    (s.setMask core k v).mask c l = s.mask c l := by
  simp only [State.mask, State.setMask_mreg]; exact SMap.get_set_ne _ _ _ _ _ h

end

end Sys2Proof.Machine
end

