-- ==== Sys2Proof/Laws/Exec.lean ====
section
/-! SUPPORT. What exec is of each command: the one meaning it calls. -/
namespace Sys2Proof.Machine

section
variable (u : State)

@[simp] theorem exec_matmul (op : Nat) : exec (.matmul op) u = execMatmul op u := rfl
@[simp] theorem exec_matmulPartial (op : Nat) : exec (.matmulPartial op) u = execMatmulPartial op u := rfl
@[simp] theorem exec_partialSum (op : Nat) : exec (.partialSum op) u = execPartialSum op u := rfl
@[simp] theorem exec_permute (op : Nat) : exec (.permute op) u = execPermute op u := rfl
@[simp] theorem exec_convert (op : Nat) : exec (.convert op) u = execConvert op u := rfl
@[simp] theorem exec_runKernel (op : Nat) : exec (.runKernel op) u = execRunKernel op u := rfl
@[simp] theorem exec_conv (op : Nat) : exec (.conv op) u = execConv op u := rfl
@[simp] theorem exec_pool (op : Nat) : exec (.pool op) u = execPool op u := rfl
@[simp] theorem exec_attn (op : Nat) : exec (.attn op) u = execAttn op u := rfl
@[simp] theorem exec_attnPartial (op : Nat) : exec (.attnPartial op) u = execAttnPartial op u := rfl
@[simp] theorem exec_attnMerge (op : Nat) : exec (.attnMerge op) u = execAttnMerge op u := rfl
@[simp] theorem exec_cribAppend (op : Nat) : exec (.cribAppend op) u = execCribAppend op u := rfl
@[simp] theorem exec_cribShare (op : Nat) : exec (.cribShare op) u = execCribShare op u := rfl
@[simp] theorem exec_cribFree (op : Nat) : exec (.cribFree op) u = execCribFree op u := rfl
@[simp] theorem exec_cribReclaim : exec (.cribReclaim) u = execCribReclaim u := rfl
@[simp] theorem exec_copy (op : Nat) (flit noise : Nat) : exec (.copy op flit noise) u = execCopy op flit noise u := rfl
@[simp] theorem exec_fill (op : Nat) : exec (.fill op) u = execFill op u := rfl
@[simp] theorem exec_groupStep (op : Nat) : exec (.groupStep op) u = execGroupStep op u := rfl
@[simp] theorem exec_groupStepLocal (op : Nat) : exec (.groupStepLocal op) u = execGroupStepLocal op u := rfl
@[simp] theorem exec_updateElementApply (op e : Nat) : exec (.updateElementApply op e) u = execUpdateElementApply op e u := rfl
@[simp] theorem exec_baleReduce (op : Nat) : exec (.baleReduce op) u = execBaleReduce op u := rfl
@[simp] theorem exec_baleStart (op : Nat) (flip : Upset) : exec (.baleStart op flip) u = execBaleStart op flip u := rfl
@[simp] theorem exec_reductionPacketReceive (port : Nat) (p : RedPacket) (flip : Upset) : exec (.reductionPacketReceive port p flip) u = execReductionPacketReceive port p flip u := rfl
@[simp] theorem exec_threshRun (op : Nat) : exec (.threshRun op) u = execThreshRun op u := rfl
@[simp] theorem exec_mergeLoad (op : Nat) : exec (.mergeLoad op) u = execMergeLoad op u := rfl
@[simp] theorem exec_sampleDescriptorTake (die : Nat) : exec (.sampleDescriptorTake die) u = execSampleDescriptorTake die u := rfl
@[simp] theorem exec_sampleDecodeComplete (die k : Nat) : exec (.sampleDecodeComplete die k) u = execSampleDecodeComplete die k u := rfl
@[simp] theorem exec_slotEmit (die : Nat) : exec (.slotEmit die) u = execSlotEmit die u := rfl
@[simp] theorem exec_opWaitGrant (op : Nat) : exec (.opWaitGrant op) u = execOpWaitGrant op u := rfl
@[simp] theorem exec_opLeaveGrant : exec (.opLeaveGrant) u = execOpLeaveGrant u := rfl
@[simp] theorem exec_operationComplete (op : Nat) : exec (.operationComplete op) u = execOperationComplete op u := rfl
@[simp] theorem exec_opAbandoned (op : Nat) : exec (.opAbandoned op) u = execOpAbandoned op u := rfl
@[simp] theorem exec_add (core ctx : Nat) (i : InsA) : exec (.add core ctx i) u = execAdd core ctx i u := rfl
@[simp] theorem exec_sub (core ctx : Nat) (i : InsA) : exec (.sub core ctx i) u = execSub core ctx i u := rfl
@[simp] theorem exec_mul (core ctx : Nat) (i : InsA) : exec (.mul core ctx i) u = execMul core ctx i u := rfl
@[simp] theorem exec_divu (core ctx : Nat) (i : InsA) : exec (.divu core ctx i) u = execDivu core ctx i u := rfl
@[simp] theorem exec_and (core ctx : Nat) (i : InsA) : exec (.and core ctx i) u = execAnd core ctx i u := rfl
@[simp] theorem exec_or (core ctx : Nat) (i : InsA) : exec (.or core ctx i) u = execOr core ctx i u := rfl
@[simp] theorem exec_xor (core ctx : Nat) (i : InsA) : exec (.xor core ctx i) u = execXor core ctx i u := rfl
@[simp] theorem exec_shl (core ctx : Nat) (i : InsA) : exec (.shl core ctx i) u = execShl core ctx i u := rfl
@[simp] theorem exec_shr (core ctx : Nat) (i : InsA) : exec (.shr core ctx i) u = execShr core ctx i u := rfl
@[simp] theorem exec_sar (core ctx : Nat) (i : InsA) : exec (.sar core ctx i) u = execSar core ctx i u := rfl
@[simp] theorem exec_slt (core ctx : Nat) (i : InsA) : exec (.slt core ctx i) u = execSlt core ctx i u := rfl
@[simp] theorem exec_sltu (core ctx : Nat) (i : InsA) : exec (.sltu core ctx i) u = execSltu core ctx i u := rfl
@[simp] theorem exec_addi (core ctx : Nat) (i : InsI) : exec (.addi core ctx i) u = execAddi core ctx i u := rfl
@[simp] theorem exec_insi (core ctx : Nat) (i : InsI) : exec (.insi core ctx i) u = execInsi core ctx i u := rfl
@[simp] theorem exec_fadd (core ctx : Nat) (i : InsA) : exec (.fadd core ctx i) u = execFadd core ctx i u := rfl
@[simp] theorem exec_fmul (core ctx : Nat) (i : InsA) : exec (.fmul core ctx i) u = execFmul core ctx i u := rfl
@[simp] theorem exec_ffma (core ctx : Nat) (i : InsA) : exec (.ffma core ctx i) u = execFfma core ctx i u := rfl
@[simp] theorem exec_fcmp (core ctx : Nat) (i : InsA) : exec (.fcmp core ctx i) u = execFcmp core ctx i u := rfl
@[simp] theorem exec_fcvt (core ctx : Nat) (i : InsA) : exec (.fcvt core ctx i) u = execFcvt core ctx i u := rfl
@[simp] theorem exec_ld8 (core ctx : Nat) (i : InsI) (noise : Nat) : exec (.ld8 core ctx i noise) u = execLd8 core ctx i noise u := rfl
@[simp] theorem exec_ld16 (core ctx : Nat) (i : InsI) (noise : Nat) : exec (.ld16 core ctx i noise) u = execLd16 core ctx i noise u := rfl
@[simp] theorem exec_ld32 (core ctx : Nat) (i : InsI) (noise : Nat) : exec (.ld32 core ctx i noise) u = execLd32 core ctx i noise u := rfl
@[simp] theorem exec_ld64 (core ctx : Nat) (i : InsI) (noise : Nat) : exec (.ld64 core ctx i noise) u = execLd64 core ctx i noise u := rfl
@[simp] theorem exec_st8 (core ctx : Nat) (i : InsI) : exec (.st8 core ctx i) u = execSt8 core ctx i u := rfl
@[simp] theorem exec_st16 (core ctx : Nat) (i : InsI) : exec (.st16 core ctx i) u = execSt16 core ctx i u := rfl
@[simp] theorem exec_st32 (core ctx : Nat) (i : InsI) : exec (.st32 core ctx i) u = execSt32 core ctx i u := rfl
@[simp] theorem exec_st64 (core ctx : Nat) (i : InsI) : exec (.st64 core ctx i) u = execSt64 core ctx i u := rfl
@[simp] theorem exec_beq (core ctx : Nat) (i : InsI) : exec (.beq core ctx i) u = execBeq core ctx i u := rfl
@[simp] theorem exec_bne (core ctx : Nat) (i : InsI) : exec (.bne core ctx i) u = execBne core ctx i u := rfl
@[simp] theorem exec_blt (core ctx : Nat) (i : InsI) : exec (.blt core ctx i) u = execBlt core ctx i u := rfl
@[simp] theorem exec_bge (core ctx : Nat) (i : InsI) : exec (.bge core ctx i) u = execBge core ctx i u := rfl
@[simp] theorem exec_jal (core ctx : Nat) (i : InsI) : exec (.jal core ctx i) u = execJal core ctx i u := rfl
@[simp] theorem exec_jr (core ctx : Nat) (i : InsI) : exec (.jr core ctx i) u = execJr core ctx i u := rfl
@[simp] theorem exec_semSignal (core ctx : Nat) (i : InsA) : exec (.semSignal core ctx i) u = execSemSignal core ctx i u := rfl
@[simp] theorem exec_semWait (core ctx : Nat) (i : InsA) : exec (.semWait core ctx i) u = execSemWait core ctx i u := rfl
@[simp] theorem exec_semTry (core ctx : Nat) (i : InsA) : exec (.semTry core ctx i) u = execSemTry core ctx i u := rfl
@[simp] theorem exec_semLock (core ctx : Nat) (i : InsA) : exec (.semLock core ctx i) u = execSemLock core ctx i u := rfl
@[simp] theorem exec_semUnlock (core ctx : Nat) (i : InsA) : exec (.semUnlock core ctx i) u = execSemUnlock core ctx i u := rfl
@[simp] theorem exec_semWaitReissue (n : Nat) : exec (.semWaitReissue n) u = execSemWaitReissue n u := rfl
@[simp] theorem exec_waitb (core ctx : Nat) (i : InsA) : exec (.waitb core ctx i) u = execWaitb core ctx i u := rfl
@[simp] theorem exec_waitbResume (core ctx : Nat) : exec (.waitbResume core ctx) u = execWaitbResume core ctx u := rfl
@[simp] theorem exec_fence (core ctx : Nat) (i : InsA) : exec (.fence core ctx i) u = execFence core ctx i u := rfl
@[simp] theorem exec_dma (core ctx : Nat) (i : InsA) : exec (.dma core ctx i) u = execDma core ctx i u := rfl
@[simp] theorem exec_spawn (core ctx : Nat) (i : InsA) : exec (.spawn core ctx i) u = execSpawn core ctx i u := rfl
@[simp] theorem exec_halt (core ctx : Nat) (i : InsA) : exec (.halt core ctx i) u = execHalt core ctx i u := rfl
@[simp] theorem exec_rdst (core ctx : Nat) (i : InsA) : exec (.rdst core ctx i) u = execRdst core ctx i u := rfl
@[simp] theorem exec_setrc (core ctx : Nat) (i : InsA) : exec (.setrc core ctx i) u = execSetrc core ctx i u := rfl
@[simp] theorem exec_setvl (core ctx : Nat) (i : InsA) : exec (.setvl core ctx i) u = execSetvl core ctx i u := rfl
@[simp] theorem exec_varith (core ctx : Nat) (i : InsV) : exec (.varith core ctx i) u = execVarith core ctx i u := rfl
@[simp] theorem exec_vsfn (core ctx : Nat) (i : InsV) : exec (.vsfn core ctx i) u = execVsfn core ctx i u := rfl
@[simp] theorem exec_vcmp (core ctx : Nat) (i : InsV) : exec (.vcmp core ctx i) u = execVcmp core ctx i u := rfl
@[simp] theorem exec_vsel (core ctx : Nat) (i : InsV) : exec (.vsel core ctx i) u = execVsel core ctx i u := rfl
@[simp] theorem exec_vld (core ctx : Nat) (i : InsV) : exec (.vld core ctx i) u = execVld core ctx i u := rfl
@[simp] theorem exec_vst (core ctx : Nat) (i : InsV) : exec (.vst core ctx i) u = execVst core ctx i u := rfl
@[simp] theorem exec_vgather (core ctx : Nat) (i : InsV) : exec (.vgather core ctx i) u = execVgather core ctx i u := rfl
@[simp] theorem exec_vscatter (core ctx : Nat) (i : InsV) : exec (.vscatter core ctx i) u = execVscatter core ctx i u := rfl
@[simp] theorem exec_vred (core ctx : Nat) (i : InsV) : exec (.vred core ctx i) u = execVred core ctx i u := rfl
@[simp] theorem exec_mop (core ctx : Nat) (i : InsV) : exec (.mop core ctx i) u = execMop core ctx i u := rfl
@[simp] theorem exec_producerDoorbell (ring value : Nat) : exec (.producerDoorbell ring value) u = execProducerDoorbell ring value u := rfl
@[simp] theorem exec_consumerDoorbell (ring value : Nat) : exec (.consumerDoorbell ring value) u = execConsumerDoorbell ring value u := rfl
@[simp] theorem exec_commandDescriptorTake (ring : Nat) : exec (.commandDescriptorTake ring) u = execCommandDescriptorTake ring u := rfl
@[simp] theorem exec_queueCfgWrite (src : Src) (member value : Nat) : exec (.queueCfgWrite src member value) u = execQueueCfgWrite src member value u := rfl
@[simp] theorem exec_hostSemSignal (src : Src) : exec (.hostSemSignal src) u = execHostSemSignal src u := rfl
@[simp] theorem exec_hostSemTry (src : Src) : exec (.hostSemTry src) u = execHostSemTry src u := rfl
@[simp] theorem exec_hostSemLock (src : Src) : exec (.hostSemLock src) u = execHostSemLock src u := rfl
@[simp] theorem exec_hostSemUnlock (src : Src) : exec (.hostSemUnlock src) u = execHostSemUnlock src u := rfl
@[simp] theorem exec_semActSet (src : Src) : exec (.semActSet src) u = execSemActSet src u := rfl
@[simp] theorem exec_semRecoveryClear (src : Src) : exec (.semRecoveryClear src) u = execSemRecoveryClear src u := rfl
@[simp] theorem exec_furrowStart (table epoch entry : Nat) : exec (.furrowStart table epoch entry) u = execFurrowStart table epoch entry u := rfl
@[simp] theorem exec_furrowSignal (table epoch entry : Nat) : exec (.furrowSignal table epoch entry) u = execFurrowSignal table epoch entry u := rfl
@[simp] theorem exec_furrowMark (table epoch entry : Nat) : exec (.furrowMark table epoch entry) u = execFurrowMark table epoch entry u := rfl
@[simp] theorem exec_portSlot (table epoch entry : Nat) : exec (.portSlot table epoch entry) u = execPortSlot table epoch entry u := rfl
@[simp] theorem exec_watchPoint (table epoch entry : Nat) : exec (.watchPoint table epoch entry) u = execWatchPoint table epoch entry u := rfl
@[simp] theorem exec_reservationPoint (table epoch entry : Nat) : exec (.reservationPoint table epoch entry) u = execReservationPoint table epoch entry u := rfl
@[simp] theorem exec_reservationRetry : exec (.reservationRetry) u = execReservationRetry u := rfl
@[simp] theorem exec_overrun (table epoch entry : Nat) : exec (.overrun table epoch entry) u = execOverrun table epoch entry u := rfl
@[simp] theorem exec_furrowLoad (src : Src) : exec (.furrowLoad src) u = execFurrowLoad src u := rfl
@[simp] theorem exec_furrowLoadComplete : exec (.furrowLoadComplete) u = execFurrowLoadComplete u := rfl
@[simp] theorem exec_furrowSwapCancel (src : Src) : exec (.furrowSwapCancel src) u = execFurrowSwapCancel src u := rfl
@[simp] theorem exec_bankSwap (table : Nat) : exec (.bankSwap table) u = execBankSwap table u := rfl
@[simp] theorem exec_almanacTick : exec .almanacTick u = execAlmanacTick u := rfl
@[simp] theorem exec_beaconSend : exec (.beaconSend) u = execBeaconSend u := rfl
@[simp] theorem exec_beaconReceive (port : Nat) (b : Beacon) (rxPs lmaxNs : Nat) : exec (.beaconReceive port b rxPs lmaxNs) u = execBeaconReceive port b rxPs lmaxNs u := rfl
@[simp] theorem exec_almanacLost : exec (.almanacLost) u = execAlmanacLost u := rfl
@[simp] theorem exec_lockHopsReport (origin hf hi : Nat) : exec (.lockHopsReport origin hf hi) u = execLockHopsReport origin hf hi u := rfl
@[simp] theorem exec_hold (port : Nat) (m : Ctl) : exec (.hold port m) u = execHold port m u := rfl
@[simp] theorem exec_release (port : Nat) (m : Ctl) : exec (.release port m) u = execRelease port m u := rfl
@[simp] theorem exec_resume (port : Nat) (m : Ctl) : exec (.resume port m) u = execResume port m u := rfl
@[simp] theorem exec_masterResume : exec (.masterResume) u = execMasterResume u := rfl
@[simp] theorem exec_holdLimit : exec (.holdLimit) u = execHoldLimit u := rfl
@[simp] theorem exec_schedStart (src : Src) (e0 : Nat) : exec (.schedStart src e0) u = execSchedStart src e0 u := rfl
@[simp] theorem exec_start (port : Nat) (m : Ctl) : exec (.start port m) u = execStart port m u := rfl
@[simp] theorem exec_startTick : exec (.startTick) u = execStartTick u := rfl
@[simp] theorem exec_schedStop (src : Src) : exec (.schedStop src) u = execSchedStop src u := rfl
@[simp] theorem exec_stopRequest (port : Nat) (m : Ctl) : exec (.stopRequest port m) u = execStopRequest port m u := rfl
@[simp] theorem exec_stop (port : Nat) (m : Ctl) : exec (.stop port m) u = execStop port m u := rfl
@[simp] theorem exec_stopComplete : exec (.stopComplete) u = execStopComplete u := rfl
@[simp] theorem exec_epochBoundary (sec ns : Nat) : exec (.epochBoundary sec ns) u = execEpochBoundary sec ns u := rfl
@[simp] theorem exec_stepBoundary : exec (.stepBoundary) u = execStepBoundary u := rfl
@[simp] theorem exec_censusRecordReceive (src level : Nat) (r : CensusRec) : exec (.censusRecordReceive src level r) u = execCensusRecordReceive src level r u := rfl
@[simp] theorem exec_ptpEventMessage (port : Nat) (f : EthFrame) (t : PtpTimes) (ppb : Int) : exec (.ptpEventMessage port f t ppb) u = execPtpEventMessage port f t ppb u := rfl
@[simp] theorem exec_ptpSourceLost : exec (.ptpSourceLost) u = execPtpSourceLost u := rfl
@[simp] theorem exec_linkFrameReceive (port : Nat) (lanes : List Nat) : exec (.linkFrameReceive port lanes) u = execLinkFrameReceive port lanes u := rfl
@[simp] theorem exec_linkFrameTransmit (f : FrameTime) : exec (.linkFrameTransmit f) u = execLinkFrameTransmit f u := rfl
@[simp] theorem exec_sendDataReceive (port src dst dsem : Nat) (en : Bool) (bytes : List Byte) (bad : List Nat) : exec (.sendDataReceive port src dst dsem en bytes bad) u = execSendDataReceive port src dst dsem en bytes bad u := rfl
@[simp] theorem exec_portFecLock (port : Nat) : exec (.portFecLock port) u = execPortFecLock port u := rfl
@[simp] theorem exec_portCheck (port : Nat) (partner : Nat) (beatNs : Nat) (exts : Nat) (lenDm rttNs : Nat) : exec (.portCheck port partner beatNs exts lenDm rttNs) u = execPortCheck port partner beatNs exts lenDm rttNs u := rfl
@[simp] theorem exec_portTrainTimeout (port : Nat) : exec (.portTrainTimeout port) u = execPortTrainTimeout port u := rfl
@[simp] theorem exec_portFecLoss (port : Nat) : exec (.portFecLoss port) u = execPortFecLoss port u := rfl
@[simp] theorem exec_portFecRateWindow (port : Nat) : exec (.portFecRateWindow port) u = execPortFecRateWindow port u := rfl
@[simp] theorem exec_laserLow (port : Nat) (uw : Nat) : exec (.laserLow port uw) u = execLaserLow port uw u := rfl
@[simp] theorem exec_portRetrain (src : Src) (port : Nat) : exec (.portRetrain src port) u = execPortRetrain src port u := rfl
@[simp] theorem exec_ethFrameReceive (port : Nat) (f : EthFrame) : exec (.ethFrameReceive port f) u = execEthFrameReceive port f u := rfl
@[simp] theorem exec_arpRequest (port : Nat) (f : EthFrame) (target : Nat) (senderIp : Nat) : exec (.arpRequest port f target senderIp) u = execArpRequest port f target senderIp u := rfl
@[simp] theorem exec_neighbourSolicitation (port : Nat) (f : EthFrame) (target : Nat) (senderIp : Nat) : exec (.neighbourSolicitation port f target senderIp) u = execNeighbourSolicitation port f target senderIp u := rfl
@[simp] theorem exec_echoRequest (port : Nat) (f : EthFrame) (target : Nat) (senderIp : Nat) : exec (.echoRequest port f target senderIp) u = execEchoRequest port f target senderIp u := rfl
@[simp] theorem exec_roceSend (p : RocePkt) : exec (.roceSend p) u = execRoceSend p u := rfl
@[simp] theorem exec_rdmaWrite (p : RocePkt) : exec (.rdmaWrite p) u = execRdmaWrite p u := rfl
@[simp] theorem exec_rdmaReadRequest (p : RocePkt) : exec (.rdmaReadRequest p) u = execRdmaReadRequest p u := rfl
@[simp] theorem exec_cnp (p : RocePkt) (us : Nat) : exec (.cnp p us) u = execCnp p us u := rfl
@[simp] theorem exec_roceInvalidOpcode (p : RocePkt) : exec (.roceInvalidOpcode p) u = execRoceInvalidOpcode p u := rfl
@[simp] theorem exec_roceRateIncrease (qp : Nat) : exec (.roceRateIncrease qp) u = execRoceRateIncrease qp u := rfl
@[simp] theorem exec_pfcFrameReceive (port : Nat) (f : EthFrame) (x : PfcPause) : exec (.pfcFrameReceive port f x) u = execPfcFrameReceive port f x u := rfl
@[simp] theorem exec_pfcXoffRepeat (port : Nat) : exec (.pfcXoffRepeat port) u = execPfcXoffRepeat port u := rfl
@[simp] theorem exec_pfcStorm (port prio : Nat) : exec (.pfcStorm port prio) u = execPfcStorm port prio u := rfl
@[simp] theorem exec_ethRestart (src : Src) (port : Nat) : exec (.ethRestart src port) u = execEthRestart src port u := rfl
@[simp] theorem exec_hello (h : YHdr) (body : List Byte) : exec (.hello h body) u = execHello h body u := rfl
@[simp] theorem exec_confirm (h : YHdr) (body : List Byte) : exec (.confirm h body) u = execConfirm h body u := rfl
@[simp] theorem exec_handshakeTimeout (slot : Nat) : exec (.handshakeTimeout slot) u = execHandshakeTimeout slot u := rfl
@[simp] theorem exec_read (src : Src) (idx sub : Nat) : exec (.read src idx sub) u = execRead src idx sub u := rfl
@[simp] theorem exec_write (src : Src) (idx sub t : Nat) (value : List Byte) : exec (.write src idx sub t value) u = execWrite src idx sub t value u := rfl
@[simp] theorem exec_segRead (src : Src) (idx sub offset : Nat) : exec (.segRead src idx sub offset) u = execSegRead src idx sub offset u := rfl
@[simp] theorem exec_segWriteStart (h : YHdr) (idx sub total : Nat) : exec (.segWriteStart h idx sub total) u = execSegWriteStart h idx sub total u := rfl
@[simp] theorem exec_segWriteData (h : YHdr) (offset : Nat) (data : List Byte) : exec (.segWriteData h offset data) u = execSegWriteData h offset data u := rfl
@[simp] theorem exec_segWriteEnd (h : YHdr) (digest : List Byte) : exec (.segWriteEnd h digest) u = execSegWriteEnd h digest u := rfl
@[simp] theorem exec_close (h : YHdr) : exec (.close h) u = execClose h u := rfl
@[simp] theorem exec_ping (h : YHdr) : exec (.ping h) u = execPing h u := rfl
@[simp] theorem exec_sessionExpiry (slot : Nat) : exec (.sessionExpiry slot) u = execSessionExpiry slot u := rfl
@[simp] theorem exec_sessionSelClose (src : Src) : exec (.sessionSelClose src) u = execSessionSelClose src u := rfl
@[simp] theorem exec_ownerLockTake (src : Src) : exec (.ownerLockTake src) u = execOwnerLockTake src u := rfl
@[simp] theorem exec_ownerLockRelease (src : Src) : exec (.ownerLockRelease src) u = execOwnerLockRelease src u := rfl
@[simp] theorem exec_store (src : Src) : exec (.store src) u = execStore src u := rfl
@[simp] theorem exec_storeComplete (flashOk sigOk : Bool) : exec (.storeComplete flashOk sigOk) u = execStoreComplete flashOk sigOk u := rfl
@[simp] theorem exec_restore (src : Src) : exec (.restore src) u = execRestore src u := rfl
@[simp] theorem exec_defaults (src : Src) : exec (.defaults src) u = execDefaults src u := rfl
@[simp] theorem exec_numericFlagsClear (src : Src) (mask : Nat) : exec (.numericFlagsClear src mask) u = execNumericFlagsClear src mask u := rfl
@[simp] theorem exec_coreFlagsClear (src : Src) (core mask : Nat) : exec (.coreFlagsClear src core mask) u = execCoreFlagsClear src core mask u := rfl
@[simp] theorem exec_updateFlagsClear (src : Src) (mask : Nat) : exec (.updateFlagsClear src mask) u = execUpdateFlagsClear src mask u := rfl
@[simp] theorem exec_reduceFlagsClear (src : Src) (mask : Nat) : exec (.reduceFlagsClear src mask) u = execReduceFlagsClear src mask u := rfl
@[simp] theorem exec_threshFlagsClear (src : Src) (mask : Nat) : exec (.threshFlagsClear src mask) u = execThreshFlagsClear src mask u := rfl
@[simp] theorem exec_supplyWarnClear (src : Src) (mask : Nat) : exec (.supplyWarnClear src mask) u = execSupplyWarnClear src mask u := rfl
@[simp] theorem exec_pllLossClear (src : Src) (mask : Nat) : exec (.pllLossClear src mask) u = execPllLossClear src mask u := rfl
@[simp] theorem exec_attnEmptyFlagClear (src : Src) : exec (.attnEmptyFlagClear src) u = execAttnEmptyFlagClear src u := rfl
@[simp] theorem exec_errClearCounts (src : Src) : exec (.errClearCounts src) u = execErrClearCounts src u := rfl
@[simp] theorem exec_errClearFaultMap (src : Src) : exec (.errClearFaultMap src) u = execErrClearFaultMap src u := rfl
@[simp] theorem exec_winnowProbe (src : Src) (member value : Nat) : exec (.winnowProbe src member value) u = execWinnowProbe src member value u := rfl
@[simp] theorem exec_shufProbe (src : Src) (value : Nat) : exec (.shufProbe src value) u = execShufProbe src value u := rfl
@[simp] theorem exec_shufSamplesWrite (src : Src) (value : Nat) : exec (.shufSamplesWrite src value) u = execShufSamplesWrite src value u := rfl
@[simp] theorem exec_cribPoolInit (src : Src) : exec (.cribPoolInit src) u = execCribPoolInit src u := rfl
@[simp] theorem exec_cribPoolRelease (src : Src) : exec (.cribPoolRelease src) u = execCribPoolRelease src u := rfl
@[simp] theorem exec_matrixSelftestRun (src : Src) : exec (.matrixSelftestRun src) u = execMatrixSelftestRun src u := rfl
@[simp] theorem exec_matrixSelftestComplete (failing : List Nat) : exec (.matrixSelftestComplete failing) u = execMatrixSelftestComplete failing u := rfl
@[simp] theorem exec_reduceResidueTest (src : Src) : exec (.reduceResidueTest src) u = execReduceResidueTest src u := rfl
@[simp] theorem exec_residueTestComplete (missed : Nat) : exec (.residueTestComplete missed) u = execResidueTestComplete missed u := rfl
@[simp] theorem exec_coreExclude (src : Src) (core value : Nat) : exec (.coreExclude src core value) u = execCoreExclude src core value u := rfl
@[simp] theorem exec_attestNonce (h : YHdr) (digest : List Byte) : exec (.attestNonce h digest) u = execAttestNonce h digest u := rfl
@[simp] theorem exec_attestReportBuilt (slot : Nat) : exec (.attestReportBuilt slot) u = execAttestReportBuilt slot u := rfl
@[simp] theorem exec_fwUpdateImage (h : YHdr) (digest : List Byte) : exec (.fwUpdateImage h digest) u = execFwUpdateImage h digest u := rfl
@[simp] theorem exec_fwStageComplete (flashOk : Bool) : exec (.fwStageComplete flashOk) u = execFwStageComplete flashOk u := rfl
@[simp] theorem exec_fwActivate (src : Src) (kind : Nat) : exec (.fwActivate src kind) u = execFwActivate src kind u := rfl
@[simp] theorem exec_fwSvnAdvance (src : Src) : exec (.fwSvnAdvance src) u = execFwSvnAdvance src u := rfl
@[simp] theorem exec_fwSelfConfirm (kind : Nat) : exec (.fwSelfConfirm kind) u = execFwSelfConfirm kind u := rfl
@[simp] theorem exec_fwTrialExpired (kind : Nat) : exec (.fwTrialExpired kind) u = execFwTrialExpired kind u := rfl
@[simp] theorem exec_warm : exec (.warm) u = execWarm u := rfl
@[simp] theorem exec_dieReset (die : Nat) : exec (.dieReset die) u = execDieReset die u := rfl
@[simp] theorem exec_coreReset (core : Nat) : exec (.coreReset core) u = execCoreReset core u := rfl
@[simp] theorem exec_portReset (port : Nat) : exec (.portReset port) u = execPortReset port u := rfl
@[simp] theorem exec_fieldRestart : exec (.fieldRestart) u = execFieldRestart u := rfl
@[simp] theorem exec_por : exec (.por) u = execPor u := rfl
@[simp] theorem exec_powerUp : exec (.powerUp) u = execPowerUp u := rfl
@[simp] theorem exec_resetN (lowUs : Nat) : exec (.resetN lowUs) u = execResetN lowUs u := rfl
@[simp] theorem exec_bootStageComplete (ok : Bool) (detail : Nat) : exec (.bootStageComplete ok detail) u = execBootStageComplete ok detail u := rfl
@[simp] theorem exec_stewardWatchdog (n : Nat) : exec (.stewardWatchdog n) u = execStewardWatchdog n u := rfl
@[simp] theorem exec_p0Request (src : Src) : exec (.p0Request src) u = execP0Request src u := rfl
@[simp] theorem exec_p1Request (src : Src) : exec (.p1Request src) u = execP1Request src u := rfl
@[simp] theorem exec_fallowRequest (src : Src) : exec (.fallowRequest src) u = execFallowRequest src u := rfl
@[simp] theorem exec_p1Exit : exec (.p1Exit) u = execP1Exit u := rfl
@[simp] theorem exec_fallowExitStep (ok : Bool) (ms : Nat) : exec (.fallowExitStep ok ms) u = execFallowExitStep ok ms u := rfl
@[simp] theorem exec_supplyWarning (rail mv : Nat) : exec (.supplyWarning rail mv) u = execSupplyWarning rail mv u := rfl
@[simp] theorem exec_supplyRecovery : exec (.supplyRecovery) u = execSupplyRecovery u := rfl
@[simp] theorem exec_supplyReset (rail mv : Nat) : exec (.supplyReset rail mv) u = execSupplyReset rail mv u := rfl
@[simp] theorem exec_powerOverLimit (mw : Nat) : exec (.powerOverLimit mw) u = execPowerOverLimit mw u := rfl
@[simp] theorem exec_leaveCorrectionUpdate (pm meanHeld : Nat) : exec (.leaveCorrectionUpdate pm meanHeld) u = execLeaveCorrectionUpdate pm meanHeld u := rfl
@[simp] theorem exec_thermalReading (temps : List Int) (powerMw : Nat) (rails : List Nat) : exec (.thermalReading temps powerMw rails) u = execThermalReading temps powerMw rails u := rfl
@[simp] theorem exec_thermtrip (die : Nat) : exec (.thermtrip die) u = execThermtrip die u := rfl
@[simp] theorem exec_clkRampStep (die : Nat) : exec (.clkRampStep die) u = execClkRampStep die u := rfl
@[simp] theorem exec_clkCoreSrc (src : Src) (die value : Nat) : exec (.clkCoreSrc src die value) u = execClkCoreSrc src die value u := rfl
@[simp] theorem exec_pllReferenceLoss (pll : Nat) (refclk : Bool) : exec (.pllReferenceLoss pll refclk) u = execPllReferenceLoss pll refclk u := rfl
@[simp] theorem exec_pllRelock (pll : Nat) : exec (.pllRelock pll) u = execPllRelock pll u := rfl
@[simp] theorem exec_clockLossStop (pll : Nat) : exec (.clockLossStop pll) u = execClockLossStop pll u := rfl
@[simp] theorem exec_memTempRead (package : Nat) (temp : Int) : exec (.memTempRead package temp) u = execMemTempRead package temp u := rfl
@[simp] theorem exec_refresh (subch bank : Nat) : exec (.refresh subch bank) u = execRefresh subch bank u := rfl
@[simp] theorem exec_memScrubRead (subch : Nat) (upset0 upset1 : Nat) (late : Bool) : exec (.memScrubRead subch upset0 upset1 late) u = execMemScrubRead subch upset0 upset1 late u := rfl
@[simp] theorem exec_bridgeFlitReceive (bridge dir : Nat) (noise : List Nat) (replayed : List (List Nat)) : exec (.bridgeFlitReceive bridge dir noise replayed) u = execBridgeFlitReceive bridge dir noise replayed u := rfl
@[simp] theorem exec_arbC3Window (point flits : Nat) : exec (.arbC3Window point flits) u = execArbC3Window point flits u := rfl
@[simp] theorem exec_errorRecordReceive (rec : Nat) : exec (.errorRecordReceive rec) u = execErrorRecordReceive rec u := rfl
@[simp] theorem exec_laserInputPresent (port : Nat) (uw : Nat) : exec (.laserInputPresent port uw) u = execLaserInputPresent port uw u := rfl
@[simp] theorem exec_portEnable (src : Src) (port value : Nat) : exec (.portEnable src port value) u = execPortEnable src port value u := rfl
@[simp] theorem exec_ethLinkUp (l : LinkUp) : exec (.ethLinkUp l) u = execEthLinkUp l u := rfl
@[simp] theorem exec_ethLinkDown (port : Nat) : exec (.ethLinkDown port) u = execEthLinkDown port u := rfl
@[simp] theorem exec_pfcPauseExpiry (port prio : Nat) : exec (.pfcPauseExpiry port prio) u = execPfcPauseExpiry port prio u := rfl
@[simp] theorem exec_overLimitFreezeEnd (mw : Nat) : exec (.overLimitFreezeEnd mw) u = execOverLimitFreezeEnd mw u := rfl
@[simp] theorem exec_fallowEntryStep : exec (.fallowEntryStep) u = execFallowEntryStep u := rfl
@[simp] theorem exec_resetComplete : exec (.resetComplete) u = execResetComplete u := rfl
@[simp] theorem exec_stewardSemOperation (steward op sem arg : Nat) : exec (.stewardSemOperation steward op sem arg) u = execStewardSemOperation steward op sem arg u := rfl

end

end Sys2Proof.Machine
end

