-- ==== Sys2Proof/Laws/Memory.lean ====
section
/-! SUPPORT. Laws of memory: a read after a write, and that every memory operation keeps the canonical form. -/
namespace Sys2Proof.Machine

/-- What a byte reads after bytes have been put. -/
theorem get_putBytes (m : List Host.Cell) (a : Nat) (bs : List Byte) (x : Nat) :
    SMap.get 0 (putBytes m a bs) x = if h : a ≤ x ∧ x < a + bs.length then bs[x - a]'(by omega) else SMap.get 0 m x := by
  induction bs generalizing m a with
  | nil => rw [dif_neg (by simp)]; rfl
  | cons b bs ih =>
    simp only [putBytes, ih, List.length_cons]
    by_cases h1 : a + 1 ≤ x ∧ x < a + 1 + bs.length
    · have h2 : a ≤ x ∧ x < a + (bs.length + 1) := by omega
      rw [dif_pos h1, dif_pos h2]
      have : x - a = (x - (a + 1)) + 1 := by omega
      simp [this]
    · rw [dif_neg h1]
      by_cases hx : x = a
      · subst hx; simp
      · rw [dif_neg (by omega), SMap.get_set_ne _ _ _ _ _ hx]

/-- The byte at an address after a plain store. -/
theorem State.byte_poke (s : State) (a : Nat) (bs : List Byte) (x : Nat) :
    (s.poke a bs).byte x = if h : a ≤ x ∧ x < a + bs.length then bs[x - a]'(by omega) else s.byte x := by
  simp only [State.byte, State.poke_mem]; exact get_putBytes _ _ _ _

/-- A plain store leaves every byte outside it alone. -/
theorem State.byte_poke_out (s : State) (a : Nat) (bs : List Byte) (x : Nat) (h : x < a ∨ a + bs.length ≤ x) :
    (s.poke a bs).byte x = s.byte x := by
  rw [State.byte_poke, dif_neg (by omega)]

theorem bytesOf_length (m : List Host.Cell) (a n : Nat) : (bytesOf m a n).length = n := by
  induction n generalizing a with
  | zero => rfl
  | succ n ih => simp [bytesOf, ih]

theorem bytesOf_congr (m m' : List Host.Cell) (a n : Nat) (h : ∀ x, a ≤ x → x < a + n → SMap.get 0 m x = SMap.get 0 m' x) :
    bytesOf m a n = bytesOf m' a n := by
  induction n generalizing a with
  | zero => rfl
  | succ n ih =>
    simp only [bytesOf]
    rw [h a (by omega) (by omega), ih (a + 1) fun x hx hy => h x (by omega) (by omega)]

/-- What was stored is read back. -/
theorem bytesOf_putBytes (m : List Host.Cell) (a : Nat) (bs : List Byte) : bytesOf (putBytes m a bs) a bs.length = bs := by
  induction bs generalizing m a with
  | nil => rfl
  | cons b bs ih =>
    simp only [List.length_cons, bytesOf]
    rw [putBytes, get_putBytes, dif_neg (by omega), SMap.get_set_same, ih]

@[simp] theorem State.peek_poke_same (s : State) (a : Nat) (bs : List Byte) : (s.poke a bs).peek a bs.length = bs := by
  simp only [State.peek, State.poke_mem, bytesOf_putBytes]

/-- A store elsewhere leaves what is read alone. -/
theorem State.peek_poke_out (s : State) (a : Nat) (bs : List Byte) (x n : Nat) (h : x + n ≤ a ∨ a + bs.length ≤ x) :
    (s.poke a bs).peek x n = s.peek x n := by
  simp only [State.peek, State.poke_mem]
  refine bytesOf_congr _ _ _ _ fun y h1 h2 => ?_
  rw [get_putBytes, dif_neg (by omega)]

/-! ### The canonical form -/

@[simp] theorem Memory.wf_nil : Memory.wf [] = true := rfl

/-- Memory after reset is in canonical form. -/
theorem State.reset_mem_wf : Memory.wf State.reset.mem = true := rfl

theorem Memory.wf_set (m : List Host.Cell) (a : Nat) (b : Byte) (h : Memory.wf m = true) :
    Memory.wf (SMap.set 0 m a b) = true := SMap.wf_set _ _ _ _ h

theorem Memory.wf_filter (p : Host.Cell → Bool) (m : List Host.Cell) (h : Memory.wf m = true) :
    Memory.wf (m.filter p) = true := SMap.wf_filter _ _ _ h

theorem Memory.wf_putBytes (m : List Host.Cell) (a : Nat) (bs : List Byte) (h : Memory.wf m = true) :
    Memory.wf (putBytes m a bs) = true := by
  induction bs generalizing m a with
  | nil => exact h
  | cons b bs ih => exact ih _ _ (Memory.wf_set m a b h)

/-- Keys of a list rise strictly from `b` on, as a proposition. -/
theorem SMap.above_iff_pairwise {α : Type} (m : SMap α) :
    SMap.above none m = true ↔ m.Pairwise fun p q => p.1 < q.1 := by
  have key : ∀ (m : SMap α) (b : Nat), SMap.above (some b) m = true ↔ (∀ q ∈ m, b < q.1) ∧ m.Pairwise fun p q => p.1 < q.1 := by
    intro m
    induction m with
    | nil => simp [SMap.above]
    | cons p m ih =>
      intro b
      simp only [SMap.above, Bool.and_eq_true, decide_eq_true_eq, ih, List.mem_cons, forall_eq_or_imp, List.pairwise_cons]
      constructor
      · rintro ⟨h1, h2, h3⟩; exact ⟨⟨h1, fun q hq => by have := h2 q hq; omega⟩, h2, h3⟩
      · rintro ⟨⟨h1, _⟩, h2, h3⟩; exact ⟨h1, h2, h3⟩
  cases m with
  | nil => simp [SMap.above]
  | cons p m => simp only [SMap.above, Bool.true_and, key, List.pairwise_cons]

theorem cellsOf_mem (a : Nat) (bs : List Byte) : ∀ q ∈ cellsOf a bs, a ≤ q.1 ∧ q.1 < a + bs.length ∧ q.2 ≠ 0 := by
  induction bs generalizing a with
  | nil => simp [cellsOf]
  | cons b bs ih =>
    intro q hq
    simp only [cellsOf] at hq
    simp only [List.length_cons]
    split_ifs at hq with hb
    · have := ih (a + 1) q hq; exact ⟨by omega, by omega, this.2.2⟩
    · rcases List.mem_cons.1 hq with rfl | hq
      · exact ⟨by simp, by simp, hb⟩
      · have := ih (a + 1) q hq; exact ⟨by omega, by omega, this.2.2⟩

theorem cellsOf_pairwise (a : Nat) (bs : List Byte) : (cellsOf a bs).Pairwise fun p q => p.1 < q.1 := by
  induction bs generalizing a with
  | nil => simp [cellsOf]
  | cons b bs ih =>
    simp only [cellsOf]
    split_ifs
    · exact ih _
    · exact List.pairwise_cons.2 ⟨fun q hq => by have := cellsOf_mem _ _ q hq; simp; omega, ih _⟩

theorem Memory.wf_splice (m : List Host.Cell) (a : Nat) (bs : List Byte) (h : Memory.wf m = true) :
    Memory.wf (spliceMem m a bs) = true := by
  unfold Memory.wf at h ⊢
  rw [SMap.wf_iff, SMap.above_iff_pairwise] at h ⊢
  unfold spliceMem
  refine ⟨?_, ?_⟩
  · rw [List.append_assoc, List.pairwise_append, List.pairwise_append]
    refine ⟨h.1.sublist List.filter_sublist, ⟨cellsOf_pairwise _ _, h.1.sublist List.filter_sublist, ?_⟩, ?_⟩
    · intro p hp q hq
      have := cellsOf_mem a bs p hp
      simp only [List.mem_filter, decide_eq_true_eq] at hq
      omega
    · intro p hp q hq
      simp only [List.mem_filter, decide_eq_true_eq] at hp
      rcases List.mem_append.1 hq with hq | hq
      · have := cellsOf_mem a bs q hq; omega
      · simp only [List.mem_filter, decide_eq_true_eq] at hq; omega
  · intro q hq
    rcases List.mem_append.1 hq with hq | hq
    · rcases List.mem_append.1 hq with hq | hq
      · exact h.2 q (List.mem_of_mem_filter hq)
      · exact (cellsOf_mem a bs q hq).2.2
    · exact h.2 q (List.mem_of_mem_filter hq)

end Sys2Proof.Machine
end

