-- ==== Sys2Proof/Laws/Kernel.lean ====
section
/-! SUPPORT. What the shared operations of instructions do: fetch and issue, the write of a context, and register
instructions. -/
namespace Sys2Proof.Machine

/-- A read of bytes whose check bits are those of their data changes nothing. -/
theorem State.readMem_clean (s : State) (a n : Nat) (h : s.clean a n) : s.readMem a n = (s, s.peek a n, none) := by
  unfold State.readMem
  rw [if_pos]
  simpa [List.all_eq_true, State.clean] using h

/-- A core fetches from its own loft. -/
theorem State.fetches_own (s : State) (core pc : Nat) (h : regionOf pc = .loft core) (h' : inOneRegion pc 4 = true) :
    s.fetches core pc = true := by
  simp [State.fetches, State.loftOpen, h, h']

/-- A context whose codewords are as written is read without any effect (R110). -/
theorem State.touchCtx_clean (s : State) (core ctx : Nat) (h : s.cxClean core ctx = true) :
    s.touchCtx core ctx = (s, false) := by
  unfold State.touchCtx; rw [if_pos h]

/-- A context that issues does exactly what its instruction says. -/
theorem State.issue_runs (s : State) (core ctx : Nat) (k : State → State) (h : s.issues core ctx) :
    s.issue core ctx k = .next (k s) := by
  unfold State.issue
  have h1 := h.core_lt; have h2 := h.ctx_lt
  rw [if_neg (by omega)]
  simp only [h.ready, h.inService, State.touchCtx_clean _ _ _ h.stored, h.aligned, h.region,
    State.readMem_clean _ _ _ h.clean]
  simp

/-- An instruction of an existing context always has a next state. -/
theorem State.issue_next (s : State) (core ctx : Nat) (k : State → State) (h1 : core < 800) (h2 : ctx < 2048) :
    ∃ t, s.issue core ctx k = .next t := by
  unfold State.issue
  rw [if_neg (by omega)]
  dsimp only
  split_ifs
  · exact ⟨_, rfl⟩
  · split
    · exact ⟨_, rfl⟩
    · split_ifs
      · exact ⟨_, rfl⟩
      · exact ⟨_, rfl⟩
      · split <;> exact ⟨_, rfl⟩

theorem State.onlyCtx_setCtx (s : State) (core ctx : Nat) (c : Ctx) (h2 : ctx < 2048) :
    s.onlyCtx core ctx c (s.setCtx core ctx c) := by
  refine ⟨rfl, by simp, fun k n hn hne => ?_⟩
  apply State.ctx_setCtx_ne
  rw [Ne, State.ctxKey_inj hn h2]; tauto

theorem State.onlyCtx_trans {s t u : State} {core ctx : Nat} {c d : Ctx} (h : s.onlyCtx core ctx c t)
    (h' : t.onlyCtx core ctx d u) : s.onlyCtx core ctx d u := by
  refine ⟨?_, h'.here, fun k n hn hne => (h'.others k n hn hne).trans (h.others k n hn hne)⟩
  rw [h'.rest, h.rest]

@[simp] theorem State.coreFlags_zero (s : State) (core : Nat) : s.coreFlags core 0 0 = s := by
  simp [State.coreFlags, State.orO]

/-- A register instruction without flags: the context takes its new registers and goes on, and nothing else changes. -/
theorem State.scalarOp_runs (s : State) (core ctx : Nat) (f : Ctx → Ctx × Nat) (h : s.issues core ctx)
    (hz : (f (s.ctx core ctx)).2 = 0) (hpc : (f (s.ctx core ctx)).1.pc = (s.ctx core ctx).pc) :
    ∃ t, s.scalarOp core ctx f = .next t ∧ s.onlyCtx core ctx (f (s.ctx core ctx)).1.next t := by
  unfold State.scalarOp
  rw [State.issue_runs _ _ _ _ h]
  refine ⟨_, rfl, ?_⟩
  rcases hf : f (s.ctx core ctx) with ⟨c', fl⟩
  simp only [hf] at hz hpc ⊢
  subst hz
  have e : ({ c' with pc := ((s.ctx core ctx).pc + 4) % 2 ^ 64 } : Ctx) = c'.next := by simp [Ctx.next, hpc]
  rw [e]
  unfold State.ctxFlags
  simp only [State.ctx_setCtx_same]
  have h1 := State.onlyCtx_setCtx s core ctx c'.next h.ctx_lt
  split_ifs
  · have h2 := State.onlyCtx_setCtx (s.setCtx core ctx c'.next) core ctx
      { c'.next with status := c'.next.status ||| 0 % 128 } h.ctx_lt
    simpa using State.onlyCtx_trans h1 h2
  · simpa using h1

@[simp] theorem Ctx.get_zero (c : Ctx) (n : Nat) (h : n % 16 = 0) : c.get n = 0 := by simp [Ctx.get, h]

theorem Ctx.get_lt (c : Ctx) (n : Nat) : c.get n < 2 ^ 64 := by
  unfold Ctx.get; split_ifs
  · decide
  · exact Nat.mod_lt _ (by decide)

@[simp] theorem Ctx.set_zero (c : Ctx) (n v : Nat) (h : n % 16 = 0) : c.set n v = c := by simp [Ctx.set, h]

@[simp] theorem Ctx.set_pc (c : Ctx) (n v : Nat) : (c.set n v).pc = c.pc := by unfold Ctx.set; split_ifs <;> rfl

theorem Ctx.set_mod (c : Ctx) (n v : Nat) : c.set n (v % 2 ^ 64) = c.set n v := by unfold Ctx.set; simp

/-- A register reads what was written to it, but S0 reads 0. -/
theorem Ctx.get_set (c : Ctx) (n m v : Nat) :
    (c.set n v).get m = if m % 16 = 0 then 0 else if m % 16 = n % 16 then v % 2 ^ 64 else c.get m := by
  by_cases hm : m % 16 = 0
  · simp [hm]
  · simp only [hm, if_false]
    by_cases hn : n % 16 = 0
    · rw [Ctx.set_zero _ _ _ hn, if_neg (by omega)]
    · simp only [Ctx.set, Ctx.get, hn, hm, if_false]
      split_ifs with h
      · rw [h]; simp
      · rw [SMap.get_set_ne _ _ _ _ _ h]

end Sys2Proof.Machine
end

