-- ==== Sys2Proof/Laws/Ops.lean ====
section
/-! SUPPORT. What the shared operations can change: dictionary values, holds, semaphores, records and events, leave, the
ends of operations, and reads and writes of memory. A lemma `kind_f` says that operation `f` is of that kind, and the
kinds are transitive and contain one another in the order in which they stand here. -/
namespace Sys2Proof.Machine

variable {s t u : State}

/-! ### The kinds of change -/

/-- Only values of the dictionary have changed. -/
def State.onlyObj (s t : State) : Prop := t = { s with obj := t.obj, freeCtr := t.freeCtr }

/-- Besides, only the almanac's holds and messages, and what the ports have queued. -/
def State.onlyHold (s t : State) : Prop :=
  t = { s with obj := t.obj, freeCtr := t.freeCtr, alm := t.alm, ports := t.ports }

/-- Besides, only the semaphores and those to whom they deliver: contexts, operations and threshers. -/
def State.onlySem (s t : State) : Prop :=
  t = { s with obj := t.obj, freeCtr := t.freeCtr, alm := t.alm, ports := t.ports, sems := t.sems, ctxs := t.ctxs,
               ops := t.ops, thrs := t.thrs }

/-- Besides, only what records, events, stop requests, leave and the ends of operations change. Memory keeps its form. -/
structure State.aside (s t : State) : Prop where
  rest : t = { s with
    obj := t.obj, freeCtr := t.freeCtr, alm := t.alm, ports := t.ports, sems := t.sems, ctxs := t.ctxs, ops := t.ops,
    thrs := t.thrs, out := t.out, mem := t.mem, stopped := t.stopped, unrec := t.unrec, rings := t.rings,
    tables := t.tables, load := t.load, stepRun := t.stepRun, stepQueue := t.stepQueue, stepDead := t.stepDead,
    censusRecv := t.censusRecv, leaveQ := t.leaveQ, waited := t.waited, readyQ := t.readyQ, resvs := t.resvs, fences := t.fences, log := t.log, fieldFirst := t.fieldFirst,
    fieldStamps := t.fieldStamps, chk := t.chk }
  canonical : Memory.wf s.mem = true → Memory.wf t.mem = true

/-- Besides, only check bits, the counts of the subchannels and the fault map. -/
structure State.memAside (s t : State) : Prop where
  rest : t = { s with
    obj := t.obj, freeCtr := t.freeCtr, alm := t.alm, ports := t.ports, sems := t.sems, ctxs := t.ctxs, ops := t.ops,
    thrs := t.thrs, out := t.out, mem := t.mem, stopped := t.stopped, unrec := t.unrec, rings := t.rings,
    tables := t.tables, load := t.load, stepRun := t.stepRun, stepQueue := t.stepQueue, stepDead := t.stepDead,
    censusRecv := t.censusRecv, leaveQ := t.leaveQ, waited := t.waited, readyQ := t.readyQ, resvs := t.resvs, fences := t.fences, log := t.log, fieldFirst := t.fieldFirst,
    fieldStamps := t.fieldStamps, chk := t.chk, subch := t.subch, blob := t.blob }
  canonical : Memory.wf s.mem = true → Memory.wf t.mem = true

theorem State.onlyObj.refl (s : State) : s.onlyObj s := rfl
theorem State.onlyHold.refl (s : State) : s.onlyHold s := rfl
theorem State.onlySem.refl (s : State) : s.onlySem s := rfl
theorem State.aside.refl (s : State) : s.aside s := ⟨rfl, id⟩
theorem State.memAside.refl (s : State) : s.memAside s := ⟨rfl, id⟩

theorem State.onlyObj.trans (h : s.onlyObj t) (h' : t.onlyObj u) : s.onlyObj u := by
  unfold State.onlyObj at *; rw [h', h]
theorem State.onlyHold.trans (h : s.onlyHold t) (h' : t.onlyHold u) : s.onlyHold u := by
  unfold State.onlyHold at *; rw [h', h]
theorem State.onlySem.trans (h : s.onlySem t) (h' : t.onlySem u) : s.onlySem u := by
  unfold State.onlySem at *; rw [h', h]
theorem State.aside.trans (h : s.aside t) (h' : t.aside u) : s.aside u :=
  ⟨by rw [h'.rest, h.rest], h'.canonical ∘ h.canonical⟩
theorem State.memAside.trans (h : s.memAside t) (h' : t.memAside u) : s.memAside u :=
  ⟨by rw [h'.rest, h.rest], h'.canonical ∘ h.canonical⟩

theorem State.onlyObj.hold (h : s.onlyObj t) : s.onlyHold t := by
  unfold State.onlyObj at h; unfold State.onlyHold; rw [h]
theorem State.onlyHold.sem (h : s.onlyHold t) : s.onlySem t := by
  unfold State.onlyHold at h; unfold State.onlySem; rw [h]
theorem State.onlySem.aside (h : s.onlySem t) : s.aside t := by
  unfold State.onlySem at h; exact ⟨by rw [h], fun w => by rw [h]; exact w⟩
theorem State.aside.mem (h : s.aside t) : s.memAside t := ⟨by rw [h.rest], h.canonical⟩
theorem State.onlyObj.aside (h : s.onlyObj t) : s.aside t := h.hold.sem.aside
theorem State.onlyHold.aside (h : s.onlyHold t) : s.aside t := h.sem.aside

theorem State.onlyObj.ite {p : Prop} [Decidable p] (h : s.onlyObj t) (h' : s.onlyObj u) : s.onlyObj (if p then t else u) := by
  split_ifs <;> assumption
theorem State.onlyHold.ite {p : Prop} [Decidable p] (h : s.onlyHold t) (h' : s.onlyHold u) :
    s.onlyHold (if p then t else u) := by split_ifs <;> assumption
theorem State.onlySem.ite {p : Prop} [Decidable p] (h : s.onlySem t) (h' : s.onlySem u) : s.onlySem (if p then t else u) := by
  split_ifs <;> assumption
theorem State.aside.ite {p : Prop} [Decidable p] (h : s.aside t) (h' : s.aside u) : s.aside (if p then t else u) := by
  split_ifs <;> assumption
theorem State.memAside.ite {p : Prop} [Decidable p] (h : s.memAside t) (h' : s.memAside u) :
    s.memAside (if p then t else u) := by split_ifs <;> assumption

theorem State.onlyHold.foldl {α : Type} {f : State → α → State} (h : ∀ (s : State) a, s.onlyHold (f s a)) (l : List α) (s : State) :
    s.onlyHold (l.foldl f s) := by
  induction l generalizing s with
  | nil => rfl
  | cons a l ih => exact (h s a).trans (ih _)
theorem State.aside.foldl {α : Type} {f : State → α → State} (h : ∀ (s : State) a, s.aside (f s a)) (l : List α) (s : State) :
    s.aside (l.foldl f s) := by
  induction l generalizing s with
  | nil => exact .refl s
  | cons a l ih => exact (h s a).trans (ih _)
theorem State.memAside.foldl {α : Type} {f : State → α → State} (h : ∀ (s : State) a, s.memAside (f s a)) (l : List α)
    (s : State) : s.memAside (l.foldl f s) := by
  induction l generalizing s with
  | nil => exact .refl s
  | cons a l ih => exact (h s a).trans (ih _)

/-! ### Dictionary values -/

theorem State.onlyObj_setO (s : State) (o : ObjDef) (v i j : Nat) : s.onlyObj (s.setO o v i j) := rfl
theorem State.onlyObj_setI (s : State) (o : ObjDef) (v : Int) (i j : Nat) : s.onlyObj (s.setI o v i j) := rfl
theorem State.onlyObj_drew (s : State) : s.onlyObj s.drew := rfl
theorem State.onlyObj_incO (s : State) (o : ObjDef) (n i j : Nat) : s.onlyObj (s.incO o n i j) := by
  unfold State.incO; exact .ite rfl rfl
theorem State.onlyObj_orO (s : State) (o : ObjDef) (m i j : Nat) : s.onlyObj (s.orO o m i j) := by
  unfold State.orO; exact .ite rfl rfl
theorem State.onlyObj_clearBits (s : State) (o : ObjDef) (m i j : Nat) : s.onlyObj (s.clearBits o m i j) := rfl
theorem State.onlyObj_maxO (s : State) (o : ObjDef) (v i j : Nat) : s.onlyObj (s.maxO o v i j) := by
  unfold State.maxO; exact .ite rfl rfl
theorem State.onlyObj_setDev (s : State) (n : Nat) : s.onlyObj (s.setDev n) := by
  unfold State.setDev
  extract_lets old a b c
  have h : s.onlyObj b := rfl
  exact .ite rfl (h.trans ((State.onlyObj_incO b _ _ _ _).trans (State.onlyObj_setO c _ _ _ _)))
theorem State.onlyObj_countRefused (s : State) (n : Nat) : s.onlyObj (s.countRefused n) := by
  unfold State.countRefused; split <;> first | exact State.onlyObj_incO _ _ _ _ _ | rfl
theorem State.onlyObj_countAbandoned (s : State) (n : Nat) : s.onlyObj (s.countAbandoned n) := by
  unfold State.countAbandoned; split <;> first
    | exact State.onlyObj_incO _ _ _ _ _
    | exact .ite rfl (State.onlyObj_incO _ _ _ _ _)
    | rfl
theorem State.onlyObj_coreFailed (s : State) (o : Op) : s.onlyObj (s.coreFailed o) := by
  unfold State.coreFailed
  exact .ite (.trans (State.onlyObj_incO _ _ _ _ _) (State.onlyObj_setO _ _ _ _ _)) rfl
theorem State.onlyObj_countDone (s : State) (o : Op) : s.onlyObj (s.countDone o) := by
  unfold State.countDone
  extract_lets a b u
  have ha : s.onlyObj a := State.onlyObj_incO _ _ _ _ _
  have hb : s.onlyObj b := State.onlyObj_incO _ _ _ _ _
  have h : s.onlyObj u := by
    dsimp only [u]
    split
    · exact State.onlyObj_incO _ _ _ _ _
    · exact State.onlyObj_incO _ _ _ _ _
    · exact .ite (ha.trans (State.onlyObj_incO _ _ _ _ _)) (.ite (ha.trans (State.onlyObj_incO _ _ _ _ _)) ha)
    · exact .ite (hb.trans (State.onlyObj_incO _ _ _ _ _)) hb
    all_goals exact State.onlyObj_incO _ _ _ _ _
  exact .ite (h.trans (State.onlyObj_incO _ _ _ _ _)) h

/-! ### Control messages and holds (R302, R323, R324) -/

theorem State.onlyHold_alm (s : State) (a : Alm) : s.onlyHold { s with alm := a } := rfl
theorem State.onlyHold_setPort (s : State) (p : Nat) (x : Port) : s.onlyHold (s.setPort p x) := rfl
theorem State.onlyHold_queueCtl (s : State) (p k : Nat) (bs : List Byte) : s.onlyHold (s.queueCtl p k bs) := by
  unfold State.queueCtl
  refine .foldl (fun s' a => ?_) _ _
  exact .ite (.refl s') (State.onlyHold_setPort s' _ _)
theorem State.onlyHold_flood (s : State) (k x y : Nat) : s.onlyHold (s.flood k x y) := by
  unfold State.flood
  exact .ite rfl (.trans (State.onlyHold_alm _ _) (State.onlyHold_queueCtl _ _ _ _))
theorem State.onlyHold_sendVc2 (s : State) (d k : Nat) (body : List Byte) (bad : List Nat) :
    s.onlyHold (s.sendVc2 d k body bad) := by
  unfold State.sendVc2; split
  · rfl
  · exact State.onlyHold_setPort s _ _
theorem State.onlyHold_toMaster (s : State) (body : List Byte) : s.onlyHold (s.toMaster body) := by
  unfold State.toMaster; split
  · rfl
  · exact .ite rfl rfl
theorem State.onlyHold_masterHold (s : State) (h : Held) : s.onlyHold (s.masterHold h) := rfl
theorem State.onlyHold_masterRelease (s : State) (o : Nat) : s.onlyHold (s.masterRelease o) := rfl
theorem State.onlyHold_sendHold (s : State) (c : Cond) : s.onlyHold (s.sendHold c) := by
  unfold State.sendHold
  extract_lets a b d e x f g
  have h1 : s.onlyHold d := ((State.onlyObj_incO s _ _ _ _).trans ((State.onlyObj_setO a _ _ _ _).trans
    (State.onlyObj_setO b _ _ _ _))).hold
  have h2 : s.onlyHold e := .ite (h1.trans (State.onlyObj_incO _ _ _ _ _).hold) h1
  exact h2.trans ((State.onlyHold_alm e _).trans ((State.onlyHold_flood f _ _ _).trans (State.onlyHold_masterHold g _)))
theorem State.onlyHold_sendRelease (s : State) : s.onlyHold s.sendRelease := by
  unfold State.sendRelease
  extract_lets x a
  exact (State.onlyHold_alm s _).trans ((State.onlyHold_flood a _ _ _).trans (State.onlyHold_masterRelease _ _))
theorem State.onlyHold_syncHold (s : State) : s.onlyHold s.syncHold := by
  unfold State.syncHold; split
  · rfl
  · exact State.onlyHold_sendRelease s
  · exact .ite rfl (State.onlyHold_sendHold s _)
theorem State.onlyHold_setCond (s : State) (k : Nat) (c : Option (Nat × Nat)) : s.onlyHold (s.setCond k c) := by
  unfold State.setCond
  exact (State.onlyHold_alm s _).trans (State.onlyHold_syncHold _)
theorem State.onlyHold_holdNow (s : State) (k r : Nat) : s.onlyHold (s.holdNow k r) := by
  unfold State.holdNow
  exact .ite rfl (State.onlyHold_setCond s _ _)
theorem State.onlyHold_judge (s : State) (n : Nat) : s.onlyHold (s.judge n) := by
  unfold State.judge
  extract_lets x mine l at_ next full a b c d
  exact (State.onlyHold_setCond s _ _).trans ((State.onlyHold_setCond a _ _).trans ((State.onlyHold_setCond b _ _).trans
    ((State.onlyHold_setCond c _ _).trans (State.onlyHold_setCond d _ _))))
theorem State.onlyHold_judgeStep (s : State) : s.onlyHold s.judgeStep := by
  unfold State.judgeStep
  generalize s.tables.flatMap _ = bs
  cases bs <;> exact State.onlyHold_setCond s _ _

/-! ### Semaphores (R342 to R353) -/

theorem State.onlySem_setSem (s : State) (n : Nat) (x : Sem) : s.onlySem (s.setSem n x) := rfl
theorem State.onlySem_setCtx (s : State) (n k : Nat) (c : Ctx) : s.onlySem (s.setCtx n k c) := rfl
theorem State.onlySem_setThr (s : State) (n : Nat) (x : Thr) : s.onlySem (s.setThr n x) := rfl
theorem State.onlySem_setOp (s : State) (id : Nat) (o : Op) : s.onlySem (s.setOp id o) := rfl
theorem State.onlySem_modOp (s : State) (id : Nat) (f : Op → Op) : s.onlySem (s.modOp id f) := by
  unfold State.modOp; split <;> rfl
theorem State.onlySem_deliver (s : State) (w : SemWho) (r : Nat) : s.onlySem (s.deliver w r) := by
  unfold State.deliver; split
  · exact .ite rfl rfl
  · exact State.onlySem_modOp _ _ _
  · exact State.onlySem_modOp _ _ _
  · rfl
  · rfl
theorem State.onlySem_semGrants (k : Nat) (s : State) (n : Nat) : s.onlySem (s.semGrants n k) := by
  induction k generalizing s with
  | zero => rfl
  | succ k ih =>
    unfold State.semGrants; extract_lets x
    split
    · rfl
    · exact .ite (.ite ((State.onlySem_setSem _ _ _).trans ((State.onlySem_deliver _ _ _).trans (ih _))) rfl)
        (.ite ((State.onlySem_setSem _ _ _).trans ((State.onlySem_deliver _ _ _).trans (ih _))) rfl)
theorem State.onlySem_signalBase (s : State) (q n : Nat) : s.onlySem (s.signalBase q n).1 := by
  unfold State.signalBase
  extract_lets a x o b c
  have h1 : s.onlySem a := (State.onlyObj_incO s _ _ _ _).hold.sem
  have h2 : s.onlySem c := .ite (h1.trans ((State.onlySem_setSem a _ _).trans (State.onlyObj_incO b _ _ _ _).hold.sem))
    (h1.trans (State.onlySem_setSem a _ _))
  split_ifs
  · exact h1
  · exact h2.trans (State.onlySem_semGrants _ _ _)
theorem State.onlySem_orphanAll (l : List SemReq) (s : State) : s.onlySem (s.orphanAll l) := by
  induction l generalizing s with
  | nil => rfl
  | cons r rs ih => exact (State.onlySem_deliver _ _ _).trans (ih _)
theorem State.onlySem_ctxWaitOn (s : State) (w : SemWho) (c : CtxWait) : s.onlySem (s.ctxWaitOn w c) := by
  unfold State.ctxWaitOn; split
  · exact .ite rfl rfl
  · rfl
theorem State.onlySem_semTryOp (s : State) (q n : Nat) (who : SemWho) (h : n ≠ 0) : s.onlySem (s.semTryOp q n who).1 := by
  unfold State.semTryOp
  extract_lets x a
  have h1 : s.onlySem a := (State.onlyObj_incO s _ _ _ _).hold.sem
  rw [if_neg h]
  split_ifs
  · exact h1
  · exact h1.trans (State.onlySem_setSem a _ _)
  · exact h1

/-! ### Rings, stops, records and events (R330, R331, R360 to R363, R534 to R541) -/

theorem State.aside_poke (s : State) (a : Nat) (bs : List Byte) : s.aside (s.poke a bs) :=
  ⟨rfl, fun h => Memory.wf_putBytes _ _ _ h⟩
theorem State.aside_putWhole (s : State) (a : Nat) (bs : List Byte) : s.aside (s.putWhole a bs) :=
  ⟨rfl, fun h => Memory.wf_putBytes _ _ _ h⟩
theorem State.aside_setRing (s : State) (q : Nat) (r : Ring) : s.aside (s.setRing q r) := ⟨rfl, id⟩
theorem State.aside_emit (s : State) (o : Output) : s.aside (s.emit o) := ⟨rfl, id⟩
theorem State.aside_stopStream (s : State) (n k : Nat) : s.aside (s.stopStream n k) := by
  unfold State.stopStream; exact .ite (.refl s) ⟨rfl, id⟩
theorem State.aside_produce (s : State) (b n w : Nat) : s.aside (s.produce b n w).1 := by
  unfold State.produce; split
  · exact (State.onlyObj_incO _ _ _ _ _).aside
  · extract_lets r c d
    split_ifs
    · exact State.aside_setRing _ _ _
    · exact (State.aside_putWhole s _ _).trans (State.aside_setRing c _ _)
    · exact (State.aside_putWhole s _ _).trans (State.aside_setRing c _ _)
theorem State.aside_cutOps (s : State) (b : Nat) : s.aside (s.cutOps b) := ⟨rfl, id⟩
theorem State.aside_cancelSwapsIf (s : State) (gone : Nat → Bool) : s.aside (s.cancelSwapsIf gone) := ⟨rfl, id⟩
theorem State.aside_stopAt (s : State) (b : Nat) : s.aside (s.stopAt b) := by
  unfold State.stopAt
  extract_lets x y
  refine .trans ?_ ((State.aside_cutOps _ b).trans (State.aside_cancelSwapsIf _ _))
  have h1 : s.aside x := .ite (.refl s) (State.onlyObj_setO s _ _ _ _).aside
  exact h1.trans ((State.onlyObj_setO x _ _ _ _).aside.trans ⟨rfl, id⟩)
theorem State.aside_takeStop (s : State) (b : Nat) : s.aside (s.takeStop b) := by
  unfold State.takeStop; exact .ite (.refl s) (State.aside_stopAt s b)
theorem State.aside_masterStopAt (s : State) (b : Nat) : s.aside (s.masterStopAt b) := by
  unfold State.masterStopAt
  exact .ite (.refl s) ((State.aside_takeStop _ _).trans (State.onlyHold_flood _ _ _ _).aside)
theorem State.aside_askStop (s : State) (r : Nat) : s.aside (s.askStop r) := by
  unfold State.askStop
  extract_lets a w x
  have h1 : s.aside x := .ite (.refl s) ((State.onlyObj_setO s _ _ _ _).aside.trans (State.onlyHold_alm a _).aside)
  exact .ite (.refl s) (.ite (h1.trans (State.aside_masterStopAt _ _)) (h1.trans (State.onlyHold_flood _ _ _ _).aside))
theorem State.aside_stopRequest (s : State) (r : Nat) : s.aside (s.stopRequest r) := by
  unfold State.stopRequest; exact .ite (State.aside_askStop _ _) (.refl s)
theorem State.aside_first (s : State) (f : Option Nat) (l : List Nat) : s.aside { s with fieldFirst := f, fieldStamps := l } :=
  ⟨rfl, id⟩
theorem State.aside_masterRecord (s : State) (w : Nat) : s.aside (s.masterRecord w) := by
  unfold State.masterRecord
  extract_lets a b
  have h1 : s.aside b := (State.onlyObj_incO s _ _ _ _).aside.trans ⟨rfl, id⟩
  split
  · exact h1.trans ⟨rfl, id⟩
  · exact .ite (h1.trans ⟨rfl, id⟩) h1
theorem State.aside_classEffect (s : State) (c r : Nat) : s.aside (s.classEffect c r) := by
  unfold State.classEffect
  extract_lets x
  refine .ite (State.aside_stopRequest _ _) (.ite (.ite ?_ (.ite (.refl s) ?_)) (.refl s))
  · exact (State.onlyObj_setO s _ _ _ _).aside.trans ((State.aside_stopRequest x r).trans (State.onlyHold_alm _ _).aside)
  · exact (State.onlyObj_setO s _ _ _ _).aside.trans (State.onlyObj_setDev _ _).aside
theorem State.aside_log (s : State) (l : SMap Nat) : s.aside { s with log := l } := ⟨rfl, id⟩
theorem State.aside_logRecord (s : State) (r : Rec) : s.aside (s.logRecord r).1 := by
  unfold State.logRecord
  split
  extract_lets c q w a l b d e f
  have h1 : s.aside a := .ite (State.onlyObj_incO s _ _ _ _).aside (.refl s)
  have h2 : s.aside e := h1.trans ((State.aside_log a _).trans ((State.onlyObj_incO b _ _ _ _).aside.trans
    (State.onlyObj_incO d _ _ _ _).aside))
  have h3 : s.aside f := .ite (h2.trans (State.onlyObj_setO _ _ _ _ _).aside) h2
  exact h3.trans (State.onlyObj_setO _ _ _ _ _).aside
theorem State.aside_postF (k : Nat) (s : State) (r : Rec) : s.aside (State.postF k s r) := by
  induction k generalizing s r with
  | zero => exact .refl s
  | succ k ih =>
    unfold State.postF
    split
    rename_i a w hw
    have h1 : s.aside a := by have := State.aside_logRecord s r; rw [hw] at this; exact this
    extract_lets c
    split
    rename_i b n hb
    have h2 : s.aside b := by
      split_ifs at hb with hd
      · cases hb; exact h1
      · have := State.aside_produce a 5 0 w; rw [hb] at this; exact h1.trans this
    extract_lets d e
    have h3 : s.aside d := by
      dsimp only [d]
      split
      · exact h2
      · have h4 := fun q => h2.trans (State.onlySem_signalBase b q 1).aside
        split
        · exact (h4 _).trans (ih _ _)
        · exact h4 _
    have h5 : s.aside e := .ite (.ite (h3.trans (State.aside_masterRecord _ _)) (.ite
      (h3.trans ((State.aside_emit _ _).trans (State.onlyHold_toMaster _ _).aside)) h3)) h3
    exact h5.trans (State.aside_classEffect _ _ _)

/-- An error record. -/
theorem State.aside_post (s : State) (r : Rec) : s.aside (s.post r) := by
  unfold State.post; exact State.aside_postF _ _ _

theorem State.aside_signal (s : State) (q n : Nat) : s.aside (s.signal q n) := by
  unfold State.signal
  split
  rename_i a b h
  have h1 : s.aside a := by have := (State.onlySem_signalBase s q n).aside; rw [h] at this; exact this
  exact .ite (h1.trans (State.aside_post _ _)) h1
theorem State.aside_notify (s : State) (n : Option Nat) : s.aside (s.notify n) := by
  unfold State.notify; split
  · exact State.aside_signal _ _ _
  · exact .refl s

/-- An event. -/
theorem State.aside_event (s : State) (target typ source tag sem entry : Nat) :
    s.aside (s.event target typ source tag sem entry) := by
  unfold State.event
  split
  extract_lets w
  split
  rename_i a n h
  have h1 : s.aside a := by have := State.aside_produce s 4 target w; rw [h] at this; exact this
  exact h1.trans (State.aside_notify _ _)

/-! ### The semaphore bank -/

theorem State.aside_semMisuse (s : State) (q : Nat) (who : SemWho) : s.aside (s.semMisuse q who) :=
  (State.onlyObj_incO _ _ _ _ _).aside.trans (State.aside_post _ _)
theorem State.aside_unrec (s : State) (l : List SemReq) : s.aside { s with unrec := l } := ⟨rfl, id⟩
theorem State.aside_semWaitOp (s : State) (q n : Nat) (lock : Bool) (who : SemWho) : s.aside (s.semWaitOp q n lock who).1 := by
  unfold State.semWaitOp
  extract_lets x a r b
  have h1 : s.aside a := (State.onlyObj_incO s _ _ _ _).aside
  have h2 : s.aside b := h1.trans (State.onlySem_setSem a _ _).aside
  split_ifs
  all_goals first
    | exact State.aside_semMisuse _ _ _
    | exact h1
    | exact h1.trans (State.onlySem_setSem a _ _).aside
    | exact h1.trans (State.aside_unrec a _)
    | exact h2.trans (State.onlyObj_maxO _ _ _ _ _).aside
theorem State.aside_semTryOp (s : State) (q n : Nat) (who : SemWho) : s.aside (s.semTryOp q n who).1 := by
  by_cases h : n = 0
  · unfold State.semTryOp; rw [if_pos h]; exact State.aside_semMisuse _ _ _
  · exact (State.onlySem_semTryOp s q n who h).aside
theorem State.aside_semLockTry (s : State) (q : Nat) (who : SemWho) : s.aside (s.semLockTry q who).1 := by
  unfold State.semLockTry
  extract_lets x a
  have h1 : s.aside a := (State.onlyObj_incO s _ _ _ _).aside
  split_ifs
  all_goals first
    | exact State.aside_semMisuse _ _ _
    | exact h1
    | exact h1.trans (State.onlySem_setSem a _ _).aside
theorem State.aside_semUnlockOp (s : State) (q : Nat) (who : SemWho) : s.aside (s.semUnlockOp q who).1 := by
  unfold State.semUnlockOp
  extract_lets x o a b c
  have h1 : s.aside c := (State.onlyObj_incO s _ _ _ _).aside.trans ((State.onlySem_setSem a _ _).aside.trans
    (State.onlySem_semGrants _ b _).aside)
  split_ifs
  · exact h1.trans ((State.onlyObj_incO _ _ _ _ _).aside.trans (State.aside_post _ _))
  · exact h1
  · exact State.aside_semMisuse _ _ _
theorem State.aside_semSignalOp (s : State) (q n : Nat) (who : SemWho) : s.aside (s.semSignalOp q n who).1 := by
  unfold State.semSignalOp; split_ifs
  · exact State.aside_semMisuse _ _ _
  · exact State.aside_signal _ _ _
theorem State.aside_semOrphan (s : State) (q : Nat) : s.aside (s.semOrphan q) := by
  unfold State.semOrphan
  extract_lets x a b c d
  refine .ite ?_ (.refl s)
  exact (State.onlySem_setSem s _ _).aside.trans ((State.onlySem_orphanAll _ a).aside.trans
    ((State.onlyObj_incO b _ _ _ _).aside.trans ((State.aside_event c _ _ _ _ _ _).trans (State.aside_post d _))))
theorem State.aside_regrant (s : State) : s.aside s.regrant :=
  State.aside.foldl (fun t (p : Nat × Sem) => (State.onlySem_semGrants p.2.waits.length t p.1).aside) _ s
theorem State.aside_loseOwners (s : State) (gone : SemReq → Bool) (lost : Nat → Bool) : s.aside (s.loseOwners gone lost) := by
  unfold State.loseOwners
  extract_lets a held
  have h1 : s.aside a := ⟨rfl, fun h => h⟩
  exact (h1.trans (State.aside.foldl State.aside_semOrphan _ a)).trans (State.aside_regrant _)
theorem State.aside_loseOwner (s : State) (id : Nat) : s.aside (s.loseOwner id) := State.aside_loseOwners s _ _
theorem State.aside_semReissue (s : State) (r : SemReq) : s.aside (s.semReissue r) := by
  unfold State.semReissue
  extract_lets a x b c
  have h1 : s.aside a := .ite (.refl s) (State.onlyObj_incO s _ _ _ _).aside
  have h2 : s.aside b := h1.trans (State.onlySem_setSem a _ _).aside
  have h3 : s.aside c := h1.trans (State.onlySem_setSem a _ _).aside
  exact .ite (h1.trans (State.onlySem_deliver a _ _).aside) (.ite (h2.trans (State.onlySem_deliver b _ _).aside)
    (.ite (h1.trans (State.aside_unrec a _)) (h3.trans (State.onlyObj_maxO c _ _ _ _).aside)))

/-! ### Leave (R486 to R488) -/

theorem State.aside_makeReady (s : State) (id : Nat) (o : Op) : s.aside (s.makeReady id o) := ⟨rfl, fun h => h⟩
theorem State.aside_resvs (s : State) (l : List Resv) : s.aside { s with resvs := l } := ⟨rfl, id⟩
theorem State.aside_leaveQ (s : State) (l : List Nat) : s.aside { s with leaveQ := l } := ⟨rfl, id⟩
theorem State.aside_readyQ (s : State) (l : List Nat) : s.aside { s with readyQ := l } := ⟨rfl, id⟩
theorem State.aside_claim (s : State) (r : Resv) : s.aside (s.claim r) := by
  unfold State.claim; split
  · exact .refl s
  · exact (State.aside_makeReady s _ _).trans (State.aside_resvs _ _)
theorem State.aside_serve (k : Nat) (s : State) : s.aside (State.serve k s) := by
  induction k generalizing s with
  | zero => exact .refl s
  | succ k ih =>
    unfold State.serve
    extract_lets used waiting
    refine .ite (.ite (State.onlyHold_holdNow s _ _).aside (.refl s)) ?_
    split
    · extract_lets c m a b
      have h1 : s.aside b := (State.aside_resvs s _).trans ((State.onlyObj_incO a _ _ _ _).aside.trans (State.aside_claim _ _))
      exact .ite (h1.trans ((State.onlyHold_judge _ _).aside.trans (ih _))) (.refl s)
    · split
      · exact .refl s
      · split
        · exact (State.aside_leaveQ s _).trans (ih _)
        · rename_i o _
          extract_lets c x a
          have h1 : s.aside a := (State.aside_makeReady s _ _).trans (State.aside_leaveQ _ _)
          have h2 : s.aside ((a.incO Obj.LEAVE_GRANTS).judge o.table) :=
            h1.trans ((State.onlyObj_incO a _ _ _ _).aside.trans (State.onlyHold_judge _ _).aside)
          exact .ite (h2.trans (ih _)) (.refl s)
theorem State.aside_serveLeave (s : State) : s.aside s.serveLeave := State.aside_serve _ _
theorem State.aside_hasWaited (s : State) (o : Op) : s.aside (s.hasWaited o) := by
  unfold State.hasWaited; exact .ite ⟨rfl, id⟩ (.refl s)
theorem State.aside_takeReserved (s : State) (id : Nat) (o : Op) : s.aside (s.takeReserved id o) := by
  unfold State.takeReserved; split
  · exact (State.aside_makeReady s _ _).trans (State.aside_resvs _ _)
  · exact (State.onlySem_setOp s _ _).aside.trans ((State.aside_hasWaited _ _).trans (State.onlyHold_judge _ _).aside)
theorem State.aside_dropReserved (s : State) (e : Option (Nat × Nat × Nat)) : s.aside (s.dropReserved e) := by
  unfold State.dropReserved; split
  · exact .refl s
  · extract_lets kept
    exact .ite (.refl s) ((State.aside_resvs s kept).trans (State.aside_serveLeave _))
theorem State.aside_requestLeave (s : State) (id : Nat) (o : Op) : s.aside (s.requestLeave id o) := by
  unfold State.requestLeave
  extract_lets w a b
  have h1 : s.aside b := State.aside.trans (t := a) ⟨rfl, fun h => h⟩ (State.aside_serveLeave a)
  refine .ite (State.aside_makeReady _ _ _) (.ite (State.aside_takeReserved _ _ _) ?_)
  split
  · exact .ite (h1.trans ((State.onlyObj_incO _ _ _ _ _).aside.trans ((State.aside_hasWaited _ _).trans
      (State.onlyHold_judge _ _).aside))) h1
  · exact h1

/-! ### The course of an operation (R38 to R40) -/

theorem State.aside_dropOp (s : State) (id : Nat) : s.aside (s.dropOp id) := ⟨rfl, fun h => h⟩
theorem State.aside_thrEnd (s : State) (id : Nat) (o : Op) : s.aside (s.thrEnd id o) := by
  unfold State.thrEnd
  extract_lets d t keep a
  exact .ite ((State.onlySem_setThr s _ _).aside.trans (t := a) ⟨rfl, fun h => h⟩) (.refl s)
theorem State.aside_fenceWake (s : State) (core ctx : Nat) : s.aside (s.fenceWake core ctx) := by
  unfold State.fenceWake; exact .ite (State.onlySem_setCtx _ _ _ _).aside (.refl s)

/-- An operation ends. -/
theorem State.aside_endOp (s : State) (id : Nat) (o : Op) : s.aside (s.endOp id o) := by
  unfold State.endOp
  extract_lets a b c
  have h1 : s.aside a := ⟨rfl, fun h => h⟩
  have h2 : s.aside b := h1.trans ((State.aside_thrEnd a _ _).trans ((State.aside_dropOp _ _).trans (State.aside_serveLeave _)))
  have h3 : s.aside c := .ite (h2.trans (State.aside_fenceWake _ _ _)) h2
  exact h3.trans (State.onlyHold_judge _ _).aside
theorem State.aside_ringDone (s : State) (o : Op) : s.aside (s.ringDone o) := by
  unfold State.ringDone
  extract_lets r a
  exact .ite ((State.aside_setRing s _ _).trans (State.aside_notify a _)) (.refl s)

/-- A refusal. -/
theorem State.aside_refuse (s : State) (id : Nat) (o : Op) (r : Refused) : s.aside (s.refuse id o r) := by
  unfold State.refuse
  extract_lets a b c d
  have h0 : a.aside (if r.counted then a.countRefused (opUnit o.desc) else a) :=
    .ite (State.onlyObj_countRefused a _).aside (.refl a)
  have h1 : s.aside c := (State.aside_post s _).trans (h0.trans
    ((State.onlyObj_coreFailed _ _).aside.trans (State.aside_stopStream b _ _)))
  exact h1.trans ((State.aside_endOp c _ _).trans ((State.aside_dropReserved _ _).trans (State.onlyHold_judge d _).aside))
theorem State.aside_orphanWait (s : State) (id : Nat) (o : Op) : s.aside (s.orphanWait id o) := by
  unfold State.orphanWait
  extract_lets a b
  have h1 : s.aside b := (State.aside_post s _).trans ((State.onlyObj_coreFailed a _).aside.trans (State.aside_stopStream _ _ _))
  exact h1.trans ((State.aside_endOp b _ _).trans (State.aside_dropReserved _ _))

/-- An abandonment. -/
theorem State.aside_abandon (s : State) (id : Nat) (o : Op) (addr cause group : Nat) :
    s.aside (s.abandon id o addr cause group) := by
  unfold State.abandon
  extract_lets a b
  have h1 : s.aside b := (State.aside_post s _).trans ((State.onlyObj_countAbandoned a _).aside.trans
    (State.onlyObj_coreFailed _ _).aside)
  exact h1.trans (State.aside_endOp b _ _)
theorem State.aside_failOp (s : State) (id : Nat) (o : Op) (addr cause group : Nat) :
    s.aside (s.failOp id o addr cause group) := (State.onlySem_setOp _ _ _).aside
theorem State.aside_passed (s : State) (id : Nat) (o : Op) : s.aside (s.passed id o) := by
  unfold State.passed
  extract_lets a b
  have h1 : s.aside a := State.aside_ringDone s o
  have h2 : s.aside b := h1.trans (State.onlySem_setOp a _ _).aside
  refine .ite ?_ (h1.trans (State.aside_requestLeave _ _ _))
  split
  rename_i c r hc
  have h3 : s.aside c := by
    have := State.aside_semWaitOp b (opWsem o.desc) (opWcount o.desc) false (.op id); rw [hc] at this; exact h2.trans this
  split
  · exact h3.trans (State.aside_requestLeave _ _ _)
  · exact h3.trans (State.aside_orphanWait _ _ _)
  · exact h3.trans (State.onlyHold_judge _ _).aside
theorem State.aside_blockOp (s : State) (id : Nat) (o : Op) : s.aside (s.blockOp id o) := by
  unfold State.blockOp
  extract_lets a
  exact (State.onlySem_setOp s _ _).aside.trans ((State.aside_readyQ a _).trans (State.onlyHold_judge _ _).aside)
theorem State.aside_worked (s : State) (id : Nat) (o : Op) (f : Option Nat) : s.aside (s.worked id o f) := by
  unfold State.worked; split
  · exact (State.onlySem_setOp _ _ _).aside
  · exact State.aside_failOp _ _ _ _ _ _

/-! ### Reads and writes of memory (R378 to R380, R565) -/

theorem State.memAside_setSub (s : State) (c : Nat) (x : Subch) : s.memAside (s.setSub c x) := ⟨rfl, id⟩
theorem State.memAside_chk (s : State) (c : SMap Nat) : s.memAside { s with chk := c } := ⟨rfl, id⟩
theorem State.memAside_blob (s : State) (b : SMap (List Byte)) : s.memAside { s with blob := b } := ⟨rfl, id⟩
theorem State.memAside_countCe (s : State) (a : Nat) : s.memAside (s.countCe a) := by
  unfold State.countCe
  extract_lets c x now y b d
  have h1 : s.memAside b := (State.onlyObj_incO s _ _ _ _).aside.mem
  have h2 : s.memAside d := h1.trans (State.memAside_setSub b _ _)
  exact .ite (h2.trans ((State.onlyObj_incO d _ _ _ _).aside.trans (State.aside_post _ _)).mem)
    (h1.trans (State.memAside_setSub b _ _))
theorem State.memAside_countUe (s : State) (cw syn src : Nat) : s.memAside (s.countUe cw syn src) := by
  unfold State.countUe
  extract_lets a c x b d e f g h
  have h1 : s.memAside d := (State.memAside_setSub s _ _).trans (State.onlyObj_incO b _ _ _ _).aside.mem
  have h2 : d.onlyObj h := (State.onlyObj_setO d _ _ _ _).trans ((State.onlyObj_setO e _ _ _ _).trans
    ((State.onlyObj_setO f _ _ _ _).trans (State.onlyObj_setO g _ _ _ _)))
  exact h1.trans (h2.aside.trans (State.aside_post h _)).mem
theorem State.memAside_faultMap (s : State) (core : Nat) : s.memAside (s.faultMap core) := by
  unfold State.faultMap
  extract_lets k m b c
  exact .ite (.refl s) ((State.memAside_blob s _).trans (State.onlyObj_incO c _ _ _ _).aside.mem)
theorem State.memAside_loftCe (s : State) (core : Nat) : s.memAside (s.loftCe core) :=
  ((State.onlyObj_incO _ _ _ _ _).trans (State.onlyObj_incO _ _ _ _ _)).aside.mem
theorem State.memAside_loftUe (s : State) (core a : Nat) : s.memAside (s.loftUe core a) := by
  unfold State.loftUe
  extract_lets b c
  exact (((State.onlyObj_incO s _ _ _ _).trans (State.onlyObj_incO _ _ _ _ _)).aside.mem.trans
    (State.memAside_faultMap b _)).trans (State.aside_post c _).mem
theorem State.memAside_readCw (s : State) (cw src : Nat) : s.memAside (s.readCw cw src).1 := by
  unfold State.readCw; split
  · exact .refl s
  · extract_lets old a b
    have h1 : s.memAside b := (State.aside_poke s _ _).mem.trans (State.memAside_chk a _)
    split
    · exact h1.trans (State.memAside_loftCe b _)
    · exact h1.trans (State.memAside_countCe b _)
  · split
    · exact State.memAside_loftUe _ _ _
    · exact State.memAside_countUe _ _ _ _
theorem State.memAside_readCws (a n src : Nat) (l : List Nat) (s : State) : s.memAside (s.readCws a n src l).1 := by
  induction l generalizing s with
  | nil => exact .refl s
  | cons c cs ih => exact (State.memAside_readCw s c (s.ueSource a n src c)).trans (ih _)
theorem State.memAside_judgeCw (s : State) (cw : Nat) : s.memAside (s.judgeCw cw) := by
  unfold State.judgeCw; split
  · exact .refl s
  · exact State.memAside_loftCe _ _
  · exact State.memAside_countCe _ _
  · exact State.memAside_loftUe _ _ _
  · exact State.memAside_countUe _ _ _ _

/-- A read. -/
theorem State.memAside_readMem (s : State) (a n : Nat) : s.memAside (s.readMem a n).1 := by
  unfold State.readMem
  extract_lets cs
  split_ifs
  · exact .refl s
  · exact State.memAside_readCws _ _ _ _ _
theorem State.memAside_writeUnit (s : State) (n size a : Nat) (bs : List Byte) : s.memAside (s.writeUnit n size a bs).1 := by
  have hf : ∀ (t : State) (c : SMap Nat), t.memAside { t.poke a bs with chk := c } := fun t c =>
    (State.aside_poke t _ _).mem.trans (State.memAside_chk _ _)
  unfold State.writeUnit
  extract_lets cs fresh
  split_ifs
  · exact (State.aside_poke _ _ _).mem
  · exact hf s _
  · exact .foldl State.memAside_judgeCw cs s
  · exact .trans (.foldl (fun t c => State.memAside_readCw t c 1) cs s) (hf _ _)
theorem State.memAside_writeMemF (k : Nat) (s : State) (a : Nat) (bs : List Byte) : s.memAside (State.writeMemF k s a bs).1 := by
  induction k generalizing s a bs with
  | zero => exact .refl s
  | succ k ih =>
    unfold State.writeMemF; split
    · exact .refl s
    · exact (State.memAside_writeUnit s _ _ _ _).trans (ih _ _ _)

/-- A write. -/
theorem State.memAside_writeMem (s : State) (a : Nat) (bs : List Byte) : s.memAside (s.writeMem a bs).1 :=
  State.memAside_writeMemF _ _ _ _
theorem State.memAside_touch (l : List (Nat × Nat)) (s : State) : s.memAside (s.touch l).1 := by
  induction l generalizing s with
  | nil => exact .refl s
  | cons p l ih =>
    unfold State.touch
    split
    rename_i a b ue h
    have h1 : s.memAside a := by have := State.memAside_readMem s p.1 p.2; rw [h] at this; exact this
    split
    · exact h1
    · exact h1.trans (ih _)
theorem State.memAside_writeAll (l : List (Nat × List Byte)) (s : State) : s.memAside (s.writeAll l).1 := by
  induction l generalizing s with
  | nil => exact .refl s
  | cons p l ih =>
    unfold State.writeAll
    split
    rename_i a ue h
    have h1 : s.memAside a := by have := State.memAside_writeMem s p.1 p.2; rw [h] at this; exact this
    split
    · exact h1
    · exact h1.trans (ih _)
theorem State.memAside_touchAll (l : List Piece) (i : Nat) (s : State) : s.memAside (s.touchAll l i).1 := by
  induction l generalizing s i with
  | nil => exact .refl s
  | cons p l ih =>
    unfold State.touchAll
    have h1 := State.memAside_touch p.1 s
    split
    · rename_i a x h; rw [h] at h1; exact h1
    · rename_i a h; rw [h] at h1; exact h1.trans (ih _ _)
theorem State.memAside_writePieces (l : List Work) (i : Nat) (s : State) : s.memAside (s.writePieces l i).1 := by
  induction l generalizing s i with
  | nil => exact .refl s
  | cons p l ih =>
    unfold State.writePieces
    have h1 := State.memAside_writeAll p.writes s
    split
    · rename_i a x h; rw [h] at h1; exact h1
    · rename_i a h; rw [h] at h1; exact h1.trans (ih _ _)

end Sys2Proof.Machine
end

