-- ==== Sys2Proof/Laws/Records.lean ====
section
/-! SUPPORT. What records, events, signals and holds do: the dictionary keys that they can change, the record that stands
in the log after a post (R536 to R539), the event that stands in its ring (R361, R363), and a signal without waits (R343). -/
namespace Sys2Proof.Machine

variable {s t u : State} {k : Nat}

/-! ### Dictionary keys that stay -/

/-- The dictionary entry of key k has not changed. -/
def State.sameKey (k : Nat) (s t : State) : Prop := ∀ d, SMap.get d t.obj k = SMap.get d s.obj k

theorem State.sameKey.refl (s : State) : s.sameKey k s := fun _ => rfl
theorem State.sameKey.trans (h : State.sameKey k s t) (h' : State.sameKey k t u) : State.sameKey k s u :=
  fun d => (h' d).trans (h d)
theorem State.sameKey.ite {p : Prop} [Decidable p] (h : State.sameKey k s t) (h' : State.sameKey k s u) :
    State.sameKey k s (if p then t else u) := by split_ifs <;> assumption
theorem State.sameKey.foldl {α : Type} {f : State → α → State} (h : ∀ (s : State) a, State.sameKey k s (f s a)) (l : List α)
    (s : State) : State.sameKey k s (l.foldl f s) := by
  induction l generalizing s with
  | nil => exact .refl s
  | cons a l ih => exact (h s a).trans (ih _)

/-- A value whose key stays is the same. -/
theorem State.sameKey.getO {o : ObjDef} {i j : Nat} (h : State.sameKey (o.key i j) s t) : t.getO o i j = s.getO o i j := h _

theorem State.sameKey_of_obj (h : t.obj = s.obj) : State.sameKey k s t := fun d => by rw [h]
theorem State.sameKey_setO (s : State) (o : ObjDef) (v i j : Nat) (h : k ≠ o.key i j) :
    State.sameKey k s (s.setO o v i j) := fun d => SMap.get_set_ne' _ d _ _ _ _ h
theorem State.sameKey_incO (s : State) (o : ObjDef) (n i j : Nat) (h : k ≠ o.key i j) :
    State.sameKey k s (s.incO o n i j) := by
  unfold State.incO
  exact .ite (State.sameKey_setO _ _ _ _ _ h) (State.sameKey_setO _ _ _ _ _ h)
theorem State.sameKey_orO (s : State) (o : ObjDef) (n i j : Nat) (h : k ≠ o.key i j) :
    State.sameKey k s (s.orO o n i j) := by
  unfold State.orO
  exact .ite (.refl s) (State.sameKey_setO _ _ _ _ _ h)
theorem State.sameKey_maxO (s : State) (o : ObjDef) (n i j : Nat) (h : k ≠ o.key i j) :
    State.sameKey k s (s.maxO o n i j) := by
  unfold State.maxO
  exact .ite (State.sameKey_setO _ _ _ _ _ h) (.refl s)

/-- Keys that a signal changes, a change of the device state, a stop request, and a record. -/
def signalKeys : List Nat := [Obj.SEM_OPS.key, Obj.SEM_OVERFLOWS.key]
def deviceKeys : List Nat :=
  [Obj.DEVICE_STATE.key, Obj.DEVICE_STATE_PRIOR.key, Obj.DEVICE_STATE_CHANGES.key, Obj.DEVICE_STATE_SINCE_MS.key]
def stopKeys : List Nat := [Obj.SCHED_STOP_REASON.key, Obj.SCHED_STOP_BEAT.key]
def logKeys : List Nat :=
  [Obj.ERR_LOG_LOST.key, Obj.ERR_SEQ_NEXT.key, Obj.ERR_FIRST_SEQ.key, Obj.ERR_LAST_REASON.key] ++
    (List.range 5).map fun j => Obj.ERR_COUNT.key 0 j
def effectKeys : List Nat := [Obj.FIELD_RECORDS.key, Obj.DEVICE_FAULT_REASON.key] ++ deviceKeys ++ stopKeys
def postKeys : List Nat := logKeys ++ (Obj.QUEUE_UNROUTED.key :: signalKeys) ++ effectKeys

/-- Keys that holds change. -/
def holdKeys : List Nat := [Obj.HOLD_RAISED.key, Obj.HOLD_LAST_BEAT.key, Obj.HOLD_LAST_REASON.key, Obj.SCHED_LATE_HOLDS.key]

theorem recClass_lt (r : Nat) : recClass r < 5 := by unfold recClass; split_ifs <;> decide

theorem State.sameKey_setDev (s : State) (n : Nat) (h : k ∉ deviceKeys) : State.sameKey k s (s.setDev n) := by
  simp only [deviceKeys, List.mem_cons, not_or] at h
  unfold State.setDev
  extract_lets old a b c
  exact .ite (.refl s) ((State.sameKey_setO s _ _ _ _ h.1).trans ((State.sameKey_setO a _ _ _ _ h.2.1).trans
    ((State.sameKey_incO b _ _ _ _ h.2.2.1).trans (State.sameKey_setO c _ _ _ _ h.2.2.2.1))))
theorem State.sameKey_queueCtl (s : State) (p n : Nat) (bs : List Byte) : State.sameKey k s (s.queueCtl p n bs) := by
  unfold State.queueCtl
  refine .foldl (fun s' a => ?_) _ _
  exact .ite (.refl s') (State.sameKey_of_obj rfl)
theorem State.sameKey_flood (s : State) (n x y : Nat) : State.sameKey k s (s.flood n x y) := by
  unfold State.flood
  extract_lets m w a
  have h1 : State.sameKey k s a := State.sameKey_of_obj rfl
  exact .ite h1 (h1.trans (State.sameKey_queueCtl _ _ _ _))
theorem State.obj_toMaster (s : State) (body : List Byte) : (s.toMaster body).obj = s.obj := by
  unfold State.toMaster; split
  · rfl
  · split_ifs <;> rfl

theorem State.sameKey_sendHold (s : State) (c : Cond) (h : k ∉ holdKeys) : State.sameKey k s (s.sendHold c) := by
  simp only [holdKeys, List.mem_cons, not_or] at h
  unfold State.sendHold
  extract_lets a b d e w f g
  have h1 : State.sameKey k s d := (State.sameKey_incO s _ _ _ _ h.1).trans ((State.sameKey_setO a _ _ _ _ h.2.1).trans
    (State.sameKey_setO b _ _ _ _ h.2.2.1))
  have h2 : State.sameKey k s e := .ite (h1.trans (State.sameKey_incO _ _ _ _ _ h.2.2.2.1)) h1
  exact h2.trans ((State.sameKey_of_obj (s := e) (t := f) rfl).trans ((State.sameKey_flood f _ _ _).trans
    (State.sameKey_of_obj rfl)))
theorem State.sameKey_setCond (s : State) (n : Nat) (c : Option (Nat × Nat)) (h : k ∉ holdKeys) :
    State.sameKey k s (s.setCond n c) := by
  unfold State.setCond
  extract_lets rest now w
  refine State.sameKey.trans (t := { s with alm := { s.alm with conds := now } }) (State.sameKey_of_obj rfl) ?_
  unfold State.syncHold; split
  · exact .refl _
  · unfold State.sendRelease
    extract_lets w a
    exact (State.sameKey_of_obj (t := a) rfl).trans ((State.sameKey_flood a _ _ _).trans (State.sameKey_of_obj rfl))
  · exact .ite (.refl _) (State.sameKey_sendHold _ _ h)
theorem State.sameKey_holdNow (s : State) (n r : Nat) (h : k ∉ holdKeys) : State.sameKey k s (s.holdNow n r) := by
  unfold State.holdNow; exact .ite (.refl s) (State.sameKey_setCond _ _ _ h)
theorem State.sameKey_judge (s : State) (n : Nat) (h : k ∉ holdKeys) : State.sameKey k s (s.judge n) := by
  unfold State.judge
  extract_lets x mine l at_ next full a b c d
  exact (State.sameKey_setCond s _ _ h).trans ((State.sameKey_setCond a _ _ h).trans ((State.sameKey_setCond b _ _ h).trans
    ((State.sameKey_setCond c _ _ h).trans (State.sameKey_setCond d _ _ h))))

theorem State.obj_deliver (s : State) (w : SemWho) (r : Nat) : (s.deliver w r).obj = s.obj := by
  unfold State.deliver; split
  · dsimp only; split_ifs <;> rfl
  · unfold State.modOp; split <;> rfl
  · unfold State.modOp; split <;> rfl
  · rfl
  · rfl
theorem State.obj_semGrants (m : Nat) (s : State) (n : Nat) : (s.semGrants n m).obj = s.obj := by
  induction m generalizing s with
  | zero => rfl
  | succ m ih =>
    unfold State.semGrants
    extract_lets x
    split
    · rfl
    · split_ifs
      · rw [ih, State.obj_deliver]; rfl
      · rfl
      · rw [ih, State.obj_deliver]; rfl
      · rfl
theorem State.log_deliver (s : State) (w : SemWho) (r : Nat) : (s.deliver w r).log = s.log := by
  rw [State.onlySem_deliver s w r]

theorem State.sameKey_signalBase (s : State) (q n : Nat) (h : k ∉ signalKeys) : State.sameKey k s (s.signalBase q n).1 := by
  simp only [signalKeys, List.mem_cons, not_or] at h
  unfold State.signalBase
  extract_lets a x o b c
  have h1 : State.sameKey k s a := State.sameKey_incO s _ _ _ _ h.1
  have h2 : State.sameKey k s b := h1.trans (State.sameKey_of_obj rfl)
  have h3 : State.sameKey k s c := .ite (h2.trans (State.sameKey_incO b _ _ _ _ h.2.1)) h2
  split_ifs
  · exact h1
  · exact h3.trans (State.sameKey_of_obj (State.obj_semGrants _ c q))
theorem State.sameKey_produce (s : State) (b n w : Nat) (h : k ≠ Obj.QUEUE_UNROUTED.key) :
    State.sameKey k s (s.produce b n w).1 := by
  unfold State.produce; split
  · exact State.sameKey_incO _ _ _ _ _ h
  · extract_lets r c d
    split_ifs <;> exact State.sameKey_of_obj rfl

theorem State.sameKey_takeStop (s : State) (b : Nat) (h : k ∉ stopKeys) : State.sameKey k s (s.takeStop b) := by
  simp only [stopKeys, List.mem_cons, not_or] at h
  unfold State.takeStop State.stopAt
  extract_lets x y
  have h1 : State.sameKey k s x := .ite (.refl s) (State.sameKey_setO s _ _ _ _ h.1)
  have h2 : State.sameKey k s y := h1.trans (State.sameKey_setO x _ _ _ _ h.2.1)
  exact .ite (.refl s) (h2.trans (State.sameKey_of_obj rfl))
theorem State.sameKey_stopRequest (s : State) (r : Nat) (h : k ∉ stopKeys) : State.sameKey k s (s.stopRequest r) := by
  have h0 : k ≠ Obj.SCHED_STOP_REASON.key := by simp only [stopKeys, List.mem_cons, not_or] at h; exact h.1
  unfold State.stopRequest State.askStop
  extract_lets a w x
  have h1 : State.sameKey k s x := .ite (.refl s) ((State.sameKey_setO s _ _ _ _ h0).trans (State.sameKey_of_obj (s := a) rfl))
  refine .ite (.ite (.refl s) (.ite ?_ (h1.trans (State.sameKey_flood x _ _ _)))) (.refl s)
  unfold State.masterStopAt
  exact .ite h1 (h1.trans ((State.sameKey_takeStop x _ h).trans (State.sameKey_flood _ _ _ _)))
theorem State.sameKey_classEffect (s : State) (c r : Nat) (h : k ∉ effectKeys) : State.sameKey k s (s.classEffect c r) := by
  simp only [effectKeys, List.mem_append, List.mem_cons, not_or] at h
  have hs := h.2
  have hd := h.1.2
  have hf := h.1.1.2.1
  unfold State.classEffect
  extract_lets x
  refine .ite (State.sameKey_stopRequest s _ hs) (.ite (.ite ?_ (.ite (.refl s) ?_)) (.refl s))
  · exact (State.sameKey_setO s _ _ _ _ hf).trans ((State.sameKey_stopRequest x _ hs).trans (State.sameKey_of_obj rfl))
  · exact (State.sameKey_setO s _ _ _ _ hf).trans (State.sameKey_setDev _ _ hd)
theorem State.sameKey_masterRecord (s : State) (w : Nat) (h : k ≠ Obj.FIELD_RECORDS.key) :
    State.sameKey k s (s.masterRecord w) := by
  unfold State.masterRecord
  extract_lets a b
  have h1 : State.sameKey k s b := (State.sameKey_incO s _ _ _ _ h).trans (State.sameKey_of_obj (s := a) rfl)
  split
  · exact h1.trans (State.sameKey_of_obj rfl)
  · exact .ite (h1.trans (State.sameKey_of_obj rfl)) h1
theorem State.sameKey_logRecord (s : State) (r : Rec) (h : k ∉ logKeys) : State.sameKey k s (s.logRecord r).1 := by
  simp only [logKeys, List.mem_append, List.mem_cons, not_or, List.mem_map, List.mem_range, not_exists, not_and] at h
  have hc : k ≠ Obj.ERR_COUNT.key 0 (recClass r.reason) := fun e => h.2 _ (recClass_lt _) e.symm
  unfold State.logRecord
  split
  extract_lets c q w a l b d e f
  have h1 : State.sameKey k s a := .ite (State.sameKey_incO s _ _ _ _ h.1.1) (.refl s)
  have h2 : State.sameKey k s e := h1.trans ((State.sameKey_of_obj (s := a) (t := b) rfl).trans
    ((State.sameKey_incO b _ _ _ _ h.1.2.1).trans (State.sameKey_incO d _ _ _ _ hc)))
  have h3 : State.sameKey k s f := .ite (h2.trans (State.sameKey_setO _ _ _ _ _ h.1.2.2.1)) h2
  exact h3.trans (State.sameKey_setO _ _ _ _ _ h.1.2.2.2.1)
theorem State.sameKey_postF (m : Nat) (s : State) (r : Rec) (h : k ∉ postKeys) : State.sameKey k s (State.postF m s r) := by
  have h' := h
  simp only [postKeys, List.mem_append, List.mem_cons, not_or] at h'
  obtain ⟨⟨hl, hq, hs⟩, he⟩ := h'
  have hf : k ≠ Obj.FIELD_RECORDS.key := fun e => he (e ▸ by decide)
  induction m generalizing s r with
  | zero => exact .refl s
  | succ m ih =>
    unfold State.postF
    split
    rename_i a w hw
    have h1 : State.sameKey k s a := by have := State.sameKey_logRecord s r hl; rw [hw] at this; exact this
    extract_lets c
    split
    rename_i b n hb
    have h2 : State.sameKey k s b := by
      split_ifs at hb with hd
      · cases hb; exact h1
      · have := State.sameKey_produce a 5 0 w hq; rw [hb] at this; exact h1.trans this
    extract_lets d e
    have h3 : State.sameKey k s d := by
      dsimp only [d]
      split
      · exact h2
      · have h4 := fun q => h2.trans (State.sameKey_signalBase b q 1 hs)
        split
        · exact (h4 _).trans (ih _ _)
        · exact h4 _
    have h5 : State.sameKey k s e := .ite (.ite (h3.trans (State.sameKey_masterRecord _ _ hf)) (.ite
      (h3.trans (State.sameKey_of_obj (State.obj_toMaster (d.emit (.record w)) _))) h3)) h3
    exact h5.trans (State.sameKey_classEffect _ _ _ he)

/-- A record changes no other value of the dictionary. -/
theorem State.sameKey_post (s : State) (r : Rec) (h : k ∉ postKeys) : State.sameKey k s (s.post r) := by
  unfold State.post; exact State.sameKey_postF _ _ _ h
theorem State.sameKey_signal (s : State) (q n : Nat) (h : k ∉ postKeys) : State.sameKey k s (s.signal q n) := by
  have hs : k ∉ signalKeys := fun e => h (by simp [postKeys, e])
  have h1 := State.sameKey_signalBase s q n hs
  unfold State.signal
  split
  rename_i a b hb
  rw [hb] at h1
  exact .ite (h1.trans (State.sameKey_post _ _ h)) h1

/-- An event changes no other value of the dictionary. -/
theorem State.sameKey_event (s : State) (target typ source tag sem entry : Nat) (h : k ∉ postKeys) :
    State.sameKey k s (s.event target typ source tag sem entry) := by
  have hq : k ≠ Obj.QUEUE_UNROUTED.key := fun e => h (by simp [postKeys, e])
  unfold State.event
  split
  extract_lets w
  have h1 := State.sameKey_produce s 4 target w hq
  split
  rename_i a n ha
  rw [ha] at h1
  refine h1.trans ?_
  unfold State.notify; split
  · exact State.sameKey_signal _ _ _ h
  · exact .refl _

/-! ### The record in the log (R537, R539) -/

theorem State.log_onlySem (h : s.onlySem t) : t.log = s.log := by rw [h]
theorem State.log_produce (s : State) (b n w : Nat) : (s.produce b n w).1.log = s.log := by
  unfold State.produce; split
  · exact State.log_onlySem (State.onlyObj_incO _ _ _ _ _).hold.sem
  · extract_lets r c d
    split_ifs <;> rfl
theorem State.log_takeStop (s : State) (b : Nat) : (s.takeStop b).log = s.log := by
  unfold State.takeStop State.stopAt
  extract_lets x y
  have h1 : x.log = s.log := by dsimp only [x]; split_ifs <;> rfl
  split_ifs
  · rfl
  · exact h1
theorem State.log_stopRequest (s : State) (r : Nat) : (s.stopRequest r).log = s.log := by
  unfold State.stopRequest State.askStop
  extract_lets a w x
  have h1 : x.log = s.log := by dsimp only [x]; split_ifs <;> rfl
  split_ifs
  · rfl
  · unfold State.masterStopAt
    split_ifs
    · exact h1
    · rw [State.log_onlySem (State.onlyHold_flood _ _ _ _).sem, State.log_takeStop, h1]
  · rw [State.log_onlySem (State.onlyHold_flood _ _ _ _).sem, h1]
  · rfl
theorem State.log_classEffect (s : State) (c r : Nat) : (s.classEffect c r).log = s.log := by
  unfold State.classEffect
  extract_lets x
  split_ifs
  · exact State.log_stopRequest _ _
  · exact (State.log_stopRequest x r)
  · rfl
  · exact State.log_onlySem (State.onlyObj_setDev _ _).hold.sem
  · rfl
theorem State.log_masterRecord (s : State) (w : Nat) : (s.masterRecord w).log = s.log := by
  unfold State.masterRecord
  extract_lets a b
  have h1 : b.log = s.log := State.log_onlySem (t := a) (State.onlyObj_incO _ _ _ _ _).hold.sem
  split
  · exact h1
  · split_ifs
    · exact h1
    · exact h1

/-- What the log and its counters are after a record has been written. -/
theorem State.posted_logRecord (s : State) (r : Rec) (h : s.getO Obj.ERR_SEQ_NEXT + 1 < 2 ^ 32) :
    s.posted r (s.logRecord r).1 ∧ (s.logRecord r).2 = s.recordOf r ∧ (s.logRecord r).1.rings = s.rings ∧
      (s.logRecord r).1.sems = s.sems := by
  generalize hp : s.logRecord r = p
  unfold State.logRecord at hp
  have hrec : s.recordOf r = recWord s.recStamp.1 s.recStamp.2.1 s.recStamp.2.2 r.reason (recClass r.reason) s.origin r.source r.tag
    r.addr r.d0 r.d1 (s.getO Obj.ERR_SEQ_NEXT) := rfl
  rcases hs : s.recStamp with ⟨st, ep, bt⟩
  rw [hs] at hp hrec
  dsimp -zeta only at hp hrec
  extract_lets c q w a l b d e f at hp
  subst hp
  have ha : s.onlyObj a := .ite (State.onlyObj_incO s _ _ _ _) (.refl s)
  have hq : a.getO Obj.ERR_SEQ_NEXT = q := by
    refine State.sameKey.getO (i := 0) (j := 0) (.ite ?_ (.refl s))
    exact State.sameKey_incO _ _ _ _ _ (by decide)
  have hd : d.getO Obj.ERR_SEQ_NEXT = q + 1 := by
    have hb : b.getO Obj.ERR_SEQ_NEXT = q := hq
    dsimp only [d]
    unfold State.incO
    rw [hb, if_pos (by exact h)]
    simp
  have hs : State.sameKey Obj.ERR_SEQ_NEXT.key d (f.setO Obj.ERR_LAST_REASON r.reason) := by
    have h1 : State.sameKey Obj.ERR_SEQ_NEXT.key d e := by
      refine State.sameKey_incO d _ _ _ _ ?_
      have := recClass_lt r.reason
      simp only [ObjDef.key, Obj.ERR_SEQ_NEXT, Obj.ERR_COUNT]
      omega
    exact State.sameKey.trans (.ite (h1.trans (State.sameKey_setO e _ _ _ _ (by decide))) h1) (State.sameKey_setO f _ _ _ _ (by decide))
  have hr : b.onlyObj f := by
    have h1 : b.onlyObj e := (State.onlyObj_incO b _ _ _ _).trans (State.onlyObj_incO d _ _ _ _)
    exact .ite (h1.trans (State.onlyObj_setO _ _ _ _ _)) h1
  refine ⟨⟨?_, ?_, ?_⟩, hrec.symm, ?_, ?_⟩
  · show SMap.get 0 f.log q = s.recordOf r
    rw [show s.recordOf r = w from hrec]
    rw [State.log_onlySem hr.hold.sem]
    exact SMap.get_put_same _ _ _ _
  · show (f.setO Obj.ERR_LAST_REASON r.reason).getO Obj.ERR_SEQ_NEXT = q + 1
    rw [hs.getO, hd]
  · simp
  · show f.rings = s.rings
    rw [hr]; show a.rings = s.rings; rw [ha]
  · show f.sems = s.sems
    rw [hr]; show a.sems = s.sems; rw [ha]

theorem State.posted.later {r : Rec} (h : s.posted r t) (hl : u.log = t.log)
    (h1 : State.sameKey Obj.ERR_SEQ_NEXT.key t u) (h2 : State.sameKey Obj.ERR_LAST_REASON.key t u) : s.posted r u :=
  ⟨by rw [hl]; exact h.1, by rw [h1.getO]; exact h.2.1, by rw [h2.getO]; exact h.2.2⟩

/-- A record that overflows no semaphore stands in the log (R536 to R539). -/
theorem State.posted_post (s : State) (r : Rec) (h : s.onePost) : s.posted r (s.post r) := by
  obtain ⟨h0, hn⟩ := h
  unfold State.post recFuel State.postF
  have hp := State.posted_logRecord s r h0
  split
  rename_i a w hw
  rw [hw] at hp
  obtain ⟨hp, -, hr, hm⟩ := hp
  extract_lets c
  split
  rename_i b n hb
  have h2 : s.posted r b ∧ ∀ q, n = some q → (b.signalBase q 1).2 = false := by
    split_ifs at hb with hd
    · cases hb; exact ⟨hp, fun q e => by cases e⟩
    · have e : b = (a.produce 5 0 w).1 ∧ n = (a.produce 5 0 w).2 := by rw [hb]; exact ⟨rfl, rfl⟩
      refine ⟨?_, fun q hq => ?_⟩
      · rw [e.1]
        exact hp.later (State.log_produce _ _ _ _) (State.sameKey_produce _ _ _ _ (by decide)) (State.sameKey_produce _ _ _ _ (by decide))
      · rw [e.1]; rw [e.2] at hq
        have hf : a.ringFor 5 0 = s.ringFor 5 0 := by unfold State.ringFor; rw [hr]
        have hg : ∀ m, a.ring m = s.ring m := by intro m; unfold State.ring; rw [hr]
        have hs : ∀ m, a.sem m = s.sem m := by intro m; unfold State.sem; rw [hm]
        unfold State.produce at hq ⊢
        rw [hf] at hq ⊢
        cases hx : s.ringFor 5 0 with
        | none => rw [hx] at hq; cases hq
        | some m =>
          rw [hx] at hq
          have hc := hn m hx
          simp only [hg] at hq ⊢
          split_ifs at hq ⊢ with k1 k2
          · cases hq
            have hc2 : (s.sem (s.ring m).notify).st = 2 ∨ (s.sem (s.ring m).notify).count + 1 < 2 ^ 32 := by omega
            unfold State.signalBase
            extract_lets x0 x y z z2
            have hx2 : x = s.sem (s.ring m).notify := by
              dsimp only [x, x0]
              unfold State.sem
              rw [State.onlyObj_incO]
              exact congrArg (fun l => SMap.get {} l _) hm
            split_ifs with k3
            · rfl
            · rw [hx2] at k3
              show decide (x.count + 1 > 0xFFFFFFFF) = false
              rw [hx2]; simp only [decide_eq_false_iff_not]; omega
  extract_lets d e
  have h3 : s.posted r d := by
    dsimp only [d]
    split
    · exact h2.1
    · rename_i q
      rw [if_neg (by rw [h2.2 q rfl]; decide)]
      exact h2.1.later (State.log_onlySem (State.onlySem_signalBase _ _ _)) (State.sameKey_signalBase _ _ _ (by decide))
        (State.sameKey_signalBase _ _ _ (by decide))
  have h4 : s.posted r e := by
    dsimp only [e]
    split_ifs
    · exact h3.later (State.log_masterRecord _ _) (State.sameKey_masterRecord _ _ (by decide)) (State.sameKey_masterRecord _ _ (by decide))
    · exact h3.later ((State.log_onlySem (State.onlyHold_toMaster _ _).sem).trans rfl) (State.sameKey_of_obj (State.obj_toMaster _ _))
        (State.sameKey_of_obj (State.obj_toMaster _ _))
    · exact h3
    · exact h3
  exact h4.later (State.log_classEffect _ _ _) (State.sameKey_classEffect _ _ _ (by decide)) (State.sameKey_classEffect _ _ _ (by decide))

/-! ### A signal without waits (R343), and an event (R361, R363) -/

theorem leBytes_length (n v : Nat) : (leBytes n v).length = n := by
  induction n generalizing v with
  | zero => rfl
  | succ n ih => exact congrArg (· + 1) (ih _)

/-- A signal of a semaphore on which nobody waits adds to its count, and changes nothing else but its counter. -/
theorem State.signal_plain (s : State) (q n : Nat) (h : (s.sem q).waits = []) (hs : (s.sem q).st ≠ 2)
    (hc : (s.sem q).count + n < 2 ^ 32) :
    s.signal q n = (s.incO Obj.SEM_OPS).setSem q { s.sem q with count := (s.sem q).count + n } := by
  have hx : (s.incO Obj.SEM_OPS).sem q = s.sem q := by unfold State.sem; rw [State.onlyObj_incO]
  unfold State.signal State.signalBase
  simp only [hx, if_neg hs, h]
  have hd : decide ((s.sem q).count + n > 0xFFFFFFFF) = false := by simp only [decide_eq_false_iff_not]; omega
  simp only [hd]
  rfl

theorem State.event_eq (s : State) (target typ source tag sem entry : Nat) :
    s.event target typ source tag sem entry =
      (s.produce 4 target (s.eventWord typ source tag sem entry)).1.notify (s.produce 4 target (s.eventWord typ source tag sem entry)).2 :=
  rfl

/-- An event whose ring signals nobody stands in its ring, or is counted. -/
theorem State.eventPosted_event (s : State) (target typ source tag sem entry : Nat) (h : s.quietEvents target) :
    s.eventPosted target (s.eventWord typ source tag sem entry) (s.event target typ source tag sem entry) := by
  rw [State.event_eq]
  generalize s.eventWord typ source tag sem entry = w
  unfold State.eventPosted State.produce
  cases hx : s.ringFor 4 target with
  | none =>
    intro hc
    simp only [State.notify]
    unfold State.incO
    rw [if_pos (by exact hc)]
    simp
  | some n =>
    have hq : ¬(s.ring n).notify < 4096 := Nat.not_lt.2 (h n hx)
    simp only
    by_cases hf : (s.ring n).fill < (s.ring n).size
    · rw [if_pos hf, if_neg (Nat.not_le.2 hf)]
      simp only [if_neg hq, State.notify]
      refine ⟨by simp, ?_⟩
      have hl := leBytes_length 64 w
      have := bytesOf_putBytes s.mem ((s.ring n).slot (s.ring n).p) (leBytes 64 w)
      rw [hl] at this
      exact this
    · rw [if_neg hf, if_pos (Nat.not_lt.1 hf)]
      simp [State.notify]

end Sys2Proof.Machine
end

