-- ==== Sys2Proof/Laws/Pieces.lean ====
section
/-! SUPPORT. Reads and writes of memory whose check bits are all those of its data (R378 to R380), and what the pieces of an
operation write then. -/
namespace Sys2Proof.Machine

/-- Every codeword's check bits are those of its data. -/
def State.allClean (s : State) : Prop := ∀ c, SMap.get 0 s.chk c = 0

theorem State.allClean_of_chk {s : State} (h : s.chk = []) : s.allClean := fun c => by rw [h]; rfl
theorem State.allClean.clean {s : State} (h : s.allClean) (a n : Nat) : s.clean a n := fun c _ => h c
theorem State.allClean.poke {s : State} (h : s.allClean) (a : Nat) (bs : List Byte) : (s.poke a bs).allClean := h

theorem putBytes_append (m : List Host.Cell) (a : Nat) (xs ys : List Byte) :
    putBytes m a (xs ++ ys) = putBytes (putBytes m a xs) (a + xs.length) ys := by
  induction xs generalizing m a with
  | nil => rfl
  | cons x xs ih =>
    show putBytes (SMap.set 0 m a x) (a + 1) (xs ++ ys) = _
    rw [ih]
    show _ = putBytes (putBytes (SMap.set 0 m a x) (a + 1) xs) (a + (xs.length + 1)) ys
    congr 1; omega
theorem State.poke_append (s : State) (a : Nat) (xs ys : List Byte) :
    s.poke a (xs ++ ys) = (s.poke a xs).poke (a + xs.length) ys := by
  unfold State.poke; rw [putBytes_append]

theorem State.writeUnit_clean (s : State) (h : s.allClean) (n size a : Nat) (bs : List Byte) :
    s.writeUnit n size a bs = (s.poke a bs, false) := by
  unfold State.writeUnit
  extract_lets
  rw [if_pos]
  simp [List.all_eq_true, h _]

/-- A write of clean memory stores its bytes. -/
theorem State.writeMem_clean (s : State) (h : s.allClean) (a : Nat) (bs : List Byte) :
    s.writeMem a bs = (s.poke a bs, none) := by
  have key : ∀ (f : Nat) (s : State) (a : Nat) (bs : List Byte), s.allClean → bs.length < f →
      State.writeMemF f s a bs = (s.poke a bs, none) := by
    intro f
    induction f with
    | zero => intro s a bs _ hl; omega
    | succ f ih =>
      intro s a bs hc hl
      cases bs with
      | nil => rfl
      | cons b bs =>
        unfold State.writeMemF
        simp only [State.writeUnit_clean _ hc]
        generalize hk : (a / (if a < lpEnd then 32 else 16) + 1) * (if a < lpEnd then 32 else 16) - a = k
        have hk0 : 0 < k := by
          rw [← hk]
          have hz : 0 < (if a < lpEnd then 32 else 16) := by split_ifs <;> omega
          generalize (if a < lpEnd then 32 else 16) = z at hz
          have := Nat.lt_div_mul_add (a := a) hz
          rw [Nat.succ_mul]; omega
        have hlen : ((b :: bs).drop k).length < f := by
          rw [List.length_drop]; simp only [List.length_cons] at *; omega
        rw [ih _ _ _ (hc.poke _ _) hlen]
        refine Prod.ext ?_ rfl
        show (s.poke a ((b :: bs).take k)).poke (a + k) ((b :: bs).drop k) = s.poke a (b :: bs)
        by_cases hkl : k ≤ (b :: bs).length
        · have e := State.poke_append s a ((b :: bs).take k) ((b :: bs).drop k)
          rw [List.take_append_drop, List.length_take, Nat.min_eq_left hkl] at e
          exact e.symm
        · rw [List.take_of_length_le (by omega), List.drop_eq_nil_of_le (by omega)]; rfl
  exact key _ s a bs h (Nat.lt_succ_self _)

/-- The state after writes in order, with no check of the code. -/
def State.pokes (s : State) (ws : List (Nat × List Byte)) : State := ws.foldl (fun s w => s.poke w.1 w.2) s

theorem State.allClean.pokes {s : State} (h : s.allClean) (ws : List (Nat × List Byte)) : (s.pokes ws).allClean := by
  induction ws generalizing s with
  | nil => exact h
  | cons w ws ih => exact ih (h.poke _ _)
theorem State.pokes_append (s : State) (xs ys : List (Nat × List Byte)) : s.pokes (xs ++ ys) = (s.pokes xs).pokes ys := by
  unfold State.pokes; rw [List.foldl_append]

/-- Only memory has changed. -/
theorem State.pokes_rest (s : State) (ws : List (Nat × List Byte)) : s.pokes ws = { s with mem := (s.pokes ws).mem } := by
  induction ws generalizing s with
  | nil => rfl
  | cons w ws ih =>
    show (s.poke w.1 w.2).pokes ws = _
    rw [ih]; rfl
theorem State.pokes_canonical (s : State) (ws : List (Nat × List Byte)) (h : Memory.wf s.mem = true) :
    Memory.wf (s.pokes ws).mem = true := by
  induction ws generalizing s with
  | nil => exact h
  | cons w ws ih => exact ih _ (Memory.wf_putBytes _ _ _ h)
theorem State.byte_pokes_out (s : State) (ws : List (Nat × List Byte)) (y : Nat)
    (h : ∀ q ∈ ws, y < q.1 ∨ q.1 + q.2.length ≤ y) : (s.pokes ws).byte y = s.byte y := by
  induction ws generalizing s with
  | nil => rfl
  | cons w ws ih =>
    exact (ih _ fun q hq => h q (List.mem_cons_of_mem _ hq)).trans (State.byte_poke_out _ _ _ _ (h w List.mem_cons_self))
theorem State.peek_pokes_out (s : State) (ws : List (Nat × List Byte)) (a n : Nat)
    (h : ∀ q ∈ ws, a + n ≤ q.1 ∨ q.1 + q.2.length ≤ a) : (s.pokes ws).peek a n = s.peek a n := by
  induction ws generalizing s with
  | nil => rfl
  | cons w ws ih =>
    refine (ih _ fun q hq => h q (List.mem_cons_of_mem _ hq)).trans ?_
    apply State.peek_poke_out
    have := h w List.mem_cons_self
    omega

/-- Writes in order: each is found that no later one overlaps, and other bytes are kept. -/
theorem State.wrote_pokes (s : State) (ws : List (Nat × List Byte)) (other : Nat → Prop) : s.wrote ws other (s.pokes ws) := by
  refine ⟨?_, fun y _ h => State.byte_pokes_out _ _ _ h⟩
  intro pre a bs rest hw hr _
  rw [hw, State.pokes_append]
  refine (State.peek_pokes_out _ rest a bs.length fun q hq => ?_).trans (bytesOf_putBytes _ _ _)
  have := hr q hq
  omega

theorem State.touch_clean (s : State) (h : s.allClean) (l : List (Nat × Nat)) : s.touch l = (s, none) := by
  induction l with
  | nil => rfl
  | cons p l ih =>
    obtain ⟨a, n⟩ := p
    unfold State.touch
    rw [State.readMem_clean _ _ _ (h.clean a n)]
    exact ih
theorem State.touchAll_clean (s : State) (h : s.allClean) (l : List Piece) (i : Nat) : s.touchAll l i = (s, none) := by
  induction l generalizing i with
  | nil => rfl
  | cons p l ih =>
    unfold State.touchAll
    rw [State.touch_clean _ h]
    exact ih _
theorem State.writeAll_clean (s : State) (h : s.allClean) (ws : List (Nat × List Byte)) : s.writeAll ws = (s.pokes ws, none) := by
  induction ws generalizing s with
  | nil => rfl
  | cons w ws ih =>
    obtain ⟨a, bs⟩ := w
    unfold State.writeAll
    rw [State.writeMem_clean _ h]
    exact ih _ (h.poke _ _)
theorem State.writePieces_clean (s : State) (h : s.allClean) (ks : List Work) (i : Nat) :
    s.writePieces ks i = (s.pokes (ks.flatMap Work.writes), none) := by
  induction ks generalizing s i with
  | nil => rfl
  | cons k ks ih =>
    unfold State.writePieces
    rw [State.writeAll_clean _ h]
    simp only
    rw [ih _ (h.pokes _), List.flatMap_cons, State.pokes_append]

/-- The pieces of an operation on clean memory: all are written, with results formed from the operands before. -/
theorem State.runPieces_clean (s : State) (h : s.allClean) (ps : List Piece) :
    s.runPieces ps = (s.pokes (writesOf s ps), (ps.map fun p => p.2 s).foldl Work.join {}, none) := by
  unfold State.runPieces
  rw [State.touchAll_clean _ h]
  simp only
  rw [State.writePieces_clean _ h]
  simp only [writesOf, List.flatMap_map]

end Sys2Proof.Machine
end

