-- ==== Sys2Proof/Laws/Requests.lean ====
section
/-! SUPPORT. When a request is executed and what its answer is (R450, R462), and when an operation begins step 4 (R38). -/
namespace Sys2Proof.Machine

theorem ofBytes_leBytes (n v : Nat) (h : v < 2 ^ (8 * n)) : ofBytes (leBytes n v) = v := by
  induction n generalizing v with
  | zero => simp only [Nat.mul_zero, Nat.pow_zero] at h; show 0 = v; omega
  | succ n ih =>
    show (BitVec.ofNat 8 v).toNat + 256 * ofBytes (leBytes n (v / 256)) = v
    rw [ih _ (by rw [Nat.div_lt_iff_lt_mul (by decide)]; rw [Nat.mul_succ, Nat.pow_add] at h; exact h)]
    simp only [BitVec.toNat_ofNat]
    omega

theorem State.onlyObj_received (s : State) (n : Net) : s.onlyObj (s.received n) := by
  unfold State.received State.ethCount
  extract_lets a b
  have h1 : s.onlyObj a := .ite (.refl s) (State.onlyObj_incO s _ _ _ _)
  have h2 : s.onlyObj b := .ite h1 (h1.trans (State.onlyObj_incO a _ _ _ _))
  exact State.onlyObj.trans (.ite h2 (h2.trans (State.onlyObj_incO b _ _ _ _))) (State.onlyObj_incO _ _ _ _ _)

/-- A datagram that the port takes is used once its frame is counted (R431, R433, R456). -/
theorem State.onNet_takes (s : State) (n : Net) (dport : Nat) (use : State → Out) (h : s.takes n dport) :
    s.onNet n dport use = use (s.received n) := by
  have hp := h.port
  unfold State.onNet State.onFrame
  rw [if_neg (by omega), if_neg (by rw [h.up]; decide)]
  dsimp only
  rw [if_pos h.frame, if_pos h.net]
  rfl

/-- A request that the session accepts is executed and answered (R450). -/
theorem State.serveReq_accepted (s : State) (h : YHdr) (typ : Nat) (body : List Byte)
    (run : State → Nat → State × Nat × List Byte) (ha : s.accepts (.ydp h) typ body) :
    s.serveReq h typ body run = .next ((run (s.taken (.ydp h)) (sessionSlot h)).1.answered s (.ydp h) typ
      (run (s.taken (.ydp h)) (sessionSlot h)).2.1 0 (run (s.taken (.ydp h)) (sessionSlot h)).2.2) := by
  obtain ⟨h1, ht, h2, h3, h4, h5, hp, hr, hb⟩ := ha
  have hx : ∀ n, (s.received h.net).session n = s.session n := by
    intro n; unfold State.session; rw [State.onlyObj_received]
  have hf : (s.received h.net).sessionFits h 2 = s.sessionFits h 2 := by
    unfold State.sessionFits; simp only [hx]
  have hn : h.typ = none := by
    unfold YHdr.plain at hp; exact (of_decide_eq_true hp).2.2.2.2
  unfold State.serveReq State.onYdp State.taken
  rw [if_neg (by rw [h1]; decide), State.onNet_takes s _ _ _ ht]
  simp only [hx, hf, h2, hn, hr, hp, hb, Option.getD_none, Bool.and_self, if_true]
  rw [if_neg (by decide), if_neg (by rw [ne_eq, not_not]; exact h3), if_pos ⟨h4, h5⟩]
  rfl

/-- A request of a steward of a running device is executed and answered. -/
theorem State.stewardReq_accepted (s : State) (n : Nat) (f : Bool) (run : State → Nat → State × Nat × Nat) (typ : Nat)
    (body : List Byte) (ha : s.accepts (.steward n f) typ body) :
    s.stewardReq n run = .next ((run s (16 + n)).1.answered s (.steward n f) typ (run s (16 + n)).2.1 (run s (16 + n)).2.2 body) := by
  obtain ⟨h1, h2⟩ := ha
  unfold State.stewardReq
  rw [if_neg (by omega), if_neg (by rw [h2]; decide)]
  rfl

/-- A write that is accepted and passes the checks of R462 has the effect of its object. -/
theorem State.writeObj_accepted (s : State) (src : Src) (o : ObjDef) (i j v : Nat) (h : s.acceptedWrite src o i j v)
    (hf : findObj (o.index + i) (o.sub + j) = some (o, i, j)) (hi : ownedIndex (o.index + i) = true)
    (ht : o.ty ≠ .blob ∧ o.ty ≠ .str) (hr : o.acc ≠ .ro) (hz : v ≠ 0 ∨ zeroIdle o = false) :
    s.writeObj src o v i j = .next ((((s.taken src).applyWrite src.rq o i j v).1).answered s src 4
      ((s.taken src).applyWrite src.rq o i j v).2 0 []) := by
  have hv := ofBytes_leBytes o.ty.bytes v h.size
  have hl := leBytes_length o.ty.bytes v
  have key : ∀ own load, (needsLock o = true → own = true) → load = src.load →
      (s.taken src).writeReq src.rq own load (o.index + i) (o.sub + j) o.ty.code (leBytes o.ty.bytes v) =
        (s.taken src).applyWrite src.rq o i j v := by
    intro own load ho hload
    have hw : writeTarget own (o.index + i) (o.sub + j) o.ty.code (leBytes o.ty.bytes v) = .ok (some (o, i, j)) := by
      unfold writeTarget
      rw [if_neg (by rw [hi]; decide), hf]
      simp only [hl]
      rw [if_neg (by simp [ObjDef.typed, ht.1, ht.2]), if_neg hr, if_neg]
      rintro ⟨a, b⟩; rw [ho a] at b; cases b
    unfold State.writeReq
    rw [hw]
    simp only [hv]
    rw [if_neg (by rintro ⟨a, b⟩; rcases hz with c | c; exact c a; rw [c] at b; cases b),
      if_neg (by rw [hload, h.state, h.ring]; decide), h.rule]
    dsimp only
    rw [if_neg (by rw [h.reserved]; decide), if_neg (by rw [h.value]; decide)]
  have hacc := h.accepts
  unfold State.writeObj State.doWrite
  cases src with
  | ydp y =>
    simp only
    rw [State.serveReq_accepted s y 4 _ _ hacc]
    have e := key (decide ((s.taken (.ydp y)).lockHolder = sessionSlot y)) false h.owner rfl
    simp only [Src.rq] at e
    simp only [e]
    rfl
  | steward n f =>
    simp only
    rw [State.stewardReq_accepted s n f _ 4 [] ⟨hacc.1, hacc.2⟩]
    have e := key ((s.taken (.steward n f)).stewardOwns f) f h.owner rfl
    simp only [Src.rq] at e
    simp only [show s.taken (.steward n f) = s from rfl] at e ⊢
    simp only [e]
    rfl

/-- An operation that may begin step 4 begins it (R38). -/
theorem State.runOp_begins (s : State) (id : Nat) (o : Op) (u c : Nat) (check : State → Op → State × Chk)
    (run : State → Nat → Op → State) (h : s.mayRun id o u c) :
    s.runOp u c check run id = run (s.atStep4 id o) id (s.begun o) := by
  unfold State.runOp
  rw [h.here]
  simp only [h.unit, h.code]
  have hp : o.phase ≠ .submitted := by rw [h.ready]; decide
  rw [if_neg (by simp), if_neg hp, h.here]
  simp only
  rw [if_pos ⟨h.ready, h.free⟩]
  have h4 : s.start4 id o = (s.atStep4 id o, s.begun o, none) := by
    unfold State.start4 State.atStep4 State.begun
    rw [← h.scales]
  rw [h4]

/-- Where nobody waits for leave, the allotment changes nothing (R487). -/
theorem State.serveLeave_idle (s : State) (h : s.leaveQ = []) (h' : s.resvs = []) : s.serveLeave = s := by
  unfold State.serveLeave State.serve
  rw [h, h']
  simp only [firstUnmade]
  split_ifs <;> simp_all

end Sys2Proof.Machine
end

