-- ==== Sys2Proof/Tests/Slice0.lean ====
section
/-! SUPPORT. Tests: for every family of commands a state that meets the hypotheses of its statement, and single steps on
small states with results worked out from the manual; and for each check of WellFormed a command that it refuses. -/
namespace Sys2Proof.Tests
open Sys2Proof Sys2Proof.Machine

set_option Elab.async false

/-- What holds of the next state, if there is one. -/
def after (o : Out) (p : State → Bool) : Bool :=
  match o with
  | .next t => p t
  | _ => false

/-- A device in READY with context 0 of core 0 at the foot of its loft. -/
def idle : State := State.reset.setO Obj.DEVICE_STATE 3
def ready (c : Ctx) : State := idle.setCtx 0 0 { c with st := .ready, pc := loftBase 0 }
/-- Registers S1 to S3. -/
def regs (a b c : Nat) : Ctx := ((({} : Ctx).set 1 a).set 2 b).set 3 c
def insA (d : Nat) (f : Nat := 0) : InsA := { d := d, a := 1, b := 2, c := 3, fn := f }
def insI (d a : Nat) (imm : Int) : InsI := { d := d, a := a, imm := imm }

theorem ready_issues (c : Ctx) : (ready c).issues 0 0 :=
  { core_lt := by decide, ctx_lt := by decide, ready := by simp [ready], inService := rfl,
    aligned := by simp [ready, loftBase], region := by
      simp only [ready, State.ctx_setCtx_same]
      exact State.fetches_own _ _ _ (by decide +kernel) (by decide +kernel),
    clean := fun _ _ => rfl, stored := rfl }

theorem onePost_of {s : State} (h : s.getO Obj.ERR_SEQ_NEXT = 0) (h' : s.ringFor 5 0 = none) : s.onePost :=
  ⟨by rw [h]; decide, fun q hq => by rw [h'] at hq; cases hq⟩
theorem quietEvents_of {s : State} {n : Nat} (h : s.ringFor 4 n = none) : s.quietEvents n := fun q hq => by rw [h] at hq; cases hq

/-- A tensor descriptor of rank r with unit scale; strides are in bytes. -/
def td (base fmt : Nat) (ext stride : List Nat) (tid : Nat := 0) : Nat :=
  base / 16 * 2 ^ 212 + tid * 2 ^ 188 + ext.length * 2 ^ 177 + fmt * 2 ^ 175 +
    ((ext.zip [151, 127, 111, 99, 88]).map fun p => (p.1 - 1) * 2 ^ p.2).sum +
    ((stride.zip [66, 44, 22, 0]).map fun p => p.1 * 64 * 2 ^ p.2).sum
/-- A command descriptor with tensor descriptors at the loft addresses given. -/
def cmdDesc (u c cls : Nat) (ats : List Nat) (rest : Nat := 0) : Nat :=
  u * 2 ^ 124 + c * 2 ^ 116 + cls * 2 ^ 56 + 7 * 2 ^ 32 + ((ats.zip [469, 426, 383, 340]).map fun p => p.1 / 32 * 2 ^ p.2).sum + rest
def L0 : Nat := loftBase 0
/-- An operation of core 0 in READY, number 3, with descriptors and data put into its loft. -/
def opState (desc : Nat) (tds : List Nat) (data : List (Nat × List Byte)) : State :=
  let s := tds.zipIdx.foldl (fun (s : State) p => s.poke (L0 + 32 * p.2) (leBytes 32 p.1)) idle
  let s := data.foldl (fun (s : State) p => s.poke p.1 p.2) s
  { s.setOp 3 { unit := 0, stream := 0, desc := desc, phase := .ready
                got := { tds := tds.zipIdx.map fun p => (L0 + 32 * p.2, p.1) } } with readyQ := [3] }
def f32s (l : List Nat) : List Byte := l.flatMap (leBytes 4)

/-- A steward's write is accepted. -/
def okWrite (s : State) (load : Bool) (o : ObjDef) (i j v : Nat) : Bool :=
  s.alive && decide (v < 2 ^ (8 * o.ty.bytes)) && (!needsLock o || s.stewardOwns load) && s.stateAdmits load o (o.index + i) &&
    !s.ringLocked 16 o && decide (s.stateRule o = none) && decide (v &&& o.resv = 0) && s.valueOk 16 o i j v

theorem okWrite_accepted {s : State} {load : Bool} {o : ObjDef} {i j v : Nat} (h : okWrite s load o i j v = true) :
    s.acceptedWrite (.steward 0 load) o i j v := by
  simp only [okWrite, Bool.and_eq_true, Bool.or_eq_true, Bool.not_eq_true', decide_eq_true_eq] at h
  obtain ⟨⟨⟨⟨⟨⟨⟨h1, h2⟩, h3⟩, h4⟩, h5⟩, h8⟩, h6⟩, h7⟩ := h
  exact ⟨⟨by decide, h1⟩, h2, fun k => h3.elim (fun e => by rw [k] at e; cases e) id, h4, h5, h8, h6, h7⟩
def stw : Src := .steward 0 true
/-- The device STOPPED, with the owner lock held by session 0. -/
def owned : State := (State.reset.setO Obj.DEVICE_STATE 5).setO Obj.OWNER_LOCK_HOLDER 0

/-! ### Scalar instructions (R124) -/

theorem witness_scalar : (ready (regs (2 ^ 64 - 1) 2 0)).issues 0 0 ∧ (insA 4).fn % 1024 = 0 := ⟨ready_issues _, rfl⟩

/-- Register d of context 0 and its counter, after an instruction on the registers given. -/
def gives (x : Instr) (c : Ctx) (v : Nat) : Bool :=
  after (exec x (ready c)) fun t => decide ((t.ctx 0 0).get 4 = v ∧ (t.ctx 0 0).pc = loftBase 0 + 4)

theorem test_integer : (
    gives (.add 0 0 (insA 4)) (regs (2 ^ 64 - 1) 2 0) 1 ∧ gives (.sub 0 0 (insA 4)) (regs 1 2 0) (2 ^ 64 - 1) ∧
    gives (.mul 0 0 (insA 4)) (regs (2 ^ 63) 3 0) (2 ^ 63) ∧ gives (.divu 0 0 (insA 4)) (regs 7 0 0) (2 ^ 64 - 1) ∧
    gives (.divu 0 0 (insA 4)) (regs 7 2 0) 3 ∧ gives (.and 0 0 (insA 4)) (regs 12 10 0) 8 ∧
    gives (.or 0 0 (insA 4)) (regs 12 10 0) 14 ∧ gives (.xor 0 0 (insA 4)) (regs 12 10 0) 6 ∧
    gives (.shl 0 0 (insA 4)) (regs 3 127 0) (2 ^ 63) ∧ gives (.shr 0 0 (insA 4)) (regs (2 ^ 63) 64 0) (2 ^ 63) ∧
    gives (.sar 0 0 (insA 4)) (regs (2 ^ 63) 63 0) (2 ^ 64 - 1) ∧
    gives (.slt 0 0 (insA 4)) (regs (2 ^ 64 - 1) 0 0) 1 ∧ gives (.sltu 0 0 (insA 4)) (regs (2 ^ 64 - 1) 0 0) 0) := by
  decide +kernel

theorem test_immediate : (
    gives (.addi 0 0 (insI 4 1 (-1))) (regs 0 0 0) (2 ^ 64 - 1) ∧
    gives (.addi 0 0 (insI 4 1 131071)) (regs 1 0 0) 131072 ∧
    gives (.insi 0 0 (insI 4 1 (2 * 65536 - 262144 + 5))) (regs 0x1111222233334444 0 0) 0x1111000533334444 ∧
    gives (.insi 0 0 (insI 4 1 65535)) (regs 0x1111222233334444 0 0) 0x111122223333FFFF) := by decide +kernel

theorem test_zero_register : after (exec (.add 0 0 (insA 0)) (ready (regs 1 2 0))) (fun t =>
    decide ((t.ctx 0 0).get 0 = 0 ∧ (t.ctx 0 0).pc = loftBase 0 + 4)) = true := by decide +kernel

theorem test_float : (
    gives (.fadd 0 0 (insA 4)) (regs 0x3F800000 0x40000000 0) 0x40400000 ∧
    gives (.fmul 0 0 (insA 4)) (regs 0x40000000 0xC0400000 0) 0xC0C00000 ∧
    gives (.ffma 0 0 (insA 4)) (regs 0x40000000 0x40000000 0x3F800000) 0x40A00000 ∧
    gives (.fcmp 0 0 (insA 4 0)) (regs 0x3F800000 0x3F800000 0) 1 ∧
    gives (.fcmp 0 0 (insA 4 1)) (regs 0x3F800000 0x3F800000 0) 0 ∧
    gives (.fcvt 0 0 (insA 4 0)) (regs 0xC0000000 0 0) (2 ^ 64 - 2) ∧
    gives (.fcvt 0 0 (insA 4 1)) (regs (2 ^ 64 - 2) 0 0) 0xC0000000 ∧
    gives (.fcvt 0 0 (insA 4 2)) (regs 0x3F800000 0 0) 0x3C00 ∧
    gives (.fcvt 0 0 (insA 4 3)) (regs 0x3C00 0 0) 0x3F800000) := by decide +kernel

theorem witness_float : (insA 4 3).fn % 1024 ≤ 3 ∧ (insA 4 1).fn % 1024 = 1 ∧ (insA 4 2).fn % 1024 = 2 ∧
    (insA 4 3).fn % 1024 = 3 := by decide

/-- A context whose S1 points at the top 8 bytes of its loft, and one whose S1 points at the doorbells. -/
def loftTop : State := (ready (regs (loftBase 0 + loftSize - 8) 0x1122334455667788 0)).poke (loftBase 0 + loftSize - 8)
  (leBytes 8 0x0102030405060708)
def bells : State := ready (regs bellBase 7 0)

theorem witness_memory :
    (ready (regs (loftBase 0 + loftSize - 8) 0x1122334455667788 0)).issues 0 0 ∧ (ready (regs bellBase 7 0)).issues 0 0 ∧
    (∀ n, n ∈ [1, 2, 4, 8] → loftTop.access 0 (iea (insI 4 1 0) (loftTop.ctx 0 0)) n false = .ok (.loft 0) ∧
      loftTop.access 0 (iea (insI 4 1 0) (loftTop.ctx 0 0)) n true = .ok (.loft 0) ∧
      bells.access 0 (iea (insI 4 1 0) (bells.ctx 0 0)) n false = .ok .bell ∧
      bells.access 0 (iea (insI 4 1 0) (bells.ctx 0 0)) n true = .ok .bell) := by
  refine ⟨ready_issues _, ready_issues _, ?_⟩
  decide +kernel

theorem test_memory :
    after (exec (.ld8 0 0 (insI 4 1 7) 0) loftTop) (fun t => decide ((t.ctx 0 0).get 4 = 1)) ∧
    after (exec (.ld16 0 0 (insI 4 1 6) 0) loftTop) (fun t => decide ((t.ctx 0 0).get 4 = 0x0102)) ∧
    after (exec (.ld32 0 0 (insI 4 1 4) 0) loftTop) (fun t => decide ((t.ctx 0 0).get 4 = 0x01020304)) ∧
    after (exec (.ld64 0 0 (insI 4 1 0) 0) loftTop) (fun t => decide ((t.ctx 0 0).get 4 = 0x0102030405060708)) ∧
    after (exec (.st8 0 0 (insI 2 1 7)) loftTop) (fun t => decide (ofBytes (t.peek (loftBase 0 + loftSize - 8) 8) = 0x8802030405060708)) ∧
    after (exec (.st16 0 0 (insI 2 1 2)) loftTop) (fun t => decide (ofBytes (t.peek (loftBase 0 + loftSize - 8) 8) = 0x0102030477880708)) ∧
    after (exec (.st32 0 0 (insI 2 1 0)) loftTop) (fun t => decide (ofBytes (t.peek (loftBase 0 + loftSize - 8) 8) = 0x0102030455667788)) ∧
    after (exec (.st64 0 0 (insI 2 1 0)) loftTop) (fun t => decide (ofBytes (t.peek (loftBase 0 + loftSize - 8) 8) = 0x1122334455667788)) := by
  decide +kernel

theorem test_alignment : after (exec (.ld64 0 0 (insI 4 1 4) 0) (ready { regs (loftBase 0) 0 0 with noexc := true }))
    (fun t => decide ((t.ctx 0 0).get 4 = 0 ∧ (t.ctx 0 0).status ≠ 0)) = true := by decide +kernel

theorem test_branch : (
    after (exec (.beq 0 0 (insI 1 2 (-1))) (ready (regs 5 5 0))) (fun t => decide ((t.ctx 0 0).pc = loftBase 0 - 4)) ∧
    after (exec (.bne 0 0 (insI 1 2 (-1))) (ready (regs 5 5 0))) (fun t => decide ((t.ctx 0 0).pc = loftBase 0 + 4)) ∧
    after (exec (.blt 0 0 (insI 1 2 2)) (ready (regs (2 ^ 64 - 1) 0 0))) (fun t => decide ((t.ctx 0 0).pc = loftBase 0 + 8)) ∧
    after (exec (.bge 0 0 (insI 1 2 2)) (ready (regs (2 ^ 64 - 1) 0 0))) (fun t => decide ((t.ctx 0 0).pc = loftBase 0 + 4)) ∧
    after (exec (.jal 0 0 (insI 4 0 131071)) (ready (regs 0 0 0))) (fun t =>
      decide ((t.ctx 0 0).pc = loftBase 0 + 524284 ∧ (t.ctx 0 0).get 4 = loftBase 0 + 4)) ∧
    after (exec (.jr 0 0 (insI 0 1 4)) (ready (regs 0x100 0 0))) (fun t => decide ((t.ctx 0 0).pc = 0x104)) ∧
    after (exec (.jr 0 0 (insI 0 1 2)) (ready { regs 0x100 0 0 with noexc := true })) (fun t =>
      decide ((t.ctx 0 0).pc = loftBase 0 + 4))) := by decide +kernel

/-! ### Contexts and semaphores (R111, R117, R120, R343) -/

theorem witness_context : (ready (regs 5 6 7)).issues 0 0 ∧ (∀ f, f < 7 → (insA 4 f).fn % 1024 = f) ∧
    ((ready (regs 5 6 7)).ctx 0 0).get 1 = 5 ∧ (ready (regs 5 6 7)).count = 0 ∧
    ((ready (regs 5 6 7)).ctx 0 ((regs 5 6 7).get 1 % 2048)).st = .free ∧
    ((ready (regs 0 6 7)).ctx 0 ((regs 0 6 7).get 1 % 2048)).st ≠ .free := ⟨ready_issues _, by decide, by decide +kernel⟩

/-- One DMA submission of context 0 has not ended. -/
def busyDma : State := (ready {}).setOp 0 { unit := 0, stream := 5, desc := 0, ctx := 1 }
def waitsBeat (b : Nat) : State := idle.setCtx 0 0 { pc := loftBase 0, st := .waiting, wait := .beat b, dest := 4 }

theorem witness_waits : (∃ p ∈ busyDma.ops, p.2.unit = 0 ∧ p.2.stream = 5 ∧ p.2.ctx = 0 + 1) ∧
    ((waitsBeat 0).ctx 0 0).wait = .beat 0 ∧ 0 ≤ (waitsBeat 0).count ∧
    ((waitsBeat 1).ctx 0 0).wait = .beat 1 ∧ (waitsBeat 1).count < 1 ∧ ((waitsBeat 1).ctx 0 0).st = .waiting := by
  decide +kernel

theorem test_status : (
    gives (.rdst 0 0 (insA 4 0)) (regs 0 0 0) 0 ∧ gives (.rdst 0 0 (insA 4 1)) (regs 0 0 0) 0 ∧
    gives (.rdst 0 0 (insA 4 2)) (regs 0 0 0) 0 ∧ gives (.rdst 0 0 (insA 4 3)) { status := 127, noexc := true } 127 ∧
    gives (.rdst 0 0 (insA 4 3)) { status := 127 } 0 ∧ gives (.rdst 0 0 (insA 4 4)) { status := 0x1234 } 0x1234 ∧
    gives (.rdst 0 0 (insA 4 5)) { vl := 9 } 9 ∧ gives (.rdst 0 0 (insA 4 6)) { tag := 77 } 77 ∧
    after (exec (.rdst 3 5 (insA 4 0)) (idle.setCtx 3 5 { st := .ready, pc := loftBase 3 })) (fun t => decide ((t.ctx 3 5).get 4 = 5)) ∧
    after (exec (.rdst 3 5 (insA 4 1)) (idle.setCtx 3 5 { st := .ready, pc := loftBase 3 })) (fun t => decide ((t.ctx 3 5).get 4 = 3)) ∧
    after (exec (.setrc 0 0 (insA 4)) (ready (regs (2 ^ 24 + 5) (2 ^ 48 + 6) 0))) (fun t =>
      decide ((t.ctx 0 0).tid = 5 ∧ (t.ctx 0 0).korg = 6 ∧ (t.ctx 0 0).pc = loftBase 0 + 4)) ∧
    gives (.setvl 0 0 (insA 4)) (regs 9000 0 0) 8192) := by decide +kernel

theorem test_waits : (
    gives (.waitb 0 0 (insA 4)) (regs 0 0 0) 0 ∧
    after (exec (.waitb 0 0 (insA 4)) (ready (regs 1 0 0))) (fun t =>
      decide ((t.ctx 0 0).st = .waiting ∧ (t.ctx 0 0).wait = .beat 1 ∧ (t.ctx 0 0).dest = 4 ∧ (t.ctx 0 0).pc = loftBase 0 + 4)) ∧
    after (exec (.waitbResume 0 0) (waitsBeat 0)) (fun t => decide ((t.ctx 0 0).st = .ready)) ∧
    after (exec (.waitbResume 0 0) (waitsBeat 1)) (fun t => decide ((t.ctx 0 0).st = .waiting)) ∧
    after (exec (.fence 0 0 (insA 0)) busyDma) (fun t => decide ((t.ctx 0 0).st = .waiting ∧ (t.ctx 0 0).wait = .fence)) ∧
    after (exec (.fence 0 0 (insA 0)) (ready {})) (fun t => decide ((t.ctx 0 0).st = .ready ∧ (t.ctx 0 0).pc = loftBase 0 + 4))) := by
  decide +kernel

theorem test_spawn_halt : (
    after (exec (.spawn 0 0 (insA 4)) (ready (regs 2053 0x3000 9))) (fun t =>
      decide ((t.ctx 0 0).get 4 = 0 ∧ (t.ctx 0 5).st = .ready ∧ (t.ctx 0 5).pc = 0x3000 ∧ (t.ctx 0 5).get 1 = 9)) ∧
    gives (.spawn 0 0 (insA 4)) (regs 0 0 0) 1 ∧
    after (exec (.halt 0 0 (insA 0)) ((ready { op := 3 }).setOp 3 { unit := 0, stream := 0, desc := 0, phase := .executing })) (fun t =>
      decide ((t.ctx 0 0).st = .free ∧ (t.op? 3).map (·.phase) = some .executed))) := by decide +kernel

/-- Semaphore 5 as given. -/
def semIs (x : Sem) (c : Ctx) : State := (ready c).setSem 5 x
def held0 : Sem := { count := 0, st := 1, owner := 4096 * 2 ^ 32 }
def asker : SemReq := { who := .ctx 1 1 0, n := 2, sem := 5, epoch := 0 }

theorem semIs_issues (x : Sem) (c : Ctx) : (semIs x c).issues 0 0 :=
  { core_lt := by decide, ctx_lt := by decide, ready := (ready_issues c).ready, inService := rfl,
    aligned := (ready_issues c).aligned,
    region := by
      change State.fetches _ 0 ((ready c).ctx 0 0).pc = true
      simp only [ready, State.ctx_setCtx_same]
      exact State.fetches_own _ _ _ (by decide +kernel) (by decide +kernel),
    clean := fun _ _ => rfl, stored := rfl }

theorem witness_semaphore : (semIs { count := 4 } (regs 5 4 0)).issues 0 0 ∧
    ((semIs held0 (regs 5 4 0)).issues 0 0 ∧ ((semIs held0 (regs 5 4 0)).sem 5).ownedBy (.ctx 0 0 4) = true ∧
      ((semIs { count := 0, waits := [asker] } (regs 5 4 0)).sem 5).waits = [asker] ∧
      (semIs { count := 0, waits := [asker] } (regs 5 4 0)).poolUsed = 1 ∧ ((semIs { st := 2 } {}).sem 5).st = 2) := by
  exact ⟨semIs_issues _ _, semIs_issues _ _, by decide +kernel⟩

/-- Count, state and result after an instruction on semaphore 5 with n = 4. -/
def semGives (x : Instr) (y : Sem) (count st r : Nat) : Bool :=
  after (exec x (semIs y (regs 5 4 0))) fun t =>
    decide ((t.sem 5).count = count ∧ (t.sem 5).st = st ∧ (t.ctx 0 0).get 4 = r ∧ (t.ctx 0 0).st = .ready)

theorem test_semaphore : (
    semGives (.semSignal 0 0 (insA 4)) { count := 2 ^ 32 - 5 } (2 ^ 32 - 1) 0 0 ∧
    semGives (.semWait 0 0 (insA 4)) { count := 4 } 0 0 0 ∧ semGives (.semTry 0 0 (insA 4)) { count := 3 } 3 0 2 ∧
    semGives (.semTry 0 0 (insA 4)) { count := 4 } 0 0 0 ∧ semGives (.semLock 0 0 (insA 4)) { count := 1 } 0 1 0 ∧
    semGives (.semUnlock 0 0 (insA 4)) held0 1 0 0 ∧ semGives (.semWait 0 0 (insA 4)) { st := 2 } 0 2 1 ∧
    semGives (.semLock 0 0 (insA 4)) { st := 2 } 0 2 1 ∧ semGives (.semSignal 0 0 (insA 4)) { st := 2 } 0 2 0 ∧
    after (exec (.semWait 0 0 (insA 4)) (semIs { count := 3 } (regs 5 4 0))) (fun t =>
      decide ((t.ctx 0 0).st = .waiting ∧ (t.ctx 0 0).wait = .sem 5 ∧
        (t.sem 5).waits = [{ who := .ctx 0 0 4, n := 4, sem := 5, epoch := 0 }])) ∧
    after (exec (.semLock 0 0 (insA 4)) (semIs { count := 0 } (regs 5 4 0))) (fun t =>
      decide ((t.ctx 0 0).st = .waiting ∧ (t.sem 5).waits.length = 1))) := by decide +kernel

/-- A wait that was not recorded, of context 0. -/
def unrecorded (x : Sem) : State :=
  { (idle.setCtx 0 0 { pc := loftBase 0, st := .waiting, wait := .unrecorded, dest := 4 }).setSem 5 x with
    unrec := [{ who := .ctx 0 0 4, n := 2, sem := 5, epoch := 0 }] }

theorem test_reissue : (
    after (exec (.semWaitReissue 0) (unrecorded { count := 2 })) (fun t =>
      decide (t.unrec = [] ∧ (t.sem 5).count = 0 ∧ (t.ctx 0 0).st = .ready ∧ (t.ctx 0 0).get 4 = 0 ∧ t.getO Obj.SEM_WAIT_POOL_FULL = 1)) ∧
    after (exec (.semWaitReissue 0) (unrecorded { count := 1 })) (fun t =>
      decide (t.unrec = [] ∧ (t.sem 5).count = 1 ∧ (t.sem 5).waits.length = 1 ∧ (t.ctx 0 0).wait = .sem 5))) := by decide +kernel

/-! ### Vector instructions (R107, R108, R124) -/

/-- Three elements of V1 and V2, mask 2 with elements 0 and 2, and V4 and mask 4 full of ones. -/
def vecs (vl : Nat) (a b : List Nat) : State :=
  let put := fun (s : State) (r : Nat) (vs : List Nat) => vs.zipIdx.foldl (fun (s : State) p => s.setVslot 0 r p.2 p.1) s
  (put (put (put (ready { vl := vl, strict := true, noexc := true }) 1 a) 2 b) 4 (List.replicate 4 0xFFFFFFFF)).setMask 0 2 5

theorem vecs_issues (vl : Nat) (a b : List Nat) : (vecs vl a b).issues 0 0 := by
  have h : ∀ (r : Nat) (l : List (Nat × Nat)) (s : State), s.issues 0 0 →
      (l.foldl (fun (s : State) p => s.setVslot 0 r p.2 p.1) s).issues 0 0 := by
    intro r l
    induction l with
    | nil => exact fun s h => h
    | cons p l ih => exact fun s h => ih _ ⟨h.1, h.2, h.3, h.4, h.5, h.6, h.7, h.8⟩
  have k := h 4 (List.replicate 4 0xFFFFFFFF).zipIdx _ (h 2 b.zipIdx _ (h 1 a.zipIdx _ (ready_issues { vl := vl, strict := true, noexc := true })))
  exact ⟨k.1, k.2, k.3, k.4, k.5, k.6, k.7, k.8⟩

def insV (fn : Nat) (men : Bool := false) (h : Bool := false) : InsV := { d := 4, a := 1, b := 2, c := 3, men := men, msk := 2, h := h, vfn := fn }

theorem witness_vector : (vecs 3 [1, 2, 3] []).issues 0 0 ∧ (vecs 3 [1, 2, 3] []).vchk = [] ∧ (vecs 3 [1, 2, 3] []).chk = [] ∧
    ((vecs 3 [1, 2, 3] []).ctx 0 0).vl ≠ 0 ∧ ((vecs 0 [] []).ctx 0 0).vl = 0 ∧ (∀ f, f ≤ 16 → varithLegal (insV f) = true) ∧
    (∀ f, f ≤ 8 → varithLegal (insV f false true) = true) ∧ (insV 0 true).men = true ∧ (insV 6).vfn = 6 ∧ (insV 0).d < 8 :=
  ⟨vecs_issues _ _ _, rfl, rfl, by decide +kernel⟩

/-- Elements 0 to 3 of V4 after an instruction with VL = 3. -/
def vecGives (x : Instr) (a b r : List Nat) (h : Bool := false) : Bool :=
  after (exec x (vecs 3 a b)) fun t => decide ((List.range 4).map (t.velem 0 4 h) = r ∧ (t.ctx 0 0).pc = loftBase 0 + 4)

theorem test_vector_arithmetic : (
    vecGives (.varith 0 0 (insV 0)) [0x3F800000, 0x40000000, 0] [0x3F800000, 0x3F800000, 0x3F800000]
      [0x40000000, 0x40400000, 0x3F800000, 0xFFFFFFFF] ∧
    vecGives (.varith 0 0 (insV 1 true)) [0x3F800000, 0x40000000, 0] [0x3F800000, 0x3F800000, 0x3F800000]
      [0, 0xFFFFFFFF, 0xBF800000, 0xFFFFFFFF] ∧
    vecGives (.varith 0 0 (insV 2 false true)) [0x40003C00, 0x4000] [0x3C004000, 0x4000] [0x4000, 0x4000, 0x4400, 0xFFFF] true ∧
    vecGives (.varith 0 0 (insV 13)) [0xFFFFFFFF, 2, 3] [1, 2, 3] [0, 4, 6, 0xFFFFFFFF] ∧
    vecGives (.varith 0 0 (insV 14)) [0x80000000, 2, 3] [2, 2, 3] [0, 4, 9, 0xFFFFFFFF] ∧
    vecGives (.varith 0 0 (insV 11 true)) [] [] [loftBase 0 * 0, 0xFFFFFFFF, 0, 0xFFFFFFFF] ∧
    vecGives (.varith 0 0 (insV 12)) [] [] [0, 1, 2, 0xFFFFFFFF] ∧
    vecGives (.vsfn 0 0 (insV 2)) [0x40000000, 0x3F800000, 0x40800000] [] [0x3F000000, 0x3F800000, 0x3E800000, 0xFFFFFFFF] ∧
    vecGives (.vsfn 0 0 (insV 4)) [0x40000000, 0x3F800000, 0x40800000] [0x40000000, 0x40000000, 0x3F800000]
      [0x3F800000, 0x3F000000, 0x40800000, 0xFFFFFFFF]) := by decide +kernel

theorem test_vector_masks : (
    after (exec (.vcmp 0 0 (insV 0)) ((vecs 3 [0x3F800000, 0, 0x40000000] [0x3F800000, 1, 0x40000000]).setMask 0 4 15)) (fun t =>
      decide (t.mask 0 4 = 13)) ∧
    after (exec (.vsel 0 0 (insV 0 true)) (vecs 3 [1, 2, 3] [4, 5, 6])) (fun t =>
      decide ((List.range 4).map (t.velem 0 4 false) = [1, 5, 3, 0xFFFFFFFF])) ∧
    after (exec (.mop 0 0 (insV 0)) (((vecs 3 [] []).setMask 0 1 3).setMask 0 4 8)) (fun t => decide (t.mask 0 4 = 9)) ∧
    after (exec (.vred 0 0 { insV 0 with a := 2 }) (vecs 3 [] [])) (fun t => decide ((t.ctx 0 0).get 4 = 1)) ∧
    after (exec (.vred 0 0 { insV 1 with a := 2 }) (vecs 3 [] [])) (fun t => decide ((t.ctx 0 0).get 4 = 0)) ∧
    after (exec (.vred 0 0 { insV 2 with a := 2 }) (vecs 3 [] [])) (fun t => decide ((t.ctx 0 0).get 4 = 2)) ∧
    after (exec (.vred 0 0 { insV 3 with a := 7 }) (vecs 3 [] [])) (fun t => decide ((t.ctx 0 0).get 4 = 0xFFFFFFFF)) ∧
    after (exec (.vred 0 0 (insV 4)) (vecs 3 [0x40000000, 0x3F800000, 0x40400000] [])) (fun t => decide ((t.ctx 0 0).get 4 = 0x3F800000)) ∧
    after (exec (.vred 0 0 (insV 5)) (vecs 3 [0x40000000, 0x3F800000, 0x40400000] [])) (fun t => decide ((t.ctx 0 0).get 4 = 0x40400000)) ∧
    after (exec (.vred 0 0 (insV 6)) (vecs 3 [0x40000000, 0x3F800000, 0x40400000] [])) (fun t => decide ((t.ctx 0 0).get 4 = 0x40C00000))) := by
  decide +kernel

/-- V2 holds indices, S1 the foot of the loft's last kilobyte, S2 the stride, S3 the bound of the indices. -/
def vecMem (stride : Nat) : State :=
  let s := vecs 3 [] [2, 0, 1]
  let a := loftBase 0 + loftSize - 1024
  (s.setCtx 0 0 ((((s.ctx 0 0).set 1 a).set 2 stride).set 3 3)).poke a (leBytes 12 0x0000000300000002_00000001)

theorem witness_vector_memory :
    (let s := vecMem 0
     (∀ e ∈ s.active 0 0 (insV 0), inLoft 0 ((s.ctx 0 0).get 1 + e * 4) 4 = true ∧ ((s.ctx 0 0).get 1 + e * 4) % 4 = 0) ∧
      ∀ e ∈ s.active 0 0 (insV 0), s.velem 0 2 false e < (s.ctx 0 0).get 3 ∧
        inLoft 0 ((s.ctx 0 0).get 1 + 4 * s.velem 0 2 false e) 4 = true) := by decide +kernel

theorem test_vector_memory : (
    after (exec (.vld 0 0 (insV 0)) (vecMem 0)) (fun t => decide ((List.range 4).map (t.velem 0 4 false) = [1, 2, 3, 0xFFFFFFFF])) ∧
    after (exec (.vld 0 0 (insV 0)) (vecMem 8)) (fun t => decide ((List.range 4).map (t.velem 0 4 false) = [1, 3, 0, 0xFFFFFFFF])) ∧
    after (exec (.vgather 0 0 (insV 0)) (vecMem 0)) (fun t => decide ((List.range 4).map (t.velem 0 4 false) = [3, 1, 2, 0xFFFFFFFF])) ∧
    after (exec (.vst 0 0 { insV 0 with d := 2 }) (vecMem 0)) (fun t =>
      decide (ofBytes (t.peek (loftBase 0 + loftSize - 1024) 12) = 0x000000010000000000000002)) ∧
    after (exec (.vscatter 0 0 { insV 0 with d := 2 }) (vecMem 0)) (fun t =>
      decide (ofBytes (t.peek (loftBase 0 + loftSize - 1024) 12) = 0x000000020000000100000000))) := by decide +kernel

/-! ### Operations of the units (R38, R80, R96, R115, R116, R142, R384) -/

/-- Operation 3 may begin step 4. -/
def mayBegin (s : State) (u c : Nat) : Bool :=
  match s.op? 3 with
  | some o => decide (o.phase = .ready ∧ opUnit o.desc = u ∧ opCode o.desc = c ∧ s.canStart 3 o = true ∧ (s.renewAll o.got.tds).2.2 = none ∧ s.chk = [])
  | none => false

theorem mayBegin_mayRun {s : State} {u c : Nat} (h : mayBegin s u c = true) : ∃ o, s.mayRun 3 o u c ∧ s.chk = [] := by
  unfold mayBegin at h
  split at h
  · rename_i o ho
    obtain ⟨h1, h2, h3, h4, h5, h6⟩ := of_decide_eq_true h
    exact ⟨o, ⟨ho, h1, h2, h3, h4, h5⟩, h6⟩
  · cases h

def tds (fmt : Nat) : List Nat := [td (L0 + 0x1000) 1 [2, 1, 1] [8, 8], td (L0 + 0x1100) fmt [1, 2, 1] [4, 8], td (L0 + 0x1200) 1 [1, 1, 1] [4, 4]]
def pair : List (Nat × List Byte) := [(L0 + 0x1000, f32s [0x3F800000, 0x40000000]), (L0 + 0x1100, f32s [0x40400000, 0x40800000])]
def ready4 (u c : Nat) : State := opState (cmdDesc u c 0 [L0, L0 + 32, L0 + 64]) (tds 1) pair

theorem witness_unit_operation : ∀ p ∈ [(1, 1), (1, 2), (2, 1), (2, 2), (2, 3), (2, 0x10), (3, 1), (3, 2), (4, 1), (4, 2), (4, 3),
    (4, 0x10), (4, 0x11), (4, 0x12), (5, 1), (5, 2), (6, 1), (6, 2), (8, 1), (8, 2)],
    ∃ o, (ready4 p.1 p.2).mayRun 3 o p.1 p.2 ∧ (ready4 p.1 p.2).chk = [] := by
  intro p hp
  apply mayBegin_mayRun
  revert p
  decide +kernel

theorem test_matmul : after (exec (.matmul 3) (ready4 1 1)) (fun t =>
    decide (ofBytes (t.peek (L0 + 0x1200) 4) = 0x41300000 ∧ (t.op? 3).map (·.phase) = some .executed ∧
      t.getO Obj.MATRIX_STEPS_DONE = 8192)) = true := by decide +kernel

theorem test_matmul_partial : after (exec (.matmulPartial 3) (ready4 1 2)) (fun t =>
    decide (ofBytes (t.peek (L0 + 0x1200) 4) = 0x41300000)) = true := by decide +kernel

theorem test_partial_sum : after (exec (.partialSum 3)
    (opState (cmdDesc 2 1 0 [L0, L0 + 32]) [td (L0 + 0x1000) 1 [1, 1, 1, 3] [4, 4, 4], td (L0 + 0x1200) 0 [1, 1, 1] [4, 4]]
      [(L0 + 0x1000, f32s [0x3F800000, 0x40000000, 0x40400000])])) (fun t =>
    decide (ofBytes (t.peek (L0 + 0x1200) 2) = 0x4600)) = true := by decide +kernel

theorem test_permute : after (exec (.permute 3)
    (opState (cmdDesc 2 2 0 [L0, L0 + 32] (1 * 2 ^ 299)) [td (L0 + 0x1000) 2 [2, 2] [8], td (L0 + 0x1200) 2 [2, 2] [8]]
      [(L0 + 0x1000, f32s [1, 2, 3, 4])])) (fun t => decide (t.peek (L0 + 0x1200) 16 = f32s [1, 3, 2, 4])) = true := by decide +kernel

theorem test_convert : after (exec (.convert 3)
    (opState (cmdDesc 2 3 0 [L0, L0 + 32]) [td (L0 + 0x1000) 1 [2] [], td (L0 + 0x1200) 0 [2] []]
      [(L0 + 0x1000, f32s [0x3F800000, 0xC0000000])])) (fun t => decide (ofBytes (t.peek (L0 + 0x1200) 4) = 0xC0003C00)) = true := by
  decide +kernel

theorem test_copy_fill : (
    after (exec (.copy 3 0 0) (opState (cmdDesc 5 1 0 [L0, L0 + 32]) [td (L0 + 0x1000) 2 [2] [], td (L0 + 0x1200) 2 [2] []]
      [(L0 + 0x1000, f32s [0xDEADBEEF, 7])])) (fun t => decide (t.peek (L0 + 0x1200) 8 = f32s [0xDEADBEEF, 7] ∧ t.getO Obj.DMA_BYTES = 8)) ∧
    after (exec (.fill 3) (opState (cmdDesc 5 2 0 [0, L0] (0xCAFEF00D * 2 ^ 394)) [td (L0 + 0x1200) 2 [2] []] [])) (fun t =>
      decide (t.peek (L0 + 0x1200) 8 = f32s [0xCAFEF00D, 0xCAFEF00D]))) := by decide +kernel

/-! ### Rings, the life of an operation, leave (R38, R359, R360, R485 to R488) -/

def ringState (r : Ring) : State := idle.setRing 9 r
def cmdRing : Ring := { base := 0x10000, log2 := 4, binding := 2, target := 0, p := 1, c := 0 }

theorem witness_doorbell : (let r : Ring := { cmdRing with p := 2 ^ 32 - 1, c := 2 ^ 32 - 1 }
    r.binding ≠ 1 ∧ r.binding ≠ 4 ∧ (15 + 2 ^ 32 - r.p) % 2 ^ 32 ≤ 2 ^ r.log2 - (r.p + 2 ^ 32 - r.c) % 2 ^ 32 ∧
      ¬((16 + 2 ^ 32 - r.p) % 2 ^ 32 ≤ 2 ^ r.log2 - (r.p + 2 ^ 32 - r.c) % 2 ^ 32)) := by decide

theorem test_doorbell : (
    after (exec (.producerDoorbell 9 15) (ringState { cmdRing with p := 2 ^ 32 - 1, c := 2 ^ 32 - 1 })) (fun t =>
      decide ((t.ring 9).p = 15 ∧ (t.ring 9).refused = 0)) ∧
    after (exec (.producerDoorbell 9 16) (ringState { cmdRing with p := 2 ^ 32 - 1, c := 2 ^ 32 - 1 })) (fun t =>
      decide ((t.ring 9).p = 2 ^ 32 - 1 ∧ (t.ring 9).refused = 1)) ∧
    after (exec (.producerDoorbell 9 (2 ^ 32)) (ringState { cmdRing with p := 0 })) (fun t => decide ((t.ring 9).refused = 1)) ∧
    after (exec (.consumerDoorbell 9 3) (ringState { cmdRing with binding := 4, p := 3 })) (fun t => decide ((t.ring 9).c = 3)) ∧
    after (exec (.consumerDoorbell 9 4) (ringState { cmdRing with binding := 4, p := 3 })) (fun t =>
      decide ((t.ring 9).c = 0 ∧ (t.ring 9).refused = 1)) ∧
    after (exec (.consumerDoorbell 9 1) (ringState cmdRing)) (fun t => decide ((t.ring 9).refused = 1))) := by decide +kernel

/-- One descriptor of core 0's stream 0 stands in its ring. -/
def offered (d : Nat) : State := (ringState cmdRing).poke 0x10000 (leBytes 64 d)

theorem witness_submission : (offered (cmdDesc 5 2 0 [])).chk = [] ∧ opDefined (opUnit (cmdDesc 5 2 0 [])) (opCode (cmdDesc 5 2 0 [])) = true ∧
    opDefined (opUnit (cmdDesc 9 2 0 [])) (opCode (cmdDesc 9 2 0 [])) = false ∧ (offered 0).isStopped 0 0 = false ∧
    (offered 0).coreState 0 = 0 ∧ ((offered 0).ring 9).c ≠ ((offered 0).ring 9).p ∧ (offered 0).ops = [] ∧
    inLoft 0 (loftBase 0 + loftSize - 64) 64 = true := by decide +kernel

theorem onePost_offered : (offered 0).onePost := onePost_of (by decide +kernel) (by decide +kernel)

theorem test_submission : (
    after (exec (.commandDescriptorTake 9) (offered (cmdDesc 5 2 0 []))) (fun t =>
      decide (t.op? 0 = some { unit := 0, stream := 0, ring := 9, descAddr := 0x10000, desc := cmdDesc 5 2 0 [] })) ∧
    after (exec (.commandDescriptorTake 9) (offered (cmdDesc 9 2 0 []))) (fun t =>
      decide (t.op? 0 = none ∧ t.isStopped 0 0 = true ∧ t.getO Obj.ERR_LAST_REASON = 0x0101)) ∧
    after (exec (.dma 0 0 (insA 0)) ((ready (regs (L0 + 0x400) 0 0)).poke (L0 + 0x400) (leBytes 64 (cmdDesc 5 2 0 [])))) (fun t =>
      decide ((t.op? 0).map (·.stream) = some 5 ∧ (t.op? 0).map (·.ctx) = some 1 ∧ (t.ctx 0 0).pc = L0 + 4)) ∧
    after (exec (.dma 0 0 (insA 0)) ((ready (regs (L0 + 0x400) 0 0)).poke (L0 + 0x400) (leBytes 64 (cmdDesc 4 1 0 [])))) (fun t =>
      decide (t.op? 0 = none ∧ t.isStopped 0 5 = true))) := by decide +kernel

/-- Operation 3 of core 0 in a phase. -/
def phase (p : Phase) (d : Nat) : State := idle.setOp 3 { unit := 0, stream := 0, descAddr := 0x40, desc := d, phase := p }
def sigs : Nat := cmdDesc 5 2 0 [] (2 ^ 113 + 77 * 2 ^ 88)

theorem witness_operation_end : opCsemEn sigs = true ∧ opEvent sigs = false ∧ ((phase .executed sigs).sem (opCsem sigs)).st ≠ 2 ∧
    opEvent (cmdDesc 5 2 0 [] (2 ^ 110)) = true ∧ (phase .executed sigs).ringFor 4 0 = none ∧
    ((phase (.failing 5 1 0) sigs).op? 3).map (·.phase) = some (.failing 5 1 0) := by decide +kernel

theorem test_operation_end : (
    after (exec (.operationComplete 3) (phase .executed sigs)) (fun t =>
      decide (t.op? 3 = none ∧ (t.sem 77).count = 1 ∧ t.getO Obj.DMA_OPS_DONE = 1)) ∧
    after (exec (.operationComplete 3) (phase .executed (cmdDesc 5 2 0 [] (2 ^ 110)))) (fun t => decide (t.getO Obj.QUEUE_UNROUTED = 1)) ∧
    after (exec (.opAbandoned 3) (phase (.failing 5 1 0) sigs)) (fun t =>
      decide (t.op? 3 = none ∧ (t.sem 77).count = 0 ∧ t.getO Obj.DMA_ABANDONED = 1 ∧ t.getO Obj.ERR_LAST_REASON = 0x0104 ∧
        t.getO Obj.CORE_LAST_FAIL_TAG 0 = 7))) := by decide +kernel

/-- Operation 3 waits for leave at the head of the queue. -/
def waitsLeave (ask frozen : Nat) : State :=
  { (idle.setO Obj.LEAVE_FROZEN frozen).setOp 3 { unit := 0, stream := 0, desc := cmdDesc 1 1 1 [], phase := .waitLeave, ask := ask } with leaveQ := [3] }

theorem witness_leave : (waitsLeave 0 0).heldLeave + (waitsLeave 0 0).reservedLeave + (waitsLeave 0 0).effCost 0 0 ≤ (waitsLeave 0 0).pool ∧
    firstUnmade (waitsLeave 0 0).resvs = none ∧ (waitsLeave 0 1).getO Obj.LEAVE_FROZEN ≠ 0 ∧
    (let big := (waitsLeave 0 0).pool + 1
     ((waitsLeave big 0).effCost big 0 > (waitsLeave big 0).pool) ∧ (waitsLeave big 0).heldLeave = 0) := by decide +kernel

theorem test_leave : (
    after (exec .opLeaveGrant (waitsLeave 100 0)) (fun t =>
      decide ((t.op? 3).map (·.phase) = some .ready ∧ t.readyQ = [3] ∧ t.leaveQ = [] ∧ t.getO Obj.LEAVE_GRANTS = 1)) ∧
    after (exec .opLeaveGrant (waitsLeave 100 1)) (fun t => decide (t.leaveQ = [3])) ∧
    after (exec (.opWaitGrant 3) (phase .semGranted (cmdDesc 5 2 0 []))) (fun t =>
      decide ((t.op? 3).map (·.phase) = some .ready ∧ t.readyQ = [3])) ∧
    after (exec (.opWaitGrant 3) (phase .semOrphan (cmdDesc 5 2 0 []))) (fun t =>
      decide (t.op? 3 = none ∧ t.isStopped 0 0 = true ∧ t.getO Obj.ERR_LAST_REASON = 0x0102))) := by decide +kernel

/-! ### Writes by a steward (R343, R354, R365, R462) -/

theorem witness_flag_clear : ∀ p ∈ [(Obj.NUMERIC_FLAGS_CLEAR, 0, 127), (Obj.CORE_FLAGS_CLEAR, 799, 127), (Obj.UPDATE_FLAGS_CLEAR, 0, 127),
    (Obj.REDUCE_FLAGS_CLEAR, 0, 127), (Obj.THRESH_FLAGS_CLEAR, 0, 127), (Obj.SUPPLY_WARN_CLEAR, 0, 255), (Obj.PLL_LOSS_CLEAR, 0, 2 ^ 39 - 1),
    (Obj.ATTN_EMPTY_FLAG, 0, 0), (Obj.ERR_CLEAR, 0, 1), (Obj.ERR_CLEAR, 0, 2)],
    owned.acceptedWrite stw p.1 p.2.1 0 p.2.2 := by
  intro p hp
  apply okWrite_accepted
  revert p
  decide +kernel

theorem test_flag_clear : (
    after (exec (.numericFlagsClear stw 5) ((owned.setO Obj.CORE_NUMERIC_FLAGS 7 3).setO Obj.CORE_NUMERIC_FLAGS 4 799)) (fun t =>
      decide (t.getO Obj.CORE_NUMERIC_FLAGS 3 = 2 ∧ t.getO Obj.CORE_NUMERIC_FLAGS 799 = 0)) ∧
    after (exec (.coreFlagsClear stw 3 5) ((owned.setO Obj.CORE_NUMERIC_FLAGS 7 3).setO Obj.CORE_NUMERIC_FLAGS 4 799)) (fun t =>
      decide (t.getO Obj.CORE_NUMERIC_FLAGS 3 = 2 ∧ t.getO Obj.CORE_NUMERIC_FLAGS 799 = 4)) ∧
    after (exec (.updateFlagsClear stw 1) ((owned.setO Obj.UPDATE_FLAGS_CD0 3).setO Obj.UPDATE_FLAGS_CD1 1)) (fun t =>
      decide (t.getO Obj.UPDATE_FLAGS_CD0 = 2 ∧ t.getO Obj.UPDATE_FLAGS_CD1 = 0)) ∧
    after (exec (.reduceFlagsClear stw 1) (owned.setO Obj.REDUCE_FLAGS 3)) (fun t => decide (t.getO Obj.REDUCE_FLAGS = 2)) ∧
    after (exec (.threshFlagsClear stw 1) (owned.setO Obj.THRESH_FLAGS 3)) (fun t => decide (t.getO Obj.THRESH_FLAGS = 2)) ∧
    after (exec (.supplyWarnClear stw 1) (owned.setO Obj.SUPPLY_WARN_FLAGS 3)) (fun t => decide (t.getO Obj.SUPPLY_WARN_FLAGS = 2)) ∧
    after (exec (.pllLossClear stw 1) (owned.setO Obj.PLL_LOSS_FLAGS 3)) (fun t => decide (t.getO Obj.PLL_LOSS_FLAGS = 2)) ∧
    after (exec (.attnEmptyFlagClear stw) (owned.setO Obj.ATTN_EMPTY_FLAG 1)) (fun t => decide (t.getO Obj.ATTN_EMPTY_FLAG = 0)) ∧
    after (exec (.errClearCounts stw) ((owned.setO Obj.ERR_COUNT 9 0 4).setO Obj.ERR_FIRST_SEQ 3)) (fun t =>
      decide (t.getO Obj.ERR_COUNT 0 4 = 0 ∧ t.getO Obj.ERR_FIRST_SEQ = 0xFFFFFFFF)) ∧
    after (exec (.errClearFaultMap stw) (owned.faultMap 799)) (fun t => decide (t.getO Obj.CORE_FAULT_COUNT = 0))) := by decide +kernel

def ownedSem (x : Sem) (op arg : Nat) : State :=
  (((owned.setSem 5 x).setSel 16 Obj.HOST_SEM_NUMBER 5).setSel 16 Obj.HOST_SEM_ARG arg).setSel 16 Obj.SEM_SEL_NUMBER (if op = 9 then 0 else 5)

theorem witness_polled : (∀ op ∈ [1, 2, 3, 4], (ownedSem { count := 3 } op 2).acceptedWrite stw Obj.HOST_SEM_OP 0 0 op) ∧
    (∀ v ∈ [1, 2], (ownedSem { count := 3 } 1 2).acceptedWrite stw Obj.SEM_ACT_GO 0 0 v) ∧
    (let s := ownedSem { count := 0, st := 1, owner := 12288 * 2 ^ 32, waits := [asker] } 1 2
     (s.sem 5).ownedBy (.steward 0) = true ∧ (s.sem 5).waits ≠ [] ∧ s.running = false) := by
  refine ⟨fun op h => okWrite_accepted ?_, fun v h => okWrite_accepted ?_, by decide +kernel⟩
  · revert op; decide +kernel
  · revert v; decide +kernel

def stSem (x : Sem) (op arg count st r : Nat) : Bool :=
  after (exec (.stewardSemOperation 0 op 5 arg) (owned.setSem 5 x)) (fun t =>
    decide ((t.sem 5).count = count ∧ (t.sem 5).st = st ∧ t.out = [.steward 0 0 r])) &&
  after (exec (if op = 1 then .hostSemSignal stw else if op = 2 then .hostSemTry stw else if op = 3 then .hostSemLock stw else .hostSemUnlock stw)
    (ownedSem x op arg)) fun t => decide ((t.sem 5).count = count ∧ (t.sem 5).st = st ∧ t.getSel 16 Obj.HOST_SEM_RESULT = r)

theorem test_polled : (
    stSem { count := 3 } 1 (2 ^ 32 - 4) (2 ^ 32 - 1) 0 0 ∧ stSem { st := 2 } 1 2 0 2 0 ∧ stSem { count := 3 } 2 3 0 0 0 ∧
    stSem { count := 3 } 2 4 3 0 2 ∧ stSem { st := 2 } 2 4 0 2 1 ∧ stSem { count := 1 } 3 0 0 1 0 ∧ stSem { count := 0 } 3 0 0 0 2 ∧
    stSem { st := 2 } 3 0 0 2 1 ∧ stSem { st := 1, owner := 12288 * 2 ^ 32 } 4 0 1 0 0) := by decide +kernel

theorem test_acts : (
    after (exec (.semActSet stw) ((ownedSem {} 1 0).setO Obj.SEM_ACT_COUNT 6)) (fun t => decide ((t.sem 5).count = 6 ∧ t.getO Obj.SEM_ACT_STATUS = 0)) ∧
    after (exec (.semActSet stw) (ownedSem { waits := [asker] } 1 0)) (fun t => decide (t.getO Obj.SEM_ACT_STATUS = 2 ∧ t.out = [.steward 0 5 0])) ∧
    after (exec (.semActSet stw) (ownedSem { st := 1 } 1 0)) (fun t => decide (t.getO Obj.SEM_ACT_STATUS = 4)) ∧
    after (exec (.semRecoveryClear stw) ((ownedSem { st := 2 } 1 0).setO Obj.SEM_ACT_COUNT 1)) (fun t =>
      decide ((t.sem 5).count = 1 ∧ (t.sem 5).st = 0 ∧ t.getO Obj.SEM_ACT_STATUS = 0)) ∧
    after (exec (.semRecoveryClear stw) (ownedSem { st := 1 } 1 0)) (fun t => decide ((t.sem 5).st = 1 ∧ t.getO Obj.SEM_ACT_STATUS = 3))) := by
  decide +kernel

/-- A signal of 3 serves a wait for 2 and stops at a wait for 2 behind it. -/
theorem test_head : after (exec (.stewardSemOperation 0 1 5 3) (owned.setSem 5 { waits := [asker, asker, { asker with n := 1 }] })) (fun t =>
    decide ((t.sem 5).count = 1 ∧ (t.sem 5).waits.length = 2)) = true := by decide +kernel

theorem witness_overflow : (let s := owned.setSem 5 { count := 1 }
    (s.sem 5).st ≠ 2 ∧ 2 ^ 32 ≤ (s.sem 5).count + (2 ^ 32 - 1) ∧ s.ringFor 5 0 = none) ∧ (owned.setSem 5 { count := 1 }).onePost :=
  ⟨by decide +kernel, onePost_of (by decide +kernel) (by decide +kernel)⟩

theorem test_overflow : after (exec (.stewardSemOperation 0 1 5 (2 ^ 32 - 1)) (owned.setSem 5 { count := 1 })) (fun t =>
    decide ((t.sem 5).count = 2 ^ 32 - 1 ∧ t.getO Obj.SEM_OVERFLOWS = 1 ∧ t.getO Obj.ERR_LAST_REASON = 0x0302)) = true := by decide +kernel

/-! ### The almanac (R299 to R311, R323 to R331) -/

/-- A master in LOCKED with count a and grant g, alone in its field. -/
def almanac (a g : Nat) : State :=
  ((((idle.setO Obj.ALMANAC_STATE 2).setO Obj.ALMANAC_COUNT a).setO Obj.ALMANAC_GRANT g).setO Obj.ALMANAC_HORIZON 10).setO Obj.ALMANAC_ROLE 1
/-- Its schedule runs from count 0, in epochs of 1,000 beats. -/
def schedule (a g : Nat) : State :=
  let s := ((almanac a g).setO Obj.DEVICE_STATE 4).setO Obj.EPOCH_BEATS 1000
  let s := s.setO Obj.SCHED_EPOCH (a / 1000)
  { s with alm := { s.alm with started := true } }
/-- Port 2 is UP, and a member that is not the master. -/
def member (st : Nat) : State := (((almanac 5 9).setO Obj.ALMANAC_ROLE 2).setO Obj.ALMANAC_STATE st).setO Obj.PORT_STATE 3 2
def beat (s : State) : Nat := s.getO Obj.ALMANAC_BEAT_NS
def beacon (m q : Nat) : Beacon := { tick := 100, count := 50, grant := 60, beatNs := beat idle, master := m, seq := q, depth := 0, coords := 1 }

theorem witness_tick : 2 ≤ (almanac 5 5).getO Obj.ALMANAC_STATE ∧ (almanac 5 5).tickDue = false ∧ (almanac 5 5).isMaster = true ∧
    (almanac 5 5).alm.capped = false ∧ (almanac 5 5).alm.resume = none ∧ (almanac 5 5).alm.holds = [] ∧ (member 2).isMaster = false ∧
    (almanac 5 5).getO Obj.ALMANAC_COUNT ≤ (almanac 5 5).getO Obj.ALMANAC_GRANT ∧ (almanac 4 5).tickDue = false := by decide +kernel

theorem test_tick : (
    after (exec .almanacTick (almanac 4 5)) (fun t =>
      decide (t.getO Obj.ALMANAC_COUNT = 5 ∧ t.getO Obj.ALMANAC_GRANT = 15 ∧ t.getO Obj.ALMANAC_TICK = 1 ∧ t.getO Obj.ALMANAC_HELD_BEATS = 0)) ∧
    after (exec .almanacTick ((almanac 5 5).setO Obj.ALMANAC_ROLE 2)) (fun t =>
      decide (t.getO Obj.ALMANAC_COUNT = 5 ∧ t.getO Obj.ALMANAC_GRANT = 5 ∧ t.getO Obj.ALMANAC_HELD_BEATS = 1 ∧ t.getO Obj.HOLD_ACTIVE = 1)) ∧
    after (exec .almanacTick { almanac 4 5 with alm := { holds := [{ origin := 1, beat := 8, reason := 1, seq := 1 }] } }) (fun t =>
      decide (t.getO Obj.ALMANAC_COUNT = 5 ∧ t.getO Obj.ALMANAC_GRANT = 7))) := by decide +kernel

theorem witness_beacon : (almanac 5 9).getO Obj.ALMANAC_TICK % 8 = 0 ∧ (almanac 5 9).alm.sentAt ≠ 1 ∧ (member 2).portUp 2 = true ∧
    (beacon 7 1).beatNs = (member 2).getO Obj.ALMANAC_BEAT_NS ∧ (beacon 7 1).master ≠ noMaster ∧ (member 2).alm.heard = false ∧
    (beacon 7 1).coords ≠ (member 2).coordField ((member 2).neighbour 2) ∧
    ({ member 2 with alm := { heard := true, master := 3, silent := 0xFFFFFFFF } } : State).alm.master ≠ (beacon 7 1).master ∧
    (almanac 5 9).origin ≠ (beacon 7 1).master ∧ (member 2).getO Obj.ALMANAC_LOSS_TICKS ≤ 0xFFFFFFFF := by decide +kernel

theorem witness_beacon_port : (member 2).onePost ∧ ((member 2).setO Obj.PORT_STATE 2 2).getO Obj.PORT_STATE 2 = 2 ∧
    { beacon 7 1 with beatNs := 0 }.beatNs ≠ beat (member 2) ∧ ({ member 2 with alm := { heard := true, master := 3 } } : State).isMaster = false ∧
    (let s := (almanac 5 9).setO Obj.ALMANAC_TICK 7
     let b := { beacon 7 1 with tick := 7, txPs := 10, rxTick := 7, rxPs := 2 }
     s.getO Obj.ALMANAC_STATE = 2 ∧ (s.instant b.rxTick b.rxPs : Int) = s.instant 7 0 + (5 : Nat) - 3 ∧
       (s.instant (s.getO Obj.ALMANAC_TICK) 18 : Int) = s.instant b.tick b.txPs + (5 : Nat) + 3) :=
  ⟨onePost_of (by decide +kernel) (by decide +kernel), by decide +kernel⟩

theorem test_beacon_port : (
    after (exec (.beaconReceive 2 { beacon 7 1 with id := 4 } 9 0) ((member 2).setO Obj.PORT_STATE 2 2)) (fun t =>
      decide ((t.port 2).rxPs = 9 ∧ (t.port 2).rxId = 4 ∧ t.alm.heard = false)) ∧
    after (exec (.beaconReceive 2 { beacon 7 1 with beatNs := 0 } 0 0) (member 2)) (fun t =>
      decide (t.getO Obj.PORT_STATE 2 = 4 ∧ t.getO Obj.PORT_FAULT_REASON 2 = 4)) ∧
    (let s := (almanac 5 9).setO Obj.ALMANAC_TICK 7
     s.beaconOffset 18 { beacon 7 1 with tick := 7, txPs := 10, rxTick := 7, rxPs := 2 } (s.instant 7 0) = (3, 5))) := by decide +kernel

theorem test_beacon : (
    after (exec .beaconSend ((almanac 5 9).setO Obj.PORT_STATE 3 2)) (fun t =>
      decide (t.alm.masterSeq = 1 ∧ (t.port 2).beacons.length = 1 ∧ (t.port 1).beacons = [] ∧ t.alm.sentAt = 1)) ∧
    after (exec (.beaconReceive 2 (beacon 7 1) 0 0) (member 2)) (fun t =>
      decide (t.alm.master = 7 ∧ t.alm.masterSeq = 1 ∧ t.getO Obj.ALMANAC_GRANT = 60 ∧ t.getO Obj.ALMANAC_STATE = 2)) ∧
    after (exec (.beaconReceive 2 (beacon 7 1) 0 0) (member 0)) (fun t => decide (t.getO Obj.ALMANAC_STATE = 1 ∧ t.getO Obj.ALMANAC_GRANT = 9)) ∧
    after (exec (.beaconReceive 2 (beacon 7 1) 0 0) ((almanac 5 9).setO Obj.PORT_STATE 3 2)) (fun t =>
      decide (t.getO Obj.ALMANAC_STATE = 3 ∧ t.getO Obj.ERR_LAST_REASON = 0x0401)) ∧
    after (exec .almanacLost { member 2 with alm := { silent := 0xFFFFFFFF } }) (fun t => decide (t.getO Obj.ALMANAC_STATE = 3)) ∧
    after (exec .almanacLost (member 2)) (fun t => decide (t.getO Obj.ALMANAC_STATE = 2)) ∧
    after (exec (.lockHopsReport 5 3 1) (almanac 5 9)) (fun t => decide (t.alm.hops = [(5, 3, 1)] ∧ t.getO Obj.ALMANAC_SKEW_BOUND_NS = 40)) ∧
    after (exec (.lockHopsReport 5 3 1) { almanac 5 9 with linkCfg := { fields := 2 } }) (fun t => decide (t.getO Obj.ALMANAC_SKEW_BOUND_NS = 25))) := by
  decide +kernel

def upMaster : State := (schedule 5 9).setO Obj.PORT_STATE 3 2
def ctl (q : Nat) (x y : Nat) : Ctl := { origin := 6, seq := q, x := x, y := y }

theorem witness_control : upMaster.portUp 2 = true ∧ upMaster.getO Obj.ALMANAC_ROLE ≠ 3 ∧ upMaster.alm.seen = [] ∧ upMaster.stoodOut = false ∧
    upMaster.isMaster = true ∧ upMaster.alm.started = true ∧ upMaster.alm.stop = none ∧
    ({ upMaster with alm := { seen := [6 * 2 ^ 24 + 1] } } : State).alm.seen.contains (6 % 65536 * 2 ^ 24 + 1 % 2 ^ 24) = true ∧
    (let s : State := { schedule 9 9 with alm := { capped := true, stoodTicks := 100, started := true } }
     s.isMaster = true ∧ s.getO Obj.ALMANAC_COUNT = s.getO Obj.ALMANAC_GRANT ∧ s.getO Obj.ALMANAC_PATH_TICKS ≤ s.alm.stoodTicks ∧
       9 < s.underCaps (9 + s.getO Obj.ALMANAC_HORIZON)) := by decide +kernel

theorem test_control : (
    after (exec (.hold 2 (ctl 1 40 3)) upMaster) (fun t => decide (t.alm.holds = [{ origin := 6, beat := 40, reason := 3, seq := 1 }])) ∧
    after (exec (.release 2 (ctl 2 0 0)) { upMaster with alm := { upMaster.alm with holds := [{ origin := 6, beat := 40, reason := 3, seq := 1 }] } })
      (fun t => decide (t.alm.holds = [])) ∧
    after (exec (.resume 2 (ctl 3 77 6)) upMaster) (fun t => decide (t.alm.resume = some (77, 15))) ∧
    after (exec (.start 2 (ctl 4 88 2)) upMaster) (fun t => decide (t.alm.start = some (2, 88))) ∧
    after (exec (.stopRequest 2 (ctl 5 0x0407 0)) upMaster) (fun t => decide (t.alm.stop = some 1000 ∧ t.getO Obj.SCHED_STOP_BEAT = 1000)) ∧
    after (exec (.stop 2 (ctl 6 2000 0)) upMaster) (fun t => decide (t.alm.stop = some 2000)) ∧
    after (exec (.hold 2 (ctl 1 40 3)) { upMaster with alm := { seen := [6 * 2 ^ 24 + 1] } }) (fun t => decide (t.alm.holds = [])) ∧
    after (exec .masterResume { schedule 9 9 with alm := { capped := true, stoodTicks := 100, started := true } }) (fun t =>
      decide (t.alm.resume = some ((schedule 9 9).getO Obj.ALMANAC_PATH_TICKS + 4, 19)))) := by decide +kernel

theorem witness_schedule : owned.running = false ∧
    (let s := ((((almanac 5 9).setO Obj.DEVICE_STATE 5).setO Obj.OWNER_LOCK_HOLDER 0).setO Obj.ALMANAC_SKEW_BOUND_NS 40)
     okWrite s true Obj.SCHED_START 0 0 2 = true ∧ s.isMaster = true ∧ s.getO Obj.ALMANAC_STATE = 2 ∧ s.bankInvalid = false ∧
       s.updating = false ∧ s.getO Obj.ALMANAC_SKEW_BOUND_NS < s.getO Obj.ALMANAC_BEAT_NS) ∧
    okWrite (schedule 5 9) true Obj.SCHED_STOP 0 0 1 = false ∧ okWrite ((schedule 5 9).setO Obj.OWNER_LOCK_HOLDER 0) true Obj.SCHED_STOP 0 0 1 = true := by
  decide +kernel

theorem test_schedule : (
    after (exec (.schedStart stw 2) ((((almanac 5 9).setO Obj.DEVICE_STATE 5).setO Obj.OWNER_LOCK_HOLDER 0).setO Obj.ALMANAC_SKEW_BOUND_NS 40)) (fun t =>
      decide (t.alm.start = some (2, (almanac 5 9).getO Obj.ALMANAC_PATH_TICKS + 4) ∧ t.out = [.steward 0 0 0])) ∧
    after (exec (.schedStart stw 2) (((almanac 5 9).setO Obj.DEVICE_STATE 5).setO Obj.OWNER_LOCK_HOLDER 0 |>.setO Obj.ALMANAC_STATE 1)) (fun t =>
      decide (t.alm.start = none ∧ t.out = [.steward 0 3 0])) ∧
    after (exec .startTick { almanac 5 9 with alm := { start := some (2, 0) } }) (fun t =>
      decide (t.dev = 4 ∧ t.getO Obj.SCHED_E0 = 2 ∧ t.getO Obj.SCHED_E0_COUNT = 5 ∧ t.getO Obj.ALMANAC_GRANT = 15 ∧ t.alm.started = true)) ∧
    after (exec .startTick { almanac 5 9 with alm := { start := some (2, 1) } }) (fun t => decide (t.dev = 3)) ∧
    after (exec (.schedStop stw) ((schedule 5 9).setO Obj.OWNER_LOCK_HOLDER 0)) (fun t =>
      decide (t.alm.stop = some 1000 ∧ t.getO Obj.ERR_LAST_REASON = 0x0406)) ∧
    after (exec .stopComplete { schedule 999 999 with alm := { stop := some 1000 } }) (fun t => decide (t.dev = 5 ∧ t.getO Obj.DEVICE_STATE_PRIOR = 4)) ∧
    after (exec .stopComplete { schedule 998 999 with alm := { stop := some 1000 } }) (fun t => decide (t.dev = 4))) := by decide +kernel

theorem witness_stop : (let s : State := { schedule 999 999 with alm := { stop := some 1000 } }
     s.running = true ∧ s.ops = [] ∧ (s.setOp 3 { unit := 0, stream := 0, desc := 0 }).ops.all (fun p => decide (p.2.phase = .submitted ∧ p.2.entry = none)) = true ∧
       (s.setOp 3 { unit := 0, stream := 0, desc := 0, phase := .executing }).ops.any (fun p => decide (p.2.phase ≠ .submitted)) = true) ∧
    { (schedule 1000 1009).alm with e0Due := true }.e0Due = true ∧ (schedule 1000 1009).alm.e0Due = false ∧
    ({ schedule 1000 1009 with stepRun := some { boundary := 0 } } : State).stepRun.isSome = true := by decide +kernel

theorem test_stop_and_boundary : (
    after (exec .stopComplete { (schedule 999 999).setOp 3 { unit := 0, stream := 0, desc := 0, phase := .executing } with alm := { stop := some 1000 } })
      (fun t => decide (t.dev = 4)) ∧
    after (exec (.stop 2 (ctl 6 2000 0)) ((upMaster.setTable 0 { swap := some (1, 1) }).setTable 1 { swap := some (1, 2) })) (fun t =>
      decide ((t.table 0).swap = some (1, 1) ∧ (t.table 1).swap = none)) ∧
    after (exec (.epochBoundary 7 8) { ((schedule 1000 1009).setO Obj.PTP_ASSOC_EN 1).setO Obj.PTP_STATE 1 with alm := { started := true, e0Due := true } }) (fun t =>
      decide (t.alm.e0Due = false ∧ t.getO Obj.PTP_STAMP_SECONDS = 7 ∧ t.stepRun = none)) ∧
    after (exec (.epochBoundary 7 8) { ((schedule 1000 1009).setO Obj.SCHED_EPOCH 0).setO Obj.STEP_EPOCHS 1 with stepRun := some { boundary := 0 } }) (fun t =>
      decide (t.stepRun = some { boundary := 0 } ∧ t.stepQueue = [1]))) := by decide +kernel

theorem witness_hold_limit : (let s : State := { (schedule 9 9).setO Obj.HOLD_ACTIVE 1 with alm := { stoodTicks := 2 ^ 60, started := true } }
    s.isMaster = true ∧ s.running = true ∧ s.stoodOut = true ∧ s.alm.stop = none) := by decide +kernel

/-- A Sync message over Ethernet. -/
def syncFrame : EthFrame := { dst := 0x011B19000000, src := 5, size := 64, bytes := [0x88, 0xF7] }
def clocked : State := ((((almanac 5 9).setO Obj.PTP_ASSOC_EN 1).setO Obj.DEVICE_UPTIME_MS 100).setO Obj.ETH_LINK_STATE 2 0)

theorem witness_ptp : clocked.isMaster = true ∧ clocked.getO Obj.PTP_ASSOC_EN = 1 ∧ clocked.getO Obj.PTP_ASSOC_PORT = 0 ∧ 2 ≤ clocked.dev ∧
    clocked.ethUp 0 = true ∧ (clocked.ethCount 0 syncFrame).takesFrame 0 syncFrame = true ∧ ptpOf syncFrame.bytes = some [] ∧
    (clocked.ethCount 0 syncFrame).takesPacket 0 syncFrame.bytes = true ∧ beAt [] 0 1 % 16 = 0 ∧ beAt [] 4 1 = clocked.getO Obj.ETH_PTP_DOMAIN 0 ∧
    clocked.getI Obj.PTP_FREQ_PPB = 0 := by decide +kernel

theorem test_hold_limit_epoch_ptp : (
    after (exec .holdLimit { (schedule 9 9).setO Obj.HOLD_ACTIVE 1 with alm := { stoodTicks := 2 ^ 60, started := true } }) (fun t =>
      decide (t.alm.stop = some 10 ∧ t.getO Obj.ERR_LAST_REASON = 0x0403)) ∧
    after (exec (.epochBoundary 7 8) (((schedule 1000 1009).setO Obj.SCHED_EPOCH 0).setO Obj.STEP_EPOCHS 1)) (fun t =>
      decide (t.getO Obj.SCHED_EPOCH = 1 ∧ t.stepRun.map (·.boundary) = some 1)) ∧
    after (exec (.ptpEventMessage 0 syncFrame ⟨7, 8⟩ 500) clocked) (fun t =>
      decide (t.getI Obj.PTP_FREQ_PPB = 100 ∧ t.getO Obj.PTP_STATE = 1 ∧ (t.eth 0).ptp.t3 = 8 ∧ t.out.length = 1)) ∧
    after (exec .ptpSourceLost (((almanac 5 9).setO Obj.PTP_ASSOC_EN 1).setO Obj.PTP_STATE 1)) (fun t => decide (t.getO Obj.PTP_STATE = 2))) := by
  decide +kernel

/-! ### Furrow tables (R312 to R323, R329) -/

def entry (beat kind : Nat) (sem : Nat := 0) (arg : Nat := 0) (addr : Nat := 0) : Nat :=
  beat * 2 ^ 104 + kind * 2 ^ 100 + sem * 2 ^ 66 + arg * 2 ^ 42 + addr
/-- Table tb of a running schedule at count 5 holds one entry; its watch point has been passed where `seen`. -/
def furrow (tb e : Nat) (seen : Option Nat) : State :=
  (schedule 5 9).setTable tb { bank0 := { entries := [e] }, open_ := match seen with
    | some d => [{ epoch := 0, entry := 0, desc := d }]
    | none => [] }

theorem begins_of {s : State} {tb e : Nat} {p : Place} {w : Watch} (h : tb < tableCount ∧ (s.table tb).entry? p = some e ∧
    s.running = true ∧ s.getO Obj.SCHED_E0 ≤ p.epoch ∧ s.alm.stop = none ∧ (s.table tb).isNext (s.table tb).next p = true ∧
    (s.table tb).open_.find? (fun (x : Watch) => decide (x.epoch = p.epoch ∧ x.entry = p.entry)) = some w ∧
    s.entryAt p.epoch e = s.count ∧ s.stepOpen p.epoch = true) : s.begins tb p e w :=
  ⟨⟨h.1, h.2.1, h.2.2.1, h.2.2.2.1, fun b hb => by rw [h.2.2.2.2.1] at hb; cases hb⟩, h.2.2.2.2.2.1, h.2.2.2.2.2.2.1,
    h.2.2.2.2.2.2.2.1, h.2.2.2.2.2.2.2.2⟩

theorem witness_begins : (∀ k ∈ [1, 2, 3, 4], (furrow 0 (entry 5 k 7 3) (some (cmdDesc 5 2 0 []))).begins 0 {} (entry 5 k 7 3)
      { epoch := 0, entry := 0, desc := cmdDesc 5 2 0 [] }) ∧
    (furrow 0x320 (entry 5 3 7 3) (some 0)).begins 0x320 {} (entry 5 3 7 3) { epoch := 0, entry := 0 } ∧
    (furrow 0 (entry 5 4) (some 0)).quietEvents 0 ∧ entKind (entry 5 4) = 4 ∧ entArg (entry 5 2 7 3) = 3 ∧
    (furrow 0 (entry 5 1) (some 0)).streamFree 0 = true ∧ isBale (cmdDesc 5 2 0 []) = false := by
  refine ⟨fun k h => begins_of ?_, begins_of (by decide +kernel), quietEvents_of (by decide +kernel), by decide +kernel⟩
  revert k
  decide +kernel

/-- A bale of two elements over two local contributions, and 2^n devices. -/
def baleDesc (n : Nat) (rest : Nat := 0) : Nat :=
  cmdDesc 7 1 3 [L0] (2 ^ 329 + (1 + n) * 2 ^ 300 + 2 ^ 295 + 2 ^ 109 + rest)
/-- A send of 32 bytes from address 0x2000 to address 64 of device 1, which is the neighbour on port 1, with entry e of table
0x321. -/
def sendDesc : Nat := 0x2000 * 2 ^ 464 + 64 * 2 ^ 416 + 32 * 2 ^ 384 + 1 * 2 ^ 368
def sender (e d : Nat) (seen : Bool) (bad : Bool := false) : State :=
  let s := (furrow 0x321 e (if seen then some d else none)).poke 1024 (leBytes 64 d)
  let s := s.setTable 0x321 { s.table 0x321 with open_ := (s.table 0x321).open_.map fun w => { w with bad := bad } }
  { (s.setO Obj.PORT_STATE 3 0).setO Obj.PORT_STATE 3 1 with
      linkCfg := { ex := 4 }
      resvs := [{ beat := 5, table := 0x321, entry := 0, epoch := 0, cost := 40, die := 0, made := true }] }
/-- The table's stream holds a submitted operation; it is that of entry n. -/
def occupied (n : Nat) : State :=
  (furrow 0 (entry 5 1 0 0 16) (some (cmdDesc 5 2 0 []))).setOp 8 { unit := 0, stream := 4, desc := cmdDesc 5 2 0 [], entry := some (0, 0, n) }

theorem witness_entry_forms : (occupied 9).streamFree 0 = false ∧ (occupied 0).ops.any (fun p => decide (p.2.entry = some (0, 0, 0))) = true ∧
    unitOk 0 (opUnit (cmdDesc 5 9 0 [])) = true ∧ opDefined 5 9 = false ∧ unitOk 0 (opUnit (cmdDesc 5 2 0 [])) = true ∧ opDefined 5 2 = true ∧
    (sender (entry 5 3 0 9 16) sendDesc true).vc2Port 1 = some 0 ∧ (sender (entry 5 3 0 9 16) sendDesc false).sendFail sendDesc 9 = none ∧
    (sender (entry 5 3 0 9 16) (sendDesc + 1) false).sendFail (sendDesc + 1) 9 = some 1 ∧ sendDest sendDesc = 1 ∧
    ((sender (entry 5 3 0 9 16) sendDesc true true).table 0x321).open_.map (·.bad) = [true] ∧ entAddr (entry 5 3 0 9 16) = 16 ∧
    isBale (baleDesc 0) = true ∧ (sender (entry 5 3 0 9 16) sendDesc true).chk = [] := by decide +kernel

theorem test_entry_forms : (
    after (exec (.furrowStart 0 0 0) (occupied 9)) (fun t => decide (t = occupied 9)) ∧
    after (exec (.furrowStart 0 0 0) (occupied 0)) (fun t => decide (t = occupied 0)) ∧
    after (exec (.furrowStart 0 0 0) (furrow 0 (entry 5 1 0 0 16) (some (cmdDesc 5 9 0 [])))) (fun t =>
      decide (t.ops = [] ∧ t.isStopped 0 4 = true ∧ (t.table 0).next.entry = 1)) ∧
    after (exec (.portSlot 0x321 0 0) (sender (entry 5 3 0 9 16) sendDesc true)) (fun t =>
      decide (t.out = [.send 1 1 64 0 false] ∧ ((t.port 0).vc2.map (·.bytes.length)) = [48])) ∧
    after (exec (.watchPoint 0x321 0 0) (sender (entry 5 3 0 9 16) (sendDesc + 1) false)) (fun t =>
      decide ((t.table 0x321).open_.map (·.bad) = [true] ∧ t.resvs = [])) ∧
    after (exec (.watchPoint 0 0 0) ((furrow 0 (entry 5 1 0 0 16) none).poke 1024 (leBytes 64 (baleDesc 0)))) (fun t =>
      decide ((t.op? 0).map (fun o => o.bale.map (·.elems)) = some (some 2)))) := by decide +kernel

theorem test_entries : (
    after (exec (.furrowStart 0 0 0) (furrow 0 (entry 5 1 0 0 16) (some (cmdDesc 5 2 0 [])))) (fun t =>
      decide ((t.op? 0).map (fun o => (o.stream, o.descAddr, o.entry)) = some (4, 1024, some (0, 0, 0)) ∧ (t.table 0).next.entry = 0 ∧
        (((t.op? 0).map t.entryBegins).getD t |>.table 0).next.entry = 1)) ∧
    after (exec (.furrowStart 0 0 0) (furrow 0 (entry 6 1) (some (cmdDesc 5 2 0 [])))) (fun t => decide (t.ops = [])) ∧
    after (exec (.furrowSignal 0 0 0) (furrow 0 (entry 5 2 7 3) (some 0))) (fun t =>
      decide ((t.sem 7).count = 3 ∧ (t.table 0).next.entry = 1 ∧ (t.table 0).open_ = [])) ∧
    after (exec (.furrowMark 0 0 0) (furrow 0 (entry 5 4 0 9) (some 0))) (fun t => decide (t.getO Obj.QUEUE_UNROUTED = 1 ∧ (t.table 0).next.entry = 1)) ∧
    after (exec (.portSlot 0x321 0 0) { furrow 0x321 (entry 5 3 0 9) (some 0) with
        resvs := [{ beat := 5, table := 0x321, entry := 0, epoch := 0, cost := 40, die := 0, made := true }] }) (fun t =>
      decide (t.slots = [{ port := 1, entry := 0, left := 9, leave := 40 }] ∧ t.resvs = []))) := by decide +kernel

theorem witness_points : (let s := furrow 0 (entry 5 1 0 0 16) none
    (s.table 0).isNext (s.table 0).watch {} = true ∧ (s.table 0).isNext (s.table 0).resv {} = true ∧ (s.table 0).open_.length < 16 ∧
      s.entryAt 0 (entry 5 1 0 0 16) ≤ s.count + s.getO Obj.ALMANAC_HOLD_LEAD ∧ isBale (ofBytes (s.peek 1024 64)) = false) ∧
    (furrow 0 (entry 4 1) none).entryAt 0 (entry 4 1) < (furrow 0 (entry 4 1) none).count ∧
    ((furrow 0 (entry 4 1) none).table 0).overrun.contains {} = false ∧ (furrow 0 (entry 4 1) none).stepDead = none := by decide +kernel

theorem test_points : (
    after (exec (.watchPoint 0 0 0) ((furrow 0 (entry 5 1 0 0 16) none).poke 1024 (leBytes 64 (cmdDesc 5 2 0 [])))) (fun t =>
      decide ((t.table 0).open_ = [{ epoch := 0, entry := 0, desc := cmdDesc 5 2 0 [] }] ∧ (t.table 0).watch.entry = 1)) ∧
    after (exec (.watchPoint 0 0 0) (furrow 0 (entry 5 2) none)) (fun t => decide ((t.table 0).open_ = [{ epoch := 0, entry := 0 }])) ∧
    after (exec (.reservationPoint 0x320 0 0) (furrow 0x320 (entry 5 3) none)) (fun t =>
      decide (t.resvs.map (·.made) = [true] ∧ (t.table 0x320).resv.entry = 1)) ∧
    after (exec (.overrun 0 0 0) (furrow 0 (entry 4 1) none)) (fun t =>
      decide (t.getO Obj.SCHED_OVERRUNS = 1 ∧ t.getO Obj.ERR_LAST_REASON = 0x0404 ∧ t.getO Obj.SCHED_OVERRUN_BEAT = 4)) ∧
    after (exec .reservationRetry { schedule 5 9 with resvs := [{ beat := 5, table := 1, entry := 0, epoch := 0, cost := 40, die := 0 }] }) (fun t =>
      decide (t.resvs.map (·.made) = [true]))) := by decide +kernel

/-- A load of one entry from address 0x1000 into bank 1 of table 0. -/
def loads (e : Nat) : State := { idle.poke 0x1000 (leBytes 16 e) with load := some { table := 0, bank := 1, src := 0x1000, entries := 1, swap := 0xFFFFFFFF } }
def loadSet (bank : Nat) : State :=
  ((owned.setO Obj.FURROW_LOAD_BANK bank).setO Obj.FURROW_LOAD_ENTRIES 1).setO Obj.FURROW_LOAD_SWAP_EPOCH 0xFFFFFFFF

theorem witness_load : okWrite (loadSet 1) true Obj.FURROW_LOAD_GO 0 0 1 = true ∧ okWrite (loadSet 1) true Obj.FURROW_LOAD_GO 0 0 2 = true ∧
    (loadSet 1).getO Obj.FURROW_LOAD_BANK ≠ ((loadSet 1).table 0).active ∧ ((loadSet 1).table 0).swap = none ∧ (loadSet 1).load = none ∧
    (loads 0).load.isSome = true ∧ (loads 0).chk = [] ∧
    (let s := (schedule 5 9).setTable 0 { swap := some (1, 0) }
     s.running = true ∧ s.firstBeat 0 ≤ (s.count : Int)) := by decide +kernel

theorem witness_load_again : (let s := (schedule 5 9).setO Obj.OWNER_LOCK_HOLDER 0
     okWrite s true Obj.FURROW_LOAD_GO 0 0 1 = true ∧ s.swapNear 0 = true ∧ s.swapNear 9 = false) ∧
    (let l : FurrowLoad := { table := 0, bank := 1, src := 0, entries := 1, swap := 9 }
     let s : State := { loadSet 1 with load := some l }
     okWrite s true Obj.FURROW_LOAD_GO 0 0 2 = true ∧ s.swapNear 9 = false) := by decide +kernel

theorem test_load_again : (
    after (exec (.furrowLoad stw) ((loadSet 1).setTable 0 { swap := some (1, 9) })) (fun t => decide (t.load = none ∧ t.getO Obj.FURROW_LOAD_STATUS = 5)) ∧
    after (exec (.furrowLoad stw) { loadSet 1 with load := some { table := 3, bank := 1, src := 0, entries := 1, swap := 9 } }) (fun t =>
      decide (t.out = [.steward 0 8 0] ∧ t.getO Obj.FURROW_LOAD_STATUS = 7)) ∧
    after (exec (.furrowSwapCancel stw) { loadSet 1 with load := some { table := 0, bank := 1, src := 0, entries := 1, swap := 9 } }) (fun t =>
      decide (t.load.map (·.swap) = some 0xFFFFFFFF ∧ t.getO Obj.FURROW_LOAD_STATUS = 10)) ∧
    after (exec (.furrowSwapCancel stw) (loadSet 1)) (fun t => decide (t.out = [.steward 0 5 0] ∧ t.getO Obj.FURROW_LOAD_STATUS = 11))) := by
  decide +kernel

theorem test_load : (
    after (exec (.furrowLoad stw) (loadSet 1)) (fun t => decide (t.load.isSome ∧ t.getO Obj.FURROW_LOAD_STATUS = 1)) ∧
    after (exec (.furrowLoad stw) (loadSet 0)) (fun t => decide (t.load = none ∧ t.getO Obj.FURROW_LOAD_STATUS = 4 ∧ t.out = [.steward 0 5 0])) ∧
    after (exec .furrowLoadComplete (loads (entry 5 4))) (fun t =>
      decide ((t.table 0).bank1 = { entries := [entry 5 4], valid := true } ∧ t.getO Obj.FURROW_LOAD_STATUS = 3)) ∧
    after (exec .furrowLoadComplete (loads (entry 5 9))) (fun t =>
      decide ((t.table 0).bank1.valid = false ∧ t.getO Obj.FURROW_LOAD_STATUS = 8 ∧ t.getO Obj.FURROW_LOAD_BAD_ENTRY = 0)) ∧
    after (exec (.furrowSwapCancel stw) ((loadSet 1).setTable 0 { swap := some (1, 9) })) (fun t =>
      decide ((t.table 0).swap = none ∧ t.getO Obj.FURROW_LOAD_STATUS = 10)) ∧
    after (exec (.bankSwap 0) ((schedule 5 9).setTable 0 { swap := some (1, 0) })) (fun t =>
      decide ((t.table 0).active = 1 ∧ (t.table 0).swap = none ∧ t.getO Obj.SCHED_SWAPS = 1)) ∧
    after (exec (.bankSwap 0) ((schedule 5 9).setTable 0 { swap := some (1, 1) })) (fun t => decide ((t.table 0).active = 0))) := by
  decide +kernel

/-! ### Links and ports (R400 to R428) -/

/-- Port 2 in a state, with its fields. -/
def port (st : Nat) (x : Port := {}) : State := (idle.setO Obj.PORT_STATE st 2).setPort 2 x
def msg1 : Msg := { bytes := List.replicate 32 5 }
def kept (q : Nat) : Kept := { seq := q, kind := 1, vc := 2, msg := msg1 }
/-- A ring of four devices along X, and a port that may train. -/
def ringOf4 (st : Nat) : State :=
  ((owned.setO Obj.LINK_EXT_X 4).setO Obj.LINK_FIELDS 1).setO Obj.PORT_STATE st 0

/-- The device at (x, y) of a field of 4 by 4, with ports 1 and 2 UP, after a frame on port 2. -/
def grid (x y : Nat) (aborted : List Nat := []) : State :=
  { (port 3).setO Obj.PORT_STATE 3 1 with linkCfg := { x := x, y := y, ex := 4, ey := 4 }, balesAborted := aborted }
/-- A message of two blocks for device 4, which is the one at (0, 1); it is of kind k and names bale 0. -/
def message (k : Nat) : LinkFrame :=
  { kind := 1, vc := 2, seq := 1, blocks := leBytes 16 (4 * 2 ^ 112 + k * 2 ^ 88 + 2 ^ 64) ++ leBytes 16 0 }
def idleFrame (nak : Bool) : LinkFrame := { kind := 0, ack := 3, nak := nak }
/-- Lanes whose check symbols are the product of the first 29 factors of the generator, far from every codeword. -/
def torn : List Nat :=
  toLanes (924861049328311006245085407394151469890948244577596198012071923164890479321753328586882049 * 2 ^ 5140)

theorem witness_lines : rsDecode (ofLanes torn) = none ∧ rsDecode (ofLanes (List.replicate 8 0)) = some (0, 0) ∧
    LinkFrame.ofWord 0 = none ∧ rsDecode (ofLanes (idleFrame true).lanes) = some ((idleFrame true).word, 0) ∧
    rsDecode (ofLanes (idleFrame false).lanes) = some ((idleFrame false).word, 0) ∧
    (∀ k ∈ [1, 2], rsDecode (ofLanes (message k).lanes) = some ((message k).word, 0)) ∧
    LinkFrame.ofWord (idleFrame true).word = some (idleFrame true) ∧ LinkFrame.ofWord (idleFrame false).word = some (idleFrame false) ∧
    ∀ k ∈ [1, 2], LinkFrame.ofWord (message k).word = some (message k) := by decide +kernel

theorem witness_frames : (port 3).portState 2 = 3 ∧ (port 2).portState 2 = 2 ∧ (port 1).portState 2 ≠ 2 ∧ (port 1).portState 2 ≠ 3 ∧
    (∀ vc, vc < 3 → 0 < ({} : Port).blocksFor vc msg1) ∧ (port 3).flows 2 = true ∧ (port 2).flows 2 = false ∧
    (port 3 { cut := true }).flows 2 = false ∧ msg1.bytes.length % 16 = 0 ∧ eccFix 1 = some 1 ∧ eccFix (1 + 2 ^ 64) = none ∧
    covered 4 5 = false ∧ covered 5 5 = true ∧ covered 5 65535 = true ∧ covered 0x8005 5 = false := by decide +kernel

theorem witness_message : (∀ x ∈ [0, 1], (grid x 1).portState 2 = 3 ∧ ((grid x 1).port 2).rxLeft = 0 ∧ ((grid x 1).port 2).rxSeq = 0 ∧
      ((grid x 1).port 2).cut = false) ∧ (message 1).blocks.length = 32 ∧ bits (ofBytes ((message 1).blocks.take 16)) 127 64 = 4 * 2 ^ 48 + 2 ^ 24 + 1 ∧
    (grid 0 1).origin = 4 ∧ (grid 1 1).origin = 5 ∧ (grid 1 1).vc2Port 4 = some 1 ∧ ((grid 1 1).port 1).vc2 = [] := by decide +kernel

/-- Frames sent by port 2, an alignment marker before them, and what is left. -/
def sends (x : Port) (ok : Port → Bool) : Bool :=
  after (exec (.linkFrameTransmit ⟨2, 7, []⟩) (port 3 x)) fun t => decide (t.out.head? = some (.marker 2) ∧ t.out.length = 2) && ok (t.port 2)

theorem test_transmit : (
    sends { replay := [kept 4, kept 5], resend := some 0, beacons := [beacon 7 1] } (fun x =>
      decide (x.resend = some 1 ∧ x.beacons.length = 1 ∧ x.words = 1)) ∧
    sends { beacons := [beacon 7 1], ctlQ := [(3, [9])] } (fun x => decide (x.beacons = [] ∧ x.ctlQ.length = 1 ∧ x.beaconId = 1 ∧ x.sent.length = 1)) ∧
    sends { ctlQ := [(3, [9])], txSeq := 65535, vc2 := [msg1] } (fun x => decide (x.ctlQ = [] ∧ x.txSeq = 0 ∧ x.replay.map (·.seq) = [65535])) ∧
    sends { vc2 := [msg1], vc0 := [msg1] } (fun x => decide (x.vc2 = [] ∧ x.vc0 = [msg1] ∧ x.replay = [kept 1])) ∧
    sends { vc0 := [msg1], vc1 := [msg1], turn := true } (fun x => decide (x.vc0 = [msg1] ∧ x.vc1 = [] ∧ x.turn = false)) ∧
    sends {} (fun x => decide (x.replay = [] ∧ x.txSeq = 1))) := by decide +kernel

theorem test_transmit_decode : (
    ((port 3).txDecode 2 [0, 1] msg1).2 = msg1 ∧ ((port 3).txDecode 2 [0, 1] msg1).1.getO Obj.PORT_CE 2 = 1 ∧
    ((port 3).txDecode 2 [0, 1 + 2 ^ 64] msg1).2.bad = [1]) := by decide +kernel

/-- Port 2 after a frame whose codeword needs no correction. -/
def gets (x : Port) (f : LinkFrame) (ok : Port → Bool) : Bool := ok (((port 3 x).lineIn 2 (some (f.word, 0))).port 2)

theorem test_receive : (
    gets { replay := [kept 4, kept 5] } { kind := 1, vc := 1, seq := 1, ack := 4 } (fun x => decide (x.rxSeq = 1 ∧ x.replay = [kept 5])) ∧
    gets {} { kind := 1, vc := 1, seq := 2 } (fun x => decide (x.rxSeq = 0 ∧ x.nakOwed = true)) ∧
    gets { replay := [kept 4], lastReplay := 4, replays := 7 } (idleFrame true) (fun x => decide (x.resend = some 0 ∧ x.replays = 8)) ∧
    (let t := (port 3 { replay := [kept 4], lastReplay := 4, replays := 8 }).lineIn 2 (some ((idleFrame true).word, 0))
     t.portState 2 = 4 ∧ t.getO Obj.PORT_FAULT_REASON 2 = 5) ∧
    after (exec (.linkFrameReceive 2 (List.replicate 8 0)) (port 3)) (fun t => decide (t.port 2 = { nakOwed := true })) ∧
    (let t := (port 3).lineIn 2 none
     t.port 2 = { nakOwed := true, fecWindow := 1 } ∧ t.getO Obj.PORT_FEC_UNCORRECTED 2 = 1) ∧
    ((port 3).lineIn 2 (some (0, 3))).getO Obj.PORT_FEC_CORRECTED 2 = 3) := by decide +kernel

theorem test_message : (
    (((grid 0 1).lineIn 2 (some ((message 1).word, 0))).port 2).inbox = [{ bytes := (message 1).blocks }] ∧
    (let t := (grid 1 1).lineIn 2 (some ((message 1).word, 0))
     (t.port 1).vc2 = [{ bytes := (message 1).blocks, src := 3 }] ∧ t.getO Obj.REDUCE_BYTES_FORWARDED = 16 ∧ (t.port 2).freed = []) ∧
    (((grid 1 1).lineIn 2 (some ((message 2).word, 0))).port 1).vc2 = [{ bytes := (message 2).blocks, src := 3 }] ∧
    (((grid 1 1 [0]).lineIn 2 (some ((message 1).word, 0))).port 1).vc2 = []) := by decide +kernel

theorem witness_send_data : (port 3).portUp 2 = true ∧ inLp 0 32 = true ∧ (port 3).sendProtected 0 32 = false ∧ inLp (2 ^ 50) 32 = false ∧
    ((port 3).sem 4095).st ≠ 2 ∧ ((port 3).sem 4095).waits = [] := by decide +kernel

theorem test_send_data : (
    after (exec (.sendDataReceive 2 7 64 4095 true (List.replicate 32 5) []) (port 3)) (fun t =>
      decide (t.peek 64 33 = List.replicate 32 5 ++ [0] ∧ (t.sem 4095).count = 1)) ∧
    after (exec (.sendDataReceive 2 7 64 4095 true (List.replicate 32 5) [0]) (port 3)) (fun t =>
      decide (t.peek 64 32 = List.replicate 16 0 ++ List.replicate 16 5 ∧ t.sems = [])) ∧
    after (exec (.sendDataReceive 2 7 (2 ^ 50) 1 true [5] []) (port 3)) (fun t => decide (t.getO Obj.ERR_LAST_REASON = 0x0703))) := by
  decide +kernel

theorem witness_port_state : (∀ st ∈ [0, 1, 2, 3, 4], (port st).portState 2 = st ∧ (port st).onePost ∧ (port st).ops = []) ∧
    ((port 3).setO Obj.LINK_FEC_ALARM 4).getO Obj.LINK_FEC_ALARM < ((port 3 { fecWindow := 5 }).port 2).fecWindow ∧
    (ringOf4 0).portsLive = true ∧ (ringOf4 0).getO Obj.PORT_ENABLE 0 = 1 ∧ 1 < (ringOf4 0).linkLive.rings.getD 0 1 ∧ (ringOf4 0).portMay 0 = true ∧
    okWrite (ringOf4 4) true Obj.PORT_RETRAIN 0 0 1 = true ∧ okWrite (ringOf4 4) true Obj.PORT_ENABLE 0 0 0 = true ∧
    okWrite (ringOf4 0) true Obj.PORT_ENABLE 7 0 0 = true ∧ (ringOf4 0).getO Obj.PORT_ENABLE 7 = 1 := by
  refine ⟨fun st h => ⟨?_, onePost_of ?_ ?_, ?_⟩, by decide +kernel⟩ <;> revert st <;> decide +kernel

theorem test_port_state : (
    after (exec (.portFecLock 2) (port 1)) (fun t => decide (t.portState 2 = 2)) ∧
    after (exec (.portTrainTimeout 2) (port 1)) (fun t => decide (t.portState 2 = 4 ∧ t.getO Obj.ERR_LAST_REASON = 0x0701)) ∧
    after (exec (.portCheck 2 ((port 2).partnerCode 2) (beat idle) (port 2).extents 7 8) (port 2)) (fun t =>
      decide (t.portState 2 = 3 ∧ t.getO Obj.PORT_LENGTH_DM 2 = 7 ∧ t.getO Obj.PORT_RTT_NS 2 = 8)) ∧
    after (exec (.portCheck 2 ((port 2).partnerCode 2) 0 (port 2).extents 7 8) (port 2)) (fun t => decide (t.getO Obj.PORT_FAULT_REASON 2 = 4)) ∧
    after (exec (.portFecLoss 2) (port 3)) (fun t => decide (t.portState 2 = 1 ∧ t.getO Obj.PORT_RETRAINS 2 = 1)) ∧
    after (exec (.laserLow 2 7) (port 3)) (fun t => decide (t.portState 2 = 0 ∧ t.getO Obj.PORT_LASER_UW 2 = 7)) ∧
    after (exec (.laserInputPresent 0 31623) (ringOf4 0)) (fun t => decide (t.portState 0 = 1)) ∧
    after (exec (.laserInputPresent 0 31622) (ringOf4 0)) (fun t => decide (t.portState 0 = 0)) ∧
    after (exec (.portFecRateWindow 2) ((port 3 { fecWindow := 5 }).setO Obj.LINK_FEC_ALARM 4)) (fun t => decide (t.portState 2 = 4)) ∧
    after (exec (.portRetrain stw 0) (ringOf4 4)) (fun t => decide (t.portState 0 = 1)) ∧
    after (exec (.portRetrain stw 7) (ringOf4 4)) (fun t => decide (t.portState 7 = 0 ∧ .pin 107 false ∈ t.out)) ∧
    after (exec (.portEnable stw 0 0) (ringOf4 3)) (fun t => decide (t.portState 0 = 0 ∧ .pin 100 false ∈ t.out)) ∧
    after (exec (.portEnable stw 0 1) ((ringOf4 0).setO Obj.PORT_ENABLE 0 0)) (fun t => decide (t.portState 0 = 1))) := by decide +kernel

/-! ### The reduction and the step boundary (R226, R235 to R259) -/

/-- Contributions 1, 2 of element 0 and 3, 4 of element 1. -/
def leaves : List (Nat × List Byte) := [(L0 + 0x1000, f32s [0x3F800000, 0x40400000, 0x40000000, 0x40800000])]
/-- The device, and operation 3 of table 0 with a bale, in a farm of 2^n devices along X whose ports 0 and 1 are in a state. -/
def bale (n : Nat) (o : Op) (st : Nat := 3) : State :=
  let m := (opState 0 [td (L0 + 0x1000) 1 [2, 2] [8]] leaves).mem
  let s := ((((furrow 0 (entry 5 1 0 0 16) (some o.desc)).setO Obj.REDUCE_STAGE_BASE 4096).setO Obj.PORT_STATE st 0).setO Obj.PORT_STATE st 1)
  { s.setOp 3 o with mem := m, linkCfg := { ex := 2 ^ n }
                     resvs := [{ beat := 5, table := 0, entry := 0, epoch := 0, cost := 7, die := 0, made := true }] }
def baleOp (d : Nat) (ph : Phase) (b : Bale) : Op :=
  { unit := 0, stream := 4, desc := d, phase := ph, entry := some (0, 0, 0), bale := some b
    got := { tds := [(L0, td (L0 + 0x1000) 1 [2, 2] [8])] } }
def newBale : Bale := { n := 0, elems := 2 }
def dWait : Nat := baleDesc 0 (2 ^ 112 + 7 * 2 ^ 76 + 2 * 2 ^ 60)
def dFill : Nat := baleDesc 0 (2 ^ 294 + 7 * 2 ^ 282 + 2 * 2 ^ 266)

def takes (d : Nat) (sem : Sem) : Bool :=
  let o := baleOp d .submitted newBale
  let s := (bale 0 o).setSem 7 sem
  isBale d && decide (s.op? 3 = some o ∧ s.isStopped 0 4 = false ∧ s.headerFail d = none ∧ opLeaveClass d ≠ 0 ∧ opLeavePre d = true ∧
    s.poolUsed < 65536 ∧ (s.resvs.find? fun r => decide (r.table = 0 ∧ r.epoch = 0 ∧ r.entry = 0)).map (·.made) = some true ∧
    s.getO Obj.CORE_EXCLUDE 0 ≠ 1) && (match brCheck s o with | (s', .ok _) => decide (s' = s) | _ => false)

theorem witness_bale_take : takes dWait { count := 2 } = true ∧ opWsemEn dWait = true ∧ brTrigger dWait = false ∧ opWcount dWait = 2 ∧
    opWsem dWait = 7 ∧ takes dFill { count := 2 } = true ∧ takes dFill {} = true ∧ opWsemEn dFill = false ∧ brTrigger dFill = true ∧
    brFillCount dFill = 2 ∧ brFillSem dFill = 7 ∧ ((bale 0 (baleOp 0 .submitted newBale)).headerFail (dWait + 1)).isSome = true := by
  decide +kernel

theorem test_bale_take : (
    after (exec (.baleReduce 3) ((bale 0 (baleOp dWait .submitted newBale)).setSem 7 { count := 3 })) (fun t =>
      decide ((t.op? 3).map (fun o => (o.phase, o.held, o.bale.map (·.fillTaken))) = some (.ready, 7, some true) ∧ (t.sem 7).count = 1)) ∧
    after (exec (.baleReduce 3) ((bale 0 (baleOp dFill .submitted newBale)).setSem 7 { count := 1 })) (fun t =>
      decide ((t.op? 3).map (fun o => (o.phase, o.held, o.bale.map (·.fillTaken))) = some (.ready, 7, some false) ∧
        (t.sem 7).waits.map (·.who) = [.fill 3] ∧ t.getO Obj.REDUCE_HOLDS = 1)) ∧
    after (exec (.baleReduce 3) (bale 0 (baleOp (dWait + 1) .submitted newBale))) (fun t => decide (t.op? 3 = none))) := by decide +kernel

def filled : Bale := { newBale with fillTaken := true }
/-- Operation 3 when its bale starts, and whether the local adder's stages check some work of a level. -/
def startOp (n : Nat) : Op := baleOp (baleDesc n) .ready filled
def struckAt (flip level : Nat) : Bool :=
  let s := bale 0 (startOp 0)
  s.localChecks { startOp 0 with phase := .executing } { filled with started := true, hi := 2 } (tensor (startOp 0).got.list 0) flip level

theorem witness_bale_start : (∀ n ∈ [0, 1], (bale n (startOp n)).begins 0 {} (entry 5 1 0 0 16) { epoch := 0, entry := 0, desc := baleDesc n }) ∧
    (∀ n ∈ [0, 1], let s := bale n (startOp n)
      s.levels = n ∧ s.inFlight < 8 ∧ s.getO Obj.REDUCE_NEXT_BALE = 0 ∧ s.chk = [] ∧ s.earlyPkts = [] ∧ s.pathLost = false ∧
        s.ops.all (fun p => p.2.upd.isNone) = true) ∧
    (bale 1 (startOp 1) 1).pathLost = true ∧ struckAt 0 0 = false ∧ struckAt 3 0 = true ∧ struckAt 2 0 = false ∧ struckAt 2 1 = true ∧
    struckAt 2 2 = false ∧ entStamp (entry 5 1 0 0 16) = false := by
  refine ⟨fun n h => begins_of ?_, by decide +kernel⟩
  revert n
  decide +kernel

theorem test_bale_start : (
    after (exec (.baleStart 3 ⟨0, 0⟩) (bale 0 (startOp 0))) (fun t =>
      decide ((t.op? 3).map (fun o => (o.phase, o.bale.map (·.vals))) = some (.executed, some [0x4200, 0x4700]) ∧
        t.getO Obj.REDUCE_NEXT_BALE = 1 ∧ t.balesDone = [(0, 2, 0)])) ∧
    after (exec (.baleStart 3 ⟨0, 0⟩) (bale 1 (startOp 1))) (fun t =>
      decide ((t.op? 3).map (fun o => (o.phase, o.bale.map (·.vals))) = some (.executing, some [0x4200, 0x4700]))) ∧
    after (exec (.baleStart 3 ⟨2, 1⟩) (bale 0 (startOp 0))) (fun t =>
      decide (t.op? 3 = none ∧ t.balesAborted = [0] ∧ t.getO Obj.REDUCE_RESIDUE_LAST_STAGE = 2 ∧ t.getO Obj.REDUCE_RESIDUE_LAST_LEVEL = 1)) ∧
    after (exec (.baleStart 3 ⟨0, 0⟩) (bale 1 (startOp 1) 1)) (fun t => decide (t.op? 3 = none ∧ t.balesAborted = [0]))) := by decide +kernel

/-- A bale in flight between devices: this one's nodes hold 3 and 7. -/
def flight : Bale := { filled with started := true, vals := [0x4200, 0x4700], lo := 0, hi := 2 }
def flyer (n : Nat) : Op := baleOp (baleDesc n) .executing flight
def inAir (n : Nat := 1) : State := bale n (flyer n)
def packet : RedPacket := { bale := 0, first := 0, level := 1, node := 1, phase := 0, scale := 0, step := 0, src := 1, elems := [0x4000] }
/-- The partner at device level 2 sends before the one at level 1. -/
def early : RedPacket := { packet with level := 2, src := 2 }
def wide : Bale := { flight with elems := 4, vals := [0x4200, 0x4700, 0, 0], hi := 4 }
def wideOp : Op := { flyer 2 with bale := some wide }
/-- The port towards the partner holds the message that a packet came in. -/
def holding (s : State) (p : RedPacket) : State :=
  s.setPort 0 { s.port 0 with inbox := [{ bytes := leBytes 16 0 ++ padBlocks (packetBytes p) }] }

theorem witness_packet : (inAir 1).onePost ∧
    (∀ n ∈ [1, 2], (inAir n).flying 0 = some (3, flyer n, flight) ∧ (inAir n).levels = n ∧ (inAir n).flows 0 = true) ∧
    (inAir 1).packetExch (flyer 1) flight packet = some 1 ∧ (inAir 1).packetExch (flyer 1) flight { packet with step := 1 } = none ∧
    (bale 2 wideOp).packetExch wideOp wide early = some 2 ∧ wide.gather = false ∧ (flight.take 1 0 packet).complete 0 1 = true ∧
    (flight.take 1 0 { packet with elems := [] }).complete 0 1 = false ∧ (flight.take 1 0 packet).complete 0 2 = false ∧
    (flight.take 1 0 packet).checksAt (flight.hop (flyer 1) 0) 0 1 = true ∧ (inAir 1).getO Obj.WINNOW_JOB_SEED = 0 ∧ (inAir 1).flying 1 = none ∧
    (inAir 1).flying 7 = none ∧ (inAir 1).getO Obj.REDUCE_NEXT_BALE = 0 ∧ (bale 1 (flyer 1) 1).flows 0 = false ∧
    ((holding (inAir 1) packet).port 0).inbox.length = 1 :=
  ⟨onePost_of (by decide +kernel) (by decide +kernel), by decide +kernel⟩

theorem test_packet : (
    after (exec (.reductionPacketReceive 0 packet ⟨0, 0⟩) (inAir 2)) (fun t =>
      decide (((t.op? 3).bind (·.bale)).map (fun b => (b.vals, b.lo, b.hi, b.lev)) = some ([0x4500, 0x4700], 0, 1, 1))) ∧
    after (exec (.reductionPacketReceive 0 early ⟨0, 0⟩) (bale 2 wideOp)) (fun t =>
      decide (((t.op? 3).bind (·.bale)).map (fun b => (b.staged, b.lev)) = some ([(2, 0, 1)], 0))) ∧
    after (exec (.reductionPacketReceive 0 packet ⟨1, 2⟩) (inAir 2)) (fun t =>
      decide (t.op? 3 = none ∧ t.getO Obj.REDUCE_RESIDUE_LAST_STAGE = 1 ∧ t.getO Obj.REDUCE_RESIDUE_LAST_LEVEL = 2)) ∧
    after (exec (.reductionPacketReceive 0 { packet with scale := 1 } ⟨0, 0⟩) (inAir 1)) (fun t =>
      decide (t.op? 3 = none ∧ t.balesAborted = [0] ∧ t.getO Obj.ERR_LAST_REASON = 0x0501)) ∧
    after (exec (.reductionPacketReceive 0 { packet with bad := [2] } ⟨0, 0⟩) (inAir 1)) (fun t => decide (t.op? 3 = none ∧ t.balesAborted = [0])) ∧
    after (exec (.reductionPacketReceive 0 { packet with bad := [1] } ⟨0, 0⟩) (holding (inAir 1) { packet with bad := [1] })) (fun t =>
      decide (t.op? 3 = some (flyer 1) ∧ (t.port 0).inbox = [])) ∧
    after (exec (.reductionPacketReceive 0 { packet with bale := 1 } ⟨0, 0⟩) ((inAir 1).setO Obj.REDUCE_NEXT_BALE 2)) (fun t =>
      decide (t.getO Obj.REDUCE_LATE_PACKETS = 1))) := by decide +kernel

/-- A step procedure of boundary 2 that is about to exchange records. -/
def stepping (n : Nat) : State :=
  let s := ((idle.setO Obj.GROUP_ENABLE 1 4).setO Obj.GROUP_WSCALE_MODE 1 4).setO Obj.WINNOW_STEP 9
  { s with stepRun := some { boundary := 2 }, wmax := [(4, 32768 + 20)], linkCfg := { ex := 2 ^ n }, stepQueue := [5] }
def exchanging (n : Nat) : State :=
  { stepping n with stepRun := some { boundary := 2, begun := true, items := [(1, 4, true)], words := [20, 0, 0] } }

theorem witness_step_boundary : (exchanging 2).onePost ∧
    (∀ n ∈ [0, 1, 2], (stepping n).stepQuiet = true ∧ (stepping n).levels = n ∧ (stepping n).chk = [] ∧ (stepping n).censusRecv = []) ∧
    ({ inAir with stepRun := some { boundary := 2 } } : State).stepQuiet = false ∧ (exchanging 2).partner 1 = 1 ∧ (exchanging 2).partner 2 = 2 :=
  ⟨onePost_of (by decide +kernel) (by decide +kernel), by decide +kernel⟩

theorem test_step_boundary : (
    after (exec .stepBoundary (stepping 0)) (fun t => decide (t.stepRun = some { boundary := 5 } ∧ t.stepQueue = [] ∧ t.getO Obj.WINNOW_STEP = 10 ∧
      t.getI Obj.GROUP_WSCALE 4 = 20 + (t.getO Obj.GROUP_WMARGIN 4 : Int) - 15)) ∧
    after (exec .stepBoundary (stepping 2)) (fun t => decide (t.getO Obj.WINNOW_STEP = 9 ∧ t.stepRun.map (·.words) = some [20, 0, 0])) ∧
    after (exec (.censusRecordReceive 1 1 ⟨[30, 2, 1], false⟩) (exchanging 2)) (fun t => decide (t.stepRun.map (·.words) = some [30, 2, 1])) ∧
    after (exec (.censusRecordReceive 1 1 ⟨[30, 2, 1], true⟩) (exchanging 2)) (fun t => decide (t.stepRun.map (·.words) = some [20, 0, 0])) ∧
    after (exec (.censusRecordReceive 1 1 ⟨[30], false⟩) (exchanging 2)) (fun t =>
      decide (t.stepRun = none ∧ t.stepDead = some 2 ∧ t.getO Obj.ERR_LAST_REASON = 0x0503))) := by decide +kernel

/-! ### The update engines and the threshers (R204 to R225, R267 to R298) -/

/-- Group 5 of two elements, with master weights 1 and 2, and operation 3 that steps it with a gradient of 3 and g. -/
def group (c g policy : Nat) : State :=
  let s := opState (cmdDesc 6 c 2 [] (5 * 2 ^ 504 + if c = 2 then L0 / 32 * 2 ^ 387 else 0)) [td (L0 + 0x1000) 1 [2] []]
    [(L0 + 0x1000, f32s [0x40400000, g]), (0x100000, f32s [0x3F800000, 0x40000000])]
  (((((s.setO Obj.GROUP_ELEMS 2 5).setO Obj.GROUP_MASTER_BASE 0x100000 5).setO Obj.GROUP_WORK_BASE 0x200000 5).setO
    Obj.GROUP_MOM1_BASE 0x300000 5).setO Obj.GROUP_MOM2_BASE 0x400000 5).setO Obj.GROUP_NAN_POLICY policy 5
/-- Sixteen operations of the engine are armed already. -/
def crowded (s : State) : State :=
  (List.range 16).foldl (fun s i => s.setOp (10 + i) { unit := 0, stream := 0, desc := cmdDesc 6 1 2 [] (5 * 2 ^ 504), phase := .executing }) s
def nan32 : Nat := 0x7FC00000

/-- The gradient of the operation of `group 2 g policy`, as step 4 meets it. -/
def localFacts (s : State) (n : Nat) : Bool :=
  match s.op? 3 with
  | some o =>
    let s1 := s.atStep4 3 o
    let t := tensor o.got.list 0
    decide (s1.armed ((s.begun o).die s1) 3 < 16 ∧ (t.list.filter fun i => !t.flt.isFinite (s1.el t i)).length = n)
  | none => false

theorem witness_local_step : (group 2 nan32 2).onePost ∧
    (∀ p ∈ [0, 1, 2], mayBegin (group 2 0x3F800000 p) 6 2 = true ∧ localFacts (group 2 0x3F800000 p) 0 = true ∧
      mayBegin (group 2 nan32 p) 6 2 = true ∧ localFacts (group 2 nan32 p) 1 = true) ∧
    mayBegin (crowded (group 2 0 0)) 6 2 = true ∧ mayBegin (crowded (group 1 0 0)) 6 1 = true ∧ (crowded (group 1 0 0)).armed 0 3 = 16 ∧
    ((group 1 0 0).op? 3).map (·.die (group 1 0 0)) = some 0 :=
  ⟨onePost_of (by decide +kernel) (by decide +kernel), by decide +kernel⟩

theorem test_local_step : (
    after (exec (.groupStepLocal 3) (group 2 0x3F800000 0)) (fun t =>
      decide (t.getO Obj.GROUP_STEP 5 = 1 ∧ t.getO Obj.UPDATE_ELEMS_DONE = 2 ∧ ofBytes (t.peek 0x300000 4) ≠ 0)) ∧
    after (exec (.groupStepLocal 3) (group 2 nan32 0)) (fun t =>
      decide (t.getO Obj.GROUP_STEP 5 = 0 ∧ t.getO Obj.GROUP_SKIPS 5 = 1 ∧ t.getO Obj.GROUP_CENSUS_LAST 5 = 1)) ∧
    after (exec (.groupStepLocal 3) (group 2 nan32 2)) (fun t => decide (t.op? 3 = none ∧ t.getO Obj.ERR_LAST_REASON = 0x0105)) ∧
    after (exec (.groupStepLocal 3) (crowded (group 2 0 0))) (fun t => decide ((t.op? 3).map (·.blocked) = some true))) := by decide +kernel

theorem witness_group_step : mayBegin (group 1 0 0) 6 1 = true ∧ mayBegin (group 1 0 1) 6 1 = true ∧
    baleSpan (updFirst (cmdDesc 6 1 2 [])) (updLast (cmdDesc 6 1 2 [])) = [0] ∧ (group 1 0 0).balesAborted = [] ∧
    (group 1 0 0).baleDone 0 = false ∧ ({ group 1 0 0 with balesAborted := [0] } : State).balesAborted.contains 0 = true := by
  decide +kernel

theorem test_group_step : (
    after (exec (.groupStep 3) (group 1 0 0)) (fun t => decide ((t.op? 3).bind (·.upd) = some { group := 5 })) ∧
    after (exec (.groupStep 3) { group 1 0 0 with balesAborted := [0] }) (fun t =>
      decide ((t.op? 3).map (·.phase) = some (.failing 0 5 5)))) := by decide +kernel

/-- GROUP_STEP is armed and decided; bale 0 has brought `k` elements, of which the last one has been delivered. -/
def armed (done : Nat) (ended : Bool) (policy : Nat := 0) : State :=
  let s := group 1 0 policy
  let o : Op := { unit := 0, stream := 0, desc := cmdDesc 6 1 2 [] (5 * 2 ^ 504), phase := .executing,
                  upd := some { group := 5, decided := true, done := done, t := 1, p1 := 7, p2 := 8 } }
  let s := { s.setOp 3 o with updWait := [(waitKey 0 1, 0x3F800001)] }
  if ended then { s with balesDone := [(0, 2, 0)] }
  else
    let b : Bale := { n := 0, elems := 2, started := true, gather := true, vals := [0x3C00, 0x3C00], lo := 0, hi := 2 }
    s.setOp 4 { unit := 0, stream := 4, desc := 0, phase := .executing, bale := some b }

theorem witness_element : (armed 1 true).elemPlace 0 0 0 1 = some (0, 1) ∧ (armed 1 true).reduced 0 1 false = some (0x3F800000, 0) ∧
    (armed 1 true).reduced 0 0 false = none ∧ (armed 0 false 1).reduced 0 1 true = some (0x3F800000, 0) ∧
    (armed 0 false 1).elemPlace 0 0 0 1 = some (0, 1) ∧ (armed 0 false 1).baleDone 0 = false ∧ (armed 1 true).baleDone 0 = true ∧
    ({ armed 1 true with balesDone := [] } : State).elemPlace 0 0 0 1 = none ∧ (armed 1 true).getO Obj.GROUP_ELEMS 5 = 2 ∧
    f32.isFinite 0x3F800000 = true ∧ (armed 1 true).chk = [] := by decide +kernel

theorem test_element : (
    after (exec (.updateElementApply 3 1) (armed 1 true)) (fun t =>
      decide ((t.op? 3).map (·.phase) = some .executed ∧ t.getO Obj.GROUP_STEP 5 = 1 ∧ t.getO Obj.GROUP_POW1 5 = 7 ∧ t.updWait = [])) ∧
    after (exec (.updateElementApply 3 1) (armed 0 false 1)) (fun t =>
      decide (((t.op? 3).bind (·.upd)).map (·.done) = some 1 ∧ t.getO Obj.UPDATE_ELEMS_DONE = 1)) ∧
    after (exec (.updateElementApply 3 0) (armed 1 true)) (fun t => decide (t = armed 1 true))) := by decide +kernel

/-- THRESH_RUN and MERGE_LOAD on die 0, with a table of the merges given at 0x2000. -/
def thresh (c n : Nat) (ms : List Nat) : State :=
  let s := ready4 8 c
  let d := cmdDesc 8 c 0 [] (if c = 1 then n * 2 ^ 488 + 9 * 2 ^ 476 else 0x2000 * 2 ^ 428 + n * 2 ^ 409)
  { (s.setOp 3 { unit := 0x32A, stream := 0, desc := d, phase := .ready }).poke 0x2000 (ms.flatMap (leBytes 8)) with readyQ := [3] }

theorem witness_thresher : mayBegin (thresh 1 4 []) 8 1 = true ∧ mayBegin (thresh 2 2 []) 8 2 = true ∧ ((thresh 1 4 []).thr 0).run = none ∧
    thMerges (cmdDesc 8 2 0 [] (0x2000 * 2 ^ 428 + 2 * 2 ^ 409)) = 2 ∧ (thresh 2 2 []).chk = [] ∧
    (((thresh 1 4 []).setThr 0 { run := some 9 }).thr 0).run.isSome = true := by decide +kernel

theorem test_thresher : (
    after (exec (.threshRun 3) (thresh 1 4 [])) (fun t => decide (t.thr 0 = { run := some 3, left := 5 })) ∧
    after (exec (.threshRun 3) ((thresh 1 4 []).setThr 0 { run := some 9 })) (fun t => decide ((t.op? 3).map (·.blocked) = some true)) ∧
    after (exec (.mergeLoad 3) (thresh 2 2 [5, 256])) (fun t => decide ((t.thr 0).merges = [5, 256] ∧ t.getO Obj.THRESH_MERGES 0 = 2)) ∧
    after (exec (.mergeLoad 3) (thresh 2 2 [5, 257])) (fun t =>
      decide ((t.op? 3).map (·.phase) = some (.failing 1 4 0) ∧ (t.thr 0).merges = []))) := by decide +kernel

/-- A run of five positions on die 0; ring 9 holds one sample descriptor; class 2 takes blobs. -/
def sampling (d : Nat) (x : Thr := {}) : State :=
  let s := ((idle.setO Obj.SHUF_SAMPLES 4).setO Obj.CLASS_MODALITY 4 2).setO Obj.CLASS_SLOTS 2 2
  let s := (s.setRing 9 { base := 0x3000, log2 := 4, binding := 3, p := 1 }).poke 0x3000 (leBytes 64 d)
  (s.setOp 3 { unit := 0x32A, stream := 0, desc := cmdDesc 8 1 4 [] (4 * 2 ^ 488 + 9 * 2 ^ 476), phase := .executing }).setThr 0
    { x with run := some 3, left := 5 }
/-- Position 0 of data epoch 0 is sample `v`. -/
def sampleDesc (v : Nat) : Nat := 0x5000 * 2 ^ 464 + v * 2 ^ 336 + 2 * 2 ^ 273
def first : Nat := (shuffle 4 ((sampling 0).getO Obj.WINNOW_JOB_SEED) 0 0).1

theorem witness_sample : (sampling (sampleDesc first)).running? 0 =
      some (3, { unit := 0x32A, stream := 0, desc := cmdDesc 8 1 4 [] (4 * 2 ^ 488 + 9 * 2 ^ 476), phase := .executing }) ∧ thRing (cmdDesc 8 1 4 [] (4 * 2 ^ 488 + 9 * 2 ^ 476)) = 9 ∧
    ((sampling 0).ring 9).fill = 1 ∧ (sampling 0).chk = [] ∧ (sampling 0).sampleBad 0 (sampleDesc first) = false ∧
    sdSample (sampleDesc first) = first ∧ (sampling 0).thrPos 0 0 = 0 ∧ ((sampling 0).ring 9).notify = 0xFFFF ∧
    ((sampling 0).setO Obj.THRESH_SKIP 1 0 2).getO Obj.THRESH_SKIP 0 2 = 1 ∧ (sampling 0).thrPos 0 4 = 4 := by decide +kernel

theorem test_sample : (
    after (exec (.sampleDescriptorTake 0) (sampling (sampleDesc first))) (fun t =>
      decide ((t.thr 0).lanes.map (fun l => (l.k, l.cls)) = [(0, 2)] ∧ t.getO Obj.THRESH_NEXT_K 0 = 1 ∧ (t.ring 9).c = 1)) ∧
    after (exec (.sampleDescriptorTake 0) ((sampling (sampleDesc first)).setO Obj.THRESH_SKIP 1 0 2)) (fun t =>
      decide ((t.thr 0).lanes = [] ∧ t.getO Obj.THRESH_SKIP 0 2 = 0 ∧ (t.thr 0).past = [{ epoch := 0, k := 0, cls := 2, seq := 1, skipped := true }])) ∧
    after (exec (.sampleDescriptorTake 0) (sampling (sampleDesc (first + 1)))) (fun t =>
      decide ((t.op? 3).map (·.phase) = some (.failing 0 3 0)))) := by decide +kernel

def lane (done : Bool) : Lane :=
  { epoch := 0, k := 0, pos := 0, sample := first, cls := 2, desc := sampleDesc first, done := done, head := 77, body := [(64, [1, 2])] }
/-- A blob record of two bytes at 0x5000. -/
def blob (crc : Nat) : State :=
  ((sampling 0 { lanes := [lane false] }).setO Obj.CLASS_EXT0 8 2).poke 0x5000
    (leBytes 16 (sheafMagic + 2 * 2 ^ 32 + tBLOB * 2 ^ 64 + crc * 2 ^ 96) ++ [1, 2])

/-- A token record at 0x5000 for a class of that modality, with room for `room` decoded bytes. -/
def tokens (room : Nat) : State :=
  (((sampling 0 { lanes := [lane false] }).setO Obj.CLASS_MODALITY 3 2).setO Obj.CLASS_EXT0 8 2).setO Obj.THRESH_WORK_BYTES room 0 |>.poke 0x5000
    (leBytes 16 (sheafMagic + 4 * 2 ^ 32 + tTOKENS * 2 ^ 64 + crc32c [1, 0, 0, 0] * 2 ^ 96) ++ [1, 0, 0, 0])
/-- The check of a record's header drops a sample with this reason, 0 where it lets the sample on. -/
def dropOf (s : State) (l : Lane := lane false) : Nat :=
  match (s.headOf 0 l).2 with
  | .fault => 99
  | .drop _ d => d.reason
  | .ok .. => 0
/-- Header word w at 0x5000 and parameter word p at 0x6000 for class 2 of modality m, whose descriptor declares a length. -/
def header (m w p decl : Nat) : Nat :=
  dropOf ((((blob 0).setO Obj.CLASS_MODALITY m 2).poke 0x5000 (leBytes 16 w)).poke 0x6000 (leBytes 128 p))
    { lane false with desc := sampleDesc first + (if m ≤ 2 then 0x6000 * 2 ^ 416 else 0) + decl * 2 ^ 276 }

theorem witness_decode : (blob 0).inLane ((blob 0).thr 0) 0 (lane false) = true ∧ (blob 0).chk = [] ∧
    ((blob 0).thr 0).lanes[0]? = some (lane false) ∧ ((blob 0).thr 0).merges = [] ∧ dropOf (blob 0) = 0 ∧ dropOf (blob 0) (lane true) = 0 ∧
    dropOf (tokens 0) = 0 ∧ (tokens 0).hasRoom 0 0 16 = false ∧ (tokens 64).hasRoom 0 0 16 = true ∧
    dropOf ((blob 0).poke 0x5000 [0]) = 2 := by decide +kernel

theorem witness_head : let w := sheafMagic + 2 * 2 ^ 32
    header 4 0 0 0 = 2 ∧ header 4 (w + tBLOB * 2 ^ 64 + 2 * 2 ^ 80) 0 0 = 3 ∧ header 4 (w + 0x99 * 2 ^ 64) 0 0 = 2 ∧
    header 4 (w + tUTF8 * 2 ^ 64) 0 0 = 9 ∧ header 4 (w + tBLOB * 2 ^ 64) 0 9 = 7 ∧ header 1 (w + tPNG * 2 ^ 64) (2 ^ 1024 - 1) 0 = 7 ∧
    header 1 (w + tPNG * 2 ^ 64) 0 0 = 9 := by decide +kernel

theorem test_crc : crc32c [0x31, 0x32, 0x33, 0x34, 0x35, 0x36, 0x37, 0x38, 0x39] = 0xE3069283 := by decide +kernel

theorem test_decode : (
    after (exec (.sampleDecodeComplete 0 0) (blob (crc32c [1, 2]))) (fun t =>
      decide ((t.thr 0).lanes.map (fun l => (l.done, l.drop, bits l.head 51 48, bits l.head 143 116)) = [(true, none, 0, 1)])) ∧
    after (exec (.sampleDecodeComplete 0 0) (blob (crc32c [1, 2] + 1))) (fun t =>
      decide ((t.thr 0).lanes.map (fun l => (l.done, l.drop, bits l.head 51 40)) = [(true, some 1, 0x101)] ∧ t.getO Obj.THRESH_DROPS 0 = 0)) ∧
    after (exec (.sampleDecodeComplete 0 0) (tokens 64)) (fun t =>
      decide ((t.thr 0).lanes.map (fun l => (l.done, (l.work.map (·.2)).sum)) = [(true, 16)]))) := by decide +kernel

/-- The oldest position is decoded; its class signals semaphore 21 and takes slots from semaphore 20. -/
def emitting (free : Sem) (x : Thr := {}) (l : Lane := lane true) : State :=
  (((sampling 0 { x with lanes := [l] }).setO Obj.CLASS_FREE_SEM 20 2).setO Obj.CLASS_FULL_SEM 21 2).setO Obj.CLASS_OUT_BASE 0x8000 2 |>.setSem 20 free

theorem witness_emit : (emitting {}).getO Obj.CLASS_FREE_SEM 2 = 20 ∧ (emitting {}).getO Obj.CLASS_FULL_SEM 2 = 21 ∧
    ((emitting {}).sem 21).waits = [] ∧ (emitting {}).chk = [] ∧ (emitting {}).poolUsed < 65536 ∧ (emitting {}).ringFor 5 0 = none ∧
    ((emitting {}).thr 0).lanes.head? = some (lane true) ∧ ((emitting {}).thr 0).left = 5 ∧ (lane true).drop = none ∧
    (emitting {}).running? 0 = (sampling 0).running? 0 := by decide +kernel

theorem test_emit : (
    after (exec (.slotEmit 0) (emitting { count := 1 })) (fun t =>
      decide ((t.thr 0).lanes = [] ∧ (t.thr 0).left = 4 ∧ t.byte 0x8000 = 77 ∧ t.peek 0x8040 2 = [1, 2] ∧ (t.sem 20).count = 0 ∧
        (t.sem 21).count = 1)) ∧
    after (exec (.slotEmit 0) (emitting { count := 1 } {} { lane true with drop := some 1 })) (fun t =>
      decide ((t.thr 0).lanes = [] ∧ t.getO Obj.THRESH_DROPS 0 = 1 ∧ t.getO Obj.ERR_LAST_REASON = 0x0601)) ∧
    after (exec (.slotEmit 0) (emitting { count := 1 } {} { lane true with drop := some 7 })) (fun t =>
      decide (t.getO Obj.THRESH_DROPS 0 = 1 ∧ t.getO Obj.ERR_SEQ_NEXT = 0)) ∧
    after (exec (.slotEmit 0) (emitting {})) (fun t => decide ((t.thr 0).waitSlot = true ∧ (t.sem 20).waits.length = 1)) ∧
    after (exec (.slotEmit 0) (emitting { st := 2 })) (fun t => decide ((t.op? 3).map (·.phase) = some (.failing 0 0 0)))) := by decide +kernel

/-! ### Host ports and RoCEv2 (R428 to R443, R454) -/

/-- Host port 1, up, at address 9 of IPv4; the MAC address of its neighbour 8 is 6. -/
def ethUp (x : EthPort := { ip4 := 9, neigh := [(v4 8, 6)] }) : State := ((idle.setO Obj.ETH_LINK_STATE 2 1).setO Obj.ETH_MODE 1 1).setEth 1 x
/-- A frame for everybody with what follows its addresses. -/
def efr (bytes : List Byte := [0x08, 0x06]) (size : Nat := 100) : EthFrame := { dst := 2 ^ 48 - 1, src := 5, size := size, bytes := bytes }
/-- ARP: neighbour 7 has the MAC address 3. -/
def arpReply : List Byte := [8, 6, 0, 1, 8, 0, 6, 4, 0, 2, 0, 0, 0, 0, 0, 3, 0, 0, 0, 7]
def toSeven : TxFrame := { port := 1, dst := 0, src := 0, vlan := 0, prio := 0, body := .ip { src := v4 9, dst := v4 7, load := .echo [] } }
def askedSeven : State := ethUp { ip4 := 9, waiting := [(v4 7, toSeven)] }
/-- What the port sends. -/
def sent (t : State) : List (Nat × TxBody) := t.out.filterMap fun
  | .eth f => some (f.dst, f.body)
  | _ => none
/-- Its address has 32 bits of prefix, with a gateway or none. -/
def narrow (gw : Nat) : State := ethUp { ip4 := 9, ip4pfx := 32, ip4gw := gw, neigh := [(v4 8, 6)] }

theorem witness_frame : ethUp.getO Obj.ETH_LINK_STATE 1 = 2 ∧ ethUp.takesFrame 1 efr = true ∧ ethUp.takesFrame 1 (efr [] 99999) = false ∧
    ethUp.takesPacket 1 [0x08, 0x06] = true ∧ ethUp.takesPacket 1 [0x08, 0x08] = false ∧ beAt [0x08, 0x06] 8 2 ≠ 2 ∧
    beAt arpReply 0 2 = 0x0806 ∧ beAt arpReply 8 2 = 2 ∧ beAt arpReply 10 6 = 3 ∧ (askedSeven.eth 1).waiting = [(v4 (beAt arpReply 16 4), toSeven)] ∧
    (ethUp.eth 1).ip4 = 9 ∧ ethUp.txPaused 1 0 = false ∧ ethUp.getO Obj.ETH_LINK_STATE 0 ≠ 2 ∧ 2 ≤ ethUp.dev ∧
    ethUp.nextHop 1 (v4 8) = some (v4 8) ∧ (narrow 0).nextHop 1 (v4 8) = none ∧ SMap.get 0 (ethUp.eth 1).neigh (v4 8) = 6 ∧
    SMap.get 0 (ethUp.eth 1).neigh (v4 7) = 0 ∧ ethUp.nextHop 1 (v4 7) = some (v4 7) ∧ ethUp.nextHop 1 (ethUp.linkLocal 1) = some (ethUp.linkLocal 1) ∧
    okWrite (ethUp.setO Obj.OWNER_LOCK_HOLDER 0) true Obj.ETH_RESTART 1 0 1 = true := by
  decide +kernel

theorem test_frame : (
    after (exec (.ethFrameReceive 1 efr) ethUp) (fun t => decide (t.getO Obj.ETH_RX_FRAMES 1 = 1)) ∧
    after (exec (.ethFrameReceive 1 { efr with fixed := 3, lost := 1 }) ethUp) (fun t =>
      decide (t.getO Obj.ETH_FEC_CORRECTED 1 = 3 ∧ t.getO Obj.ETH_FEC_UNCORRECTED 1 = 1 ∧ t.getO Obj.ETH_RX_FCS_ERRORS 1 = 1 ∧ t.getO Obj.ETH_RX_DROPS 1 = 1)) ∧
    after (exec (.ethFrameReceive 1 (efr arpReply)) askedSeven) (fun t => decide (sent t = [(3, toSeven.body)] ∧ (t.eth 1).waiting = [])) ∧
    after (exec (.arpRequest 1 efr 9 7) ethUp) (fun t => decide (sent t = [(5, .arp true 7 9)] ∧ SMap.get 0 (t.eth 1).neigh (v4 7) = 5)) ∧
    after (exec (.arpRequest 1 efr 8 7) ethUp) (fun t => decide (t.out = [])) ∧
    after (exec (.neighbourSolicitation 1 efr (ethUp.linkLocal 1) 7) ethUp) (fun t => decide (sent t = [(5, .nd true 7 (ethUp.linkLocal 1))])) ∧
    after (exec (.echoRequest 1 (efr [1]) (v4 9) (v4 8)) ethUp) (fun t => decide (sent t = [(6, .ip { src := v4 9, dst := v4 8, load := .echo [1] })])) ∧
    after (exec (.echoRequest 1 (efr [1]) (v4 9) (v4 7)) ethUp) (fun t =>
      decide (sent t = [(2 ^ 48 - 1, .arp false 7 9)] ∧ (t.eth 1).waiting.map (·.1) = [v4 7])) ∧
    after (exec (.echoRequest 1 (efr [1]) (v4 9) (v4 8)) (narrow 0)) (fun t => decide (t.out = [])) ∧
    after (exec (.ethLinkUp ⟨0, []⟩) ((ethUp.setO Obj.ETH_MODE 1 0).setO Obj.ETH_IPV4_ADDR 77 0)) (fun t =>
      decide (t.getO Obj.ETH_LINK_STATE 0 = 2 ∧ (t.eth 0).ip4 = 77)) ∧
    after (exec (.ethLinkUp ⟨0, [4]⟩) (ethUp.setO Obj.ETH_MODE 2 0)) (fun t => decide (t.getO Obj.ETH_LINK_STATE 0 = 0)) ∧
    after (exec (.ethLinkDown 1) ethUp) (fun t => decide (t.getO Obj.ETH_LINK_STATE 1 = 0 ∧ t.eths = [])) ∧
    after (exec (.ethRestart stw 1) (ethUp.setO Obj.OWNER_LOCK_HOLDER 0)) (fun t =>
      decide (t.getO Obj.ETH_LINK_STATE 1 = 1 ∧ .ethTrain 1 1 [0, 1] false ∈ t.out))) := by
  decide +kernel

theorem test_next_hop : (
    (narrow 4).nextHop 1 (v4 9) = some (v4 9) ∧ (narrow 4).nextHop 1 (v4 8) = some (v4 4) ∧ (narrow 0).nextHop 1 (v4 8) = none ∧
    (ethUp { ip6 := 2 ^ 64, ip6gw := 3 }).nextHop 1 (2 ^ 64 + 7) = some (2 ^ 64 + 7) ∧ (ethUp { ip6gw := 3 }).nextHop 1 (2 ^ 64 + 7) = some 3 ∧
    (ethUp {}).nextHop 1 (2 ^ 64 + 7) = none ∧ (ethUp {}).nextHop 1 (0xFE80 * 2 ^ 112 + 7) = some (0xFE80 * 2 ^ 112 + 7)) := by decide +kernel

/-- A datagram from port 4 of neighbour 8 to address 9. -/
def net (dport : Nat) (prio : Nat := 0) (size : Nat := 100) : Net :=
  { eport := 1, frame := { (efr [] size) with prio := prio }, srcIp := v4 8, dstIp := v4 9, sport := 4, dport := dport }
/-- Priority 3 of host port 1 has been paused for `ms`. -/
def paused (ms : Nat) (x : EthPort := {}) : State :=
  ((ethUp.setO Obj.ETH_PFC_ENABLE 8 1).setO Obj.DEVICE_UPTIME_MS ms).setEth 1 { x with paused := [{ prio := 3, sinceMs := 0 }] }
def pfc : EthFrame := { efr [] with dst := 0x0180C2000001 }
/-- A frame of priority 3 that the pause keeps. -/
def kept3 : TxFrame := { toSeven with prio := 3 }
/-- Packets of priority 3 fill the receive buffer of the port. -/
def full (size : Nat) : State :=
  { ethUp.setO Obj.ETH_PFC_ENABLE 8 1 with roceHeld := [({ net := net 4791 3 size, qp := 0, srcQp := 0 }, true)] }

theorem witness_pause : (paused 101).onePost ∧ ((paused 101).eth 1).paused.find? (fun p => decide (p.prio = 3)) = some { prio := 3, sinceMs := 0 } ∧
    bit ((paused 0).getO Obj.ETH_PFC_ENABLE 1) 3 = true ∧ ((paused 0 { txq := [kept3] }).eth 1).txq = [kept3] ∧ frameWhole pfc = true ∧
    pfc.size ≤ ethUp.getO Obj.ETH_MTU 1 + 22 ∧ (full 786433).heldPrios 1 = [3] ∧ 1048576 - (full 786433).held 1 = 262143 ∧
    1048576 - (full 786432).held 1 = 262144 ∧ (ethUp.eth 1).paused = [] :=
  ⟨onePost_of (by decide +kernel) (by decide +kernel), by decide +kernel⟩

theorem test_pause : (
    after (exec (.pfcStorm 1 3) (paused 101)) (fun t => decide (t.getO Obj.ETH_PFC_STORMS 1 = 1 ∧ t.getO Obj.ERR_LAST_REASON = 0x0802)) ∧
    after (exec (.pfcStorm 1 3) (paused 100)) (fun t => decide (t.getO Obj.ETH_PFC_STORMS 1 = 0)) ∧
    after (exec (.pfcFrameReceive 1 pfc ⟨8, [0, 0, 0, 7]⟩) ((paused 5).setEth 1 {})) (fun t => decide ((t.eth 1).paused = [{ prio := 3, sinceMs := 5 }])) ∧
    after (exec (.pfcFrameReceive 1 pfc ⟨8, [0, 0, 0, 0]⟩) (paused 5 { txq := [kept3] })) (fun t => decide ((t.eth 1).paused = [] ∧ t.out = [.eth kept3])) ∧
    after (exec (.pfcFrameReceive 1 efr ⟨8, [0, 0, 0, 0]⟩) (paused 5)) (fun t => decide ((t.eth 1).paused.length = 1 ∧ t.getO Obj.ETH_RX_DROPS 1 = 1)) ∧
    after (exec (.pfcPauseExpiry 1 3) (paused 5 { txq := [kept3, toSeven] })) (fun t => decide ((t.eth 1).paused = [] ∧ (t.eth 1).txq = [toSeven])) ∧
    (((paused 5).transmit kept3).eth 1).txq = [kept3] ∧ ((paused 5).transmit toSeven).out = [.eth toSeven] ∧
    after (exec (.pfcXoffRepeat 1) (full 786433)) (fun t => decide (sent t = [(0x0180C2000001, .pfc [3] 0xFFFF)])) ∧
    after (exec (.pfcXoffRepeat 1) (full 786432)) (fun t => decide (t.out = []))) := by decide +kernel

/-- Queue pair 2 is READY for queue pair 85 of neighbour 8 at port 1, expects PSN 2^24 − 1, and may write and read 4,096 bytes
from 0x1000 on. -/
def qpair (x : Qp := {}) (g : State := ethUp) : State :=
  let q := { x with st := 1, port := 1, rqpn := 85, ipLo := v4 8, psn := 2 ^ 24 - 1 }
  { (g.setQp 2 q).setRing 4 { base := 0x8000, log2 := 4, binding := 1, target := 0x102 } with
    mrs := [(0, { base := 0x1000, len := 4096, rkey := 77, acc := 3, en := true })] }
def pkt (op psn va len : Nat) (bs : List Byte) : RocePkt :=
  { net := net 4791, qp := 0x102, srcQp := 85, psn := psn, opcode := op, rkey := 77, va := va, len := len, payload := bs }
def topPsn : Nat := 2 ^ 24 - 1
def m1k : List Byte := List.replicate 1024 7
/-- Sixteen read responses of the queue pair wait to be sent. -/
def reading : State :=
  let f : TxFrame := { toSeven with body := .ip { src := v4 9, dst := v4 8, sport := 0xC000, dport := 4791, load := .roce 85 0x10 0 0 [] } }
  qpair {} (ethUp { ip4 := 9, neigh := [(v4 8, 6)], txq := List.replicate 16 f })

/-- A write in progress has come to an area that is protected while the schedule runs. -/
def guarded : State :=
  (((qpair { wr := some (77, 0x3000, 2) }).setO Obj.DEVICE_STATE 4).setO Obj.SCALE_TABLE_BASE 0x3000).setO Obj.SCALE_SLOTS 1

theorem takes_of {s : State} {n : Net} {d : Nat} (h : n.eport < 2 ∧ s.ethUp n.eport = true ∧
    (s.ethCount n.eport n.frame).takesFrame n.eport n.frame = true ∧ (s.ethCount n.eport n.frame).takesNet n d = true) : s.takes n d :=
  ⟨h.1, h.2.1, h.2.2.1, h.2.2.2⟩

theorem witness_queue_pair : qpair.takes (net 4791) 4791 ∧ qpair.asleep = false ∧ qpair.qpFits 2 (pkt 0x0A topPsn 0 0 []) = true ∧
    qpair.nextHop 1 (v4 8) = some (v4 8) ∧ SMap.get 0 (qpair.eth 1).neigh (v4 8) = 6 ∧ (qpair.qp 2).psn = topPsn ∧
    qpair.txPaused 1 (qpair.getO Obj.ETH_ROCE_PRIO 1) = false ∧ 1024 * 2 ^ (qpair.qp 2).pmtu = 4096 ∧
    qpair.mrAdmits (pkt 0x0A topPsn 0x1FFC 4 []) = true ∧ qpair.mrAdmits (pkt 0x0A topPsn 0x1FFD 4 []) = false ∧
    inBell 0x1FFC 4 = false ∧ inBell bellBase 8 = true ∧ qpair.isProtected 0x1000 4096 = false ∧ qpair.chk = [] ∧
    qpair.mrGrants 77 1 0x1000 4096 = true ∧ qpair.ringFor 1 0x102 = some 4 ∧ (qpair.ring 4).size - (qpair.ring 4).fill = 16 ∧
    qpair.readsHeld (qpair.qp 2) = 0 ∧ reading.readsHeld (reading.qp 2) = 16 ∧ guarded.isProtected 0x3000 2 = true  ∧
    ((qpair.setRing 4 { base := 0x8000, log2 := 4, binding := 1, target := 0x102, p := 16 }).ring 4).fill = 16 :=
  ⟨takes_of (by decide +kernel), by decide +kernel⟩

theorem witness_queue_pair_error : qpair.onePost ∧ guarded.onePost ∧ guarded.takes (net 4791) 4791 ∧ (qpair.setO Obj.LP_STATE 3).asleep = true ∧
    qpair.qpFits 2 { pkt 0x0A topPsn 0 0 [] with srcQp := 86 } = false :=
  ⟨onePost_of (by decide +kernel) (by decide +kernel), onePost_of (by decide +kernel) (by decide +kernel), takes_of (by decide +kernel),
    by decide +kernel⟩

/-- Opcode, PSN, syndrome and payload of the packets that the responder sends. -/
def roced (t : State) : List (Nat × Nat × Nat × Nat × List Byte) := (sent t).filterMap fun
  | (_, .ip d) => (match d.load with
    | .roce n op psn syn bs => some (n, op, psn, syn, bs)
    | _ => none)
  | _ => none

theorem test_queue_pair : (
    after (exec (.rdmaWrite (pkt 0x0A topPsn 0x1FFC 4 [1, 2, 3, 4])) qpair) (fun t =>
      decide (t.peek 0x1FFC 4 = [1, 2, 3, 4] ∧ (t.qp 2).psn = 0 ∧ (t.qp 2).msn = 1 ∧ roced t = [(85, 0x11, topPsn, synACK, [])])) ∧
    after (exec (.rdmaWrite (pkt 0x08 topPsn 0 0 [1, 2])) (qpair { wr := some (77, 0x1000, 2) })) (fun t =>
      decide (t.peek 0x1000 2 = [1, 2] ∧ (t.qp 2).wr = none)) ∧
    after (exec (.rdmaWrite (pkt 0x08 topPsn 0 0 [1, 2])) guarded) (fun t =>
      decide ((t.qp 2).st = 2 ∧ (t.qp 2).cause = 2 ∧ t.getO Obj.ERR_LAST_REASON = 0x0801)) ∧
    after (exec (.rdmaWrite (pkt 0x0A topPsn 0x1FFD 4 [1, 2, 3, 4])) qpair) (fun t =>
      decide ((t.qp 2).st = 2 ∧ (t.qp 2).cause = 2 ∧ t.getO Obj.ROCE_ACCESS_ERRORS = 1)) ∧
    after (exec (.rdmaWrite (pkt 0x0A 0 0x1000 1 [1])) qpair) (fun t => decide ((t.qp 2).nakSent = true ∧ (t.qp 2).psn = topPsn)) ∧
    after (exec (.rdmaReadRequest (pkt 0x0C topPsn 0x1000 2 [])) qpair) (fun t =>
      decide (roced t = [(85, 0x10, topPsn, synACK, [0, 0])] ∧ (t.qp 2).psn = 0)) ∧
    after (exec (.rdmaReadRequest (pkt 0x0C topPsn 0x1000 2 [])) reading) (fun t => decide ((t.qp 2).st = 2 ∧ (t.qp 2).cause = 1)) ∧
    after (exec (.roceInvalidOpcode (pkt 0x14 topPsn 0 0 [])) qpair) (fun t => decide ((t.qp 2).st = 2 ∧ (t.qp 2).cause = 1))) := by decide +kernel

theorem test_send : (
    after (exec (.roceSend (pkt 0x04 topPsn 0 0 (List.replicate 128 7))) qpair) (fun t =>
      decide ((t.ring 4).p = 2 ∧ t.byte 0x8040 = 7 ∧ t.byte 0x8080 = 0)) ∧
    after (exec (.roceSend (pkt 0x04 topPsn 0 0 (List.replicate 64 7)))
        (qpair.setRing 4 { base := 0x8000, log2 := 4, binding := 1, target := 0x102, p := 16 })) (fun t =>
      decide (roced t = [(85, 0x11, topPsn, synRNR, [])] ∧ (t.qp 2).psn = topPsn)) ∧
    after (exec (.roceSend (pkt 0x00 topPsn 0 0 m1k)) (qpair { pmtu := 0 })) (fun t => decide ((t.qp 2).snd = some m1k ∧ (t.ring 4).p = 0)) ∧
    after (exec (.roceSend (pkt 0x04 topPsn 0 0 (List.replicate 64 7))) (qpair.setO Obj.LP_STATE 3)) (fun t =>
      decide (t.roceHeld.length = 1 ∧ (t.ring 4).p = 0)) ∧
    after (exec (.rdmaWrite { pkt 0x0A topPsn 0x1000 1 [1] with srcQp := 86 }) qpair) (fun t => decide ((t.qp 2).psn = topPsn ∧ t.out = []))) := by
  decide +kernel

theorem test_congestion : (
    after (exec (.cnp (pkt 0x81 0 0 0 []) 1000000) qpair) (fun t => decide ((t.qp 2).rate = 200000 ∧ t.getO Obj.ETH_CNP_RX 1 = 1)) ∧
    after (exec (.cnp (pkt 0x81 0 0 0 []) 0) qpair) (fun t => decide ((t.qp 2).rate = 0)) ∧
    after (exec (.rdmaWrite { pkt 0x0A topPsn 0x1000 1 [1] with ce := true, cnpUs := 1000000 }) qpair) (fun t =>
      decide ((roced t).map (·.2.1) = [0x81, 0x11] ∧ t.getO Obj.ETH_CNP_TX 1 = 1)) ∧
    after (exec (.roceRateIncrease 0x102) (qpair { rate := 200000 })) (fun t => decide ((t.qp 2).rate = 220000)) ∧
    after (exec (.roceRateIncrease 0x102) (qpair { rate := 380000 })) (fun t => decide ((t.qp 2).rate = 0))) := by decide +kernel

/-! ### Sessions and the dictionary (R445 to R467, R522, R527) -/

/-- Session 2 is open to port 4 of neighbour 8, of key slot 3, in a state of the device. -/
def sess : Session :=
  { st := 2, gen := 5, keySlot := 3, ip := v4 8, uport := 4, eport := 1, lip := v4 9, key := List.replicate 32 1, lastSeq := 4, lastResp := [1] }
def opened (dev : Nat) (holder : Nat := 0xFF) (x : Session := sess) : State :=
  ((ethUp.setO Obj.DEVICE_STATE dev).setO Obj.OWNER_LOCK_HOLDER holder).setSession 2 x
/-- The header of its next request, with the MAC for a type and body. -/
def yh (typ : Nat) (body : List Byte) (seq : Nat := 5) : YHdr :=
  let h : YHdr := { net := net ethUp.udpPort, session := 5 * 16 + 2, seq := seq }
  { h with mac := sess.macOf h typ body }
/-- An open session's next request. -/
theorem accepts_of {s : State} {h : YHdr} {typ : Nat} {body : List Byte} (h1 : s.served h.eport = true) (h2 : s.takes h.net s.udpPort)
    (h3 : s.sessionFits h 2 = true ∧ h.mac = (s.session (sessionSlot h)).macOf h typ body ∧ h.seq = (s.session (sessionSlot h)).lastSeq + 1 ∧
      h.seq < 2 ^ 32 ∧ h.plain = true ∧ h.raw = none ∧ yBodyOk typ body = true) : s.accepts (.ydp h) typ body := ⟨h1, h2, h3⟩
/-- The source of its write of v to an object. -/
def wsrc (o : ObjDef) (i j v : Nat) : Src :=
  .ydp (yh 4 (leBytes 2 (o.index + i) ++ leBytes 1 (o.sub + j) ++ leBytes 1 o.ty.code ++ leBytes o.ty.bytes v))
def okSess (s : State) (o : ObjDef) (i j v : Nat) : Bool :=
  let src := wsrc o i j v
  let u := s.taken src
  let body := leBytes 2 (o.index + i) ++ leBytes 1 (o.sub + j) ++ leBytes 1 o.ty.code ++ leBytes o.ty.bytes v
  (match src with
    | .ydp h => s.served h.eport && s.sessionFits h 2 && decide (h.mac = (s.session (sessionSlot h)).macOf h 4 body ∧
        h.seq = (s.session (sessionSlot h)).lastSeq + 1 ∧ h.plain = true ∧ h.raw = none ∧ yBodyOk 4 body = true)
    | _ => false) && decide (v < 2 ^ (8 * o.ty.bytes)) && (!needsLock o || u.owns src) && u.stateAdmits false o (o.index + i) &&
    !u.ringLocked src.rq o && decide (u.stateRule o = none) && decide (v &&& o.resv = 0) && u.valueOk src.rq o i j v

theorem test_sm3 : ofBytesBE (sm3 [0x61, 0x62, 0x63]) = 0x66C7F0F462EEEDD9D1F2D46BDC10E4E24167C4875CF2F7A2297DA02B8F4BA8E0 := by decide +kernel

/-- A CONFIRM's S_A, and the session that waits for it. -/
def sevens : List Byte := List.replicate 32 7
def confirming : State := opened 3 0xFF { sess with st := 1, sa := sevens, lastSeq := 0 }
/-- A request whose header carries nonzero FLAGS, under the right MAC, and one whose SEQ is n. -/
def flagged : YHdr := let h := { yh 10 [] with flags := 1 }; { h with mac := sess.macOf h 10 [] }
def num (n : Nat) : YHdr := yh 10 [] n

theorem witness_session : (opened 3).served 1 = true ∧ (opened 3).takes (yh 10 []).net (opened 3).udpPort ∧
    (opened 3).sessionFits (yh 10 []) 2 = true ∧ confirming.sessionFits (yh 2 sevens 1) 1 = true ∧
    (yh 10 []).mac = ((opened 3).session (sessionSlot (yh 10 []))).macOf (yh 10 []) 10 [] ∧ (opened 3).sems = [] ∧
    (yh 10 []).plain = true ∧ flagged.plain = false ∧ flagged.mac = sess.macOf flagged 10 [] ∧ (opened 3).sessionFits flagged 2 = true ∧
    (opened 3).sessionFits { yh 10 [] with session := 2 } 2 = false ∧ (num 3).mac = sess.macOf (num 3) 10 [] ∧ yBodyOk 8 [] = false ∧
    (opened 3).nextHop 1 (v4 8) = some (v4 8) ∧ SMap.get 0 ((opened 3).eth 1).neigh (v4 8) = 6 ∧ (opened 3).txPaused 1 0 = false ∧
    (confirming.setO Obj.DEVICE_UPTIME_MS 2000).getO Obj.DEVICE_UPTIME_MS = 2000 ∧ okSess (opened 3 2) Obj.SESSION_SEL_CLOSE 0 0 1 = true ∧
    okSess (opened 3) Obj.OWNER_LOCK_TAKE 0 0 1 = true ∧ okSess (opened 3 2) Obj.OWNER_LOCK_TAKE 0 0 2 = true ∧
    bit ((opened 3).getO Obj.OWNER_KEY_MASK) 3 = true :=
  ⟨by decide +kernel, takes_of (by decide +kernel), by decide +kernel⟩

theorem test_session : (
    after (exec (.confirm (yh 2 sevens 1) sevens) confirming) (fun t => decide ((t.session 2).st = 2 ∧ (t.session 2).lastSeq = 1)) ∧
    (let bad := 8 :: sevens.drop 1
     after (exec (.confirm (yh 2 bad 1) bad) confirming) (fun t => decide ((t.session 2).st = 1 ∧ t.getO Obj.SESSION_AUTH_FAILS = 1))) ∧
    after (exec (.confirm (yh 2 sevens 2) sevens) confirming) (fun t => decide (t.getO Obj.SESSION_SEQ_DISCARDS = 1 ∧ t.out = [])) ∧
    after (exec (.handshakeTimeout 2) (confirming.setO Obj.DEVICE_UPTIME_MS 2000)) (fun t => decide (t.session 2 = { gen := 5 })) ∧
    after (exec (.handshakeTimeout 2) (confirming.setO Obj.DEVICE_UPTIME_MS 1999)) (fun t => decide ((t.session 2).st = 1)) ∧
    after (exec (.sessionExpiry 2) ((opened 3 2).setO Obj.DEVICE_UPTIME_MS 9999999)) (fun t =>
      decide (t.session 2 = { gen := 5 } ∧ t.getO Obj.OWNER_LOCK_HOLDER = 0xFF)) ∧
    after (exec (.ping (yh 10 [])) (opened 3)) (fun t => decide ((t.session 2).lastSeq = 5 ∧ t.out.length = 1)) ∧
    after (exec (.ping { yh 10 [] with mac := 0 }) (opened 3)) (fun t => decide (t.getO Obj.SESSION_BAD_MACS = 1 ∧ t.out = [])) ∧
    after (exec (.ping (num 3)) (opened 3)) (fun t => decide (t.getO Obj.SESSION_SEQ_DISCARDS = 1 ∧ t.out = [])) ∧
    after (exec (.ping (num 4)) (opened 3)) (fun t => decide ((sent t).length = 1 ∧ (t.session 2).lastSeq = 4)) ∧
    after (exec (.close (yh 9 [])) (opened 3)) (fun t => decide (t.session 2 = { gen := 5 }))) := by decide +kernel

theorem test_owner_lock : (
    after (exec (.ownerLockTake (wsrc Obj.OWNER_LOCK_TAKE 0 0 1)) (opened 3)) (fun t => decide (t.getO Obj.OWNER_LOCK_HOLDER = 2 ∧ t.dev = 5)) ∧
    after (exec (.ownerLockTake (wsrc Obj.OWNER_LOCK_TAKE 0 0 1)) (opened 3 7)) (fun t =>
      decide (t.getO Obj.OWNER_LOCK_HOLDER = 7 ∧ t.getO Obj.OWNER_LOCK_REFUSALS = 1)) ∧
    after (exec (.ownerLockRelease (wsrc Obj.OWNER_LOCK_TAKE 0 0 2)) (opened 3 2)) (fun t => decide (t.getO Obj.OWNER_LOCK_HOLDER = 0xFF))) := by
  decide +kernel

/-- A HELLO of key slot 3 whose key and R_A are the curve's base point. -/
def base : List Byte := ptBytes (sm2Gx, sm2Gy)
def helloBody (k : Nat) : List Byte := leBytes 1 k ++ leBytes 1 1 ++ leBytes 2 0 ++ base ++ [0x41]
def known : State := { ethUp.setO Obj.CLIENT_KEY_EN 1 3 with blob := [(Obj.CLIENT_KEY.key 3, base)] }
def hh : YHdr := { net := net ethUp.udpPort, session := 0, seq := 1 }
/-- The YDP messages that the device sends. -/
def ydps (t : State) : List (List Byte) := (sent t).filterMap fun
  | (_, .ip d) => (match d.load with
    | .ydp m => some m
    | _ => none)
  | _ => none

theorem witness_hello : known.served 1 = true ∧ helloOk hh (helloBody 3) = true ∧ known.getO Obj.CLIENT_KEY_EN 3 ≠ 0 ∧
    ptOf (SMap.get [] known.blob (Obj.CLIENT_KEY.key 3)) = some (sm2Gx, sm2Gy) ∧ ptOf (((helloBody 3).drop 4).take 64) = some (sm2Gx, sm2Gy) ∧
    known.freeSlot = some 0 ∧ known.getO Obj.CLIENT_KEY_EN 0 = 0 ∧ helloOk hh [] = false ∧
    ({ known with sessions := (List.range 16).map fun n => (n, sess) } : State).freeSlot = none ∧
    ({ known with helloSec := (0, 32) } : State).helloSec = (known.getO Obj.DEVICE_UPTIME_MS / 1000, 32) := by decide +kernel

theorem test_hello : (
    after (exec (.hello hh []) known) (fun t => decide (ydps t = [yHead 1 1 10 0 0 1])) ∧
    after (exec (.hello hh (helloBody 0)) known) (fun t => decide (t.out = [])) ∧
    after (exec (.hello hh (helloBody 3)) { known with helloSec := (0, 32) }) (fun t => decide (t.getO Obj.SESSION_HELLO_DROPPED = 1))) := by
  decide +kernel

/-- STATUS of the last response. -/
def status (t : State) : Option Nat :=
  match t.out.getLast? with
  | some (.steward _ st _) => some st
  | _ => (ydps t).getLast?.map fun m => ofBytes ((m.drop 5).take 1)
def put (o : ObjDef) (v : List Byte) (t : Nat := o.ty.code) : Instr := .write stw o.index o.sub t v

theorem test_malformed : (
    after (exec (.ping flagged) (opened 3)) (fun t => decide (status t = some 10)) ∧
    after (exec (.segWriteEnd (yh 8 []) []) (opened 3)) (fun t => decide (status t = some 10)) ∧
    after (exec (.confirm (yh 2 sevens) sevens) (opened 3)) (fun t => decide (status t = some 10))) := by decide +kernel

theorem test_read : (
    after (exec (.read (.ydp (yh 3 [4, 0x40, 0, 0])) 0x4004 0) (opened 3)) (fun t => decide (status t = some 0)) ∧
    after (exec (.read stw Obj.PORT_RETRAIN.index 15) (opened 3)) (fun t => decide (status t = some 2)) ∧
    after (exec (.read stw 0xB000 0) (opened 3)) (fun t => decide (status t = some 1)) ∧
    after (exec (.segRead stw 0x1123 1 0) (opened 3)) (fun t => decide (status t = some 0))) := by decide +kernel

theorem test_write : (
    after (exec (put Obj.SROUND_PERMIT [0]) (opened 5 2)) (fun t => decide (status t = some 0 ∧ t.getO Obj.SROUND_PERMIT = 0)) ∧
    after (exec (put Obj.OWNER_KEY_MASK [0]) (opened 5)) (fun t => decide (status t = some 4)) ∧
    after (exec (put Obj.SROUND_PERMIT [2]) (opened 5 2)) (fun t => decide (status t = some 5)) ∧
    after (exec (put Obj.DEVICE_STATE [0]) (opened 5 2)) (fun t => decide (status t = some 2)) ∧
    after (exec (put Obj.LINK_FEC_ALARM [1, 0, 0, 0]) (opened 3 2)) (fun t => decide (status t = some 3)) ∧
    after (exec (put Obj.LINK_FEC_ALARM [1] 1) (opened 5 2)) (fun t => decide (status t = some 6)) ∧
    after (exec (put Obj.FW_ACTIVATE [9]) (opened 4 2)) (fun t => decide (status t = some 3)) ∧
    after (exec (put Obj.FW_ACTIVATE [9]) (opened 5 2)) (fun t => decide (status t = some 5)) ∧
    after (exec (.write stw 0x1000 255 1 [1]) (opened 7 2)) (fun t => decide (status t = some 7))) := by decide +kernel

/-- Segmented writes of the session. -/
def segStart_ (idx sub total : Nat) : Instr :=
  .segWriteStart (yh 6 (leBytes 2 idx ++ leBytes 1 sub ++ leBytes 1 0 ++ leBytes 4 total)) idx sub total
def segData_ (off : Nat) (bs : List Byte) : Instr := .segWriteData (yh 7 (leBytes 4 off ++ bs)) off bs
def writing (o : ObjDef) (i total : Nat) (bs : List Byte) : State :=
  opened 5 2 { sess with seg := some { idx := o.index + i, sub := o.sub, total := total, data := bs } }
def image : List Byte := leBytes 8 (2 ^ 32)

theorem witness_segment : ((opened 5 2).setSeg 2 none).segTarget 2 0x1123 1 = .ok (Obj.CLIENT_KEY, 3) ∧
    ((opened 5).setSeg 2 none).segTarget 2 0x1123 1 = .error 4 ∧ ((opened 5 2).setSeg 2 none).segRivals 2 0x1123 1 = [] ∧
    blobLimit Obj.CLIENT_KEY = 64 ∧
    (((opened 5 2).setSession 3 { seg := some { idx := 0x1123, sub := 1, total := 4 } }).setSeg 2 none).segRivals 2 0x1123 1 = [3] ∧
    ((opened 5 2).setSeg 2 none).fwRefusal = none ∧ ((opened 5 2).setO Obj.OWNER_UPDATE_INHIBIT 1).fwRefusal = some (3, 6) ∧
    clientKeyOk base = true ∧ clientKeyOk [1] = false ∧ headKind (imageHead image) = 1 ∧ headKind (imageHead []) = 0 := by decide +kernel

theorem test_segment : (
    after (exec (segStart_ 0x1123 1 64) (opened 5 2)) (fun t =>
      decide (status t = some 0 ∧ (t.session 2).seg = some { idx := 0x1123, sub := 1, total := 64 })) ∧
    after (exec (segData_ 1 [2]) (writing Obj.CLIENT_KEY 3 2 [1])) (fun t => decide (((t.session 2).seg.map (·.data)) = some [1, 2])) ∧
    after (exec (segData_ 0 [2]) (writing Obj.CLIENT_KEY 3 2 [1])) (fun t => decide (status t = some 9))) := by decide +kernel

theorem test_segment_end : (
    after (exec (.segWriteEnd (yh 8 (sm3 base)) (sm3 base)) (writing Obj.CLIENT_KEY 3 64 base)) (fun t =>
      decide (status t = some 0 ∧ t.blob = [(Obj.CLIENT_KEY.key 3, base)] ∧ (t.session 2).seg = none)) ∧
    after (exec (.attestNonce (yh 8 (sm3 (base.take 32))) (sm3 (base.take 32))) (writing Obj.ATTEST_NONCE 0 32 (base.take 32))) (fun t =>
      decide (status t = some 0 ∧ t.attestRun = [2])) ∧
    after (exec (.fwUpdateImage (yh 8 (sm3 image)) (sm3 image)) (writing Obj.FW_UPDATE_IMAGE 0 8 image)) (fun t =>
      decide (status t = some 0 ∧ t.fwStage = some (0, image) ∧ t.getO Obj.FW_UPDATE_STATUS = 1))) := by decide +kernel

/-! ### Kernels and the crib (R115, R186 to R196) -/

/-- Two page tables in the loft, a pool of four pages with metadata at 0x1000 and its data at 0x10000. -/
def cribOp (c rest : Nat) (src dst : List Nat) (counts : List Nat) : State :=
  let s := opState (cmdDesc 4 c (if c = 0x10 then 2 else 0) [L0, L0 + 32, L0 + 64] rest)
    (if c = 0x10 then [td (L0 + 0x1000) 2 [2] [], td (L0 + 0x1200) 1 [1] [], td (L0 + 0x1300) 1 [1] []]
      else [td (L0 + 0x1000) 2 [2] [], td (L0 + 0x1100) 2 [2] []])
    [(L0 + 0x1000, f32s src), (L0 + 0x1100, f32s dst), (0x1000, f32s counts), (0x1010, f32s [0, 1, 2, 3]),
      (L0 + 0x1200, f32s [5]), (L0 + 0x1300, f32s [6])]
  let s := ((s.setO Obj.CRIB_POOL_PAGES 4).setO Obj.CRIB_META_BASE 0x1000).setO Obj.CRIB_POOL_BASE 0x10000
  ((s.setO Obj.CRIB_POOL_STATE 1).setO Obj.CRIB_PAGE_DIM 1).setO Obj.CRIB_PAGE_KV_HEADS 1
/-- Entries 0 and 1 of sequence 0. -/
def both : Nat := 1 * 2 ^ 303
def share : State := cribOp 0x11 both [2, 0xFFFFFFFF] [0xFFFFFFFF, 7] [0, 0, 1, 0]
def free12 : State := cribOp 0x12 both [2, 3] [0, 0] [0, 0, 1, 2]
def append : State := (cribOp 0x10 0 [0xFFFFFFFF, 7] [] [0, 0, 0, 0]).setO Obj.CRIB_PAGES_FREE 4
def word (s : State) (a : Nat) : Nat := ofBytes (s.peek a 4)
def tabs (s : State) : List Nat := (((s.op? 3).map (·.got.list)).getD []).map fun t => t.addr [1, 0]

theorem witness_run_kernel : mayBegin (ready4 2 0x10) 2 0x10 = true ∧ ((ready4 2 0x10).ctx 0 (rkCtx (cmdDesc 2 0x10 0 [L0, L0 + 32, L0 + 64]))).st = .free ∧
    mayBegin ((ready4 2 0x10).setCtx 0 (rkCtx (cmdDesc 2 0x10 0 [L0, L0 + 32, L0 + 64])) { st := .ready }) 2 0x10 = true := by decide +kernel

theorem witness_crib : (mayBegin share 4 0x11 ∧ mayBegin free12 4 0x12 ∧ mayBegin append 4 0x10) ∧
    mayBegin { append with fences := List.replicate 4096 0 } 4 0x10 ∧
    tabs share = [L0 + 0x1004, L0 + 0x1104] ∧ word share (L0 + 0x1000) = 2 ∧ word share 0x1008 = 1 ∧ word share (L0 + 0x1100) = unmapped ∧
    word free12 (L0 + 0x1004) = 3 ∧ word free12 0x100C = 2 ∧ 0x1000 + 24 * 4 ≤ L0 := by decide +kernel

theorem test_run_kernel : (
    after (exec (.runKernel 3) (ready4 2 0x10)) (fun t =>
      let c := t.ctx 0 (rkCtx (cmdDesc 2 0x10 0 [L0, L0 + 32, L0 + 64]))
      decide (c.st = .ready ∧ c.op = 3 ∧ c.tag = 7)) ∧
    after (exec (.runKernel 3) ((ready4 2 0x10).setCtx 0 (rkCtx (cmdDesc 2 0x10 0 [L0, L0 + 32, L0 + 64])) { st := .ready })) (fun t =>
      decide ((t.op? 3).map (·.blocked) = some true ∧ t.readyQ = [3]))) := by decide +kernel

theorem test_crib : (
    after (exec (.cribShare 3) share) (fun t =>
      decide (word t (L0 + 0x1100) = 2 ∧ word t (L0 + 0x1104) = 7 ∧ word t 0x1008 = 2 ∧ (t.op? 3).map (·.phase) = some .executed)) ∧
    after (exec (.cribFree 3) free12) (fun t =>
      decide (word t (L0 + 0x1000) = unmapped ∧ word t (L0 + 0x1004) = unmapped ∧ word t 0x1008 = 0 ∧ word t 0x100C = 1 ∧
        t.getO Obj.CRIB_PAGES_PENDING = 1 ∧ word t 0x1020 = 2)) ∧
    after (exec (.cribAppend 3) append) (fun t =>
      decide (word t (L0 + 0x1000) = 3 ∧ word t 0x100C = 1 ∧ t.getO Obj.CRIB_PAGES_FREE = 3 ∧ t.fences.length = 1 ∧
        (t.op? 3).map (·.phase) = some .executed))) := by decide +kernel

/-- The page of entry 0: mapped alone, shared, and unmapped with a free page or none. -/
def pool (p count left : Nat) : State := (cribOp 0x10 0 [p, 7] [] [count, count, 0, 0]).setO Obj.CRIB_PAGES_FREE left
def entryTab : TD := TD.parse (td (L0 + 0x1000) 2 [2] [])

theorem witness_crib_pool : (pool unmapped 0 4).chk = [] ∧ entryTab.addr [0, 0] = L0 + 0x1000 ∧ word (pool 1 1 4) 0x1004 = 1 ∧
    word (pool 1 2 4) 0x1004 = 2 ∧ word (pool 1 2 4) (0x1010 + 4 * 3) = 3 ∧ (pool 1 2 4).cribPageBytes % 64 = 0 ∧
    0x1000 + 24 * 4 ≤ 0x10000 ∧ 0x10000 + 4 * (pool 1 2 4).cribPageBytes ≤ L0 := by decide +kernel

theorem test_crib_pool : (
    decide (((pool unmapped 0 4).appendPage entryTab 0 0).2 = .ok 3) ∧ decide (((pool 1 1 4).appendPage entryTab 0 0).2 = .ok 1) ∧
    (let w := (pool 1 2 4).appendPage entryTab 0 0
     decide (w.2 = .ok 3 ∧ word w.1 (L0 + 0x1000) = 3 ∧ word w.1 0x1004 = 1 ∧ w.1.getO Obj.CRIB_COPIES = 1)) ∧
    decide (((pool unmapped 0 0).appendPage entryTab 0 0).2 = .error (.crib 0)) ∧
    after (exec .cribReclaim { ((pool 1 2 2).setO Obj.CRIB_PAGES_PENDING 1).poke 0x1020 (leBytes 16 (1 + 5 * 2 ^ 64)) with fences := [5] }) (fun t =>
      decide (t.getO Obj.CRIB_PAGES_FREE = 3 ∧ t.getO Obj.CRIB_PAGES_PENDING = 0 ∧ word t 0x1018 = 1 ∧ t.ringHead = 1)) ∧
    after (exec .cribReclaim { ((pool 1 2 2).setO Obj.CRIB_PAGES_PENDING 1).poke 0x1020 (leBytes 16 (1 + 5 * 2 ^ 64)) with fences := [4] }) (fun t =>
      decide (t.getO Obj.CRIB_PAGES_PENDING = 1))) := by decide +kernel

/-! ### Probes, unit commands, low power, store and firmware (R68, R102, R203, R275, R365, R473 to R476, R496 to R501, R522 to R533) -/

theorem witness_probe : okWrite owned true Obj.WINNOW_PROBE_DRAW 0 0 7 = true ∧ okWrite (owned.setSel 16 Obj.SHUF_PROBE_SAMPLES 4) true Obj.SHUF_PROBE_POS 0 0 3 = true ∧
    okWrite owned true Obj.SHUF_SAMPLES 0 0 9 = true ∧ okWrite owned true Obj.QUEUE_CFG_BASE 0 0 4096 = true ∧
    okWrite owned true Obj.QUEUE_CFG_LOG2_SIZE 0 0 16 = true ∧ okWrite owned true Obj.QUEUE_CFG_BINDING 0 0 3 = true ∧
    okWrite owned true Obj.QUEUE_CFG_TARGET 0 0 1 = true ∧ okWrite owned true Obj.QUEUE_CFG_NOTIFY_SEM 0 0 0x1000 = true ∧
    owned.ring 0 = {} ∧ (owned.setRing 1 { binding := 3 }).rings = [(1, { binding := 3 })] := by decide +kernel

theorem test_probe : (
    after (exec (.winnowProbe stw 6 0) owned) (fun t =>
      let q := winnowBlock 0 0 0 1 0 0
      decide (t.getSel 16 Obj.WINNOW_PROBE_BLOCK_LO = q.a + q.b * 2 ^ 32)) ∧
    after (exec (.shufSamplesWrite stw 9) owned) (fun t => decide (t.getO Obj.SHUF_SAMPLES = 9)) ∧
    after (exec (.shufProbe stw 1) (owned.setSel 16 Obj.SHUF_PROBE_SAMPLES 4)) (fun t =>
      decide (t.getSel 16 Obj.SHUF_PROBE_SAMPLE < 4 ∧ 0 < t.getSel 16 Obj.SHUF_PROBE_WALK)) ∧
    after (exec (.queueCfgWrite stw 3 3) (owned.setRing 0 { p := 5, c := 5, stopped := true })) (fun t =>
      decide (t.ring 0 = { binding := 3 } ∧ t.out = [.steward 0 0 0])) ∧
    after (exec (.queueCfgWrite stw 3 3) (owned.setRing 1 { binding := 3 })) (fun t =>
      decide (t.ring 0 = {} ∧ t.out = [.steward 0 5 0])) ∧
    after (exec (.queueCfgWrite stw 5 4096) owned) (fun t => decide (t.out = [.steward 0 5 0])) ∧
    after (exec (.queueCfgWrite stw 4 3200) (owned.setRing 0 { binding := 2 })) (fun t => decide (t.out = [.steward 0 5 0])) ∧
    after (exec (.queueCfgWrite stw 3 2) { owned with rings := (List.range 4).map fun k => (k + 1, { binding := 2, target := k }) }) (fun t =>
      decide (t.out = [.steward 0 5 0]))) := by decide +kernel

/-- The crib pool of four pages with metadata at 0x1000. -/
def crib (st : Nat) : State := ((owned.setO Obj.CRIB_POOL_PAGES 4).setO Obj.CRIB_META_BASE 0x1000).setO Obj.CRIB_POOL_STATE st

theorem witness_unit_write : okWrite (crib 0) true Obj.CRIB_POOL_INIT 0 0 1 = true ∧ okWrite (crib 1) true Obj.CRIB_POOL_INIT 0 0 2 = true ∧
    okWrite owned true Obj.MATRIX_SELFTEST_RUN 0 0 1 = true ∧ okWrite owned true Obj.REDUCE_RESIDUE_TEST 0 0 1 = true ∧
    okWrite (owned.setO Obj.MATRIX_SELFTEST_STATE 1) true Obj.MATRIX_SELFTEST_RUN 0 0 1 = true ∧
    okWrite (owned.setO Obj.REDUCE_RESIDUE_TEST_STATE 1) true Obj.REDUCE_RESIDUE_TEST 0 0 1 = true ∧
    okWrite owned true Obj.CORE_EXCLUDE 799 0 1 = true ∧ okWrite owned true Obj.CLK_CORE_SRC 0 1 1 = true ∧
    okWrite owned true Obj.CLK_CORE_SRC 0 1 0 = true ∧ (owned.setO Obj.REFCLK_PRESENT 1).getO Obj.REFCLK_PRESENT = 1 ∧
    owned.getO Obj.REFCLK_PRESENT = 0 ∧ owned.fences = [] ∧ (crib 0).chk = [] := by decide +kernel

theorem test_unit_write : (
    after (exec (.cribPoolInit stw) (crib 0)) (fun t =>
      decide (t.getO Obj.CRIB_PAGES_FREE = 4 ∧ t.peek 0x1010 16 = [3, 0, 0, 0, 2, 0, 0, 0, 1, 0, 0, 0, 0, 0, 0, 0])) ∧
    after (exec (.cribPoolInit stw) (crib 1)) (fun t => decide (t.out = [.steward 0 5 0])) ∧
    after (exec (.cribPoolRelease stw) (crib 1)) (fun t => decide (t.getO Obj.CRIB_POOL_STATE = 0)) ∧
    after (exec (.cribPoolRelease stw) { crib 1 with fences := [0] }) (fun t => decide (t.getO Obj.CRIB_POOL_STATE = 1)) ∧
    after (exec (.matrixSelftestRun stw) owned) (fun t => decide (t.getO Obj.MATRIX_SELFTEST_STATE = 1)) ∧
    after (exec (.reduceResidueTest stw) owned) (fun t => decide (t.getO Obj.REDUCE_RESIDUE_TEST_STATE = 1)) ∧
    after (exec (.coreExclude stw 799 1) owned) (fun t => decide (t.getO Obj.CORE_EXCLUDE 799 = 1)) ∧
    after (exec (.clkCoreSrc stw 1 1) (owned.setO Obj.REFCLK_PRESENT 1)) (fun t => decide (t.getO Obj.CLK_CORE_SRC 0 1 = 1)) ∧
    after (exec (.clkCoreSrc stw 1 1) owned) (fun t => decide (t.getO Obj.CLK_SWITCH_REFUSALS = 1))) := by decide +kernel

theorem witness_selftest : (owned.setO Obj.MATRIX_SELFTEST_STATE 1).onePost ∧ (owned.setO Obj.REDUCE_RESIDUE_TEST_STATE 1).onePost ∧
    (owned.setO Obj.MATRIX_SELFTEST_STATE 1).getO Obj.MATRIX_SELFTEST_STATE = 1 ∧
    (List.range 800).filter (fun c => decide (c ∈ [799, 800])) = [799] :=
  ⟨onePost_of (by decide +kernel) (by decide +kernel), onePost_of (by decide +kernel) (by decide +kernel), by decide +kernel⟩

theorem test_selftest : (
    after (exec (.residueTestComplete 0xFFFF) (owned.setO Obj.REDUCE_RESIDUE_TEST_STATE 1)) (fun t =>
      decide (t.getO Obj.REDUCE_RESIDUE_TEST_STATE = 2)) ∧
    after (exec (.residueTestComplete 7) (owned.setO Obj.REDUCE_RESIDUE_TEST_STATE 1)) (fun t =>
      decide (t.getO Obj.REDUCE_RESIDUE_TEST_STATE = 3 ∧ t.getO Obj.ERR_LAST_REASON = 0x0502))) := by decide +kernel

/-- A member in READY in low-power state st. -/
def lp (st : Nat) (step : Nat := 0) : State :=
  { ((owned.setO Obj.DEVICE_STATE 3).setO Obj.LP_STATE st).setO Obj.ALMANAC_ROLE 2 with fallowStep := step }

theorem witness_low_power : (∀ v ∈ [0, 1, 2], ∀ st ∈ [0, 1, 2, 3], okWrite (lp st) true Obj.LP_REQUEST 0 0 v = true) ∧
    okWrite ((lp 0).setO Obj.DEVICE_STATE 4) true Obj.LP_REQUEST 0 0 1 = true ∧
    (lp 0).ops = [] ∧ (lp 0).ctxs = [] ∧ (lp 0).sems = [] ∧ (lp 0).changing = false ∧
    ({ lp 0 with storeRun := some [] } : State).changing = true ∧
    (((lp 0).setO Obj.ALMANAC_ROLE 1).setO Obj.PORT_STATE 3 0).isMaster = true ∧
    (((lp 0).setO Obj.ALMANAC_ROLE 1).setO Obj.PORT_STATE 3 0).anyPortUp = true := by decide +kernel

theorem test_low_power : (
    after (exec (.p1Request stw) (lp 0)) (fun t => decide (t.getO Obj.LP_STATE = 1)) ∧
    after (exec (.fallowRequest stw) (((lp 0).setO Obj.ALMANAC_ROLE 1).setO Obj.PORT_STATE 3 0)) (fun t =>
      decide (t.getO Obj.LP_STATUS = 3 ∧ t.out = [.steward 0 5 0])) ∧
    after (exec (.fallowRequest stw) ((lp 0).setCtx 0 0 { st := .ready })) (fun t => decide (t.getO Obj.LP_STATUS = 2)) ∧
    after (exec (.p1Request stw) (lp 1)) (fun t => decide (t.getO Obj.LP_STATUS = 1 ∧ t.out = [.steward 0 3 0])) ∧
    after (exec (.p0Request stw) (lp 1)) (fun t => decide (t.getO Obj.LP_STATE = 0 ∧ t.getO Obj.CLK_CORE_MULT_NOW 0 1 = 4)) ∧
    after (exec (.p0Request stw) (lp 3)) (fun t => decide (t.getO Obj.LP_STATE = 4))) := by decide +kernel

theorem test_low_power_ends : (
    after (exec .fallowEntryStep ((lp 2 3).setO Obj.DEVICE_STATE 7)) (fun t => decide (t.dev = 7 ∧ t.getO Obj.LP_STATE = 0 ∧ t.fallowStep = 0)) ∧
    after (exec .fallowEntryStep (lp 2 4)) (fun t => decide (t.dev = 6))) := by decide +kernel

theorem witness_low_power_steps : (lp 4).onePost ∧
    (∀ n ∈ [0, 1, 2, 3, 4], (lp 2 n).fallowStep = n ∧ (lp 2 n).dev = 3 ∧ (lp 2 n).getO Obj.LP_STATE = 2) ∧
    (∀ n ∈ [0, 1, 2], (lp 4 n).fallowStep = n ∧ (lp 4 n).dev ≠ 7 ∧ (List.range 8).all (fun p => decide ((lp 4 n).portState p = 0)) = true) ∧
    (lp 4).roceHeld = [] ∧ (lp 4).eths = [] ∧ ((lp 1).setRing 0 { binding := 2, p := 1 }).wakes = true ∧ (lp 1).wakes = false ∧
    ((lp 4 2).setO Obj.PORT_STATE 1 0).portState 0 = 1 :=
  ⟨onePost_of (by decide +kernel) (by decide +kernel), by decide +kernel⟩

theorem test_low_power_steps : (
    after (exec .p1Exit ((lp 1).setRing 0 { binding := 2, p := 1 })) (fun t => decide (t.getO Obj.LP_STATE = 0 ∧ t.getO Obj.P1_EXITS = 1)) ∧
    after (exec .fallowEntryStep ((lp 2 1).setO Obj.PORT_STATE 3 0)) (fun t => decide (t.fallowStep = 2 ∧ t.portState 0 = 0)) ∧
    after (exec .fallowEntryStep (((lp 2 4).poke 0 [1]).poke (L0 + 1) [1])) (fun t =>
      decide (t.dev = 6 ∧ t.getO Obj.LP_STATE = 3 ∧ t.byte 0 = 1 ∧ t.byte (L0 + 1) = 0 ∧ t.getO Obj.DEVICE_FALLOW_FROM = 3)) ∧
    after (exec (.fallowExitStep true 0) (lp 4)) (fun t => decide (t.fallowStep = 1)) ∧
    after (exec (.fallowExitStep false 5) (lp 4)) (fun t => decide (t.getO Obj.MEM_TRAIN_STATE = 3 ∧ t.getO Obj.ERR_LAST_REASON = 0x0206)) ∧
    after (exec (.fallowExitStep true 9) ((lp 4 1).setO Obj.DEVICE_FALLOW_FROM 5)) (fun t =>
      decide (t.dev = 5 ∧ t.getO Obj.FALLOW_EXIT_MS = 9)) ∧
    after (exec (.fallowExitStep true 9) (lp 4 2)) (fun t => decide (t.getO Obj.LP_STATE = 0)) ∧
    after (exec (.fallowExitStep true 9) ((lp 4 2).setO Obj.PORT_STATE 1 0)) (fun t => decide (t.getO Obj.LP_STATE = 4))) := by decide +kernel

/-- A store is under way, or idle. -/
def storing (st : Nat) : State := { owned.setO Obj.STORE_STATUS st with storeRun := some [1, 2], storeSlot := some 0 }

theorem witness_store : (storing 1).onePost ∧ okWrite owned true Obj.STORE_CMD 0 0 1 = true ∧ okWrite owned true Obj.STORE_CMD 0 0 2 = true ∧
    okWrite owned true Obj.STORE_CMD 0 0 3 = true ∧ okWrite (owned.setO Obj.STORE_STATUS 1) true Obj.STORE_CMD 0 0 1 = true ∧
    okWrite { owned with storeSlot := some 0 } true Obj.STORE_CMD 0 0 2 = true ∧ owned.getO Obj.STORE_STATUS ≠ 1 :=
  ⟨onePost_of (by decide +kernel) (by decide +kernel), by decide +kernel⟩

theorem test_store : (
    after (exec (.restore stw) owned) (fun t => decide (t.getO Obj.STORE_STATUS = 4 ∧ t.out = [.steward 0 5 0])) ∧
    after (exec (.store stw) (owned.setO Obj.STORE_STATUS 1)) (fun t => decide (t.out = [.steward 0 8 0])) ∧
    after (exec (.storeComplete false true) (storing 1)) (fun t =>
      decide (t.getO Obj.STORE_STATUS = 3 ∧ t.storeRun = none ∧ t.getO Obj.ERR_LAST_REASON = 0x0A03))) := by decide +kernel

/-- A primary image of no body, signed with the private key 1. -/
def signed : List Byte :=
  leBytes 4 0x4D494854 ++ leBytes 1 1 ++ leBytes 1 1 ++ List.replicate 26 0 ++
    beBytes 32 12074836532129508001832813285110771219106290426189206324743804207686991653419 ++ ptBytes (sm2Gx, sm2Gy) ++ List.replicate 64 0 ++
    beBytes 32 92898062432942395235208110394139898049128054606716817678913492027609790419754 ++
    beBytes 32 11447013388706926760606117409940497358466784559120463444465158664341824319257
/-- The device trusts that key; slot B of kind 1 holds the image. -/
def updated (bs : List Byte) (rej : Bool := false) : State :=
  { owned with
    fuses := { rootHash := 24939250382507175752083072799416237290384799415126973411483425151740943022697 }
    flash := { images := [(1, bs)], slots := if rej then [(0, { rejB := true })] else [] } }

theorem witness_image : (updated signed).imageFault 0 signed = none ∧ (updated []).imageFault 0 [] = some 8 ∧
    compatible ([signed, [], []].map imageHead) = true ∧ compatible ([signed, [1], [0, 0, 0, 0, 0, 0, 0, 0, 0, 0, 0, 0, 0, 0, 0, 0, 9]].map imageHead) = false := by
  decide +kernel

theorem witness_firmware : (((updated []).setO Obj.FW_ACTIVE_STATE 2 0).onePost) ∧ okWrite (updated signed) true Obj.FW_ACTIVATE 0 0 1 = true ∧
    okWrite (updated signed) true Obj.FW_SVN_ADVANCE 0 0 1 = true ∧ (updated signed).fwRefusal = none ∧
    ((updated signed).setO Obj.OWNER_UPDATE_INHIBIT 1).fwRefusal = some (3, 6) ∧ (updated signed).updating = false ∧
    ((updated signed true).flash.slot 0).rejected 1 = true ∧ ((updated signed).flash.slot 0).rejected 1 = false ∧
    ((updated signed).flash.slot 0).other = 1 ∧ (updated signed).flash.image 0 1 = signed :=
  ⟨onePost_of (by decide +kernel) (by decide +kernel), by decide +kernel⟩

theorem test_activate : (
    after (exec (.fwActivate stw 1) (updated signed)) (fun t =>
      decide (t.getO Obj.FW_UPDATE_STATUS = 12 ∧ t.resetAsked = some (1, 0) ∧ t.flash.slot 0 = { active := 1, st := 1 })) ∧
    after (exec (.fwActivate stw 1) (updated [])) (fun t => decide (t.getO Obj.FW_UPDATE_STATUS = 8 ∧ t.out = [.steward 0 5 0])) ∧
    after (exec (.fwActivate stw 1) ((updated []).setO Obj.OWNER_UPDATE_INHIBIT 1)) (fun t =>
      decide (t.getO Obj.FW_UPDATE_STATUS = 6 ∧ t.out = [.steward 0 3 0]))) := by decide +kernel

theorem test_firmware : (
    after (exec (.fwSvnAdvance stw) (updated [])) (fun t => decide (t.fuses.svn = 0 ∧ t.out = [.steward 0 0 0])) ∧
    after (exec (.fwSvnAdvance stw) (updated [] |> fun s => { s with flash := { slots := [(2, { st := 2 })] } })) (fun t =>
      decide (t.out = [.steward 0 3 0])) ∧
    after (exec (.fwStageComplete true) ({ owned with fwStage := some (0, [7]) }.setO Obj.FW_UPDATE_STATUS 1)) (fun t =>
      decide (t.flash.image 0 1 = [7] ∧ t.getO Obj.FW_UPDATE_STATUS = 2)) ∧
    after (exec (.fwStageComplete true) ({ owned with fwStage := some (0, [7]) }.setO Obj.FW_UPDATE_STATUS 2)) (fun t =>
      decide (t.getO Obj.FW_UPDATE_STATUS = 8 ∧ t.fwStage = none)) ∧
    after (exec (.fwStageComplete false) { owned with fwStage := some (0, [7]) }) (fun t => decide (t.getO Obj.FW_UPDATE_STATUS = 11)) ∧
    after (exec (.fwSelfConfirm 1) (owned.setO Obj.FW_ACTIVE_STATE 2 0)) (fun t => decide (t.getO Obj.FW_ACTIVE_STATE 0 = 0)) ∧
    after (exec (.fwTrialExpired 1) (owned.setO Obj.FW_ACTIVE_STATE 2 0)) (fun t =>
      decide (t.getO Obj.FW_ACTIVE_STATE 0 = 3 ∧ t.getO Obj.ERR_LAST_REASON = 0x0A05))) := by decide +kernel

/-! ### Resets, start-up, supply, clocks and memory (R20, R382, R383, R397, R483 to R507) -/

/-- A reset of this kind and target has been asked for. -/
def asked (k n : Nat) : State := { owned with resetAsked := some (k, n) }
def tripped : State := { owned with pins := { owned.pins with tripped := true } }

theorem witness_device_reset : (asked 1 0).resetAsked = some (1, 0) ∧ owned.pins.pwrok = true ∧ owned.pins.tripped = false ∧ owned.dev = 5 ∧
    owned.memLost = false ∧ owned.watchdogMs = 0 ∧ ({ owned with watchdogMs := 1 } : State).getO Obj.DEVICE_UPTIME_MS + 1 ≤ 1 + 60000 ∧
    (({ owned with watchdogMs := 1 } : State).setO Obj.DEVICE_UPTIME_MS 60001).getO Obj.DEVICE_UPTIME_MS = 60001 ∧
    owned.sems = [] ∧ ({ owned with pins := { owned.pins with pwrok := false } } : State).pins.pwrok = false ∧ 100 * 736 ≤ 92 * 800 := by
  decide +kernel

theorem test_device_reset : (
    after (exec .warm (((asked 1 0).poke 0 [5]).poke L0 [6])) (fun t =>
      decide (t.byte 0 = 5 ∧ t.byte L0 = 0 ∧ t.dev = 1 ∧ t.getO Obj.BOOT_STAGE = 2 ∧ t.getO Obj.RESET_CAUSE = 3 ∧ t.getO Obj.WARM_MEM_KEPT = 1)) ∧
    after (exec (.resetN 10) owned) (fun t => decide (t.getO Obj.RESET_CAUSE = 2)) ∧
    after (exec (.resetN 9) owned) (fun t => decide (t.dev = 5)) ∧
    after (exec (.resetN 10) tripped) (fun t => decide (t.dev = 5)) ∧
    after (exec (.stewardWatchdog 3) { owned with watchdogMs := 1 }) (fun t => decide (t.getO Obj.RESET_CAUSE = 4)) ∧
    after (exec (.stewardWatchdog 3) (({ owned with watchdogMs := 1 } : State).setO Obj.DEVICE_UPTIME_MS 60001)) (fun t =>
      decide (t.dev = 5 ∧ t.watchdogMs = 60002)) ∧
    after (exec .por tripped) (fun t => decide (t.pins = { pwrok := false } ∧ t.dev = 0 ∧ t.out.getLast? = some (.pin 200 true))) ∧
    after (exec (.supplyReset 3 736) owned) (fun t => decide (t.dev = 0 ∧ t.pins.pwrok = false)) ∧
    after (exec (.thermtrip 7) owned) (fun t => decide (t.dev = 0 ∧ t.pins.tripped = true))) := by decide +kernel

theorem witness_part_reset : ((asked 3 799).setO Obj.DEVICE_STATE 4).onePost ∧ owned.onePost ∧ owned.sems = [] ∧ owned.ops = [] ∧
    (asked 3 799).resetAsked = some (3, 799) ∧ owned.portsLive = true ∧
    (owned.portMay 7 = false ∧ (({ owned with resetRun := some (4, 7) } : State).setO Obj.PORT_STATE 1 7).portState 7 = 1) ∧ owned.dev = 5 ∧
    92 * railNominal 4 < 100 * 967 ∧ 100 * 966 ≤ 92 * railNominal 4 :=
  ⟨onePost_of (by decide +kernel) (by decide +kernel), onePost_of (by decide +kernel) (by decide +kernel), by decide +kernel⟩

theorem test_part_reset : (
    after (exec (.coreReset 0) (((asked 3 0).poke L0 [6]).poke (loftBase 1) [7])) (fun t =>
      decide (t.byte L0 = 0 ∧ t.byte (loftBase 1) = 7 ∧ t.resetRun = some (3, 0))) ∧
    after (exec (.coreReset 799) ((asked 3 799).setO Obj.DEVICE_STATE 4)) (fun t => decide (t.getO Obj.ERR_LAST_REASON = 0x0109)) ∧
    after (exec (.portReset 7) ((asked 4 7).setO Obj.PORT_STATE 3 7)) (fun t => decide (t.portState 7 = 0)) ∧
    after (exec .fieldRestart (((asked 5 0).setO Obj.ALMANAC_GRANT 9).setO Obj.ALMANAC_ROLE 2)) (fun t =>
      decide (t.getO Obj.ALMANAC_GRANT = 0 ∧ t.getO Obj.RESET_LAST_KIND = 5)) ∧
    after (exec .resetComplete { owned with resetRun := some (3, 0) }) (fun t => decide (t.resetRun = none ∧ t.getO Obj.RESET_STATUS = 2)) ∧
    after (exec .resetComplete (({ owned with resetRun := some (4, 7) } : State).setO Obj.PORT_STATE 1 7)) (fun t =>
      decide (t.resetRun = some (4, 7))) ∧
    after (exec (.supplyReset 4 966) (owned.poke 0 [5])) (fun t => decide (t.dev = 7 ∧ t.byte 0 = 0 ∧ t.memLost = true)) ∧
    after (exec (.supplyReset 7 700) owned) (fun t => decide (t.portState 3 = 4))) := by decide +kernel

/-- Start-up stands at stage n. -/
def boot (n : Nat) (dev : Nat := 1) : State :=
  { (State.reset.setO Obj.BOOT_STAGE n).setO Obj.DEVICE_STATE dev with flash := { recordOk := true } }

theorem witness_boot : (boot 4).onePost ∧ (boot 1 0).pins.pwrok = true ∧ (boot 1 0).pins.tripped = false ∧
    (∀ n ∈ [1, 2, 3, 4, 5, 6, 7, 8, 9], (boot n).getO Obj.BOOT_STAGE = n ∧ (boot n).dev = 1) ∧ (boot 4).chooseSlots = none ∧ (boot 6 2).dev = 2 ∧
    (boot 6).ops = [] ∧ ((boot 7).setO Obj.PORT_STATE 1 0).portState 0 = 1 ∧ (boot 2).flash.recordOk = true :=
  ⟨onePost_of (by decide +kernel) (by decide +kernel), by decide +kernel⟩

theorem test_boot : (
    after (exec (.bootStageComplete true 0) (boot 1 0)) (fun t => decide (t.dev = 1 ∧ t.getO Obj.BOOT_STAGE = 2 ∧ t.getO Obj.PLL_STATE 0 2 = 2)) ∧
    after (exec (.bootStageComplete false 0) (boot 2)) (fun t => decide (t.dev = 7 ∧ t.getO Obj.BOOT_FAIL_STAGE = 2)) ∧
    after (exec (.bootStageComplete true 0) (boot 4)) (fun t => decide (t.dev = 7 ∧ t.getO Obj.ERR_LAST_REASON = 0x0A01)) ∧
    after (exec (.bootStageComplete true 0) (boot 6 2)) (fun t => decide (t.getO Obj.MEM_TRAIN_STATE = 2 ∧ t.getO Obj.BOOT_STAGE = 7)) ∧
    after (exec (.bootStageComplete false 130) (boot 6 2)) (fun t => decide (t.dev = 7 ∧ t.getO Obj.MEM_TRAIN_FAIL_CHANNEL = 2)) ∧
    after (exec (.bootStageComplete true 0) ((boot 7 2).setO Obj.PORT_STATE 1 0)) (fun t => decide (t.getO Obj.BOOT_STAGE = 7)) ∧
    after (exec (.bootStageComplete true 0) (boot 8 2)) (fun t => decide (t.dev = 3 ∧ t.getO Obj.BOOT_STAGE = 9))) := by decide +kernel

/-- Supply and limit states: a dip, and a freeze over the limit. -/
def dips : State := { (owned.setO Obj.SUPPLY_WARN_ACTIVE 1).setO Obj.LEAVE_FROZEN 3 with dip := true }

theorem witness_supply : dips.onePost ∧ owned.onePost ∧ dips.leaveQ = [] ∧ dips.resvs = [] ∧ dips.dip = true ∧
    bit (dips.getO Obj.SUPPLY_WARN_ACTIVE) 0 = true ∧ bit (dips.getO Obj.SUPPLY_WARN_ACTIVE) 1 = false ∧ owned.dip = false ∧
    bit (dips.getO Obj.LEAVE_FROZEN) 1 = true ∧ bit (owned.getO Obj.LEAVE_FROZEN) 1 = false ∧ SMap.get 0 owned.dipSteps 0 = 0 ∧
    SMap.get 0 owned.thermSteps 0 = 0 :=
  ⟨onePost_of (by decide +kernel) (by decide +kernel), onePost_of (by decide +kernel) (by decide +kernel), by decide +kernel⟩

theorem test_supply : (
    after (exec (.supplyWarning 0 727) ((owned.setO Obj.CLK_CORE_MULT 9).setO Obj.CLK_CORE_MULT_NOW 9)) (fun t =>
      decide (t.dip = true ∧ t.getO Obj.LEAVE_FROZEN = 1 ∧ t.getO Obj.CLK_CORE_MULT_NOW = 8 ∧ t.getO Obj.SUPPLY_WARN_FLAGS = 1)) ∧
    after (exec (.supplyWarning 0 728) owned) (fun t => decide (t.dip = false)) ∧
    after (exec (.supplyWarning 1 700) dips) (fun t => decide (t.getO Obj.SUPPLY_WARN_ACTIVE = 3 ∧ t.getO Obj.SUPPLY_DIPS = 1)) ∧
    after (exec .supplyRecovery dips) (fun t => decide (t.dip = false ∧ t.getO Obj.LEAVE_FROZEN = 2)) ∧
    after (exec (.powerOverLimit 2000001) (owned.setO Obj.POWER_LIMIT_W 2000)) (fun t =>
      decide (t.getO Obj.LEAVE_FROZEN = 2 ∧ t.getO Obj.POWER_OVER_LIMIT = 1)) ∧
    after (exec (.overLimitFreezeEnd 1899999) ((dips.setO Obj.POWER_LIMIT_W 2000).setO Obj.LEAVE_MARGIN_W 100)) (fun t =>
      decide (t.getO Obj.LEAVE_FROZEN = 1)) ∧
    after (exec (.leaveCorrectionUpdate 1100 0) ((((owned.setO Obj.LEAVE_BASE_W 1).setO Obj.LEAVE_LEAK_FACTOR 1024).setO Obj.LEAVE_LEAK_FACTOR 1024 0 1).setO Obj.LEAVE_CORRECTION 1024)) (fun t =>
      decide (t.getO Obj.LEAVE_CORRECTION = 1127))) := by decide +kernel

/-- PLL j is in state st; it has coasted since the start of the count. -/
def pll (j st : Nat) : State := { owned.setO Obj.PLL_STATE st 0 j with pllSince := if st = 3 then [(j, 1)] else [] }

theorem witness_clock : (pll 0 2).onePost ∧ (pll 0 3).onePost ∧ (pll 38 2).getO Obj.PLL_STATE 0 38 = 2 ∧ (pll 4 2).ops = [] ∧
    ((pll 4 2).setO Obj.PORT_STATE 3 3).portState 3 = 3 ∧ SMap.get 0 (pll 0 3).pllSince 0 = 1 ∧
    ((pll 0 3).setO Obj.CLK_LOSS_STOP_MS 0).getO Obj.CLK_LOSS_STOP_MS = 0 ∧
    ((owned.setO Obj.CLK_CORE_MULT 9 0 1).setO Obj.CLK_CORE_MULT_NOW 7 0 1).multLimit 1 = 9 :=
  ⟨onePost_of (by decide +kernel) (by decide +kernel), onePost_of (by decide +kernel) (by decide +kernel), by decide +kernel⟩

theorem test_clock : (
    after (exec (.clkRampStep 1) ((owned.setO Obj.CLK_CORE_MULT 9 0 1).setO Obj.CLK_CORE_MULT_NOW 7 0 1)) (fun t =>
      decide (t.getO Obj.CLK_CORE_MULT_NOW 0 1 = 8)) ∧
    after (exec (.clkRampStep 1) (((owned.setO Obj.CLK_CORE_MULT 9 0 1).setO Obj.CLK_CORE_MULT_NOW 9 0 1) |> fun s => { s with thermSteps := [(1, 4)] })) (fun t =>
      decide (t.getO Obj.CLK_CORE_MULT_NOW 0 1 = 8)) ∧
    after (exec (.pllReferenceLoss 4 false) ((pll 4 2).setO Obj.PORT_STATE 3 3)) (fun t =>
      decide (t.getO Obj.PLL_STATE 0 4 = 3 ∧ t.getO Obj.PLL_LOSS_FLAGS = 16 ∧ t.portState 3 = 1 ∧ t.getO Obj.PORT_STATE 2 = 0)) ∧
    after (exec (.pllRelock 38) (pll 38 3)) (fun t => decide (t.getO Obj.PLL_STATE 0 38 = 2)) ∧
    after (exec (.clockLossStop 0) ((pll 0 3).setO Obj.CLK_LOSS_STOP_MS 0)) (fun t => decide (t.getO Obj.ERR_LAST_REASON = 0x0906))) := by
  decide +kernel

theorem witness_reading : owned.onePost ∧ owned.getO Obj.LEAVE_TABLE_STALE = 0 ∧ (owned.setO Obj.LEAVE_TABLE_STALE 1).getO Obj.LEAVE_TABLE_STALE = 1 ∧
    owned.energyUj = 0 ∧ owned.getI Obj.THERM_DIE_C 0 6 ≤ owned.getI Obj.THERM_STOP_C ∧ owned.getI Obj.THERM_WARN_C < owned.getI Obj.THERM_STOP_C ∧
    SMap.get 0 owned.thermSteps 1 = 0 :=
  ⟨onePost_of (by decide +kernel) (by decide +kernel), by decide +kernel⟩

theorem test_reading : (
    after (exec (.thermalReading [owned.getI Obj.THERM_WARN_C + 1, -3] 2500000 [740, 750]) (owned.setO Obj.LEAVE_TABLE_STALE 1)) (fun t =>
      decide (SMap.get 0 t.thermSteps 0 = 1 ∧ t.getI Obj.THERM_DIE_C 0 1 = -3 ∧ t.getO Obj.SUPPLY_MV 0 0 = 740 ∧ t.getO Obj.POWER_NOW_W = 2500 ∧
        t.getO Obj.ENERGY_J = 2 ∧ t.energyUj = 500000)) ∧
    after (exec (.thermalReading [0, 0, owned.getI Obj.THERM_STOP_C + 1] 0 []) (owned.setO Obj.LEAVE_TABLE_STALE 1)) (fun t =>
      decide (t.getO Obj.ERR_LAST_REASON = 0x0903))) := by decide +kernel

def scrubs : State := (owned.setO Obj.MEM_SCRUB_EN 1).poke 0 [0xA5]

theorem witness_memory_step : owned.onePost ∧ owned.packTemp 31 = 0 ∧ scrubs.dev = 5 ∧ scrubs.getO Obj.LP_STATE = 0 ∧ (scrubs.sub 0).pos < subchSize ∧
    scrubs.chk = [] ∧ (scrubs.sub 0).hour.length < scrubs.getO Obj.MEM_CE_ALARM ∧
    (scrubs.setO Obj.MEM_SCRUB_BYTES (memSize - 32)).getO Obj.MEM_SCRUB_BYTES + 32 = memSize :=
  ⟨onePost_of (by decide +kernel) (by decide +kernel), by decide +kernel⟩

theorem test_memory_step : (
    after (exec (.memTempRead 31 106) owned) (fun t => decide (t.packTemp 31 = 106 ∧ t.getO Obj.ERR_LAST_REASON = 0x0207)) ∧
    after (exec (.refresh 255 0) owned) (fun t => decide (t.dev = 5)) ∧
    after (exec (.memScrubRead 0 1 0 false) scrubs) (fun t => decide (t.byte 0 = 0xA5 ∧ t.getO Obj.MEM_CE_TOTAL = 1 ∧ (t.sub 0).pos = 32)) ∧
    after (exec (.memScrubRead 0 (1 + 2 ^ 8) 0 false) scrubs) (fun t => decide (t.getO Obj.MEM_UE_TOTAL = 1)) ∧
    after (exec (.memScrubRead 0 0 0 false) (scrubs.setO Obj.MEM_SCRUB_BYTES (memSize - 32))) (fun t =>
      decide (t.getO Obj.MEM_SCRUB_PASSES = 1 ∧ (t.sub 0).pos = 0))) := by decide +kernel

theorem witness_fabric : bridgeFlit [0, 3, 0, 0] = (1, false) ∧ bridgeFlit [2 ^ 8, 3 + 2 ^ 8, 0, 0] = (1, true) ∧ owned.onePost ∧ owned.running = false ∧
    owned.quietEvents 0xFFF ∧ owned.fieldFirst = none ∧ ((owned.setO Obj.ALMANAC_ROLE 1).isMaster = true) :=
  ⟨by decide +kernel, by decide +kernel, onePost_of (by decide +kernel) (by decide +kernel), by decide +kernel,
    quietEvents_of (by decide +kernel), by decide +kernel, by decide +kernel⟩

theorem test_fabric : (
    after (exec (.bridgeFlitReceive 3 1 [0, 3, 0, 0] []) owned) (fun t => decide (t.getO Obj.BRIDGE_CE 0 2 = 1)) ∧
    after (exec (.bridgeFlitReceive 3 1 [3 + 2 ^ 8] [[0]]) owned) (fun t => decide (t.getO Obj.BRIDGE_REPLAYS 0 2 = 1 ∧ t.getO Obj.ERR_LAST_REASON = 0)) ∧
    after (exec (.bridgeFlitReceive 3 1 [3 + 2 ^ 8] (List.replicate 4 [3 + 2 ^ 8])) owned) (fun t => decide (t.getO Obj.ERR_LAST_REASON = 0x0205)) ∧
    after (exec (.arbC3Window 799 9) (owned.setO Obj.ARB_C3_BUDGET 8)) (fun t => decide (t.getO Obj.ARB_C3_EXCESS = 1)) ∧
    after (exec (.errorRecordReceive (3 * 2 ^ 373 + 5)) (owned.setO Obj.ALMANAC_ROLE 1)) (fun t =>
      decide (t.getO Obj.FIELD_RECORDS = 1 ∧ t.fieldFirst = some (3 * 2 ^ 373 + 5)))) := by decide +kernel

/-- An image of kind k without a body, signed with the private key 1. -/
def signedKind (k : Nat) (r q : Nat) : List Byte :=
  leBytes 4 0x4D494854 ++ leBytes 1 k ++ leBytes 1 1 ++ List.replicate 26 0 ++
    beBytes 32 12074836532129508001832813285110771219106290426189206324743804207686991653419 ++ ptBytes (sm2Gx, sm2Gy) ++ List.replicate 64 0 ++
    beBytes 32 r ++ beBytes 32 q
/-- Start-up at stage 4 with a signed image of each kind in slot A. -/
def bootable : State :=
  { boot 4 with
    fuses := { rootHash := 24939250382507175752083072799416237290384799415126973411483425151740943022697 }
    flash := { recordOk := true, images := [
      (0, signedKind 1 28518005022451700905542031895016320075200786922932397533794241673817831863652
        43637042093952273925439156659502286345430418401012673517024783841237803591138),
      (2, signedKind 2 105595038889383125287323450027289127767426585499602631482835523889255137394664
        62994569765664686112758620200376328882348330975156428826426047411665870348594),
      (4, signedKind 3 60986711143634985928469124619998415540492785194507133601692312982923151565472
        27402689033360631413975610297011238612784419265225305483075748186685143740229)] } }

theorem witness_boot_images : bootable.chooseSlots = some [0, 0, 0] ∧
    (∀ k, k < 3 → (bootable.flash.slot k).active = 0 ∧ (bootable.flash.slot k).st = 0) := by decide +kernel

/-! ### The block as a whole (R39, R309, R347, R375, R376) -/

/-- A MATMUL whose header holds a reserved bit. -/
def badHeader : State := idle.setOp 3 { unit := 0, stream := 0, desc := cmdDesc 1 1 0 [L0] 1, phase := .submitted }

theorem witness_refused : badHeader.onePost ∧ (badHeader.op? 3).map (·.phase) = some .submitted ∧
    opUnit (cmdDesc 1 1 0 [L0] 1) = 1 ∧ opCode (cmdDesc 1 1 0 [L0] 1) = 1 ∧ badHeader.getO Obj.CORE_EXCLUDE 0 = 0 ∧
    ((badHeader.op? 3).bind badHeader.headFail).isSome = true ∧ (badHeader.op? 3).map badHeader.entryBegins = some badHeader ∧
    (badHeader.op? 3).map (·.bale) = some none ∧ badHeader.ringFor 5 0 = none ∧
    (badHeader.setRing 9 { binding := 2, target := 0 }).ring 9 = { binding := 2 } :=
  ⟨onePost_of (by decide +kernel) (by decide +kernel), by decide +kernel⟩

theorem test_refused : after (exec (.matmul 3) badHeader) (fun t =>
    decide (t.op? 3 = none ∧ t.isStopped 0 0 = true ∧ t.getO Obj.ERR_LAST_REASON = 0x0101 ∧ t.ctxs = [])) = true := by decide +kernel

def beats : State := ((idle.setO Obj.EPOCH_BEATS 10).setO Obj.SCHED_E0 3).setO Obj.SCHED_E0_COUNT 100

theorem witness_epoch : 0 < beats.getO Obj.EPOCH_BEATS ∧ beats.getO Obj.SCHED_E0_COUNT ≤ 100 ∧ (100 - 100) / 10 + 3 < 2 ^ 32 := by decide +kernel
theorem test_epoch : beats.epochOf 100 = (3, 0) ∧ beats.epochOf 109 = (3, 9) ∧ beats.epochOf 110 = (4, 0) ∧ beats.firstBeat 2 = 90 := by decide +kernel

/-- A check bit of codeword 0 has changed. -/
def upset : State := { idle with chk := [(0, 1)] }
theorem witness_code : eccSyndrome 0 = (0, 0, 0, 0) ∧ (eccCol 7).1 = 1 ∧ eccFix (5 * 2 ^ 28) = some (5 * 2 ^ 28) ∧ eccFix (5 * 2 ^ 132) = some (5 * 2 ^ 132) ∧
    eccFix (1 + 2 ^ 132) = none ∧ upset.decodeCw 0 = .fixed 0 ∧ regionOf (0 * 16) = .lp ∧ upset.ringFor 5 0 = none := by decide +kernel
theorem test_code : (upset.readCw 0 0).1.chk = [] ∧ (upset.readCw 0 0).1.getO Obj.MEM_CE_TOTAL = 1 := by decide +kernel

theorem test_step : step State.reset = .next State.reset ∧ step { idle with pending := [.p1Exit, .por] } = exec .p1Exit { idle with pending := [.por] } :=
  ⟨rfl, rfl⟩
theorem test_step_well_formed : Memory.wf State.reset.mem = true ∧ Instr.wf .p1Exit = true := by decide +kernel

/-! ### Ill-formed commands -/

def ef : EthFrame := { dst := 0, src := 0, size := 64 }
def net0 : Net := { eport := 0, frame := ef, srcIp := 0, dstIp := 0, sport := 0, dport := 0 }
def yh0 : YHdr := { net := net0, session := 0, seq := 0 }
def rp : RedPacket := { bale := 0, first := 0, level := 0, node := 0, phase := 0, scale := 0, step := 0, src := 0, elems := [] }
def bcn : Beacon := { tick := 0, count := 0, grant := 0, beatNs := 0, master := 0, seq := 0, depth := 0 }
def ctl0 : Ctl := { origin := 0, seq := 0 }
def rkt : RocePkt := { net := net0, qp := 0x100, srcQp := 0 }
def blank : List Nat := List.replicate 8 0
def bids (b : Beacon) : Instr := .beaconReceive 0 b 0 0
def gets0 (p : RedPacket) : Instr := .reductionPacketReceive 0 p ⟨0, 0⟩
def nets (n : Net) : Instr := .ping { yh0 with net := n }

/-- In these lists each term fails one check of WellFormed. -/
theorem test_ill_formed_context : ([ .add 800 0 (insA 0), .add 0 2048 (insA 0), .add 0 0 (insA 16), .add 0 0 { d := 0, a := 16, b := 0 }, .add 0 0 { d := 0, a := 0, b := 16 },
    .add 0 0 { d := 0, a := 0, b := 0, c := 16 }, .add 0 0 (insA 0 1024),
    .addi 0 0 (insI 16 0 0), .addi 0 0 (insI 0 16 0), .addi 0 0 (insI 0 0 131072), .addi 0 0 (insI 0 0 (-131073)),
    .varith 0 0 { d := 16, a := 0, b := 0 }, .varith 0 0 { d := 0, a := 16, b := 0 }, .varith 0 0 { d := 0, a := 0, b := 16 },
    .varith 0 0 { d := 0, a := 0, b := 0, c := 16 }, .varith 0 0 { d := 0, a := 0, b := 0, msk := 8 },
    .varith 0 0 { d := 0, a := 0, b := 0, vfn := 32 }, .waitbResume 800 0, .waitbResume 0 2048 ] : List Instr).all (fun c => !c.wf) = true := by decide +kernel
theorem test_ill_formed_request : ([ nets { net0 with eport := 2 }, nets { net0 with srcIp := 2 ^ 128 }, nets { net0 with dstIp := 2 ^ 128 },
    nets { net0 with sport := 65536 }, nets { net0 with dport := 65536 }, nets { net0 with frame := { ef with vlan := 4096 } },
    .ping { yh0 with session := 2 ^ 32 }, .ping { yh0 with seq := 2 ^ 32 }, .ping { yh0 with mac := 2 ^ 128 }, .ping { yh0 with magic := 65536 },
    .ping { yh0 with version := 256 }, .ping { yh0 with flags := 256 }, .ping { yh0 with status := 256 }, .ping { yh0 with typ := some 256 },
    .ping { yh0 with typ := some 4 }, .ping { yh0 with raw := some [] }, .hello { yh0 with raw := some [0] } [], .hostSemTry (.steward 4 false),
    .hostSemTry (.ydp { yh0 with net := { net0 with eport := 2 } }), .read stw 65536 0, .read stw 0 256, .write stw 0 0 256 [],
    .read (.ydp { yh0 with raw := some [0, 0, 0, 0] }) 0 0, .segRead stw 0 0 (2 ^ 32), .segWriteStart yh0 0 0 (2 ^ 32), .segWriteData yh0 (2 ^ 32) [0],
    .segWriteEnd { yh0 with raw := some (List.replicate 32 0) } [], .handshakeTimeout 16, .sessionExpiry 16, .attestReportBuilt 20,
    .fwActivate stw 256, .fwSelfConfirm 0, .fwSelfConfirm 4, .fwTrialExpired 0, .fwTrialExpired 4 ] : List Instr).all (fun c => !c.wf) = true := by decide +kernel
theorem test_ill_formed_packet : ([ .reductionPacketReceive 8 rp ⟨0, 0⟩, gets0 { rp with bale := 2 ^ 24 }, gets0 { rp with first := 2 ^ 25 },
    gets0 { rp with level := 32 }, gets0 { rp with node := 2 ^ 20 }, gets0 { rp with phase := 2 }, gets0 { rp with step := 2 ^ 32 },
    gets0 { rp with src := 65536 }, gets0 { rp with scale := 128 }, gets0 { rp with scale := -129 }, gets0 { rp with elems := [65536] },
    gets0 { rp with elems := List.replicate 1025 0 }, .beaconReceive 8 bcn 0 0, bids { bcn with tick := 2 ^ 64 }, bids { bcn with count := 2 ^ 64 },
    bids { bcn with grant := 2 ^ 64 }, bids { bcn with beatNs := 65536 }, bids { bcn with master := 65536 }, bids { bcn with seq := 2 ^ 32 },
    bids { bcn with depth := 256 }, bids { bcn with coords := 2 ^ 18 }, bids { bcn with port := 8 }, bids { bcn with ptpEpoch := 2 ^ 32 },
    bids { bcn with ptpSec := 2 ^ 48 }, bids { bcn with ptpNs := 2 ^ 32 }, bids { bcn with txPs := 2 ^ 32 }, bids { bcn with rxTick := 2 ^ 64 },
    bids { bcn with rxPs := 2 ^ 32 }, bids { bcn with id := 65536 }, bids { bcn with rxId := 65536 } ] : List Instr).all (fun c => !c.wf) = true := by decide +kernel
theorem test_ill_formed_control : ([ .hold 8 ctl0, .hold 0 { ctl0 with origin := 65536 }, .release 0 { ctl0 with seq := 2 ^ 24 }, .start 0 { ctl0 with x := 2 ^ 64 },
    .stop 0 { ctl0 with y := 2 ^ 32 }, .schedStart stw (2 ^ 32), .lockHopsReport 65536 0 0, .lockHopsReport 0 65536 0, .lockHopsReport 0 0 65536,
    .epochBoundary (2 ^ 48) 0, .epochBoundary 0 (2 ^ 32), .censusRecordReceive 65536 0 ⟨[], false⟩, .censusRecordReceive 0 32 ⟨[], false⟩,
    .censusRecordReceive 0 0 ⟨[2 ^ 64], false⟩, .ptpEventMessage 2 ef ⟨0, 0⟩ 0, .ptpEventMessage 0 { ef with prio := 8 } ⟨0, 0⟩ 0,
    .linkFrameReceive 8 blank, .linkFrameReceive 0 [0], .linkFrameReceive 0 (2 ^ 680 :: blank.drop 1), .linkFrameTransmit ⟨8, 0, []⟩,
    .linkFrameTransmit ⟨0, 0, [2 ^ 144]⟩,
    .sendDataReceive 8 0 0 0 false [] [], .sendDataReceive 0 65536 0 0 false [] [], .sendDataReceive 0 0 (2 ^ 48) 0 false [] [],
    .sendDataReceive 0 0 0 4096 false [] [], .portFecLock 8, .portCheck 8 0 0 0 0 0, .portTrainTimeout 8, .portFecLoss 8, .portFecRateWindow 8,
    .laserLow 8 0, .laserInputPresent 8 0, .portRetrain stw 8, .portEnable stw 8 0, .portEnable stw 0 256, .portReset 8 ] : List Instr).all (fun c => !c.wf) = true := by decide +kernel
theorem test_ill_formed_ethernet : ([ .ethFrameReceive 2 ef, .ethFrameReceive 0 { ef with dst := 2 ^ 48 }, .ethFrameReceive 0 { ef with src := 2 ^ 48 },
    .ethFrameReceive 0 { ef with vlan := 4096 }, .ethFrameReceive 0 { ef with prio := 8 }, .arpRequest 2 ef 0 0, .arpRequest 0 ef (2 ^ 32) 0,
    .arpRequest 0 ef 0 (2 ^ 32), .neighbourSolicitation 0 ef (2 ^ 128) 0, .neighbourSolicitation 0 ef 0 (2 ^ 128), .echoRequest 0 ef (2 ^ 128) 0,
    .echoRequest 0 ef 0 (2 ^ 128), .roceSend { rkt with net := { net0 with eport := 2 } }, .roceSend { rkt with qp := 2 ^ 24 },
    .roceSend { rkt with srcQp := 2 ^ 24 }, .roceSend { rkt with psn := 2 ^ 24 }, .rdmaWrite { rkt with net := { net0 with srcIp := 2 ^ 128 } },
    .rdmaWrite { rkt with opcode := 256 }, .rdmaWrite { rkt with rkey := 2 ^ 32 }, .rdmaReadRequest { rkt with va := 2 ^ 64 },
    .rdmaReadRequest { rkt with len := 2 ^ 32 }, .cnp { rkt with qp := 2 ^ 24 } 0, .roceInvalidOpcode { rkt with opcode := 256 },
    .roceRateIncrease 0xFF, .roceRateIncrease 0x500, .pfcFrameReceive 2 ef ⟨0, []⟩, .pfcFrameReceive 0 ef ⟨256, []⟩, .pfcFrameReceive 0 ef ⟨0, [65536]⟩,
    .pfcFrameReceive 0 { ef with src := 2 ^ 48 } ⟨0, []⟩, .pfcXoffRepeat 2, .pfcStorm 2 0, .pfcStorm 0 8,
    .pfcPauseExpiry 2 0, .pfcPauseExpiry 0 8, .ethRestart stw 2, .ethLinkUp ⟨2, []⟩, .ethLinkDown 2 ] : List Instr).all (fun c => !c.wf) = true := by decide +kernel
theorem test_ill_formed_object : ([ .producerDoorbell 4096 0, .consumerDoorbell 0 (2 ^ 64), .commandDescriptorTake 4096, .queueCfgWrite stw 256 0, .queueCfgWrite stw 0 (2 ^ 64),
    .furrowStart 0x32C 0 0, .furrowStart 0 (2 ^ 32) 0, .furrowStart 0 0 65536, .portSlot 799 0 0, .portSlot 0x328 0 0, .bankSwap 0x32C,
    .numericFlagsClear stw 256, .coreFlagsClear stw 800 0, .coreFlagsClear stw 0 256, .pllLossClear stw (2 ^ 64), .winnowProbe stw 256 0,
    .winnowProbe stw 0 (2 ^ 64), .shufProbe stw (2 ^ 64), .shufSamplesWrite stw (2 ^ 64), .matrixSelftestComplete [800], .coreExclude stw 800 0,
    .coreExclude stw 0 256, .sampleDescriptorTake 2, .slotEmit 2, .dieReset 2, .coreReset 800, .stewardWatchdog 4, .supplyWarning 8 0,
    .supplyReset 8 0, .thermalReading [0, 0, 0, 0, 0, 0, 0, 0] 0 [], .thermalReading [] 0 [0, 0, 0, 0, 0, 0, 0, 0, 0], .thermtrip 0, .thermtrip 8,
    .clkRampStep 2, .clkCoreSrc stw 2 0, .clkCoreSrc stw 0 256, .pllReferenceLoss 39 false, .pllRelock 39, .clockLossStop 39, .memTempRead 32 0,
    .refresh 256 0, .memScrubRead 256 0 0 false, .memScrubRead 0 (2 ^ 144) 0 false, .memScrubRead 0 0 (2 ^ 144) false,
    .bridgeFlitReceive 0 0 [] [], .bridgeFlitReceive 4 0 [] [], .bridgeFlitReceive 1 2 [] [], .arbC3Window 800 0, .arbC3Window 0x332 0,
    .errorRecordReceive (2 ^ 512), .stewardSemOperation 4 1 0 0, .stewardSemOperation 0 0 0 0, .stewardSemOperation 0 5 0 0,
    .stewardSemOperation 0 1 4096 0 ] : List Instr).all (fun c => !c.wf) = true := by decide +kernel
theorem test_well_formed_accepts : ([.add 799 2047 (insA 15 1023), .addi 0 0 (insI 15 15 (-131072)), .ping yh0, .read stw 65535 255,
    .reductionPacketReceive 7 rp ⟨0, 0⟩, .beaconReceive 7 bcn 0 0, .hold 7 ctl0, .linkFrameReceive 7 blank, .ping { yh0 with typ := some 0 }, .rdmaWrite rkt, .ethFrameReceive 1 ef,
    .furrowStart 0x32B 0 0, .arbC3Window 0x331 0, .thermtrip 7] : List Instr).all Instr.wf = true := by decide +kernel

end Sys2Proof.Tests
end

namespace Sys2Proof.Machine

/-! ### Requests of either source -/

theorem State.taken_steward (s : State) (n : Nat) (f : Bool) : s.taken (.steward n f) = s := rfl

theorem State.answered_steward (w s : State) (n : Nat) (f : Bool) (typ st v : Nat) (body : List Byte) :
    w.answered s (.steward n f) typ st v body = w.emit (.steward n st v) := rfl

theorem State.answered_ydp (w s : State) (h : YHdr) (typ st v : Nat) (body : List Byte) :
    w.answered s (.ydp h) typ st v body = w.yAnswer (s.session (sessionSlot h)) (sessionSlot h) typ st h.seq body := rfl

/-- An accepted READ is answered with what `readReq` gives. -/
theorem exec_read_accepted {s : State} {src : Src} {idx sub : Nat}
    (h : s.accepts src 3 (leBytes 2 idx ++ leBytes 1 sub ++ leBytes 1 0)) :
    let r := (s.taken src).readReq src.rq idx sub
    exec (.read src idx sub) s = .next (r.1.answered s src 3 r.2.1 (ofBytes r.2.2.2)
      (if r.2.1 = 0 then leBytes 1 r.2.2.1 ++ leBytes 3 0 ++ r.2.2.2 else [])) := by
  cases src with
  | ydp y => simp only [exec_read, execRead, s.serveReq_accepted y 3 _ _ h, State.answered_ydp, Src.rq]; rfl
  | steward n f =>
    simp only [exec_read, execRead, s.stewardReq_accepted n f _ 3 [] ⟨h.1, h.2⟩, State.answered_steward, State.taken_steward,
      Src.rq]

/-- An accepted SEG_READ is answered with what `segPart` gives. -/
theorem exec_segRead_accepted {s : State} {src : Src} {idx sub offset : Nat}
    (h : s.accepts src 5 (leBytes 2 idx ++ leBytes 1 sub ++ leBytes 1 0 ++ leBytes 4 offset)) :
    let g := (s.taken src).segPart src.rq idx sub offset
    exec (.segRead src idx sub offset) s = .next (g.1.answered s src 5 g.2.1 (ofBytes g.2.2.2)
      (if g.2.1 = 0 then leBytes 4 g.2.2.1 ++ g.2.2.2 else [])) := by
  cases src with
  | ydp y => simp only [exec_segRead, execSegRead, s.serveReq_accepted y 5 _ _ h, State.answered_ydp, Src.rq]; rfl
  | steward n f =>
    simp only [exec_segRead, execSegRead, s.stewardReq_accepted n f _ 5 [] ⟨h.1, h.2⟩, State.answered_steward,
      State.taken_steward, Src.rq]

/-- An accepted WRITE is answered with what `writeReq` gives. -/
theorem exec_write_accepted {s : State} {src : Src} {idx sub t : Nat} {val : List Byte}
    (h : s.accepts src 4 (leBytes 2 idx ++ leBytes 1 sub ++ leBytes 1 t ++ val)) :
    let r := (s.taken src).writeReq src.rq ((s.taken src).owns src) src.load idx sub t val
    exec (.write src idx sub t val) s = .next (r.1.answered s src 4 r.2 0 []) := by
  cases src with
  | ydp y =>
    simp only [exec_write, execWrite, State.doWrite, s.serveReq_accepted y 4 _ _ h, State.answered_ydp, Src.rq, Src.load,
      State.owns]
  | steward n f =>
    simp only [exec_write, execWrite, State.doWrite, s.stewardReq_accepted n f _ 4 [] ⟨h.1, h.2⟩, State.answered_steward,
      State.taken_steward, Src.rq, Src.load, State.owns]

/-! ### What a read gives (R459, R461) -/

theorem ofBytes_leBytes_mod (n v : Nat) : ofBytes (leBytes n v) = v % 2 ^ (8 * n) := by
  induction n generalizing v with
  | zero => simp [leBytes, ofBytes, Nat.mod_one]
  | succ n ih =>
    have hp : 2 ^ (8 * (n + 1)) = 256 * 2 ^ (8 * n) := by rw [Nat.mul_succ, Nat.pow_add]; omega
    simp only [leBytes, ofBytes, ih, BitVec.toNat_ofNat, hp, Nat.mod_mul]

section
variable (s : State) (rq : Nat) {idx sub i j : Nat} {o : ObjDef}

/-- A selector is read from the requester's own copy, and the read changes nothing (R459). -/
theorem State.readNum_selector (h : selObjs.contains o = true) : s.readNum rq o i j = (s, s.getSel rq o) := by
  have hsel : ∀ p ∈ selObjs, timedObjs.contains p = false := by decide
  unfold State.readNum
  rw [hsel o (List.contains_iff_mem.1 h), if_neg Bool.false_ne_true, if_pos h]

theorem State.readReq_notOwned (h : ¬ownedIndex idx = true) : s.readReq rq idx sub = (s, 1, 0, []) := by
  unfold State.readReq
  rw [if_pos (eq_false_of_ne_true h)]

theorem State.readReq_reserved (h : ownedIndex idx = true) (hf : findObj idx sub = none) :
    s.readReq rq idx sub = (s, 0, OTy.u8.code, [0]) := by
  unfold State.readReq
  rw [h, if_neg (by decide), hf]
  rfl

theorem State.readReq_found (h : ownedIndex idx = true) (hf : findObj idx sub = some (o, i, j)) :
    s.readReq rq idx sub =
      if o.ty = .blob then (s, 6, 0, [])
      else if o.ty = .str then (s, 0, OTy.str.code, (s.blobOf rq o i).take 1024)
      else if o.acc = .wo then (s, 2, 0, [])
      else ((s.readNum rq o i j).1, 0, o.ty.code, leBytes o.ty.bytes (s.readNum rq o i j).2) := by
  unfold State.readReq
  rw [h, if_neg (by decide), hf]

theorem State.segPart_notOwned (offset : Nat) (h : ¬ownedIndex idx = true) : s.segPart rq idx sub offset = (s, 1, 0, []) := by
  unfold State.segPart
  rw [if_pos (eq_false_of_ne_true h)]

theorem State.segPart_reserved (offset : Nat) (h : ownedIndex idx = true) (hf : findObj idx sub = none) :
    s.segPart rq idx sub offset = (s, 6, 0, []) := by
  unfold State.segPart
  rw [h, if_neg (by decide), hf]

theorem State.segPart_found (offset : Nat) (h : ownedIndex idx = true) (hf : findObj idx sub = some (o, i, j)) :
    s.segPart rq idx sub offset =
      if o.ty ≠ .blob ∧ o.ty ≠ .str then (s, 6, 0, [])
      else if o = Obj.ATTEST_REPORT ∧ s.attestRun.contains rq then (s, 8, 0, [])
      else (s, 0, (s.blobOf rq o i).length, ((s.blobOf rq o i).drop offset).take 1024) := by
  unfold State.segPart
  rw [h, if_neg (by decide), hf]

/-- SEG_READ changes nothing (R453). -/
theorem State.segPart_state (idx sub offset : Nat) : (s.segPart rq idx sub offset).1 = s := by
  unfold State.segPart
  split_ifs
  · rfl
  · split
    · rfl
    · split_ifs <;> rfl

end

/-- Settles O50: the answer to READ and SEG_READ, by the kind of the object. -/
theorem dictionaryReadResults : Obligations.DictionaryReadResults := by
  intro s src idx sub offset u rq r g own
  refine ⟨fun ha => ⟨exec_read_accepted ha, u.readReq_notOwned rq, u.readReq_reserved rq, fun o i j hown hf => ?_⟩,
    fun ha => ⟨exec_segRead_accepted ha, u.segPart_state rq idx sub offset, fun h => ?_, fun h hf => ?_, fun o i j hown hf => ?_⟩⟩
  · have hr : r = _ := u.readReq_found rq hown hf
    refine ⟨fun hb => ?_, fun hs => ?_, fun hb hs hw => ?_, fun hb hs hw => ?_⟩
    · rw [hr, if_pos hb]
    · rw [hr, if_neg (by rw [hs]; decide), if_pos hs]
    · rw [hr, if_neg hb, if_neg hs, if_pos hw]
    · rw [hr, if_neg hb, if_neg hs, if_neg hw]
      refine ⟨rfl, rfl, leBytes_length _ _, fun hsel => ?_⟩
      rw [ofBytes_leBytes_mod, u.readNum_selector rq hsel]
  · exact congrArg (·.2.1) (u.segPart_notOwned rq offset h)
  · exact congrArg (·.2.1) (u.segPart_reserved rq offset h hf)
  · have hg : g = _ := u.segPart_found rq offset hown hf
    refine ⟨fun hb hs => ?_, fun hb hne => ?_⟩
    · rw [hg, if_pos ⟨hb, hs⟩]
    · rw [hg, if_neg (by tauto), if_neg (by tauto)]

/-- Settles O1: `step` matches on the queue. -/
theorem stepTakesFrontCommand : Obligations.StepTakesFrontCommand := by
  refine ⟨fun s c => rfl, fun s c cs h => ?_, fun s h => ?_⟩
  · simp only [step, h]
  · simp only [step, h]


/-! ### Which object a write names, and the checks of R462 -/

/-- What `findObj` finds is an object of the dictionary, at a repetition and a member that it has. -/
theorem findObj_some {idx sub i j : Nat} {o : ObjDef} (h : findObj idx sub = some (o, i, j)) :
    o ∈ allObjs ∧ i < o.reps ∧ j < o.subs := by
  unfold findObj at h
  obtain ⟨p, hp, he⟩ := Option.map_eq_some_iff.1 h
  have hin := List.find?_some hp
  simp only [Bool.and_eq_true, decide_eq_true_eq] at hin
  simp only [Prod.mk.injEq] at he
  obtain ⟨rfl, rfl, rfl⟩ := he
  exact ⟨List.mem_of_find?_eq_some hp, by omega, by omega⟩

theorem ObjDef.typed_iff (o : ObjDef) (t n : Nat) :
    o.typed t n = true ↔ o.ty ≠ .blob ∧ t = o.ty.code ∧ if o.ty = .str then n ≤ 1024 else n = o.ty.bytes := by
  unfold ObjDef.typed
  split_ifs <;> simp [and_assoc]

section
variable (s : State) (rq : Nat) (own load : Bool) {idx sub : Nat} (t : Nat) (val : List Byte) {i j : Nat} {o : ObjDef}

theorem writeTarget_notOwned (h : ownedIndex idx = false) : writeTarget own idx sub t val = .error 1 := by
  unfold writeTarget
  rw [if_pos h]

theorem writeTarget_reserved (h : ownedIndex idx = true) (hf : findObj idx sub = none) :
    writeTarget own idx sub t val = .ok none := by
  unfold writeTarget
  rw [h, if_neg (by decide), hf]

/-- Checks 2 to 4 of R462. -/
theorem writeTarget_found (h : ownedIndex idx = true) (hf : findObj idx sub = some (o, i, j)) :
    writeTarget own idx sub t val =
      if o.typed t val.length = false then .error 6
      else if o.acc = .ro then .error 2
      else if needsLock o = true ∧ own = false then .error 4
      else .ok (some (o, i, j)) := by
  unfold writeTarget
  rw [h, if_neg (by decide), hf]

theorem State.writeReq_error {st : Nat} (h : writeTarget own idx sub t val = .error st) :
    s.writeReq rq own load idx sub t val = (s, st) := by
  unfold State.writeReq
  rw [h]

theorem State.writeReq_reserved (h : writeTarget own idx sub t val = .ok none) :
    s.writeReq rq own load idx sub t val =
      (s, if stateRange s.dev idx = false then 3 else if ofBytes val = 0 then 0 else 7) := by
  unfold State.writeReq
  rw [h]

/-- The idle zero and checks 5 to 7 of R462. -/
theorem State.writeReq_target (h : writeTarget own idx sub t val = .ok (some (o, i, j))) :
    s.writeReq rq own load idx sub t val =
      if ofBytes val = 0 ∧ zeroIdle o = true then (s, 0)
      else if s.stateAdmits load o idx = false ∨ s.ringLocked rq o = true then (s, 3)
      else (s.stateRule o).elim
        (if ofBytes val &&& o.resv ≠ 0 then (s, 7)
         else if s.valueOk rq o i j (ofBytes val) = false then (s, 5)
         else s.applyWrite rq o i j (ofBytes val))
        fun u => (u, 3) := by
  unfold State.writeReq
  rw [h]
  dsimp only
  cases s.stateRule o <;> rfl

/-! ### Plain values and selectors -/

/-- A value whose object is no command and has no rule of its own goes to its selector or to the dictionary. -/
theorem State.applyWrite_plain {v : Nat} (hc : s.command rq o i v = none) (hclk : o ≠ Obj.CLK_CORE_SRC)
    (hring : o.index ≠ 0x3241) (hqp : o.index ≠ 0x4321) (hmr : o.index ≠ 0x4331) :
    s.applyWrite rq o i j v = if selObjs.contains o = true then (s.writeSel rq o v, 0) else (s.writeValue o i j v, 0) := by
  unfold State.applyWrite
  rw [hc]
  dsimp only
  rw [if_neg hclk, if_neg hring, if_neg hqp, if_neg hmr]

theorem State.onlyObj_ptpOff : s.onlyObj s.ptpOff := by
  unfold State.ptpOff
  exact .ite (State.onlyObj_setO _ _ _ _ _) rfl

theorem State.onlyObj_redirty : s.onlyObj s.redirty := State.onlyObj_setO _ _ _ _ _

theorem State.sameKey_ptpOff {k : Nat} (h : k ≠ Obj.PTP_STATE.key) : State.sameKey k s s.ptpOff := by
  unfold State.ptpOff
  exact .ite (State.sameKey_setO _ _ _ _ _ h) (.refl s)

theorem State.sameKey_redirty {k : Nat} (h : k ≠ Obj.STORE_DIRTY.key) : State.sameKey k s s.redirty :=
  State.sameKey_setO _ _ _ _ _ h

theorem allObjs_sub_le : ∀ p ∈ allObjs, p.sub + p.subs ≤ 256 := by decide +kernel

/-- The index of STORE_DIRTY is none of a stored object. -/
theorem allObjs_stored_index : ∀ p ∈ allObjs, p.per = .c → ¬(p.index ≤ 0x1034 ∧ 0x1034 < p.index + p.reps) := by
  decide +kernel

/-- No stored object shares the key of STORE_DIRTY. -/
theorem key_ne_storeDirty (hf : findObj idx sub = some (o, i, j)) (hc : o.per = .c) : o.key i j ≠ Obj.STORE_DIRTY.key := by
  obtain ⟨ho, hi, hj⟩ := findObj_some hf
  have hsub := allObjs_sub_le o ho
  have hidx := allObjs_stored_index o ho hc
  have hd : Obj.STORE_DIRTY.key = 0x1034 * 256 := by decide
  rw [hd]
  unfold ObjDef.key
  omega

/-- PTP_ASSOC_EN has one index and one subindex, which are not those of PTP_STATE. -/
theorem ptpAssocEn_key_ne (hf : findObj idx sub = some (Obj.PTP_ASSOC_EN, i, j)) :
    Obj.PTP_ASSOC_EN.key i j ≠ Obj.PTP_STATE.key := by
  obtain ⟨-, hi, hj⟩ := findObj_some hf
  have h1 : i < 1 := hi
  have h2 : j < 1 := hj
  have hi0 : i = 0 := by omega
  have hj0 : j = 0 := by omega
  subst hi0 hj0
  decide

/-- A plain value is stored, and neither memory nor operations change. -/
theorem State.writeValue_stores {v : Nat} (hf : findObj idx sub = some (o, i, j)) (hpool : o.index < 0x2000 ∨ 0x2030 ≤ o.index)
    (hport : o ≠ Obj.PORT_ENABLE) (heth : o ≠ Obj.ETH_MODE) (hep : o ≠ Obj.EPOCH_BEATS) :
    (s.writeValue o i j v).getO o i j = v ∧ (s.writeValue o i j v).mem = s.mem ∧ (s.writeValue o i j v).ops = s.ops := by
  have hptp : ∀ t : State, t.onlyObj (if o = Obj.PTP_ASSOC_EN then t.ptpOff else t) ∧
      State.sameKey (o.key i j) t (if o = Obj.PTP_ASSOC_EN then t.ptpOff else t) := by
    intro t
    split_ifs with h
    · subst h
      exact ⟨t.onlyObj_ptpOff, t.sameKey_ptpOff (ptpAssocEn_key_ne hf)⟩
    · exact ⟨.refl t, .refl t⟩
  have hdirty : ∀ t : State, t.onlyObj (if o.per = .c then t.redirty else t) ∧
      State.sameKey (o.key i j) t (if o.per = .c then t.redirty else t) := by
    intro t
    split_ifs with h
    · exact ⟨t.onlyObj_redirty, t.sameKey_redirty (key_ne_storeDirty hf h)⟩
    · exact ⟨.refl t, .refl t⟩
  unfold State.writeValue
  simp only [if_neg hport, if_neg heth, if_neg hep, if_neg (show ¬(0x2000 ≤ o.index ∧ o.index ≤ 0x202F) by omega)]
  obtain ⟨ho1, hk1⟩ := hptp (s.setO o v i j)
  obtain ⟨ho2, hk2⟩ := hdirty (if o = Obj.PTP_ASSOC_EN then (s.setO o v i j).ptpOff else s.setO o v i j)
  have ho := ho1.trans ho2
  refine ⟨(hk1.trans hk2).getO.trans (State.getO_setO_same s o v i j), ?_, ?_⟩ <;> rw [ho] <;> rfl

@[simp] theorem State.getSel_setSel_same (v : Nat) : (s.setSel rq o v).getSel rq o = v := SMap.get_set_same _ _ _ _

theorem State.getSel_setSel_ne {p : ObjDef} (v : Nat) (h : o.key ≠ p.key) : (s.setSel rq p v).getSel rq o = s.getSel rq o :=
  SMap.get_set_ne' _ _ _ _ _ _ fun e => h (Nat.add_left_cancel e)

/-- What the probes compute can only be read. -/
theorem selObjs_key_ne {p : ObjDef} (h : selObjs.contains o = true) (hw : o.acc ≠ .ro)
    (hp : p ∈ [Obj.WINNOW_PROBE_BLOCK_LO, Obj.WINNOW_PROBE_BLOCK_HI, Obj.WINNOW_PROBE_DRAW_VALUE, Obj.SHUF_PROBE_SAMPLE,
      Obj.SHUF_PROBE_WALK]) : o.key ≠ p.key := by
  have key : ∀ a ∈ selObjs, a.acc ≠ .ro → ∀ b ∈ [Obj.WINNOW_PROBE_BLOCK_LO, Obj.WINNOW_PROBE_BLOCK_HI,
      Obj.WINNOW_PROBE_DRAW_VALUE, Obj.SHUF_PROBE_SAMPLE, Obj.SHUF_PROBE_WALK], a.key ≠ b.key := by decide
  exact key o (List.contains_iff_mem.1 h) hw p hp

/-- The winnow probe changes only the copies of what it computes. -/
theorem State.probeWinnow_keeps (h : selObjs.contains o = true) (hw : o.acc ≠ .ro) :
    (s.probeWinnow rq).getSel rq o = s.getSel rq o ∧ (s.probeWinnow rq).obj = s.obj ∧ (s.probeWinnow rq).mem = s.mem := by
  unfold State.probeWinnow
  extract_lets g q
  clear_value q
  refine ⟨?_, by rw [State.setSel_obj, State.setSel_obj, State.setSel_obj],
    by rw [State.setSel_mem, State.setSel_mem, State.setSel_mem]⟩
  rw [State.getSel_setSel_ne _ _ _ (selObjs_key_ne h hw (by simp)), State.getSel_setSel_ne _ _ _ (selObjs_key_ne h hw (by simp)),
    State.getSel_setSel_ne _ _ _ (selObjs_key_ne h hw (by simp))]

theorem State.probeShuffle_keeps (h : selObjs.contains o = true) (hw : o.acc ≠ .ro) :
    (s.probeShuffle rq).getSel rq o = s.getSel rq o ∧ (s.probeShuffle rq).obj = s.obj ∧ (s.probeShuffle rq).mem = s.mem := by
  unfold State.probeShuffle
  extract_lets g r
  clear_value r
  refine ⟨?_, by rw [State.setSel_obj, State.setSel_obj], by rw [State.setSel_mem, State.setSel_mem]⟩
  rw [State.getSel_setSel_ne _ _ _ (selObjs_key_ne h hw (by simp)), State.getSel_setSel_ne _ _ _ (selObjs_key_ne h hw (by simp))]

/-- A selector is stored in the requester's own copy, and neither dictionary nor memory changes (R459). -/
theorem State.writeSel_stores {v : Nat} (h : selObjs.contains o = true) (hw : o.acc ≠ .ro) :
    (s.writeSel rq o v).getSel rq o = v ∧ (s.writeSel rq o v).obj = s.obj ∧ (s.writeSel rq o v).mem = s.mem := by
  have hset : (s.setSel rq o v).getSel rq o = v := State.getSel_setSel_same _ _ _
  obtain ⟨hw1, hw2, hw3⟩ := (s.setSel rq o v).probeWinnow_keeps rq h hw
  obtain ⟨hs1, hs2, hs3⟩ := (s.setSel rq o v).probeShuffle_keeps rq h hw
  unfold State.writeSel
  split_ifs
  · exact ⟨hw1.trans hset, hw2, hw3⟩
  · exact ⟨hs1.trans hset, hs2, hs3⟩
  · exact ⟨hset, rfl, rfl⟩

end

/-- Settles O51: the checks of R462 in their order, and what an accepted value changes. -/
theorem dictionaryWriteResults : Obligations.DictionaryWriteResults := by
  intro s src idx sub t val _ ha u v answers
  have hans : ∀ w st, u.writeReq src.rq (u.owns src) src.load idx sub t val = (w, st) → answers w st := by
    intro w st hr
    have h := exec_write_accepted ha
    simp only at h
    rw [show (s.taken src).writeReq _ _ _ _ _ _ _ = _ from hr] at h
    exact h
  refine ⟨fun hown => hans _ _ (u.writeReq_error _ _ _ _ _ (writeTarget_notOwned _ _ _ hown)),
    fun hown hf => hans _ _ (u.writeReq_reserved _ _ _ _ _ (writeTarget_reserved _ _ _ hown hf)), ?_⟩
  intro o i j hown hf typed mine acts admits
  have htyped : o.typed t val.length = true ↔ typed := o.typed_iff t val.length
  have htarget := writeTarget_found (u.owns src) t val hown hf
  have herr : ∀ st, writeTarget (u.owns src) idx sub t val = .error st → answers u st :=
    fun st h => hans _ _ (u.writeReq_error _ _ _ _ _ h)
  have hpass : typed → o.acc ≠ .ro → mine → writeTarget (u.owns src) idx sub t val = .ok (some (o, i, j)) := by
    intro ht hr hm
    rw [htarget, if_neg (by rw [htyped.2 ht]; decide), if_neg hr, if_neg]
    rintro ⟨hl, hn⟩
    rw [hm hl] at hn
    cases hn
  have hreq := fun ht hr hm => u.writeReq_target src.rq _ src.load _ _ (hpass ht hr hm)
  have hadm : ¬admits ↔ u.stateAdmits src.load o idx = false ∨ u.ringLocked src.rq o = true := by
    simp only [admits, not_and_or, Bool.not_eq_true, Bool.not_eq_false]
  refine ⟨fun ht => ?_, fun ht hr => ?_, fun ht hr hm => ?_, fun ht hr hm hz => ?_, fun ht hr hm hz hd => ?_,
    fun w ht hr hm hz hd hrule => ?_, fun ht hr hm hz hd hrule => ?_⟩
  · exact herr 6 (by rw [htarget, if_pos (eq_false_of_ne_true fun h => ht (htyped.1 h))])
  · exact herr 2 (by rw [htarget, if_neg (by rw [htyped.2 ht]; decide), if_pos hr])
  · obtain ⟨hl, hn⟩ := Classical.not_imp.1 hm
    exact herr 4 (by rw [htarget, if_neg (by rw [htyped.2 ht]; decide), if_neg hr, if_pos ⟨hl, eq_false_of_ne_true hn⟩])
  · exact hans _ _ (by rw [hreq ht hr hm, if_pos (not_not.1 hz)])
  · exact hans _ _ (by rw [hreq ht hr hm, if_neg hz, if_pos (hadm.1 hd)])
  · exact hans _ _ (by rw [hreq ht hr hm, if_neg hz, if_neg (mt hadm.2 (not_not.2 hd)), hrule, Option.elim_some])
  · have hval := hreq ht hr hm
    rw [if_neg hz, if_neg (mt hadm.2 (not_not.2 hd)), hrule, Option.elim_none] at hval
    refine ⟨fun hres => hans _ _ (by rw [hval, if_pos hres]), fun hres hok => hans _ _ (by rw [hval, if_neg (not_not.2 hres), if_pos hok]),
      fun hres hok => ?_⟩
    rw [if_neg (not_not.2 hres), if_neg (by rw [show u.valueOk src.rq o i j (ofBytes val) = true from hok]; decide)] at hval
    refine ⟨⟨_, _, hans _ _ hval⟩, fun hc hclk hring hqp hmr => ?_⟩
    rw [u.applyWrite_plain _ hc hclk hring hqp hmr] at hval
    refine ⟨fun hsel hpool hport heth hep => ?_, fun hsel => ?_⟩
    · rw [if_neg (by rw [hsel]; decide)] at hval
      exact ⟨_, hans _ _ hval, u.writeValue_stores hf hpool hport heth hep⟩
    · rw [if_pos hsel] at hval
      exact ⟨_, hans _ _ hval, u.writeSel_stores src.rq hsel hr⟩

end Sys2Proof.Machine

namespace Sys2Proof

/-- The unit a source speaks through is there: its Ethernet port, or its steward. -/
def Src.present : Src → Prop
  | .ydp h => ¬h.net.eport ≥ 2
  | .steward n _ => ¬n ≥ 4

end Sys2Proof

namespace Sys2Proof.Machine

/-! ### What every operation keeps

An operation of the model is built from updates of fields, conditions, matches and folds. `State.keeps` says of the
state it leaves what O4 needs, and goes through each of these; `State.leads` adds for a command's outcome what O5 needs.
One lemma for each operation follows below, in the order of the model's files, named after the operation. -/

/-- From s to t the queue of waiting commands is as it was, and memory keeps its canonical form. -/
structure State.keeps (s t : State) : Prop where
  queue : t.pending = s.pending
  memory : Memory.wf s.mem = true → Memory.wf t.mem = true

/-- An outcome: where `ok` holds it is a next state, and a next state has the queue and memory's form. -/
structure State.leads (s : State) (ok : Prop) (o : Out) : Prop where
  next_of : ok → ∃ t, o = .next t
  keeps_of : ∀ t, o = .next t → s.keeps t

/-- An answer that may be missing: where there is one, its state keeps the queue and memory's form. -/
def State.offers (s : State) {α : Type} (f : α → State) (o : Option α) : Prop := ∀ r, o = some r → s.keeps (f r)

/-- A function under another name: a proof that speaks of the name alone does not compute with the function. -/
theorem exists_name {α : Sort*} (a : α) : ∃ x, a = x := ⟨a, rfl⟩

section Frame
variable {u s t : State} {α β : Type} {ok p : Prop} [Decidable p]

theorem State.keeps.refl (s : State) : s.keeps s := ⟨rfl, id⟩

theorem State.keeps.trans (h : u.keeps s) (h' : s.keeps t) : u.keeps t :=
  ⟨h'.queue.trans h.queue, h'.memory ∘ h.memory⟩

theorem State.memAside.keeps (h : s.memAside t) : s.keeps t := ⟨by rw [h.rest], h.canonical⟩

/-- An update of any fields but the queue and memory. All fields are written out so that unification finds the state
that was updated, which `{ s with … }` does not name. -/
theorem State.keeps.upd {out obj blob sel selBlob freeCtr chk vchk subch pkgTemp vreg mreg ctxs ops nextOp stopped sems
    unrec rings tables load alm stepRun stepDead stepQueue censusRecv updWait baleFrom balesDone balesAborted updDiscard
    wmax wsat abortedInStep earlyPkts leaveQ waited readyQ resvs dip thermSteps dipSteps fences ringHead thrs ports slots
    qps mrs sessions eths log fieldFirst fieldStamps flash fuses pins roceHeld helloSec resetAsked resetRun fallowStep
    storeRun storeSlot fwStage attestRun watchdogMs pllSince energyUj memLost udpPort memRate linkCfg} (h : u.keeps s) :
    u.keeps ⟨s.pending, out, obj, blob, sel, selBlob, freeCtr, s.mem, chk, vchk, subch, pkgTemp, vreg, mreg, ctxs, ops,
      nextOp, stopped, sems, unrec, rings, tables, load, alm, stepRun, stepDead, stepQueue, censusRecv, updWait,
      baleFrom, balesDone, balesAborted, updDiscard, wmax, wsat, abortedInStep, earlyPkts, leaveQ, waited, readyQ,
      resvs, dip, thermSteps, dipSteps, fences, ringHead, thrs, ports, slots, qps, mrs, sessions, eths, log, fieldFirst,
      fieldStamps, flash, fuses, pins, roceHeld, helloSec, resetAsked, resetRun, fallowStep, storeRun, storeSlot,
      fwStage, attestRun, watchdogMs, pllSince, energyUj, memLost, udpPort, memRate, linkCfg⟩ := ⟨h.queue, h.memory⟩

theorem State.keeps.ite (h : u.keeps s) (h' : u.keeps t) : u.keeps (if p then s else t) := by
  split_ifs <;> assumption

theorem State.keeps.when (h : u.keeps s) (h' : u.keeps s → u.keeps t) : u.keeps (if p then t else s) := .ite (h' h) h

theorem State.keeps.unless (h : u.keeps s) (h' : u.keeps s → u.keeps t) : u.keeps (if p then s else t) := .ite h (h' h)

theorem State.keeps.ite_fst {a b : State × α} (h : u.keeps a.1) (h' : u.keeps b.1) :
    u.keeps (if p then a else b).1 := by
  split_ifs <;> assumption

theorem State.keeps.of_eq {q : State × α} {a : α} (h : u.keeps q.1) (e : q = (t, a)) : u.keeps t := by
  rw [e] at h
  exact h

theorem State.keeps.foldl {f : State → α → State} {l : List α} (h : u.keeps s)
    (hf : ∀ s a, u.keeps s → u.keeps (f s a)) : u.keeps (l.foldl f s) := by
  induction l generalizing s with
  | nil => exact h
  | cons a l ih => exact ih (hf s a h)

theorem State.keeps.foldl_fst {f : State × β → α → State × β} {l : List α} {q : State × β} (h : u.keeps q.1)
    (hf : ∀ q a, u.keeps q.1 → u.keeps (f q a).1) : u.keeps (l.foldl f q).1 := by
  induction l generalizing q with
  | nil => exact h
  | cons a l ih => exact ih (hf q a h)

theorem State.leads.next (h : u.keeps s) : u.leads ok (.next s) :=
  ⟨fun _ => ⟨s, rfl⟩, fun _ e => by cases e; exact h⟩

theorem State.leads.guard {f : Fault} {o : Out} (hok : ok → ¬p) (h : u.leads ok o) :
    u.leads ok (if p then .fault f else o) := by
  split_ifs with hp
  · exact ⟨fun w => absurd hp (hok w), fun _ e => by cases e⟩
  · exact h

theorem State.leads.ite {o o' : Out} (h : u.leads ok o) (h' : u.leads ok o') : u.leads ok (if p then o else o') := by
  split_ifs <;> assumption

theorem State.offers.none {f : α → State} : u.offers f none := fun _ e => (Option.some_ne_none _ e.symm).elim

theorem State.offers.some {f : α → State} {r : α} (h : u.keeps (f r)) : u.offers f (some r) :=
  fun _ e => Option.some.inj e ▸ h

theorem State.offers.ite {f : α → State} {o o' : Option α} (h : u.offers f o) (h' : u.offers f o') :
    u.offers f (if p then o else o') := by
  split_ifs <;> assumption

end Frame

/-! ### Objects, posts and memory -/

section Ops
variable {σ s : State} {o : ObjDef} {v i j n m a p kind b reason core id k q target cw src : Nat}
  {bs body : List Byte} {r : Rec} (h : σ.keeps s)
include h

theorem State.keeps.setO : σ.keeps (s.setO o v i j) := h.trans (State.onlyObj_setO ..).aside.mem.keeps

theorem State.keeps.setI {v : Int} : σ.keeps (s.setI o v i j) := h.trans (State.onlyObj_setI ..).aside.mem.keeps

theorem State.keeps.drew : σ.keeps s.drew := h.trans (State.onlyObj_drew ..).aside.mem.keeps

theorem State.keeps.incO {n : Nat} : σ.keeps (s.incO o n i j) := h.trans (State.onlyObj_incO ..).aside.mem.keeps

theorem State.keeps.orO : σ.keeps (s.orO o m i j) := h.trans (State.onlyObj_orO ..).aside.mem.keeps

theorem State.keeps.clearBits : σ.keeps (s.clearBits o m i j) := h.trans (State.onlyObj_clearBits ..).aside.mem.keeps

theorem State.keeps.maxO : σ.keeps (s.maxO o v i j) := h.trans (State.onlyObj_maxO ..).aside.mem.keeps

theorem State.keeps.emit {o : Output} : σ.keeps (s.emit o) := h.trans (State.aside_emit ..).mem.keeps

theorem State.keeps.setDev : σ.keeps (s.setDev n) := h.trans (State.onlyObj_setDev ..).aside.mem.keeps

theorem State.keeps.poke : σ.keeps (s.poke a bs) := h.trans (State.aside_poke ..).mem.keeps

theorem State.keeps.takeLink : σ.keeps s.takeLink := by
  unfold State.takeLink
  exact h.upd

theorem State.keeps.setPort {x : Port} : σ.keeps (s.setPort p x) :=
  h.trans (State.onlyHold_setPort ..).aside.mem.keeps

theorem State.keeps.queueCtl {except : Nat} {blocks : List Byte} : σ.keeps (s.queueCtl except kind blocks) :=
  h.trans (State.onlyHold_queueCtl ..).aside.mem.keeps

theorem State.keeps.flood {x y : Nat} : σ.keeps (s.flood kind x y) :=
  h.trans (State.onlyHold_flood ..).aside.mem.keeps

theorem State.keeps.sendVc2 {dest : Nat} {bad : List Nat} : σ.keeps (s.sendVc2 dest kind body bad) :=
  h.trans (State.onlyHold_sendVc2 ..).aside.mem.keeps

theorem State.keeps.toMaster : σ.keeps (s.toMaster body) := h.trans (State.onlyHold_toMaster ..).aside.mem.keeps

theorem State.keeps.freeRx {vc : Nat} : σ.keeps (s.freeRx p vc n) := by
  unfold State.freeRx
  exact h.setPort

theorem State.keeps.cancelSwapsIf {gone : Nat → Bool} : σ.keeps (s.cancelSwapsIf gone) :=
  h.trans (State.aside_cancelSwapsIf ..).mem.keeps

theorem State.keeps.cancelSwaps : σ.keeps s.cancelSwaps := by
  unfold State.cancelSwaps
  exact h.cancelSwapsIf

theorem State.keeps.cutOps : σ.keeps (s.cutOps b) := h.trans (State.aside_cutOps ..).mem.keeps

theorem State.keeps.stopAt : σ.keeps (s.stopAt b) := h.trans (State.aside_stopAt ..).mem.keeps

theorem State.keeps.takeStop : σ.keeps (s.takeStop b) := h.trans (State.aside_takeStop ..).mem.keeps

theorem State.keeps.masterStopAt : σ.keeps (s.masterStopAt b) := h.trans (State.aside_masterStopAt ..).mem.keeps

theorem State.keeps.askStop : σ.keeps (s.askStop reason) := h.trans (State.aside_askStop ..).mem.keeps

theorem State.keeps.stopRequest : σ.keeps (s.stopRequest reason) := h.trans (State.aside_stopRequest ..).mem.keeps

theorem State.keeps.setCtx {ctx : Nat} {c : Ctx} : σ.keeps (s.setCtx core ctx c) :=
  h.trans (State.onlySem_setCtx ..).aside.mem.keeps

theorem State.keeps.setOp {o : Op} : σ.keeps (s.setOp id o) := h.trans (State.onlySem_setOp ..).aside.mem.keeps

theorem State.keeps.dropOp : σ.keeps (s.dropOp id) := h.trans (State.aside_dropOp ..).mem.keeps

theorem State.keeps.modOp {f : Op → Op} : σ.keeps (s.modOp id f) := h.trans (State.onlySem_modOp ..).aside.mem.keeps

theorem State.keeps.setThr {d : Nat} {t : Thr} : σ.keeps (s.setThr d t) :=
  h.trans (State.onlySem_setThr ..).aside.mem.keeps

theorem State.keeps.deliver {w : SemWho} {r : Nat} : σ.keeps (s.deliver w r) :=
  h.trans (State.onlySem_deliver ..).aside.mem.keeps

theorem State.keeps.setSem {x : Sem} : σ.keeps (s.setSem n x) := h.trans (State.onlySem_setSem ..).aside.mem.keeps

theorem State.keeps.semGrants : σ.keeps (s.semGrants n k) := h.trans (State.onlySem_semGrants ..).aside.mem.keeps

theorem State.keeps.signalBase : σ.keeps (s.signalBase q n).1 := h.trans (State.onlySem_signalBase ..).aside.mem.keeps

theorem State.keeps.setRing {r : Machine.Ring} : σ.keeps (s.setRing q r) := h.trans (State.aside_setRing ..).mem.keeps

theorem State.keeps.putWhole : σ.keeps (s.putWhole a bs) := h.trans (State.aside_putWhole ..).mem.keeps

theorem State.keeps.produce {binding rec : Nat} : σ.keeps (s.produce binding target rec).1 :=
  h.trans (State.aside_produce ..).mem.keeps

theorem State.keeps.masterRecord {w : Nat} : σ.keeps (s.masterRecord w) :=
  h.trans (State.aside_masterRecord ..).mem.keeps

theorem State.keeps.classEffect {cls : Nat} : σ.keeps (s.classEffect cls reason) :=
  h.trans (State.aside_classEffect ..).mem.keeps

theorem State.keeps.logRecord : σ.keeps (s.logRecord r).1 := h.trans (State.aside_logRecord ..).mem.keeps

theorem State.keeps.postF {a : Rec} : σ.keeps (State.postF k s a) := h.trans (State.aside_postF ..).mem.keeps

theorem State.keeps.post : σ.keeps (s.post r) := h.trans (State.aside_post ..).mem.keeps

theorem State.keeps.signal : σ.keeps (s.signal q n) := h.trans (State.aside_signal ..).mem.keeps

theorem State.keeps.notify {n : Option Nat} : σ.keeps (s.notify n) := h.trans (State.aside_notify ..).mem.keeps

theorem State.keeps.event {typ source tag sem entry : Nat} : σ.keeps (s.event target typ source tag sem entry) :=
  h.trans (State.aside_event ..).mem.keeps

theorem State.keeps.setSub {c : Nat} {x : Subch} : σ.keeps (s.setSub c x) := h.trans (State.memAside_setSub ..).keeps

theorem State.keeps.countCe : σ.keeps (s.countCe a) := h.trans (State.memAside_countCe ..).keeps

theorem State.keeps.countUe {syn : Nat} : σ.keeps (s.countUe cw syn src) := h.trans (State.memAside_countUe ..).keeps

theorem State.keeps.faultMap : σ.keeps (s.faultMap core) := h.trans (State.memAside_faultMap ..).keeps

theorem State.keeps.loftCe : σ.keeps (s.loftCe core) := h.trans (State.memAside_loftCe ..).keeps

theorem State.keeps.loftUe : σ.keeps (s.loftUe core a) := h.trans (State.memAside_loftUe ..).keeps

theorem State.keeps.readCw : σ.keeps (s.readCw cw src).1 := h.trans (State.memAside_readCw ..).keeps

theorem State.keeps.judgeCw : σ.keeps (s.judgeCw cw) := h.trans (State.memAside_judgeCw ..).keeps

theorem State.keeps.readCws {l : List Nat} : σ.keeps (s.readCws a n src l).1 :=
  h.trans (State.memAside_readCws ..).keeps

theorem State.keeps.readMem : σ.keeps (s.readMem a n).1 := h.trans (State.memAside_readMem ..).keeps

theorem State.keeps.writeUnit {u size : Nat} : σ.keeps (s.writeUnit u size a bs).1 :=
  h.trans (State.memAside_writeUnit ..).keeps

theorem State.keeps.writeMemF {k2 : Nat} {l : List Byte} : σ.keeps (State.writeMemF k s k2 l).1 :=
  h.trans (State.memAside_writeMemF ..).keeps

theorem State.keeps.writeMem : σ.keeps (s.writeMem a bs).1 := h.trans (State.memAside_writeMem ..).keeps

theorem State.keeps.stopStream {unit stream : Nat} : σ.keeps (s.stopStream unit stream) :=
  h.trans (State.aside_stopStream ..).mem.keeps

end Ops

/-! ### Operands of operations -/

section Operands
variable {σ s : State} {a n k : Nat} {l : List (Nat × Nat)} {rs : List Role} (h : σ.keeps s)
include h

theorem State.keeps.readDesc : σ.keeps (s.readDesc a n).1 := by
  unfold State.readDesc
  exact h.readMem

theorem State.keeps.checkTensors {l : List Role} : σ.keeps (s.checkTensors l).1 := by
  induction l generalizing s with
  | nil => exact h
  | cons a l ih =>
    unfold State.checkTensors
    exact .ite_fst (ih h.readDesc) (ih h)

theorem State.keeps.tensors : σ.keeps (s.tensors rs).1 := by
  unfold State.tensors
  exact h.checkTensors

theorem State.keeps.tensorsThen {conds : List TD → List Bool} : σ.keeps (s.tensorsThen rs conds).1 := by
  unfold State.tensorsThen
  split
  · exact h.tensors.of_eq ‹_›
  · exact h.tensors

theorem State.keeps.renewOne {p : Nat × Nat} : σ.keeps (s.renewOne p).1 := by
  unfold State.renewOne
  exact .ite_fst h h.readMem

theorem State.keeps.renewAll : σ.keeps (s.renewAll l).1 := by
  induction l generalizing s with
  | nil => exact h
  | cons a l ih =>
    unfold State.renewAll
    exact ih h.renewOne

theorem State.keeps.scramble : σ.keeps (s.scramble a n) := by
  unfold State.scramble
  exact ⟨h.queue, fun hm => Memory.wf_splice _ _ _ (h.memory hm)⟩

theorem State.keeps.touch : σ.keeps (s.touch l).1 := h.trans (State.memAside_touch ..).keeps

theorem State.keeps.writeAll {l : List (Nat × List Byte)} : σ.keeps (s.writeAll l).1 :=
  h.trans (State.memAside_writeAll ..).keeps

theorem State.keeps.touchAll {l : List Piece} : σ.keeps (s.touchAll l k).1 :=
  h.trans (State.memAside_touchAll ..).keeps

theorem State.keeps.someOf {skip : Nat} {l : List Piece} {a : Work} : σ.keeps (s.someOf skip l k a).1 := by
  induction l generalizing s skip k a with
  | nil => exact h
  | cons a l ih =>
    unfold State.someOf
    refine .ite_fst (ih h) (.ite_fst ?_ (ih h.drew))
    split
    · exact ih h.drew
    · extract_lets
      split
      · exact ih h.drew
      · exact ih ((h.drew.touch.of_eq ‹_›).writeAll.of_eq ‹_›)

theorem State.keeps.someWrites {l : List (Nat × List Byte)} : σ.keeps (s.someWrites l) := by
  induction l generalizing s with
  | nil => exact h
  | cons a l ih =>
    unfold State.someWrites
    refine .ite ?_ (ih h.drew)
    split
    · exact ih h.drew
    · exact ih (h.drew.writeMem.of_eq ‹_›)

theorem State.keeps.writePieces {l : List Work} : σ.keeps (s.writePieces l k).1 :=
  h.trans (State.memAside_writePieces ..).keeps

theorem State.keeps.runPieces {ps : List Piece} : σ.keeps (s.runPieces ps).1 := by
  unfold State.runPieces
  split
  · exact h.touch.someOf
  · have h₁ := h.touchAll.of_eq ‹_›
    extract_lets
    split
    · exact h₁.writePieces.of_eq ‹_›
    · exact h₁.writeMem.someOf.someWrites

end Operands

/-! ### Flags -/

section Flags
variable {σ s : State} {core sats tid : Nat} (h : σ.keeps s)
include h

theorem State.keeps.coreFlags {fl : Nat} : σ.keeps (s.coreFlags core fl sats) := by
  unfold State.coreFlags
  exact h.orO.unless fun h => h.incO

theorem State.keeps.recordScale {top : Option Int} : σ.keeps (s.recordScale tid sats top) := by
  unfold State.recordScale
  refine .ite h ?_
  split
  · exact h
  · extract_lets
    split
    · exact h.readMem.of_eq ‹_›
    · have h₁ := h.readMem.of_eq ‹_›
      exact (h₁.unless fun h => h.drew).writeMem

theorem State.keeps.account {w : Work} : σ.keeps (s.account core w tid) := by
  unfold State.account
  exact h.coreFlags.recordScale

end Flags

/-! ### Holds -/

section Hold
variable {σ s : State} {key t e : Nat} {p : Place} (h : σ.keeps s)
include h

theorem State.keeps.masterHold {hd : Held} : σ.keeps (s.masterHold hd) :=
  h.trans (State.onlyHold_masterHold ..).aside.mem.keeps

theorem State.keeps.masterRelease {origin : Nat} : σ.keeps (s.masterRelease origin) :=
  h.trans (State.onlyHold_masterRelease ..).aside.mem.keeps

theorem State.keeps.sendHold {c : Cond} : σ.keeps (s.sendHold c) :=
  h.trans (State.onlyHold_sendHold ..).aside.mem.keeps

theorem State.keeps.sendRelease : σ.keeps s.sendRelease := h.trans (State.onlyHold_sendRelease ..).aside.mem.keeps

theorem State.keeps.syncHold : σ.keeps s.syncHold := h.trans (State.onlyHold_syncHold ..).aside.mem.keeps

theorem State.keeps.setCond {c : Option (Nat × Nat)} : σ.keeps (s.setCond key c) :=
  h.trans (State.onlyHold_setCond ..).aside.mem.keeps

theorem State.keeps.holdNow {reason : Nat} : σ.keeps (s.holdNow key reason) :=
  h.trans (State.onlyHold_holdNow ..).aside.mem.keeps

theorem State.keeps.setTable {x : Table} : σ.keeps (s.setTable t x) := by
  unfold State.setTable
  exact h.upd

theorem State.keeps.judge : σ.keeps (s.judge t) := h.trans (State.onlyHold_judge ..).aside.mem.keeps

theorem State.keeps.judgeHeld : σ.keeps s.judgeHeld := by
  unfold State.judgeHeld
  exact h.foldl fun _ _ h => h.judge

theorem State.keeps.judgeStep : σ.keeps s.judgeStep := h.trans (State.onlyHold_judgeStep ..).aside.mem.keeps

theorem State.keeps.overrunAt {b : Nat} : σ.keeps (s.overrunAt t p e b) := by
  unfold State.overrunAt
  exact h.unless fun h => h.setTable.incO.setO.setO.setO.post

theorem State.keeps.passEntry : σ.keeps (s.passEntry t p) := by
  unfold State.passEntry
  exact h.setTable.judge.judgeStep

theorem State.keeps.stampEntry : σ.keeps (s.stampEntry t e p) := by
  unfold State.stampEntry
  exact h.when fun h => h.event

theorem State.keeps.entryBegins {o : Op} : σ.keeps (s.entryBegins o) := by
  unfold State.entryBegins
  split
  · extract_lets
    split
    · exact (h.when fun h => h.overrunAt).stampEntry.passEntry
    · exact h
  · exact h

end Hold

/-! ### Leave -/

section Leave
variable {σ s : State} {id : Nat} {o : Op} (h : σ.keeps s)
include h

theorem State.keeps.makeReady : σ.keeps (s.makeReady id o) := h.trans (State.aside_makeReady ..).mem.keeps

theorem State.keeps.claim {r : Resv} : σ.keeps (s.claim r) := h.trans (State.aside_claim ..).mem.keeps

theorem State.keeps.serve {k : Nat} : σ.keeps (State.serve k s) := h.trans (State.aside_serve ..).mem.keeps

theorem State.keeps.serveLeave : σ.keeps s.serveLeave := h.trans (State.aside_serveLeave ..).mem.keeps

theorem State.keeps.hasWaited : σ.keeps (s.hasWaited o) := h.trans (State.aside_hasWaited ..).mem.keeps

theorem State.keeps.takeReserved : σ.keeps (s.takeReserved id o) := h.trans (State.aside_takeReserved ..).mem.keeps

theorem State.keeps.dropReserved {entry : Option (Nat × Nat × Nat)} : σ.keeps (s.dropReserved entry) :=
  h.trans (State.aside_dropReserved ..).mem.keeps

theorem State.keeps.requestLeave : σ.keeps (s.requestLeave id o) := h.trans (State.aside_requestLeave ..).mem.keeps

end Leave

/-! ### Semaphores -/

section Sem
variable {ok : Prop} {σ s : State} {q n count : Nat} {who : SemWho} (h : σ.keeps s)
include h

theorem State.keeps.semMisuse : σ.keeps (s.semMisuse q who) := h.trans (State.aside_semMisuse ..).mem.keeps

theorem State.keeps.semWaitOp {lock : Bool} : σ.keeps (s.semWaitOp q n lock who).1 :=
  h.trans (State.aside_semWaitOp ..).mem.keeps

theorem State.keeps.semTryOp : σ.keeps (s.semTryOp q n who).1 := h.trans (State.aside_semTryOp ..).mem.keeps

theorem State.keeps.semLockTry : σ.keeps (s.semLockTry q who).1 := h.trans (State.aside_semLockTry ..).mem.keeps

theorem State.keeps.semUnlockOp : σ.keeps (s.semUnlockOp q who).1 := h.trans (State.aside_semUnlockOp ..).mem.keeps

theorem State.keeps.semSignalOp : σ.keeps (s.semSignalOp q n who).1 := h.trans (State.aside_semSignalOp ..).mem.keeps

theorem State.keeps.orphanAll {l : List SemReq} : σ.keeps (s.orphanAll l) :=
  h.trans (State.onlySem_orphanAll ..).aside.mem.keeps

theorem State.keeps.semOrphan : σ.keeps (s.semOrphan q) := h.trans (State.aside_semOrphan ..).mem.keeps

theorem State.keeps.keepWaits {keep : SemReq → Bool} : σ.keeps (s.keepWaits keep) := by
  unfold State.keepWaits
  exact h.upd

theorem State.keeps.regrant : σ.keeps s.regrant := h.trans (State.aside_regrant ..).mem.keeps

theorem State.keeps.loseOwners {gone : SemReq → Bool} {lost : Nat → Bool} : σ.keeps (s.loseOwners gone lost) :=
  h.trans (State.aside_loseOwners ..).mem.keeps

theorem State.keeps.loseOwner {id : Nat} : σ.keeps (s.loseOwner id) := h.trans (State.aside_loseOwner ..).mem.keeps

theorem State.keeps.semActSet : σ.keeps (s.semActSet q count) := by
  unfold State.semActSet
  exact .ite h.setO (.ite h.setO (.ite h.setO h.setSem.setO))

theorem State.keeps.semRecover : σ.keeps (s.semRecover q count) := by
  unfold State.semRecover
  exact .ite h.setSem.setO h.setO

theorem State.keeps.semReissue {r : SemReq} : σ.keeps (s.semReissue r) :=
  h.trans (State.aside_semReissue ..).mem.keeps

theorem State.keeps.ctxWaitOn {w : CtxWait} : σ.keeps (s.ctxWaitOn who w) :=
  h.trans (State.onlySem_ctxWaitOn ..).aside.mem.keeps

theorem State.leads.execSemWaitReissue : σ.leads ok (execSemWaitReissue n s) := by
  unfold Machine.execSemWaitReissue
  split
  · exact .next h
  · exact .next (h.upd.semReissue.unless fun h => h.ctxWaitOn)

end Sem

/-! ### The life of an operation -/

section Lifecycle
variable {ok : Prop} {σ s : State} {u id addr cause group op : Nat} {o : Op} (h : σ.keeps s)
include h

theorem State.keeps.countRefused : σ.keeps (s.countRefused u) :=
  h.trans (State.onlyObj_countRefused ..).aside.mem.keeps

theorem State.keeps.countAbandoned {d : Nat} : σ.keeps (s.countAbandoned d) :=
  h.trans (State.onlyObj_countAbandoned ..).aside.mem.keeps

theorem State.keeps.coreFailed : σ.keeps (s.coreFailed o) := h.trans (State.onlyObj_coreFailed ..).aside.mem.keeps

theorem State.keeps.fenceWake {core ctx : Nat} : σ.keeps (s.fenceWake core ctx) :=
  h.trans (State.aside_fenceWake ..).mem.keeps

theorem State.keeps.thrEnd : σ.keeps (s.thrEnd id o) := h.trans (State.aside_thrEnd ..).mem.keeps

theorem State.keeps.endOp : σ.keeps (s.endOp id o) := h.trans (State.aside_endOp ..).mem.keeps

theorem State.keeps.ringDone : σ.keeps (s.ringDone o) := h.trans (State.aside_ringDone ..).mem.keeps

theorem State.keeps.refuse {r : Refused} : σ.keeps (s.refuse id o r) := h.trans (State.aside_refuse ..).mem.keeps

theorem State.keeps.orphanWait : σ.keeps (s.orphanWait id o) := h.trans (State.aside_orphanWait ..).mem.keeps

theorem State.keeps.abandon : σ.keeps (s.abandon id o addr cause group) := h.trans (State.aside_abandon ..).mem.keeps

theorem State.keeps.failOp : σ.keeps (s.failOp id o addr cause group) := h.trans (State.aside_failOp ..).mem.keeps

theorem State.keeps.passed : σ.keeps (s.passed id o) := h.trans (State.aside_passed ..).mem.keeps

theorem State.keeps.submitOp {ours : Bool} : σ.keeps (s.submitOp o ours) := by
  unfold State.submitOp
  exact h.setOp.upd.unless fun h => h.entryBegins.refuse

theorem State.keeps.stepOne {check : State → Op → State × Chk} (hcheck : ∀ s a, σ.keeps s → σ.keeps (check s a).1) :
    σ.keeps (s.stepOne check id o) := by
  unfold State.stepOne
  extract_lets
  split
  · exact h.entryBegins.refuse
  · split
    · exact ((hcheck _ _ h.entryBegins).of_eq ‹_›).refuse
    · exact ((hcheck _ _ h.entryBegins).of_eq ‹_›).ringDone.failOp
    · exact ((hcheck _ _ h.entryBegins).of_eq ‹_›).passed

theorem State.keeps.start4 : σ.keeps (s.start4 id o).1 := by
  unfold State.start4
  exact h.renewAll.setOp.upd

theorem State.keeps.runOp {c : Nat} {check : State → Op → State × Chk} {run : State → Nat → Op → State}
    (hcheck : ∀ s a, σ.keeps s → σ.keeps (check s a).1) (hrun : ∀ s n a, σ.keeps s → σ.keeps (run s n a)) :
    σ.keeps (s.runOp u c check run id) := by
  unfold State.runOp
  split
  · exact h
  · refine .ite h ?_
    extract_lets
    split
    · exact h.when fun h => h.stepOne hcheck
    · refine .ite ?_ (h.when fun h => h.stepOne hcheck)
      split
      · exact ((h.when fun h => h.stepOne hcheck).start4.of_eq ‹_›).failOp
      · exact hrun _ _ _ ((h.when fun h => h.stepOne hcheck).start4.of_eq ‹_›)

theorem State.keeps.blockOp : σ.keeps (s.blockOp id o) := h.trans (State.aside_blockOp ..).mem.keeps

theorem State.keeps.worked {f : Option Nat} : σ.keeps (s.worked id o f) := h.trans (State.aside_worked ..).mem.keeps

theorem State.leads.execOpAbandoned : σ.leads ok (execOpAbandoned op s) := by
  unfold Machine.execOpAbandoned
  split
  · exact .next h
  · split
    · exact .next h.abandon
    · exact .next h

theorem State.keeps.countDone : σ.keeps (s.countDone o) := h.trans (State.onlyObj_countDone ..).aside.mem.keeps

theorem State.leads.execOperationComplete : σ.leads ok (execOperationComplete op s) := by
  unfold Machine.execOperationComplete
  split
  · exact .next h
  · split
    · exact .next ((h.endOp.countDone.when fun h => h.signal).when fun h => h.event)
    · exact .next h

end Lifecycle

/-! ### The matrix engine -/

section Matrix
variable {ok : Prop} {σ s : State} {part : Bool} {o : Op} {op : Nat} (h : σ.keeps s)
include h

theorem State.keeps.mmCheck : σ.keeps (mmCheck part s o).1 := by
  unfold Machine.mmCheck
  exact .ite_fst h h.tensorsThen

theorem State.keeps.mmRun {id : Nat} : σ.keeps (mmRun part s id o) := by
  unfold Machine.mmRun
  refine .worked ?_
  split
  · exact h.runPieces.account.incO
  · exact h.runPieces.account.incO.drew

theorem State.leads.execMatmul : σ.leads ok (execMatmul op s) := by
  unfold Machine.execMatmul
  exact .next (h.runOp (fun _ _ h => h.mmCheck) fun _ _ _ h => h.mmRun)

theorem State.leads.execMatmulPartial : σ.leads ok (execMatmulPartial op s) := by
  unfold Machine.execMatmulPartial
  exact .next (h.runOp (fun _ _ h => h.mmCheck) fun _ _ _ h => h.mmRun)

theorem State.leads.execMatrixSelftestComplete {failing : List Nat} :
    σ.leads ok (execMatrixSelftestComplete failing s) := by
  unfold Machine.execMatrixSelftestComplete
  exact .ite (.next h) (.next ((h.setO.setO.setO.foldl fun _ _ h => h.setO).foldl fun _ _ h => h.faultMap.post))

end Matrix

/-! ### Vector operations -/

section VectorOps
variable {ok : Prop} {σ s : State} {c id op : Nat} {o : Op} (h : σ.keeps s)
include h

theorem State.keeps.voCheck : σ.keeps (voCheck c s o).1 := by
  unfold Machine.voCheck
  exact .ite_fst h h.tensorsThen

theorem State.keeps.voRun : σ.keeps (voRun c s id o) := by
  unfold Machine.voRun
  exact h.runPieces.account.worked

theorem State.leads.execPartialSum : σ.leads ok (execPartialSum op s) := by
  unfold Machine.execPartialSum
  exact .next (h.runOp (fun _ _ h => h.voCheck) fun _ _ _ h => h.voRun)

theorem State.leads.execPermute : σ.leads ok (execPermute op s) := by
  unfold Machine.execPermute
  exact .next (h.runOp (fun _ _ h => h.voCheck) fun _ _ _ h => h.voRun)

theorem State.leads.execConvert : σ.leads ok (execConvert op s) := by
  unfold Machine.execConvert
  exact .next (h.runOp (fun _ _ h => h.voCheck) fun _ _ _ h => h.voRun)

theorem State.keeps.rkCheck : σ.keeps (rkCheck s o).1 := by
  unfold Machine.rkCheck
  exact h

theorem State.keeps.startCtx {core ctx : Nat} {c : Ctx} : σ.keeps (s.startCtx core ctx c) := by
  unfold State.startCtx
  exact h.setCtx.upd.maxO

theorem State.keeps.rkRun : σ.keeps (rkRun s id o) := by
  unfold Machine.rkRun
  exact .ite h.blockOp h.startCtx.judge

theorem State.leads.execRunKernel : σ.leads ok (execRunKernel op s) := by
  unfold Machine.execRunKernel
  exact .next (h.runOp (fun _ _ h => h.rkCheck) fun _ _ _ h => h.rkRun)

end VectorOps

/-! ### Kernels and contexts -/

section Kernel
variable {ok : Prop} {σ s : State} {core ctx r v q : Nat} {k : KCause} {hd : Bool} {l es : List Nat} (h : σ.keeps s)
include h

theorem State.keeps.faultAll {id : Nat} : σ.keeps (s.faultAll id core) := by
  unfold State.faultAll
  exact h.upd

theorem State.keeps.kFault : σ.keeps (s.kFault core ctx k) := by
  unfold State.kFault
  extract_lets
  split
  · exact h.faultAll.post.incO.coreFailed.endOp
  · exact h.faultAll.post.incO

theorem State.keeps.substitute {elem : Option Nat} : σ.keeps (s.substitute core ctx k elem) := by
  unfold State.substitute
  exact h.setCtx.incO

theorem State.keeps.advance : σ.keeps (s.advance core ctx) := by
  unfold State.advance
  exact h.setCtx

theorem State.keeps.trap {alt : State → State} (halt : ∀ s, σ.keeps s → σ.keeps (alt s)) :
    σ.keeps (s.trap core ctx k alt) := by
  unfold State.trap
  exact .ite (halt _ h.substitute) h.kFault

theorem State.keeps.trapNop : σ.keeps (s.trapNop core ctx k) := by
  unfold State.trapNop
  exact h.trap fun _ h => h.advance

theorem State.keeps.ctxFlags {fl sats : Nat} : σ.keeps (s.ctxFlags core ctx fl sats) := by
  unfold State.ctxFlags
  exact .ite h.setCtx h.coreFlags

theorem State.keeps.regCw {cw : Nat} {fix : State → Nat → State} (hfix : ∀ s n, σ.keeps s → σ.keeps (fix s n)) :
    σ.keeps (s.regCw core cw fix).1 := by
  unfold State.regCw
  refine .ite_fst h ?_
  split
  · exact (hfix _ _ h.upd).loftCe
  · exact h.loftUe

theorem State.keeps.touchCtx : σ.keeps (s.touchCtx core ctx).1 := by
  unfold State.touchCtx
  exact .ite_fst h (h.foldl_fst fun _ _ h => h.regCw fun _ _ h => h.setCtx)

theorem State.leads.issue {k : State → State} (hok : ok → ¬(core ≥ 800 ∨ ctx ≥ 2048))
    (hk : ∀ s, σ.keeps s → σ.keeps (k s)) : σ.leads ok (s.issue core ctx k) := by
  unfold State.issue
  refine .guard hok (.ite (.next h) ?_)
  split
  · exact .next (h.touchCtx.of_eq ‹_›).trapNop
  · have h₁ := h.touchCtx.of_eq ‹_›
    refine .ite (.next h₁.trapNop) (.ite (.next h₁.trapNop) ?_)
    split
    · exact .next (h₁.readMem.of_eq ‹_›).trapNop
    · exact .next (hk _ (h₁.readMem.of_eq ‹_›))

theorem State.leads.scalarOp {f : Ctx → Ctx × Nat} (hok : ok → ¬(core ≥ 800 ∨ ctx ≥ 2048)) :
    σ.leads ok (s.scalarOp core ctx f) := by
  unfold State.scalarOp
  exact .issue h hok fun _ h => h.setCtx.ctxFlags

theorem State.leads.plainA {i : InsA} {f : Ctx → Ctx × Nat} (hok : ok → ¬(core ≥ 800 ∨ ctx ≥ 2048)) :
    σ.leads ok (s.plainA core ctx i f) := by
  unfold State.plainA
  exact .ite (.scalarOp h hok) (.issue h hok fun _ h => h.trapNop)

theorem State.keeps.setVslot {slot : Nat} : σ.keeps (s.setVslot core r slot v) := by
  unfold State.setVslot
  exact h.upd

theorem State.keeps.setVelem {i : Nat} : σ.keeps (s.setVelem core r hd i v) := by
  unfold State.setVelem
  exact .ite h.setVslot h.setVslot

theorem State.keeps.setMask {k : Nat} : σ.keeps (s.setMask core k v) := by
  unfold State.setMask
  exact h.upd

theorem State.keeps.fixV {f : Nat} : σ.keeps (fixV core r q s f) := by
  unfold Machine.fixV
  exact h.foldl fun _ _ h => h.setVslot

theorem State.keeps.touchV : σ.keeps (s.touchV core r hd l).1 := by
  induction l generalizing s with
  | nil => exact h
  | cons e es ih =>
    have hfix := h.regCw (core := core) (cw := vCw core r (e / perCw hd)) (fix := Machine.fixV core r (e / perCw hd))
      fun _ _ h => h.fixV
    unfold State.touchV
    exact ih hfix

theorem State.keeps.fixM {k f : Nat} : σ.keeps (fixM core k q s f) := by
  unfold Machine.fixM
  exact h.setMask

theorem State.keeps.touchM {k : Nat} : σ.keeps (s.touchM core k l).1 := by
  induction l generalizing s with
  | nil => exact h
  | cons e es ih =>
    have hfix := h.regCw (core := core) (cw := mCw core k (e / 128)) (fix := Machine.fixM core k (e / 128))
      fun _ _ h => h.fixM
    unfold State.touchM
    exact ih hfix

theorem State.keeps.renewCw {n : Nat} {cw : Nat → Nat} {fix : Nat → State → Nat → State}
    (hfix : ∀ n s n2, σ.keeps s → σ.keeps (fix n s n2)) : σ.keeps (s.renewCw core n cw fix es) := by
  unfold State.renewCw
  refine h.unless fun h => h.foldl fun _ _ h => .ite h.upd (.ite h ?_)
  split
  · exact (hfix _ _ _ h.upd).loftCe
  · exact h

theorem State.keeps.freshV : σ.keeps (s.freshV core r hd es) := by
  unfold State.freshV
  exact h.renewCw fun _ _ _ h => h.fixV

theorem State.keeps.freshM {k : Nat} : σ.keeps (s.freshM core k es) := by
  unfold State.freshM
  exact h.renewCw fun _ _ _ h => h.fixM

end Kernel

/-! ### Reads of the dictionary -/

section DictRead
variable {σ s : State} {rq n i j : Nat} {o : ObjDef} (h : σ.keeps s)
include h

theorem State.keeps.setSel {v : Nat} : σ.keeps (s.setSel rq o v) := by
  unfold State.setSel
  exact h.upd

theorem State.keeps.setQp {q : Qp} : σ.keeps (s.setQp n q) := by
  unfold State.setQp
  exact h.upd

theorem State.keeps.setMr {q : Mr} : σ.keeps (s.setMr n q) := by
  unfold State.setMr
  exact h.upd

theorem State.keeps.setSession {x : Session} : σ.keeps (s.setSession n x) := by
  unfold State.setSession
  exact h.upd

theorem State.keeps.readTimed : σ.keeps (s.readTimed o i j).1 := by
  unfold State.readTimed
  exact .ite_fst h.drew.setO h

theorem State.keeps.readNum : σ.keeps (s.readNum rq o i j).1 := by
  unfold State.readNum
  refine .ite_fst h.readTimed (.ite_fst h ?_)
  split
  · exact h
  · split
    · exact h
    · exact h

theorem State.keeps.readWindow {idx sub : Nat} : σ.keeps (s.readWindow rq idx sub).1 := by
  unfold State.readWindow
  split
  · exact h
  · exact .ite_fst h h.readNum

end DictRead

/-! ### Windows of rows -/

section Swin
variable {ok : Prop} {σ s : State} {c id op : Nat} {o : Op} {f : Option Nat} (h : σ.keeps s)
include h

theorem State.keeps.swCheck : σ.keeps (swCheck c s o).1 := by
  unfold Machine.swCheck
  exact .ite_fst h h.tensorsThen

theorem State.keeps.countWork {o : ObjDef} {total : Nat} : σ.keeps (s.countWork o total f) := by
  unfold State.countWork
  split
  · exact h.unless fun h => h.incO
  · exact h.incO.drew

theorem State.keeps.swFinish {t u : TD} {work : Work} : σ.keeps (swFinish s id o c t u work f) := by
  unfold Machine.swFinish
  exact h.scramble.account.countWork.worked

theorem State.keeps.convRun : σ.keeps (convRun s id o) := by
  unfold Machine.convRun
  exact .ite (h.runPieces.when fun h => h.drew).coreFlags.swFinish h.runPieces.countWork.swFinish

theorem State.keeps.poolRun : σ.keeps (poolRun s id o) := by
  unfold Machine.poolRun
  exact h.runPieces.swFinish

theorem State.leads.execConv : σ.leads ok (execConv op s) := by
  unfold Machine.execConv
  exact .next (h.runOp (fun _ _ h => h.swCheck) fun _ _ _ h => h.convRun)

theorem State.leads.execPool : σ.leads ok (execPool op s) := by
  unfold Machine.execPool
  exact .next (h.runOp (fun _ _ h => h.swCheck) fun _ _ _ h => h.poolRun)

end Swin

/-! ### Attention -/

section Attn
variable {ok : Prop} {σ s τ : State} {c id op : Nat} {o : Op} {t : TD} {l : List Nat} (h : σ.keeps s)
include h

theorem State.keeps.attnCheck : σ.keeps (attnCheck c s o).1 := by
  unfold Machine.attnCheck
  refine .ite_fst h ?_
  extract_lets
  split
  rename_i hread
  have hr := State.keeps.of_eq (.ite_fst h.readDesc h) hread
  extract_lets
  split
  · exact hr
  · split
    · exact hr.tensorsThen.of_eq ‹_›
    · exact hr.tensorsThen

theorem State.keeps.attnAccount {core : Nat} {w : Work} {tid : Nat} : σ.keeps (s.attnAccount core w tid) := by
  unfold State.attnAccount
  exact (h.account.unless fun h => h.incO).unless fun h => h.incO.setO

theorem State.keeps.takeFence {o' : Op} (e : s.takeFence id o = some (τ, o')) : σ.keeps τ := by
  unfold State.takeFence at e
  split_ifs at e
  cases e
  exact h.incO.setOp.upd

theorem State.keeps.pageOk {p : Nat} : σ.keeps (s.pageOk p).1 := by
  unfold State.pageOk
  refine .ite_fst h ?_
  split
  · exact h.readMem.of_eq ‹_›
  · exact h.readMem.of_eq ‹_›

theorem State.keeps.snapshot {b : Nat} : σ.keeps (s.snapshot t b l).1 := by
  induction l generalizing s t b with
  | nil => exact h
  | cons a l ih =>
    unfold State.snapshot
    split
    · exact h.readMem.of_eq ‹_›
    · have h₁ := h.readMem.of_eq ‹_›
      extract_lets
      split
      · exact h₁.pageOk.of_eq ‹_›
      · exact h₁.pageOk.of_eq ‹_›
      · have h₂ := h₁.pageOk.of_eq ‹_›
        split
        · exact (ih h₂).of_eq ‹_›
        · exact (ih h₂).of_eq ‹_›

theorem State.keeps.snapshots {ns : List Nat} : σ.keeps (s.snapshots t ns l).1 := by
  induction l generalizing s t ns with
  | nil => exact h
  | cons a l ih =>
    unfold State.snapshots
    split
    · exact h.snapshot.of_eq ‹_›
    · have h₁ := h.snapshot.of_eq ‹_›
      split
      · exact (ih h₁).of_eq ‹_›
      · exact (ih h₁).of_eq ‹_›

theorem State.keeps.cribFail {e : CribEnd} : σ.keeps (s.cribFail id o e) := by
  unfold State.cribFail
  split
  · exact h.failOp
  · exact h.incO.failOp

theorem State.keeps.attnRun {op : Op} : σ.keeps (attnRun c s id op) := by
  unfold Machine.attnRun
  extract_lets
  refine .ite ?_ h.runPieces.scramble.attnAccount.countWork.worked
  split
  · exact h.blockOp
  · have ht := h.takeFence ‹_›
    split
    · exact .cribFail (ht.snapshots.of_eq ‹_›)
    · exact (ht.snapshots.of_eq ‹_›).judge.runPieces.scramble.attnAccount.countWork.worked

theorem State.leads.execAttn : σ.leads ok (execAttn op s) := by
  unfold Machine.execAttn
  exact .next (h.runOp (fun _ _ h => h.attnCheck) fun _ _ _ h => h.attnRun)

theorem State.leads.execAttnPartial : σ.leads ok (execAttnPartial op s) := by
  unfold Machine.execAttnPartial
  exact .next (h.runOp (fun _ _ h => h.attnCheck) fun _ _ _ h => h.attnRun)

theorem State.keeps.mergeCheck : σ.keeps (mergeCheck s o).1 := by
  unfold Machine.mergeCheck
  exact .ite_fst h h.tensorsThen

theorem State.keeps.mergeRun {op : Op} : σ.keeps (mergeRun s id op) := by
  unfold Machine.mergeRun
  exact h.runPieces.attnAccount.worked

theorem State.leads.execAttnMerge : σ.leads ok (execAttnMerge op s) := by
  unfold Machine.execAttnMerge
  exact .next (h.runOp (fun _ _ h => h.mergeCheck) fun _ _ _ h => h.mergeRun)

end Attn

/-! ### The crib -/

section Crib
variable {ok : Prop} {σ s : State} {a n p seq id : Nat} {t u : TD} {x : Crib} {l : List Nat} {op : Op} (h : σ.keeps s)
include h

theorem State.keeps.putNum {v : Nat} : σ.keeps (s.putNum a n v).1 := by
  unfold State.putNum
  exact h.writeMem

theorem State.keeps.getNum : σ.keeps (s.getNum a n).1 := by
  unfold State.getNum
  split
  · exact h.readMem.of_eq ‹_›
  · exact h.readMem.of_eq ‹_›

theorem State.keeps.allocPage : σ.keeps (s.allocPage n).1 := by
  unfold State.allocPage
  refine .ite_fst h ?_
  split
  · exact h.getNum.of_eq ‹_›
  · have h₁ := h.getNum.of_eq ‹_›
    split
    · exact h₁.putNum.of_eq ‹_›
    · have h₂ := h₁.putNum.of_eq ‹_›
      exact h₂.setO.when fun h => h.setO

theorem State.keeps.freePage : σ.keeps (s.freePage p).1 := by
  unfold State.freePage
  extract_lets
  split
  · exact h.putNum.of_eq ‹_›
  · exact (h.putNum.of_eq ‹_›).setO

theorem State.keeps.pushReclaim : σ.keeps (s.pushReclaim p).1 := by
  unfold State.pushReclaim
  extract_lets
  split
  · exact h.putNum.of_eq ‹_›
  · exact (h.putNum.of_eq ‹_›).setO

theorem State.leads.execCribReclaim : σ.leads ok (execCribReclaim s) := by
  unfold Machine.execCribReclaim
  refine .ite (.next h) ?_
  split
  · exact .next (h.getNum.of_eq ‹_›)
  · have h₁ := h.getNum.of_eq ‹_›
    refine .ite (.next h₁) ?_
    split
    · exact .next (h₁.freePage.of_eq ‹_›)
    · exact .next (h₁.freePage.of_eq ‹_›).setO.upd

theorem State.keeps.cribCheck {c : Nat} {o : Op} : σ.keeps (cribCheck c s o).1 := by
  unfold Machine.cribCheck
  exact .ite_fst h h.tensorsThen

theorem State.keeps.appendPage : σ.keeps (s.appendPage t seq n).1 := by
  unfold State.appendPage
  extract_lets
  split
  · exact h.getNum.of_eq ‹_›
  · have h₁ := h.getNum.of_eq ‹_›
    refine .ite_fst ?_ (.ite_fst h₁ ?_)
    · split
      · exact h₁.allocPage.of_eq ‹_›
      · split
        · exact (h₁.allocPage.of_eq ‹_›).putNum.of_eq ‹_›
        · exact (h₁.allocPage.of_eq ‹_›).putNum.of_eq ‹_›
    · split
      · exact h₁.getNum.of_eq ‹_›
      · have h₂ := h₁.getNum.of_eq ‹_›
        refine .ite_fst h₂ (.ite_fst h₂ ?_)
        split
        · exact h₂.allocPage.of_eq ‹_›
        · split
          · exact (h₂.allocPage.of_eq ‹_›).putNum.of_eq ‹_›
          · extract_lets
            split
            · exact ((h₂.allocPage.of_eq ‹_›).putNum.of_eq ‹_›).runPieces.of_eq ‹_›
            · split
              · exact (((h₂.allocPage.of_eq ‹_›).putNum.of_eq ‹_›).runPieces.of_eq ‹_›).putNum.of_eq ‹_›
              · exact ((((h₂.allocPage.of_eq ‹_›).putNum.of_eq ‹_›).runPieces.of_eq ‹_›).putNum.of_eq ‹_›).incO

theorem State.keeps.appendAll {v : TD} : σ.keeps (s.appendAll t u v x l).1 := by
  induction l generalizing s t u v x with
  | nil => exact h
  | cons a l ih =>
    unfold State.appendAll
    split
    · exact h.appendPage.of_eq ‹_›
    · have h₁ := h.appendPage.of_eq ‹_›
      extract_lets
      split
      · exact h₁.runPieces.of_eq ‹_›
      · exact ih (h₁.runPieces.of_eq ‹_›)

theorem State.keeps.cribDone {f : Option CribEnd} : σ.keeps (s.cribDone id op f) := by
  unfold State.cribDone
  split
  · exact h.worked
  · exact h.cribFail

theorem State.keeps.appendRun : σ.keeps (appendRun s id op) := by
  unfold Machine.appendRun
  extract_lets
  split
  extract_lets
  split
  · exact h.blockOp
  · exact (h.takeFence ‹_›).appendAll.cribDone.judge

theorem State.keeps.entryCount : σ.keeps (s.entryCount t seq n).1 := by
  unfold State.entryCount
  split
  · exact h.getNum.of_eq ‹_›
  · have h₁ := h.getNum.of_eq ‹_›
    refine .ite_fst h₁ (.ite_fst h₁ ?_)
    split
    · exact h₁.getNum.of_eq ‹_›
    · exact h₁.getNum.of_eq ‹_›

theorem State.keeps.shareAll : σ.keeps (s.shareAll t u x l).1 := by
  induction l generalizing s with
  | nil => exact h
  | cons n ns ih =>
    unfold State.shareAll
    split
    · exact h.entryCount.of_eq ‹_›
    · exact ih (h.entryCount.of_eq ‹_›)
    · have h₁ := h.entryCount.of_eq ‹_›
      split
      · exact h₁.getNum.of_eq ‹_›
      · have h₂ := h₁.getNum.of_eq ‹_›
        refine .ite_fst h₂ ?_
        split
        · exact h₂.putNum.of_eq ‹_›
        · have h₃ := h₂.putNum.of_eq ‹_›
          split
          · exact h₃.putNum.of_eq ‹_›
          · exact ih (h₃.putNum.of_eq ‹_›)

theorem State.keeps.freeAll : σ.keeps (s.freeAll t x l).1 := by
  induction l generalizing s with
  | nil => exact h
  | cons n ns ih =>
    unfold State.freeAll
    split
    · exact h.entryCount.of_eq ‹_›
    · exact ih (h.entryCount.of_eq ‹_›)
    · have h₁ := h.entryCount.of_eq ‹_›
      refine .ite_fst h₁ ?_
      split
      · exact h₁.putNum.of_eq ‹_›
      · have h₂ := h₁.putNum.of_eq ‹_›
        split
        · exact h₂.putNum.of_eq ‹_›
        · have h₃ := h₂.putNum.of_eq ‹_›
          split
          · exact .of_eq (.ite_fst h₃.pushReclaim h₃) ‹_›
          · exact ih (.of_eq (.ite_fst h₃.pushReclaim h₃) ‹_›)

theorem State.keeps.shareRun : σ.keeps (shareRun s id op) := by
  unfold Machine.shareRun
  exact h.shareAll.cribDone

theorem State.keeps.freeRun : σ.keeps (freeRun s id op) := by
  unfold Machine.freeRun
  exact h.freeAll.cribDone

theorem State.leads.execCribAppend {op : Nat} : σ.leads ok (execCribAppend op s) := by
  unfold Machine.execCribAppend
  exact .next (h.runOp (fun _ _ h => h.cribCheck) fun _ _ _ h => h.appendRun)

theorem State.leads.execCribShare {op : Nat} : σ.leads ok (execCribShare op s) := by
  unfold Machine.execCribShare
  exact .next (h.runOp (fun _ _ h => h.cribCheck) fun _ _ _ h => h.shareRun)

theorem State.leads.execCribFree {op : Nat} : σ.leads ok (execCribFree op s) := by
  unfold Machine.execCribFree
  exact .next (h.runOp (fun _ _ h => h.cribCheck) fun _ _ _ h => h.freeRun)

end Crib

/-! ### Updates -/

section Update
variable {ok : Prop} {σ s : State} {id e : Nat} {op : Op} {r : UpdRun} (h : σ.keeps s)
include h

theorem State.keeps.updCheck {c : Nat} {o : Op} : σ.keeps (updCheck c id s o).1 := by
  unfold Machine.updCheck
  refine .ite_fst h ?_
  extract_lets
  split
  · exact h.tensors.of_eq ‹_›
  · exact h.tensors

theorem State.keeps.updFlags {g fl sats : Nat} : σ.keeps (s.updFlags g fl sats) := by
  unfold State.updFlags
  exact .unless (.ite h.orO h.orO) fun h => h.incO.incO

theorem State.keeps.scalars : σ.keeps (s.scalars op).1 := by
  unfold State.scalars
  exact .ite_fst h h.readMem

theorem State.keeps.recordWork : σ.keeps (s.recordWork r) := by
  unfold State.recordWork
  exact h.upd

theorem State.keeps.setSexp {a : Nat} {e : Int} : σ.keeps (s.setSexp a e).1 := by
  unfold State.setSexp
  split
  · exact h.readMem.of_eq ‹_›
  · exact (h.readMem.of_eq ‹_›).writeMem

theorem State.keeps.updFail {addr cause : Nat} : σ.keeps (s.updFail id op addr cause) := by
  unfold State.updFail
  exact (h.when fun h => h.upd).failOp.judgeHeld

theorem State.keeps.stepped : σ.keeps (s.stepped op r) := by
  unfold State.stepped
  exact h.setO.setO

theorem State.keeps.updEnd : σ.keeps (s.updEnd id op r) := by
  unfold State.updEnd
  extract_lets
  split
  rename_i hs
  have hr := State.keeps.of_eq (.ite_fst h.setSexp h) hs
  split
  · exact hr.updFail
  · exact (State.keeps.ite hr.recordWork hr).setO.setO.setO.stepped.worked

theorem State.keeps.updSkip : σ.keeps (s.updSkip id op r) := by
  unfold State.updSkip
  exact .ite h.incO.incO.stepped.worked h.post.incO.coreFailed.endOp

theorem State.keeps.lateNonFinite {gin : Nat} : σ.keeps (s.lateNonFinite op r e gin) := by
  unfold State.lateNonFinite
  exact h.when fun h => h.incO.post

theorem State.keeps.localRun : σ.keeps (localRun s id op) := by
  unfold Machine.localRun
  refine .ite h.blockOp ?_
  extract_lets
  split
  rename_i hs
  have hr := State.keeps.of_eq (.ite_fst h.judge h.judge.touch) hs
  split
  · exact hr.updFail
  refine .ite hr.updSkip ?_
  split
  rename_i hs
  have hr := hr.scalars.of_eq hs
  split
  · exact hr.updFail
  extract_lets
  split
  rename_i hs
  have hr := hr.updFlags.runPieces.of_eq hs
  extract_lets
  split
  · exact hr.updFlags.incO.updFail
  · exact (hr.updFlags.incO.foldl fun _ _ h => h.lateNonFinite).updEnd

theorem State.leads.execGroupStepLocal {op : Nat} : σ.leads ok (execGroupStepLocal op s) := by
  unfold Machine.execGroupStepLocal
  exact .next (h.runOp (fun _ _ h => h.updCheck) fun _ _ _ h => h.localRun)

theorem State.keeps.consume {n p : Nat} : σ.keeps (s.consume n p) := by
  unfold State.consume
  exact .ite h.upd h.upd

theorem State.keeps.updDecide {census done : Nat} : σ.keeps (s.updDecide id op census done).1 := by
  unfold State.updDecide
  split
  rename_i hs
  split
  · exact (h.scalars.of_eq hs).updFail
  · exact (h.scalars.of_eq hs).updFlags.setOp

theorem State.keeps.updAdvance : σ.keeps (s.updAdvance id) := by
  unfold State.updAdvance
  split
  · exact h
  split
  · refine .ite h.updFail (.ite (.ite h.updFail (.ite (h.foldl fun _ _ h => h.consume).updSkip.judgeHeld ?_)) h)
    split
    rename_i hs
    have hr := State.keeps.of_eq (.ite_fst h h.updDecide) hs
    split
    · exact hr
    · exact .ite hr.updEnd hr.setOp
  · exact h

theorem State.keeps.updAdvanceAll : σ.keeps s.updAdvanceAll := by
  unfold State.updAdvanceAll
  refine h.foldl fun _ _ h => ?_
  split
  · exact h.when fun h => h.updAdvance
  · exact h

theorem State.keeps.groupRun : σ.keeps (groupRun s id op) := by
  unfold Machine.groupRun
  exact .ite h.blockOp (.ite h.judge.updDecide.updAdvance h.judge.setOp.updAdvance)

theorem State.leads.execGroupStep {op : Nat} : σ.leads ok (execGroupStep op s) := by
  unfold Machine.execGroupStep
  exact .next (h.runOp (fun _ _ h => h.updCheck) fun _ _ _ h => h.groupRun)

theorem State.leads.execUpdateElementApply {op : Nat} : σ.leads ok (execUpdateElementApply op e s) := by
  unfold Machine.execUpdateElementApply
  split
  · exact .next h
  split
  · refine .ite (.next h) ?_
    split
    · exact .next h
    split
    · exact .next h
    extract_lets
    split
    rename_i hs
    have hr := h.consume.orO.runPieces.of_eq hs
    split
    · exact .next hr.updFail
    extract_lets
    split
    · exact .next hr.updFlags.incO.lateNonFinite
    · exact .next hr.updFlags.incO.lateNonFinite.setOp.updAdvance.judgeHeld
  · exact .next h

end Update

/-! ### Furrow tables -/

section Furrow
variable {ok : Prop} {σ s τ : State} {t e table epoch entry d : Nat} {p : Place} (h : σ.keeps s)
include h

theorem State.keeps.reserves : σ.keeps (s.reserves t e).1 := by
  unfold State.reserves
  refine .ite_fst h (.ite_fst ?_ h)
  split
  · exact h.readDesc.of_eq ‹_›
  · exact h.readDesc.of_eq ‹_›

theorem State.leads.execReservationPoint (hok : ok → ¬table ≥ tableCount) :
    σ.leads ok (execReservationPoint table epoch entry s) := by
  unfold Machine.execReservationPoint
  refine .guard hok ?_
  extract_lets
  split
  · exact .next h
  refine .ite (.next h) ?_
  extract_lets
  split
  · exact .next (h.setTable.reserves.of_eq ‹_›)
  · exact .next (h.setTable.reserves.of_eq ‹_›).upd.serveLeave.judge

theorem State.keeps.replayHold {p : Nat} : σ.keeps (s.replayHold p) := by
  unfold State.replayHold
  extract_lets
  split
  · exact h.when fun h => h.drew.when fun h => h.setCond
  · exact h

theorem State.keeps.replayHoldOf : σ.keeps (s.replayHoldOf t) := by
  unfold State.replayHoldOf
  exact h.when fun h => h.replayHold

theorem State.keeps.watchEntry : σ.keeps (s.watchEntry t e p).1 := by
  have hdrop : ∀ {s : State}, σ.keeps s → σ.keeps (s.dropReserved (some (t, p.epoch, p.entry))) :=
    fun h => h.dropReserved
  unfold State.watchEntry
  extract_lets
  refine .ite_fst ?_ (.ite_fst ?_ h)
  · split
    · exact hdrop (h.readDesc.of_eq ‹_›)
    · exact h.readDesc.of_eq ‹_›
  · split
    · exact hdrop (h.readDesc.of_eq ‹_›)
    · rename_i hs
      have hr := h.readDesc.of_eq hs
      split
      · exact hr
      · exact hdrop hr.post

theorem State.keeps.submit {beat : Nat} {bale : Option Bale} : σ.keeps (s.submit t p e d beat bale) := by
  unfold State.submit
  exact h.submitOp

theorem State.leads.execWatchPoint (hok : ok → ¬table ≥ tableCount) :
    σ.leads ok (execWatchPoint table epoch entry s) := by
  unfold Machine.execWatchPoint
  refine .guard hok ?_
  extract_lets
  split
  · exact .next h
  · exact .ite (.next h) (.next (h.watchEntry.setTable.when fun h => h.submit).judge.judgeStep.replayHoldOf)

theorem State.leads.execOverrun (hok : ok → ¬table ≥ tableCount) : σ.leads ok (execOverrun table epoch entry s) := by
  unfold Machine.execOverrun
  refine .guard hok ?_
  extract_lets
  split
  · exact .next h
  · exact .ite (.next h.overrunAt) (.next h)

theorem State.keeps.begin {x : Nat × Watch} (e : s.begin t p = some (τ, x)) : σ.keeps τ := by
  unfold State.begin at e
  extract_lets at e
  split at e
  · split_ifs at e <;> cases e
    · exact h.overrunAt
    · exact h
  · cases e

theorem State.leads.execFurrowStart (hok : ok → ¬table ≥ tableCount) :
    σ.leads ok (execFurrowStart table epoch entry s) := by
  unfold Machine.execFurrowStart
  refine .guard hok ?_
  extract_lets
  split
  · exact .next h
  · have hb := h.begin ‹_›
    exact .ite (.next h) (.ite (.next hb.passEntry) (.ite (.next h) (.ite (.next hb.dropReserved.passEntry)
      (.ite (.next h) (.next hb.submit.judge)))))

theorem State.leads.execFurrowSignal (hok : ok → ¬table ≥ tableCount) :
    σ.leads ok (execFurrowSignal table epoch entry s) := by
  unfold Machine.execFurrowSignal
  refine .guard hok ?_
  extract_lets
  split
  · exact .next h
  · exact .ite (.next h) (.next (h.begin ‹_›).signal.stampEntry.passEntry)

theorem State.leads.execFurrowMark (hok : ok → ¬table ≥ tableCount) :
    σ.leads ok (execFurrowMark table epoch entry s) := by
  unfold Machine.execFurrowMark
  refine .guard hok ?_
  extract_lets
  split
  · exact .next h
  · exact .ite (.next h) (.next (h.begin ‹_›).event.passEntry)

theorem State.keeps.sendData : σ.keeps (s.sendData d).1 := by
  unfold State.sendData
  exact h.readMem

theorem State.leads.execPortSlot (hok : ok → ¬(table < 800 ∨ table ≥ 808)) :
    σ.leads ok (execPortSlot table epoch entry s) := by
  unfold Machine.execPortSlot
  refine .guard hok ?_
  extract_lets
  split
  · exact .next h
  have hb := h.begin ‹_›
  refine .ite (.next h) (.ite (.next hb.passEntry) ?_)
  split
  · exact .next h
  refine .ite (.next h) (.next (.replayHold (.passEntry (.stampEntry (.ite hb.upd ?_)))))
  exact hb.upd.sendData.sendVc2.emit

theorem State.keeps.readStarts {l : List Nat} : σ.keeps (s.readStarts t l).1 := by
  induction l generalizing s t with
  | nil => exact h
  | cons a l ih =>
    unfold State.readStarts
    exact .ite_fst (ih h.readMem) (ih h)

theorem State.keeps.loadStatus {n : Nat} : σ.keeps (s.loadStatus n) := by
  unfold State.loadStatus
  exact h.setO

theorem State.keeps.furrowLoad : σ.keeps s.furrowLoad := by
  unfold State.furrowLoad
  exact .ite h.loadStatus (.ite h.loadStatus (.ite h.loadStatus (.ite h.loadStatus h.upd.loadStatus)))

theorem State.keeps.judgeLoad : σ.keeps s.judgeLoad := by
  unfold State.judgeLoad
  split
  · exact h.when fun h => h.setCond
  · exact h

theorem State.leads.execFurrowLoadComplete : σ.leads ok (execFurrowLoadComplete s) := by
  unfold Machine.execFurrowLoadComplete
  split
  · exact .next h
  split
  rename_i hs
  have hr := h.readMem.of_eq hs
  extract_lets
  split
  rename_i hs
  have hr := State.keeps.of_eq (.ite_fst hr hr.readStarts) hs
  extract_lets
  exact .ite (.next hr.upd.setCond.setTable.setO.loadStatus) (.next hr.upd.setCond.setTable.setO.loadStatus)

theorem State.keeps.furrowCancel : σ.keeps s.furrowCancel := by
  unfold State.furrowCancel
  extract_lets
  split
  · split
    · exact .ite h.upd.loadStatus h.loadStatus
    · exact h.loadStatus
  · exact .ite h.loadStatus h.setTable.loadStatus

theorem State.leads.execBankSwap (hok : ok → ¬table ≥ tableCount) : σ.leads ok (execBankSwap table s) := by
  unfold Machine.execBankSwap
  refine .guard hok ?_
  extract_lets
  split
  · exact .next h
  · exact .ite (.next h.setTable.incO) (.next h)

end Furrow

/-! ### Reductions -/

section Reduce
variable {ok : Prop} {σ s : State} {o : Op} {n x port id level flip op : Nat} {p : RedPacket} {b : Bale}
  (h : σ.keeps s)
include h

theorem State.keeps.brCheck : σ.keeps (brCheck s o).1 := by
  unfold Machine.brCheck
  exact .ite_fst h h.tensorsThen

theorem State.keeps.baleScale {d : Nat} : σ.keeps (s.baleScale d n).1 := by
  unfold State.baleScale
  refine .ite_fst ?_ h
  split
  · exact h.readMem.of_eq ‹_›
  · exact h.readMem.of_eq ‹_›

theorem State.keeps.recordBale {w : Work} : σ.keeps (s.recordBale n w) := by
  unfold State.recordBale
  refine .ite ?_ (h.orO.unless fun h => h.incO.incO)
  split
  · exact (h.orO.unless fun h => h.incO.incO).readMem.of_eq ‹_›
  · have h₁ := (State.keeps.readMem (.ite h.orO h.orO.incO.incO)).of_eq ‹_›
    exact h₁.unless fun h => (h.unless fun h => h.drew).writeMem

theorem State.keeps.sendPacket {dest : Nat} : σ.keeps (s.sendPacket dest p) := by
  unfold State.sendPacket
  exact (h.when fun h => h.incO).sendVc2

theorem State.keeps.sendRange {lo hi : Nat} : σ.keeps (s.sendRange o b x lo hi) := by
  unfold State.sendRange
  exact h.foldl fun _ _ h => h.sendPacket

theorem State.keeps.stageIn : σ.keeps (s.stageIn b x p).1 := by
  unfold State.stageIn
  exact .ite_fst h h.scramble

theorem State.keeps.stageOut : σ.keeps (s.stageOut b x).1 := by
  unfold State.stageOut
  exact h.touch

theorem State.keeps.takePacket : σ.keeps (s.takePacket port p) := by
  unfold State.takePacket
  split
  · exact h
  · exact h.setPort

theorem State.keeps.latePacket : σ.keeps (s.latePacket port p) := by
  unfold State.latePacket
  exact h.takePacket.incO

theorem State.keeps.dropEarly : σ.keeps (s.dropEarly n) := by
  unfold State.dropEarly
  exact h.upd.foldl fun _ _ h => h.latePacket

theorem State.keeps.baleAbort {cause adder stage : Nat} : σ.keeps (s.baleAbort id o b cause level adder stage) := by
  unfold State.baleAbort
  exact ((h.foldl fun _ _ h => h.sendPacket).when fun h => h.incO.setO.setO.setO.setO).post.incO.coreFailed.upd
    |>.dropEarly.setCond.endOp.updAdvanceAll

theorem State.keeps.baleEnd : σ.keeps (s.baleEnd id o b) := by
  unfold State.baleEnd
  extract_lets
  refine .ite h.orO.upd.incO.upd.setOp.updAdvanceAll.judgeHeld ?_
  extract_lets
  split
  rename_i hs
  have hw := h.writeAll.of_eq hs
  split
  rename_i t f hs
  have hr : σ.keeps t := by
    refine .of_eq ?_ hs
    split
    · exact hw
    · exact hw.setSexp
  split
  · exact hr.baleAbort
  · exact hr.incO.upd.setOp.updAdvanceAll.judgeHeld

theorem State.keeps.baleGo {k : Nat} : σ.keeps (s.baleGo id flip level k) := by
  induction k generalizing s id flip level with
  | zero => exact h
  | succ k ih =>
    unfold State.baleGo
    split
    · exact h
    · split
      · exact h
      · exact .ite h (.ite (.ite h.baleEnd (.ite (.ite h.stageOut.baleAbort
          (ih (h.stageOut.setOp.unless fun h => h.sendRange))) h))
            (.ite (ih (h.setOp.unless fun h => h.sendRange))
              (.ite (.ite h.stageOut.baleAbort (.ite h.stageOut.baleAbort
                (ih (h.stageOut.recordBale.setOp.unless fun h => h.sendRange)))) h)))

theorem State.keeps.packetIn : σ.keeps (s.packetIn id o b port p flip level) := by
  unfold State.packetIn
  refine .ite h.takePacket.baleAbort ?_
  split
  · exact h.takePacket.baleAbort
  · exact .ite h.takePacket.baleAbort h.takePacket.stageIn.setOp.baleGo

theorem State.leads.execReductionPacketReceive {flip : Upset} (hok : ok → ¬port ≥ 8) :
    σ.leads ok (execReductionPacketReceive port p flip s) := by
  unfold Machine.execReductionPacketReceive
  refine .guard hok (.ite (.next h) (.ite (.next h.takePacket) ?_))
  split
  · exact .next h.packetIn
  · exact .ite (.next h.latePacket) (.ite (.next h.upd) (.next h.takePacket.post))

theorem State.keeps.judgeBale : σ.keeps (s.judgeBale id o b) := by
  unfold State.judgeBale
  exact .ite (h.setCond.unless fun h => h.incO) (h.when fun h => h.setCond)

theorem State.keeps.judgeBales : σ.keeps s.judgeBales := by
  unfold State.judgeBales
  refine h.foldl fun _ _ h => ?_
  split
  · exact h.when fun h => h.judgeBale
  · exact h

theorem State.keeps.baleOrphan : σ.keeps (s.baleOrphan id o b) := by
  unfold State.baleOrphan
  exact .ite h.post.baleScale.stopStream.baleAbort.dropReserved h.setCond.orphanWait

theorem State.keeps.fillWait : σ.keeps (s.fillWait id) := by
  unfold State.fillWait
  split
  · exact h
  split
  · exact h
  refine .ite h.setOp ?_
  split
  rename_i hs
  have hr := h.semWaitOp.of_eq hs
  split
  · exact hr.setOp
  · exact hr.baleOrphan
  · exact hr

theorem State.leads.execBaleReduce : σ.leads ok (execBaleReduce op s) := by
  unfold Machine.execBaleReduce
  split
  · exact .next h
  · exact .ite (.next h) (.ite (.next h.endOp.dropReserved)
      (.ite (.next h) (.next (h.stepOne fun _ _ h => h.brCheck).fillWait.judgeBales)))

theorem State.leads.execOpWaitGrant : σ.leads ok (execOpWaitGrant op s) := by
  unfold Machine.execOpWaitGrant
  split
  · exact .next h
  · split
    · exact .next h.requestLeave.judge.judgeBales
    · split
      · exact .next h.baleOrphan
      · exact .next h.orphanWait
    · exact .next h

theorem State.keeps.baleStart : σ.keeps (s.baleStart id flip level) := by
  unfold State.baleStart
  split
  · exact h
  · split
    · exact h
    · refine .ite h.incO.setOp.upd.baleScale.touch.setOp.baleAbort
        (.ite h.incO.setOp.upd.baleScale.touch.setOp.baleAbort
          (.ite h.incO.setOp.upd.baleScale.touch.setOp.baleAbort
            ((h.incO.setOp.upd.baleScale.touch.recordBale.setOp.unless fun h => h.sendRange).baleGo.upd.foldl
              fun _ _ h => ?_)))
      split
      · exact h.packetIn
      · exact h.latePacket

theorem State.leads.execBaleStart {flip : Upset} : σ.leads ok (execBaleStart op flip s) := by
  unfold Machine.execBaleStart
  split
  · exact .next h
  split
  · refine .ite (.next h) ?_
    split
    · exact .next h
    · exact .next (h.begin ‹_›).stampEntry.passEntry.setCond.baleStart.judgeBales
  · exact .next h

end Reduce

/-! ### The almanac -/

section Almanac
variable {ok : Prop} {σ s τ : State} {lmax p rxPs port e0 e sec ns : Nat} {b : Beacon} {off : Int} {m : Ctl}
  (h : σ.keeps s)
include h

theorem State.keeps.holdFigures : σ.keeps (s.holdFigures lmax) := by
  unfold State.holdFigures
  exact h.setO.setO.setO

theorem State.keeps.skewBound : σ.keeps s.skewBound := by
  unfold State.skewBound
  exact .ite h.setO h.setO

theorem State.keeps.lock {t a g : Nat} : σ.keeps (s.lock t a g lmax) := by
  unfold State.lock
  exact .ite (h.setO.setO.setO.setO.setO.when fun h => h.upd.setO).holdFigures.upd.skewBound
    (h.setO.setO.setO.setO.setO.when fun h => h.upd.setO).holdFigures.upd.emit.toMaster

theorem State.keeps.lose {why : Nat} : σ.keeps (s.lose why) := by
  unfold State.lose
  exact h.unless fun h => h.setO.post

theorem State.keeps.masterGrant : σ.keeps s.masterGrant := by
  unfold State.masterGrant
  refine .ite h ?_
  extract_lets
  split
  · exact h.setO.when fun h => h.setO.upd
  · exact h.setO

theorem State.keeps.takeResume : σ.keeps s.takeResume := by
  unfold State.takeResume
  split
  · exact h.when fun h => h.setO.upd
  · exact h

theorem State.keeps.countBeat : σ.keeps s.countBeat := by
  unfold State.countBeat
  refine .ite (.ite h.setO.setO.upd (.upd ?_)) (.ite h.setO.setO.upd.setO h.setO.setO.upd)
  split
  · exact .setO (.ite h.setO.setO.incO h.setO.setO)
  · exact .ite h.setO.setO.incO h.setO.setO

theorem State.keeps.judgeTick : σ.keeps s.judgeTick := by
  unfold State.judgeTick
  exact h.judgeLoad.judgeBales

theorem State.leads.execAlmanacTick : σ.leads ok (execAlmanacTick s) := by
  unfold Machine.execAlmanacTick
  exact .ite (.ite (.next h.upd.setO.setO.upd.drew.lock) (.ite (.next h.upd.setO) (.next h.upd)))
    (.ite (.next h.upd) (.next h.upd.setO.upd.takeResume.countBeat.masterGrant.judgeTick))

theorem State.keeps.beaconOn : σ.keeps (s.beaconOn p) := by
  unfold State.beaconOn
  exact h.when fun h => h.setPort

theorem State.keeps.stampRx : σ.keeps (s.stampRx p rxPs b) := by
  unfold State.stampRx
  exact h.setPort

theorem State.leads.execBeaconSend : σ.leads ok (execBeaconSend s) := by
  unfold Machine.execBeaconSend
  exact .ite (.next h) (.next ((h.when fun h => h.upd).foldl fun _ _ h => h.beaconOn).upd)

theorem State.keeps.skewAlarm : σ.keeps (s.skewAlarm p off) := by
  unfold State.skewAlarm
  exact h.when fun h => h.incO.post

theorem State.keeps.discipline {lat : Nat} : σ.keeps (s.discipline p b off lat lmax) := by
  unfold State.discipline
  exact h.setI.skewAlarm.unless fun h => h.setI.upd.when fun h => h.lock

theorem State.keeps.fromNeighbour : σ.keeps (s.fromNeighbour p b rxPs lmax) := by
  unfold State.fromNeighbour
  extract_lets
  split
  · exact h.upd.stampRx.unless fun h => h.setO.setO
  · exact (h.upd.stampRx.unless fun h => h.setO.setO).discipline

theorem State.keeps.otherMaster : σ.keeps (s.otherMaster p b) := by
  unfold State.otherMaster
  exact (h.when fun h => h.queueCtl.upd).lose

theorem State.keeps.newBeacon : σ.keeps (s.newBeacon p b) := by
  unfold State.newBeacon
  exact h.queueCtl.unless fun h => (h.upd.when fun h => h.maxO).when fun h => h.setO.setO.setO.upd

theorem State.leads.execAlmanacLost : σ.leads ok (execAlmanacLost s) := by
  unfold Machine.execAlmanacLost
  exact .ite (.next h.lose) (.next h)

theorem State.leads.execLockHopsReport {origin hf hi : Nat} : σ.leads ok (execLockHopsReport origin hf hi s) := by
  unfold Machine.execLockHopsReport
  exact .ite (.next h.toMaster) (.next h.upd.skewBound)

theorem State.keeps.takeCtl {kind : Nat} (e : s.takeCtl port kind m = some τ) : σ.keeps τ := by
  unfold State.takeCtl at e
  extract_lets at e
  split_ifs at e
  cases e
  exact h.upd.queueCtl

theorem State.keeps.heardFrom : σ.keeps (s.heardFrom m) := by
  unfold State.heardFrom
  exact h.upd

theorem State.leads.execHold (hok : ok → ¬port ≥ 8) : σ.leads ok (execHold port m s) := by
  unfold Machine.execHold
  refine .guard hok ?_
  split
  · exact .next h
  · exact .ite (.next (h.takeCtl ‹_›).heardFrom.masterHold) (.next (h.takeCtl ‹_›))

theorem State.leads.execRelease (hok : ok → ¬port ≥ 8) : σ.leads ok (execRelease port m s) := by
  unfold Machine.execRelease
  refine .guard hok ?_
  split
  · exact .next h
  · exact .ite (.next (h.takeCtl ‹_›).heardFrom.masterRelease) (.next (h.takeCtl ‹_›))

theorem State.leads.execResume (hok : ok → ¬port ≥ 8) : σ.leads ok (execResume port m s) := by
  unfold Machine.execResume
  refine .guard hok ?_
  split
  · exact .next h
  · exact .next (h.takeCtl ‹_›).upd

theorem State.leads.execMasterResume : σ.leads ok (execMasterResume s) := by
  unfold Machine.execMasterResume
  exact .ite (.next h.upd.flood) (.next h)

theorem State.keeps.limitStop : σ.keeps s.limitStop := by
  unfold State.limitStop
  exact ((h.unless fun h => h.setO.upd).stopAt.when fun h => h.flood).setO.setO.post

theorem State.leads.execHoldLimit : σ.leads ok (execHoldLimit s) := by
  unfold Machine.execHoldLimit
  exact .ite (.next h.limitStop) (.next h)

theorem State.keeps.schedStart : σ.keeps (s.schedStart e0) := by
  unfold State.schedStart
  exact h.upd.setO.flood

theorem State.leads.execStart (hok : ok → ¬port ≥ 8) : σ.leads ok (execStart port m s) := by
  unfold Machine.execStart
  refine .guard hok ?_
  split
  · exact .next h
  · exact .next (h.takeCtl ‹_›).upd

theorem State.keeps.takeStart : σ.keeps (s.takeStart e0) := by
  unfold State.takeStart
  exact h.setO.setO.setO.setO.maxO.upd

theorem State.leads.execStartTick : σ.leads ok (execStartTick s) := by
  unfold Machine.execStartTick
  split
  · exact .next h
  · exact .ite (.next h) (.next (.when (.ite h.takeStart.setDev h.takeStart.post.askStop) fun h => h.holdNow))

theorem State.leads.execStopRequest (hok : ok → ¬port ≥ 8) : σ.leads ok (execStopRequest port m s) := by
  unfold Machine.execStopRequest
  refine .guard hok ?_
  split
  · exact .next h
  · exact .next ((h.takeCtl ‹_›).when fun h => h.askStop)

theorem State.leads.execStop (hok : ok → ¬port ≥ 8) : σ.leads ok (execStop port m s) := by
  unfold Machine.execStop
  refine .guard hok ?_
  split
  · exact .next h
  · exact .ite (.next (h.takeCtl ‹_›).limitStop) (.next (h.takeCtl ‹_›).takeStop)

theorem State.keeps.unwatch : σ.keeps s.unwatch := by
  unfold State.unwatch
  exact h.upd.syncHold

theorem State.leads.execStopComplete : σ.leads ok (execStopComplete s) := by
  unfold Machine.execStopComplete
  exact .ite (.next h.setDev.unwatch.cancelSwaps) (.next h)

theorem State.keeps.crossWaits : σ.keeps (s.crossWaits e) := by
  unfold State.crossWaits
  exact h.upd.foldl fun _ _ h => h.incO.event

theorem State.keeps.ptpStamp : σ.keeps (s.ptpStamp e sec ns) := by
  unfold State.ptpStamp
  exact h.when fun h => h.setO.setO.setO.upd

theorem State.keeps.beginStep : σ.keeps (s.beginStep e) := by
  unfold State.beginStep
  exact .ite (.judgeStep (.ite h.upd h.upd)) h.judgeStep

theorem State.leads.execEpochBoundary : σ.leads ok (execEpochBoundary sec ns s) := by
  unfold Machine.execEpochBoundary
  exact .ite (.next h) (.ite (.next h.upd.ptpStamp) (.ite (.next h)
    (.next h.setO.setO.crossWaits.ptpStamp.beginStep)))

theorem State.leads.execPtpSourceLost : σ.leads ok (execPtpSourceLost s) := by
  unfold Machine.execPtpSourceLost
  exact .ite (.next h.setO) (.next h)

end Almanac

/-! ### Queues -/

section Queue
variable {ok : Prop} {σ s : State} {q ring value : Nat} (h : σ.keeps s)
include h

theorem State.keeps.doorbell {producer : Bool} {v : Nat} : σ.keeps (s.doorbell q producer v) := by
  unfold State.doorbell
  exact h.setRing

theorem State.leads.execProducerDoorbell (hok : ok → ¬ring ≥ 4096) :
    σ.leads ok (execProducerDoorbell ring value s) := by
  unfold Machine.execProducerDoorbell
  exact .guard hok (.next h.doorbell)

theorem State.leads.execConsumerDoorbell (hok : ok → ¬ring ≥ 4096) :
    σ.leads ok (execConsumerDoorbell ring value s) := by
  unfold Machine.execConsumerDoorbell
  exact .guard hok (.next h.doorbell)

theorem State.keeps.stopRing {addr src : Nat} : σ.keeps (s.stopRing q addr src) := by
  unfold State.stopRing
  exact h.setRing.post

theorem State.leads.execCommandDescriptorTake (hok : ok → ¬ring ≥ 4096) :
    σ.leads ok (execCommandDescriptorTake ring s) := by
  unfold Machine.execCommandDescriptorTake
  refine .guard hok (.ite (.next h) ?_)
  extract_lets
  split
  · exact .next (h.readDesc.of_eq ‹_›).stopRing
  · exact .next (h.readDesc.of_eq ‹_›).submitOp

end Queue

/-! ### The thresher -/

section Thresher
variable {ok : Prop} {σ s : State} {o : Op} {id op die k : Nat} {l : Lane} (h : σ.keeps s)
include h

theorem State.keeps.thCheck {c : Nat} : σ.keeps (thCheck c s o).1 := by
  unfold Machine.thCheck
  exact .ite_fst h h

theorem State.keeps.threshStart : σ.keeps (threshStart s id o) := by
  unfold Machine.threshStart
  exact .ite h.blockOp h.setThr.judge

theorem State.leads.execThreshRun : σ.leads ok (execThreshRun op s) := by
  unfold Machine.execThreshRun
  exact .next (h.runOp (fun _ _ h => h.thCheck) fun _ _ _ h => h.threshStart)

theorem State.keeps.mergeLoadRun : σ.keeps (mergeLoadRun s id o) := by
  unfold Machine.mergeLoadRun
  refine .ite h.blockOp ?_
  split
  · exact (h.judge.readMem.of_eq ‹_›).failOp
  · have h₁ := h.judge.readMem.of_eq ‹_›
    extract_lets
    split
    · exact h₁.failOp
    · exact h₁.setThr.setO.worked

theorem State.leads.execMergeLoad : σ.leads ok (execMergeLoad op s) := by
  unfold Machine.execMergeLoad
  exact .next (h.runOp (fun _ _ h => h.thCheck) fun _ _ _ h => h.mergeLoadRun)

theorem State.keeps.thrWrap : σ.keeps (s.thrWrap die) := by
  unfold State.thrWrap
  exact h.when fun h => h.setO.setO

theorem State.leads.execSampleDescriptorTake (hok : ok → ¬die > 1) : σ.leads ok (execSampleDescriptorTake die s) := by
  unfold Machine.execSampleDescriptorTake
  refine .guard hok ?_
  split
  · exact .next h
  · refine .ite (.next h) ?_
    split
    · exact .next (h.readDesc.of_eq ‹_›).stopRing.failOp
    · have h₁ := h.readDesc.of_eq ‹_›
      exact .ite (.next h₁.setRing.notify.thrWrap.maxO.failOp)
        (.ite (.next h₁.setRing.notify.thrWrap.maxO.setO.setO.setThr)
          (.next h₁.setRing.notify.thrWrap.maxO.setO.setThr))

theorem State.keeps.countDrop {reason : Nat} : σ.keeps (s.countDrop die o l reason) := by
  unfold State.countDrop
  exact h.incO.incO.incO.unless fun h => h.post

theorem State.keeps.readHead {a typ len : Nat} {l : List Byte} : σ.keeps (s.readHead a typ len k l).1 := by
  induction k generalizing s a typ len l with
  | zero => exact h
  | succ k ih =>
    unfold State.readHead
    refine .ite_fst h ?_
    split
    · exact h.readMem.of_eq ‹_›
    · exact ih (h.readMem.of_eq ‹_›)

theorem State.keeps.headOf : σ.keeps (s.headOf die l).1 := by
  unfold State.headOf
  extract_lets
  split
  · exact h.readMem.of_eq ‹_›
  have h₁ := h.readMem.of_eq ‹_›
  extract_lets
  split
  · exact h₁
  split
  · exact h₁.readMem.of_eq ‹_›
  have h₂ := h₁.readMem.of_eq ‹_›
  extract_lets
  split
  · exact h₂
  split
  · exact h₂.readHead.of_eq ‹_›
  have h₃ := h₂.readHead.of_eq ‹_›
  split <;> exact h₃

theorem State.leads.execSampleDecodeComplete (hok : ok → ¬die > 1) :
    σ.leads ok (execSampleDecodeComplete die k s) := by
  unfold Machine.execSampleDecodeComplete
  refine .guard hok ?_
  split
  · refine .ite (.next h) ?_
    extract_lets
    split
    · exact .next (h.headOf.of_eq ‹_›).failOp
    · exact .next (h.headOf.of_eq ‹_›).setThr
    · have h₁ := h.headOf.of_eq ‹_›
      refine .ite (.next h₁) ?_
      split
      · exact .next (h₁.readMem.of_eq ‹_›).failOp
      · exact .next ((h₁.readMem.of_eq ‹_›).foldl fun _ _ h => h.scramble).setThr
  · exact .next h

theorem State.keeps.trimPast : σ.keeps (s.trimPast die) := by
  unfold State.trimPast
  exact h.setThr

theorem State.keeps.resumePoint : σ.keeps (s.resumePoint die) := by
  unfold State.resumePoint
  exact h.trimPast.setO.setO.foldl fun _ _ h => h.setO

theorem State.keeps.readWork {l : List (Nat × Nat)} : σ.keeps (s.readWork l).1 := by
  induction l generalizing s with
  | nil => exact h
  | cons a l ih =>
    unfold State.readWork
    split
    · exact h.readMem.of_eq ‹_›
    · exact ih (h.readMem.of_eq ‹_›)

theorem State.keeps.countSample : σ.keeps (s.countSample die o l) := by
  unfold State.countSample
  split
  · exact h.countDrop
  · exact h.orO.incO

theorem State.keeps.writeSlot : σ.keeps (s.writeSlot die id o l) := by
  unfold State.writeSlot
  extract_lets
  split
  · exact (h.readWork.of_eq ‹_›).failOp
  · have h₁ := h.readWork.of_eq ‹_›
    split
    · exact (h₁.writeAll.of_eq ‹_›).failOp
    · have h₂ := h₁.writeAll.of_eq ‹_›
      exact h₂.setThr.incO.incO.countSample.trimPast.signal.when fun h => h.worked

theorem State.leads.execSlotEmit (hok : ok → ¬die > 1) : σ.leads ok (execSlotEmit die s) := by
  unfold Machine.execSlotEmit
  refine .guard hok ?_
  split
  · refine .ite (.next h.failOp) (.ite (.next h) (.ite (.next h.writeSlot) ?_))
    split
    rename_i hs
    have hr := h.semWaitOp.of_eq hs
    split
    · exact .next hr.setThr.writeSlot
    · exact .next hr.failOp
    · exact .next hr.setThr
  · exact .next h

end Thresher

/-! ### Step boundaries -/

section Boundary
variable {ok : Prop} {σ s : State} {kind n en hi lo level top sats : Nat} (h : σ.keeps s)
include h

theorem State.keeps.entryWords {a : Nat} : σ.keeps (s.entryWords kind n a en hi lo).1 := by
  unfold State.entryWords
  split
  · exact h.readMem.of_eq ‹_›
  · have h₁ := h.readMem.of_eq ‹_›
    exact .ite_fst h₁ h₁

theorem State.keeps.tableWords {at_ : Nat → Nat} {l : List Nat} : σ.keeps (s.tableWords kind at_ en hi lo l).1 := by
  induction l generalizing s kind at_ en hi lo with
  | nil => exact h
  | cons a l ih =>
    unfold State.tableWords
    exact ih h.entryWords

theorem State.keeps.censusRecord : σ.keeps (s.censusRecord).1 := by
  unfold State.censusRecord
  exact h.tableWords.tableWords

theorem State.keeps.sendCensus {words : List Nat} : σ.keeps (s.sendCensus level words) := by
  unfold State.sendCensus
  exact h.sendVc2

theorem State.keeps.slotDesc {w : Nat} {e : Int} : σ.keeps (s.slotDesc n w e) := by
  unfold State.slotDesc
  extract_lets
  split
  · exact (h.readMem.of_eq ‹_›).incO.post
  · have h₁ := h.readMem.of_eq ‹_›
    refine .ite h₁.incO.post ?_
    split
    · exact (h₁.writeMem.of_eq ‹_›).incO.post
    · exact h₁.writeMem.of_eq ‹_›

theorem State.keeps.updateSlot : σ.keeps (s.updateSlot n top sats) := by
  unfold State.updateSlot
  extract_lets
  split
  · exact h.readMem.of_eq ‹_›
  · exact (h.readMem.of_eq ‹_›).writeMem.slotDesc

theorem State.keeps.updateBscale : σ.keeps (s.updateBscale n top sats) := by
  unfold State.updateBscale
  extract_lets
  split
  · exact h.readMem.of_eq ‹_›
  · exact (h.readMem.of_eq ‹_›).writeMem

theorem State.keeps.updateGroup {g : Nat} : σ.keeps (s.updateGroup g top sats) := by
  unfold State.updateGroup
  exact h.setI.setO.setI.upd

theorem State.keeps.applyItems {l : List (Nat × Nat × Bool)} {l2 : List Nat} : σ.keeps (s.applyItems l l2) := by
  induction s, l, l2 using State.applyItems.induct with
  | case1 s k n ok is top sats ws c t ih =>
    unfold State.applyItems
    refine ih (.ite h ?_)
    split
    · exact h.updateSlot.setO
    · exact h.updateGroup
    · exact h.updateBscale
  | case2 s l ws hne =>
    rw [State.applyItems.eq_def]
    split
    · exact (hne _ _ _ _ _ _ _ rfl rfl).elim
    · exact h

theorem State.keeps.finishStep {r : StepRun} : σ.keeps (s.finishStep r) := by
  unfold State.finishStep
  exact h.incO.setO.setO.setO.setO.applyItems.setO.upd.judgeHeld.upd.resumePoint.resumePoint.judgeStep

theorem State.keeps.exchange {k : Nat} : σ.keeps (State.exchange k s) := by
  induction k generalizing s with
  | zero => exact h
  | succ k ih =>
    unfold State.exchange
    split
    · exact h
    · refine .ite h (.ite h.finishStep ?_)
      extract_lets
      split
      · exact h
      · exact .ite h.upd.upd.judgeStep.post (ih (h.upd.upd.when fun h => h.sendCensus))

theorem State.keeps.exchangeAll : σ.keeps s.exchangeAll := by
  unfold State.exchangeAll
  exact h.exchange

theorem State.leads.execStepBoundary : σ.leads ok (execStepBoundary s) := by
  unfold Machine.execStepBoundary
  split
  · exact .next h
  · exact .ite (.next h.exchangeAll) (.ite (.next h) (.next
      (h.censusRecord.upd.when fun h => h.sendCensus).exchangeAll))

theorem State.leads.execCensusRecordReceive {src : Nat} {r : CensusRec} :
    σ.leads ok (execCensusRecordReceive src level r s) := by
  unfold Machine.execCensusRecordReceive
  exact .ite (.next h) (.ite (.next h) (.next h.upd.exchangeAll))

end Boundary

/-! ### Links between packages -/

section Link
variable {ok : Prop} {σ s τ : State} {p reason port uw kind vc : Nat} {noise : List Nat} {m : Msg} {b : Beacon}
  {f : LinkFrame} {bad : Bool} (h : σ.keeps s)
include h

theorem State.keeps.abortPath : σ.keeps (s.abortPath p) := by
  unfold State.abortPath
  refine h.foldl fun _ _ h => ?_
  split
  · split
    · exact h.baleAbort
    · exact h
  · exact h

theorem State.keeps.dropTransit : σ.keeps (s.dropTransit p) := by
  unfold State.dropTransit
  exact h.foldl fun _ _ h => h.unless fun h => h.freeRx

theorem State.keeps.portClear : σ.keeps (s.portClear p) := by
  unfold State.portClear
  exact h.dropTransit.setPort.upd.setCond.when fun h => h.serveLeave

theorem State.keeps.portMove {st : Nat} : σ.keeps (s.portMove p st reason) := by
  unfold State.portMove
  exact ((((h.when fun h => h.setPort).when fun h => h.incO).when fun h => h.takeLink).setO.setO.portClear.unless
    fun h => h.setO).when fun h => h.abortPath

theorem State.keeps.portRecord : σ.keeps (s.portRecord p reason) := by
  unfold State.portRecord
  exact h.post

theorem State.keeps.portFault : σ.keeps (s.portFault p reason) := by
  unfold State.portFault
  exact h.portMove.portRecord

theorem State.keeps.portTrain : σ.keeps (s.portTrain p) := by
  unfold State.portTrain
  exact .ite h.portMove h.portMove

theorem State.keeps.lasers : σ.keeps (s.lasers p) := by
  unfold State.lasers
  exact h.emit

theorem State.leads.execPortFecLock (hok : ok → ¬port ≥ 8) : σ.leads ok (execPortFecLock port s) := by
  unfold Machine.execPortFecLock
  exact .guard hok (.ite (.next h.portMove.setPort) (.next h))

theorem State.leads.execPortCheck {partner beatNs exts lenDm rttNs : Nat} (hok : ok → ¬port ≥ 8) :
    σ.leads ok (execPortCheck port partner beatNs exts lenDm rttNs s) := by
  unfold Machine.execPortCheck
  exact .guard hok (.ite (.next h) (.ite (.next h.portFault)
    (.ite (.next h.portFault) (.next h.portMove.setO.setO.setO))))

theorem State.leads.execPortTrainTimeout (hok : ok → ¬port ≥ 8) : σ.leads ok (execPortTrainTimeout port s) := by
  unfold Machine.execPortTrainTimeout
  exact .guard hok (.ite (.next h.portFault) (.next h))

theorem State.leads.execPortFecLoss (hok : ok → ¬port ≥ 8) : σ.leads ok (execPortFecLoss port s) := by
  unfold Machine.execPortFecLoss
  exact .guard hok (.ite (.next h.portMove.portRecord) (.ite (.next h.portMove) (.next h)))

theorem State.leads.execPortFecRateWindow (hok : ok → ¬port ≥ 8) : σ.leads ok (execPortFecRateWindow port s) := by
  unfold Machine.execPortFecRateWindow
  exact .guard hok (.ite (.next h.setPort.portFault) (.next h.setPort))

theorem State.leads.execLaserLow (hok : ok → ¬port ≥ 8) : σ.leads ok (execLaserLow port uw s) := by
  unfold Machine.execLaserLow
  exact .guard hok (.ite (.next h.setPort.setO) (.next h.setPort.setO.portMove.post))

theorem State.leads.execLaserInputPresent (hok : ok → ¬port ≥ 8) : σ.leads ok (execLaserInputPresent port uw s) := by
  unfold Machine.execLaserInputPresent
  exact .guard hok (.ite (.next h.setO) (.ite (.next h.setO.setPort.portTrain) (.next h.setO.setPort)))

theorem State.keeps.portEnabled : σ.keeps (s.portEnabled p) := by
  unfold State.portEnabled
  exact .ite (h.lasers.unless fun h => h.portMove) (h.lasers.when fun h => h.portTrain)

theorem State.keeps.portRetrain : σ.keeps (s.portRetrain p) := by
  unfold State.portRetrain
  exact h.lasers.unless fun h => h.portTrain

theorem State.keeps.txDecode : σ.keeps (s.txDecode p noise m).1 := by
  unfold State.txDecode
  refine h.foldl_fst fun _ _ h => .ite_fst h ?_
  split
  · exact h
  · exact h.incO
  · exact h

theorem State.keeps.putFrame {seq : Nat} : σ.keeps (s.putFrame p kind vc seq m) := by
  unfold State.putFrame
  exact ((h.unless fun h => h.incO).when fun h => h.emit).setPort.emit

theorem State.keeps.putKept : σ.keeps (s.putKept p kind vc m) := by
  unfold State.putKept
  exact h.setPort.putFrame

theorem State.keeps.slotFrame : σ.keeps (s.slotFrame p) := by
  unfold State.slotFrame
  exact h.upd.when fun h => h.serveLeave

theorem State.keeps.dataOf (e : s.dataOf p vc noise = some τ) : σ.keeps τ := by
  unfold State.dataOf at e
  extract_lets at e
  split at e
  · cases e
  · obtain ⟨⟨x, now, rest⟩, -, rfl⟩ := Option.map_eq_some_iff.mp e
    exact (State.keeps.ite h.setPort h.setPort.freeRx).txDecode.putKept

theorem State.keeps.lowFrame : σ.keeps (s.lowFrame p noise) := by
  unfold State.lowFrame
  extract_lets
  split
  · rename_i e
    rw [Option.orElse_eq_some, Option.orElse_eq_some] at e
    obtain e | ⟨-, e | ⟨-, e⟩⟩ := e
    · split_ifs at e
      exact h.dataOf e
    · exact h.dataOf e
    · exact h.dataOf e
  · exact h.putFrame

theorem State.keeps.putBeacon {txPs : Nat} {rest : List Beacon} : σ.keeps (s.putBeacon p txPs b rest) := by
  unfold State.putBeacon
  exact h.setPort.putFrame

theorem State.leads.execLinkFrameTransmit {f : FrameTime} (hok : ok → ¬f.port ≥ 8) :
    σ.leads ok (execLinkFrameTransmit f s) := by
  unfold Machine.execLinkFrameTransmit
  refine .guard hok (.ite (.next h) ?_)
  extract_lets
  split
  · exact .next (h.setPort.incO.putFrame.when fun h => h.setCond)
  · split
    · exact .next h.putBeacon
    · exact .next (.ite h.setPort.putFrame h.setPort.putKept)
    · exact .next h.lowFrame.slotFrame

theorem State.keeps.takeNak : σ.keeps (s.takeNak p) := by
  unfold State.takeNak
  extract_lets
  split
  · exact .ite h.portFault h.setPort.replayHold
  · exact h

theorem State.keeps.gotPacket : σ.keeps (s.gotPacket p m) := by
  unfold State.gotPacket
  refine .ite h.setPort ?_
  split
  · exact .ite h.freeRx h.incO.setPort
  · exact h.freeRx

theorem State.keeps.passBlock {q left : Nat} {head : Bool} {b : List Byte} :
    σ.keeps (s.passBlock p q left head b bad) := by
  unfold State.passBlock
  refine .ite h.setPort ?_
  split
  · exact h.setPort
  · exact h.freeRx

theorem State.keeps.rxBlock {b : List Byte} : σ.keeps (s.rxBlock p b bad) := by
  unfold State.rxBlock
  extract_lets x head left way now t
  have ht : σ.keeps t := h.setPort
  clear_value t way
  split
  · exact .ite ht.gotPacket ht
  · exact ht.passBlock
  · exact ht.freeRx

theorem State.keeps.rxBlocks : σ.keeps (s.rxBlocks p m) := by
  unfold State.rxBlocks
  exact h.foldl fun _ _ h => h.rxBlock

theorem State.keeps.acceptFrame : σ.keeps (s.acceptFrame p f) := by
  unfold State.acceptFrame
  exact .ite h.setPort (.ite h.setPort.rxBlocks h.setPort.freeRx)

theorem State.keeps.owe : σ.keeps (s.owe p) := by
  unfold State.owe
  exact h.setPort

theorem State.keeps.frameIn : σ.keeps (s.frameIn p f) := by
  unfold State.frameIn
  exact .when (.ite (.ite (h.setPort.unless fun h => h.incO).acceptFrame (h.setPort.unless fun h => h.incO).owe)
    (h.setPort.unless fun h => h.incO)) fun h => h.takeNak

theorem State.keeps.lineIn {a : Option (Nat × Nat)} : σ.keeps (s.lineIn p a) := by
  unfold State.lineIn
  split
  · exact h.incO.setPort.owe
  · extract_lets
    split
    · exact (h.unless fun h => h.incO).owe
    · exact (h.unless fun h => h.incO).frameIn

theorem State.leads.execLinkFrameReceive {lanes : List Nat} (hok : ok → ¬port ≥ 8) :
    σ.leads ok (execLinkFrameReceive port lanes s) := by
  unfold Machine.execLinkFrameReceive
  exact .guard hok (.ite (.next h) (.next h.lineIn))

theorem State.leads.execBeaconReceive {rxPs lmaxNs : Nat} (hok : ok → ¬port ≥ 8) :
    σ.leads ok (execBeaconReceive port b rxPs lmaxNs s) := by
  unfold Machine.execBeaconReceive
  exact .guard hok (.ite (.next h) (.ite (.next h.stampRx)
    (.ite (.next h) (.ite (.next h.portFault) (.ite (.next (h.when fun h => h.setO).otherMaster)
      (.next (((h.when fun h => h.setO).when fun h => h.newBeacon).when fun h => h.fromNeighbour)))))))

theorem State.leads.execSendDataReceive {src dst dsem : Nat} {en : Bool} {bytes : List Byte} {bad : List Nat}
    (hok : ok → ¬port ≥ 8) : σ.leads ok (execSendDataReceive port src dst dsem en bytes bad s) := by
  unfold Machine.execSendDataReceive
  exact .guard hok (.ite (.next h) (.ite (.next h.post) (.next (h.writeAll.when fun h => h.signal))))

end Link

/-! ### Power -/

section Power
variable {ok : Prop} {σ s τ : State} {d pll mw : Nat} {t : Int} {rails : List Nat} (h : σ.keeps s)
include h

theorem State.keeps.ramp : σ.keeps (s.ramp d) := by
  unfold State.ramp
  exact h.unless fun h => h.setO.incO

theorem State.keeps.slow {low : Nat} : σ.keeps (s.slow d low) := by
  unfold State.slow
  exact h.unless fun h => h.setO.incO

theorem State.leads.execClkRampStep {die : Nat} (hok : ok → ¬die ≥ 2) : σ.leads ok (execClkRampStep die s) := by
  unfold Machine.execClkRampStep
  exact .guard hok (.ite (.next h) (.next h.ramp))

theorem State.keeps.switchSrc {v : Nat} (e : s.switchSrc d v = some τ) : σ.keeps τ := by
  unfold State.switchSrc at e
  extract_lets _ _ s₁ at e
  have hset : σ.keeps s₁ := h.setO
  split_ifs at e <;> obtain rfl := Option.some.inj e
  · exact hset.setO
  · exact hset

theorem State.keeps.dropPort {p : Nat} : σ.keeps (s.dropPort p) := by
  unfold State.dropPort
  exact .ite h.portMove.portRecord (h.when fun h => h.portMove)

theorem State.leads.execPllReferenceLoss {refclk : Bool} (hok : ok → ¬pll ≥ pllCount) :
    σ.leads ok (execPllReferenceLoss pll refclk s) := by
  unfold Machine.execPllReferenceLoss
  exact .guard hok (.ite (.next h) (.next ((h.setO.orO.when fun h => h.setO).upd.holdNow.post.when
    fun h => h.dropPort.dropPort)))

theorem State.leads.execPllRelock (hok : ok → ¬pll ≥ pllCount) : σ.leads ok (execPllRelock pll s) := by
  unfold Machine.execPllRelock
  exact .guard hok (.ite (.next h) (.next (h.setO.setO.upd.unless fun h => h.setCond)))

theorem State.leads.execClockLossStop (hok : ok → ¬pll ≥ pllCount) : σ.leads ok (execClockLossStop pll s) := by
  unfold Machine.execClockLossStop
  exact .guard hok (.ite (.next h) (.next h.upd.post))

theorem State.keeps.freeze {b : Nat} {on : Bool} {key : Nat} : σ.keeps (s.freeze b on key) := by
  unfold State.freeze
  exact (h.setO.unless fun h => h.setCond).serveLeave

theorem State.leads.execPowerOverLimit : σ.leads ok (execPowerOverLimit mw s) := by
  unfold Machine.execPowerOverLimit
  exact .ite (.next h) (.next h.incO.freeze)

theorem State.leads.execOverLimitFreezeEnd : σ.leads ok (execOverLimitFreezeEnd mw s) := by
  unfold Machine.execOverLimitFreezeEnd
  exact .ite (.next h.freeze) (.next h)

theorem State.leads.execSupplyWarning {rail mv : Nat} (hok : ok → ¬rail ≥ 8) :
    σ.leads ok (execSupplyWarning rail mv s) := by
  unfold Machine.execSupplyWarning
  exact .guard hok (.ite (.next h) (.next ((h.upd.orO.when fun h => h.freeze).when fun h => h.foldl
    fun _ _ h => h.upd.slow).orO.incO.post))

theorem State.leads.execSupplyRecovery : σ.leads ok (execSupplyRecovery s) := by
  unfold Machine.execSupplyRecovery
  exact .ite (.next h) (.next h.upd.setO.freeze)

theorem State.leads.execLeaveCorrectionUpdate {pm meanHeld : Nat} :
    σ.leads ok (execLeaveCorrectionUpdate pm meanHeld s) := by
  unfold Machine.execLeaveCorrectionUpdate
  exact .ite (.next h) (.next h.setO.serveLeave)

theorem State.keeps.thermalClock {old : Int} : σ.keeps (s.thermalClock d old t) := by
  unfold State.thermalClock
  exact .ite ((h.when fun h => h.incO).when fun h => h.upd.slow) ((h.when fun h => h.incO).when fun h => h.upd.ramp)

theorem State.keeps.readDie {j : Nat} : σ.keeps (s.readDie j t) := by
  unfold State.readDie
  exact ((h.setI.when fun h => h.setI).when fun h => h.setO.thermalClock).when fun h => h.post

theorem State.keeps.judgeStale : σ.keeps s.judgeStale := by
  unfold State.judgeStale
  extract_lets
  split
  · exact h.setO
  · exact h.setO.unless fun h => h.post

theorem State.keeps.readRails : σ.keeps (s.readRails rails) := by
  unfold State.readRails
  exact h.foldl fun _ _ h => .ite (h.setO.when fun h => h.setO).orO (h.setO.when fun h => h.setO).setO

theorem State.keeps.readPower : σ.keeps (s.readPower mw) := by
  unfold State.readPower
  exact h.setO.maxO.upd.incO

theorem State.keeps.passMs : σ.keeps s.passMs := by
  unfold State.passMs
  exact h.incO.foldl fun _ _ h => h.setO

theorem State.leads.execThermalReading {temps : List Int} {powerMw : Nat} :
    σ.leads ok (execThermalReading temps powerMw rails s) := by
  unfold Machine.execThermalReading
  exact .ite (.next h) (.next ((h.passMs.foldl fun _ _ h => h.readDie).unless
    fun h => h.judgeStale).readRails.readPower.serveLeave)

end Power

/-! ### The configuration store -/

section Store
variable {ok : Prop} {σ s : State}  (h : σ.keeps s)
include h

theorem State.keeps.loadC {es : List (Nat × Nat × List Byte)} {keep : Bool} : σ.keeps (s.loadC es keep).1 := by
  unfold State.loadC
  refine (h.foldl_fst fun _ _ h => ?_).foldl_fst fun _ _ h => ?_
  · split
    · exact .ite_fst h.setO (h.unless fun h => h.setO)
    · exact h.setO
  · extract_lets
    split
    · exact .ite_fst h.upd (h.unless fun h => h.upd)
    · exact h.upd

theorem State.keeps.skipped {failed : List Nat} : σ.keeps (s.skipped failed) := by
  unfold State.skipped
  exact h.setO.setO

theorem State.keeps.redirty : σ.keeps s.redirty := by
  unfold State.redirty
  exact h.setO

theorem State.keeps.showCopy : σ.keeps s.showCopy := by
  unfold State.showCopy
  split
  · exact h.setO.setO
  · exact h.setO.setO

theorem State.keeps.loadStore : σ.keeps s.loadStore := by
  unfold State.loadStore
  exact (h.upd.showCopy.loadC.skipped.when fun h => h.post).redirty

theorem State.keeps.beginStore : σ.keeps s.beginStore := by
  unfold State.beginStore
  exact h.upd.drew.setO

theorem State.keeps.endStore {bs : List Byte} : σ.keeps (s.endStore bs) := by
  unfold State.endStore
  exact h.upd.showCopy.redirty

theorem State.leads.execStoreComplete {flashOk sigOk : Bool} : σ.leads ok (execStoreComplete flashOk sigOk s) := by
  unfold Machine.execStoreComplete
  split
  · exact .next h
  · exact .ite (.next h.endStore.setO) (.next h.upd.setO.post)

theorem State.keeps.provision : σ.keeps s.provision := by
  unfold State.provision
  refine .ite h ?_
  split
  · exact h.setO.post
  · exact (h.foldl fun _ _ h => h.upd.setO).setO.endStore.drew.setO.upd.setO

end Store

/-! ### Resets -/

section Reset
variable {ok : Prop} {σ s : State} {n kind target die : Nat} {js : List Nat} (h : σ.keeps s)
include h

theorem State.keeps.dropObjs {gone : ObjDef → Nat → Nat → Bool} : σ.keeps (s.dropObjs gone) := by
  unfold State.dropObjs
  exact h.upd

theorem State.keeps.killOps {gone : Nat → Op → Bool} : σ.keeps (s.killOps gone) := by
  unfold State.killOps
  refine (h.unless fun h => h.keepWaits.regrant).foldl fun _ _ h => ?_
  split
  · exact h.countAbandoned.coreFailed.endOp.dropReserved
  · exact h

theorem State.keeps.enterFault {reason : Nat} : σ.keeps (s.enterFault reason) := by
  unfold State.enterFault
  exact h.unless fun h => h.killOps.setO.setDev

theorem State.keeps.clearTable {t : Nat} : σ.keeps (s.clearTable t) := by
  unfold State.clearTable
  exact h.upd.judge

theorem State.keeps.clearCore : σ.keeps (s.clearCore n) := by
  unfold State.clearCore
  exact ⟨h.queue, fun hm => Memory.wf_filter _ _ (h.memory hm)⟩

theorem State.keeps.resetCore : σ.keeps (s.resetCore n) := by
  unfold State.resetCore
  exact h.loseOwner.killOps.clearCore.dropObjs.clearTable

theorem State.keeps.resetPort {p : Nat} : σ.keeps (s.resetPort p) := by
  unfold State.resetPort
  exact h.portMove.clearTable.dropObjs.when fun h => h.portTrain

theorem State.keeps.resetDie {d : Nat} : σ.keeps (s.resetDie d) := by
  unfold State.resetDie
  exact (((h.loseOwners.killOps.foldl fun _ _ h => h.clearCore).dropObjs.upd.foldl fun _ _ h => h.clearTable).foldl
    fun _ _ h => h.clearTable).foldl fun _ _ h => h.resetPort

theorem State.keeps.resetField : σ.keeps s.resetField := by
  unfold State.resetField
  exact h.dropObjs.upd.cancelSwaps

theorem State.keeps.lasersOff : σ.keeps s.lasersOff := by
  unfold State.lasersOff
  exact h.foldl fun _ _ h => h.emit

theorem State.keeps.powerDown {pins : Pins} : σ.keeps (s.powerDown pins) := by
  unfold State.powerDown
  extract_lets t
  have ht : σ.keeps t := ⟨h.queue, fun _ => rfl⟩
  exact ht.setO.lasersOff

theorem State.keeps.startPlls : σ.keeps (s.startPlls js) := by
  unfold State.startPlls
  exact h.foldl fun _ _ h => h.setO

theorem State.keeps.stopPlls : σ.keeps (s.stopPlls js) := by
  unfold State.stopPlls
  exact (h.foldl fun _ _ h => h.setO).upd

theorem State.keeps.warmReset {cause : Nat} : σ.keeps (s.warmReset cause) := by
  unfold State.warmReset
  extract_lets kept t₀
  have ht : σ.keeps t₀ := by
    refine ⟨h.queue, fun hm => ?_⟩
    show Memory.wf (if s.memLost then [] else s.mem.filter _) = true
    split
    · rfl
    · exact Memory.wf_filter _ _ (h.memory hm)
  exact ht.setO.setO.setO.setO.setO.incO.setO.startPlls.lasersOff

theorem State.keeps.countReset : σ.keeps (s.countReset kind target) := by
  unfold State.countReset
  exact h.setO.setO.incO

theorem State.leads.beginReset {run : State → State} (hrun : ∀ s, σ.keeps s → σ.keeps (run s)) :
    σ.leads ok (s.beginReset kind target run) := by
  unfold State.beginReset
  exact .ite (.next (hrun _ h.upd.countReset)) (.next h)

theorem State.leads.execWarm : σ.leads ok (execWarm s) := by
  unfold Machine.execWarm
  split
  · exact .next h.warmReset
  · exact .next h

theorem State.leads.execDieReset (hok : ok → ¬die ≥ 2) : σ.leads ok (execDieReset die s) := by
  unfold Machine.execDieReset
  exact .guard hok (.beginReset h fun _ h => h.resetDie)

theorem State.leads.execCoreReset {core : Nat} (hok : ok → ¬core ≥ 800) : σ.leads ok (execCoreReset core s) := by
  unfold Machine.execCoreReset
  exact .guard hok (.beginReset h fun _ h => h.resetCore.when fun h => h.post)

theorem State.leads.execPortReset {port : Nat} (hok : ok → ¬port ≥ 8) : σ.leads ok (execPortReset port s) := by
  unfold Machine.execPortReset
  exact .guard hok (.beginReset h fun _ h => h.resetPort)

theorem State.leads.execFieldRestart : σ.leads ok (execFieldRestart s) := by
  unfold Machine.execFieldRestart
  split
  · exact .beginReset h fun _ h => h.resetField
  · exact .next h

theorem State.leads.execResetComplete : σ.leads ok (execResetComplete s) := by
  unfold Machine.execResetComplete
  split
  · exact .ite (.next h) (.next h.upd.setO)
  · exact .next h

theorem State.leads.execPor : σ.leads ok (execPor s) := by
  unfold Machine.execPor
  exact .next (h.powerDown.when fun h => h.emit)

theorem State.leads.execPowerUp : σ.leads ok (execPowerUp s) := by
  unfold Machine.execPowerUp
  exact .ite (.next h) (.next h.upd)

theorem State.leads.execResetN {lowUs : Nat} : σ.leads ok (execResetN lowUs s) := by
  unfold Machine.execResetN
  exact .ite (.next h) (.next h.warmReset)

theorem State.leads.execThermtrip (hok : ok → ¬(die = 0 ∨ die > 7)) : σ.leads ok (execThermtrip die s) := by
  unfold Machine.execThermtrip
  exact .guard hok (.ite (.next h) (.next h.powerDown.emit))

theorem State.keeps.dropCopies {rq : Nat} : σ.keeps (s.dropCopies rq) := by
  unfold State.dropCopies
  exact h.upd

theorem State.leads.execStewardWatchdog (hok : ok → ¬n ≥ 4) : σ.leads ok (execStewardWatchdog n s) := by
  unfold Machine.execStewardWatchdog
  exact .guard hok (.ite (.next h) (.ite (.next h.warmReset) (.next h.upd.loseOwner.dropCopies.countReset)))

theorem State.leads.execSupplyReset {rail mv : Nat} (hok : ok → ¬rail ≥ 8) :
    σ.leads ok (execSupplyReset rail mv s) := by
  unfold Machine.execSupplyReset
  refine .guard hok (.ite (.next h) (.ite (.next h.powerDown) ?_))
  extract_lets t die
  have ht : σ.keeps t := h.setO.post
  have hdie : ∀ s d, σ.keeps s → σ.keeps (die s d) := fun _ _ h => h.upd.countReset.resetDie
  refine .ite (.next (hdie _ _ ht.enterFault)) (.ite (.next (hdie _ _ (hdie _ _ ht.enterFault))) (.ite ?_ ?_))
  · exact .next ⟨ht.enterFault.queue, fun hm => Memory.wf_filter _ _ (ht.enterFault.memory hm)⟩
  · exact .next (ht.foldl fun _ _ h => h.portMove)

end Reset

/-! ### Low-power states -/

section LowPower
variable {ok : Prop} {σ s : State}  (h : σ.keeps s)
include h

theorem State.keeps.leaveP1 : σ.keeps s.leaveP1 := by
  unfold State.leaveP1
  exact h.setO.setO.incO.setO.setO.setCond

theorem State.keeps.askP0 : σ.keeps (s.askP0).1 := by
  unfold State.askP0
  exact .ite_fst h.leaveP1.setO (.ite_fst h.setO (.ite_fst h.upd.setO.setO h.setO))

theorem State.keeps.askP1 : σ.keeps (s.askP1).1 := by
  unfold State.askP1
  exact .ite_fst h.setO.setO.setO h.setO

theorem State.keeps.askFallow : σ.keeps (s.askFallow).1 := by
  unfold State.askFallow
  exact .ite_fst h.upd.setO.setO.setO h.setO

theorem State.keeps.lpRequest {v : Nat} : σ.keeps (s.lpRequest v).1 := by
  unfold State.lpRequest
  exact .ite_fst h.askP0 (.ite_fst h.askP1 h.askFallow)

theorem State.leads.execP1Exit : σ.leads ok (execP1Exit s) := by
  unfold Machine.execP1Exit
  exact .ite (.next h.leaveP1) (.next h)

theorem State.keeps.loseCores : σ.keeps s.loseCores := by
  unfold State.loseCores
  extract_lets t
  have hcores : σ.keeps t := ⟨h.queue, fun hm => Memory.wf_filter _ _ (h.memory hm)⟩
  exact hcores.setO.setO

theorem State.keeps.freeAlmanac : σ.keeps s.freeAlmanac := by
  unfold State.freeAlmanac
  exact h.setO.upd

theorem State.leads.execFallowEntryStep : σ.leads ok (execFallowEntryStep s) := by
  unfold Machine.execFallowEntryStep
  exact .ite (.next h) (.ite (.next h.upd.setO.setO) (.ite (.next h.upd)
    (.ite (.next (h.upd.foldl fun _ _ h => h.portMove).lasersOff)
      (.ite (.next h.upd.freeAlmanac) (.ite (.next h.upd.stopPlls.stopPlls)
        (.next h.upd.upd.loseCores.setO.setDev.setO.incO))))))

end LowPower

/-! ### Networks -/

section Net
variable {ok : Prop} {σ s : State} {p prio : Nat} {f : EthFrame} (h : σ.keeps s)
include h

theorem State.keeps.setEth {x : EthPort} : σ.keeps (s.setEth p x) := by
  unfold State.setEth
  exact h.upd

theorem State.keeps.ethTrain : σ.keeps (s.ethTrain p) := by
  unfold State.ethTrain
  exact .ite h.upd.setO h.upd.setO.emit

theorem State.keeps.ethDrop : σ.keeps (s.ethDrop p) := by
  unfold State.ethDrop
  exact h.incO

theorem State.keeps.ethTook : σ.keeps (s.ethTook p) := by
  unfold State.ethTook
  exact h.incO

theorem State.keeps.ethSent : σ.keeps (s.ethSent p) := by
  unfold State.ethSent
  exact h.incO

theorem State.keeps.ethCount : σ.keeps (s.ethCount p f) := by
  unfold State.ethCount
  exact ((h.unless fun h => h.incO).unless fun h => h.incO).unless fun h => h.incO

theorem State.leads.onFrame {use : State → Out} (hok : ok → ¬p ≥ 2) (huse : ∀ s, σ.keeps s → σ.leads ok (use s)) :
    σ.leads ok (s.onFrame p f use) := by
  unfold State.onFrame
  exact .guard hok (.ite (.next h) (.ite (huse _ h.ethCount) (.next h.ethCount.ethDrop)))

theorem State.leads.onNet {n : Net} {dport : Nat} {use : State → Out} (hok : ok → ¬n.eport ≥ 2)
    (huse : ∀ s, σ.keeps s → σ.leads ok (use s)) : σ.leads ok (s.onNet n dport use) := by
  unfold State.onNet
  exact .onFrame h hok fun _ h => .ite (huse _ h.ethTook) (.next h.ethDrop)

theorem State.keeps.sendFrame {f : TxFrame} : σ.keeps (s.sendFrame f) := by
  unfold State.sendFrame
  exact h.ethSent.emit

theorem State.keeps.transmit {f : TxFrame} : σ.keeps (s.transmit f) := by
  unfold State.transmit
  exact .ite h (.ite h.setEth h.sendFrame)

theorem State.keeps.solicit {hop : Nat} : σ.keeps (s.solicit p hop) := by
  unfold State.solicit
  exact .ite h.transmit h.transmit

theorem State.keeps.sendIp {d : Dgram} : σ.keeps (s.sendIp p prio d) := by
  unfold State.sendIp
  refine .ite h ?_
  split
  · exact h
  · exact .ite h.transmit h.setEth.solicit

theorem State.keeps.learn {ip mac : Nat} : σ.keeps (s.learn p ip mac) := by
  unfold State.learn
  exact h.setEth.foldl fun _ _ h => h.transmit

theorem State.keeps.resumeTx : σ.keeps (s.resumeTx p prio) := by
  unfold State.resumeTx
  exact h.setEth.foldl fun _ _ h => h.transmit

theorem State.keeps.dropQpPackets {n : Nat} {q : Qp} : σ.keeps (s.dropQpPackets n q) := by
  unfold State.dropQpPackets
  exact h.setEth.upd

end Net

/-! ### Start-up -/

section Boot
variable {ok : Prop} {σ s : State} {k n kind rq : Nat} {bs : List Byte} (h : σ.keeps s)
include h

theorem State.keeps.verify : σ.keeps (s.verify k bs).1 := by
  unfold State.verify
  split
  · exact h
  · exact h.incO

theorem State.keeps.showActive : σ.keeps (s.showActive k) := by
  unfold State.showActive
  exact h.setO.setO

theorem State.keeps.showSlot : σ.keeps (s.showSlot k n) := by
  unfold State.showSlot
  exact .ite (State.keeps.setO (.ite_fst h h.verify)).setO.setO (State.keeps.setO (.ite_fst h h.verify)).setO.setO

theorem State.keeps.startImage : σ.keeps (s.startImage k n) := by
  unfold State.startImage
  exact .ite h.upd.incO.post (h.when fun h => h.upd.setO)

theorem State.keeps.stage4 : σ.keeps (s.stage4).1 := by
  unfold State.stage4
  extract_lets
  split
  · exact h.foldl fun _ _ h => h.showSlot.showSlot.showActive
  · exact (h.foldl fun _ _ h => h.startImage).foldl fun _ _ h => h.showSlot.showSlot.showActive

theorem State.keeps.bootFail {stage : Nat} {r : Rec} : σ.keeps (s.bootFail stage r) := by
  unfold State.bootFail
  exact h.setO.post

theorem State.keeps.bootNext : σ.keeps s.bootNext := by
  unfold State.bootNext
  exact h.incO

theorem State.keeps.trainPorts : σ.keeps s.trainPorts := by
  unfold State.trainPorts
  exact h.startPlls.takeLink.foldl fun _ _ h => h.lasers.portTrain

theorem State.keeps.trainMemory {ok : Bool} {ch : Nat} : σ.keeps (s.trainMemory ok ch) := by
  unfold State.trainMemory
  refine .ite h.upd.setO.setO.bootNext.trainPorts (.bootFail (.setO (.setO (.ite h ?_))))
  have hset : σ.keeps (s.setO Obj.WARM_MEM_KEPT 0) := h.setO
  exact ⟨hset.queue, fun hm => Memory.wf_filter _ _ (h.memory hm)⟩

theorem State.leads.execBootStageComplete {good : Bool} {detail : Nat} :
    σ.leads ok (execBootStageComplete good detail s) := by
  unfold Machine.execBootStageComplete
  refine .ite (.next h) ?_
  split
  · exact .next (.ite h.setO.setO.startPlls.bootNext h.setO.bootFail)
  · exact .next (.ite h.bootNext h.bootFail)
  · exact .next h.bootNext
  · refine .next ?_
    split
    · exact (h.stage4.of_eq ‹_›).bootNext
    · exact (h.stage4.of_eq ‹_›).bootFail
  · exact .next h.loadStore.provision.upd.setDev.ethTrain.ethTrain.setO.startPlls.bootNext
  · exact .next h.trainMemory
  · exact .next (h.when fun h => h.bootNext)
  · exact .next h.bootNext.setDev.setO
  · exact .next h

theorem State.keeps.fwCode {c : Nat} : σ.keeps (s.fwCode c) := by
  unfold State.fwCode
  exact h.unless fun h => h.setO

theorem State.keeps.fwBegin : σ.keeps (s.fwBegin k bs) := by
  unfold State.fwBegin
  exact h.upd.setO.showSlot

theorem State.leads.execFwStageComplete {flashOk : Bool} : σ.leads ok (execFwStageComplete flashOk s) := by
  unfold Machine.execFwStageComplete
  split
  · exact .next h
  · exact .ite (.next h.upd.showSlot.setO) (.ite (.next h.upd.setO) (.next h.upd.showSlot.setO.setO))

theorem State.keeps.fwActivate : σ.keeps (s.fwActivate k).1 := by
  unfold State.fwActivate
  split
  · exact h.fwCode
  · extract_lets
    split
    · exact (h.verify.of_eq ‹_›).fwCode
    · have h₁ := h.verify.of_eq ‹_›
      exact .ite_fst h₁.fwCode (.ite_fst h₁.fwCode h₁.upd.showActive.setO)

theorem State.keeps.fwAdvance : σ.keeps (s.fwAdvance).1 := by
  unfold State.fwAdvance
  exact .ite_fst h h.upd

theorem State.leads.execFwSelfConfirm (hok : ok → ¬(kind = 0 ∨ kind > 3)) :
    σ.leads ok (execFwSelfConfirm kind s) := by
  unfold Machine.execFwSelfConfirm
  exact .guard hok (.ite (.next h) (.next h.upd.setO.setO.showActive))

theorem State.leads.execFwTrialExpired (hok : ok → ¬(kind = 0 ∨ kind > 3)) :
    σ.leads ok (execFwTrialExpired kind s) := by
  unfold Machine.execFwTrialExpired
  exact .guard hok (.ite (.next h) (.next h.setO.post))

theorem State.keeps.setSelBlob {o : ObjDef} : σ.keeps (s.setSelBlob rq o bs) := by
  unfold State.setSelBlob
  exact h.upd

theorem State.keeps.askReport {nonce : List Byte} : σ.keeps (s.askReport rq nonce) := by
  unfold State.askReport
  exact h.setSelBlob.unless fun h => h.upd

theorem State.leads.execAttestReportBuilt {slot : Nat} (hok : ok → ¬slot ≥ 20) :
    σ.leads ok (execAttestReportBuilt slot s) := by
  unfold Machine.execAttestReportBuilt
  exact .guard hok (.ite (.next h) (.next h.drew.upd.setSelBlob.incO))

end Boot

/-! ### Writes of the dictionary -/

section DictWrite
variable {ok : Prop} {σ s τ : State} {rq v i j idx sub : Nat} {o : ObjDef} (h : σ.keeps s)
include h

theorem State.keeps.releaseLock : σ.keeps s.releaseLock := by
  unfold State.releaseLock
  exact h.setO.setO.setO

theorem State.keeps.takeLock : σ.keeps (s.takeLock rq).1 := by
  unfold State.takeLock
  exact .ite_fst h.incO (.ite_fst h (.ite_fst h.incO (h.setO.setO.setO.incO.when fun h => h.setDev)))

theorem State.keeps.giveLock : σ.keeps (s.giveLock rq).1 := by
  unfold State.giveLock
  exact .ite_fst h.releaseLock h

theorem State.keeps.closeSession {n : Nat} : σ.keeps (s.closeSession n) := by
  unfold State.closeSession
  exact h.unless fun h => (h.when fun h => h.releaseLock).loseOwner.dropCopies.upd.setSession

theorem State.keeps.rejudgeBanks : σ.keeps s.rejudgeBanks := by
  unfold State.rejudgeBanks
  exact h.upd

theorem State.keeps.probeWinnow : σ.keeps (s.probeWinnow rq) := by
  unfold State.probeWinnow
  exact h.setSel.setSel.setSel

theorem State.keeps.probeShuffle : σ.keeps (s.probeShuffle rq) := by
  unfold State.probeShuffle
  exact h.setSel.setSel

theorem State.keeps.resetGo : σ.keeps (s.resetGo).1 := by
  unfold State.resetGo
  exact .ite_fst h (.ite_fst h.setO (.ite_fst h h.upd.setO))

theorem State.keeps.semAct : σ.keeps (s.semAct rq v).1 := by
  unfold State.semAct
  exact .ite h.semActSet h.semRecover

theorem State.keeps.hostSem : σ.keeps (s.hostSem rq v).1 := by
  unfold State.hostSem
  extract_lets
  split
  rename_i t r hs
  have hr : σ.keeps t := by
    refine .of_eq ?_ hs
    split
    · exact h.semSignalOp
    · exact h.semTryOp
    · exact h.semLockTry
    · exact h.semUnlockOp
  split
  · exact hr
  all_goals exact hr.setSel

theorem State.keeps.askStart {e0 : Nat} : σ.keeps (s.askStart e0).1 := by
  unfold State.askStart
  exact .ite_fst h h.schedStart

theorem State.keeps.loadGo : σ.keeps (s.loadGo v).1 := by
  unfold State.loadGo
  exact .ite_fst h.furrowCancel (.ite_fst h.loadStatus (.ite_fst h h.furrowLoad))

theorem State.keeps.cribGo : σ.keeps (s.cribGo v).1 := by
  unfold State.cribGo
  exact .ite_fst (.ite_fst h h.writeMem.upd.setO.setO.setO.setO.setO) (.ite_fst h h.setO)

theorem State.keeps.ptpOff : σ.keeps s.ptpOff := by
  unfold State.ptpOff
  exact h.when fun h => h.setO

theorem State.keeps.followUp {old : State} : σ.keeps (s.followUp old) := by
  unfold State.followUp
  exact ((h.foldl fun _ _ h => h.unless fun h => h.portEnabled).foldl fun _ _ h => h.unless
    fun h => h.ethTrain).serveLeave.ptpOff

theorem State.keeps.storeCmd : σ.keeps (s.storeCmd v).1 := by
  unfold State.storeCmd
  exact .ite_fst h (.ite_fst h.beginStore (.ite_fst (.ite_fst h.setO h.loadC.skipped.followUp.redirty.setO)
    (h.foldl fun _ _ h => h.unless fun h => h.setO).followUp.redirty.setO))

theorem State.keeps.clearMask {m : Nat} : σ.keeps (s.clearMask o m) := by
  unfold State.clearMask
  exact h.setO

theorem State.keeps.writeSel : σ.keeps (s.writeSel rq o v) := by
  unfold State.writeSel
  exact .ite h.setSel.probeWinnow (h.setSel.when fun h => h.probeShuffle)

theorem State.keeps.writeValue : σ.keeps (s.writeValue o i j v) := by
  unfold State.writeValue
  exact (((((h.setO.when fun h => h.unless fun h => h.portEnabled).when fun h => h.unless fun h => h.ethTrain).when
    fun h => h.rejudgeBanks).when fun h => h.ptpOff).when fun h => h.serveLeave).when fun h => h.redirty

theorem State.offers.clearFlags : σ.offers (fun t => t) (s.clearFlags o i v) := by
  have hall : σ.keeps ((List.range coreCount).foldl (fun (s : State) n => s.clearBits Obj.CORE_NUMERIC_FLAGS v n) s)
    :=
    h.foldl fun _ _ h => h.clearBits
  unfold State.clearFlags
  exact .ite (.some hall) (.ite (.some h.clearBits) (.ite (.some h.clearMask.clearMask)
    (.ite (.some h.clearMask) (.ite (.some h.clearMask)
      (.ite (.some h.clearMask) (.ite (.some h.clearMask) .none))))))

theorem State.offers.command : σ.offers Prod.fst (s.command rq o i v) := by
  unfold State.command
  refine .ite (.some (.ite_fst h.takeLock h.giveLock)) (.ite (.some h.storeCmd) (.ite (.some h.closeSession)
    (.ite (.some h.resetGo) (.ite (.some h.lpRequest) (.ite .none (.ite (.some h.semAct) (.ite (.some h.hostSem)
    (.ite (.some h.askStart) (.ite (.some h.post) (.ite (.some h.loadGo) (.ite (.some h.portRetrain)
    (.ite (.some h.ethTrain) (.ite (.some (.ite_fst h h.setO)) (.ite (.some (.ite_fst h h.setO))
    (.ite (.some h.cribGo) (.ite (.some h.fwActivate) (.ite (.some h.fwAdvance) (.ite (.some (.ite_fst ?_ ?_))
    ?_))))))))))))))))))
  · exact (h.foldl fun _ _ h => h.setO).setO
  · exact h.upd.setO
  · intro r e
    obtain ⟨t, hclear, rfl⟩ := Option.map_eq_some_iff.mp e
    exact State.offers.clearFlags h t hclear

theorem State.keeps.applyWrite : σ.keeps (s.applyWrite rq o i j v).1 := by
  unfold State.applyWrite
  split
  · exact State.offers.command h _ ‹_›
  · refine .ite_fst ?_ (.ite_fst ?_ (.ite_fst ?_ (.ite_fst ?_ (.ite_fst h.writeSel h.writeValue))))
    · split
      · exact h.switchSrc ‹_›
      · exact h.incO
    · extract_lets
      split
      · exact h.setRing
      · exact h
    · extract_lets
      split
      · exact .setQp (.ite h.dropQpPackets h)
      · exact h
    · extract_lets
      split
      · exact h.setMr
      · exact h

theorem State.keeps.stateRule (e : s.stateRule o = some τ) : σ.keeps τ := by
  unfold State.stateRule at e
  split_ifs at e
  · split at e <;> cases e
    exact h.fwCode
  · cases e
    exact h.setO

theorem State.keeps.writeReq {own load : Bool} {t : Nat} {val : List Byte} :
    σ.keeps (s.writeReq rq own load idx sub t val).1 := by
  unfold State.writeReq
  split
  · exact h
  · exact h
  · refine .ite_fst h (.ite_fst h ?_)
    split
    · exact h.stateRule ‹_›
    · exact .ite_fst h (.ite_fst h h.applyWrite)

theorem State.keeps.readReq : σ.keeps (s.readReq rq idx sub).1 := by
  unfold State.readReq
  refine .ite_fst h ?_
  split
  · exact h
  · exact .ite_fst h (.ite_fst h (.ite_fst h h.readNum))

theorem State.leads.execResidueTestComplete {missed : Nat} : σ.leads ok (execResidueTestComplete missed s) := by
  unfold Machine.execResidueTestComplete
  exact .ite (.next h) (.ite (.next h.setO.setO) (.next h.setO.setO.post))

end DictWrite

/-! ### Loads and stores of the control core -/

section ScalarMem
variable {ok : Prop} {σ s : State} {noise n core ctx : Nat} {i : InsI} (h : σ.keeps s)
include h

theorem State.keeps.meshPass {dest src : Nat} : σ.keeps (s.meshPass noise dest src).1 := by
  unfold State.meshPass
  refine .ite_fst h ?_
  split
  · exact h
  · exact h.incO
  · exact h.incO.post

theorem State.keeps.loadRaw {a : Nat} {r : Region} : σ.keeps (s.loadRaw a n r).1 := by
  unfold State.loadRaw
  obtain ⟨read, hread⟩ := exists_name (s.readWindow rqCore)
  have hr : ∀ i j, σ.keeps (read i j).1 := fun _ _ => hread ▸ h.readWindow
  rw [hread]
  split
  · exact h
  · exact hr _ _
  · split
    · exact h.readMem.of_eq ‹_›
    · exact h.readMem.of_eq ‹_›

theorem State.leads.loadN (hok : ok → ¬(core ≥ 800 ∨ ctx ≥ 2048)) : σ.leads ok (s.loadN core ctx n i noise) := by
  unfold State.loadN
  refine .issue h hok fun _ h => ?_
  extract_lets
  split
  · exact h.trap fun _ h => h.setCtx
  · split
    · exact (h.loadRaw.of_eq ‹_›).trap fun _ h => h.setCtx
    · have h₁ := h.loadRaw.of_eq ‹_›
      refine .ite h₁.setCtx ?_
      split
      · exact (h₁.meshPass.of_eq ‹_›).trap fun _ h => h.setCtx
      · exact (h₁.meshPass.of_eq ‹_›).setCtx

theorem State.keeps.storeBell {off v : Nat} : σ.keeps (s.storeBell off n v) := by
  unfold State.storeBell
  exact .ite h.doorbell (h.drew.when fun h => h.doorbell)

theorem State.leads.storeN (hok : ok → ¬(core ≥ 800 ∨ ctx ≥ 2048)) : σ.leads ok (s.storeN core ctx n i) := by
  unfold State.storeN
  refine .issue h hok fun _ h => ?_
  extract_lets
  split
  · exact h.trapNop
  · exact h.storeBell.advance
  · split
    · exact (h.writeMem.of_eq ‹_›).trapNop
    · exact (h.writeMem.of_eq ‹_›).advance

end ScalarMem

/-! ### DMA -/

section Dma
variable {ok : Prop} {σ s : State} {o : Op} {id flit noise op : Nat} (h : σ.keeps s)
include h

theorem State.keeps.dmaCheck {c : Nat} : σ.keeps (dmaCheck c s o).1 := by
  unfold Machine.dmaCheck
  exact .ite_fst h h.tensorsThen

theorem State.keeps.dmaDone {u : TD} {w : Work} {f : Option Nat} : σ.keeps (dmaDone s id o u w f) := by
  unfold Machine.dmaDone
  split
  · exact h.incO.worked
  · exact h.incO.worked

theorem State.keeps.copyRun : σ.keeps (copyRun flit noise s id o) := by
  unfold Machine.copyRun
  split
  extract_lets
  split
  rename_i hread
  have hr := State.keeps.of_eq (.ite_fst h.meshPass h) hread
  split
  · exact hr.someOf.dmaDone
  · exact hr.runPieces.dmaDone

theorem State.keeps.fillRun : σ.keeps (fillRun s id o) := by
  unfold Machine.fillRun
  exact h.runPieces.dmaDone

theorem State.leads.execCopy : σ.leads ok (execCopy op flit noise s) := by
  unfold Machine.execCopy
  exact .next (h.runOp (fun _ _ h => h.dmaCheck) fun _ _ _ h => h.copyRun)

theorem State.leads.execFill : σ.leads ok (execFill op s) := by
  unfold Machine.execFill
  exact .next (h.runOp (fun _ _ h => h.dmaCheck) fun _ _ _ h => h.fillRun)

end Dma

/-! ### Sessions -/

section Session
variable {ok : Prop} {σ s : State} {n typ status idx sub slot offset total member value port core : Nat}
  {body data digest : List Byte} {hd : YHdr} {src : Src} {o : ObjDef} (h : σ.keeps s)
include h

theorem State.keeps.ySend {eport lip ip uport : Nat} {msg : List Byte} :
    σ.keeps (s.ySend eport lip ip uport msg) := by
  unfold State.ySend
  exact h.sendIp

theorem State.keeps.yAnswer {x : Session} {seq : Nat} : σ.keeps (s.yAnswer x n typ status seq body) := by
  unfold State.yAnswer
  exact h.ySend.unless fun h => h.setSession

theorem State.leads.onYdp {use : State → Out} (hok : ok → ¬hd.net.eport ≥ 2)
    (huse : ∀ s, σ.keeps s → σ.leads ok (use s)) : σ.leads ok (s.onYdp hd use) := by
  unfold State.onYdp
  exact .ite (.next h) (.onNet h hok huse)

theorem State.leads.serveReq {run : State → Nat → State × Nat × List Byte} (hok : ok → ¬hd.net.eport ≥ 2)
    (hrun : ∀ s n, σ.keeps s → σ.keeps (run s n).1) : σ.leads ok (s.serveReq hd typ body run) := by
  unfold State.serveReq
  exact .onYdp h hok fun _ h => .ite (.next h) (.ite (.next h.incO)
    (.ite (.next (.yAnswer (.ite_fst (hrun _ _ h.setSession) h.setSession))) (.ite (.next h.ySend) (.next h.incO))))

theorem State.leads.stewardReq {run : State → Nat → State × Nat × Nat} (hok : ok → ¬n ≥ 4)
    (hrun : ∀ s n, σ.keeps s → σ.keeps (run s n).1) : σ.leads ok (s.stewardReq n run) := by
  unfold State.stewardReq
  exact .guard hok (.ite (.next h) (.next (hrun _ _ h).emit))

theorem State.leads.doWrite {t : Nat} {val : List Byte} (hsrc : ok → src.present) :
    σ.leads ok (s.doWrite src idx sub t val) := by
  unfold State.doWrite
  split
  · refine .serveReq h hsrc fun s n h => ?_
    split
    exact h.writeReq.of_eq ‹_›
  · refine .stewardReq h hsrc fun s n h => ?_
    split
    exact h.writeReq.of_eq ‹_›

theorem State.leads.execRead (hsrc : ok → src.present) : σ.leads ok (execRead src idx sub s) := by
  unfold Machine.execRead
  split
  · refine .serveReq h hsrc fun s n h => ?_
    split
    exact h.readReq.of_eq ‹_›
  · refine .stewardReq h hsrc fun s n h => ?_
    split
    exact h.readReq.of_eq ‹_›

theorem State.keeps.helloRate : σ.keeps (s.helloRate).1 := by
  unfold State.helloRate
  exact .ite_fst h.incO h.upd

theorem State.keeps.helloAnswer {session : Nat} : σ.keeps (s.helloAnswer hd status session body) := by
  unfold State.helloAnswer
  exact h.ySend

theorem State.keeps.keyExchange {k : Nat} {pa ra : Nat × Nat} : σ.keeps (s.keyExchange hd body n k pa ra) := by
  obtain ⟨mul, hmul⟩ := exists_name mulG
  obtain ⟨shared, hshared⟩ := exists_name sharedPoint
  rw [State.keyExchange, hmul, hshared]
  extract_lets
  split
  · exact h.drew
  split
  · exact h.drew
  · exact h.drew.setSession.helloAnswer

theorem State.leads.execHello (hok : ok → ¬hd.net.eport ≥ 2) : σ.leads ok (execHello hd body s) := by
  unfold Machine.execHello
  refine .onYdp h hok fun _ h => ?_
  split
  · exact .next (h.helloRate.of_eq ‹_›)
  · have h₁ := h.helloRate.of_eq ‹_›
    refine .ite (.next h₁.helloAnswer) (.ite (.next h₁) ?_)
    split
    · exact .next h₁.keyExchange
    · exact .next h₁.helloAnswer
    · exact .next h₁

theorem State.leads.execConfirm (hok : ok → ¬hd.net.eport ≥ 2) : σ.leads ok (execConfirm hd body s) := by
  unfold Machine.execConfirm
  exact .ite (.serveReq h hok fun _ _ h => h) (.onYdp h hok fun _ h => .ite (.next h.incO)
    (.ite (.next h.incO) (.ite (.next h.yAnswer) (.ite (.next h.incO) (.next h.dropCopies.setSession.yAnswer)))))

theorem State.leads.execHandshakeTimeout (hok : ok → ¬slot ≥ 16) : σ.leads ok (execHandshakeTimeout slot s) := by
  unfold Machine.execHandshakeTimeout
  exact .guard hok (.ite (.next h.setSession) (.next h))

theorem State.leads.execSessionExpiry (hok : ok → ¬slot ≥ 16) : σ.leads ok (execSessionExpiry slot s) := by
  unfold Machine.execSessionExpiry
  exact .guard hok (.ite (.next h.closeSession) (.next h))

theorem State.leads.execClose (hok : ok → ¬hd.net.eport ≥ 2) : σ.leads ok (execClose hd s) := by
  unfold Machine.execClose
  exact .serveReq h hok fun _ _ h => h.closeSession

theorem State.leads.execPing (hok : ok → ¬hd.net.eport ≥ 2) : σ.leads ok (execPing hd s) := by
  unfold Machine.execPing
  exact .serveReq h hok fun _ _ h => h

theorem State.keeps.segPart {rq : Nat} : σ.keeps (s.segPart rq idx sub offset).1 := by
  unfold State.segPart
  refine .ite_fst h ?_
  split
  · exact h
  · exact .ite_fst h (.ite_fst h h)

theorem State.leads.execSegRead (hsrc : ok → src.present) : σ.leads ok (execSegRead src idx sub offset s) := by
  unfold Machine.execSegRead
  split
  · refine .serveReq h hsrc fun s n h => ?_
    split
    exact h.segPart.of_eq ‹_›
  · refine .stewardReq h hsrc fun s n h => ?_
    split
    exact h.segPart.of_eq ‹_›

theorem State.keeps.setSeg {g : Option SegW} : σ.keeps (s.setSeg n g) := by
  unfold State.setSeg
  exact h.setSession

theorem State.keeps.fwGate : σ.keeps (s.fwGate o).1 := by
  unfold State.fwGate
  refine .ite_fst h ?_
  split
  · exact h.fwCode
  · exact h

theorem State.keeps.segStart : σ.keeps (s.segStart n idx sub total).1 := by
  unfold State.segStart
  extract_lets
  split
  · exact h.setSeg
  · refine .ite_fst h.setSeg.fwGate (.ite_fst h.setSeg.fwGate ?_)
    split
    · exact h.setSeg.fwGate.setSeg
    · exact h.setSeg.fwGate.foldl fun _ _ h => h.setSeg

theorem State.leads.execSegWriteStart (hok : ok → ¬hd.net.eport ≥ 2) :
    σ.leads ok (execSegWriteStart hd idx sub total s) := by
  unfold Machine.execSegWriteStart
  exact .serveReq h hok fun _ _ h => h.segStart

theorem State.keeps.segData : σ.keeps (s.segData n offset data).1 := by
  unfold State.segData
  split
  · exact h
  · exact .ite_fst h h.setSeg

theorem State.leads.execSegWriteData (hok : ok → ¬hd.net.eport ≥ 2) :
    σ.leads ok (execSegWriteData hd offset data s) := by
  unfold Machine.execSegWriteData
  exact .serveReq h hok fun _ _ h => h.segData

theorem State.keeps.writeBlob {i : Nat} {bs : List Byte} : σ.keeps (s.writeBlob n o i bs).1 := by
  unfold State.writeBlob
  exact .ite_fst (.ite_fst h.upd.redirty h) (.ite_fst (.ite_fst h.askReport h)
    (.ite_fst h.fwCode (.ite_fst h.fwCode h.fwBegin)))

theorem State.keeps.segEnd : σ.keeps (s.segEnd n digest).1 := by
  unfold State.segEnd
  split
  · exact h
  · refine .ite_fst h ?_
    extract_lets
    split
    · exact h.setSeg
    · exact .ite_fst h.setSeg.fwGate h.setSeg.fwGate.writeBlob

theorem State.leads.endSegment (hok : ok → ¬hd.net.eport ≥ 2) : σ.leads ok (s.endSegment hd digest) := by
  unfold State.endSegment
  exact .serveReq h hok fun _ _ h => h.segEnd

theorem State.leads.execAttestNonce (hok : ok → ¬hd.net.eport ≥ 2) : σ.leads ok (execAttestNonce hd digest s) := by
  unfold Machine.execAttestNonce
  exact .ite (.endSegment h hok) (.next h)

theorem State.leads.execFwUpdateImage (hok : ok → ¬hd.net.eport ≥ 2) :
    σ.leads ok (execFwUpdateImage hd digest s) := by
  unfold Machine.execFwUpdateImage
  exact .ite (.endSegment h hok) (.next h)

theorem State.leads.writeObj {v : Nat} {i j : Nat} (hsrc : ok → src.present) :
    σ.leads ok (s.writeObj src o v i j) := by
  unfold State.writeObj
  exact .doWrite h hsrc

theorem State.leads.execQueueCfgWrite (hsrc : ok → src.present) :
    σ.leads ok (execQueueCfgWrite src member value s) := by
  unfold Machine.execQueueCfgWrite
  split
  · exact .writeObj h hsrc
  · exact .writeObj h hsrc
  · exact .writeObj h hsrc
  · exact .writeObj h hsrc
  · exact .writeObj h hsrc
  · exact .doWrite h hsrc

theorem State.leads.execPortRetrain (hok : ok → ¬port ≥ 8) (hsrc : ok → src.present) :
    σ.leads ok (execPortRetrain src port s) := by
  unfold Machine.execPortRetrain
  exact .guard hok (.writeObj h hsrc)

theorem State.leads.execPortEnable (hok : ok → ¬port ≥ 8) (hsrc : ok → src.present) :
    σ.leads ok (execPortEnable src port value s) := by
  unfold Machine.execPortEnable
  exact .guard hok (.writeObj h hsrc)

theorem State.leads.execEthRestart (hok : ok → ¬port ≥ 2) (hsrc : ok → src.present) :
    σ.leads ok (execEthRestart src port s) := by
  unfold Machine.execEthRestart
  exact .guard hok (.writeObj h hsrc)

theorem State.leads.execCoreFlagsClear {mask : Nat} (hok : ok → ¬core ≥ 800) (hsrc : ok → src.present) :
    σ.leads ok (execCoreFlagsClear src core mask s) := by
  unfold Machine.execCoreFlagsClear
  exact .guard hok (.writeObj h hsrc)

theorem State.leads.execWinnowProbe (hsrc : ok → src.present) : σ.leads ok (execWinnowProbe src member value s) := by
  unfold Machine.execWinnowProbe
  split
  · exact .writeObj h hsrc
  · exact .writeObj h hsrc
  · exact .writeObj h hsrc
  · exact .writeObj h hsrc
  · exact .writeObj h hsrc
  · exact .writeObj h hsrc
  · exact .doWrite h hsrc

theorem State.leads.execCoreExclude (hok : ok → ¬core ≥ 800) (hsrc : ok → src.present) :
    σ.leads ok (execCoreExclude src core value s) := by
  unfold Machine.execCoreExclude
  exact .guard hok (.writeObj h hsrc)

theorem State.leads.execClkCoreSrc {die : Nat} (hok : ok → ¬die ≥ 2) (hsrc : ok → src.present) :
    σ.leads ok (execClkCoreSrc src die value s) := by
  unfold Machine.execClkCoreSrc
  exact .guard hok (.writeObj h hsrc)

theorem State.leads.execStewardSemOperation {steward op sem arg : Nat} (hsem : ok → ¬(sem ≥ 4096 ∨ op = 0 ∨ op > 4))
    (hok : ok → ¬steward ≥ 4) : σ.leads ok (execStewardSemOperation steward op sem arg s) := by
  unfold Machine.execStewardSemOperation
  refine .guard hsem (.stewardReq h hok fun s _ h => ?_)
  extract_lets
  split
  rename_i t r hs
  have hr : σ.keeps t := by
    refine .of_eq ?_ hs
    split
    · exact h.semSignalOp
    · exact h.semTryOp
    · exact h.semLockTry
    · exact h.semUnlockOp
  split <;> exact hr

theorem State.leads.execErrorRecordReceive {rec : Nat} : σ.leads ok (execErrorRecordReceive rec s) := by
  unfold Machine.execErrorRecordReceive
  exact .ite (.next h) (.ite (.next h.toMaster) (.next h.masterRecord))

end Session

/-! ### Ethernet -/

section Eth
variable {ok : Prop} {σ s : State} {l : List Byte} {port target senderIp quanta prio n psn syndrome rkey k k2 : Nat}
  {p : RocePkt} {f : EthFrame} {last : Bool} {ppb : Int} (h : σ.keeps s)
include h

theorem State.leads.execEthLinkUp {l : LinkUp} (hok : ok → ¬l.port ≥ 2) : σ.leads ok (execEthLinkUp l s) := by
  unfold Machine.execEthLinkUp
  exact .guard hok (.ite (.next h) (.next h.setEth.setO))

theorem State.leads.execEthLinkDown (hok : ok → ¬port ≥ 2) : σ.leads ok (execEthLinkDown port s) := by
  unfold Machine.execEthLinkDown
  exact .guard hok (.next h.setO.upd)

theorem State.keeps.ptpGeneral {p : Nat} {m : List Byte} : σ.keeps (s.ptpGeneral p m) := by
  unfold State.ptpGeneral
  exact .ite h (.ite h.setEth (h.when fun h => h.setEth))

theorem State.keeps.frameUse {p : Nat} : σ.keeps (s.frameUse p f) := by
  unfold State.frameUse
  refine .ite (h.when fun h => h.learn) (.ite (h.when fun h => h.learn) ?_)
  split
  · exact h.ptpGeneral
  · exact h

theorem State.leads.execEthFrameReceive (hok : ok → ¬port ≥ 2) : σ.leads ok (execEthFrameReceive port f s) := by
  unfold Machine.execEthFrameReceive
  exact .onFrame h hok fun _ h => .ite (.next h.ethTook.frameUse) (.next h.ethDrop)

theorem State.leads.execArpRequest (hok : ok → ¬port ≥ 2) : σ.leads ok (execArpRequest port f target senderIp s) := by
  unfold Machine.execArpRequest
  exact .onFrame h hok fun _ h => .ite (.next h.ethTook.learn.transmit) (.next h.ethTook)

theorem State.leads.execNeighbourSolicitation (hok : ok → ¬port ≥ 2) :
    σ.leads ok (execNeighbourSolicitation port f target senderIp s) := by
  unfold Machine.execNeighbourSolicitation
  exact .onFrame h hok fun _ h => .ite (.next (h.ethTook.unless fun h => h.learn).transmit) (.next h.ethTook)

theorem State.leads.execEchoRequest (hok : ok → ¬port ≥ 2) :
    σ.leads ok (execEchoRequest port f target senderIp s) := by
  unfold Machine.execEchoRequest
  exact .onFrame h hok fun _ h => .ite (.next h.ethTook.sendIp) (.next h.ethDrop)

theorem State.keeps.sendPfc {p : Nat} {prios : List Nat} : σ.keeps (s.sendPfc p prios quanta) := by
  unfold State.sendPfc
  exact h.unless fun h => h.incO.sendFrame

theorem State.keeps.pfcJudge {p : Nat} : σ.keeps (s.pfcJudge p) := by
  unfold State.pfcJudge
  exact .ite h.setEth.sendPfc (h.when fun h => h.setEth.sendPfc)

theorem State.leads.execPfcXoffRepeat (hok : ok → ¬port ≥ 2) : σ.leads ok (execPfcXoffRepeat port s) := by
  unfold Machine.execPfcXoffRepeat
  exact .guard hok (.ite (.next h.sendPfc) (.next h))

theorem State.keeps.pauseTx {p : Nat} : σ.keeps (s.pauseTx p prio quanta) := by
  unfold State.pauseTx
  exact .ite h.resumeTx (h.unless fun h => h.setEth)

theorem State.leads.execPfcFrameReceive {x : PfcPause} (hok : ok → ¬port ≥ 2) :
    σ.leads ok (execPfcFrameReceive port f x s) := by
  unfold Machine.execPfcFrameReceive
  exact .guard hok (.ite (.next h) (.ite (.next h.ethCount.ethDrop)
    (.next (h.ethCount.ethTook.incO.foldl fun _ _ h => h.when fun h => h.pauseTx))))

theorem State.leads.execPfcPauseExpiry (hok : ok → ¬(port ≥ 2 ∨ prio ≥ 8)) :
    σ.leads ok (execPfcPauseExpiry port prio s) := by
  unfold Machine.execPfcPauseExpiry
  exact .guard hok (.next h.resumeTx)

theorem State.leads.execPfcStorm (hok : ok → ¬(port ≥ 2 ∨ prio ≥ 8)) : σ.leads ok (execPfcStorm port prio s) := by
  unfold Machine.execPfcStorm
  refine .guard hok ?_
  extract_lets
  split
  · exact .next h
  · exact .ite (.next h) (.next h.setEth.incO.post)

theorem State.keeps.roceSend {opcode : Nat} {payload : List Byte} :
    σ.keeps (s.roceSend n opcode psn syndrome payload) := by
  unfold State.roceSend
  exact h.sendIp

theorem State.keeps.roceAck : σ.keeps (s.roceAck n psn syndrome) := by
  unfold State.roceAck
  exact h.roceSend

theorem State.keeps.roceFail {cause : Nat} : σ.keeps (s.roceFail n psn syndrome cause) := by
  unfold State.roceFail
  exact h.roceAck.setQp

theorem State.keeps.roceAccess {addr : Nat} : σ.keeps (s.roceAccess n psn addr rkey) := by
  unfold State.roceAccess
  exact h.roceFail.incO.post

theorem State.keeps.bellWrite : σ.keeps (s.bellWrite k k2 l) := by
  induction k generalizing s k2 l with
  | zero => exact h
  | succ k ih =>
    unfold State.bellWrite
    exact ih h.doorbell

theorem State.keeps.roceTook : σ.keeps (s.roceTook n p last syndrome) := by
  unfold State.roceTook
  exact h.setQp.when fun h => h.roceAck

theorem State.keeps.writePacket {a left : Nat} : σ.keeps (s.writePacket n p rkey a left last) := by
  unfold State.writePacket
  exact .ite h.roceFail (.ite h.roceAccess (.ite (.roceFail (.ite_fst h.bellWrite h.writeMem))
    (State.keeps.setQp (.ite_fst h.bellWrite h.writeMem)).roceTook))

theorem State.keeps.takeWrite {ok : Bool} : σ.keeps (s.takeWrite n p ok) := by
  unfold State.takeWrite
  extract_lets
  split
  · exact .ite h.roceAccess h.writePacket
  · exact h.writePacket
  · exact h.roceFail

theorem State.keeps.putDescs {q i : Nat} : σ.keeps (s.putDescs q i k l).1 := by
  induction k generalizing s q i l with
  | zero => exact h
  | succ k ih =>
    unfold State.putDescs
    split
    · exact h.writeMem.of_eq ‹_›
    · exact ih (h.writeMem.of_eq ‹_›)

theorem State.keeps.sendMessage {bs : List Byte} : σ.keeps (s.sendMessage n p bs) := by
  unfold State.sendMessage
  split
  · exact h.roceFail
  · refine .ite h.roceFail (.ite h.roceAck ?_)
    split
    · exact (h.putDescs.of_eq ‹_›).roceFail
    · exact (h.putDescs.of_eq ‹_›).setRing.notify.setQp.roceTook

theorem State.keeps.takeSend : σ.keeps (s.takeSend n p) := by
  unfold State.takeSend
  extract_lets
  split
  · exact .ite (.ite h.roceFail (.ite h.sendMessage h.setQp.roceTook)) h.roceFail
  · exact .ite h.roceFail (.ite h.sendMessage h.setQp.roceTook)
  · exact h.roceFail

theorem State.keeps.sendParts {m : Nat} : σ.keeps (s.sendParts n psn m k k2 l) := by
  induction k2 generalizing s n psn m k l with
  | zero => exact h
  | succ k ih =>
    unfold State.sendParts
    exact ih h.roceSend

theorem State.keeps.takeRead {again ok : Bool} : σ.keeps (s.takeRead n p again ok) := by
  unfold State.takeRead
  exact .ite h.roceFail (.ite h.roceAccess (.ite (.roceFail (.ite_fst h h.readMem))
    ((State.keeps.sendParts (.ite_fst h h.readMem)).unless fun h => h.setQp)))

theorem State.keeps.takeOpcode {ok : Bool} : σ.keeps (s.takeOpcode n p ok) := by
  unfold State.takeOpcode
  exact .ite h.takeSend (.ite h.takeWrite (.ite h.takeRead h.roceFail))

theorem State.keeps.roceCe : σ.keeps (s.roceCe n p) := by
  unfold State.roceCe
  exact h.when fun h => h.roceSend.incO

theorem State.keeps.takePsn {ok : Bool} : σ.keeps (s.takePsn n p ok) := by
  unfold State.takePsn
  exact .ite h.takeOpcode (.ite (h.unless fun h => h.setQp.roceAck) (.ite h.takeRead (h.when fun h => h.roceAck)))

theorem State.keeps.takeCnp : σ.keeps (s.takeCnp n p) := by
  unfold State.takeCnp
  exact h.incO.unless fun h => h.setQp

theorem State.keeps.takeRoce {ok : Bool} : σ.keeps (s.takeRoce p ok) := by
  unfold State.takeRoce
  exact .ite h (.ite h.setQp.takeCnp h.setQp.roceCe.takePsn)

theorem State.leads.onRoce (hok : ok → ¬p.net.eport ≥ 2) : σ.leads ok (s.onRoce p) := by
  unfold State.onRoce
  exact .onNet h hok fun _ h => .ite (.next h.takeRoce) (.next h.upd.pfcJudge)

theorem State.leads.execRoceSend (hok : ok → ¬p.net.eport ≥ 2) : σ.leads ok (execRoceSend p s) := by
  unfold Machine.execRoceSend
  exact .ite (.onRoce h hok) (.next h)

theorem State.leads.execRdmaWrite (hok : ok → ¬p.net.eport ≥ 2) : σ.leads ok (execRdmaWrite p s) := by
  unfold Machine.execRdmaWrite
  exact .ite (.onRoce h hok) (.next h)

theorem State.leads.execRdmaReadRequest (hok : ok → ¬p.net.eport ≥ 2) : σ.leads ok (execRdmaReadRequest p s) := by
  unfold Machine.execRdmaReadRequest
  exact .ite (.onRoce h hok) (.next h)

theorem State.leads.execRoceInvalidOpcode (hok : ok → ¬p.net.eport ≥ 2) : σ.leads ok (execRoceInvalidOpcode p s) := by
  unfold Machine.execRoceInvalidOpcode
  exact .ite (.next h) (.onRoce h hok)

theorem State.leads.execCnp {us : Nat} (hok : ok → ¬p.net.eport ≥ 2) : σ.leads ok (execCnp p us s) := by
  unfold Machine.execCnp
  exact .ite (.onRoce h hok) (.next h)

theorem State.leads.execRoceRateIncrease {qp : Nat} (hok : ok → ¬(qp < qpBase ∨ qp ≥ qpBase + qpCount)) :
    σ.leads ok (execRoceRateIncrease qp s) := by
  unfold Machine.execRoceRateIncrease
  exact .guard hok (.ite (.next h) (.next h.setQp))

theorem State.keeps.steer : σ.keeps (s.steer ppb) := by
  unfold State.steer
  exact h.setI.upd.setO

theorem State.leads.execPtpEventMessage {t : PtpTimes} (hok : ok → ¬port ≥ 2) :
    σ.leads ok (execPtpEventMessage port f t ppb s) := by
  unfold Machine.execPtpEventMessage
  refine .onFrame h hok fun _ h => ?_
  split
  · exact .next h.ethDrop
  · exact .ite (.next h.ethDrop) (.ite (.next h.ethTook)
      (.ite (.next h.ethTook.setEth.transmit.steer) (.next h.ethTook.setEth.transmit)))

theorem State.keeps.resumeRoce : σ.keeps s.resumeRoce := by
  unfold State.resumeRoce
  exact (h.upd.foldl fun _ _ h => h.takeRoce).pfcJudge.pfcJudge

theorem State.leads.execFallowExitStep {good : Bool} {ms : Nat} : σ.leads ok (execFallowExitStep good ms s) := by
  unfold Machine.execFallowExitStep
  exact .ite (.next h) (.ite (.ite (.next h.upd.startPlls.resumeRoce) (.next h.setO.setO.post))
    (.ite (.next h.upd.setDev.setO.setO.trainPorts) (.ite (.next h.upd.setO.setO) (.next h))))

end Eth

/-! ### Readings and the fabric -/

section Fabric
variable {ok : Prop} {σ s : State} {subch : Nat} (h : σ.keeps s)
include h

theorem State.leads.execMemTempRead {package : Nat} {temp : Int} (hok : ok → ¬package ≥ 32) :
    σ.leads ok (execMemTempRead package temp s) := by
  unfold Machine.execMemTempRead
  exact .guard hok (.ite (.next h) (.next ((h.upd.when fun h => h.setI).when fun h => h.post)))

theorem State.leads.execRefresh {k : Nat} (hok : ok → ¬subch ≥ 256) : σ.leads ok (execRefresh subch k s) := by
  unfold Machine.execRefresh
  exact .guard hok (.next h)

theorem State.keeps.disturb {c e : Nat} : σ.keeps (s.disturb c e) := by
  unfold State.disturb
  exact (h.unless fun h => h.poke).upd

theorem State.leads.execMemScrubRead {upset0 upset1 : Nat} {late : Bool} (hok : ok → ¬subch ≥ 256) :
    σ.leads ok (execMemScrubRead subch upset0 upset1 late s) := by
  unfold Machine.execMemScrubRead
  exact .guard hok (.ite (.next h) (.ite (.next h.disturb.disturb.setSub.readCw.readCw.setO)
    (.next (h.disturb.disturb.setSub.readCw.readCw.setO.incO.upd.when fun h => h.incO.event))))

theorem State.leads.execBridgeFlitReceive {bridge dir : Nat} {noise : List Nat} {replayed : List (List Nat)}
    (hok : ok → ¬(bridge = 0 ∨ bridge > 3 ∨ dir > 1)) :
    σ.leads ok (execBridgeFlitReceive bridge dir noise replayed s) := by
  unfold Machine.execBridgeFlitReceive
  exact .guard hok (.ite (.next (h.unless fun h => h.incO).setCond)
    (.next (((((h.unless fun h => h.incO).unless fun h => h.incO).unless fun h => h.incO).drew.when
      fun h => h.holdNow).when fun h => h.post)))

theorem State.leads.execArbC3Window {point flits : Nat} (hok : ok → ¬(point ≥ 800 ∧ point ≠ 816 ∧ point ≠ 817)) :
    σ.leads ok (execArbC3Window point flits s) := by
  unfold Machine.execArbC3Window
  exact .guard hok (.ite (.next h.incO.event) (.next h))

end Fabric

/-! ### Instructions of the control core -/

section Scalar
variable {ok : Prop} {σ s : State} {core ctx : Nat} {i : InsA} (h : σ.keeps s)
include h

theorem State.leads.execAddi {i : InsI} (hok : ok → ¬(core ≥ 800 ∨ ctx ≥ 2048)) :
    σ.leads ok (execAddi core ctx i s) := by
  unfold Machine.execAddi
  exact .scalarOp h hok

theorem State.leads.execInsi {i : InsI} (hok : ok → ¬(core ≥ 800 ∨ ctx ≥ 2048)) :
    σ.leads ok (execInsi core ctx i s) := by
  unfold Machine.execInsi
  exact .scalarOp h hok

theorem State.leads.execFcmp (hok : ok → ¬(core ≥ 800 ∨ ctx ≥ 2048)) : σ.leads ok (execFcmp core ctx i s) := by
  unfold Machine.execFcmp
  exact .ite (.scalarOp h hok) (.issue h hok fun _ h => h.trapNop)

theorem State.leads.execFcvt (hok : ok → ¬(core ≥ 800 ∨ ctx ≥ 2048)) : σ.leads ok (execFcvt core ctx i s) := by
  unfold Machine.execFcvt
  exact .ite (.scalarOp h hok) (.issue h hok fun _ h => h.trapNop)

theorem State.leads.branch {i : InsI} {p : Nat → Nat → Bool} (hok : ok → ¬(core ≥ 800 ∨ ctx ≥ 2048)) :
    σ.leads ok (s.branch core ctx i p) := by
  unfold State.branch
  exact .issue h hok fun _ h => h.setCtx

theorem State.leads.execBeq {i : InsI} (hok : ok → ¬(core ≥ 800 ∨ ctx ≥ 2048)) :
    σ.leads ok (execBeq core ctx i s) := by
  unfold Machine.execBeq
  exact .branch h hok

theorem State.leads.execBne {i : InsI} (hok : ok → ¬(core ≥ 800 ∨ ctx ≥ 2048)) :
    σ.leads ok (execBne core ctx i s) := by
  unfold Machine.execBne
  exact .branch h hok

theorem State.leads.execBlt {i : InsI} (hok : ok → ¬(core ≥ 800 ∨ ctx ≥ 2048)) :
    σ.leads ok (execBlt core ctx i s) := by
  unfold Machine.execBlt
  exact .branch h hok

theorem State.leads.execBge {i : InsI} (hok : ok → ¬(core ≥ 800 ∨ ctx ≥ 2048)) :
    σ.leads ok (execBge core ctx i s) := by
  unfold Machine.execBge
  exact .branch h hok

theorem State.leads.execJal {i : InsI} (hok : ok → ¬(core ≥ 800 ∨ ctx ≥ 2048)) :
    σ.leads ok (execJal core ctx i s) := by
  unfold Machine.execJal
  exact .issue h hok fun _ h => h.setCtx

theorem State.leads.execJr {i : InsI} (hok : ok → ¬(core ≥ 800 ∨ ctx ≥ 2048)) : σ.leads ok (execJr core ctx i s) := by
  unfold Machine.execJr
  exact .issue h hok fun _ h => .ite h.trapNop h.setCtx

theorem State.leads.execSpawn (hok : ok → ¬(core ≥ 800 ∨ ctx ≥ 2048)) : σ.leads ok (execSpawn core ctx i s) := by
  unfold Machine.execSpawn
  exact .ite (.issue h hok (fun _ h => h.trapNop)) (.issue h hok (fun _ h => .ite h.setCtx h.setCtx.startCtx))

theorem State.leads.execHalt (hok : ok → ¬(core ≥ 800 ∨ ctx ≥ 2048)) : σ.leads ok (execHalt core ctx i s) := by
  unfold Machine.execHalt
  exact .ite (.issue h hok fun _ h => h.trapNop) (.issue h hok fun _ h => h.setCtx.unless fun h => h.modOp)

theorem State.leads.execRdst (hok : ok → ¬(core ≥ 800 ∨ ctx ≥ 2048)) : σ.leads ok (execRdst core ctx i s) := by
  unfold Machine.execRdst
  exact .ite (.issue h hok fun _ h => h.setCtx) (.issue h hok fun _ h => h.trapNop)

theorem State.leads.execWaitb (hok : ok → ¬(core ≥ 800 ∨ ctx ≥ 2048)) : σ.leads ok (execWaitb core ctx i s) := by
  unfold Machine.execWaitb
  exact .ite (.issue h hok fun _ h => h.trapNop) (.issue h hok fun _ h => .ite h.setCtx h.setCtx)

theorem State.leads.execWaitbResume (hok : ok → ¬(core ≥ 800 ∨ ctx ≥ 2048)) :
    σ.leads ok (execWaitbResume core ctx s) := by
  unfold Machine.execWaitbResume
  refine .guard hok ?_
  extract_lets
  split
  · exact .next (h.when fun h => h.setCtx)
  · exact .next h

theorem State.leads.execFence (hok : ok → ¬(core ≥ 800 ∨ ctx ≥ 2048)) : σ.leads ok (execFence core ctx i s) := by
  unfold Machine.execFence
  exact .ite (.issue h hok fun _ h => h.trapNop) (.issue h hok fun _ h => h.setCtx.fenceWake)

theorem State.leads.execDma (hok : ok → ¬(core ≥ 800 ∨ ctx ≥ 2048)) : σ.leads ok (execDma core ctx i s) := by
  unfold Machine.execDma
  refine .ite (.issue h hok fun _ h => h.trapNop) (.issue h hok fun _ h => .ite h.trapNop (.ite h.trapNop ?_))
  split
  · exact (h.readDesc.of_eq ‹_›).trapNop
  · have h₁ := h.readDesc.of_eq ‹_›
    exact h₁.advance.unless fun h => h.submitOp

theorem State.leads.semIns {f : State → Nat → Nat → SemWho → State × SemRes} (hok : ok → ¬(core ≥ 800 ∨ ctx ≥ 2048))
    (hf : ∀ s q n w, σ.keeps s → σ.keeps (f s q n w).1) : σ.leads ok (s.semIns core ctx i f) := by
  unfold State.semIns
  refine .issue h hok fun s h => ?_
  extract_lets
  split
  rename_i hs
  have hr := (hf _ _ _ _ h).of_eq hs
  extract_lets
  split
  · exact hr.setCtx
  · exact hr.setCtx
  · exact hr.setCtx
  · exact hr.trapNop
  · exact hr.setCtx
  · exact hr.setCtx

theorem State.leads.execSemSignal (hok : ok → ¬(core ≥ 800 ∨ ctx ≥ 2048)) :
    σ.leads ok (execSemSignal core ctx i s) := by
  unfold Machine.execSemSignal
  exact .semIns h hok fun _ _ _ _ h => h.semSignalOp

theorem State.leads.execSemWait (hok : ok → ¬(core ≥ 800 ∨ ctx ≥ 2048)) : σ.leads ok (execSemWait core ctx i s) := by
  unfold Machine.execSemWait
  exact .semIns h hok fun _ _ _ _ h => h.semWaitOp

theorem State.leads.execSemTry (hok : ok → ¬(core ≥ 800 ∨ ctx ≥ 2048)) : σ.leads ok (execSemTry core ctx i s) := by
  unfold Machine.execSemTry
  exact .semIns h hok fun _ _ _ _ h => h.semTryOp

theorem State.leads.execSemLock (hok : ok → ¬(core ≥ 800 ∨ ctx ≥ 2048)) : σ.leads ok (execSemLock core ctx i s) := by
  unfold Machine.execSemLock
  exact .semIns h hok fun _ _ _ _ h => h.semWaitOp

theorem State.leads.execSemUnlock (hok : ok → ¬(core ≥ 800 ∨ ctx ≥ 2048)) :
    σ.leads ok (execSemUnlock core ctx i s) := by
  unfold Machine.execSemUnlock
  exact .semIns h hok fun _ _ _ _ h => h.semUnlockOp

end Scalar

/-! ### Instructions of the vector engine -/

section Vector
variable {ok : Prop} {σ s : State} {core k ctx r n : Nat} {es : List Nat} {l xs : List (Nat × Except KCause Nat)}
  {i : InsV} {hd : Bool} (h : σ.keeps s)
include h

theorem State.keeps.touchSrcs {l : List VSrc} : σ.keeps (s.touchSrcs core es k l).1 := by
  induction l generalizing s core es k with
  | nil => exact h
  | cons a l ih =>
    unfold State.touchSrcs
    exact ih h.touchV

theorem State.keeps.substAll {c : KCause} : σ.keeps (s.substAll core ctx c es) := by
  unfold State.substAll
  exact h.foldl fun _ _ h => h.substitute

theorem State.keeps.actives : σ.keeps (s.actives core ctx i).1 := by
  unfold State.actives
  exact .ite_fst h (.ite_fst h.touchM (.ite_fst h.touchM h.touchM.substAll.upd))

theorem State.leads.vop {legal : Bool} {srcs : List VSrc} {f : State → List Nat → (Nat → Nat → Nat) → State}
    (hok : ok → ¬(core ≥ 800 ∨ ctx ≥ 2048)) (hf : ∀ s a a2, σ.keeps s → σ.keeps (f s a a2)) :
    σ.leads ok (s.vop core ctx i legal srcs f) := by
  unfold State.vop
  refine .issue h hok fun _ h => .ite h.trapNop (.ite h.advance ?_)
  split
  · exact (h.actives.of_eq ‹_›).kFault
  · have h₁ := h.actives.of_eq ‹_›
    exact .ite h₁.touchSrcs.kFault ((hf _ _ _ h₁.touchSrcs.substAll).when fun h => h.advance)

theorem State.keeps.putV {xs : List (Nat × Nat)} : σ.keeps (s.putV core r hd xs) := by
  unfold State.putV
  exact h.freshV.foldl fun _ _ h => h.setVelem

theorem State.keeps.vaccount {w : Work} : σ.keeps (s.vaccount core ctx w) := by
  unfold State.vaccount
  exact .ite h.ctxFlags.recordScale h.account

theorem State.keeps.elementwise {g : Nat → Fl Nat} : σ.keeps (s.elementwise core ctx i hd es g) := by
  unfold State.elementwise
  exact h.putV.vaccount

theorem State.leads.execVarith (hok : ok → ¬(core ≥ 800 ∨ ctx ≥ 2048)) : σ.leads ok (execVarith core ctx i s) := by
  unfold Machine.execVarith
  exact .vop h hok fun _ _ _ h => h.elementwise

theorem State.leads.execVsfn (hok : ok → ¬(core ≥ 800 ∨ ctx ≥ 2048)) : σ.leads ok (execVsfn core ctx i s) := by
  unfold Machine.execVsfn
  exact .vop h hok fun _ _ _ h => h.elementwise

theorem State.keeps.putM {xs : List (Nat × Bool)} : σ.keeps (s.putM core k xs) := by
  unfold State.putM
  exact h.freshM.foldl fun _ _ h => h.setMask

theorem State.leads.execVcmp (hok : ok → ¬(core ≥ 800 ∨ ctx ≥ 2048)) : σ.leads ok (execVcmp core ctx i s) := by
  unfold Machine.execVcmp
  exact .vop h hok fun _ _ _ h => h.putM.ctxFlags

theorem State.leads.execVsel (hok : ok → ¬(core ≥ 800 ∨ ctx ≥ 2048)) : σ.leads ok (execVsel core ctx i s) := by
  unfold Machine.execVsel
  exact .vop h hok fun _ _ _ h => .ite (State.keeps.touchV (.ite_fst h h.touchM)).touchV.putV
    (.ite (State.keeps.touchV (.ite_fst h h.touchM)).touchV.kFault
      (State.keeps.touchV (.ite_fst h h.touchM)).touchV.substAll.putV.upd)

theorem State.keeps.vread : σ.keeps (s.vread n l).1 := by
  induction l generalizing s with
  | nil => exact h
  | cons x xs ih =>
    obtain ⟨e, k | a⟩ := x
    · exact h
    · unfold State.vread
      split
      · exact h.readMem.of_eq ‹_›
      · have hx := ih (h.readMem.of_eq ‹_›)
        split
        · exact hx.of_eq ‹_›
        · exact hx.of_eq ‹_›

theorem State.keeps.someLoads : σ.keeps (s.someLoads core r hd n l) := by
  induction l generalizing s core r hd n with
  | nil => exact h
  | cons a l ih =>
    unfold State.someLoads
    refine ih ?_
    split
    · refine .ite ?_ h.drew
      split
      · exact (h.drew.readMem.of_eq ‹_›).putV
      · exact h.drew
    · exact h.drew

theorem State.keeps.substLoads : σ.keeps (s.substLoads core ctx hd n l).1 := by
  induction l generalizing s with
  | nil => exact h
  | cons x xs ih =>
    obtain ⟨e, k | a⟩ := x
    · exact ih h.substitute
    · unfold State.substLoads
      refine ih ?_
      split
      · exact h.readMem.of_eq ‹_›
      · exact (h.readMem.of_eq ‹_›).substitute.drew

theorem State.keeps.vloads : σ.keeps (s.vloads core ctx i xs) := by
  unfold State.vloads
  refine .ite h.substLoads.putV ?_
  split
  · exact .putV (h.vread.of_eq ‹_›)
  · refine .kFault (.someLoads ?_)
    split
    · exact h.readMem
    · exact h

theorem State.keeps.vwrite {val : Nat → Nat} : σ.keeps (s.vwrite n val l).1 := by
  induction l generalizing s with
  | nil => exact h
  | cons x xs ih =>
    obtain ⟨e, k | a⟩ := x
    · exact h
    · unfold State.vwrite
      split
      · exact h.writeMem.of_eq ‹_›
      · exact ih (h.writeMem.of_eq ‹_›)

theorem State.keeps.someStores {val : Nat → Nat} : σ.keeps (s.someStores n val l) := by
  induction l generalizing s n val with
  | nil => exact h
  | cons a l ih =>
    unfold State.someStores
    refine ih ?_
    split
    · refine .ite ?_ h.drew
      split
      · exact h.drew.writeMem.of_eq ‹_›
      · exact h.drew
    · exact h.drew

theorem State.keeps.substStores {val : Nat → Nat} : σ.keeps (s.substStores core ctx n val l) := by
  induction l generalizing s with
  | nil => exact h
  | cons x xs ih =>
    obtain ⟨e, k | a⟩ := x
    · exact ih h.substitute
    · unfold State.substStores
      split
      · exact ih (h.writeMem.of_eq ‹_›)
      · exact ih (h.writeMem.of_eq ‹_›).substitute

theorem State.keeps.vstores {val : Nat → Nat} : σ.keeps (s.vstores core ctx i val xs) := by
  unfold State.vstores
  refine .ite h.substStores ?_
  split
  · exact (h.vwrite.of_eq ‹_›)
  · refine .kFault (.someStores ?_)
    split
    · exact h.writeMem
    · exact h

theorem State.leads.execVld (hok : ok → ¬(core ≥ 800 ∨ ctx ≥ 2048)) : σ.leads ok (execVld core ctx i s) := by
  unfold Machine.execVld
  exact .vop h hok fun _ _ _ h => h.vloads

theorem State.leads.execVst (hok : ok → ¬(core ≥ 800 ∨ ctx ≥ 2048)) : σ.leads ok (execVst core ctx i s) := by
  unfold Machine.execVst
  exact .vop h hok fun _ _ _ h => h.vstores.drew

theorem State.leads.execVgather (hok : ok → ¬(core ≥ 800 ∨ ctx ≥ 2048)) : σ.leads ok (execVgather core ctx i s) := by
  unfold Machine.execVgather
  exact .vop h hok fun _ _ _ h => h.vloads

theorem State.leads.execVscatter (hok : ok → ¬(core ≥ 800 ∨ ctx ≥ 2048)) :
    σ.leads ok (execVscatter core ctx i s) := by
  unfold Machine.execVscatter
  exact .vop h hok fun _ _ _ h => h.vstores.drew

theorem State.keeps.putS {d v : Nat} : σ.keeps (s.putS core ctx d v) := by
  unfold State.putS
  exact h.setCtx

theorem State.leads.execVred (hok : ok → ¬(core ≥ 800 ∨ ctx ≥ 2048)) : σ.leads ok (execVred core ctx i s) := by
  unfold Machine.execVred
  exact .vop h hok fun _ _ _ h => .ite (.ite (.kFault (.ite_fst h h.touchM))
    ((State.keeps.substAll (.ite_fst h h.touchM)).unless fun h => h.upd).putS) h.putS.ctxFlags

theorem State.leads.execMop (hok : ok → ¬(core ≥ 800 ∨ ctx ≥ 2048)) : σ.leads ok (execMop core ctx i s) := by
  unfold Machine.execMop
  refine .vop h hok fun s _ _ h => ?_
  split
  rename_i hs
  have hr := State.keeps.of_eq (.ite_fst h h.touchM) hs
  split
  rename_i hs
  have hr := State.keeps.of_eq (.ite_fst hr hr.touchM) hs
  exact .ite hr.kFault (.ite hr.substAll.putM hr.substAll.putM.upd)

end Vector

/-! ### What the operands of a well-formed command say -/

theorem not_ge_of_decide {a n : Nat} (w : decide (a < n) = true) : ¬a ≥ n := (of_decide_eq_true w).not_ge

theorem not_ge_of_and {a n : Nat} {b : Bool} (w : (decide (a < n) && b) = true) : ¬a ≥ n :=
  not_ge_of_decide (Bool.and_elim_left w)

theorem ctx_of_wfCtx {core ctx : Nat} (w : wfCtx core ctx = true) : ¬(core ≥ 800 ∨ ctx ≥ 2048) :=
  not_or.mpr ⟨not_ge_of_and w, not_ge_of_decide (Bool.and_elim_right w)⟩

theorem ctx_of_and {core ctx : Nat} {b : Bool} (w : (wfCtx core ctx && b) = true) : ¬(core ≥ 800 ∨ ctx ≥ 2048) :=
  ctx_of_wfCtx (Bool.and_elim_left w)

theorem table_of_wfEntry {table epoch entry : Nat} (w : wfEntry table epoch entry = true) : ¬table ≥ tableCount :=
  not_ge_of_and (Bool.and_elim_left w)

theorem qp_of_wfQp {qp : Nat} (w : wfQp qp = true) : ¬(qp < qpBase ∨ qp ≥ qpBase + qpCount) := by
  unfold qpBase qpCount
  simp [wfQp] at w
  omega

theorem eport_of_net {n : Net} (w : n.wf = true) : ¬n.eport ≥ 2 := not_ge_of_and (Bool.and_elim_left w)

theorem eport_of_packet {p : RocePkt} (w : p.wf = true) : ¬p.net.eport ≥ 2 := eport_of_net (Bool.and_elim_left w)

theorem eport_of_header {h : YHdr} (w : h.wf = true) : ¬h.net.eport ≥ 2 :=
  eport_of_net (Bool.and_elim_left (Bool.and_elim_left w))

theorem eport_of_body {h : YHdr} {b : Bool} (w : (h.wf && b) = true) : ¬h.net.eport ≥ 2 :=
  eport_of_header (Bool.and_elim_left w)

theorem present_of_wfBody {src : Src} {typ : Nat} (w : src.wfBody typ = true) : src.present := by
  cases src with
  | ydp h => exact eport_of_body w
  | steward n f => exact not_ge_of_decide w

theorem present_of_and {src : Src} {typ : Nat} {b : Bool} (w : (src.wfBody typ && b) = true) : src.present :=
  present_of_wfBody (Bool.and_elim_left w)

/-! ### Every command -/

/-- The queue stays and memory keeps its form whatever command runs; a well-formed one answers a next state. -/
theorem exec_leads (c : Instr) (s : State) : s.leads (c.wf = true) (exec c s) := by
  cases c with
  | matmul _ => exact .execMatmul (.refl s)
  | matmulPartial _ => exact .execMatmulPartial (.refl s)
  | partialSum _ => exact .execPartialSum (.refl s)
  | permute _ => exact .execPermute (.refl s)
  | convert _ => exact .execConvert (.refl s)
  | runKernel _ => exact .execRunKernel (.refl s)
  | conv _ => exact .execConv (.refl s)
  | pool _ => exact .execPool (.refl s)
  | attn _ => exact .execAttn (.refl s)
  | attnPartial _ => exact .execAttnPartial (.refl s)
  | attnMerge _ => exact .execAttnMerge (.refl s)
  | cribAppend _ => exact .execCribAppend (.refl s)
  | cribShare _ => exact .execCribShare (.refl s)
  | cribFree _ => exact .execCribFree (.refl s)
  | cribReclaim => exact .execCribReclaim (.refl s)
  | copy _ _ _ => exact .execCopy (.refl s)
  | fill _ => exact .execFill (.refl s)
  | groupStep _ => exact .execGroupStep (.refl s)
  | groupStepLocal _ => exact .execGroupStepLocal (.refl s)
  | updateElementApply _ _ => exact .execUpdateElementApply (.refl s)
  | baleReduce _ => exact .execBaleReduce (.refl s)
  | baleStart _ _ => exact .execBaleStart (.refl s)
  | reductionPacketReceive _ _ _ => exact .execReductionPacketReceive (.refl s) not_ge_of_and
  | threshRun _ => exact .execThreshRun (.refl s)
  | mergeLoad _ => exact .execMergeLoad (.refl s)
  | sampleDescriptorTake _ => exact .execSampleDescriptorTake (.refl s) not_ge_of_decide
  | sampleDecodeComplete _ _ => exact .execSampleDecodeComplete (.refl s) not_ge_of_decide
  | slotEmit _ => exact .execSlotEmit (.refl s) not_ge_of_decide
  | opWaitGrant _ => exact .execOpWaitGrant (.refl s)
  | opLeaveGrant | reservationRetry => exact .next (State.keeps.refl s).serveLeave
  | operationComplete _ => exact .execOperationComplete (.refl s)
  | opAbandoned _ => exact .execOpAbandoned (.refl s)
  | add _ _ _ | sub _ _ _ | mul _ _ _ | divu _ _ _ | and _ _ _ | or _ _ _ | xor _ _ _ | shl _ _ _ | shr _ _ _
  | sar _ _ _ | slt _ _ _ | sltu _ _ _ | fadd _ _ _ | fmul _ _ _ | ffma _ _ _ | setrc _ _ _ | setvl _ _ _ =>
    exact .plainA (.refl s) ctx_of_and
  | addi _ _ _ => exact .execAddi (.refl s) ctx_of_and
  | insi _ _ _ => exact .execInsi (.refl s) ctx_of_and
  | fcmp _ _ _ => exact .execFcmp (.refl s) ctx_of_and
  | fcvt _ _ _ => exact .execFcvt (.refl s) ctx_of_and
  | ld8 _ _ _ _ | ld16 _ _ _ _ | ld32 _ _ _ _ | ld64 _ _ _ _ => exact .loadN (.refl s) ctx_of_and
  | st8 _ _ _ | st16 _ _ _ | st32 _ _ _ | st64 _ _ _ => exact .storeN (.refl s) ctx_of_and
  | beq _ _ _ => exact .execBeq (.refl s) ctx_of_and
  | bne _ _ _ => exact .execBne (.refl s) ctx_of_and
  | blt _ _ _ => exact .execBlt (.refl s) ctx_of_and
  | bge _ _ _ => exact .execBge (.refl s) ctx_of_and
  | jal _ _ _ => exact .execJal (.refl s) ctx_of_and
  | jr _ _ _ => exact .execJr (.refl s) ctx_of_and
  | semSignal _ _ _ => exact .execSemSignal (.refl s) ctx_of_and
  | semWait _ _ _ => exact .execSemWait (.refl s) ctx_of_and
  | semTry _ _ _ => exact .execSemTry (.refl s) ctx_of_and
  | semLock _ _ _ => exact .execSemLock (.refl s) ctx_of_and
  | semUnlock _ _ _ => exact .execSemUnlock (.refl s) ctx_of_and
  | semWaitReissue _ => exact .execSemWaitReissue (.refl s)
  | waitb _ _ _ => exact .execWaitb (.refl s) ctx_of_and
  | waitbResume _ _ => exact .execWaitbResume (.refl s) ctx_of_wfCtx
  | fence _ _ _ => exact .execFence (.refl s) ctx_of_and
  | dma _ _ _ => exact .execDma (.refl s) ctx_of_and
  | spawn _ _ _ => exact .execSpawn (.refl s) ctx_of_and
  | halt _ _ _ => exact .execHalt (.refl s) ctx_of_and
  | rdst _ _ _ => exact .execRdst (.refl s) ctx_of_and
  | varith _ _ _ => exact .execVarith (.refl s) ctx_of_and
  | vsfn _ _ _ => exact .execVsfn (.refl s) ctx_of_and
  | vcmp _ _ _ => exact .execVcmp (.refl s) ctx_of_and
  | vsel _ _ _ => exact .execVsel (.refl s) ctx_of_and
  | vld _ _ _ => exact .execVld (.refl s) ctx_of_and
  | vst _ _ _ => exact .execVst (.refl s) ctx_of_and
  | vgather _ _ _ => exact .execVgather (.refl s) ctx_of_and
  | vscatter _ _ _ => exact .execVscatter (.refl s) ctx_of_and
  | vred _ _ _ => exact .execVred (.refl s) ctx_of_and
  | mop _ _ _ => exact .execMop (.refl s) ctx_of_and
  | producerDoorbell _ _ => exact .execProducerDoorbell (.refl s) not_ge_of_and
  | consumerDoorbell _ _ => exact .execConsumerDoorbell (.refl s) not_ge_of_and
  | commandDescriptorTake _ => exact .execCommandDescriptorTake (.refl s) not_ge_of_decide
  | queueCfgWrite _ _ _ => exact .execQueueCfgWrite (.refl s) fun w => present_of_and (Bool.and_elim_left w)
  | hostSemSignal _ | hostSemTry _ | hostSemLock _ | hostSemUnlock _ | semActSet _ | semRecoveryClear _
  | furrowLoad _ | furrowSwapCancel _ | schedStop _ | sessionSelClose _ | ownerLockTake _
  | ownerLockRelease _ | store _ | restore _ | defaults _ | attnEmptyFlagClear _ | errClearCounts _
  | errClearFaultMap _ | cribPoolInit _ | cribPoolRelease _ | matrixSelftestRun _ | reduceResidueTest _
  | fwSvnAdvance _ | p0Request _ | p1Request _ | fallowRequest _ =>
    exact .writeObj (.refl s) present_of_wfBody
  | furrowStart _ _ _ => exact .execFurrowStart (.refl s) table_of_wfEntry
  | furrowSignal _ _ _ => exact .execFurrowSignal (.refl s) table_of_wfEntry
  | furrowMark _ _ _ => exact .execFurrowMark (.refl s) table_of_wfEntry
  | portSlot _ _ _ => exact .execPortSlot (.refl s) fun w => by simp [Instr.wf, wfEntry] at w; omega
  | watchPoint _ _ _ => exact .execWatchPoint (.refl s) table_of_wfEntry
  | reservationPoint _ _ _ => exact .execReservationPoint (.refl s) table_of_wfEntry
  | overrun _ _ _ => exact .execOverrun (.refl s) table_of_wfEntry
  | furrowLoadComplete => exact .execFurrowLoadComplete (.refl s)
  | bankSwap _ => exact .execBankSwap (.refl s) not_ge_of_decide
  | almanacTick => exact .execAlmanacTick (.refl s)
  | beaconSend => exact .execBeaconSend (.refl s)
  | beaconReceive _ _ _ _ => exact .execBeaconReceive (.refl s) not_ge_of_and
  | almanacLost => exact .execAlmanacLost (.refl s)
  | lockHopsReport _ _ _ => exact .execLockHopsReport (.refl s)
  | hold _ _ => exact .execHold (.refl s) not_ge_of_and
  | release _ _ => exact .execRelease (.refl s) not_ge_of_and
  | resume _ _ => exact .execResume (.refl s) not_ge_of_and
  | masterResume => exact .execMasterResume (.refl s)
  | holdLimit => exact .execHoldLimit (.refl s)
  | schedStart _ _ | numericFlagsClear _ _ | updateFlagsClear _ _ | reduceFlagsClear _ _
  | threshFlagsClear _ _ | supplyWarnClear _ _ | pllLossClear _ _ | shufProbe _ _ | shufSamplesWrite _ _
  | fwActivate _ _ =>
    exact .writeObj (.refl s) present_of_and
  | start _ _ => exact .execStart (.refl s) not_ge_of_and
  | startTick => exact .execStartTick (.refl s)
  | stopRequest _ _ => exact .execStopRequest (.refl s) not_ge_of_and
  | stop _ _ => exact .execStop (.refl s) not_ge_of_and
  | stopComplete => exact .execStopComplete (.refl s)
  | epochBoundary _ _ => exact .execEpochBoundary (.refl s)
  | stepBoundary => exact .execStepBoundary (.refl s)
  | censusRecordReceive _ _ _ => exact .execCensusRecordReceive (.refl s)
  | ptpEventMessage _ _ _ _ => exact .execPtpEventMessage (.refl s) not_ge_of_and
  | ptpSourceLost => exact .execPtpSourceLost (.refl s)
  | linkFrameReceive _ _ => exact .execLinkFrameReceive (.refl s) not_ge_of_and
  | linkFrameTransmit _ => exact .execLinkFrameTransmit (.refl s) not_ge_of_and
  | sendDataReceive _ _ _ _ _ _ _ => exact .execSendDataReceive (.refl s) fun w => by simp [Instr.wf] at w; omega
  | portFecLock _ => exact .execPortFecLock (.refl s) not_ge_of_decide
  | portCheck _ _ _ _ _ _ => exact .execPortCheck (.refl s) not_ge_of_decide
  | portTrainTimeout _ => exact .execPortTrainTimeout (.refl s) not_ge_of_decide
  | portFecLoss _ => exact .execPortFecLoss (.refl s) not_ge_of_decide
  | portFecRateWindow _ => exact .execPortFecRateWindow (.refl s) not_ge_of_decide
  | laserLow _ _ => exact .execLaserLow (.refl s) not_ge_of_decide
  | portRetrain _ _ => exact .execPortRetrain (.refl s) (fun w => by simp [Instr.wf] at w; omega) present_of_and
  | ethFrameReceive _ _ => exact .execEthFrameReceive (.refl s) not_ge_of_and
  | arpRequest _ _ _ _ => exact .execArpRequest (.refl s) fun w => by simp [Instr.wf] at w; omega
  | neighbourSolicitation _ _ _ _ =>
    exact .execNeighbourSolicitation (.refl s) fun w => by simp [Instr.wf] at w; omega
  | echoRequest _ _ _ _ => exact .execEchoRequest (.refl s) fun w => by simp [Instr.wf] at w; omega
  | roceSend _ => exact .execRoceSend (.refl s) eport_of_packet
  | rdmaWrite _ => exact .execRdmaWrite (.refl s) eport_of_packet
  | rdmaReadRequest _ => exact .execRdmaReadRequest (.refl s) eport_of_packet
  | cnp _ _ => exact .execCnp (.refl s) eport_of_packet
  | roceInvalidOpcode _ => exact .execRoceInvalidOpcode (.refl s) eport_of_packet
  | roceRateIncrease _ => exact .execRoceRateIncrease (.refl s) qp_of_wfQp
  | pfcFrameReceive _ _ _ => exact .execPfcFrameReceive (.refl s) fun w => by simp [Instr.wf] at w; omega
  | pfcXoffRepeat _ => exact .execPfcXoffRepeat (.refl s) not_ge_of_decide
  | pfcStorm _ _ => exact .execPfcStorm (.refl s) fun w => by simp [Instr.wf] at w; omega
  | ethRestart _ _ => exact .execEthRestart (.refl s) (fun w => by simp [Instr.wf] at w; omega) present_of_and
  | hello _ _ => exact .execHello (.refl s) eport_of_body
  | confirm _ _ => exact .execConfirm (.refl s) eport_of_body
  | handshakeTimeout _ => exact .execHandshakeTimeout (.refl s) not_ge_of_decide
  | read _ _ _ => exact .execRead (.refl s) present_of_and
  | write _ _ _ _ _ => exact .doWrite (.refl s) fun w => present_of_and (Bool.and_elim_left w)
  | segRead _ _ _ _ => exact .execSegRead (.refl s) fun w => present_of_and (Bool.and_elim_left w)
  | segWriteStart _ _ _ _ =>
    exact .execSegWriteStart (.refl s) fun w => eport_of_body (Bool.and_elim_left (Bool.and_elim_left w))
  | segWriteData _ _ _ => exact .execSegWriteData (.refl s) fun w => eport_of_body (Bool.and_elim_left w)
  | segWriteEnd _ _ => exact .endSegment (.refl s) eport_of_body
  | close _ => exact .execClose (.refl s) eport_of_body
  | ping _ => exact .execPing (.refl s) eport_of_body
  | sessionExpiry _ => exact .execSessionExpiry (.refl s) not_ge_of_decide
  | storeComplete _ _ => exact .execStoreComplete (.refl s)
  | coreFlagsClear _ _ _ =>
    exact .execCoreFlagsClear (.refl s) (fun w => by simp [Instr.wf] at w; omega)
      fun w => present_of_and (Bool.and_elim_left w)
  | winnowProbe _ _ _ => exact .execWinnowProbe (.refl s) fun w => present_of_and (Bool.and_elim_left w)
  | matrixSelftestComplete _ => exact .execMatrixSelftestComplete (.refl s)
  | residueTestComplete _ => exact .execResidueTestComplete (.refl s)
  | coreExclude _ _ _ =>
    exact .execCoreExclude (.refl s) (fun w => by simp [Instr.wf] at w; omega)
      fun w => present_of_and (Bool.and_elim_left w)
  | attestNonce _ _ => exact .execAttestNonce (.refl s) eport_of_body
  | attestReportBuilt _ => exact .execAttestReportBuilt (.refl s) not_ge_of_decide
  | fwUpdateImage _ _ => exact .execFwUpdateImage (.refl s) eport_of_body
  | fwStageComplete _ => exact .execFwStageComplete (.refl s)
  | fwSelfConfirm _ => exact .execFwSelfConfirm (.refl s) fun w => by simp [Instr.wf] at w; omega
  | fwTrialExpired _ => exact .execFwTrialExpired (.refl s) fun w => by simp [Instr.wf] at w; omega
  | warm => exact .execWarm (.refl s)
  | dieReset _ => exact .execDieReset (.refl s) not_ge_of_decide
  | coreReset _ => exact .execCoreReset (.refl s) not_ge_of_decide
  | portReset _ => exact .execPortReset (.refl s) not_ge_of_decide
  | fieldRestart => exact .execFieldRestart (.refl s)
  | por => exact .execPor (.refl s)
  | powerUp => exact .execPowerUp (.refl s)
  | resetN _ => exact .execResetN (.refl s)
  | bootStageComplete _ _ => exact .execBootStageComplete (.refl s)
  | stewardWatchdog _ => exact .execStewardWatchdog (.refl s) not_ge_of_decide
  | p1Exit => exact .execP1Exit (.refl s)
  | fallowExitStep _ _ => exact .execFallowExitStep (.refl s)
  | supplyWarning _ _ => exact .execSupplyWarning (.refl s) not_ge_of_decide
  | supplyRecovery => exact .execSupplyRecovery (.refl s)
  | supplyReset _ _ => exact .execSupplyReset (.refl s) not_ge_of_decide
  | powerOverLimit _ => exact .execPowerOverLimit (.refl s)
  | leaveCorrectionUpdate _ _ => exact .execLeaveCorrectionUpdate (.refl s)
  | thermalReading _ _ _ => exact .execThermalReading (.refl s)
  | thermtrip _ => exact .execThermtrip (.refl s) fun w => by simp [Instr.wf] at w; omega
  | clkRampStep _ => exact .execClkRampStep (.refl s) not_ge_of_decide
  | clkCoreSrc _ _ _ =>
    exact .execClkCoreSrc (.refl s) (fun w => by simp [Instr.wf] at w; omega)
      fun w => present_of_and (Bool.and_elim_left w)
  | pllReferenceLoss _ _ => exact .execPllReferenceLoss (.refl s) not_ge_of_decide
  | pllRelock _ => exact .execPllRelock (.refl s) not_ge_of_decide
  | clockLossStop _ => exact .execClockLossStop (.refl s) not_ge_of_decide
  | memTempRead _ _ => exact .execMemTempRead (.refl s) not_ge_of_decide
  | refresh _ bank => exact .execRefresh (k := bank) (.refl s) not_ge_of_decide
  | memScrubRead _ _ _ _ => exact .execMemScrubRead (.refl s) fun w => not_ge_of_and (Bool.and_elim_left w)
  | bridgeFlitReceive _ _ _ _ => exact .execBridgeFlitReceive (.refl s) fun w => by simp [Instr.wf] at w; omega
  | arbC3Window _ _ => exact .execArbC3Window (.refl s) fun w => by simp [Instr.wf] at w; omega
  | errorRecordReceive _ => exact .execErrorRecordReceive (.refl s)
  | laserInputPresent _ _ => exact .execLaserInputPresent (.refl s) not_ge_of_decide
  | portEnable _ _ _ =>
    exact .execPortEnable (.refl s) (fun w => by simp [Instr.wf] at w; omega)
      fun w => present_of_and (Bool.and_elim_left w)
  | ethLinkUp _ => exact .execEthLinkUp (.refl s) not_ge_of_decide
  | ethLinkDown _ => exact .execEthLinkDown (.refl s) not_ge_of_decide
  | pfcPauseExpiry _ _ => exact .execPfcPauseExpiry (.refl s) fun w => by simp [Instr.wf] at w; omega
  | overLimitFreezeEnd _ => exact .execOverLimitFreezeEnd (.refl s)
  | fallowEntryStep => exact .execFallowEntryStep (.refl s)
  | resetComplete => exact .execResetComplete (.refl s)
  | stewardSemOperation _ _ _ _ =>
    exact .execStewardSemOperation (.refl s) (fun w => by simp [Instr.wf] at w; omega)
      fun w => by simp [Instr.wf] at w; omega

/-- Settles O4: `exec_leads` says of every command that its next state has the queue of the state it runs on. -/
theorem commandsLeaveQueueAlone : Obligations.CommandsLeaveQueueAlone := by
  refine ⟨fun c s t ht => ((exec_leads c s).keeps_of t ht).queue, fun c cs s t hs ht => ?_⟩
  rw [stepTakesFrontCommand.2.1 s c cs hs] at ht
  exact ((exec_leads c { s with pending := cs }).keeps_of t ht).queue

/-- Settles O5: `exec_leads` says of every well-formed command that it answers a next state. -/
theorem wellFormedCommandsComplete : Obligations.WellFormedCommandsComplete :=
  fun c s hc => (exec_leads c s).next_of hc

end Sys2Proof.Machine

namespace Sys2Proof.Machine

/-! ### The effect of an accepted write (R462) -/

/-- A number of the dictionary that may be written, and whose indexes and subindexes name no other object. -/
def ObjDef.writable (o : ObjDef) : Bool :=
  decide ((allObjs.find? fun p => decide (p.index = o.index) && decide (p.sub = o.sub)) = some o ∧
    (∀ p ∈ allObjs, p.index + p.reps ≤ o.index ∨ o.index + o.reps ≤ p.index ∨ p.sub + p.subs ≤ o.sub ∨
      o.sub + o.subs ≤ p.sub ∨ p = o) ∧
    (∀ i < o.reps, ownedIndex (o.index + i) = true) ∧ o.ty ≠ .blob ∧ o.ty ≠ .str ∧ o.acc ≠ .ro)

theorem findObj_of_writable {o : ObjDef} {i j : Nat} (h : o.writable = true) (hi : i < o.reps) (hj : j < o.subs) :
    findObj (o.index + i) (o.sub + j) = some (o, i, j) := by
  obtain ⟨hmem, hothers, -⟩ := of_decide_eq_true h
  have hfind : ∀ l : List ObjDef, o ∈ l → (∀ p ∈ l, p ∈ allObjs) →
      (l.find? fun p => decide (p.index ≤ o.index + i) && decide (o.index + i < p.index + p.reps) &&
        decide (p.sub ≤ o.sub + j) && decide (o.sub + j < p.sub + p.subs)) = some o := by
    intro l ho hl
    induction l with
    | nil => cases ho
    | cons p l ih =>
      rw [List.find?_cons]
      by_cases hp : p = o
      · subst hp
        simp [hi, hj]
      · have hapart := hothers p (hl p List.mem_cons_self)
        simp only [hp, or_false] at hapart
        have hin : (decide (p.index ≤ o.index + i) && decide (o.index + i < p.index + p.reps) &&
            decide (p.sub ≤ o.sub + j) && decide (o.sub + j < p.sub + p.subs)) = false := by
          simp only [Bool.and_eq_false_iff, decide_eq_false_iff_not]
          omega
        rw [hin]
        exact ih ((List.mem_cons.1 ho).resolve_left (Ne.symm hp)) fun q hq => hl q (List.mem_cons_of_mem _ hq)
  unfold findObj
  rw [hfind allObjs (List.mem_of_find?_eq_some hmem) fun _ hp => hp]
  simp

/-- An accepted write has the effect and the STATUS of its object. -/
theorem State.writeObj_effect {s : State} {src : Src} {o : ObjDef} {i j v : Nat} {w : State} {st : Nat}
    (h : s.acceptedWrite src o i j v) (ho : o.writable = true) (hi : i < o.reps) (hj : j < o.subs)
    (hz : v ≠ 0 ∨ zeroIdle o = false) (he : (s.taken src).applyWrite src.rq o i j v = (w, st)) :
    s.writeObj src o v i j = .next (w.answered s src 4 st 0 []) := by
  obtain ⟨-, -, howned, hblob, hstr, hro⟩ := of_decide_eq_true ho
  rw [State.writeObj_accepted s src o i j v h (findObj_of_writable ho hi hj) (howned i hi) ⟨hblob, hstr⟩ hro hz, he]

theorem State.applyWrite_command {s : State} {rq : Nat} {o : ObjDef} {i j v : Nat} {r : State × Nat}
    (h : s.command rq o i v = some r) : s.applyWrite rq o i j v = r := by
  unfold State.applyWrite
  rw [h]

/-! ### Flags that a write clears (R51, R224, R478) -/

/-- From s to t the bits of m have been cleared in the flag words `fs`, and nothing else has changed. -/
structure State.cleared (s : State) (m : Nat) (fs : List (ObjDef × Nat)) (t : State) : Prop where
  rest : t = { s with obj := t.obj }
  bits : ∀ f ∈ fs, ∀ k < 8 * f.1.ty.bytes, bit (t.getO f.1 f.2) k = (bit (s.getO f.1 f.2) k && !bit m k)
  kept : ∀ p k l, (∀ f ∈ fs, p.key k l ≠ f.1.key f.2 0) → t.getO p k l = s.getO p k l

theorem State.cleared.nil (s : State) (m : Nat) : s.cleared m [] s :=
  ⟨rfl, fun _ h => absurd h List.not_mem_nil, fun _ _ _ _ => rfl⟩

/-- Words cleared after others that have different keys. -/
theorem State.cleared.append {s t u : State} {m : Nat} {fs gs : List (ObjDef × Nat)} (h : s.cleared m fs t)
    (h' : t.cleared m gs u) (hne : ∀ f ∈ fs, ∀ g ∈ gs, f.1.key f.2 0 ≠ g.1.key g.2 0) : s.cleared m (fs ++ gs) u := by
  refine ⟨by rw [h'.rest, h.rest], fun f hf k hk => ?_, fun p k l hp => ?_⟩
  · rcases List.mem_append.1 hf with hf | hf
    · rw [h'.kept _ _ _ (hne f hf)]
      exact h.bits f hf k hk
    · rw [h'.bits f hf k hk, h.kept _ _ _ fun g hg e => hne g hg f hf e.symm]
  · rw [h'.kept p k l fun g hg => hp g (List.mem_append_right _ hg), h.kept p k l fun f hf => hp f (List.mem_append_left _ hf)]

theorem State.cleared_setO {s : State} {m v : Nat} {o : ObjDef} {i : Nat}
    (hv : ∀ k < 8 * o.ty.bytes, bit v k = (bit (s.getO o i) k && !bit m k)) : s.cleared m [(o, i)] (s.setO o v i) := by
  refine ⟨rfl, fun f hf k hk => ?_, fun p k l hp => ?_⟩
  · obtain rfl := List.mem_singleton.1 hf
    rw [State.getO_setO_same]
    exact hv k hk
  · have hne : p.key k l ≠ o.key i 0 := hp (o, i) (List.mem_singleton_self _)
    exact State.getO_setO_ne _ _ _ _ _ _ _ _ hne

/-- `clearBits` speaks of the low 8 bits, which are all of a word of one byte. -/
theorem State.cleared_clearBits (s : State) {o : ObjDef} (m i : Nat) (h : o.ty.bytes = 1) :
    s.cleared m [(o, i)] (s.clearBits o m i) := by
  refine State.cleared_setO fun k hk => ?_
  rw [h] at hk
  change (s.getO o i &&& ((2 ^ 8 - 1) ^^^ (m % 2 ^ 8))).testBit k = _
  rw [Nat.testBit_and, Nat.testBit_xor, Nat.testBit_two_pow_sub_one, Nat.testBit_mod_two_pow, decide_eq_true hk]
  simp [bit]

theorem State.cleared_clearMask (s : State) (o : ObjDef) (m : Nat) : s.cleared m [(o, 0)] (s.clearMask o m) := by
  refine State.cleared_setO fun k _ => ?_
  unfold bit
  rw [Nat.testBit_xor, Nat.testBit_and]
  cases (s.getO o).testBit k <;> simp

/-- The flag words of the cores. -/
def coreFlagWords (n : Nat) : List (ObjDef × Nat) := (List.range n).map fun c => (Obj.CORE_NUMERIC_FLAGS, c)

theorem State.cleared_coreFlags (s : State) (m n : Nat) : s.cleared m (coreFlagWords n)
    ((List.range n).foldl (fun (s : State) c => s.clearBits Obj.CORE_NUMERIC_FLAGS m c) s) := by
  unfold coreFlagWords
  induction n with
  | zero => exact .nil s m
  | succ n ih =>
    rw [List.range_succ, List.foldl_append, List.map_append]
    refine ih.append (State.cleared_clearBits _ m n rfl) fun f hf g hg => ?_
    obtain ⟨c, hc, rfl⟩ := List.mem_map.1 hf
    obtain rfl := List.mem_singleton.1 hg
    have hlt := List.mem_range.1 hc
    simp only [ObjDef.key]
    omega

/-- The objects whose write clears flags and counts. -/
def clearingObjs : List ObjDef :=
  [Obj.NUMERIC_FLAGS_CLEAR, Obj.CORE_FLAGS_CLEAR, Obj.UPDATE_FLAGS_CLEAR, Obj.REDUCE_FLAGS_CLEAR, Obj.THRESH_FLAGS_CLEAR,
   Obj.SUPPLY_WARN_CLEAR, Obj.PLL_LOSS_CLEAR, Obj.ATTN_EMPTY_FLAG, Obj.ERR_CLEAR]

theorem clearingObjs_writable : ∀ o ∈ clearingObjs, o.writable = true := by decide +kernel

/-! ### One object set for a range of repetitions or members -/

/-- The object set for 0 to n − 1, each at its repetition and member. -/
def State.setRange (s : State) (o : ObjDef) (v i j : Nat → Nat) (n : Nat) : State :=
  (List.range n).foldl (fun (s : State) c => s.setO o (v c) (i c) (j c)) s

section
variable (s : State) (o : ObjDef) (v i j : Nat → Nat) (n : Nat)

theorem State.setRange_succ : s.setRange o v i j (n + 1) = (s.setRange o v i j n).setO o (v n) (i n) (j n) := by
  unfold State.setRange
  rw [List.range_succ, List.foldl_append]
  rfl

theorem State.setRange_rest : s.setRange o v i j n = { s with obj := (s.setRange o v i j n).obj } := by
  induction n with
  | zero => rfl
  | succ n ih => rw [State.setRange_succ, ih]; rfl

theorem State.sameKey_setRange {k : Nat} (h : ∀ c < n, k ≠ o.key (i c) (j c)) : State.sameKey k s (s.setRange o v i j n) := by
  induction n with
  | zero => exact .refl s
  | succ n ih =>
    rw [State.setRange_succ]
    exact (ih fun c hc => h c (Nat.lt_succ_of_lt hc)).trans (State.sameKey_setO _ _ _ _ _ (h n (Nat.lt_succ_self n)))

theorem State.getO_setRange {c : Nat} (hc : c < n) (h : ∀ a b, o.key (i a) (j a) = o.key (i b) (j b) → a = b) :
    (s.setRange o v i j n).getO o (i c) (j c) = v c := by
  induction n with
  | zero => exact absurd hc (Nat.not_lt_zero c)
  | succ n ih =>
    rw [State.setRange_succ]
    rcases Nat.lt_succ_iff_lt_or_eq.1 hc with hlt | rfl
    · rw [State.getO_setO_ne _ _ _ _ _ _ _ _ fun e => Nat.ne_of_lt hlt (h _ _ e), ih hlt]
    · exact State.getO_setO_same ..

end

theorem State.applyWrite_attnEmptyFlag (s : State) (rq : Nat) :
    s.applyWrite rq Obj.ATTN_EMPTY_FLAG 0 0 0 = (s.setO Obj.ATTN_EMPTY_FLAG 0, 0) := rfl

/-- ERR_CLEAR sets the counts of the classes and the first SEQ, or takes the fault map and its count away (R539, R542). -/
theorem State.command_errClear (s : State) (rq : Nat) :
    s.command rq Obj.ERR_CLEAR 0 1 =
        some ((s.setRange Obj.ERR_COUNT (fun _ => 0) (fun _ => 0) id 5).setO Obj.ERR_FIRST_SEQ 0xFFFFFFFF, 0) ∧
      s.command rq Obj.ERR_CLEAR 0 2 =
        some ({ s with blob := SMap.erase s.blob Obj.CORE_FAULT_MAP.key }.setO Obj.CORE_FAULT_COUNT 0, 0) := ⟨rfl, rfl⟩

theorem errCount_key_inj (a b : Nat) (h : Obj.ERR_COUNT.key 0 (id a) = Obj.ERR_COUNT.key 0 (id b)) : a = b := by
  simp only [ObjDef.key, id] at h
  omega

theorem errCount_key_ne_firstSeq : ∀ j < 5, Obj.ERR_COUNT.key 0 j ≠ Obj.ERR_FIRST_SEQ.key := by decide

/-- Settles O25: `cleared` of the words that each command clears, and the three writes that clear by setting values. -/
theorem flagClearWrites : Obligations.FlagClearWrites := by
  intro s src m core hcore u writes clears
  have key : ∀ {x o i fs w}, exec x s = s.writeObj src o m i → o ∈ clearingObjs → i < o.reps → 0 < o.subs →
      zeroIdle o = false → u.command src.rq o i m = some (w, 0) → u.cleared m fs w → clears x o i fs := by
    intro x o i fs w hx ho hi hj hz hc hw h
    exact ⟨w, hx.trans (State.writeObj_effect h (clearingObjs_writable o ho) hi hj (.inr hz) (State.applyWrite_command hc)),
      hw.rest, hw.bits, hw.kept⟩
  have hwritable : Obj.ATTN_EMPTY_FLAG.writable = true ∧ Obj.ERR_CLEAR.writable = true :=
    ⟨clearingObjs_writable _ (by decide), clearingObjs_writable _ (by decide)⟩
  have hupdate : u.cleared m [(Obj.UPDATE_FLAGS_CD0, 0), (Obj.UPDATE_FLAGS_CD1, 0)]
      ((u.clearMask Obj.UPDATE_FLAGS_CD0 m).clearMask Obj.UPDATE_FLAGS_CD1 m) :=
    (u.cleared_clearMask _ m).append (State.cleared_clearMask _ _ m) (by decide)
  have hcoreFlags : exec (.coreFlagsClear src core m) s = s.writeObj src Obj.CORE_FLAGS_CLEAR m core :=
    if_neg (Nat.not_le.2 hcore)
  refine ⟨?_, ?_, ?_, ?_, ?_, ?_, ?_, fun h => ?_, fun h => ?_, fun h => ?_⟩
  · exact key rfl (by decide) (by decide) (by decide) rfl rfl (u.cleared_coreFlags m 800)
  · exact key hcoreFlags (by decide) hcore (by decide) rfl rfl (u.cleared_clearBits m core rfl)
  · exact key rfl (by decide) (by decide) (by decide) rfl rfl hupdate
  · exact key rfl (by decide) (by decide) (by decide) rfl rfl (u.cleared_clearMask _ m)
  · exact key rfl (by decide) (by decide) (by decide) rfl rfl (u.cleared_clearMask _ m)
  · exact key rfl (by decide) (by decide) (by decide) rfl rfl (u.cleared_clearMask _ m)
  · exact key rfl (by decide) (by decide) (by decide) rfl rfl (u.cleared_clearMask _ m)
  · exact ⟨_, State.writeObj_effect h hwritable.1 (by decide) (by decide) (.inr rfl) (u.applyWrite_attnEmptyFlag src.rq), rfl,
      State.getO_setO_same .., fun p k l hne => State.getO_setO_ne _ _ _ _ _ _ _ _ hne⟩
  · have he := State.applyWrite_command (j := 0) (u.command_errClear src.rq).1
    refine ⟨_, State.writeObj_effect h hwritable.2 (by decide) (by decide) (.inl (by decide)) he, ?_, fun j hj => ?_,
      State.getO_setO_same .., fun p k l hcount hfirst => ?_⟩
    · rw [State.setRange_rest]; rfl
    · rw [State.getO_setO_ne _ _ _ _ _ _ _ _ (errCount_key_ne_firstSeq j hj)]
      exact u.getO_setRange _ _ _ id 5 hj errCount_key_inj
    · rw [State.getO_setO_ne _ _ _ _ _ _ _ _ hfirst]
      exact (u.sameKey_setRange _ _ _ _ 5 hcount).getO
  · have he := State.applyWrite_command (j := 0) (u.command_errClear src.rq).2
    refine ⟨_, State.writeObj_effect h hwritable.2 (by decide) (by decide) (.inl (by decide)) he, rfl,
      SMap.get_erase_same .., State.getO_setO_same .., fun p k l hne => ?_⟩
    exact State.getO_setO_ne _ _ _ _ _ _ _ _ hne

end Sys2Proof.Machine

namespace Sys2Proof.Machine

/-! ### Floating-point instructions (R124, R140) -/

/-- What a register instruction with flags leaves: the context `d` at its next instruction, and the flags in the core's
word, or with NOEXC set in the context's own. -/
structure State.flagged (s : State) (core ctx : Nat) (d : Ctx) (fl : Nat) (t : State) : Prop where
  rest : t = { s with ctxs := t.ctxs, obj := t.obj }
  here : t.ctx core ctx = { d.next with status := if d.noexc then d.status ||| fl % 128 else d.status }
  others : ∀ k n, n < 2048 → k ≠ core ∨ n ≠ ctx → t.ctx k n = s.ctx k n
  flags : t.getO Obj.CORE_NUMERIC_FLAGS core =
    if d.noexc then s.getO Obj.CORE_NUMERIC_FLAGS core else s.getO Obj.CORE_NUMERIC_FLAGS core ||| fl % 128
  objects : ∀ p k l, p.key k l ≠ Obj.CORE_NUMERIC_FLAGS.key core 0 → t.getO p k l = s.getO p k l

theorem State.orO_rest (s : State) (o : ObjDef) (m i j : Nat) : s.orO o m i j = { s with obj := (s.orO o m i j).obj } := by
  unfold State.orO
  split_ifs <;> rfl

@[simp] theorem State.getO_orO_same (s : State) (o : ObjDef) (m i j : Nat) :
    (s.orO o m i j).getO o i j = s.getO o i j ||| m := by
  unfold State.orO
  split_ifs with h
  · rw [h, Nat.or_zero]
  · exact State.getO_setO_same ..

theorem State.coreFlags_unsaturated (s : State) (core fl : Nat) :
    s.coreFlags core fl 0 = s.orO Obj.CORE_NUMERIC_FLAGS (fl % 128) core := by
  unfold State.coreFlags
  rw [if_pos rfl]

/-- The flags of an instruction whose context is `d` already. -/
theorem State.flagged_ctxFlags {s : State} {core ctx : Nat} (d : Ctx) (fl : Nat) (hctx : ctx < 2048) :
    s.flagged core ctx d fl ((s.setCtx core ctx d.next).ctxFlags core ctx fl 0) := by
  have hset := s.onlyCtx_setCtx core ctx d.next hctx
  unfold State.ctxFlags
  rw [State.ctx_setCtx_same]
  by_cases hn : d.noexc = true
  · have hstatus := State.onlyCtx_trans hset ((s.setCtx core ctx d.next).onlyCtx_setCtx core ctx
      { d.next with status := d.next.status ||| fl % 128 } hctx)
    simp only [if_pos (show d.next.noexc = true from hn)]
    exact ⟨rfl, by rw [hstatus.here, if_pos hn]; rfl, hstatus.others, by rw [if_pos hn]; rfl, fun _ _ _ _ => rfl⟩
  · simp only [if_neg (show ¬d.next.noexc = true from hn), State.coreFlags_unsaturated]
    have hrest := (s.setCtx core ctx d.next).orO_rest Obj.CORE_NUMERIC_FLAGS (fl % 128) core 0
    have hctxs : ∀ k n, State.ctx ((s.setCtx core ctx d.next).orO Obj.CORE_NUMERIC_FLAGS (fl % 128) core 0) k n =
        (s.setCtx core ctx d.next).ctx k n := fun k n => by rw [hrest]; rfl
    refine ⟨by rw [hrest]; rfl, by rw [hctxs, hset.here, if_neg hn]; rfl, fun k n hk hne => ?_, ?_, fun p k l hne => ?_⟩
    · rw [hctxs, hset.others k n hk hne]
    · rw [State.getO_orO_same, if_neg hn]; rfl
    · exact (State.sameKey_orO _ _ _ _ _ hne).getO

/-- A register instruction that issues: its registers, its flags and nothing else. -/
theorem State.scalarOp_flagged {s : State} {core ctx : Nat} (f : Ctx → Ctx × Nat) {d : Ctx} {fl : Nat}
    (h : s.issues core ctx) (hf : f (s.ctx core ctx) = (d, fl)) (hpc : d.pc = (s.ctx core ctx).pc) :
    ∃ t, s.scalarOp core ctx f = .next t ∧ s.flagged core ctx d fl t := by
  refine ⟨_, ?_, State.flagged_ctxFlags d fl h.ctx_lt⟩
  unfold State.scalarOp Ctx.next
  rw [State.issue_runs _ _ _ _ h]
  simp only [hf, hpc]

theorem Ctx.set_noexc (c : Ctx) (n v : Nat) : (c.set n v).noexc = c.noexc := by
  unfold Ctx.set
  split_ifs <;> rfl

theorem Ctx.set_status (c : Ctx) (n v : Nat) : (c.set n v).status = c.status := by
  unfold Ctx.set
  split_ifs <;> rfl

theorem State.plainA_scalarOp {s : State} {core ctx : Nat} {i : InsA} (f : Ctx → Ctx × Nat) (h : i.fn % 1024 = 0) :
    s.plainA core ctx i f = s.scalarOp core ctx f := if_pos h

theorem execFcmp_scalarOp {s : State} {core ctx : Nat} {i : InsA} (h : i.fn % 1024 ≤ 3) :
    execFcmp core ctx i s = s.scalarOp core ctx (fpu i fun st a b _ =>
      (b2n (cmpCode f32 st (i.fn % 1024) a b).1, (cmpCode f32 st (i.fn % 1024) a b).2)) := if_pos h

/-- What FCVT with function code `fn` makes of a register. -/
def cvt (strict : Bool) (fn a : Nat) : Fl Nat :=
  match fn with
  | 0 => cvtI64 strict (a % 2 ^ 32)
  | 1 => cvtFromInt (toSigned 64 a)
  | 2 => narrow strict none (a % 2 ^ 32)
  | _ => widen strict (a % 2 ^ 16)

theorem execFcvt_scalarOp {s : State} {core ctx : Nat} {i : InsA} (h : i.fn % 1024 ≤ 3) :
    execFcvt core ctx i s = s.scalarOp core ctx fun c =>
      (c.set i.d (cvt c.strict (i.fn % 1024) (c.get i.a)).1, (cvt c.strict (i.fn % 1024) (c.get i.a)).2) := if_pos h

/-- Settles O11: each instruction is a register instruction whose registers and flags `scalarOp_flagged` gives. -/
theorem scalarFloatResults : Obligations.ScalarFloatResults := by
  intro s core ctx i h c a b gives
  have key : ∀ (x : Instr) (f : Ctx → Ctx × Nat) (r : Fl Nat), exec x s = s.scalarOp core ctx f →
      f c = (c.set i.d r.1, r.2) → gives x r := by
    intro x f r hx hf
    obtain ⟨t, ht, hfl⟩ := State.scalarOp_flagged f h hf (Ctx.set_pc ..)
    refine ⟨t, hx.trans ht, hfl.rest, ?_, hfl.others, ?_, hfl.objects⟩
    · rw [hfl.here, Ctx.set_noexc, Ctx.set_status]
    · rw [hfl.flags, Ctx.set_noexc]
  have hcvt : ∀ n ≤ 3, i.fn % 1024 = n → gives (.fcvt core ctx i) (cvt c.strict n (c.get i.a)) := by
    intro n hn hfn
    exact key _ _ _ (execFcvt_scalarOp (by omega)) (by rw [hfn])
  refine ⟨fun hfn => ⟨?_, ?_, ?_⟩, fun hfn => key _ _ _ (execFcmp_scalarOp hfn) rfl, hcvt 0 (by decide), hcvt 1 (by decide),
    hcvt 2 (by decide), hcvt 3 (by decide)⟩
  · exact key _ _ _ (State.plainA_scalarOp _ hfn) rfl
  · exact key _ _ _ (State.plainA_scalarOp _ hfn) rfl
  · exact key _ _ _ (State.plainA_scalarOp _ hfn) rfl

end Sys2Proof.Machine

namespace Sys2Proof.Machine

/-! ### A step boundary that a stop overtakes (R226, R330, R331, R347)

The end of a boundary judges every scale slot, and a slot whose descriptor does not fit posts a record (R562). That
record's notification may overflow the semaphore of the error stream. The record of the overflow stops the schedule, and a
stop drops the step boundaries that wait: none of them is taken up then. -/

/-- A RUNNING master without partners at step boundary 2, with boundary 5 waiting. Its one scale slot, at address 0, is
enabled and follows tensor 1, but the descriptor that it names, at address 1024, is of tensor 0. The error ring notifies
semaphore 7, whose count is the largest. -/
def stopOvertakesStep : State :=
  let s : State := {
    alm := { started := true }
    rings := [(0, { base := 0x10000, binding := 5, notify := 7 })]
    sems := [(7, { count := 0xFFFFFFFF })]
    stepRun := some { boundary := 2 }
    stepQueue := [5] }
  ((s.setO Obj.DEVICE_STATE stRUNNING).setO Obj.SCALE_SLOTS 1).poke 0 (leBytes 64 (2 ^ 93 + 2 ^ 125 + 32 * 2 ^ 149))

/-- The step procedure of the state that an outcome leads to. -/
def stepRunAfter (o : Out) : Option StepRun :=
  match o with
  | .next t => t.stepRun
  | _ => none

/-- No step procedure runs after the boundary: boundary 5 has been dropped. -/
theorem stepRunAfter_stopOvertakesStep : stepRunAfter (exec .stepBoundary stopOvertakesStep) = none := by decide +kernel

theorem stopOvertakesStep_ready : stopOvertakesStep.stepQuiet = true ∧ stopOvertakesStep.levels = 0 := by decide +kernel

/-- Refutes O40: the statement lets boundary 5 follow at once, but the overflow of the error stream's semaphore, which the
record of the unfit descriptor causes, has stopped the schedule and dropped it. -/
theorem not_stepBoundaryResults : ¬ Obligations.StepBoundaryResults := by
  rintro ⟨⟨hboundary, -⟩, -⟩
  obtain ⟨hquiet, hlevels⟩ := stopOvertakesStep_ready
  obtain ⟨-, halone⟩ := (hboundary stopOvertakesStep { boundary := 2 } rfl rfl).2 hquiet rfl
  obtain ⟨t, ht, hrun, -⟩ := halone hlevels rfl
  have hnone : t.stepRun = none := by
    have hafter := stepRunAfter_stopOvertakesStep
    rw [ht] at hafter
    exact hafter
  have hsome : t.stepRun = some { boundary := 5 } := hrun
  rw [hnone] at hsome
  cases hsome

end Sys2Proof.Machine

namespace Sys2Proof.Machine

theorem bits_31_16 (n : Nat) : bits n 31 16 = n / 65536 % 65536 := by
  unfold bits
  rw [Nat.shiftRight_eq_div_pow]
  rfl

/-! ### The probes (R68, R275) -/

/-- The inputs of the winnow probe, by their members. -/
def winnowMembers : List (Nat × ObjDef) :=
  [(1, Obj.WINNOW_PROBE_SEED), (2, Obj.WINNOW_PROBE_STEP), (3, Obj.WINNOW_PROBE_TID), (4, Obj.WINNOW_PROBE_PURPOSE),
   (5, Obj.WINNOW_PROBE_INDEX), (6, Obj.WINNOW_PROBE_DRAW)]

def winnowInputs : List ObjDef := winnowMembers.map (·.2)

/-- The block of the winnow generator for given inputs of the probe. -/
def probedBlock (g : ObjDef → Nat) : Quad :=
  winnowBlock (g Obj.WINNOW_PROBE_SEED) (g Obj.WINNOW_PROBE_STEP) (g Obj.WINNOW_PROBE_TID) (g Obj.WINNOW_PROBE_PURPOSE)
    (g Obj.WINNOW_PROBE_INDEX) (g Obj.WINNOW_PROBE_DRAW)

/-- From s to t only copies of requester rq have changed. -/
structure State.onlySel (s : State) (rq : Nat) (t : State) : Prop where
  rest : t = { s with sel := t.sel }
  others : ∀ k p, k ≠ rq → p ∈ selObjs → t.getSel k p = s.getSel k p

theorem State.onlySel.trans {s t u : State} {rq : Nat} (h : s.onlySel rq t) (h' : t.onlySel rq u) : s.onlySel rq u :=
  ⟨by rw [h'.rest, h.rest], fun k p hk hp => (h'.others k p hk hp).trans (h.others k p hk hp)⟩

theorem selObjs_key_lt : ∀ p ∈ selObjs, p.key < 2 ^ 24 := by decide

section
variable (s : State) (rq : Nat)

/-- Keys of one requester's copies lie apart from those of another. -/
theorem State.onlySel_setSel {o : ObjDef} (v : Nat) (ho : o ∈ selObjs) : s.onlySel rq (s.setSel rq o v) := by
  refine ⟨rfl, fun k p hk hp => SMap.get_set_ne' _ _ _ _ _ _ fun e => hk ?_⟩
  have hko := selObjs_key_lt o ho
  have hkp := selObjs_key_lt p hp
  unfold selKey at e
  omega

/-- What the winnow probe computes from the requester's inputs, and where it puts it. -/
theorem State.probeWinnow_results :
    let t := s.probeWinnow rq
    let q := probedBlock (s.getSel rq)
    t.getSel rq Obj.WINNOW_PROBE_BLOCK_LO = q.a + q.b * 2 ^ 32 ∧
      t.getSel rq Obj.WINNOW_PROBE_BLOCK_HI = q.c + q.d * 2 ^ 32 ∧
      t.getSel rq Obj.WINNOW_PROBE_DRAW_VALUE = q.a / 65536 % 65536 ∧ s.onlySel rq t := by
  intro t q
  obtain ⟨lo, hlo⟩ : ∃ x, x = s.setSel rq Obj.WINNOW_PROBE_BLOCK_LO (q.a + q.b * 2 ^ 32) := ⟨_, rfl⟩
  obtain ⟨hi, hhi⟩ : ∃ x, x = lo.setSel rq Obj.WINNOW_PROBE_BLOCK_HI (q.c + q.d * 2 ^ 32) := ⟨_, rfl⟩
  have ht : t = hi.setSel rq Obj.WINNOW_PROBE_DRAW_VALUE (bits q.a 31 16) := by rw [hhi, hlo]; rfl
  clear_value t q
  subst ht
  refine ⟨?_, ?_, ?_, ?_⟩
  · rw [State.getSel_setSel_ne _ _ _ (by decide), hhi, State.getSel_setSel_ne _ _ _ (by decide), hlo,
      State.getSel_setSel_same]
  · rw [State.getSel_setSel_ne _ _ _ (by decide), hhi, State.getSel_setSel_same]
  · rw [State.getSel_setSel_same, bits_31_16]
  · have h1 : s.onlySel rq lo := hlo ▸ s.onlySel_setSel rq _ (by decide)
    have h2 : lo.onlySel rq hi := hhi ▸ lo.onlySel_setSel rq _ (by decide)
    exact (h1.trans h2).trans (hi.onlySel_setSel rq _ (by decide))

/-- What the shuffle probe computes from the requester's inputs, and where it puts it. -/
theorem State.probeShuffle_results :
    let t := s.probeShuffle rq
    let r := shuffle (s.getSel rq Obj.SHUF_PROBE_SAMPLES) (s.getSel rq Obj.SHUF_PROBE_SEED)
      (s.getSel rq Obj.SHUF_PROBE_EPOCH) (s.getSel rq Obj.SHUF_PROBE_POS)
    t.getSel rq Obj.SHUF_PROBE_SAMPLE = r.1 ∧ t.getSel rq Obj.SHUF_PROBE_WALK = r.2 ∧ s.onlySel rq t := by
  intro t r
  obtain ⟨a, ha⟩ : ∃ x, x = s.setSel rq Obj.SHUF_PROBE_SAMPLE r.1 := ⟨_, rfl⟩
  have ht : t = a.setSel rq Obj.SHUF_PROBE_WALK r.2 := by rw [ha]; rfl
  clear_value t r
  subst ht
  refine ⟨?_, State.getSel_setSel_same .., ?_⟩
  · rw [State.getSel_setSel_ne _ _ _ (by decide), ha, State.getSel_setSel_same]
  · exact State.onlySel.trans (ha ▸ s.onlySel_setSel rq _ (by decide)) (a.onlySel_setSel rq _ (by decide))

/-- The copy of an input after the write of one. -/
theorem State.getSel_setSel_input {o p : ObjDef} (v : Nat) (ho : o ∈ winnowInputs) (hp : p ∈ winnowInputs) :
    (s.setSel rq o v).getSel rq p = if p = o then v else s.getSel rq p := by
  have hkeys : ∀ a ∈ winnowInputs, ∀ b ∈ winnowInputs, a ≠ b → a.key ≠ b.key := by decide
  split_ifs with h
  · rw [h, State.getSel_setSel_same]
  · exact State.getSel_setSel_ne _ _ _ (hkeys p hp o ho h)

/-- The block that the probe computes once an input has been written. -/
theorem probedBlock_setSel {o : ObjDef} (v : Nat) (ho : o ∈ winnowInputs) :
    probedBlock ((s.setSel rq o v).getSel rq) = probedBlock fun p => if p = o then v else s.getSel rq p := by
  unfold probedBlock
  rw [s.getSel_setSel_input rq v ho (p := Obj.WINNOW_PROBE_SEED) (by decide),
    s.getSel_setSel_input rq v ho (p := Obj.WINNOW_PROBE_STEP) (by decide),
    s.getSel_setSel_input rq v ho (p := Obj.WINNOW_PROBE_TID) (by decide),
    s.getSel_setSel_input rq v ho (p := Obj.WINNOW_PROBE_PURPOSE) (by decide),
    s.getSel_setSel_input rq v ho (p := Obj.WINNOW_PROBE_INDEX) (by decide),
    s.getSel_setSel_input rq v ho (p := Obj.WINNOW_PROBE_DRAW) (by decide)]

theorem State.applyWrite_winnowInput {o : ObjDef} (v : Nat) (ho : o ∈ winnowInputs) :
    s.applyWrite rq o 0 0 v = ((s.setSel rq o v).probeWinnow rq, 0) := by
  simp only [winnowInputs, winnowMembers, List.map_cons, List.map_nil, List.mem_cons, List.not_mem_nil, or_false] at ho
  rcases ho with rfl | rfl | rfl | rfl | rfl | rfl <;> rfl

theorem State.applyWrite_shufProbePos (v : Nat) :
    s.applyWrite rq Obj.SHUF_PROBE_POS 0 0 v = ((s.setSel rq Obj.SHUF_PROBE_POS v).probeShuffle rq, 0) := rfl

end

/-- WINNOW_PROBE writes the input of its member. -/
theorem exec_winnowProbe_member (s : State) (src : Src) {m : Nat} {o : ObjDef} (v : Nat) (h : (m, o) ∈ winnowMembers) :
    exec (.winnowProbe src m v) s = s.writeObj src o v := by
  simp only [winnowMembers, List.mem_cons, Prod.mk.injEq, List.not_mem_nil, or_false] at h
  rcases h with ⟨rfl, rfl⟩ | ⟨rfl, rfl⟩ | ⟨rfl, rfl⟩ | ⟨rfl, rfl⟩ | ⟨rfl, rfl⟩ | ⟨rfl, rfl⟩ <;> rfl

/-! ### Ring configuration (R357, R365) -/

/-- The members of a ring's configuration. -/
def queueMembers : List (Nat × ObjDef) :=
  [(1, Obj.QUEUE_CFG_BASE), (2, Obj.QUEUE_CFG_LOG2_SIZE), (3, Obj.QUEUE_CFG_BINDING), (4, Obj.QUEUE_CFG_TARGET),
   (5, Obj.QUEUE_CFG_NOTIFY_SEM)]

/-- A ring with one member of its configuration written: its indices are reset. -/
def Ring.configured (r : Ring) (m v : Nat) : Ring :=
  { r with
    base := if m = 1 then v else r.base, log2 := if m = 2 then v else r.log2, binding := if m = 3 then v else r.binding,
    target := if m = 4 then v else r.target, notify := if m = 5 then v else r.notify, p := 0, c := 0, stopped := false }

/-- What refuses ring q the configuration n, of which member m has become v. -/
def State.ringRefused (s : State) (q m v : Nat) (n : Ring) : Prop :=
  lpEnd < n.base + 64 * 2 ^ n.log2 ∨ (m = 5 ∧ 4096 ≤ v ∧ v ≤ 0xFFFE) ∨ targetOk n.binding n.target = false ∨
    (3 ≤ n.binding ∧ ∃ p ∈ s.rings, p.1 ≠ q ∧ p.2.binding = n.binding ∧ p.2.target = n.target) ∨
    (n.binding = 2 ∧ 4 ≤ (s.rings.filter fun p => decide (p.1 ≠ q ∧ p.2.binding = 2 ∧ p.2.target / 4 = n.target / 4)).length)

section
variable (s : State) (rq q : Nat) {m v : Nat} {o : ObjDef}

theorem State.ringTaken_iff (n : Ring) : s.ringTaken q n = true ↔
    (3 ≤ n.binding ∧ ∃ p ∈ s.rings, p.1 ≠ q ∧ p.2.binding = n.binding ∧ p.2.target = n.target) ∨
    (n.binding = 2 ∧ 4 ≤ (s.rings.filter fun p => decide (p.1 ≠ q ∧ p.2.binding = 2 ∧ p.2.target / 4 = n.target / 4)).length) := by
  unfold State.ringTaken
  by_cases h2 : n.binding = 2
  · have hfilter : (fun p : Nat × Ring => decide (p.2.target / 4 = n.target / 4) && decide (p.1 ≠ q ∧ p.2.binding = 2)) =
        fun p => decide (p.1 ≠ q ∧ p.2.binding = 2 ∧ p.2.target / 4 = n.target / 4) := by
      funext p
      rw [← Bool.decide_and]
      exact decide_eq_decide.2 (by tauto)
    simp only [h2, if_true, List.filter_filter, hfilter, decide_eq_true_eq]
    simp
  · simp only [h2, if_false, Bool.and_eq_true, decide_eq_true_eq, List.any_filter, List.any_eq_true]
    simp [and_assoc]

theorem State.queueCfg_configured (hm : 1 ≤ m ∧ m ≤ 5) (hrun : ¬(s.running = true ∧ (s.ring q).binding ≠ 0)) :
    (¬s.ringRefused q m v ((s.ring q).configured m v) → s.queueCfg q (m - 1) v = .ok ((s.ring q).configured m v)) ∧
      (s.ringRefused q m v ((s.ring q).configured m v) → s.queueCfg q (m - 1) v = .error 5) := by
  have heq : s.queueCfg q (m - 1) v =
      if lpEnd < ((s.ring q).configured m v).base + 64 * 2 ^ ((s.ring q).configured m v).log2 then .error 5
      else if m - 1 = 4 ∧ 4096 ≤ v ∧ v ≤ 0xFFFE then .error 5
      else if targetOk ((s.ring q).configured m v).binding ((s.ring q).configured m v).target = false ∨
        s.ringTaken q ((s.ring q).configured m v) = true then .error 5
      else .ok ((s.ring q).configured m v) := by
    obtain ⟨h1, h5⟩ := hm
    unfold State.queueCfg
    simp only [if_neg hrun]
    interval_cases m <;> rfl
  have hnotify : m - 1 = 4 ↔ m = 5 := by omega
  rw [heq]
  simp only [hnotify]
  unfold State.ringRefused
  rw [← State.ringTaken_iff]
  constructor
  · intro h
    simp only [not_or] at h
    obtain ⟨hbase, hsem, htarget, htaken⟩ := h
    rw [if_neg hbase, if_neg hsem, if_neg (not_or.2 ⟨htarget, htaken⟩)]
  · intro h
    split_ifs with hbase hsem htarget
    · rfl
    · rfl
    · rfl
    · tauto

end

/-! ### The crib pool (R203) -/

/-- What was stored between other bytes is read back. -/
theorem State.peek_poke_middle (s : State) (a : Nat) (xs ys zs : List Byte) :
    (s.poke a (xs ++ ys ++ zs)).peek (a + xs.length) ys.length = ys := by
  rw [State.poke_append, State.peek_poke_out _ _ _ _ _ (.inl (by rw [List.length_append]; omega)), State.poke_append]
  exact State.peek_poke_same ..

theorem ofBytes_replicate_zero (n : Nat) : ofBytes (List.replicate n 0) = 0 := by
  induction n with
  | zero => rfl
  | succ n ih => rw [List.replicate_succ, ofBytes, ih]; rfl

/-- The words of n entries of four bytes. -/
def wordBytes (f : Nat → Nat) (n : Nat) : List Byte := (List.range n).flatMap fun k => leBytes 4 (f k)

theorem wordBytes_length (f : Nat → Nat) (n : Nat) : (wordBytes f n).length = 4 * n := by
  induction n with
  | zero => rfl
  | succ n ih =>
    unfold wordBytes at ih ⊢
    rw [List.range_succ, List.flatMap_append, List.length_append, ih]
    simp [leBytes_length]
    omega

/-- Word k stands between those before and those after it. -/
theorem wordBytes_split (f : Nat → Nat) {n k : Nat} (h : k < n) :
    ∃ zs, wordBytes f n = wordBytes f k ++ leBytes 4 (f k) ++ zs := by
  induction n with
  | zero => exact absurd h (Nat.not_lt_zero k)
  | succ n ih =>
    have hsucc : wordBytes f (n + 1) = wordBytes f n ++ leBytes 4 (f n) := by
      simp [wordBytes, List.range_succ]
    rcases Nat.lt_succ_iff_lt_or_eq.1 h with hlt | rfl
    · obtain ⟨zs, hzs⟩ := ih hlt
      exact ⟨zs ++ leBytes 4 (f n), by rw [hsucc, hzs, List.append_assoc]⟩
    · exact ⟨[], by rw [hsucc, List.append_nil]⟩

/-- The pool's tables after its layout: counts of 0, and the free pages from the highest down. -/
def cribTables (pages : Nat) : List Byte := List.replicate (4 * pages) 0 ++ wordBytes (fun k => pages - 1 - k) pages

theorem cribTables_length (pages : Nat) : (cribTables pages).length = 8 * pages := by
  rw [cribTables, List.length_append, List.length_replicate, wordBytes_length]
  omega

section
variable (s : State) {a pages : Nat}

theorem State.word_cribTables_count {p : Nat} (h : p < pages) :
    ofBytes ((s.poke a (cribTables pages)).peek (a + 4 * p) 4) = 0 := by
  have hsplit : cribTables pages = List.replicate (4 * p) 0 ++ List.replicate 4 0 ++
      (List.replicate (4 * (pages - p - 1)) 0 ++ wordBytes (fun k => pages - 1 - k) pages) := by
    rw [cribTables, List.replicate_append_replicate, ← List.append_assoc, List.replicate_append_replicate]
    congr 2
    omega
  have hpeek := s.peek_poke_middle a (List.replicate (4 * p) 0) (List.replicate 4 0)
    (List.replicate (4 * (pages - p - 1)) 0 ++ wordBytes (fun k => pages - 1 - k) pages)
  rw [← hsplit, List.length_replicate, List.length_replicate] at hpeek
  rw [hpeek, ofBytes_replicate_zero]

theorem State.word_cribTables_free {k : Nat} (h : k < pages) (hpages : pages < 2 ^ 32) :
    ofBytes ((s.poke a (cribTables pages)).peek (a + 4 * pages + 4 * k) 4) = pages - 1 - k := by
  obtain ⟨zs, hzs⟩ := wordBytes_split (fun k => pages - 1 - k) h
  have hpeek := s.peek_poke_middle a (List.replicate (4 * pages) 0 ++ wordBytes (fun k => pages - 1 - k) k)
    (leBytes 4 (pages - 1 - k)) zs
  rw [List.append_assoc, List.append_assoc, ← List.append_assoc (wordBytes _ _), ← hzs, List.length_append,
    List.length_replicate, wordBytes_length, leBytes_length, ← Nat.add_assoc] at hpeek
  rw [cribTables, hpeek, ofBytes_leBytes]
  omega

end

/-- The state after the layout of a pool of clean memory. -/
def State.cribLaid (s : State) : State :=
  let pages := s.getO Obj.CRIB_POOL_PAGES
  let t : State := { s.poke (s.getO Obj.CRIB_META_BASE) (cribTables pages) with ringHead := 0, fences := [] }
  ((((t.setO Obj.CRIB_PAGES_FREE pages).setO Obj.CRIB_PAGES_FREE_MIN pages).setO Obj.CRIB_PAGES_PENDING 0).setO
    Obj.CRIB_NEXT_FENCE 0).setO Obj.CRIB_POOL_STATE 1

theorem State.cribGo_lays {s : State} (hstate : s.getO Obj.CRIB_POOL_STATE = 0) (hpages : s.getO Obj.CRIB_POOL_PAGES ≠ 0)
    (hchk : s.chk = []) : s.cribGo 1 = (s.cribLaid, 0) := by
  unfold State.cribGo
  simp only [hstate, if_true, ne_eq, not_true_eq_false, false_or, if_neg hpages]
  rw [State.writeMem_clean s (State.allClean_of_chk hchk)]
  rfl

theorem State.cribGo_refused {s : State} (h : s.getO Obj.CRIB_POOL_STATE ≠ 0 ∨ s.getO Obj.CRIB_POOL_PAGES = 0) :
    s.cribGo 1 = (s, 5) := by
  unfold State.cribGo
  simp only [if_true, if_pos h]

/-- What the layout of the pool leaves (R203). -/
theorem State.cribLaid_results (s : State) (hpages : s.getO Obj.CRIB_POOL_PAGES < 2 ^ 32) :
    let pages := s.getO Obj.CRIB_POOL_PAGES
    let data := s.getO Obj.CRIB_META_BASE
    let t := s.cribLaid
    t.getO Obj.CRIB_POOL_STATE = 1 ∧ t.getO Obj.CRIB_PAGES_FREE = pages ∧ t.getO Obj.CRIB_PAGES_PENDING = 0 ∧
      t.getO Obj.CRIB_NEXT_FENCE = 0 ∧ t.ringHead = 0 ∧ t.fences = [] ∧
      (∀ p, p < pages → ofBytes (t.peek (data + 4 * p) 4) = 0) ∧
      (∀ k, k < pages → ofBytes (t.peek (data + 4 * pages + 4 * k) 4) = pages - 1 - k) ∧
      ∀ y, y < data ∨ data + 8 * pages ≤ y → t.byte y = s.byte y := by
  intro pages data t
  refine ⟨State.getO_setO_same .., ?_, ?_, ?_, rfl, rfl, fun p hp => s.word_cribTables_count hp,
    fun k hk => s.word_cribTables_free hk hpages, fun y hy => ?_⟩
  · dsimp only [t, State.cribLaid]
    rw [State.getO_setO_ne _ _ _ _ _ _ _ _ (by decide), State.getO_setO_ne _ _ _ _ _ _ _ _ (by decide),
      State.getO_setO_ne _ _ _ _ _ _ _ _ (by decide), State.getO_setO_ne _ _ _ _ _ _ _ _ (by decide), State.getO_setO_same]
  · dsimp only [t, State.cribLaid]
    rw [State.getO_setO_ne _ _ _ _ _ _ _ _ (by decide), State.getO_setO_ne _ _ _ _ _ _ _ _ (by decide),
      State.getO_setO_same]
  · dsimp only [t, State.cribLaid]
    rw [State.getO_setO_ne _ _ _ _ _ _ _ _ (by decide), State.getO_setO_same]
  · exact s.byte_poke_out data (cribTables pages) y (by rw [cribTables_length]; exact hy)

theorem State.cribGo_release {s : State} (h : s.fences = []) : s.cribGo 2 = (s.setO Obj.CRIB_POOL_STATE 0, 0) := by
  unfold State.cribGo
  simp [h]

theorem State.cribGo_fenced {s : State} (h : s.fences ≠ []) : s.cribGo 2 = (s, 5) := by
  unfold State.cribGo
  simp [h]

/-! ### Objects with effects of their own -/

section
variable (s : State) (rq : Nat)

theorem State.command_cribPoolInit (v : Nat) : s.command rq Obj.CRIB_POOL_INIT 0 v = some (s.cribGo v) := rfl

theorem State.command_matrixSelftestRun : s.command rq Obj.MATRIX_SELFTEST_RUN 0 1 =
    some (if s.getO Obj.MATRIX_SELFTEST_STATE = 1 then (s, 8) else (s.setO Obj.MATRIX_SELFTEST_STATE 1, 0)) := rfl

theorem State.command_reduceResidueTest : s.command rq Obj.REDUCE_RESIDUE_TEST 0 1 =
    some (if s.getO Obj.REDUCE_RESIDUE_TEST_STATE = 1 then (s, 8) else (s.setO Obj.REDUCE_RESIDUE_TEST_STATE 1, 0)) := rfl

theorem State.applyWrite_shufSamples (v : Nat) :
    s.applyWrite rq Obj.SHUF_SAMPLES 0 0 v = (s.setO Obj.SHUF_SAMPLES v, 0) := rfl

/-- The exclusion of a core is a stored value, whose write judges the dirty flag (R476, R479). -/
theorem State.applyWrite_coreExclude (n v : Nat) :
    s.applyWrite rq Obj.CORE_EXCLUDE n 0 v = ((s.setO Obj.CORE_EXCLUDE v n).redirty, 0) := rfl

theorem State.applyWrite_clkCoreSrc (n v : Nat) : s.applyWrite rq Obj.CLK_CORE_SRC 0 n v =
    (s.switchSrc n v).elim (s.incO Obj.CLK_SWITCH_REFUSALS, 5) fun t => (t, 0) := by
  change (match s.switchSrc n v with
    | some t => (t, 0)
    | none => (s.incO Obj.CLK_SWITCH_REFUSALS, 5)) = _
  cases s.switchSrc n v <;> rfl

theorem State.applyWrite_ring {m v : Nat} {o : ObjDef} (h : (m, o) ∈ queueMembers) :
    let q := s.getSel rq Obj.QUEUE_SEL_NUMBER
    (∀ r, s.queueCfg q (m - 1) v = .ok r → s.applyWrite rq o 0 0 v = (s.setRing q r, 0)) ∧
      ∀ st, s.queueCfg q (m - 1) v = .error st → s.applyWrite rq o 0 0 v = (s, st) := by
  intro q
  have happly : s.applyWrite rq o 0 0 v = match s.queueCfg q (m - 1) v with
      | .ok r => (s.setRing q r, 0)
      | .error st => (s, st) := by
    simp only [queueMembers, List.mem_cons, Prod.mk.injEq, List.not_mem_nil, or_false] at h
    rcases h with ⟨rfl, rfl⟩ | ⟨rfl, rfl⟩ | ⟨rfl, rfl⟩ | ⟨rfl, rfl⟩ | ⟨rfl, rfl⟩ <;> rfl
  exact ⟨fun r hr => by rw [happly, hr], fun st hst => by rw [happly, hst]⟩

end

theorem State.getO_incO_same {s : State} {o : ObjDef} {n i j : Nat} (h : s.getO o i j + n < 2 ^ (8 * o.ty.bytes)) :
    (s.incO o n i j).getO o i j = s.getO o i j + n := by
  unfold State.incO
  rw [if_pos h, State.getO_setO_same]

/-- A value that its row allows is one of the row's codes, where it lists any. -/
theorem ObjDef.mem_codes_of_rangeOk {o : ObjDef} {v : Nat} (h : o.rangeOk v = true) (hc : o.codes ≠ []) : v ∈ o.codes := by
  unfold ObjDef.rangeOk at h
  simp only [Bool.and_eq_true, Bool.or_eq_true, decide_eq_true_eq, List.contains_iff_mem, hc, false_or] at h
  obtain ⟨⟨⟨-, hcodes⟩, -⟩, -⟩ := h
  exact hcodes

theorem State.acceptedWrite.rangeOk {s : State} {src : Src} {o : ObjDef} {i j v : Nat} (h : s.acceptedWrite src o i j v) :
    o.rangeOk v = true := by
  have hvalue := h.value
  unfold State.valueOk at hvalue
  exact (Bool.and_eq_true_iff.1 (Bool.and_eq_true_iff.1 hvalue).1).1

/-! ### The source of a core clock (R494) -/

/-- The source that v selects for die d is ready. -/
def State.srcReady (s : State) (d v : Nat) : Prop :=
  (v = 0 ∧ s.getO Obj.PLL_STATE 0 d = 2) ∨ (v = 1 ∧ s.getO Obj.REFCLK_PRESENT = 1)

/-- The state once die d takes the source v: back on its PLL it starts from the lowest multiplier. -/
def State.srcSwitched (s : State) (d v : Nat) : State :=
  if s.getO Obj.CLK_CORE_SRC 0 d = 1 ∧ v = 0 then (s.setO Obj.CLK_CORE_SRC v 0 d).setO Obj.CLK_CORE_MULT_NOW 4 0 d
  else s.setO Obj.CLK_CORE_SRC v 0 d

theorem State.switchSrc_ready {s : State} {d v : Nat} (h : s.srcReady d v) : s.switchSrc d v = some (s.srcSwitched d v) := by
  unfold State.switchSrc State.srcSwitched
  rcases h with ⟨rfl, hpll⟩ | ⟨rfl, href⟩
  · simp [hpll, pllREADY]
  · simp [href]

theorem State.switchSrc_notReady {s : State} {d v : Nat} (hv : v = 0 ∨ v = 1) (h : ¬s.srcReady d v) :
    s.switchSrc d v = none := by
  unfold State.switchSrc
  rcases hv with rfl | rfl
  · have hpll : s.getO Obj.PLL_STATE 0 d ≠ pllREADY := fun e => h (.inl ⟨rfl, e⟩)
    simp [hpll]
  · have href : s.getO Obj.REFCLK_PRESENT ≠ 1 := fun e => h (.inr ⟨rfl, e⟩)
    simp [href]

theorem clkCoreSrc_key_ne : ∀ d < 2, Obj.CLK_CORE_SRC.key 0 d ≠ Obj.CLK_CORE_MULT_NOW.key 0 d ∧
    Obj.CLK_CORE_SRC.key 0 d ≠ Obj.CLK_SWITCH_REFUSALS.key := by decide

theorem State.srcSwitched_results (s : State) {d : Nat} (v : Nat) (hd : d < 2) :
    let t := s.srcSwitched d v
    t.getO Obj.CLK_CORE_SRC 0 d = v ∧ t = { s with obj := t.obj } ∧ t.getO Obj.CLK_CORE_MULT_NOW 0 d =
      if s.getO Obj.CLK_CORE_SRC 0 d = 1 ∧ v = 0 then 4 else s.getO Obj.CLK_CORE_MULT_NOW 0 d := by
  have hne := (clkCoreSrc_key_ne d hd).1
  unfold State.srcSwitched
  split_ifs with hback
  · exact ⟨by rw [State.getO_setO_ne _ _ _ _ _ _ _ _ hne, State.getO_setO_same], rfl, State.getO_setO_same ..⟩
  · exact ⟨State.getO_setO_same .., rfl, State.getO_setO_ne _ _ _ _ _ _ _ _ hne.symm⟩

/-! ### Records that a command posts after other changes (R537, R539) -/

/-- Keys that the stamp and the number of a record are read from. -/
def recordKeys : List Nat :=
  [Obj.ERR_SEQ_NEXT.key, Obj.ALMANAC_COUNT.key, Obj.ALMANAC_STATE.key, Obj.EPOCH_BEATS.key, Obj.SCHED_E0_COUNT.key,
   Obj.SCHED_E0.key]

/-- From s to t nothing has changed that a record or its notification is formed from. -/
structure State.recordsAlike (s t : State) : Prop where
  rings : t.rings = s.rings
  sems : t.sems = s.sems
  alm : t.alm = s.alm
  linkCfg : t.linkCfg = s.linkCfg
  keys : ∀ k ∈ recordKeys, State.sameKey k s t

theorem State.recordsAlike.trans {s t u : State} (h : s.recordsAlike t) (h' : t.recordsAlike u) : s.recordsAlike u :=
  ⟨h'.rings.trans h.rings, h'.sems.trans h.sems, h'.alm.trans h.alm, h'.linkCfg.trans h.linkCfg,
   fun k hk => (h.keys k hk).trans (h'.keys k hk)⟩

theorem State.onlyObj.recordsAlike {s t : State} (h : s.onlyObj t) (hk : ∀ k ∈ recordKeys, State.sameKey k s t) :
    s.recordsAlike t := by
  unfold State.onlyObj at h
  exact ⟨by rw [h], by rw [h], by rw [h], by rw [h], hk⟩

theorem State.recordsAlike.getO {s t : State} (h : s.recordsAlike t) {o : ObjDef} (ho : o.key ∈ recordKeys) :
    t.getO o = s.getO o := (h.keys _ ho).getO

theorem State.recordsAlike.recordOf {s t : State} (h : s.recordsAlike t) (r : Rec) : t.recordOf r = s.recordOf r := by
  have hstamp : t.recStamp = s.recStamp := by
    unfold State.recStamp State.stampOf State.epochOf State.locked State.count
    rw [h.alm, h.getO (o := Obj.ALMANAC_STATE) (by decide), h.getO (o := Obj.ALMANAC_COUNT) (by decide),
      h.getO (o := Obj.EPOCH_BEATS) (by decide), h.getO (o := Obj.SCHED_E0_COUNT) (by decide),
      h.getO (o := Obj.SCHED_E0) (by decide)]
  have horigin : t.origin = s.origin := by
    unfold State.origin State.fieldRank
    rw [h.linkCfg]
  unfold State.recordOf
  rw [hstamp, horigin, h.getO (o := Obj.ERR_SEQ_NEXT) (by decide)]

theorem State.recordsAlike.onePost {s t : State} (h : s.recordsAlike t) (hone : s.onePost) : t.onePost := by
  unfold State.onePost State.ringFor State.ring State.sem at hone ⊢
  rw [h.getO (o := Obj.ERR_SEQ_NEXT) (by decide), h.rings, h.sems]
  exact hone

/-- A record posted after changes that it does not show. -/
theorem State.posted_post_of_recordsAlike {s t : State} (h : s.recordsAlike t) (hone : s.onePost) (r : Rec) :
    s.posted r (t.post r) := by
  obtain ⟨hlog, hseq, hreason⟩ := State.posted_post t r (h.onePost hone)
  have hnext := h.getO (o := Obj.ERR_SEQ_NEXT) (by decide)
  rw [hnext, h.recordOf] at hlog
  rw [hnext] at hseq
  exact ⟨hlog, hseq, hreason⟩

/-! ### The self-tests (R102, R264) -/

theorem State.sameKey_faultMap (s : State) (c : Nat) {k : Nat} (h : k ≠ Obj.CORE_FAULT_COUNT.key) :
    State.sameKey k s (s.faultMap c) := by
  unfold State.faultMap
  extract_lets key m b t
  exact .ite (.refl s) ((State.sameKey_of_obj (s := s) (t := t) rfl).trans (State.sameKey_incO t _ _ _ _ h))

theorem State.faultMap_rest (s : State) (c : Nat) :
    s.faultMap c = { s with obj := (s.faultMap c).obj, blob := (s.faultMap c).blob, freeCtr := (s.faultMap c).freeCtr } := by
  unfold State.faultMap State.incO
  extract_lets key m b t v
  split_ifs <;> rfl

theorem State.recordsAlike_faultMap (s : State) (c : Nat) : s.recordsAlike (s.faultMap c) := by
  have hrest := s.faultMap_rest c
  refine ⟨by rw [hrest], by rw [hrest], by rw [hrest], by rw [hrest], fun k hk => s.sameKey_faultMap c ?_⟩
  rintro rfl
  revert hk
  decide

/-- A failed core: it is named in the fault map and recorded. -/
def State.coreFailedTest (s : State) (c : Nat) : State := (s.faultMap c).post { reason := 0x0108, source := c, d0 := c }

theorem State.sameKey_coresFailed (s : State) (cs : List Nat) {k : Nat} (h : k ∉ postKeys) (hc : k ≠ Obj.CORE_FAULT_COUNT.key) :
    State.sameKey k s (cs.foldl State.coreFailedTest s) :=
  .foldl (fun t c => (t.sameKey_faultMap c hc).trans (State.sameKey_post _ _ h)) cs s

/-- The outcome of the matrix self-test over all cores, of which `bad` have failed. -/
def State.selftestOutcome (s : State) (bad : List Nat) : State :=
  ((s.setO Obj.MATRIX_SELFTEST_STATE (if bad = [] then 2 else 3)).setO Obj.MATRIX_SELFTEST_FAILS bad.length).setO
    Obj.MATRIX_SELFTEST_FIRST_CORE (bad.headD 0xFFFF)

/-- With it the outcome of each core, before the records of those that failed. -/
def State.selftested (s : State) (failing : List Nat) (bad : List Nat) : State :=
  (s.selftestOutcome bad).setRange Obj.CORE_SELFTEST (fun c => if failing.contains c then 2 else 1) id (fun _ => 0) 800

theorem execMatrixSelftestComplete_running {s : State} (failing : List Nat) (h : s.getO Obj.MATRIX_SELFTEST_STATE = 1) :
    let bad := (List.range 800).filter fun c => decide (c ∈ failing)
    execMatrixSelftestComplete failing s = .next (bad.foldl State.coreFailedTest (s.selftested failing bad)) := by
  have hmem : (fun c => failing.contains c) = fun c => decide (c ∈ failing) := by
    funext c
    exact List.contains_eq_mem c failing
  unfold execMatrixSelftestComplete
  rw [if_neg (not_not.2 h), hmem]
  rfl

theorem State.restObj_trans {s t u : State} (h : t = { s with obj := t.obj }) (h' : u = { t with obj := u.obj }) :
    u = { s with obj := u.obj } := by rw [h', h]

/-- The keys that a matrix self-test reports in, beside those of the cores. -/
def selftestKeys : List Nat :=
  [Obj.MATRIX_SELFTEST_STATE.key, Obj.MATRIX_SELFTEST_FAILS.key, Obj.MATRIX_SELFTEST_FIRST_CORE.key]

/-- Keys of dictionary entries below the cores' range are those of no core. -/
theorem coreSelftest_key_ne {k : Nat} (h : k < 0xA000 * 256) (c : Nat) : k ≠ Obj.CORE_SELFTEST.key c := by
  have hkey : Obj.CORE_SELFTEST.key c = (0xA000 + c) * 256 + 4 := rfl
  omega

theorem coreSelftest_key_inj (a b : Nat) (h : Obj.CORE_SELFTEST.key (id a) 0 = Obj.CORE_SELFTEST.key (id b) 0) : a = b := by
  simp only [ObjDef.key, id] at h
  omega

theorem postKeys_lt : ∀ k ∈ Obj.CORE_FAULT_COUNT.key :: postKeys, k < 0xA000 * 256 := by decide

section
variable (s : State) (failing bad : List Nat)

theorem State.selftested_rest : s.selftested failing bad = { s with obj := (s.selftested failing bad).obj } :=
  State.restObj_trans (t := s.selftestOutcome bad) rfl (State.setRange_rest ..)

/-- A value outside the cores' range is the one set before the cores. -/
theorem State.sameKey_selftested {k : Nat} (h : k < 0xA000 * 256) (hk : k ∉ selftestKeys) :
    State.sameKey k s (s.selftested failing bad) := by
  simp only [selftestKeys, List.mem_cons, List.not_mem_nil, or_false, not_or] at hk
  obtain ⟨hstate, hfails, hfirst⟩ := hk
  have houtcome : State.sameKey k s (s.selftestOutcome bad) :=
    ((State.sameKey_setO _ _ _ _ _ hstate).trans (State.sameKey_setO _ _ _ _ _ hfails)).trans
      (State.sameKey_setO _ _ _ _ _ hfirst)
  exact houtcome.trans (State.sameKey_setRange _ _ _ _ _ _ fun c _ => coreSelftest_key_ne h c)

theorem State.recordsAlike_selftested : s.recordsAlike (s.selftested failing bad) := by
  have hrest := s.selftested_rest failing bad
  have hkeys : ∀ k ∈ recordKeys, k < 0xA000 * 256 ∧ k ∉ selftestKeys := by decide
  exact ⟨by rw [hrest], by rw [hrest], by rw [hrest], by rw [hrest],
    fun k hk => s.sameKey_selftested failing bad (hkeys k hk).1 (hkeys k hk).2⟩

theorem State.selftested_results :
    let t := s.selftested failing bad
    t.getO Obj.MATRIX_SELFTEST_STATE = (if bad = [] then 2 else 3) ∧ t.getO Obj.MATRIX_SELFTEST_FAILS = bad.length ∧
      t.getO Obj.MATRIX_SELFTEST_FIRST_CORE = bad.headD 0xFFFF ∧
      ∀ c, c < 800 → t.getO Obj.CORE_SELFTEST c = if c ∈ failing then 2 else 1 := by
  intro t
  have hbefore : ∀ o : ObjDef, o.key < 0xA000 * 256 → t.getO o = (s.selftestOutcome bad).getO o := fun o ho =>
    (State.sameKey_setRange _ _ _ _ _ _ fun c _ => coreSelftest_key_ne ho c).getO
  refine ⟨?_, ?_, ?_, fun c hc => ?_⟩
  · rw [hbefore _ (by decide), State.selftestOutcome, State.getO_setO_ne _ _ _ _ _ _ _ _ (by decide),
      State.getO_setO_ne _ _ _ _ _ _ _ _ (by decide), State.getO_setO_same]
  · rw [hbefore _ (by decide), State.selftestOutcome, State.getO_setO_ne _ _ _ _ _ _ _ _ (by decide), State.getO_setO_same]
  · rw [hbefore _ (by decide), State.selftestOutcome, State.getO_setO_same]
  · have hset : t.getO Obj.CORE_SELFTEST c = if failing.contains c then 2 else 1 :=
      State.getO_setRange _ _ _ id _ _ hc coreSelftest_key_inj
    simpa only [List.contains_iff_mem] using hset

end

/-- What a matrix self-test leaves once the failed cores are recorded (R102). -/
theorem State.coresFailed_results (s : State) (failing bad : List Nat) :
    let t := bad.foldl State.coreFailedTest (s.selftested failing bad)
    t.getO Obj.MATRIX_SELFTEST_STATE = (if bad = [] then 2 else 3) ∧ t.getO Obj.MATRIX_SELFTEST_FAILS = bad.length ∧
      t.getO Obj.MATRIX_SELFTEST_FIRST_CORE = bad.headD 0xFFFF ∧
      (∀ c, c < 800 → t.getO Obj.CORE_SELFTEST c = if c ∈ failing then 2 else 1) ∧
      (bad = [] → t = { s with obj := t.obj }) ∧
      ∀ c, bad = [c] → s.onePost → s.posted { reason := 0x0108, source := c, d0 := c } t := by
  intro t
  have hkeep : ∀ {k : Nat}, k ∉ Obj.CORE_FAULT_COUNT.key :: postKeys → State.sameKey k (s.selftested failing bad) t := by
    intro k hk
    rw [List.mem_cons, not_or] at hk
    exact State.sameKey_coresFailed _ _ hk.2 hk.1
  obtain ⟨hstate, hfails, hfirst, hcores⟩ := s.selftested_results failing bad
  refine ⟨?_, ?_, ?_, fun c hc => ?_, fun hbad => ?_, fun c hbad hone => ?_⟩
  · rw [(hkeep (by decide)).getO, hstate]
  · rw [(hkeep (by decide)).getO, hfails]
  · rw [(hkeep (by decide)).getO, hfirst]
  · have hcore : Obj.CORE_SELFTEST.key c ∉ Obj.CORE_FAULT_COUNT.key :: postKeys := fun hk =>
      coreSelftest_key_ne (postKeys_lt _ hk) c rfl
    rw [(hkeep hcore).getO, hcores c hc]
  · subst hbad
    rw [show t = s.selftested failing [] from List.foldl_nil]
    exact s.selftested_rest failing []
  · subst hbad
    exact State.posted_post_of_recordsAlike
      ((s.recordsAlike_selftested failing [c]).trans (State.recordsAlike_faultMap _ c)) hone _

/-- The end of a residue self-test that runs (R264). -/
theorem exec_residueTestComplete_running (s : State) {m : Nat} (h : s.getO Obj.REDUCE_RESIDUE_TEST_STATE = 1) (hm : m < 2 ^ 16) :
    ∃ t, exec (.residueTestComplete m) s = .next t ∧ t.getO Obj.REDUCE_RESIDUE_TEST_FIRST = m ∧
      (m = 0xFFFF → t.getO Obj.REDUCE_RESIDUE_TEST_STATE = 2 ∧ t = { s with obj := t.obj }) ∧
      (m ≠ 0xFFFF → t.getO Obj.REDUCE_RESIDUE_TEST_STATE = 3 ∧ (s.onePost → s.posted { reason := 0x0502, d0 := m } t)) := by
  have hmod : m % 65536 = m := Nat.mod_eq_of_lt hm
  rw [exec_residueTestComplete, execResidueTestComplete, if_neg (not_not.2 h)]
  simp only [hmod]
  by_cases hnone : m = 0xFFFF
  · rw [if_pos hnone]
    exact ⟨_, rfl, by rw [State.getO_setO_ne _ _ _ _ _ _ _ _ (by decide), State.getO_setO_same],
      fun _ => ⟨State.getO_setO_same .., rfl⟩, fun hne => absurd hnone hne⟩
  · rw [if_neg hnone]
    have hkeys : ∀ k ∈ recordKeys, k ≠ Obj.REDUCE_RESIDUE_TEST_FIRST.key ∧ k ≠ Obj.REDUCE_RESIDUE_TEST_STATE.key := by decide
    have halike : s.recordsAlike ((s.setO Obj.REDUCE_RESIDUE_TEST_FIRST m).setO Obj.REDUCE_RESIDUE_TEST_STATE 3) :=
      State.onlyObj.recordsAlike rfl fun k hk =>
        (State.sameKey_setO _ _ _ _ _ (hkeys k hk).1).trans (State.sameKey_setO _ _ _ _ _ (hkeys k hk).2)
    refine ⟨_, rfl, ?_, fun he => absurd he hnone, fun _ => ⟨?_, fun hone => State.posted_post_of_recordsAlike halike hone _⟩⟩
    · rw [(State.sameKey_post _ _ (by decide)).getO, State.getO_setO_ne _ _ _ _ _ _ _ _ (by decide), State.getO_setO_same]
    · rw [(State.sameKey_post _ _ (by decide)).getO, State.getO_setO_same]

/-! ### Configuration writes (R68, R102, R203, R264, R275, R365, R479, R494) -/

/-- What a write of one input of the winnow probe leaves. -/
theorem State.winnowWrite_results (s : State) (rq : Nat) {o : ObjDef} (v : Nat) (ho : o ∈ winnowInputs) :
    let t := (s.setSel rq o v).probeWinnow rq
    let q := probedBlock fun p => if p = o then v else s.getSel rq p
    t.getSel rq o = v ∧ t.getSel rq Obj.WINNOW_PROBE_BLOCK_LO = q.a + q.b * 2 ^ 32 ∧
      t.getSel rq Obj.WINNOW_PROBE_BLOCK_HI = q.c + q.d * 2 ^ 32 ∧
      t.getSel rq Obj.WINNOW_PROBE_DRAW_VALUE = q.a / 65536 % 65536 ∧ s.onlySel rq t := by
  have hinputs : ∀ p ∈ winnowInputs, p ∈ selObjs ∧ p.acc ≠ .ro := by decide
  obtain ⟨hsel, hacc⟩ := hinputs o ho
  obtain ⟨hlo, hhi, hdraw, honly⟩ := (s.setSel rq o v).probeWinnow_results rq
  obtain ⟨hkept, -⟩ := (s.setSel rq o v).probeWinnow_keeps rq (List.contains_iff_mem.2 hsel) hacc
  rw [probedBlock_setSel s rq v ho] at hlo hhi hdraw
  exact ⟨hkept.trans (State.getSel_setSel_same ..), hlo, hhi, hdraw, (s.onlySel_setSel rq v hsel).trans honly⟩

/-- What a write of the position of the shuffle probe leaves. -/
theorem State.shuffleWrite_results (s : State) (rq v : Nat) :
    let t := (s.setSel rq Obj.SHUF_PROBE_POS v).probeShuffle rq
    let r := shuffle (s.getSel rq Obj.SHUF_PROBE_SAMPLES) (s.getSel rq Obj.SHUF_PROBE_SEED)
      (s.getSel rq Obj.SHUF_PROBE_EPOCH) v
    t.getSel rq Obj.SHUF_PROBE_POS = v ∧ t.getSel rq Obj.SHUF_PROBE_SAMPLE = r.1 ∧ t.getSel rq Obj.SHUF_PROBE_WALK = r.2 ∧
      t = { s with sel := t.sel } := by
  obtain ⟨hsample, hwalk, honly⟩ := (s.setSel rq Obj.SHUF_PROBE_POS v).probeShuffle_results rq
  obtain ⟨hkept, -⟩ := (s.setSel rq Obj.SHUF_PROBE_POS v).probeShuffle_keeps rq (o := Obj.SHUF_PROBE_POS) (by decide) (by decide)
  rw [State.getSel_setSel_ne _ _ _ (by decide), State.getSel_setSel_ne _ _ _ (by decide),
    State.getSel_setSel_ne _ _ _ (by decide), State.getSel_setSel_same] at hsample hwalk
  exact ⟨hkept.trans (State.getSel_setSel_same ..), hsample, hwalk,
    ((s.onlySel_setSel rq v (by decide)).trans honly).rest⟩

/-- The objects with effects of their own whose writes O53 speaks of. -/
def configObjs : List ObjDef :=
  winnowInputs ++ queueMembers.map (·.2) ++ [Obj.SHUF_PROBE_POS, Obj.SHUF_SAMPLES, Obj.CRIB_POOL_INIT,
    Obj.MATRIX_SELFTEST_RUN, Obj.REDUCE_RESIDUE_TEST, Obj.CORE_EXCLUDE, Obj.CLK_CORE_SRC]

theorem configObjs_writable : ∀ o ∈ configObjs, o.writable = true ∧ 0 < o.reps ∧ 0 < o.subs ∧ zeroIdle o = false := by
  decide +kernel

theorem winnowInputs_config : ∀ o ∈ winnowInputs, o ∈ configObjs := by decide

theorem queueMembers_config : ∀ p ∈ queueMembers, p.2 ∈ configObjs ∧ p.2.index = 0x3241 ∧ 1 ≤ p.1 ∧ p.1 ≤ 5 := by decide

/-- An accepted write of an object that has one repetition and member. -/
theorem State.writeObj_config {s : State} {src : Src} {o : ObjDef} {v : Nat} {w : State} {st : Nat}
    (h : s.acceptedWrite src o 0 0 v) (ho : o ∈ configObjs) (he : (s.taken src).applyWrite src.rq o 0 0 v = (w, st)) :
    s.writeObj src o v = .next (w.answered s src 4 st 0 []) := by
  obtain ⟨hw, hi, hj, hz⟩ := configObjs_writable o ho
  exact State.writeObj_effect h hw hi hj (.inr hz) he

/-- QUEUE_CFG_WRITE writes the member of its number. -/
theorem exec_queueCfgWrite_member (s : State) (src : Src) {m : Nat} {o : ObjDef} (v : Nat) (h : (m, o) ∈ queueMembers) :
    exec (.queueCfgWrite src m v) s = s.writeObj src o v := by
  simp only [queueMembers, List.mem_cons, Prod.mk.injEq, List.not_mem_nil, or_false] at h
  rcases h with ⟨rfl, rfl⟩ | ⟨rfl, rfl⟩ | ⟨rfl, rfl⟩ | ⟨rfl, rfl⟩ | ⟨rfl, rfl⟩ <;> rfl

/-- A ring that an accepted write configures is not bound while the device is RUNNING (R365). -/
theorem State.acceptedWrite.ringFree {s : State} {src : Src} {o : ObjDef} {i j v : Nat} (h : s.acceptedWrite src o i j v)
    (ho : o.index = 0x3241) :
    ¬((s.taken src).running = true ∧
      ((s.taken src).ring ((s.taken src).getSel src.rq Obj.QUEUE_SEL_NUMBER)).binding ≠ 0) := by
  intro hbound
  have hring := h.ring
  unfold State.ringLocked at hring
  rw [decide_eq_true ho, hbound.1, decide_eq_true hbound.2] at hring
  cases hring

/-- What the exclusion of a core leaves. -/
theorem State.coreExclude_results (s : State) {n : Nat} (v : Nat) (hn : n < 800) :
    let t := (s.setO Obj.CORE_EXCLUDE v n).redirty
    t.getO Obj.CORE_EXCLUDE n = v ∧ t = { s with obj := t.obj } ∧
      ∀ k, k < 800 → k ≠ n → t.getO Obj.CORE_EXCLUDE k = s.getO Obj.CORE_EXCLUDE k := by
  intro t
  have hdirty : ∀ k, k < 800 → t.getO Obj.CORE_EXCLUDE k = (s.setO Obj.CORE_EXCLUDE v n).getO Obj.CORE_EXCLUDE k := fun k hk =>
    (State.sameKey_redirty _ (key_ne_storeDirty
      (findObj_of_writable (i := k) (j := 0) (configObjs_writable Obj.CORE_EXCLUDE (by decide)).1 hk (by decide)) rfl)).getO
  refine ⟨by rw [hdirty n hn, State.getO_setO_same], rfl, fun k hk hne => ?_⟩
  have hkey : Obj.CORE_EXCLUDE.key k ≠ Obj.CORE_EXCLUDE.key n := by
    simp only [ObjDef.key]
    omega
  rw [hdirty k hk, State.getO_setO_ne _ _ _ _ _ _ _ _ hkey]

/-- Settles O53: the effect of each accepted write, and the ends of the two self-tests. -/
theorem configurationWrites : Obligations.ConfigurationWrites := by
  refine ⟨fun s src v => ?_, fun s src v n => ?_, fun s failing h =>
    ⟨_, execMatrixSelftestComplete_running failing h, s.coresFailed_results failing _⟩, fun s failing h => if_pos h,
    fun s m => exec_residueTestComplete_running s, fun s m h => if_pos h⟩
  · intro u rq writes inputs members
    refine ⟨fun m o hm h => ?_, fun h => ?_, fun h => ?_, fun m o hm h => ?_⟩
    · have ho : o ∈ winnowInputs := List.mem_map_of_mem hm
      obtain ⟨hinput, hlo, hhi, hdraw, honly⟩ := u.winnowWrite_results rq v ho
      exact ⟨_, (exec_winnowProbe_member s src v hm).trans
          (State.writeObj_config h (winnowInputs_config o ho) (u.applyWrite_winnowInput rq v ho)),
        hinput, hlo, hhi, hdraw, honly.rest, fun k p hk _ hp => honly.others k p hk hp⟩
    · exact ⟨_, State.writeObj_config h (by decide) (u.applyWrite_shufProbePos rq v), u.shuffleWrite_results rq v⟩
    · exact ⟨_, State.writeObj_config h (by decide) (u.applyWrite_shufSamples rq v), State.getO_setO_same .., rfl,
        fun p k l hne => State.getO_setO_ne _ _ _ _ _ _ _ _ hne⟩
    · intro q r n bad
      obtain ⟨hconfig, hindex, hm1, hm5⟩ := queueMembers_config (m, o) hm
      have hx := exec_queueCfgWrite_member s src v hm
      obtain ⟨hok, herr⟩ := u.queueCfg_configured q ⟨hm1, hm5⟩ (h.ringFree hindex)
      obtain ⟨hset, hrefuse⟩ := u.applyWrite_ring rq (v := v) hm
      refine ⟨fun hbad => ?_, fun hbad => ?_⟩
      · exact ⟨_, hx.trans (State.writeObj_config h hconfig (hset _ (hok hbad))), State.ring_setRing_same ..,
          fun k hk => State.ring_setRing_ne _ _ _ _ hk, rfl⟩
      · exact ⟨_, hx.trans (State.writeObj_config h hconfig (hrefuse _ (herr hbad))), rfl⟩
  · intro u writes pages data word
    have hcrib : ∀ k w st, u.cribGo k = (w, st) → u.applyWrite src.rq Obj.CRIB_POOL_INIT 0 0 k = (w, st) := fun k w st h =>
      State.applyWrite_command ((u.command_cribPoolInit src.rq k).trans (congrArg some h))
    refine ⟨fun hstate hpages hlt hchk h => ?_, fun hrefuse h => ?_, fun hfences h => ?_, fun hfences h => ?_, fun hidle h => ?_,
      fun hrun h => ?_, fun hidle h => ?_, fun hrun h => ?_, fun hn h => ?_, fun hn => ?_⟩
    · exact ⟨_, State.writeObj_config h (by decide) (hcrib 1 _ _ (State.cribGo_lays hstate hpages hchk)),
        u.cribLaid_results hlt⟩
    · exact ⟨u, State.writeObj_config h (by decide) (hcrib 1 _ _ (State.cribGo_refused hrefuse)), rfl⟩
    · exact ⟨_, State.writeObj_config h (by decide) (hcrib 2 _ _ (State.cribGo_release hfences)), State.getO_setO_same .., rfl⟩
    · exact ⟨u, State.writeObj_config h (by decide) (hcrib 2 _ _ (State.cribGo_fenced hfences)), rfl⟩
    · have he := State.applyWrite_command (j := 0) (u.command_matrixSelftestRun src.rq)
      rw [if_neg hidle] at he
      exact ⟨_, State.writeObj_config h (by decide) he, State.getO_setO_same .., rfl⟩
    · have he := State.applyWrite_command (j := 0) (u.command_matrixSelftestRun src.rq)
      rw [if_pos hrun] at he
      exact ⟨u, State.writeObj_config h (by decide) he, rfl⟩
    · have he := State.applyWrite_command (j := 0) (u.command_reduceResidueTest src.rq)
      rw [if_neg hidle] at he
      exact ⟨_, State.writeObj_config h (by decide) he, State.getO_setO_same .., rfl⟩
    · have he := State.applyWrite_command (j := 0) (u.command_reduceResidueTest src.rq)
      rw [if_pos hrun] at he
      exact ⟨u, State.writeObj_config h (by decide) he, rfl⟩
    · have hx : exec (.coreExclude src n v) s = s.writeObj src Obj.CORE_EXCLUDE v n := if_neg (Nat.not_le.2 hn)
      have hw := State.writeObj_effect h (configObjs_writable Obj.CORE_EXCLUDE (by decide)).1 hn (by decide) (.inr rfl)
        (u.applyWrite_coreExclude src.rq n v)
      exact ⟨_, hx.trans hw, u.coreExclude_results v hn⟩
    · intro ready
      have hx : exec (.clkCoreSrc src n v) s = s.writeObj src Obj.CLK_CORE_SRC v 0 n := if_neg (Nat.not_le.2 hn)
      have hwrite := fun h w st => State.writeObj_effect (s := s) (src := src) (i := 0) (v := v) (w := w) (st := st) h
        (configObjs_writable Obj.CLK_CORE_SRC (by decide)).1 (by decide) hn (.inr rfl)
      have happly := u.applyWrite_clkCoreSrc src.rq n v
      refine ⟨fun hready h => ?_, fun hready h => ?_⟩
      · rw [State.switchSrc_ready hready] at happly
        exact ⟨_, hx.trans (hwrite h _ _ happly), u.srcSwitched_results v hn⟩
      · have hv : v = 0 ∨ v = 1 := by
          have hcodes : v ∈ [0, 1] := ObjDef.mem_codes_of_rangeOk h.rangeOk (by decide)
          simpa using hcodes
        rw [State.switchSrc_notReady hv hready] at happly
        exact ⟨_, hx.trans (hwrite h _ _ happly), (State.sameKey_incO _ _ _ _ _ (clkCoreSrc_key_ne n hn).2).getO,
          State.getO_incO_same⟩

end Sys2Proof.Machine

namespace Sys2Proof.Machine

/-! ### Words as bit vectors, and replaced fields of bits (R123, R124) -/

theorem ofSigned_eq_toNat (w : Nat) (i : Int) : ofSigned w i = (BitVec.ofInt w i).toNat := (BitVec.toNat_ofInt i).symm

theorem toSigned_eq_toInt (w n : Nat) : toSigned w n = (BitVec.ofNat w n).toInt := by
  unfold toSigned
  rw [BitVec.toInt_eq_toNat_cond, BitVec.toNat_ofNat]
  cases w with
  | zero => simp [Nat.mod_one]
  | succ w =>
    rw [Nat.add_sub_cancel]
    exact if_congr (by rw [pow_succ']; omega) rfl rfl

theorem ofSigned_add (w n : Nat) (i : Int) : ofSigned w (n + i) = (BitVec.ofNat w n + BitVec.ofInt w i).toNat := by
  rw [ofSigned_eq_toNat, BitVec.ofInt_add, BitVec.ofInt_natCast]

/-- The signed immediate as a word (R123). -/
theorem ofInt_simm (w : Nat) (i : InsI) : BitVec.ofInt w (simm i) = (BitVec.ofInt 18 i.imm).signExtend w := by
  rw [simm, toSigned_eq_toInt, ofSigned_eq_toNat, BitVec.ofNat_toNat, BitVec.setWidth_eq]
  rfl

theorem iea_eq (i : InsI) (c : Ctx) :
    iea i c = (BitVec.ofNat 64 (c.get i.a) + (BitVec.ofInt 18 i.imm).signExtend 64).toNat := by
  rw [iea, ofSigned_add, ofInt_simm]

theorem setBits_eq (w v lo n : Nat) (hn : 0 < n) :
    setBits w (lo + n - 1) lo v = 2 ^ lo * (2 ^ n * (w >>> (lo + n)) + v % 2 ^ n) + w % 2 ^ lo := by
  have hw : w = 2 ^ lo * (2 ^ n * (w >>> (lo + n)) + (w >>> lo) % 2 ^ n) + w % 2 ^ lo := by
    rw [Nat.shiftRight_add, Nat.shiftRight_eq_div_pow _ n, Nat.div_add_mod, Nat.shiftRight_eq_div_pow, Nat.div_add_mod]
  unfold setBits bits
  rw [show lo + n - 1 + 1 - lo = n by omega]
  generalize w >>> (lo + n) = q at hw ⊢
  generalize (w >>> lo) % 2 ^ n = f at hw ⊢
  generalize w % 2 ^ lo = r at hw ⊢
  rw [hw, Nat.mul_add, Nat.mul_add]
  rw [Nat.mul_comm f, Nat.mul_comm (v % 2 ^ n)]
  omega

/-- The bits of a number once its bits [hi:lo] have been replaced. -/
theorem testBit_setBits (w v k : Nat) {hi lo : Nat} (h : lo ≤ hi) :
    (setBits w hi lo v).testBit k = if lo ≤ k ∧ k ≤ hi then v.testBit (k - lo) else w.testBit k := by
  obtain ⟨n, hn, rfl⟩ : ∃ n, 0 < n ∧ hi = lo + n - 1 := ⟨hi + 1 - lo, by omega, by omega⟩
  have hr : w % 2 ^ lo < 2 ^ lo := Nat.mod_lt _ (by positivity)
  have hf : v % 2 ^ n < 2 ^ n := Nat.mod_lt _ (by positivity)
  rw [setBits_eq _ _ _ _ hn, Nat.testBit_two_pow_mul_add _ hr, Nat.testBit_two_pow_mul_add _ hf, Nat.testBit_mod_two_pow,
    Nat.testBit_mod_two_pow, Nat.testBit_shiftRight]
  by_cases hlow : k < lo
  · rw [if_pos hlow, if_neg (by omega)]
    simp [hlow]
  · rw [if_neg hlow]
    by_cases hmid : k - lo < n
    · rw [if_pos hmid, if_pos (by omega)]
      simp [hmid]
    · rw [if_neg hmid, if_neg (by omega)]
      congr 1
      omega

theorem setBits_lt {w hi lo v m : Nat} (h : lo ≤ hi) (hm : hi < m) (hw : w < 2 ^ m) : setBits w hi lo v < 2 ^ m := by
  refine Nat.lt_pow_two_of_testBit _ fun k hk => ?_
  rw [testBit_setBits _ _ _ h, if_neg (by omega)]
  exact Nat.testBit_lt_two_pow (hw.trans_le (Nat.pow_le_pow_right (by decide) hk))

/-! ### Integer instructions (R124) -/

/-- A register as a word of 64 bits. -/
theorem Ctx.get_eq_toNat (c : Ctx) (n : Nat) : c.get n = (BitVec.ofNat 64 (c.get n)).toNat :=
  ((BitVec.toNat_ofNat ..).trans (Nat.mod_eq_of_lt (c.get_lt n))).symm

section
variable (a b : BitVec 64)

theorem sar_eq : ofSigned 64 ((toSigned 64 a.toNat).fdiv (2 ^ (b.toNat % 64) : Nat)) = (a.sshiftRight (b.toNat % 64)).toNat := by
  rw [ofSigned_eq_toNat, toSigned_eq_toInt, BitVec.ofNat_toNat, BitVec.setWidth_eq,
    Int.fdiv_eq_ediv_of_nonneg _ (Int.natCast_nonneg _),
    ← Int.shiftRight_eq_div_pow]
  rfl

theorem slt_iff : toSigned 64 a.toNat < toSigned 64 b.toNat ↔ a.slt b = true := by
  rw [toSigned_eq_toInt, toSigned_eq_toInt, BitVec.ofNat_toNat, BitVec.ofNat_toNat, BitVec.setWidth_eq, BitVec.setWidth_eq,
    BitVec.slt_iff_toInt_lt]

end

/-- INSI replaces one quarter of a register. -/
theorem insi_testBit (w : Nat) (imm : BitVec 18) (k : Nat) :
    (setBits w (16 * (imm.toNat / 65536) + 15) (16 * (imm.toNat / 65536)) imm.toNat).testBit k =
      if k / 16 = (imm.extractLsb' 16 2).toNat then imm.getLsbD (k % 16) else w.testBit k := by
  have hq : (imm.extractLsb' 16 2).toNat = imm.toNat / 65536 := by
    have := imm.isLt
    rw [BitVec.extractLsb'_toNat, Nat.shiftRight_eq_div_pow]
    exact Nat.mod_eq_of_lt (by omega)
  rw [testBit_setBits _ _ _ (Nat.le_add_right _ _), hq]
  by_cases h : k / 16 = imm.toNat / 65536
  · rw [if_pos (by omega), if_pos h, show k - 16 * (imm.toNat / 65536) = k % 16 by omega]
    rfl
  · rw [if_neg (by omega), if_neg h]

/-- Settles O10: each instruction is a register instruction without flags, whose word the lemmas above give. -/
theorem scalarIntegerResults : Obligations.ScalarIntegerResults := by
  refine ⟨?_, ?_⟩
  · intro s core ctx i h hfn c a b gives
    have key : ∀ (x : Instr) (f : Nat → Nat → Nat) (v : BitVec 64), exec x s = s.plainA core ctx i (alu i f) →
        f a.toNat b.toNat = v.toNat → gives x v := by
      intro x f v hx hv
      obtain ⟨t, ht, ho⟩ := s.scalarOp_runs core ctx (alu i f) h rfl (Ctx.set_pc ..)
      refine ⟨t, hx.trans ((State.plainA_scalarOp _ hfn).trans ht), ?_⟩
      have hc : (alu i f c).1 = c.set i.d v.toNat := by rw [← hv, ← c.get_eq_toNat, ← c.get_eq_toNat]; rfl
      rw [← hc]
      exact ho
    refine ⟨key _ _ _ rfl ?_, key _ _ _ rfl ?_, key _ _ _ rfl ?_, key _ _ _ rfl ?_, key _ _ _ rfl ?_, key _ _ _ rfl ?_,
      key _ _ _ rfl ?_, key _ _ _ rfl ?_, key _ _ _ rfl ?_, key _ _ _ rfl (sar_eq a b), key _ _ _ rfl ?_, key _ _ _ rfl ?_⟩
    · exact (BitVec.toNat_add a b).symm
    · rw [Nat.mod_eq_of_lt b.isLt, Nat.add_comm]
      exact (BitVec.toNat_sub a b).symm
    · exact (BitVec.toNat_mul a b).symm
    · by_cases hb : b = 0
      · rw [if_pos hb, hb]; rfl
      · rw [if_neg hb, if_neg (show ¬b.toNat = 0 from fun e => hb (BitVec.eq_of_toNat_eq e))]; rfl
    · rfl
    · rfl
    · rfl
    · exact (BitVec.toNat_shiftLeft ..).symm
    · exact (BitVec.toNat_ushiftRight ..).symm
    · rw [apply_ite BitVec.toNat]
      exact if_congr (slt_iff a b) rfl rfl
    · rw [apply_ite BitVec.toNat]
      exact if_congr (BitVec.ult_iff_toNat_lt.symm) rfl rfl
  · intro s core ctx i h c a imm p
    refine ⟨?_, ?_⟩
    · obtain ⟨t, ht, ho⟩ := s.scalarOp_runs core ctx (fun c => (c.set i.d (iea i c), 0)) h rfl (Ctx.set_pc ..)
      refine ⟨t, ht, ?_⟩
      rw [← iea_eq]
      exact ho
    · obtain ⟨t, ht, ho⟩ := s.scalarOp_runs core ctx (fun c => (c.set i.d (setBits (c.get i.a)
        (16 * (ofSigned 18 i.imm / 65536) + 15) (16 * (ofSigned 18 i.imm / 65536)) (ofSigned 18 i.imm)), 0)) h rfl (Ctx.set_pc ..)
      refine ⟨t, _, ht, ho, ?_, fun k _ => ?_⟩
      · have := imm.isLt
        rw [ofSigned_eq_toNat]
        exact setBits_lt (Nat.le_add_right _ _) (by show _ < 64; omega) (c.get_lt _)
      · rw [ofSigned_eq_toNat]
        refine (insi_testBit _ imm k).trans (if_congr Iff.rfl rfl ?_)
        show _ = (BitVec.ofNat 64 _).toNat.testBit k
        rw [← c.get_eq_toNat]

end Sys2Proof.Machine

namespace Sys2Proof.Machine

/-! ### Branches and jumps (R124, R138) -/

/-- The next instruction's address. -/
theorem nextPc_eq (pc : Nat) : (pc + 4) % 2 ^ 64 = (BitVec.ofNat 64 pc + 4).toNat := by
  rw [BitVec.toNat_add, BitVec.toNat_ofNat]
  exact (Nat.mod_add_mod ..).symm

/-- The address of a taken branch. -/
theorem branchPc_eq (pc : Nat) (i : InsI) :
    ofSigned 64 ((pc : Int) + 4 * simm i) = (BitVec.ofNat 64 pc + 4 * (BitVec.ofInt 18 i.imm).signExtend 64).toNat := by
  rw [ofSigned_add, BitVec.ofInt_mul, ofInt_simm]
  rfl

theorem Ctx.get_eq_iff (c : Ctx) (n m : Nat) : c.get n = c.get m ↔ BitVec.ofNat 64 (c.get n) = BitVec.ofNat 64 (c.get m) :=
  ⟨congrArg _, fun h => by rw [c.get_eq_toNat n, h, ← c.get_eq_toNat]⟩

theorem Ctx.get_slt_iff (c : Ctx) (n m : Nat) :
    toSigned 64 (c.get n) < toSigned 64 (c.get m) ↔ (BitVec.ofNat 64 (c.get n)).slt (BitVec.ofNat 64 (c.get m)) = true := by
  rw [toSigned_eq_toInt, toSigned_eq_toInt, BitVec.slt_iff_toInt_lt]

/-- A fault of an instruction in no-exception mode, whose substitute is no operation: it is recorded, and the context goes
on (R138). -/
theorem State.trapNop_noexc {s : State} {core ctx : Nat} (k : KCause) (h : (s.ctx core ctx).noexc = true) :
    (s.trapNop core ctx k).ctx core ctx = ((s.ctx core ctx).subst k none).next := by
  have hsub : (s.substitute core ctx k none).ctx core ctx = (s.ctx core ctx).subst k none := by
    unfold State.substitute State.ctx
    rw [State.onlyObj_incO]
    exact State.ctx_setCtx_same ..
  unfold State.trapNop State.trap State.advance
  rw [if_pos h, State.ctx_setCtx_same, hsub]
  rfl

/-- Settles O13: a branch and a jump only set the context's program counter. -/
theorem scalarBranchResults : Obligations.ScalarBranchResults := by
  intro s core ctx i h c a d imm pc goes
  have key : ∀ (x : Instr) (k : State → State) (c' : Ctx) (dst : BitVec 64), exec x s = s.issue core ctx k →
      k s = s.setCtx core ctx { c' with pc := dst.toNat } → goes x c' dst := by
    intro x k c' dst hx hk
    refine ⟨_, hx.trans (s.issue_runs core ctx k h), ?_⟩
    rw [hk]
    exact s.onlyCtx_setCtx core ctx _ h.ctx_lt
  have branch : ∀ (x : Instr) (p : Nat → Nat → Bool) (P : Prop) [Decidable P], exec x s = s.branch core ctx i p →
      (p (c.get i.d) (c.get i.a) = true ↔ P) → goes x c (if P then pc + 4 * imm else pc + 4) := by
    intro x p P _ hx hp
    refine key x _ c _ hx ?_
    show s.setCtx core ctx { c with pc := if p (c.get i.d) (c.get i.a) then _ else _ } = _
    rw [branchPc_eq, nextPc_eq, if_congr hp rfl rfl, ← apply_ite BitVec.toNat]
  have heq : c.get i.d = c.get i.a ↔ d = a := c.get_eq_iff i.d i.a
  have hslt : toSigned 64 (c.get i.d) < toSigned 64 (c.get i.a) ↔ d.slt a = true := c.get_slt_iff i.d i.a
  have hjr : ∀ (P : State → Prop),
      P (if iea i c % 4 ≠ 0 then s.trapNop core ctx .alignment else s.setCtx core ctx { c with pc := iea i c }) →
      ∃ t, exec (.jr core ctx i) s = .next t ∧ P t := fun P hP => ⟨_, s.issue_runs core ctx _ h, hP⟩
  rw [iea_eq] at hjr
  refine ⟨branch _ (fun a b => decide (a = b)) _ rfl (decide_eq_true_iff.trans heq), ?_,
    branch _ (fun a b => decide (toSigned 64 a < toSigned 64 b)) _ rfl (decide_eq_true_iff.trans hslt), ?_,
    key _ _ _ _ rfl ?_, fun ha => hjr _ ?_, fun ha hn => hjr _ ?_⟩
  · rw [← ite_not]
    exact branch _ (fun a b => decide (a ≠ b)) _ rfl (decide_eq_true_iff.trans heq.not)
  · rw [← ite_not]
    exact branch _ (fun a b => decide (toSigned 64 a ≥ toSigned 64 b)) _ rfl
      (decide_eq_true_iff.trans (not_lt.symm.trans hslt.not))
  · show s.setCtx core ctx { c.set i.d (c.pc + 4) with pc := ofSigned 64 ((c.pc : Int) + 4 * simm i) } = _
    rw [branchPc_eq]
  · rw [if_neg (not_not_intro ha)]
    exact s.onlyCtx_setCtx core ctx _ h.ctx_lt
  · rw [if_pos ha]
    exact State.trapNop_noexc .alignment hn

end Sys2Proof.Machine

namespace Sys2Proof.Machine

/-! ### Loads and stores of the control core (R124, R138, R358, R373) -/

theorem State.access_aligned {s : State} {core a n : Nat} {store : Bool} {r : Region} (h : s.access core a n store = .ok r) :
    a % n = 0 := by
  unfold State.access at h
  extract_lets q ok at h
  split_ifs at h with hok hal
  exact not_not.1 hal

/-- A write within one codeword whose check bits, with those of its burst, are those of their data stores its bytes. -/
theorem State.writeMem_within {s : State} {a : Nat} {bs : List Byte} (hne : bs ≠ []) (hfit : a % 16 + bs.length ≤ 16)
    (h : s.clean a bs.length) : s.writeMem a bs = (s.poke a bs, none) := by
  obtain ⟨b, bs, rfl⟩ := List.exists_cons_of_ne_nil hne
  have hlen : (b :: bs).length = bs.length + 1 := rfl
  have hunit : s.writeUnit (a / if a < lpEnd then 32 else 16) (if a < lpEnd then 32 else 16) a (b :: bs) =
      (s.poke a (b :: bs), false) := by
    unfold State.writeUnit
    extract_lets cs
    rw [if_pos]
    simp only [List.all_eq_true, decide_eq_true_eq]
    intro c hc
    refine h c ?_
    unfold cwsOf
    by_cases hlp : a < lpEnd
    · have hq : (a + bs.length) / 32 = a / 32 := by omega
      simp only [cs, if_pos hlp, if_true] at hc
      simpa [if_pos hlp, hq, Nat.add_sub_cancel_left] using hc
    · have hq : (a + bs.length) / 16 = a / 16 := by omega
      simp only [cs, if_neg hlp, if_neg (by decide : ¬(16 = 32))] at hc
      simpa [if_neg hlp, hq, Nat.add_sub_cancel_left, eq_comm] using hc
  have hroom : (b :: bs).length ≤ (a / (if a < lpEnd then 32 else 16) + 1) * (if a < lpEnd then 32 else 16) - a := by
    split_ifs <;> omega
  unfold State.writeMem State.writeMemF
  simp only [List.take_of_length_le hroom, List.drop_eq_nil_of_le hroom, hunit]
  rfl

/-- An aligned access of a width of the core lies within a codeword. -/
theorem width_fits {a n : Nat} (hn : n ∈ [1, 2, 4, 8]) (ha : a % n = 0) : 0 < n ∧ a % 16 + n ≤ 16 := by
  simp only [List.mem_cons, List.not_mem_nil, or_false] at hn
  rcases hn with rfl | rfl | rfl | rfl <;> omega

theorem Ctx.set_next (c : Ctx) (n v : Nat) : ({ c.set n v with pc := (c.pc + 4) % 2 ^ 64 } : Ctx) = (c.set n v).next := by
  unfold Ctx.next
  rw [Ctx.set_pc]

theorem State.advance_onlyCtx (s : State) {core ctx : Nat} (h : ctx < 2048) :
    s.onlyCtx core ctx (s.ctx core ctx).next (s.advance core ctx) := s.onlyCtx_setCtx core ctx _ h

section
variable {s : State} {core ctx n : Nat} {i : InsI} (h : s.issues core ctx)
include h

/-- A load over a quiet mesh whose value can be read. -/
theorem State.loadN_reads {r : Region} {v : Nat} (ha : s.access core (iea i (s.ctx core ctx)) n false = .ok r)
    (hv : s.loadRaw (iea i (s.ctx core ctx)) n r = (s, some v)) :
    ∃ t, s.loadN core ctx n i 0 = .next t ∧ s.onlyCtx core ctx ((s.ctx core ctx).set i.d v).next t := by
  refine ⟨_, (s.issue_runs core ctx _ h).trans (congrArg _ ?_), s.onlyCtx_setCtx core ctx _ h.ctx_lt⟩
  have hmesh : s.meshPass 0 core core = (s, some 0) := if_pos rfl
  simp only [ha, hv, hmesh, Ctx.set_next, Nat.zero_shiftRight, Nat.zero_mod, Nat.xor_zero, ite_self]

theorem State.loadN_memory {r : Region} (ha : s.access core (iea i (s.ctx core ctx)) n false = .ok r)
    (hr : r = .lp ∨ ∃ k, r = .loft k) (hc : s.clean (iea i (s.ctx core ctx)) n) :
    ∃ t, s.loadN core ctx n i 0 = .next t ∧
      s.onlyCtx core ctx ((s.ctx core ctx).set i.d (ofBytes (s.peek (iea i (s.ctx core ctx)) n))).next t := by
  refine State.loadN_reads h ha ?_
  have hread := s.readMem_clean _ _ hc
  unfold State.loadRaw
  rcases hr with rfl | ⟨k, rfl⟩ <;> simp only [hread]

/-- A load that faults in no-exception mode gives 0. -/
theorem State.loadN_faults {k : KCause} (ha : s.access core (iea i (s.ctx core ctx)) n false = .error k)
    (hn : (s.ctx core ctx).noexc = true) :
    ∃ t, s.loadN core ctx n i 0 = .next t ∧ t.ctx core ctx = (((s.ctx core ctx).subst k none).set i.d 0).next ∧
      t.mem = s.mem := by
  obtain ⟨hctx, hmem⟩ : (s.substitute core ctx k none).ctx core ctx = (s.ctx core ctx).subst k none ∧
      (s.substitute core ctx k none).mem = s.mem := by
    unfold State.substitute
    rw [State.onlyObj_incO]
    exact ⟨State.ctx_setCtx_same .., rfl⟩
  refine ⟨_, s.issue_runs core ctx _ h, ?_⟩
  simp only [ha, State.trap, if_pos hn, State.ctx_setCtx_same, hctx, Ctx.set_next]
  exact ⟨trivial, hmem⟩

/-- A store to memory whose codewords can be read: its bytes, and nothing else of memory. -/
theorem State.storeN_memory {r : Region} (hn : n ∈ [1, 2, 4, 8])
    (ha : s.access core (iea i (s.ctx core ctx)) n true = .ok r) (hr : r ≠ .bell) (hc : s.clean (iea i (s.ctx core ctx)) n) :
    s.storeN core ctx n i = .next
      ((s.poke (iea i (s.ctx core ctx)) (leBytes n ((s.ctx core ctx).get i.d % 2 ^ (8 * n)))).advance core ctx) := by
  obtain ⟨hpos, hfit⟩ := width_fits hn (State.access_aligned ha)
  have hlen : ∀ v, (leBytes n v).length = n := leBytes_length n
  have hwrite := fun v => State.writeMem_within (s := s) (a := iea i (s.ctx core ctx)) (bs := leBytes n v)
    (List.ne_nil_of_length_pos (by rwa [hlen])) (by rwa [hlen]) (by rwa [hlen])
  refine (s.issue_runs core ctx _ h).trans (congrArg _ ?_)
  simp only [ha, hwrite]

theorem State.storeN_bell (ha : s.access core (iea i (s.ctx core ctx)) n true = .ok .bell) :
    s.storeN core ctx n i = .next
      ((s.storeBell (iea i (s.ctx core ctx) - bellBase) n ((s.ctx core ctx).get i.d % 2 ^ (8 * n))).advance core ctx) := by
  refine (s.issue_runs core ctx _ h).trans (congrArg _ ?_)
  simp only [ha]

end

theorem leBytes_mod (n v : Nat) : leBytes n (v % 2 ^ (8 * n)) = leBytes n v := by
  induction n generalizing v with
  | zero => rfl
  | succ n ih =>
    have hlow : v % 2 ^ (8 * (n + 1)) % 256 = v % 256 :=
      Nat.mod_mod_of_dvd _ (by rw [Nat.mul_succ, Nat.pow_add]; exact Nat.dvd_mul_left ..)
    have hhigh : v % 2 ^ (8 * (n + 1)) / 256 = v / 256 % 2 ^ (8 * n) := by
      rw [Nat.mul_succ, Nat.pow_add, Nat.mul_comm]
      exact Nat.mod_mul_right_div_self ..
    show BitVec.ofNat 8 _ :: leBytes n (_ / 256) = BitVec.ofNat 8 v :: leBytes n (v / 256)
    rw [hhigh, ih]
    congr 1
    exact BitVec.eq_of_toNat_eq hlow

/-- Settles O12: the four widths are instances of one load and one store. -/
theorem scalarMemoryResults : Obligations.ScalarMemoryResults := by
  refine ⟨?_, ?_⟩
  · intro s core ctx i h c a loads
    have key : ∀ (x : Instr) (n : Nat), exec x s = s.loadN core ctx n i 0 → loads x n := by
      intro x n hx
      simp only [loads, hx]
      exact ⟨fun r ha hr hc => State.loadN_memory h ha hr hc, fun ha => State.loadN_reads h ha rfl,
        fun k ha hn => State.loadN_faults h ha hn⟩
    exact ⟨key _ 1 rfl, key _ 2 rfl, key _ 4 rfl, key _ 8 rfl⟩
  · intro s core ctx i h c a v stores
    have key : ∀ (x : Instr) (n : Nat), n ∈ [1, 2, 4, 8] → exec x s = s.storeN core ctx n i → stores x n := by
      intro x n hn hx
      simp only [stores, hx]
      refine ⟨fun r ha hr hc => ⟨_, State.storeN_memory h hn ha hr hc, ?_⟩, fun ha => ⟨?_, ?_⟩⟩
      · rw [leBytes_mod]
        have hlen := leBytes_length n v
        have hadv := (s.poke a (leBytes n v)).advance_onlyCtx (core := core) h.ctx_lt
        refine ⟨rfl, ?_, fun y hy => ?_, hadv.here, hadv.others⟩
        · have := s.peek_poke_same a (leBytes n v)
          rw [hlen] at this
          exact this
        · exact s.byte_poke_out a (leBytes n v) y (by rw [hlen]; exact hy)
      · rintro rfl
        exact State.storeN_bell h ha
      · intro hn8
        rw [State.storeN_bell h ha]
        unfold State.storeBell
        rw [if_neg hn8]
        split_ifs
        · exact .inl rfl
        · exact .inr rfl
    exact ⟨key _ 1 (by decide) rfl, key _ 2 (by decide) rfl, key _ 4 (by decide) rfl, key _ 8 (by decide) rfl⟩

end Sys2Proof.Machine

namespace Sys2Proof.Machine

/-! ### Status, waiting, spawning and halting (R111, R112, R124, R140) -/

/-- The status word that RDST reads with function code `fn`. -/
def State.statusWord (s : State) (core ctx fn : Nat) : Nat :=
  match fn with
  | 0 => ctx
  | 1 => core
  | 2 => s.count
  | 3 => if (s.ctx core ctx).noexc then (s.ctx core ctx).status % 128 else s.getO Obj.CORE_NUMERIC_FLAGS core
  | 4 => (s.ctx core ctx).status
  | 5 => (s.ctx core ctx).vl
  | _ => (s.ctx core ctx).tag

theorem Ctx.next_set (c : Ctx) (n v : Nat) : c.next.set n v = (c.set n v).next := by
  unfold Ctx.set
  split_ifs <;> rfl

theorem SMap.mem_set {α : Type} [DecidableEq α] {d a : α} {m : SMap α} {i : Nat} {q : Nat × α} (h : q ∈ m.set d i a) :
    q = (i, a) ∨ q ∈ m ∧ q.1 ≠ i := by
  unfold SMap.set at h
  split_ifs at h
  · exact .inr (SMap.mem_erase_iff.1 h)
  · exact SMap.mem_put_iff.1 h

theorem State.ctx_modOp (s : State) (id : Nat) (f : Op → Op) (k n : Nat) : (s.modOp id f).ctx k n = s.ctx k n := by
  unfold State.modOp
  split <;> rfl

theorem State.ctx_maxO (s : State) (o : ObjDef) (v i j k n : Nat) : (s.maxO o v i j).ctx k n = s.ctx k n := by
  unfold State.ctx
  rw [State.onlyObj_maxO]

/-- Starting a context changes no other context. -/
theorem State.ctx_startCtx (s : State) {core m k n : Nat} (c : Ctx) (hm : m < 2048) (hn : n < 2048) :
    (s.startCtx core m c).ctx k n = if k = core ∧ n = m then { c with st := .ready, status := 0xFFFF0000 } else s.ctx k n := by
  unfold State.startCtx
  rw [State.ctx_maxO]
  refine (show _ = (s.setCtx core m { c with st := .ready, status := 0xFFFF0000 }).ctx k n from rfl).trans ?_
  split_ifs with h
  · rw [h.1, h.2, State.ctx_setCtx_same]
  · exact State.ctx_setCtx_ne _ _ _ _ _ _ (by rwa [Ne, State.ctxKey_inj hn hm])

section
variable {s : State} {core ctx : Nat} {i : InsA} (h : s.issues core ctx)
include h

/-- An instruction that issues and only sets its context. -/
theorem State.issue_onlyCtx {x : Instr} {k : State → State} {c : Ctx} (hx : exec x s = s.issue core ctx k)
    (hk : k s = s.setCtx core ctx c) : ∃ t, exec x s = .next t ∧ s.onlyCtx core ctx c t := by
  refine ⟨_, hx.trans (s.issue_runs core ctx k h), ?_⟩
  rw [hk]
  exact s.onlyCtx_setCtx core ctx c h.ctx_lt

theorem State.issues.notExcluded : s.getO Obj.CORE_EXCLUDE core ≠ 1 := by
  have hs := h.inService
  unfold State.coreState at hs
  intro he
  rw [if_pos he] at hs
  split_ifs at hs

theorem execRdst_results {fn : Nat} (hle : fn ≤ 6) (hfn : i.fn % 1024 = fn) :
    ∃ t, exec (.rdst core ctx i) s = .next t ∧
      s.onlyCtx core ctx ((s.ctx core ctx).set i.d (s.statusWord core ctx fn)).next t := by
  subst hfn
  refine State.issue_onlyCtx h (if_pos hle) ?_
  rw [← Ctx.set_next]
  rfl

theorem execWaitb_results (hfn : i.fn % 1024 = 0) :
    let c := s.ctx core ctx
    ∃ t, exec (.waitb core ctx i) s = .next t ∧
      (c.get i.a ≤ s.count → s.onlyCtx core ctx (c.set i.d s.count).next t) ∧
      (s.count < c.get i.a → s.onlyCtx core ctx { c.next with st := .waiting, wait := .beat (c.get i.a), dest := i.d } t) := by
  intro c
  refine ⟨_, (if_neg (not_not_intro hfn)).trans (s.issue_runs core ctx _ h), fun hle => ?_, fun hlt => ?_⟩
  · rw [← Ctx.next_set]
    exact (if_pos hle : ite (s.count ≥ c.get i.a) _ _ = _) ▸ s.onlyCtx_setCtx core ctx _ h.ctx_lt
  · exact (if_neg (Nat.not_le.2 hlt) : ite (s.count ≥ c.get i.a) _ _ = _) ▸ s.onlyCtx_setCtx core ctx _ h.ctx_lt

theorem execFence_results (hfn : i.fn % 1024 = 0) :
    let c := s.ctx core ctx
    ∃ t, exec (.fence core ctx i) s = .next t ∧
      ((∀ p ∈ s.ops, ¬(p.2.unit = core ∧ p.2.stream = 5 ∧ p.2.ctx = ctx + 1)) →
        s.onlyCtx core ctx { c.next with wait := .none } t) ∧
      ((∃ p ∈ s.ops, p.2.unit = core ∧ p.2.stream = 5 ∧ p.2.ctx = ctx + 1) →
        s.onlyCtx core ctx { c.next with st := .waiting, wait := .fence } t) := by
  intro c
  have hset := s.onlyCtx_setCtx core ctx { c.next with st := .waiting, wait := .fence } h.ctx_lt
  refine ⟨State.fenceWake (s.setCtx core ctx { c.next with st := .waiting, wait := .fence }) core ctx,
    (if_neg (not_not_intro hfn)).trans (s.issue_runs core ctx _ h), fun hnone => ?_, fun hsome => ?_⟩
  · have hall : (s.ops.all fun (p : Nat × Op) => !decide (p.2.unit = core ∧ p.2.stream = 5 ∧ p.2.ctx = ctx + 1)) = true :=
      List.all_eq_true.2 fun p hp => by simpa only [Bool.not_eq_true', decide_eq_false_iff_not] using hnone p hp
    have hst : ({ c.next with st := .ready, wait := .none } : Ctx) = { c.next with wait := .none } := by rw [← h.ready]; rfl
    unfold State.fenceWake
    rw [State.ctx_setCtx_same, if_pos ⟨rfl, rfl, hall⟩]
    have hwake := State.onlyCtx_trans hset ((s.setCtx core ctx { c.next with st := .waiting, wait := .fence }).onlyCtx_setCtx
      core ctx { c.next with st := .ready, wait := .none } h.ctx_lt)
    rw [← hst]
    exact hwake
  · unfold State.fenceWake
    rw [State.ctx_setCtx_same, if_neg]
    · exact hset
    · rintro ⟨-, -, hall⟩
      obtain ⟨p, hp, hwaits⟩ := hsome
      simpa [hwaits] using List.all_eq_true.1 hall p hp

theorem execSpawn_results (hfn : i.fn % 1024 = 0) :
    let c := s.ctx core ctx
    let n := c.get i.a % 2048
    let k : Ctx := { pc := c.get i.b, strict := c.strict, sround := c.sround, noexc := c.noexc, tag := c.tag, op := c.op }
    ((s.ctx core n).st ≠ .free → ∃ t, exec (.spawn core ctx i) s = .next t ∧ s.onlyCtx core ctx (c.set i.d 1).next t) ∧
    ((s.ctx core n).st = .free →
      ∃ t, exec (.spawn core ctx i) s = .next t ∧ t.ctx core ctx = (c.set i.d 0).next ∧
        t.ctx core n = { k.set 1 (c.get i.c) with st := .ready, status := 0xFFFF0000 } ∧
        ∀ m, m < 2048 → m ≠ ctx → m ≠ n → t.ctx core m = s.ctx core m) := by
  intro c n k
  have hx : exec (.spawn core ctx i) s = s.issue core ctx _ := if_neg (not_not_intro hfn)
  refine ⟨fun hbusy => State.issue_onlyCtx h hx ?_, fun hfree => ⟨_, hx.trans (s.issue_runs core ctx _ h), ?_⟩⟩
  · rw [if_pos (.inl hbusy), ← Ctx.set_next]
  · have hn : n < 2048 := Nat.mod_lt _ (by decide)
    have hne : ctx ≠ n := by
      intro he
      have hr := h.ready
      rw [he, hfree] at hr
      cases hr
    rw [if_neg (not_or.2 ⟨not_not_intro hfree, h.notExcluded⟩), Ctx.set_next]
    have hset := s.onlyCtx_setCtx core ctx (c.set i.d 0).next h.ctx_lt
    refine ⟨?_, ?_, fun m hm hctx hmn => ?_⟩
    · rw [State.ctx_startCtx _ _ hn h.ctx_lt, if_neg (fun e => hne e.2), hset.here]
    · rw [State.ctx_startCtx _ _ hn hn, if_pos ⟨rfl, rfl⟩]
    · rw [State.ctx_startCtx _ _ hn hm, if_neg (fun e => hmn e.2), hset.others core m hm (.inr hctx)]

theorem execHalt_results (hfn : i.fn % 1024 = 0) :
    let c := s.ctx core ctx
    ∃ t, exec (.halt core ctx i) s = .next t ∧ t.ctx core ctx = { c with st := .free } ∧
      (∀ k n, n < 2048 → k ≠ core ∨ n ≠ ctx → t.ctx k n = s.ctx k n) ∧
      ((∀ p ∈ s.ctxs, p.1 / 2048 = core → p.2.op = c.op → p.1 = ctxKey core ctx ∨ p.2.st = .free) →
        ∀ o, s.op? c.op = some o → o.phase = .executing → t.op? c.op = some { o with phase := .executed }) := by
  intro c
  have hset := s.onlyCtx_setCtx core ctx { c with st := .free } h.ctx_lt
  let u := s.setCtx core ctx { c with st := .free }
  refine ⟨if u.ctxs.any fun (p : Nat × Ctx) => decide (p.1 / 2048 = core ∧ p.2.op = c.op ∧ p.2.st ≠ .free) then u
    else u.modOp c.op fun o => if o.phase = .executing then { o with phase := .executed } else o,
    (if_neg (not_not_intro hfn)).trans (s.issue_runs core ctx _ h), ?_⟩
  refine ⟨?_, fun k n hn hne => ?_, fun hlast o ho hphase => ?_⟩
  · rw [apply_ite (fun t : State => t.ctx core ctx), State.ctx_modOp, ite_self]
    exact hset.here
  · rw [apply_ite (fun t : State => t.ctx k n), State.ctx_modOp, ite_self]
    exact hset.others k n hn hne
  · rw [if_neg]
    · unfold State.modOp
      rw [show u.op? c.op = some o from ho]
      simp only [hphase, if_true]
      exact State.op_setOp_same ..
    · simp only [List.any_eq_true, decide_eq_true_eq, not_exists, not_and]
      intro p hp hcore hop hbusy
      rcases SMap.mem_set hp with rfl | ⟨hold, hkey⟩
      · exact hbusy rfl
      · exact (hlast p hold hcore hop).elim hkey hbusy

end

theorem execWaitbResume_results {s : State} {core ctx b : Nat} (hcore : core < 800) (hctx : ctx < 2048)
    (hst : (s.ctx core ctx).st = .waiting) (hwait : (s.ctx core ctx).wait = .beat b) :
    exec (.waitbResume core ctx) s = .next (if s.count ≥ b then s.setCtx core ctx
      { (s.ctx core ctx).set (s.ctx core ctx).dest s.count with st := .ready, wait := .none } else s) := by
  have hx : exec (.waitbResume core ctx) s = _ := if_neg (not_or.2 ⟨Nat.not_le.2 hcore, Nat.not_le.2 hctx⟩)
  rw [hx]
  simp only [hst, hwait]

/-- Settles O14: one lemma for each instruction. -/
theorem contextResults : Obligations.ContextResults := by
  refine ⟨?_, fun s core ctx i h hfn => ⟨execWaitb_results h hfn, execFence_results h hfn, execSpawn_results h hfn,
    execHalt_results h hfn⟩, ?_⟩
  · intro s core ctx i h c gives
    have plain : ∀ (x : Instr) (f : Ctx → Ctx × Nat), i.fn % 1024 = 0 → exec x s = s.plainA core ctx i f → (f c).2 = 0 →
        (f c).1.pc = c.pc → gives x (f c).1 := by
      intro x f hfn hx hz hpc
      obtain ⟨t, ht, ho⟩ := s.scalarOp_runs core ctx f h hz hpc
      exact ⟨t, hx.trans ((State.plainA_scalarOp _ hfn).trans ht), ho⟩
    exact ⟨execRdst_results h (by decide), execRdst_results h (by decide), execRdst_results h (by decide),
      execRdst_results h (by decide), execRdst_results h (by decide), execRdst_results h (by decide),
      execRdst_results h (by decide),
      fun hfn => plain _ (fun c => ({ c with tid := c.get i.a % 2 ^ 24, korg := c.get i.b % 2 ^ 48 }, 0)) hfn rfl rfl rfl,
      fun hfn => plain _ (fun c => ({ c with vl := min (c.get i.a) 8192 }.set i.d (min (c.get i.a) 8192), 0)) hfn rfl rfl
        (Ctx.set_pc ..)⟩
  · intro s core ctx b hcore hctx hst hwait c
    have hx := execWaitbResume_results hcore hctx hst hwait
    refine ⟨fun hle => ⟨_, hx, ?_⟩, fun hlt => ?_⟩
    · rw [if_pos hle]
      exact s.onlyCtx_setCtx core ctx _ hctx
    · rw [hx, if_neg (Nat.not_le.2 hlt)]

end Sys2Proof.Machine

namespace Sys2Proof.Machine

/-! ### The semaphore bank on one semaphore (R342, R343, R349) -/

/-- From s to t only the semaphore q, which is now y, and the counters of the bank have changed. -/
structure State.onlySemaphore (s : State) (q : Nat) (y : Sem) (t : State) : Prop where
  rest : t = { s with sems := t.sems, obj := t.obj, freeCtr := t.freeCtr }
  here : t.sem q = y
  others : ∀ k, k ≠ q → t.sem k = s.sem k
  objects : ∀ p k l, p.key k l ≠ Obj.SEM_OPS.key → p.key k l ≠ Obj.SEM_WAIT_POOL_MAX.key → t.getO p k l = s.getO p k l

section
variable {s t : State} {q n : Nat} {who : SemWho} {lock : Bool}

theorem State.onlyObj.sems (h : s.onlyObj t) : t.sems = s.sems := by rw [h]

theorem State.sem_incO (s : State) (o : ObjDef) (n i j q : Nat) : (s.incO o n i j).sem q = s.sem q := by
  unfold State.sem
  rw [State.onlyObj.sems (State.onlyObj_incO ..)]

theorem State.poolUsed_incO (s : State) (o : ObjDef) (n i j : Nat) : (s.incO o n i j).poolUsed = s.poolUsed := by
  unfold State.poolUsed
  rw [State.onlyObj.sems (State.onlyObj_incO ..)]

theorem State.epoch_incO (s : State) {o : ObjDef} (h : Obj.SCHED_EPOCH.key ≠ o.key) :
    (s.incO o).getO Obj.SCHED_EPOCH = s.getO Obj.SCHED_EPOCH := (State.sameKey_incO _ _ _ _ _ h).getO

theorem State.ownerTag_incO (s : State) {o : ObjDef} (h : Obj.SCHED_EPOCH.key ≠ o.key) (w : SemWho) :
    (s.incO o).ownerTag w = s.ownerTag w := by
  unfold State.ownerTag
  rw [s.epoch_incO h]

theorem State.onlySemaphore_counted (s : State) (q : Nat) : s.onlySemaphore q (s.sem q) (s.incO Obj.SEM_OPS) := by
  refine ⟨?_, s.sem_incO .., fun k _ => s.sem_incO .., fun p k l hk _ => (State.sameKey_incO _ _ _ _ _ hk).getO⟩
  rw [State.onlyObj_incO]

theorem State.onlySemaphore.setSem {y : Sem} (h : s.onlySemaphore q y t) (z : Sem) : s.onlySemaphore q z (t.setSem q z) where
  rest := by rw [h.rest]; rfl
  here := State.sem_setSem_same ..
  others k hk := (State.sem_setSem_ne _ _ _ _ hk).trans (h.others k hk)
  objects := h.objects

theorem State.onlySemaphore.pooled {y : Sem} (h : s.onlySemaphore q y t) (v : Nat) :
    s.onlySemaphore q y (t.maxO Obj.SEM_WAIT_POOL_MAX v) := by
  have hobj := t.onlyObj_maxO Obj.SEM_WAIT_POOL_MAX v 0 0
  have hsem : ∀ k, (t.maxO Obj.SEM_WAIT_POOL_MAX v).sem k = t.sem k := fun k => by unfold State.sem; rw [hobj.sems]
  refine ⟨?_, (hsem q).trans h.here, fun k hk => (hsem k).trans (h.others k hk), fun p k l ho hm => ?_⟩
  · rw [hobj, h.rest]
  · exact (State.sameKey_maxO _ _ _ _ _ hm).getO.trans (h.objects p k l ho hm)

/-! ### Signal, wait, try, lock and unlock -/

theorem State.semSignalOp_adds (hn : n ≠ 0) (hst : (s.sem q).st ≠ 2) (hw : (s.sem q).waits = [])
    (hc : (s.sem q).count + n < 2 ^ 32) : s.semSignalOp q n who =
      ((s.incO Obj.SEM_OPS).setSem q { s.sem q with count := (s.sem q).count + n }, .granted) := by
  unfold State.semSignalOp
  rw [if_neg hn, s.signal_plain q n hw hst hc]

theorem State.semSignalOp_orphaned (hn : n ≠ 0) (hst : (s.sem q).st = 2) :
    s.semSignalOp q n who = (s.incO Obj.SEM_OPS, .granted) := by
  unfold State.semSignalOp State.signal State.signalBase
  simp only [if_neg hn, State.sem_incO, if_pos hst]
  rfl

theorem State.semTryOp_takes (hn : n ≠ 0) (hst : (s.sem q).st ≠ 2) (hg : (s.sem q).waits = [] ∧ n ≤ (s.sem q).count) :
    s.semTryOp q n who = ((s.incO Obj.SEM_OPS).setSem q { s.sem q with count := (s.sem q).count - n }, .granted) := by
  unfold State.semTryOp
  simp only [if_neg hn, if_neg hst, if_pos (show (s.sem q).waits = [] ∧ (s.sem q).count ≥ n from hg)]

theorem State.semTryOp_fails (hn : n ≠ 0) (hst : (s.sem q).st ≠ 2) (hg : ¬((s.sem q).waits = [] ∧ n ≤ (s.sem q).count)) :
    s.semTryOp q n who = (s.incO Obj.SEM_OPS, .notGranted) := by
  unfold State.semTryOp
  simp only [if_neg hn, if_neg hst, if_neg (show ¬((s.sem q).waits = [] ∧ (s.sem q).count ≥ n) from hg)]

theorem State.semTryOp_orphaned (hn : n ≠ 0) (hst : (s.sem q).st = 2) :
    s.semTryOp q n who = (s.incO Obj.SEM_OPS, .orphan) := by
  unfold State.semTryOp
  simp only [if_neg hn, if_pos hst]

theorem State.semWaitOp_orphaned (hn : n ≠ 0) (hst : (s.sem q).st = 2) :
    s.semWaitOp q n lock who = (s.incO Obj.SEM_OPS, .orphan) := by
  unfold State.semWaitOp
  simp only [if_neg hn, if_pos hst]

/-- A semaphore as a granted wait or lock leaves it. -/
def State.semGranted (s : State) (q n : Nat) (lock : Bool) (who : SemWho) : Sem :=
  if lock then { s.sem q with count := (s.sem q).count - n, st := 1, owner := s.ownerTag who }
  else { s.sem q with count := (s.sem q).count - n }

theorem State.semWaitOp_grants (hn : n ≠ 0) (hst : (s.sem q).st ≠ 2)
    (hown : ¬(lock = true ∧ (s.sem q).st = 1 ∧ (s.sem q).ownedBy who = true))
    (hg : (s.sem q).waits = [] ∧ (s.sem q).count ≥ n ∧ (lock = false ∨ (s.sem q).st = 0)) :
    s.semWaitOp q n lock who = ((s.incO Obj.SEM_OPS).setSem q (s.semGranted q n lock who), .granted) := by
  unfold State.semWaitOp
  simp only [if_neg hn, if_neg hst, if_neg hown, if_pos hg,
    s.ownerTag_incO (show Obj.SCHED_EPOCH.key ≠ Obj.SEM_OPS.key by decide)]
  rfl

theorem State.semWaitOp_queues (hn : n ≠ 0) (hst : (s.sem q).st ≠ 2)
    (hown : ¬(lock = true ∧ (s.sem q).st = 1 ∧ (s.sem q).ownedBy who = true))
    (hg : ¬((s.sem q).waits = [] ∧ (s.sem q).count ≥ n ∧ (lock = false ∨ (s.sem q).st = 0))) (hpool : s.poolUsed < 65536) :
    ∃ v, s.semWaitOp q n lock who = (((s.incO Obj.SEM_OPS).setSem q { s.sem q with waits := (s.sem q).waits ++
      [{ who := who, n := n, lock := lock, sem := q, epoch := s.getO Obj.SCHED_EPOCH }] }).maxO
        Obj.SEM_WAIT_POOL_MAX v, .queued) := by
  have hroom : ¬(s.incO Obj.SEM_OPS).poolUsed ≥ poolSize := by rw [State.poolUsed_incO]; exact Nat.not_le.2 hpool
  unfold State.semWaitOp
  simp only [if_neg hn, if_neg hst, if_neg hown, if_neg hg, if_neg hroom,
    s.epoch_incO (show Obj.SCHED_EPOCH.key ≠ Obj.SEM_OPS.key by decide)]
  exact ⟨_, rfl⟩

theorem State.semUnlockOp_frees (hst : (s.sem q).st = 1) (hown : (s.sem q).ownedBy who = true) (hw : (s.sem q).waits = [])
    (hc : (s.sem q).count + 1 < 2 ^ 32) : s.semUnlockOp q who =
      ((s.incO Obj.SEM_OPS).setSem q { s.sem q with count := (s.sem q).count + 1, st := 0, owner := 0 }, .granted) := by
  have hovf : decide ((s.sem q).count + 1 > 0xFFFFFFFF) = false := decide_eq_false (by omega)
  unfold State.semUnlockOp
  simp only [if_pos (show (s.sem q).st = 1 ∧ (s.sem q).ownedBy who = true from ⟨hst, hown⟩), hovf, hw]
  rfl

end

/-! ### Semaphore instructions (R124) -/

section
variable {s t : State} {core ctx : Nat} {i : InsA} {f : State → Nat → Nat → SemWho → State × SemRes}
  (h : s.issues core ctx) (hc : t.ctx core ctx = s.ctx core ctx)
include h hc

/-- An answer of the bank goes to S[D]: 0 granted, 1 orphan, 2 not granted. -/
theorem State.semIns_answers {r : SemRes} {v : Nat} (hr : (r, v) ∈ [(SemRes.granted, 0), (.orphan, 1), (.notGranted, 2)])
    (hf : f s ((s.ctx core ctx).get i.a % 4096) (semArg (s.ctx core ctx) i) (.ctx core ctx (i.d % 16)) = (t, r)) :
    s.semIns core ctx i f = .next (t.setCtx core ctx ((s.ctx core ctx).set i.d v).next) := by
  refine (s.issue_runs core ctx _ h).trans (congrArg _ ?_)
  simp only [hf, hc, Ctx.set_next]
  simp only [List.mem_cons, Prod.mk.injEq, List.not_mem_nil, or_false] at hr
  rcases hr with ⟨rfl, rfl⟩ | ⟨rfl, rfl⟩ | ⟨rfl, rfl⟩ <;> rfl

theorem State.semIns_queues
    (hf : f s ((s.ctx core ctx).get i.a % 4096) (semArg (s.ctx core ctx) i) (.ctx core ctx (i.d % 16)) = (t, .queued)) :
    s.semIns core ctx i f = .next (t.setCtx core ctx
      { (s.ctx core ctx).next with st := .waiting, wait := .sem ((s.ctx core ctx).get i.a % 4096), dest := i.d % 16 }) := by
  refine (s.issue_runs core ctx _ h).trans (congrArg _ ?_)
  simp only [hf, hc]
  rfl

end

/-! ### A wait that was not recorded (R349) -/

section
variable {s : State} {r : SemReq}

/-- A delivery changes contexts, operations and threshers alone. -/
theorem State.deliver_rest (s : State) (w : SemWho) (r : Nat) :
    s.deliver w r = { s with ctxs := (s.deliver w r).ctxs, ops := (s.deliver w r).ops, thrs := (s.deliver w r).thrs } := by
  unfold State.deliver State.modOp
  split
  · extract_lets c
    split_ifs <;> rfl
  · split <;> rfl
  · split <;> rfl
  · rfl
  · rfl

theorem State.sem_deliver (s : State) (w : SemWho) (r k : Nat) : (s.deliver w r).sem k = s.sem k := by
  rw [s.deliver_rest]; rfl

theorem State.ctx_deliver_waiting {core ctx d : Nat} (v : Nat) (hw : (s.ctx core ctx).st = .waiting) :
    (s.deliver (.ctx core ctx d) v).ctx core ctx = { (s.ctx core ctx).set d v with st := .ready, wait := .none } := by
  unfold State.deliver
  simp only [if_pos hw]
  exact State.ctx_setCtx_same ..

/-- A reissued wait counts unless it has been counted (R349). -/
def State.recounted (s : State) (r : SemReq) : State := if r.counted then s else s.incO Obj.SEM_WAIT_POOL_FULL

theorem State.onlyObj_recounted (s : State) (r : SemReq) : s.onlyObj (s.recounted r) :=
  .ite (.refl s) (State.onlyObj_incO ..)

theorem State.sem_recounted (s : State) (r : SemReq) (k : Nat) : (s.recounted r).sem k = s.sem k := by
  unfold State.sem
  rw [(s.onlyObj_recounted r).sems]

theorem State.poolUsed_recounted (s : State) (r : SemReq) : (s.recounted r).poolUsed = s.poolUsed := by
  unfold State.poolUsed
  rw [(s.onlyObj_recounted r).sems]

/-- A reissue on a semaphore that is x, while `used` entries of the wait list are in use. -/
def State.reissueOn (s : State) (r : SemReq) (x : Sem) (used : Nat) : State :=
  if x.st = 2 then s.deliver r.who 1
  else if x.waits = [] ∧ x.count ≥ r.n ∧ (r.lock = false ∨ x.st = 0) then
    (s.setSem r.sem (if r.lock then { x with count := x.count - r.n, st := 1, owner := s.ownerTag r.who }
      else { x with count := x.count - r.n })).deliver r.who 0
  else if used ≥ poolSize then { s with unrec := s.unrec ++ [{ r with counted := true }] }
  else
    let u := s.setSem r.sem { x with waits := x.waits ++ [{ r with counted := true }] }
    u.maxO Obj.SEM_WAIT_POOL_MAX u.poolUsed

theorem State.semReissue_eq (s : State) (r : SemReq) : s.semReissue r = (s.recounted r).reissueOn r (s.sem r.sem) s.poolUsed := by
  rw [← s.poolUsed_recounted r, ← s.sem_recounted r]
  rfl

/-- What a reissue can come to: orphan status, a grant, a later reissue, or an entry of the wait list. -/
theorem State.semReissue_cases (s : State) (r : SemReq) :
    let x := s.sem r.sem
    let v := s.recounted r
    let grants := x.waits = [] ∧ r.n ≤ x.count ∧ (r.lock = false ∨ x.st = 0)
    (x.st = 2 ∧ s.semReissue r = v.deliver r.who 1) ∨
    (x.st ≠ 2 ∧ grants ∧ ∃ y : Sem, y.count = x.count - r.n ∧ s.semReissue r = (v.setSem r.sem y).deliver r.who 0) ∨
    (x.st ≠ 2 ∧ ¬grants ∧ 65536 ≤ s.poolUsed ∧
      s.semReissue r = { v with unrec := v.unrec ++ [{ r with counted := true }] }) ∨
    (x.st ≠ 2 ∧ ¬grants ∧ s.poolUsed < 65536 ∧ ∃ m,
      s.semReissue r = (v.setSem r.sem { x with waits := x.waits ++ [{ r with counted := true }] }).maxO
        Obj.SEM_WAIT_POOL_MAX m) := by
  intro x v grants
  rw [s.semReissue_eq]
  unfold State.reissueOn
  by_cases hst : x.st = 2
  · exact .inl ⟨hst, if_pos hst⟩
  · rw [if_neg hst]
    by_cases hg : grants
    · refine .inr (.inl ⟨hst, hg, _, ?_, if_pos hg⟩)
      split_ifs <;> rfl
    · rw [if_neg hg]
      by_cases hp : s.poolUsed ≥ poolSize
      · exact .inr (.inr (.inl ⟨hst, hg, hp, if_pos hp⟩))
      · exact .inr (.inr (.inr ⟨hst, hg, Nat.not_le.1 hp, _, if_neg hp⟩))

theorem State.poolFull_recounted {s : State} {r : SemReq} (hc : r.counted = false)
    (hlt : s.getO Obj.SEM_WAIT_POOL_FULL + 1 < 2 ^ 64) :
    (s.recounted r).getO Obj.SEM_WAIT_POOL_FULL = s.getO Obj.SEM_WAIT_POOL_FULL + 1 := by
  unfold State.recounted
  rw [hc, if_neg Bool.false_ne_true]
  exact State.getO_incO_same hlt

/-- What a reissue changes of semaphores, unrecorded waits, the waiting context and the count of unrecorded waits. -/
theorem State.semReissue_results (s : State) (r : SemReq) :
    let x := s.sem r.sem
    let u := s.semReissue r
    let grants := x.waits = [] ∧ r.n ≤ x.count ∧ (r.lock = false ∨ x.st = 0)
    (∀ k, k ≠ r.sem → u.sem k = s.sem k) ∧
    u.getO Obj.SEM_WAIT_POOL_FULL = (s.recounted r).getO Obj.SEM_WAIT_POOL_FULL ∧
    (x.st ≠ 2 → grants → u.unrec = s.unrec ∧ (u.sem r.sem).count = x.count - r.n ∧
      ∀ core ctx d, r.who = .ctx core ctx d → (s.ctx core ctx).st = .waiting →
        u.ctx core ctx = { (s.ctx core ctx).set d 0 with st := .ready, wait := .none }) ∧
    (x.st ≠ 2 → ¬grants → s.poolUsed < 65536 →
      u.unrec = s.unrec ∧ u.sem r.sem = { x with waits := x.waits ++ [{ r with counted := true }] }) ∧
    (x.st ≠ 2 → ¬grants → 65536 ≤ s.poolUsed →
      u.unrec = s.unrec ++ [{ r with counted := true }] ∧ u.sem r.sem = x) := by
  intro x u grants
  have hsem := s.sem_recounted r
  obtain ⟨hunrec, hctx⟩ : (s.recounted r).unrec = s.unrec ∧ ∀ core ctx, (s.recounted r).ctx core ctx = s.ctx core ctx := by
    rw [s.onlyObj_recounted r]
    exact ⟨rfl, fun _ _ => rfl⟩
  rcases s.semReissue_cases r with ⟨hst, he⟩ | ⟨hst, hg, y, hy, he⟩ | ⟨hst, hg, hp, he⟩ | ⟨hst, hg, hp, m, he⟩ <;>
    simp only [u, he]
  · exact ⟨fun k _ => (State.sem_deliver ..).trans (hsem k), (State.sameKey_of_obj (State.obj_deliver ..)).getO,
      fun h => absurd hst h, fun h => absurd hst h, fun h => absurd hst h⟩
  · refine ⟨fun k hk => ?_, (State.sameKey_of_obj (State.obj_deliver ..)).getO,
      fun _ _ => ⟨?_, ?_, fun core ctx d hwho hw => ?_⟩,
      fun _ h => absurd hg h, fun _ h => absurd hg h⟩
    · rw [State.sem_deliver, State.sem_setSem_ne _ _ _ _ hk, hsem]
    · rw [State.deliver_rest]
      exact hunrec
    · rw [State.sem_deliver, State.sem_setSem_same, hy]
    · have hw' : (((s.recounted r).setSem r.sem y).ctx core ctx).st = .waiting := by rw [State.ctx_setSem, hctx, hw]
      rw [hwho, State.ctx_deliver_waiting 0 hw', State.ctx_setSem, hctx]
  · exact ⟨fun k _ => hsem k, rfl, fun _ h => absurd h hg, fun _ _ h => absurd hp (Nat.not_le.2 h), fun _ _ _ =>
      ⟨by rw [hunrec], hsem _⟩⟩
  · have hmax := State.onlyObj_maxO ((s.recounted r).setSem r.sem { x with waits := x.waits ++ [{ r with counted := true }] })
      Obj.SEM_WAIT_POOL_MAX m 0 0
    refine ⟨fun k hk => ?_, (State.sameKey_maxO _ _ _ _ _ (by decide)).getO, fun _ h => absurd h hg, fun _ _ _ => ⟨?_, ?_⟩,
      fun _ _ h => absurd h (Nat.not_le.2 hp)⟩
    · rw [State.sem, hmax.sems]
      exact (State.sem_setSem_ne _ _ _ _ hk).trans (hsem k)
    · rw [hmax]
      exact hunrec
    · rw [State.sem, hmax.sems]
      exact State.sem_setSem_same ..

theorem State.ctxWaitOn_rest (s : State) (w : SemWho) (c : CtxWait) :
    s.ctxWaitOn w c = { s with ctxs := (s.ctxWaitOn w c).ctxs } := by
  unfold State.ctxWaitOn
  split
  · extract_lets c
    split_ifs <;> rfl
  · rfl

/-- A context that does not wait goes on as it is. -/
theorem State.ctxWaitOn_ready {core ctx d : Nat} (c : CtxWait) (h : (s.ctx core ctx).st = .ready) :
    s.ctxWaitOn (.ctx core ctx d) c = s := by
  unfold State.ctxWaitOn
  simp only [h]
  rw [if_neg]
  rintro ⟨hw, -⟩
  cases hw

/-- After the reissue only contexts that wait may change, to wait on the semaphore. -/
theorem execSemWaitReissue_waits {n : Nat} (hr : s.unrec[n]? = some r) :
    let u := State.semReissue { s with unrec := s.unrec.eraseIdx n } r
    ∃ t, exec (.semWaitReissue n) s = .next t ∧ t = { u with ctxs := t.ctxs } ∧
      ∀ core ctx d, r.who = .ctx core ctx d → (u.ctx core ctx).st = .ready → t.ctx core ctx = u.ctx core ctx := by
  intro u
  have hx : exec (.semWaitReissue n) s = .next (if u.unrec.length > n ∧ u.unrec.getLast? = some { r with counted := true } then u
      else u.ctxWaitOn r.who (.sem r.sem)) := by
    show execSemWaitReissue n s = _
    unfold execSemWaitReissue
    rw [hr]
  refine ⟨_, hx, ?_, fun core ctx d hwho hready => ?_⟩
  · split_ifs
    · rfl
    · exact u.ctxWaitOn_rest ..
  · rw [hwho, State.ctxWaitOn_ready _ hready, ite_self]

end

/-- Settles O15: an instruction is the bank's operation and its answer; a reissue is one of the four cases of
`semReissue_cases`. -/
theorem semaphoreInstructionResults : Obligations.SemaphoreInstructionResults := by
  refine ⟨?_, ?_⟩
  · intro s core ctx i h c q n x who does answers waits
    have base : ∀ (e : Instr) (y : Sem) (t : State) (c' : Ctx), exec e s = .next (t.setCtx core ctx c') →
        s.onlySemaphore q y t → does e y c' := by
      intro e y t c' hx ht
      have hset := t.onlyCtx_setCtx core ctx c' h.ctx_lt
      have hctx : ∀ k m, t.ctx k m = s.ctx k m := fun k m => by rw [ht.rest]; rfl
      refine ⟨_, hx, ?_, ht.here, ht.others, hset.here, fun k m hm hne => (hset.others k m hm hne).trans (hctx k m), ht.objects⟩
      rw [ht.rest]
      rfl
    have answer : ∀ (e : Instr) (f : State → Nat → Nat → SemWho → State × SemRes) (y : Sem) (t : State) (r : SemRes)
        (v : Nat),
        exec e s = s.semIns core ctx i f → f s q n who = (t, r) → s.onlySemaphore q y t →
        (r, v) ∈ [(SemRes.granted, 0), (.orphan, 1), (.notGranted, 2)] → answers e y v := by
      intro e f y t r v hx hf ht hr
      exact base e y t _ (hx.trans (State.semIns_answers h (by rw [ht.rest]; rfl) hr hf)) ht
    have queue : ∀ (e : Instr) (f : State → Nat → Nat → SemWho → State × SemRes) (m : Nat) (lock : Bool),
        exec e s = s.semIns core ctx i f → f s q n who = s.semWaitOp q m lock who → m ≠ 0 → x.st ≠ 2 →
        ¬(lock = true ∧ x.st = 1 ∧ x.ownedBy who = true) →
        ¬(x.waits = [] ∧ x.count ≥ m ∧ (lock = false ∨ x.st = 0)) → s.poolUsed < 65536 → waits e m lock := by
      intro e f m lock hx hf hm hst hown hg hpool
      obtain ⟨v, hv⟩ := State.semWaitOp_queues hm hst hown hg hpool
      have ht := ((s.onlySemaphore_counted q).setSem { x with waits := x.waits ++
        [{ who := who, n := m, lock := lock, sem := q, epoch := s.getO Obj.SCHED_EPOCH }] }).pooled v
      exact base e _ _ _ (hx.trans (State.semIns_queues h (by rw [ht.rest]; rfl) (hf.trans hv))) ht
    have signal := fun y t r v => answer (.semSignal core ctx i) (fun s q n w => s.semSignalOp q n w) y t r v rfl
    have wait := fun y t r v => answer (.semWait core ctx i) (fun s q n w => s.semWaitOp q n false w) y t r v rfl
    have attempt := fun y t r v => answer (.semTry core ctx i) (fun s q n w => s.semTryOp q n w) y t r v rfl
    have lock := fun y t r v => answer (.semLock core ctx i) (fun s q _ w => s.semWaitOp q 1 true w) y t r v rfl
    have unlock := fun y t r v => answer (.semUnlock core ctx i) (fun s q _ w => s.semUnlockOp q w) y t r v rfl
    have counted := s.onlySemaphore_counted q
    have free : x.st = 0 → x.st ≠ 2 := fun e => by rw [e]; decide
    refine ⟨fun hn hst => ⟨fun hw hc => ?_, fun hw hc => ⟨?_, ?_⟩, fun hg => ?_, fun hg hpool => ?_⟩, fun hst hw hc => ?_,
      fun hst hown hg hpool => ?_, fun hst hown hw hc => ?_, fun hst => ⟨?_, fun hn => ⟨?_, ?_, ?_⟩⟩⟩
    · exact signal _ _ .granted 0 (State.semSignalOp_adds hn hst hw hc) (counted.setSem _) (by decide)
    · exact wait _ _ .granted 0 (State.semWaitOp_grants hn hst (fun e => Bool.false_ne_true e.1) ⟨hw, hc, .inl rfl⟩)
        (counted.setSem _) (by decide)
    · exact attempt _ _ .granted 0 (State.semTryOp_takes hn hst ⟨hw, hc⟩) (counted.setSem _) (by decide)
    · exact attempt _ _ .notGranted 2 (State.semTryOp_fails hn hst hg) counted (by decide)
    · exact queue _ (fun s q n w => s.semWaitOp q n false w) n false rfl rfl hn hst (fun e => Bool.false_ne_true e.1)
        (fun e => hg ⟨e.1, e.2.1⟩) hpool
    · exact lock _ _ .granted 0 (State.semWaitOp_grants (by decide) (free hst) (fun e => Nat.zero_ne_one (hst.symm.trans e.2.1))
        ⟨hw, hc, .inr hst⟩) (counted.setSem _) (by decide)
    · exact queue _ (fun s q _ w => s.semWaitOp q 1 true w) 1 true rfl rfl (by decide) hst (fun e => hown e.2)
        (fun e => hg ⟨e.1, e.2.1, e.2.2.resolve_left (by decide)⟩) hpool
    · exact unlock _ _ .granted 0 (State.semUnlockOp_frees hst hown hw hc) (counted.setSem _) (by decide)
    · exact lock _ _ .orphan 1 (State.semWaitOp_orphaned (by decide) hst) counted (by decide)
    · exact signal _ _ .granted 0 (State.semSignalOp_orphaned hn hst) counted (by decide)
    · exact wait _ _ .orphan 1 (State.semWaitOp_orphaned hn hst) counted (by decide)
    · exact attempt _ _ .orphan 1 (State.semTryOp_orphaned hn hst) counted (by decide)
  · intro s n r hr x rest
    obtain ⟨t, ht, hrest, hready⟩ := execSemWaitReissue_waits hr
    obtain ⟨hothers, hfull, hgranted, hqueued, hlater⟩ := State.semReissue_results { s with unrec := rest } r
    generalize State.semReissue { s with unrec := s.unrec.eraseIdx n } r = u at *
    have hsem : ∀ k, t.sem k = u.sem k := fun k => by rw [hrest]; rfl
    have hunrec : t.unrec = u.unrec := by rw [hrest]
    refine ⟨t, ht, fun k hk => (hsem k).trans (hothers k hk), fun hst hw hn hl => ?_,
      fun hst hg => ⟨fun hp => ?_, fun hp => ?_⟩,
      fun hc hlt => ?_⟩
    · obtain ⟨hu, hcount, hctx⟩ := hgranted hst ⟨hw, hn, hl⟩
      refine ⟨hunrec.trans hu, by rw [hsem, hcount]; rfl, fun core ctx d hwho hwait => ?_⟩
      have hc := hctx core ctx d hwho hwait
      exact (hready core ctx d hwho (by rw [hc])).trans hc
    · rw [hunrec, hsem]
      exact hqueued hst hg hp
    · rw [hunrec, hsem]
      exact hlater hst hg hp
    · have htu : t.getO Obj.SEM_WAIT_POOL_FULL = u.getO Obj.SEM_WAIT_POOL_FULL := by rw [hrest]; rfl
      exact (htu.trans hfull).trans (State.poolFull_recounted (s := { s with unrec := rest }) hc hlt)

end Sys2Proof.Machine

namespace Sys2Proof.Machine

/-! ### Elements that operations copy, fill and permute (R114, R384, R386) -/

theorem ofBytes_lt (bs : List Byte) : ofBytes bs < 2 ^ (8 * bs.length) := by
  induction bs with
  | nil => decide
  | cons b bs ih =>
    have hb := b.isLt
    show b.toNat + 256 * ofBytes bs < 2 ^ (8 * (bs.length + 1))
    rw [Nat.mul_succ, Nat.pow_add]
    omega

theorem State.peek_length (s : State) (a n : Nat) : (s.peek a n).length = n := bytesOf_length ..

theorem State.el_lt (s : State) (t : TD) (ix : List Nat) : s.el t ix < 2 ^ (8 * t.esz) := by
  have h := ofBytes_lt (s.peek (t.addr ix) t.esz)
  rwa [State.peek_length] at h

theorem State.el_of_mem {s t : State} (h : t.mem = s.mem) (u : TD) (ix : List Nat) : t.el u ix = s.el u ix := by
  unfold State.el State.peek
  rw [h]

theorem length_of_mem_indices {ext ix : List Nat} (h : ix ∈ indices ext) : ix.length = ext.length := by
  induction ext generalizing ix with
  | nil => rw [List.mem_singleton.1 h]
  | cons n ns ih =>
    obtain ⟨rest, hrest, hix⟩ := List.mem_flatMap.1 h
    obtain ⟨k, -, rfl⟩ := List.mem_map.1 hix
    exact congrArg (· + 1) (ih hrest)

/-- Elements of a tensor that lie apart each hold what is written to them. -/
theorem State.el_pokes (s : State) (u : TD) (f : List Nat → Nat) {l : List (List Nat)} {ix : List Nat} (hix : ix ∈ l)
    (h : ∀ j ∈ l, ix ≠ j → u.addr ix + u.esz ≤ u.addr j ∨ u.addr j + u.esz ≤ u.addr ix) :
    (s.pokes (l.map fun j => (u.addr j, leBytes u.esz (f j)))).el u ix = f ix % 2 ^ (8 * u.esz) := by
  induction l using List.reverseRecOn with
  | nil => cases hix
  | append_singleton l j ih =>
    rw [List.map_append, State.pokes_append]
    generalize hr : s.pokes (l.map fun j => (u.addr j, leBytes u.esz (f j))) = r at ih ⊢
    show ofBytes ((r.poke (u.addr j) (leBytes u.esz (f j))).peek (u.addr ix) u.esz) = _
    by_cases hj : ix = j
    · have hp := r.peek_poke_same (u.addr j) (leBytes u.esz (f j))
      rw [leBytes_length] at hp
      rw [hj, hp, ofBytes_leBytes_mod]
    · have hout := h j (List.mem_append_right _ (List.mem_singleton_self j)) hj
      rw [State.peek_poke_out _ _ _ _ _ (by rwa [leBytes_length])]
      exact ih ((List.mem_append.1 hix).resolve_right fun e => hj (List.mem_singleton.1 e))
        fun k hk => h k (List.mem_append_left _ hk)

/-! ### Step 4 on memory without disturbed codewords -/

theorem State.renewAll_clean {s : State} (h : s.allClean) (l : List (Nat × Nat)) : (s.renewAll l).1 = s := by
  induction l with
  | nil => rfl
  | cons p l ih =>
    have hone : (s.renewOne p).1 = s := by
      unfold State.renewOne
      split_ifs
      · rfl
      · rw [State.readMem_clean _ _ _ (h.clean _ _)]
    show ((s.renewOne p).1.renewAll l).1 = s
    rw [hone, ih]

theorem State.atStep4_clean {s : State} (h : s.chk = []) (id : Nat) (o : Op) :
    (s.atStep4 id o).mem = s.mem ∧ (s.atStep4 id o).allClean := by
  have hu := State.renewAll_clean (State.allClean_of_chk h) o.got.tds
  constructor
  · show (s.renewAll o.got.tds).1.mem = s.mem
    rw [hu]
  · refine State.allClean_of_chk ?_
    show (s.renewAll o.got.tds).1.chk = []
    rw [hu, h]

/-- Pieces that each write one element of a tensor whose elements lie apart: each element holds what its piece writes. -/
theorem State.el_runPieces {s : State} (h : s.allClean) {u : TD} {p : List Nat → Piece} {f : List Nat → Nat} {ix : List Nat}
    (hp : ∀ j, ((p j).2 s).writes = [(u.addr j, leBytes u.esz (f j))])
    (hix : ix ∈ indices u.ext)
    (hapart : ∀ j ∈ indices u.ext, ix ≠ j → u.addr ix + u.esz ≤ u.addr j ∨ u.addr j + u.esz ≤ u.addr ix) :
    (s.runPieces ((indices u.ext).map p)).1.el u ix = f ix % 2 ^ (8 * u.esz) := by
  have hw : writesOf s ((indices u.ext).map p) = (indices u.ext).map fun j => (u.addr j, leBytes u.esz (f j)) := by
    unfold writesOf
    rw [List.flatMap_map, List.map_eq_flatMap]
    simp only [hp]
  rw [State.runPieces_clean s h, ← s.el_pokes u f hix hapart, hw]

theorem State.runPieces_fault {s : State} (h : s.allClean) (ps : List Piece) : (s.runPieces ps).2.2 = none := by
  rw [State.runPieces_clean s h]

theorem State.mem_incO (s : State) (o : ObjDef) (n i j : Nat) : (s.incO o n i j).mem = s.mem := by
  rw [State.onlyObj_incO]

theorem dmaDone_mem (s : State) (id : Nat) (o : Op) (u : TD) (w : Work) : (dmaDone s id o u w none).mem = s.mem :=
  s.mem_incO ..

theorem State.onlyObj_coreFlags (s : State) (core fl sats : Nat) : s.onlyObj (s.coreFlags core fl sats) := by
  unfold State.coreFlags
  exact .ite (State.onlyObj_orO ..) ((State.onlyObj_orO ..).trans (State.onlyObj_incO ..))

theorem State.account_noTensor_mem (s : State) (core : Nat) (w : Work) : (s.account core w 0).mem = s.mem := by
  have hflags := s.onlyObj_coreFlags core w.flags w.sats
  unfold State.account State.recordScale
  rw [if_pos (.inl rfl), hflags]

theorem State.worked_mem (s : State) (id : Nat) (o : Op) : (s.worked id o none).mem = s.mem := rfl

theorem permuteRun_mem {s : State} (h : s.allClean) (id : Nat) (o : Op) (htid : (tensor o.got.list 1).tid = 0) :
    (voRun 2 s id o).mem = (s.runPieces ((indices (tensor o.got.list 1).ext).map
      (permuteElem o (tensor o.got.list 0) (tensor o.got.list 1)))).1.mem := by
  generalize hr : s.runPieces ((indices (tensor o.got.list 1).ext).map
    (permuteElem o (tensor o.got.list 0) (tensor o.got.list 1))) = r
  have hrun : voRun 2 s id o = (r.1.account o.unit r.2.1 (tensor o.got.list 1).tid).worked id o r.2.2 := by
    rw [← hr]
    rfl
  have hf : r.2.2 = none := by
    rw [← hr]
    exact State.runPieces_fault h _
  rw [hrun, hf, htid, State.worked_mem, State.account_noTensor_mem]

/-! ### The source of a permuted element (R119) -/

/-- Where PERM is a permutation, input dimension voPerm d k of the source is output dimension k. -/
theorem voPerm_source {d rank : Nat} {ix : List Nat} (hok : voPermOk d rank = true) (hrank : rank ≤ 5)
    (hix : ix.length = 5) {k : Nat} (hk : k < rank) :
    ((List.range 5).map fun i =>
      match (List.range rank).find? fun k => decide (voPerm d k = i) with
      | some k => ix.getD k 0
      | none => 0)[voPerm d k]? = ix[k]? := by
  simp only [voPermOk, Bool.and_eq_true, List.all_eq_true, List.mem_range, decide_eq_true_eq, Bool.or_eq_true] at hok
  obtain ⟨hperm, -⟩ := hok
  have hfind : (List.range rank).find? (fun m => decide (voPerm d m = voPerm d k)) = some k := by
    cases hf : (List.range rank).find? (fun m => decide (voPerm d m = voPerm d k)) with
    | none => simpa using List.find?_eq_none.1 hf k (List.mem_range.2 hk)
    | some m =>
      have hm : voPerm d m = voPerm d k := by simpa using List.find?_some hf
      have hlt := List.mem_range.1 (List.mem_of_find?_eq_some hf)
      exact congrArg _ (((hperm m hlt).2 k hk).resolve_right (not_not_intro hm))
  have hlt : voPerm d k < 5 := (hperm k hk).1.trans_le hrank
  rw [List.getElem?_map, List.getElem?_range hlt]
  simp only [Option.map_some, hfind]
  rw [List.getElem?_eq_getElem (by omega), List.getD_eq_getElem _ _ (by omega)]

/-- Settles O21: each operation writes one element for each piece, and the elements lie apart. -/
theorem copiedElementsAreUnchanged : Obligations.CopiedElementsAreUnchanged := by
  intro s id o hchk d ts apart
  obtain ⟨hmem, hclean⟩ := State.atStep4_clean hchk id o
  refine ⟨?_, ?_, ?_⟩
  · intro hrun flit p hfmt hapart
    have hx : exec (.copy id flit 0) s = .next (copyRun flit 0 (s.atStep4 id o) id (s.begun o)) :=
      congrArg _ (State.runOp_begins s id o 5 1 _ _ hrun)
    have hcopy : copyRun flit 0 (s.atStep4 id o) id (s.begun o) = dmaDone
        ((s.atStep4 id o).runPieces ((indices p.2.ext).map (copyElem p.1 p.2 flit 0))).1 id (s.begun o) p.2
        ((s.atStep4 id o).runPieces ((indices p.2.ext).map (copyElem p.1 p.2 flit 0))).2.1 none := by
      have hmesh : (s.atStep4 id o).meshPass 0 (s.begun o).unit (s.begun o).unit = (s.atStep4 id o, some 0) := if_pos rfl
      unfold copyRun
      simp only [hmesh, ite_self]
      rw [State.runPieces_clean _ hclean]
    have hesz : p.2.esz = p.1.esz := by unfold TD.esz; rw [hfmt]
    refine ⟨_, hx.trans (congrArg _ hcopy), fun ix hix => ?_⟩
    rw [State.el_of_mem (dmaDone_mem ..),
      State.el_runPieces hclean (f := (s.atStep4 id o).el p.1) (fun j => ?_) hix (hapart ix hix),
      hesz, Nat.mod_eq_of_lt (State.el_lt ..), State.el_of_mem hmem]
    show [(p.2.addr j, leBytes p.2.esz ((s.atStep4 id o).el p.1 j ^^^ (if _ then _ else 0)))] = _
    simp only [Nat.zero_shiftRight, Nat.zero_mod, ite_self, Nat.xor_zero]
  · intro hrun u hapart
    have hx : exec (.fill id) s = .next (fillRun (s.atStep4 id o) id (s.begun o)) :=
      congrArg _ (State.runOp_begins s id o 5 2 _ _ hrun)
    have hfill : fillRun (s.atStep4 id o) id (s.begun o) = dmaDone
        ((s.atStep4 id o).runPieces ((indices u.ext).map (fillElem d u))).1 id (s.begun o) u
        ((s.atStep4 id o).runPieces ((indices u.ext).map (fillElem d u))).2.1 none := by
      rw [← State.runPieces_fault hclean ((indices u.ext).map (fillElem d u))]
      rfl
    refine ⟨_, hx.trans (congrArg _ hfill), fun ix hix => ?_⟩
    rw [State.el_of_mem (dmaDone_mem ..)]
    exact State.el_runPieces hclean (f := fun _ => dmaPattern d) (fun _ => rfl) hix (hapart ix hix)
  · intro hrun p u hfmt htid hok hrank h5 _ hapart hext
    have hx : exec (.permute id) s = .next (voRun 2 (s.atStep4 id o) id (s.begun o)) :=
      congrArg _ (State.runOp_begins s id o 2 2 _ _ hrun)
    have hesz : u.esz = p.esz := by unfold TD.esz; rw [hfmt]
    refine ⟨_, hx, fun ix hix => ?_⟩
    have hvo := permuteRun_mem hclean id (s.begun o) htid
    refine ⟨_, ?_, fun k hk => voPerm_source hok h5 ((length_of_mem_indices hix).trans hext) hk⟩
    rw [State.el_of_mem hvo, State.el_runPieces hclean (fun j => rfl) hix (hapart ix hix), hesz, Nat.mod_eq_of_lt (State.el_lt ..),
      State.el_of_mem hmem, hrank]
    rfl

end Sys2Proof.Machine

namespace Sys2Proof.Machine

/-! ### Elements of vector registers (R106) -/

/-- What the half m' of a slot is after a write to its half m. -/
theorem half_setBits (w v : Nat) {m m' : Nat} (hm' : m' < 2) :
    (setBits w (16 * m + 15) (16 * m) v % 2 ^ 32) >>> (16 * m') % 65536 =
      if m = m' then v % 65536 else w >>> (16 * m') % 65536 := by
  refine Nat.eq_of_testBit_eq fun j => ?_
  rw [apply_ite (Nat.testBit · j), show 65536 = 2 ^ 16 from rfl]
  simp only [Nat.testBit_mod_two_pow, Nat.testBit_shiftRight, testBit_setBits _ _ _ (show 16 * m ≤ 16 * m + 15 by omega)]
  by_cases hj : j < 16
  · have h32 : 16 * m' + j < 32 := by omega
    by_cases he : m = m'
    · subst he
      rw [if_pos (by omega), if_pos rfl, Nat.add_sub_cancel_left]
      simp [h32]
    · rw [if_neg (by omega), if_neg he]
      simp [h32]
  · simp [hj]

section
variable {s : State} {core r q k e e' m : Nat} {h : Bool}

/-- The slot that holds an element. -/
def slotOfElem (h : Bool) (e : Nat) : Nat := if h then e / 2 else e

theorem slotOfElem_lt (h : Bool) (he : e < 8192) : slotOfElem h e < 8192 := by
  unfold slotOfElem
  split_ifs <;> omega

theorem State.setVelem_rest (s : State) (core r : Nat) (h : Bool) (e v : Nat) :
    s.setVelem core r h e v = { s with vreg := (s.setVelem core r h e v).vreg } := by
  cases h <;> rfl

theorem State.vslot_setVelem_ne (v : Nat) (hm : m < 8192) (he : e < 8192)
    (hne : k ≠ core ∨ q % 16 ≠ r % 16 ∨ m ≠ slotOfElem h e) : (s.setVelem core r h e v).vslot k q m = s.vslot k q m := by
  have hslot := slotOfElem_lt h he
  have hkey : vKey k q m ≠ vKey core r (slotOfElem h e) := by
    rw [Ne, State.vKey_inj hm hslot]
    tauto
  cases h <;> exact State.vslot_setVslot_ne s core r _ _ _ _ _ hkey

/-- A register number counts modulo 16. -/
theorem State.vslot_congr (hq : q % 16 = r % 16) : s.vslot core q m = s.vslot core r m := by
  unfold State.vslot vKey
  rw [hq]

theorem State.velem_congr (hq : q % 16 = r % 16) : s.velem core q h e = s.velem core r h e := by
  unfold State.velem
  rw [State.vslot_congr hq, State.vslot_congr hq]

/-- An element is part of its slot. -/
theorem State.velem_of_vslot {t : State} (hs : t.vslot k q (slotOfElem h e) = s.vslot k q (slotOfElem h e)) :
    t.velem k q h e = s.velem k q h e := by
  cases h
  · exact hs
  · exact congrArg (fun w => w >>> (16 * (e % 2)) % 65536) hs

theorem State.velem_setVelem_same (s : State) (core r : Nat) (h : Bool) (e v : Nat) :
    (s.setVelem core r h e v).velem core r h e = v % 2 ^ (if h then 16 else 32) := by
  cases h
  · exact State.vslot_setVslot_same s core r e v
  · show (s.setVslot core r (e / 2) _).vslot core r (e / 2) >>> (16 * (e % 2)) % 65536 = _
    rw [State.vslot_setVslot_same, half_setBits _ _ (by omega), if_pos rfl]
    rfl

theorem State.velem_setVelem_ne (v : Nat) (he : e < 8192) (he' : e' < 8192) (hne : e' ≠ e) :
    (s.setVelem core r h e v).velem k q h e' = s.velem k q h e' := by
  by_cases hsame : k = core ∧ q % 16 = r % 16 ∧ slotOfElem h e' = slotOfElem h e
  · obtain ⟨rfl, hq, hslot⟩ := hsame
    rw [State.velem_congr hq, State.velem_congr hq]
    cases h
    · exact absurd hslot hne
    · have hhalf : e' / 2 = e / 2 := hslot
      show (s.setVslot k r (e / 2) _).vslot k r (e' / 2) >>> (16 * (e' % 2)) % 65536 =
        s.vslot k r (e' / 2) >>> (16 * (e' % 2)) % 65536
      rw [hhalf, State.vslot_setVslot_same, half_setBits _ _ (by omega), if_neg (by omega)]
  · refine State.velem_of_vslot (State.vslot_setVelem_ne v (slotOfElem_lt h he') he ?_)
    tauto

/-! ### Writing the elements of a list -/

/-- Elements written in turn. -/
def State.setVelems (s : State) (core r : Nat) (h : Bool) (xs : List (Nat × Nat)) : State :=
  xs.foldl (fun (t : State) p => t.setVelem core r h p.1 p.2) s

/-- Registers without disturbed codewords take new values as they are. -/
theorem State.putV_clean (hv : s.vchk = []) (xs : List (Nat × Nat)) : s.putV core r h xs = s.setVelems core r h xs := by
  unfold State.putV State.freshV State.renewCw
  rw [if_pos hv]
  rfl

theorem State.setVelems_rest (s : State) (core r : Nat) (h : Bool) (xs : List (Nat × Nat)) :
    s.setVelems core r h xs = { s with vreg := (s.setVelems core r h xs).vreg } := by
  induction xs generalizing s with
  | nil => rfl
  | cons x xs ih =>
    show (s.setVelem core r h x.1 x.2).setVelems core r h xs =
      { s with vreg := ((s.setVelem core r h x.1 x.2).setVelems core r h xs).vreg }
    rw [ih, State.setVelem_rest]

theorem State.vslot_setVelems_ne {xs : List (Nat × Nat)} (hxs : ∀ x ∈ xs, x.1 < 8192) (hm : m < 8192)
    (hne : k ≠ core ∨ q % 16 ≠ r % 16) : (s.setVelems core r h xs).vslot k q m = s.vslot k q m := by
  induction xs generalizing s with
  | nil => rfl
  | cons x xs ih =>
    obtain ⟨hx, hrest⟩ := List.forall_mem_cons.1 hxs
    exact (ih hrest).trans (State.vslot_setVelem_ne x.2 hm hx (hne.imp_right .inl))

theorem State.velem_setVelems_ne {xs : List (Nat × Nat)} (hxs : ∀ x ∈ xs, x.1 < 8192 ∧ e ≠ x.1) (he : e < 8192) :
    (s.setVelems core r h xs).velem k q h e = s.velem k q h e := by
  induction xs generalizing s with
  | nil => rfl
  | cons x xs ih =>
    obtain ⟨⟨hx, hne⟩, hrest⟩ := List.forall_mem_cons.1 hxs
    exact (ih hrest).trans (State.velem_setVelem_ne x.2 hx he hne)

/-- Each element of a list without repetitions takes its value. -/
theorem State.velem_setVelems_map {es : List Nat} (g : Nat → Nat) (hnd : es.Nodup) (hes : ∀ e ∈ es, e < 8192)
    (he : e ∈ es) :
    (s.setVelems core r h (es.map fun e => (e, g e))).velem core r h e = g e % 2 ^ (if h then 16 else 32) := by
  induction es generalizing s with
  | nil => cases he
  | cons a es ih =>
    obtain ⟨ha, hrest⟩ := List.forall_mem_cons.1 hes
    obtain ⟨hnot, hnd⟩ := List.nodup_cons.1 hnd
    show ((s.setVelem core r h a (g a)).setVelems core r h (es.map fun e => (e, g e))).velem core r h e = _
    rcases List.mem_cons.1 he with rfl | he
    · have hout : ∀ x ∈ es.map fun e => (e, g e), x.1 < 8192 ∧ e ≠ x.1 := by
        intro x hx
        obtain ⟨b, hb, rfl⟩ := List.mem_map.1 hx
        exact ⟨hrest b hb, fun hab => hnot (hab ▸ hb)⟩
      rw [State.velem_setVelems_ne hout ha, State.velem_setVelem_same]
    · exact ih hnd hrest he
end

/-! ### The active elements (R107, R108) -/

section
variable {s : State} {core ctx e : Nat} {i : InsV}

theorem State.mem_active : e ∈ s.active core ctx i ↔
    e < min (s.ctx core ctx).vl 8192 ∧ (i.men = true → (s.mask core i.msk).testBit e = true) := by
  unfold State.active Ctx.len
  by_cases hm : i.men = true
  · simp [hm, bit]
  · simp [hm]

theorem State.active_nodup : (s.active core ctx i).Nodup := by
  unfold State.active
  extract_lets all
  split_ifs
  · exact List.nodup_range.filter _
  · exact List.nodup_range

theorem State.lt_of_mem_active (h : e ∈ s.active core ctx i) : e < 8192 :=
  (State.mem_active.1 h).1.trans_le (min_le_right _ _)

/-- The active elements follow from the context and the masks. -/
theorem State.active_congr {t : State} (hc : t.ctx core ctx = s.ctx core ctx) (hm : t.mreg = s.mreg) :
    t.active core ctx i = s.active core ctx i := by
  unfold State.active State.mask
  rw [hc, hm]
end

/-! ### A vector instruction over registers without disturbed codewords -/

section
variable {s : State} {core ctx : Nat} (hv : s.vchk = [])
include hv

theorem State.regCw_clean (cw : Nat) (fix : State → Nat → State) : s.regCw core cw fix = (s, false) := by
  unfold State.regCw
  rw [hv]
  rfl

theorem State.touchV_clean (r : Nat) (h : Bool) (es : List Nat) : s.touchV core r h es = (s, []) := by
  induction es with
  | nil => rfl
  | cons e es ih =>
    unfold State.touchV
    extract_lets q
    rw [State.regCw_clean hv]
    show ((s.touchV core r h es).1, (s.touchV core r h es).2) = _
    rw [ih]

theorem State.touchSrcs_clean (es : List Nat) (k : Nat) (srcs : List VSrc) : s.touchSrcs core es k srcs = (s, []) := by
  induction srcs generalizing k with
  | nil => rfl
  | cons v vs ih =>
    unfold State.touchSrcs
    rw [State.touchV_clean hv]
    show ((s.touchSrcs core es (k + 1) vs).1, (s.touchSrcs core es (k + 1) vs).2) = _
    rw [ih]

theorem State.actives_clean (i : InsV) : s.actives core ctx i = (s, some (s.active core ctx i)) := by
  unfold State.actives
  exact if_pos (.inr hv)
end

/-- The values of the sources of a vector instruction. -/
def State.srcVal (s : State) (core : Nat) (srcs : List VSrc) (k e : Nat) : Nat :=
  s.velem core (srcs.getD k { reg := 0 }).reg (srcs.getD k { reg := 0 }).h e

/-- A context that is still READY goes on to the next instruction. -/
def State.goOn (s : State) (core ctx : Nat) : State := if (s.ctx core ctx).st = .ready then s.advance core ctx else s

/-- What a legal vector instruction does once it has been fetched. -/
def State.vwork (s : State) (core ctx : Nat) (i : InsV) (srcs : List VSrc)
    (f : State → List Nat → (Nat → Nat → Nat) → State) : State :=
  (f s (s.active core ctx i) (s.srcVal core srcs)).goOn core ctx

/-- Of `vop` on registers without disturbed codewords only these remain: an illegal form, VL 0, and the work itself. -/
theorem State.vop_issue (s : State) (core ctx : Nat) (i : InsV) (legal : Bool) (srcs : List VSrc)
    (f : State → List Nat → (Nat → Nat → Nat) → State) :
    ∃ body : State → State, s.vop core ctx i legal srcs f = s.issue core ctx body ∧ ∀ u : State, u.vchk = [] →
      body u = if legal = false then u.trapNop core ctx .illegal
        else if (u.ctx core ctx).vl = 0 then u.advance core ctx else u.vwork core ctx i srcs f := by
  refine ⟨_, rfl, fun u hu => ?_⟩
  dsimp only
  rw [State.actives_clean hu]
  dsimp only
  rw [State.touchSrcs_clean hu]
  have hnone : u.substAll core ctx .uncorrectable ((u.active core ctx i).flatMap fun (e : Nat) =>
      (([] : List (Nat × Nat)).filter fun (p : Nat × Nat) => decide (p.2 = e)).map (·.2)) = u := by
    exact congrArg (u.substAll core ctx .uncorrectable) (List.flatMap_eq_nil_iff.2 fun _ _ => rfl)
  simp only [hnone]
  rfl

section
variable {s : State} {core ctx : Nat} {i : InsV} {srcs : List VSrc} {f : State → List Nat → (Nat → Nat → Nat) → State}
  (h : s.issues core ctx) (hv : s.vchk = [])
include h hv

theorem State.vop_runs (hvl : (s.ctx core ctx).vl ≠ 0) : s.vop core ctx i true srcs f = .next (s.vwork core ctx i srcs f) := by
  obtain ⟨body, hbody, hwork⟩ := s.vop_issue core ctx i true srcs f
  rw [hbody, s.issue_runs core ctx body h, hwork s hv, if_neg Bool.noConfusion, if_neg hvl]

theorem State.vop_idle (hvl : (s.ctx core ctx).vl = 0) : s.vop core ctx i true srcs f = .next (s.advance core ctx) := by
  obtain ⟨body, hbody, hwork⟩ := s.vop_issue core ctx i true srcs f
  rw [hbody, s.issue_runs core ctx body h, hwork s hv, if_neg Bool.noConfusion, if_pos hvl]
end

end Sys2Proof.Machine

namespace Sys2Proof.Machine

/-! ### What a vector instruction leaves (R124) -/

section
variable {s u : State} {core ctx : Nat}

theorem State.goOn_ready (h : (u.ctx core ctx).st = .ready) : u.goOn core ctx = u.setCtx core ctx (u.ctx core ctx).next :=
  if_pos h

theorem State.velem_of_vreg {t : State} (h : t.vreg = s.vreg) (k r : Nat) (hd : Bool) (e : Nat) :
    t.velem k r hd e = s.velem k r hd e := by
  unfold State.velem State.vslot
  rw [h]

/-- New values in the elements of a list, and the context at the next instruction: what is left of the registers. -/
theorem State.goOn_setVelems (h : s.issues core ctx) (r : Nat) (hd : Bool) {es : List Nat} (g : Nat → Nat)
    (hnd : es.Nodup) (hes : ∀ e ∈ es, e < 8192) :
    let t := (s.setVelems core r hd (es.map fun e => (e, g e))).goOn core ctx
    t = { s with vreg := t.vreg, ctxs := t.ctxs } ∧ s.onlyCtx core ctx (s.ctx core ctx).next { t with vreg := s.vreg } ∧
      (∀ e ∈ es, t.velem core r hd e = g e % 2 ^ (if hd then 16 else 32)) ∧
      (∀ e, e < 8192 → e ∉ es → t.velem core r hd e = s.velem core r hd e) ∧
      ∀ k q m, m < 8192 → k ≠ core ∨ q % 16 ≠ r % 16 → t.vslot k q m = s.vslot k q m := by
  intro t
  generalize hu : s.setVelems core r hd (es.map fun e => (e, g e)) = u
  have hrest : u = { s with vreg := u.vreg } := by rw [← hu]; exact State.setVelems_rest ..
  have hctx : u.ctx core ctx = s.ctx core ctx := by rw [hrest]; rfl
  have ht : t = u.setCtx core ctx (s.ctx core ctx).next := by
    show (s.setVelems core r hd _).goOn core ctx = _
    rw [hu, State.goOn_ready (hctx ▸ h.ready), hctx]
  have hlt : ∀ x ∈ es.map fun e => (e, g e), x.1 < 8192 := by
    intro x hx
    obtain ⟨b, hb, rfl⟩ := List.mem_map.1 hx
    exact hes b hb
  refine ⟨?_, ?_, fun e he => ?_, fun e he hne => ?_, fun k q m hm hne => ?_⟩
  · rw [ht, hrest]
    rfl
  · have hback : ({ t with vreg := s.vreg } : State) = s.setCtx core ctx (s.ctx core ctx).next := by
      rw [ht, hrest]
      rfl
    rw [hback]
    exact s.onlyCtx_setCtx core ctx _ h.ctx_lt
  · rw [ht, ← hu]
    exact State.velem_setVelems_map g hnd hes he
  · rw [ht, ← hu]
    refine State.velem_setVelems_ne (fun x hx => ⟨hlt x hx, fun hex => ?_⟩) he
    obtain ⟨b, hb, rfl⟩ := List.mem_map.1 hx
    exact hne (hex ▸ hb)
  · rw [ht, ← hu]
    exact State.vslot_setVelems_ne hlt hm hne
end

/-! ### Loads and stores of elements in memory without disturbed codewords (R125, R126) -/

/-- Bytes of an element. -/
def elemBytes (h : Bool) : Nat := if h then 2 else 4

theorem bits_elemBytes (h : Bool) : 2 ^ (8 * elemBytes h) = 2 ^ (if h then 16 else 32) := by cases h <;> rfl

theorem vAddr_ok {core a : Nat} {h : Bool} {bound : Option (Nat × Nat)} (hb : ∀ x, bound = some x → x.1 < x.2)
    (hl : inLoft core a (elemBytes h) = true) (ha : a % elemBytes h = 0) : vAddr core h bound a = .ok a := by
  unfold vAddr
  extract_lets n ovf
  have hovf : ¬ovf = true := by
    intro ho
    cases bound with
    | none => exact Bool.false_ne_true ho
    | some x => exact (hb x rfl).not_ge (of_decide_eq_true ho)
  have hin : ¬inLoft core a n = false := fun e => Bool.noConfusion (hl.symm.trans e)
  rw [if_neg hovf, if_neg hin]
  exact if_neg (not_not_intro ha)

section
variable {s : State} {core ctx : Nat} {i : InsV} {es : List Nat} {adr : Nat → Nat}

/-- Elements that all have their addresses. -/
def addressed (es : List Nat) (adr : Nat → Nat) : List (Nat × Except KCause Nat) := es.map fun e => (e, .ok (adr e))

theorem strided_addressed (h : ∀ e ∈ es, let a := ((s.ctx core ctx).get i.a + e *
      (if (s.ctx core ctx).get i.b = 0 then elemBytes i.h else (s.ctx core ctx).get i.b)) % 2 ^ 64
      inLoft core a (elemBytes i.h) = true ∧ a % elemBytes i.h = 0) :
    strided core (s.ctx core ctx) i es = addressed es fun e => ((s.ctx core ctx).get i.a + e *
      (if (s.ctx core ctx).get i.b = 0 then elemBytes i.h else (s.ctx core ctx).get i.b)) % 2 ^ 64 := by
  refine List.map_congr_left fun e he => ?_
  obtain ⟨hl, ha⟩ := h e he
  exact congrArg (Prod.mk e) (vAddr_ok (fun _ hx => by cases hx) hl ha)

theorem indexed_addressed {ix : Nat → Nat} (h : ∀ e ∈ es, ix e < (s.ctx core ctx).get i.c ∧
      inLoft core (((s.ctx core ctx).get i.a + elemBytes i.h * ix e) % 2 ^ 64) (elemBytes i.h) = true ∧
      ((s.ctx core ctx).get i.a + elemBytes i.h * ix e) % 2 ^ 64 % elemBytes i.h = 0) :
    indexed core (s.ctx core ctx) i ix es =
      addressed es fun e => ((s.ctx core ctx).get i.a + elemBytes i.h * ix e) % 2 ^ 64 := by
  refine List.map_congr_left fun e he => ?_
  obtain ⟨hix, hl, ha⟩ := h e he
  refine congrArg (Prod.mk e) (vAddr_ok (fun x hx => ?_) hl ha)
  cases hx
  exact hix

section
variable (hclean : s.allClean)
include hclean

theorem State.vread_clean (n : Nat) (es : List Nat) :
    s.vread n (addressed es adr) = (s, .ok (es.map fun e => (e, ofBytes (s.peek (adr e) n)))) := by
  induction es with
  | nil => rfl
  | cons e es ih =>
    unfold addressed at ih ⊢
    rw [List.map_cons]
    unfold State.vread
    rw [State.readMem_clean _ _ _ (hclean.clean _ _)]
    dsimp only
    rw [ih]
    rfl

theorem State.substLoads_clean (hd : Bool) (n : Nat) (es : List Nat) :
    s.substLoads core ctx hd n (addressed es adr) = (s, es.map fun e => (e, ofBytes (s.peek (adr e) n))) := by
  induction es with
  | nil => rfl
  | cons e es ih =>
    unfold addressed at ih ⊢
    rw [List.map_cons]
    unfold State.substLoads
    rw [State.readMem_clean _ _ _ (hclean.clean _ _)]
    dsimp only
    rw [ih]
    rfl

theorem State.vloads_clean : s.vloads core ctx i (addressed es adr) =
    s.putV core i.d i.h (es.map fun e => (e, ofBytes (s.peek (adr e) (elemBytes i.h)))) := by
  unfold State.vloads
  extract_lets n
  rw [State.substLoads_clean hclean, State.vread_clean hclean]
  exact ite_self _

theorem State.vwrite_clean (n : Nat) (val : Nat → Nat) (es : List Nat) :
    s.vwrite n val (addressed es adr) = (s.pokes (es.map fun e => (adr e, leBytes n (val e))), none) := by
  induction es generalizing s with
  | nil => rfl
  | cons e es ih =>
    unfold addressed at ih ⊢
    rw [List.map_cons]
    unfold State.vwrite
    rw [State.writeMem_clean s hclean]
    exact ih (hclean.poke _ _)

theorem State.substStores_clean (n : Nat) (val : Nat → Nat) (es : List Nat) :
    s.substStores core ctx n val (addressed es adr) = s.pokes (es.map fun e => (adr e, leBytes n (val e))) := by
  induction es generalizing s with
  | nil => rfl
  | cons e es ih =>
    unfold addressed at ih ⊢
    rw [List.map_cons]
    unfold State.substStores
    rw [State.writeMem_clean s hclean]
    exact ih (hclean.poke _ _)

theorem State.vstores_clean (val : Nat → Nat) : s.vstores core ctx i val (addressed es adr) =
    s.pokes (es.map fun e => (adr e, leBytes (elemBytes i.h) (val e))) := by
  unfold State.vstores
  extract_lets n
  rw [State.substStores_clean hclean, State.vwrite_clean hclean]
  exact ite_self _
end

/-- Of stores in ascending order, what one wrote stays unless a later one writes there. -/
theorem State.peek_pokes_last {n : Nat} {val : Nat → Nat} (hes : es.Pairwise (· < ·)) {e : Nat} (he : e ∈ es)
    (hlater : ∀ e' ∈ es, e < e' → adr e' + n ≤ adr e ∨ adr e + n ≤ adr e') :
    (s.pokes (es.map fun e => (adr e, leBytes n (val e)))).peek (adr e) n = leBytes n (val e) := by
  obtain ⟨before, after, rfl⟩ := List.append_of_mem he
  obtain ⟨-, hafter, -⟩ := List.pairwise_append.1 hes
  have hsame := (s.pokes (before.map fun e => (adr e, leBytes n (val e)))).peek_poke_same (adr e) (leBytes n (val e))
  rw [leBytes_length] at hsame
  rw [List.map_append, State.pokes_append, List.map_cons]
  show ((State.poke _ (adr e) (leBytes n (val e))).pokes _).peek (adr e) n = _
  refine (State.peek_pokes_out _ _ _ _ fun q hq => ?_).trans hsame
  obtain ⟨e', he', rfl⟩ := List.mem_map.1 hq
  rw [leBytes_length]
  exact (hlater e' (List.mem_append_right _ (List.mem_cons_of_mem _ he')) (List.rel_of_pairwise_cons hafter he')).symm

theorem State.active_pairwise : (s.active core ctx i).Pairwise (· < ·) := by
  unfold State.active
  extract_lets all
  split_ifs
  · exact List.pairwise_lt_range.filter _
  · exact List.pairwise_lt_range
end

section
variable {s : State} {core ctx : Nat} {i : InsV} (h : s.issues core ctx) (hv : s.vchk = []) (hchk : s.chk = [])
  (hvl : (s.ctx core ctx).vl ≠ 0) {x : Instr} {srcs : List VSrc} {f : State → List Nat → (Nat → Nat → Nat) → State}
  (hx : exec x s = s.vop core ctx i true srcs f) {adr : Nat → Nat}
include h hv hchk hvl hx

/-- A load of elements that all have their addresses. -/
theorem vload_results (hf : f s (s.active core ctx i) (s.srcVal core srcs) =
      s.vloads core ctx i (addressed (s.active core ctx i) adr)) :
    ∃ t, exec x s = .next t ∧ t = { s with vreg := t.vreg, ctxs := t.ctxs } ∧
      s.onlyCtx core ctx (s.ctx core ctx).next { t with vreg := s.vreg } ∧
      (∀ e ∈ s.active core ctx i, t.velem core i.d i.h e = ofBytes (s.peek (adr e) (elemBytes i.h))) ∧
      (∀ e, e < 8192 → e ∉ s.active core ctx i → t.velem core i.d i.h e = s.velem core i.d i.h e) ∧
      ∀ k r m, m < 8192 → k ≠ core ∨ r % 16 ≠ i.d % 16 → t.vslot k r m = s.vslot k r m := by
  obtain ⟨hrest, hctx, hin, hout, hregs⟩ := State.goOn_setVelems h i.d i.h (fun e => ofBytes (s.peek (adr e) (elemBytes i.h)))
    (State.active_nodup (i := i)) fun e => State.lt_of_mem_active
  refine ⟨_, ?_, hrest, hctx, fun e he => ?_, hout, hregs⟩
  · rw [hx, State.vop_runs h hv hvl]
    unfold State.vwork
    rw [hf, State.vloads_clean (State.allClean_of_chk hchk), State.putV_clean hv]
  · have hlt := ofBytes_lt (s.peek (adr e) (elemBytes i.h))
    rw [State.peek_length, bits_elemBytes] at hlt
    exact (hin e he).trans (Nat.mod_eq_of_lt hlt)

/-- A store of elements that all have their addresses. -/
theorem vstore_results {val : Nat → Nat} (hf : f s (s.active core ctx i) (s.srcVal core srcs) =
      (s.vstores core ctx i val (addressed (s.active core ctx i) adr)).drew) :
    ∃ t, exec x s = .next t ∧ t = { s with mem := t.mem, ctxs := t.ctxs, freeCtr := s.freeCtr + 1 } ∧
      t.ctx core ctx = (s.ctx core ctx).next ∧ (∀ k m, m < 2048 → k ≠ core ∨ m ≠ ctx → t.ctx k m = s.ctx k m) ∧
      (∀ e ∈ s.active core ctx i, (∀ e' ∈ s.active core ctx i, e < e' →
          adr e' + elemBytes i.h ≤ adr e ∨ adr e + elemBytes i.h ≤ adr e') →
        t.peek (adr e) (elemBytes i.h) = leBytes (elemBytes i.h) (val e)) ∧
      ∀ y, (∀ e ∈ s.active core ctx i, y < adr e ∨ adr e + elemBytes i.h ≤ y) → t.byte y = s.byte y := by
  generalize hu : s.pokes ((s.active core ctx i).map fun e => (adr e, leBytes (elemBytes i.h) (val e))) = u
  have hrest : u = { s with mem := u.mem } := by rw [← hu]; exact State.pokes_rest ..
  have hctx : u.drew.ctx core ctx = s.ctx core ctx := by rw [hrest]; rfl
  have hset := u.drew.onlyCtx_setCtx core ctx (s.ctx core ctx).next h.ctx_lt
  refine ⟨u.drew.setCtx core ctx (s.ctx core ctx).next, ?_, ?_, hset.here, fun k m hm hne => ?_, fun e he hlater => ?_,
    fun y hy => ?_⟩
  · rw [hx, State.vop_runs h hv hvl]
    unfold State.vwork
    rw [hf, State.vstores_clean (State.allClean_of_chk hchk), hu, State.goOn_ready (hctx ▸ h.ready), hctx]
  · rw [hrest]
    rfl
  · rw [hset.others k m hm hne, hrest]
    rfl
  · show u.peek (adr e) (elemBytes i.h) = _
    rw [← hu]
    exact State.peek_pokes_last State.active_pairwise he hlater
  · show u.byte y = _
    rw [← hu]
    refine State.byte_pokes_out _ _ _ fun q hq => ?_
    obtain ⟨e, he, rfl⟩ := List.mem_map.1 hq
    rw [leBytes_length]
    exact hy e he
end

/-- Settles O18: where every active element has its address, loads and stores go through without a substitute. -/
theorem vectorMemoryResults : Obligations.VectorMemoryResults := by
  intro s core ctx i h hv hchk c es n hvl along at' loads stores
  refine ⟨fun hok => ⟨?_, ?_⟩, fun hok => ⟨?_, ?_⟩⟩
  · exact vload_results h hv hchk hvl (x := .vld core ctx i) (srcs := []) (adr := along)
      (f := fun s es _ => s.vloads core ctx i (strided core (s.ctx core ctx) i es)) rfl
      (congrArg (s.vloads core ctx i) (strided_addressed hok))
  · exact vstore_results h hv hchk hvl (x := .vst core ctx i) (srcs := [s.storeSrc i]) (adr := along)
      (f := fun s es v => (s.vstores core ctx i (v 0) (strided core (s.ctx core ctx) i es)).drew) rfl
      (congrArg (fun xs => (s.vstores core ctx i _ xs).drew) (strided_addressed hok))
  · exact vload_results h hv hchk hvl (x := .vgather core ctx i) (srcs := [{ reg := i.b, sub := 0 }]) (adr := at')
      (f := fun s es v => s.vloads core ctx i (indexed core (s.ctx core ctx) i (v 0) es)) rfl
      (congrArg (s.vloads core ctx i) (indexed_addressed hok))
  · exact vstore_results h hv hchk hvl (x := .vscatter core ctx i) (srcs := [{ reg := i.b, sub := 0 }, s.storeSrc i])
      (adr := at') (f := fun s es v => (s.vstores core ctx i (v 1) (indexed core (s.ctx core ctx) i (v 0) es)).drew) rfl
      (congrArg (fun xs => (s.vstores core ctx i _ xs).drew) (indexed_addressed hok))

end Sys2Proof.Machine

namespace Sys2Proof.Machine

/-! ### Flags, saturations and the scale slot (R73, R127, R140) -/

section
variable {s t u : State} {core ctx k : Nat}

theorem State.sameKey_coreFlags (s : State) (fl sats : Nat) (hflags : k ≠ Obj.CORE_NUMERIC_FLAGS.key core)
    (hsat : k ≠ Obj.SATURATION_TOTAL.key) : State.sameKey k s (s.coreFlags core fl sats) := by
  have hor := State.sameKey_orO s Obj.CORE_NUMERIC_FLAGS (fl % 128) core 0 hflags
  unfold State.coreFlags
  exact .ite hor (hor.trans (State.sameKey_incO _ _ _ _ _ hsat))

theorem State.slotAddr_congr (h : t.getO Obj.SCALE_TABLE_BASE = s.getO Obj.SCALE_TABLE_BASE) (n : Nat) :
    t.slotAddr n = s.slotAddr n := by
  unfold State.slotAddr
  rw [h]

/-- The slot that follows a tensor is found in memory by the place and the size of the table. -/
theorem State.slotOf_congr (hm : t.mem = s.mem) (hbase : t.getO Obj.SCALE_TABLE_BASE = s.getO Obj.SCALE_TABLE_BASE)
    (hslots : t.getO Obj.SCALE_SLOTS = s.getO Obj.SCALE_SLOTS) (tid : Nat) : t.slotOf tid = s.slotOf tid := by
  unfold State.slotOf State.peek
  simp only [State.slotAddr_congr hbase, hslots, hm]

/-- A scale record writes the 64 bytes of the tensor's slot and nothing else. -/
theorem State.recordScale_clean (h : s.allClean) (tid sats : Nat) (top : Option Int) :
    let t := s.recordScale tid sats top
    t = { s with mem := t.mem, freeCtr := t.freeCtr } ∧
      ∀ y, (∀ n, s.slotOf tid = some n → tid ≠ 0 → y < s.slotAddr n ∨ s.slotAddr n + 64 ≤ y) →
        t.byte y = s.byte y := by
  intro t
  have ht : t = s.recordScale tid sats top := rfl
  unfold State.recordScale at ht
  by_cases hnone : tid = 0 ∨ (sats = 0 ∧ top = none)
  · rw [if_pos hnone] at ht
    rw [ht]
    exact ⟨rfl, fun _ _ => rfl⟩
  · rw [if_neg hnone] at ht
    cases hslot : s.slotOf tid with
    | none =>
      simp only [hslot] at ht
      rw [ht]
      exact ⟨rfl, fun _ _ => rfl⟩
    | some n =>
      simp only [hslot, State.readMem_clean _ _ _ (h.clean _ _)] at ht
      generalize hu : (if bits (ofBytes (s.peek (s.slotAddr n) 64)) 223 192 + sats < 2 ^ 32 then s else s.drew) = u at ht
      have hrest : u = { s with freeCtr := u.freeCtr } := by
        rw [← hu]
        split_ifs <;> rfl
      have hclean : u.allClean := by
        rw [hrest]
        exact h
      rw [State.writeMem_clean u hclean] at ht
      refine ⟨?_, fun y hy => ?_⟩
      · rw [ht, hrest]
        rfl
      · rw [ht, State.byte_poke_out _ _ _ _ (by
          rw [leBytes_length]
          exact hy n rfl fun e => hnone (.inl e))]
        rw [hrest]
        rfl

/-- What accounting for a vector instruction leaves: a context's status word, flags and saturations of the core, and the slot of
the context's tensor. -/
structure State.accounted (s : State) (core ctx : Nat) (t : State) : Prop where
  rest : t = { s with ctxs := t.ctxs, obj := t.obj, mem := t.mem, freeCtr := t.freeCtr }
  here : ∃ st, t.ctx core ctx = { s.ctx core ctx with status := st } ∧
    ((s.ctx core ctx).noexc = false → st = (s.ctx core ctx).status)
  others : ∀ k n, n < 2048 → k ≠ core ∨ n ≠ ctx → t.ctx k n = s.ctx k n
  values : ∀ (p : ObjDef) k l, p.key k l ≠ Obj.CORE_NUMERIC_FLAGS.key core 0 → p.key k l ≠ Obj.SATURATION_TOTAL.key →
    t.getO p k l = s.getO p k l
  bytes : ∀ y, (∀ n, s.slotOf (s.ctx core ctx).tid = some n → (s.ctx core ctx).tid ≠ 0 →
    y < s.slotAddr n ∨ s.slotAddr n + 64 ≤ y) → t.byte y = s.byte y

/-- The scale record comes after the flags, which leave memory and the scale table alone. -/
theorem State.accounted.recordScale (hu : s.accounted core ctx u) (hcore : core < 800) (hmem : u.mem = s.mem)
    (hclean : u.allClean) (sats : Nat) (top : Option Int) :
    s.accounted core ctx (u.recordScale (s.ctx core ctx).tid sats top) := by
  have hbase : u.getO Obj.SCALE_TABLE_BASE = s.getO Obj.SCALE_TABLE_BASE := by
    refine hu.values _ _ _ ?_ (by decide)
    simp only [ObjDef.key, Obj.SCALE_TABLE_BASE, Obj.CORE_NUMERIC_FLAGS]
    omega
  have hslots : u.getO Obj.SCALE_SLOTS = s.getO Obj.SCALE_SLOTS := by
    refine hu.values _ _ _ ?_ (by decide)
    simp only [ObjDef.key, Obj.SCALE_SLOTS, Obj.CORE_NUMERIC_FLAGS]
    omega
  obtain ⟨hrest, hbytes⟩ := State.recordScale_clean hclean (s.ctx core ctx).tid sats top
  generalize u.recordScale (s.ctx core ctx).tid sats top = t at hrest hbytes ⊢
  have hctx : ∀ k n, t.ctx k n = u.ctx k n := fun k n => by rw [hrest]; rfl
  refine ⟨?_, ?_, fun k n hn hne => (hctx k n).trans (hu.others k n hn hne), fun p k l hf hs => ?_, fun y hy => ?_⟩
  · rw [hrest, hu.rest]
  · rw [hctx]
    exact hu.here
  · rw [← hu.values p k l hf hs, hrest]
    rfl
  · have hsame : u.byte y = s.byte y := by
      unfold State.byte
      rw [hmem]
    refine (hbytes y fun n hn hz => ?_).trans hsame
    rw [State.slotOf_congr hmem hbase hslots] at hn
    rw [State.slotAddr_congr hbase]
    exact hy n hn hz

theorem State.accounted_vaccount (hcore : core < 800) (hctx : ctx < 2048) (hchk : s.chk = []) (w : Work) :
    s.accounted core ctx (s.vaccount core ctx w) := by
  unfold State.vaccount
  by_cases hn : (s.ctx core ctx).noexc = true
  · have hset := s.onlyCtx_setCtx core ctx { s.ctx core ctx with status := (s.ctx core ctx).status ||| (w.flags % 128) } hctx
    rw [if_pos hn]
    unfold State.ctxFlags
    rw [if_pos hn]
    refine State.accounted.recordScale ⟨rfl, ⟨_, hset.here, fun e => ?_⟩, hset.others, fun _ _ _ _ _ => rfl, fun _ _ => rfl⟩
      hcore rfl (State.allClean_of_chk hchk) _ _
    exact Bool.noConfusion (hn.symm.trans e)
  · have hobj := s.onlyObj_coreFlags core w.flags w.sats
    have hsame := fun k => State.sameKey_coreFlags (k := k) (core := core) s w.flags w.sats
    rw [if_neg hn]
    unfold State.account
    generalize s.coreFlags core w.flags w.sats = u at hobj hsame ⊢
    have hctxs : ∀ k n, u.ctx k n = s.ctx k n := fun k n => by rw [hobj]; rfl
    have hmem : u.mem = s.mem := by rw [hobj]
    have hclean : u.allClean := State.allClean_of_chk (by rw [hobj]; exact hchk)
    refine State.accounted.recordScale ⟨?_, ⟨_, hctxs core ctx, fun _ => rfl⟩, fun k n _ _ => hctxs k n,
      fun p k l hf hs => (hsame _ hf hs).getO, fun y _ => ?_⟩ hcore hmem hclean _ _
    · rw [hobj]
    · unfold State.byte
      rw [hmem]
end

/-! ### Elementwise results (R124) -/

/-- What an instruction leaves that writes g at the active elements of V[D] and accounts for its work. -/
def State.vputs (s : State) (core ctx : Nat) (i : InsV) (x : Instr) (hd : Bool) (g : Nat → Nat) : Prop :=
  ∃ t, exec x s = .next t ∧
    t = { s with vreg := t.vreg, ctxs := t.ctxs, obj := t.obj, mem := t.mem, freeCtr := t.freeCtr } ∧
    (∀ e ∈ s.active core ctx i, t.velem core i.d hd e = g e % 2 ^ (if hd then 16 else 32)) ∧
    (∀ e, e < 8192 → e ∉ s.active core ctx i → t.velem core i.d hd e = s.velem core i.d hd e) ∧
    (∀ k r m, m < 8192 → k ≠ core ∨ r % 16 ≠ i.d % 16 → t.vslot k r m = s.vslot k r m) ∧
    (∃ st, t.ctx core ctx = { (s.ctx core ctx).next with status := st } ∧
      ((s.ctx core ctx).noexc = false → st = (s.ctx core ctx).status)) ∧
    (∀ k n, n < 2048 → k ≠ core ∨ n ≠ ctx → t.ctx k n = s.ctx k n) ∧
    (∀ (p : ObjDef) k l, p.key k l ≠ Obj.CORE_NUMERIC_FLAGS.key core 0 → p.key k l ≠ Obj.SATURATION_TOTAL.key →
      t.getO p k l = s.getO p k l) ∧
    ∀ y, (∀ n, s.slotOf (s.ctx core ctx).tid = some n → (s.ctx core ctx).tid ≠ 0 →
      y < s.slotAddr n ∨ s.slotAddr n + 64 ≤ y) → t.byte y = s.byte y

/-- Only the bits that fit an element count. -/
theorem State.vputs.congr {s : State} {core ctx : Nat} {i : InsV} {x : Instr} {hd : Bool} {g g' : Nat → Nat}
    (h : s.vputs core ctx i x hd g) (hg : ∀ e, g e % 2 ^ (if hd then 16 else 32) = g' e % 2 ^ (if hd then 16 else 32)) :
    s.vputs core ctx i x hd g' := by
  obtain ⟨t, hx, hrest, hin, hkept⟩ := h
  exact ⟨t, hx, hrest, fun e he => (hin e he).trans (hg e), hkept⟩

section
variable {s : State} {core ctx : Nat} {i : InsV}

/-- Elementwise arithmetic writes its results and accounts for them. -/
theorem State.elementwise_clean (hv : s.vchk = []) (hd : Bool) (es : List Nat) (G : Nat → Fl Nat) :
    ∃ w, s.elementwise core ctx i hd es G = (s.setVelems core i.d hd (es.map fun e => (e, (G e).1))).vaccount core ctx w := by
  unfold State.elementwise
  extract_lets rs w
  refine ⟨w, ?_⟩
  rw [State.putV_clean hv, List.map_map]
  rfl

variable (h : s.issues core ctx) (hv : s.vchk = []) (hchk : s.chk = []) (hvl : (s.ctx core ctx).vl ≠ 0)
include h hv hchk hvl

theorem State.vop_elementwise {x : Instr} {srcs : List VSrc} {f : State → List Nat → (Nat → Nat → Nat) → State}
    {hd : Bool} {G : Nat → Fl Nat} (hx : exec x s = s.vop core ctx i true srcs f)
    (hf : f s (s.active core ctx i) (s.srcVal core srcs) = s.elementwise core ctx i hd (s.active core ctx i) G) :
    s.vputs core ctx i x hd fun e => (G e).1 := by
  obtain ⟨w, hw⟩ := State.elementwise_clean (core := core) (ctx := ctx) (i := i) hv hd (s.active core ctx i) G
  obtain ⟨-, -, hin, hout, hregs⟩ := State.goOn_setVelems h i.d hd (fun e => (G e).1) (State.active_nodup (i := i))
    fun e => State.lt_of_mem_active
  have hrest := s.setVelems_rest core i.d hd ((s.active core ctx i).map fun e => (e, (G e).1))
  generalize s.setVelems core i.d hd ((s.active core ctx i).map fun e => (e, (G e).1)) = u at hw hin hout hregs hrest
  have hctx : ∀ k n, u.ctx k n = s.ctx k n := fun k n => by rw [hrest]; rfl
  have hvreg : (u.goOn core ctx).vreg = u.vreg := by
    unfold State.goOn
    split_ifs <;> rfl
  have hacc := State.accounted_vaccount (s := u) h.core_lt h.ctx_lt (by rw [hrest]; exact hchk) w
  generalize u.vaccount core ctx w = a at hw hacc
  obtain ⟨st, hst, hnoexc⟩ := hacc.here
  rw [hctx] at hst hnoexc
  have hset := a.onlyCtx_setCtx core ctx (a.ctx core ctx).next h.ctx_lt
  have hsame : ∀ t : State, t.vreg = (u.goOn core ctx).vreg → ∀ k r, t.vslot k r = (u.goOn core ctx).vslot k r ∧
      ∀ hd, t.velem k r hd = (u.goOn core ctx).velem k r hd := fun t ht k r =>
    ⟨funext fun m => by unfold State.vslot; rw [ht], fun hd => funext fun e => State.velem_of_vreg ht k r hd e⟩
  have ht : (a.setCtx core ctx (a.ctx core ctx).next).vreg = (u.goOn core ctx).vreg := by
    rw [hvreg]
    show a.vreg = u.vreg
    rw [hacc.rest]
  refine ⟨a.setCtx core ctx (a.ctx core ctx).next, ?_, ?_, fun e he => ?_, fun e he hne => ?_, fun k r m hm hne => ?_,
    ⟨st, ?_, hnoexc⟩, fun k n hn hne => ?_, fun p k l hp hp' => ?_, fun y hy => ?_⟩
  · rw [hx, State.vop_runs h hv hvl]
    unfold State.vwork
    rw [hf, hw, State.goOn_ready (by rw [hst]; exact h.ready)]
  · rw [hacc.rest, hrest]
    rfl
  · rw [(hsame _ ht core i.d).2]
    exact hin e he
  · rw [(hsame _ ht core i.d).2]
    exact hout e he hne
  · rw [(hsame _ ht k r).1]
    exact hregs k r m hm hne
  · rw [hset.here, hst]
    rfl
  · rw [hset.others k n hn hne, hacc.others k n hn hne, hctx]
  · have hget := hacc.values p k l hp hp'
    rw [hrest] at hget
    exact hget
  · have hbyte := hacc.bytes y
    rw [hctx, hrest] at hbyte
    exact hbyte hy
end

/-- Settles O16: VARITH and VSFN are elementwise, and what they do besides is to account for their work. -/
theorem vectorArithmeticResults : Obligations.VectorArithmeticResults := by
  intro s core ctx i h hv hchk c es hvl puts
  have hgeneral : varithLegal i = true → puts (.varith core ctx i) (varithPacked i) fun e =>
      (varithOf i.vfn (varithFmt i) c.strict (if varithPacked i then s.ctxW core ctx e else none)
        (toSigned 8 (c.get i.c)) (c.get i.a % 2 ^ 32) e (s.srcVal core (varithSrcs i) 0 e) (s.srcVal core (varithSrcs i) 1 e)
        (s.srcVal core (varithSrcs i) 2 e)).1 := by
    intro hlegal
    have hx := congrArg (fun b => s.vop core ctx i b (varithSrcs i) fun s es v =>
      s.elementwise core ctx i (varithPacked i) es fun (e : Nat) => varithOf i.vfn (varithFmt i) c.strict
        (if varithPacked i then s.ctxW core ctx e else none) (toSigned 8 (c.get i.c)) (c.get i.a % 2 ^ 32) e
          (v 0 e) (v 1 e) (v 2 e)) hlegal
    exact State.vop_elementwise h hv hchk hvl (x := .varith core ctx i) hx rfl
  have hword : ∀ fn g, i.vfn = fn → 11 ≤ fn → fn ≤ 14 → i.h = false →
      (∀ e, (varithOf fn f32 c.strict none (toSigned 8 (c.get i.c)) (c.get i.a % 2 ^ 32) e (s.srcVal core (varithSrcs i) 0 e)
        (s.srcVal core (varithSrcs i) 1 e) (s.srcVal core (varithSrcs i) 2 e)).1 % 2 ^ 32 = g e % 2 ^ 32) →
      puts (.varith core ctx i) false g := by
    intro fn g hfn hlo hhi hh hg
    have hpacked : varithPacked i = false := by
      unfold varithPacked
      rw [if_neg (by omega), hh]
    have hlegal : varithLegal i = true := by
      unfold varithLegal
      rw [hh, Bool.not_false, Bool.true_or, Bool.and_true]
      exact decide_eq_true (by omega)
    have hfmt : varithFmt i = f32 := by
      unfold varithFmt
      rw [hh]
      rfl
    have hputs := hgeneral hlegal
    rw [hpacked, hfmt, hfn] at hputs
    exact State.vputs.congr hputs hg
  refine ⟨?_, ?_, ?_, ?_, ?_, ?_⟩
  · intro hlegal
    refine State.vputs.congr (hgeneral hlegal) fun e => congrArg (fun n => n % _) ?_
    extract_lets v
    have hval : ∀ k, v k = s.srcVal core (varithSrcs i) k e := by
      intro k
      unfold State.srcVal
      rw [List.getD_eq_getElem?_getD]
      dsimp only [v]
      cases (varithSrcs i)[k]? <;> rfl
    rw [hval, hval, hval]
  · intro hfn hh
    have hsrcs : varithSrcs i = [{ reg := i.a, sub := 0 }, { reg := i.b, sub := 0 }] := by simp [varithSrcs, hfn]
    exact hword 13 _ hfn (by decide) (by decide) hh fun e => by rw [hsrcs]; exact Nat.mod_mod _ _
  · intro hfn hh
    have hsrcs : varithSrcs i = [{ reg := i.a, sub := 0 }, { reg := i.b, sub := 0 }] := by simp [varithSrcs, hfn]
    exact hword 14 _ hfn (by decide) (by decide) hh fun e => by rw [hsrcs]; exact Nat.mod_mod _ _
  · exact fun hfn hh => hword 11 _ hfn (by decide) (by decide) hh fun e => Nat.mod_mod _ _
  · exact fun hfn hh => hword 12 _ hfn (by decide) (by decide) hh fun e => rfl
  · intro hfn hh
    have hlegal : (decide (i.vfn ≤ 5) && !i.h) = true := by
      rw [hh, decide_eq_true hfn]
      rfl
    have hx := congrArg (fun b => s.vop core ctx i b ({ reg := i.a } :: if i.vfn = 4 then [{ reg := i.b }] else []) fun s es v =>
      s.elementwise core ctx i false es fun (e : Nat) => vsfnOf i.vfn c.strict (v 0 e) (v 1 e)) hlegal
    refine State.vputs.congr (State.vop_elementwise h hv hchk hvl (x := .vsfn core ctx i) hx rfl) fun e => ?_
    by_cases h4 : i.vfn = 4
    · rw [if_pos h4, if_pos h4]
      rfl
    · rw [if_neg h4, if_neg h4]
      rfl

end Sys2Proof.Machine

namespace Sys2Proof.Machine

/-! ### Selection between elements that no register can hold (R106, R124) -/

/-- The element that VSEL selects. -/
def State.vselElem (s : State) (core : Nat) (i : InsV) (e : Nat) : Nat :=
  s.velem core (if bit (s.mask core i.msk) e then i.a else i.b) i.h e

/-- VSEL writes the selected element below VL, of it the bits that an element has. -/
theorem execVsel_writes {s : State} {core ctx : Nat} {i : InsV} (h : s.issues core ctx) (hv : s.vchk = [])
    (hvl : (s.ctx core ctx).vl ≠ 0) (hmen : i.men = true) (hfn : i.vfn = 0) :
    exec (.vsel core ctx i) s = .next ((s.setVelems core i.d i.h
      ((s.active core ctx { i with men := false }).map fun e => (e, s.vselElem core i e))).goOn core ctx) := by
  have hlegal : (i.men && decide (i.vfn = 0)) = true := by rw [hmen, hfn]; rfl
  show execVsel core ctx i s = _
  unfold execVsel
  rw [hlegal, State.vop_runs h hv hvl]
  unfold State.vwork
  dsimp only
  rw [if_pos hv]
  dsimp only
  rw [State.touchV_clean hv]
  dsimp only
  rw [State.touchV_clean hv, ← State.putV_clean hv]
  rfl

/-- A READY device whose context 0 of core 0 is about to run with VL 1, and slot 0 of V2 at 2 ^ 32: one more than its 32 bits
hold. -/
def overfull : State :=
  State.setCtx { State.reset.setO Obj.DEVICE_STATE 3 with vreg := [(vKey 0 2 0, 2 ^ 32)] } 0 0
    { st := .ready, pc := loftBase 0, vl := 1 }

theorem overfull_ctx : overfull.ctx 0 0 = { st := .ready, pc := loftBase 0, vl := 1 } :=
  State.ctx_setCtx_same _ 0 0 _

theorem overfull_issues : overfull.issues 0 0 where
  core_lt := by decide
  ctx_lt := by decide
  ready := by rw [overfull_ctx]
  inService := rfl
  aligned := by rw [overfull_ctx]; rfl
  region := by rw [overfull_ctx]; exact State.fetches_own _ _ _ (by decide) (by decide)
  clean := fun _ _ => rfl
  stored := rfl

/-- VSEL of element 0 from V2, by a mask without bits. -/
def selectSecond : InsV := { d := 4, a := 1, b := 2, men := true }

/-- Refutes O17: VSEL keeps the 32 bits of the element it writes, and the statement lets a source slot hold more. -/
theorem not_vectorMaskResults : ¬ Obligations.VectorMaskResults := by
  intro hall
  obtain ⟨-, hsel⟩ := hall
  obtain ⟨-, -, hvsel, -⟩ := hsel overfull 0 0 selectSecond overfull_issues rfl (by decide)
  obtain ⟨t, hnext, -, -, helems, -⟩ := hvsel rfl rfl
  have hsame := helems 0 (by decide)
  have hwrites := execVsel_writes (i := selectSecond) overfull_issues rfl (by decide) rfl rfl
  obtain ⟨-, -, hin, -⟩ := State.goOn_setVelems overfull_issues 4 false (overfull.vselElem 0 selectSecond)
    (State.active_nodup (s := overfull) (core := 0) (ctx := 0) (i := { selectSecond with men := false }))
    fun e => State.lt_of_mem_active
  have hzero := hin 0 (by decide)
  rw [hnext] at hwrites
  cases hwrites
  have hlost : overfull.vselElem 0 selectSecond 0 % 2 ^ 32 = overfull.vselElem 0 selectSecond 0 := hzero.symm.trans hsame
  exact absurd hlost (by decide)

end Sys2Proof.Machine

namespace Sys2Proof.Machine

/-! ### What work on tensors leaves alone: everything but values, open values and memory -/

section
variable {s t u v : State}

/-- Only values of the dictionary, the count of open values and memory have changed. -/
def State.onlyWork (s t : State) : Prop := t = { s with obj := t.obj, freeCtr := t.freeCtr, mem := t.mem }

theorem State.onlyWork.refl (s : State) : s.onlyWork s := rfl

theorem State.onlyWork.trans (h : s.onlyWork t) (h' : t.onlyWork u) : s.onlyWork u := by
  unfold State.onlyWork at *
  rw [h', h]

theorem State.onlyObj.work (h : s.onlyObj t) : s.onlyWork t := by
  unfold State.onlyObj at h
  unfold State.onlyWork
  rw [h]

theorem State.onlyWork_poke (s : State) (a : Nat) (bs : List Byte) : s.onlyWork (s.poke a bs) := rfl

theorem State.onlyWork_pokes (s : State) (ws : List (Nat × List Byte)) : s.onlyWork (s.pokes ws) := by
  unfold State.onlyWork
  rw [State.pokes_rest]

theorem State.onlyWork.chk (h : s.onlyWork t) : t.chk = s.chk := by rw [h]

theorem State.onlyObj.byte (h : s.onlyObj t) (y : Nat) : t.byte y = s.byte y := by
  rw [h]
  rfl

theorem State.onlyObj.mem (h : s.onlyObj t) : t.mem = s.mem := by rw [h]

theorem State.getO_pokes (s : State) (ws : List (Nat × List Byte)) (o : ObjDef) (i j : Nat) :
    (s.pokes ws).getO o i j = s.getO o i j := by
  rw [State.pokes_rest]
  rfl

/-- Bytes decide what is read. -/
theorem State.peek_congr {a n : Nat} (h : ∀ y, a ≤ y → y < a + n → t.byte y = s.byte y) : t.peek a n = s.peek a n :=
  bytesOf_congr _ _ _ _ h

/-- What has been written stays so where only bytes that nothing is said of change. -/
theorem State.wrote.later {ws : List (Nat × List Byte)} {other : Nat → Prop} (h : s.wrote ws other u)
    (hb : ∀ y, ¬other y → v.byte y = u.byte y) : s.wrote ws other v where
  found pre a bs rest hw hr hy :=
    (State.peek_congr fun y hlo hhi => hb y (hy y hlo hhi)).trans (h.found pre a bs rest hw hr hy)
  kept y hy hw := (hb y hy).trans (h.kept y hy hw)

/-- Writes are judged from any state with the same memory. -/
theorem State.wrote.of_mem {ws : List (Nat × List Byte)} {other : Nat → Prop} (h : u.wrote ws other v) (hm : u.mem = s.mem) :
    s.wrote ws other v where
  found := h.found
  kept y hy hw := (h.kept y hy hw).trans (by unfold State.byte; rw [hm])

/-! ### The scale table and the score area (R71, R73, R180) -/

theorem State.inScaleTable_congr (hbase : t.getO Obj.SCALE_TABLE_BASE = s.getO Obj.SCALE_TABLE_BASE)
    (hslots : t.getO Obj.SCALE_SLOTS = s.getO Obj.SCALE_SLOTS) (tid y : Nat) :
    t.inScaleTable tid y ↔ s.inScaleTable tid y := by
  unfold State.inScaleTable
  rw [hbase, hslots]

/-- The slot that follows a tensor lies in the scale table. -/
theorem State.inScaleTable_of_slotOf {tid n y : Nat} (h : s.slotOf tid = some n) (htid : tid ≠ 0)
    (hy : s.slotAddr n ≤ y ∧ y < s.slotAddr n + 64) : s.inScaleTable tid y := by
  have hn : n < s.getO Obj.SCALE_SLOTS := List.mem_range.1 (List.mem_of_find?_eq_some h)
  unfold State.slotAddr at hy
  exact ⟨htid, by omega, by omega⟩

/-- Accounting for work changes values, and of memory at most the scale table. -/
theorem State.account_clean (h : s.chk = []) (core : Nat) (w : Work) (tid : Nat) :
    s.onlyWork (s.account core w tid) ∧ ∀ y, ¬s.inScaleTable tid y → (s.account core w tid).byte y = s.byte y := by
  have hobj := s.onlyObj_coreFlags core w.flags w.sats
  have hkeep : ∀ o : ObjDef, o.key < 0xA000 * 256 → o.key ≠ Obj.SATURATION_TOTAL.key →
      (s.coreFlags core w.flags w.sats).getO o = s.getO o := fun o hlt hne =>
    (State.sameKey_coreFlags s w.flags w.sats (by simp only [ObjDef.key, Obj.CORE_NUMERIC_FLAGS] at hlt ⊢; omega) hne).getO
  have hbase := hkeep Obj.SCALE_TABLE_BASE (by decide) (by decide)
  have hslots := hkeep Obj.SCALE_SLOTS (by decide) (by decide)
  unfold State.account
  generalize s.coreFlags core w.flags w.sats = u at hobj hbase hslots ⊢
  have hclean : u.allClean := State.allClean_of_chk (hobj.work.chk.trans h)
  obtain ⟨hrest, hbytes⟩ := State.recordScale_clean hclean tid w.sats w.top
  refine ⟨hobj.work.trans (by unfold State.onlyWork; rw [hrest]), fun y hy => ?_⟩
  refine (hbytes y fun n hn htid => ?_).trans (hobj.byte y)
  by_contra hin
  exact hy ((State.inScaleTable_congr hbase hslots tid y).1 (State.inScaleTable_of_slotOf hn htid (by omega)))

theorem SMap.get_append_right {α : Type} (d : α) (m m' : SMap α) (i : Nat) (h : ∀ q ∈ m, q.1 ≠ i) :
    SMap.get d (m ++ m') i = SMap.get d m' i := by
  induction m with
  | nil => rfl
  | cons p m ih =>
    rw [List.cons_append, SMap.get_cons, if_neg (h p List.mem_cons_self), ih fun q hq => h q (List.mem_cons_of_mem _ hq)]

theorem SMap.get_append_left {α : Type} (d : α) (m m' : SMap α) (i : Nat) (h : ∀ q ∈ m', q.1 ≠ i) :
    SMap.get d (m ++ m') i = SMap.get d m i := by
  induction m with
  | nil => exact SMap.get_of_not_mem d m' i h
  | cons p m ih => rw [List.cons_append, SMap.get_cons, SMap.get_cons, ih]

theorem SMap.get_filter {α : Type} (d : α) (p : Nat → Bool) (m : SMap α) (i : Nat) (h : p i = true) :
    SMap.get d (m.filter fun q => p q.1) i = SMap.get d m i := by
  induction m with
  | nil => rfl
  | cons q m ih =>
    obtain ⟨k, v⟩ := q
    by_cases hk : p k = true
    · simp only [List.filter_cons, hk, if_true, SMap.get_cons, ih]
    · have hne : k ≠ i := fun e => hk (e ▸ h)
      simp only [List.filter_cons, hk, SMap.get_cons, hne, ih, Bool.false_eq_true, if_false]

/-- Cells outside a run of bytes that is replaced keep their value. -/
theorem get_spliceMem_out (m : List Host.Cell) (a : Nat) (bs : List Byte) (y : Nat) (h : y < a ∨ a + bs.length ≤ y) :
    SMap.get 0 (spliceMem m a bs) y = SMap.get 0 m y := by
  have hrun : ∀ q ∈ cellsOf a bs, q.1 ≠ y := fun q hq => by
    obtain ⟨hlo, hhi, -⟩ := cellsOf_mem a bs q hq
    omega
  have hlow : ∀ q ∈ m.filter (fun (c : Host.Cell) => decide (c.1 < a)), q.1 < a := fun q hq =>
    of_decide_eq_true (List.mem_filter.1 hq).2
  have hhigh : ∀ q ∈ m.filter (fun (c : Host.Cell) => decide (a + bs.length ≤ c.1)), a + bs.length ≤ q.1 := fun q hq =>
    of_decide_eq_true (List.mem_filter.1 hq).2
  unfold spliceMem
  rcases h with hy | hy
  · rw [SMap.get_append_left _ _ _ _ fun q hq => by have := hhigh q hq; omega, SMap.get_append_left _ _ _ _ hrun]
    exact SMap.get_filter 0 (fun k => decide (k < a)) m y (decide_eq_true hy)
  · rw [List.append_assoc, SMap.get_append_right _ _ _ _ fun q hq => by have := hlow q hq; omega,
      SMap.get_append_right _ _ _ _ hrun]
    exact SMap.get_filter 0 (fun k => decide (a + bs.length ≤ k)) m y (decide_eq_true hy)

/-- An area of working storage is all that its use changes. -/
theorem State.scramble_clean (h : s.chk = []) (a n : Nat) :
    s.onlyWork (s.scramble a n) ∧ ∀ y, ¬(a ≤ y ∧ y < a + n) → (s.scramble a n).byte y = s.byte y := by
  refine ⟨?_, fun y hy => get_spliceMem_out _ _ _ _ (by rw [List.length_map, List.length_range]; omega)⟩
  unfold State.onlyWork State.scramble
  simp only [h, List.filter_nil]

/-! ### An operation whose pieces have run -/

/-- From s to u one operation has got as far as to run its pieces: memory is as it was. -/
structure State.readied (s : State) (id : Nat) (u : State) : Prop where
  rest : u = { s with obj := u.obj, freeCtr := u.freeCtr, alm := u.alm, ports := u.ports, ops := u.ops, readyQ := u.readyQ,
                      fences := u.fences }
  others : ∀ k, k ≠ id → u.op? k = s.op? k

theorem State.readied.chk {id : Nat} (h : s.readied id u) : u.chk = s.chk := by rw [h.rest]

theorem State.readied.onlyHold {id : Nat} (h : s.readied id u) (h' : u.onlyHold t) : s.readied id t where
  rest := by rw [h', h.rest]
  others k hk := by
    rw [← h.others k hk, h']
    rfl

/-- From s to t operation id has done its step 4: it is now o, the writes have been made, and contexts, semaphores, registers
and rings are kept. -/
def State.ran (s : State) (id : Nat) (o : Op) (ws : List (Nat × List Byte)) (other : Nat → Prop) (t : State) : Prop :=
  t.op? id = some { o with phase := .executed } ∧ (∀ k, k ≠ id → t.op? k = s.op? k) ∧ s.wrote ws other t ∧
    t.ctxs = s.ctxs ∧ t.sems = s.sems ∧ t.vreg = s.vreg ∧ t.rings = s.rings

theorem State.ran.of_iff {id : Nat} {o : Op} {ws : List (Nat × List Byte)} {other other' : Nat → Prop}
    (h : s.ran id o ws other t) (he : ∀ y, other y ↔ other' y) : s.ran id o ws other' t := by
  rwa [funext fun y => propext (he y)] at h

/-- The pieces have been written, and what follows changes of memory only bytes that nothing is said of. -/
theorem State.readied.ran {id : Nat} {ws : List (Nat × List Byte)} {other : Nat → Prop} (hu : s.readied id u)
    (hv : (u.pokes ws).onlyWork v) (hb : ∀ y, ¬other y → v.byte y = (u.pokes ws).byte y) (o : Op) :
    s.ran id o ws other (v.worked id o none) := by
  have huv := (u.onlyWork_pokes ws).trans hv
  have hops : ∀ k, v.op? k = u.op? k := fun k => by
    rw [huv]
    rfl
  have hmem : u.mem = s.mem := by rw [hu.rest]
  have hrest : v = { s with obj := v.obj, freeCtr := v.freeCtr, mem := v.mem, alm := u.alm, ports := u.ports, ops := u.ops,
                            readyQ := u.readyQ, fences := u.fences } := by
    rw [huv, hu.rest]
  show s.ran id o ws other (v.setOp id { o with phase := .executed })
  refine ⟨State.op_setOp_same .., fun k hk => ?_, ?_, (congrArg State.ctxs hrest :), (congrArg State.sems hrest :),
    (congrArg State.vreg hrest :), (congrArg State.rings hrest :)⟩
  · exact (State.op_setOp_ne _ _ _ _ hk).trans ((hops k).trans (hu.others k hk))
  · have hwrote : s.wrote ws other v := ((u.wrote_pokes ws other).later hb).of_mem hmem
    exact ⟨hwrote.found, hwrote.kept⟩

/-- Step 4 of an operation of clean memory begins with its scales as they are (R77). -/
theorem State.atStep4_eq (h : s.chk = []) (id : Nat) (o : Op) :
    s.atStep4 id o =
      { s.setOp id (s.begun o) with readyQ := s.readyQ.filter fun (x : Nat) => decide (x ≠ id) } := by
  unfold State.atStep4
  rw [State.renewAll_clean (State.allClean_of_chk h)]

theorem State.readied_atStep4 (h : s.chk = []) (id : Nat) (o : Op) : s.readied id (s.atStep4 id o) := by
  rw [State.atStep4_eq h]
  exact ⟨rfl, fun k hk => State.op_setOp_ne _ _ _ _ hk⟩

end

end Sys2Proof.Machine

namespace Sys2Proof.Machine

/-! ### Attention operations of clean memory (R167 to R183, R189) -/

section
variable {s u : State} {id : Nat} {o : Op}

theorem State.onlyObj_countWork (s : State) (p : ObjDef) (total : Nat) : s.onlyObj (s.countWork p total none) := by
  unfold State.countWork
  exact .ite (.refl s) (s.onlyObj_incO ..)

/-- Besides its accounts an attention operation counts rescales and empty rows. -/
theorem State.attnAccount_clean (h : s.chk = []) (core : Nat) (w : Work) (tid : Nat) :
    s.onlyWork (s.attnAccount core w tid) ∧
      ∀ y, ¬s.inScaleTable tid y → (s.attnAccount core w tid).byte y = s.byte y := by
  obtain ⟨hrest, hbytes⟩ := State.account_clean h core w tid
  have hcounts : (s.account core w tid).onlyObj (s.attnAccount core w tid) := by
    unfold State.attnAccount
    have hres : (s.account core w tid).onlyObj (if w.rescales = 0 then s.account core w tid
        else (s.account core w tid).incO Obj.ATTN_RESCALES w.rescales) := .ite (.refl _) (State.onlyObj_incO ..)
    exact .ite hres (hres.trans ((State.onlyObj_incO ..).trans (State.onlyObj_setO ..)))
  exact ⟨hrest.trans hcounts.work, fun y hy => (hcounts.byte y).trans (hbytes y hy)⟩

/-- What ATTN and ATTN_PARTIAL do once it is known where keys and values come from. -/
def State.attnRan (s : State) (c id : Nat) (o : Op) (pages : List (List Nat)) : State :=
  let x := s.attnSrc o.attn o.attnTensors o.desc pages
  let r := s.runPieces (x.pieces o c)
  let u := (r.1.scramble (loftBase o.unit + o.attn.score) (o.attn.kib * 1024)).attnAccount o.unit r.2.1
    (if c = 1 then o.attnTensors.o.tid else 0)
  (u.countWork Obj.ATTN_STRIPS_DONE x.stripsDone r.2.2).worked id o r.2.2

theorem attnRun_tensors (c : Nat) (h : o.attn.crib = false) : attnRun c s id o = s.attnRan c id o [] := by
  unfold attnRun
  rw [if_neg (by rw [h]; decide)]
  rfl

/-- A crib read takes the next fence and then its snapshot of the page table (R189, R190). -/
theorem attnRun_crib {o' : Op} {v : State} {pages : List (List Nat)} (c : Nat) (h : o.attn.crib = true)
    (hfence : s.takeFence id o = some (u, o'))
    (hpages : u.snapshots o.attnTensors.k o.attn.entries (List.range (o.attnTensors.q.e 3)) = (v, .ok pages))
    (hsame : o'.attn = o.attn ∧ o'.attnTensors = o.attnTensors ∧ o'.desc = o.desc) :
    attnRun c s id o = (v.judge o'.table).attnRan c id o' pages := by
  obtain ⟨hattn, htensors, hdesc⟩ := hsame
  unfold attnRun
  rw [if_pos h, hfence]
  dsimp only
  rw [hpages]
  unfold State.attnRan
  rw [hattn, htensors, hdesc]

/-- The rows are written; of other memory at most the score area and the scale table change. -/
theorem State.readied.attnRan (hu : s.readied id u) (hchk : s.chk = []) (c : Nat) (o : Op) (pages : List (List Nat)) :
    s.ran id o (writesOf u ((u.attnSrc o.attn o.attnTensors o.desc pages).pieces o c))
      (fun y => u.inScaleTable (if c = 1 then o.attnTensors.o.tid else 0) y ∨
        (loftBase o.unit + o.attn.score ≤ y ∧ y < loftBase o.unit + o.attn.score + o.attn.kib * 1024))
      (u.attnRan c id o pages) := by
  unfold State.attnRan
  dsimp only
  rw [State.runPieces_clean u (State.allClean_of_chk (hu.chk.trans hchk))]
  dsimp only
  generalize writesOf u _ = ws
  generalize List.foldl _ _ _ = w
  have hpchk : (u.pokes ws).chk = [] := (u.onlyWork_pokes ws).chk.trans (hu.chk.trans hchk)
  obtain ⟨hscr, hscrBytes⟩ := State.scramble_clean hpchk (loftBase o.unit + o.attn.score) (o.attn.kib * 1024)
  have hscrVal : ∀ p : ObjDef, ((u.pokes ws).scramble (loftBase o.unit + o.attn.score) (o.attn.kib * 1024)).getO p =
      u.getO p := fun p => u.getO_pokes ws p 0 0
  generalize (u.pokes ws).scramble _ _ = v at hscr hscrBytes hscrVal ⊢
  obtain ⟨hacc, haccBytes⟩ := State.attnAccount_clean (hscr.chk.trans hpchk) o.unit w
    (if c = 1 then o.attnTensors.o.tid else 0)
  have hcount := State.onlyObj_countWork (v.attnAccount o.unit w (if c = 1 then o.attnTensors.o.tid else 0))
    Obj.ATTN_STRIPS_DONE (u.attnSrc o.attn o.attnTensors o.desc pages).stripsDone
  refine hu.ran ((hscr.trans hacc).trans hcount.work) (fun y hy => ?_) o
  obtain ⟨htable, hscore⟩ := not_or.1 hy
  rw [hcount.byte, haccBytes y fun e => htable ((State.inScaleTable_congr (hscrVal _) (hscrVal _) _ y).1 e),
    hscrBytes y hscore]

/-- The merged rows are written; of other memory at most the scale table changes (R183). -/
theorem State.readied.mergeRun (hu : s.readied id u) (hchk : s.chk = []) (o : Op) :
    s.ran id o (writesOf u (mergePieces o o.got.list)) (u.inScaleTable (tensor o.got.list 1).tid) (mergeRun u id o) := by
  unfold Machine.mergeRun
  dsimp only
  rw [State.runPieces_clean u (State.allClean_of_chk (hu.chk.trans hchk))]
  dsimp only
  generalize writesOf u _ = ws
  generalize List.foldl _ _ _ = w
  have hpchk : (u.pokes ws).chk = [] := (u.onlyWork_pokes ws).chk.trans (hu.chk.trans hchk)
  obtain ⟨hacc, hbytes⟩ := State.attnAccount_clean hpchk o.unit w (tensor o.got.list 1).tid
  exact hu.ran hacc (fun y hy => hbytes y fun e =>
    hy ((State.inScaleTable_congr (u.getO_pokes ws _ _ _) (u.getO_pokes ws _ _ _) _ y).1 e)) o

/-! ### Fences and snapshots (R189, R190) -/

/-- An operation that has taken the next fence. -/
def Op.fenced (o : Op) (s : State) : Op := { o with fence := some (s.getO Obj.CRIB_NEXT_FENCE) }

/-- The state in which operation id has taken the next fence. -/
def State.fenced (s : State) (id : Nat) (o : Op) : State :=
  { (s.incO Obj.CRIB_NEXT_FENCE).setOp id (o.fenced s) with fences := s.fences ++ [s.getO Obj.CRIB_NEXT_FENCE] }

theorem State.takeFence_open (h : s.fences.length < 4096) (o : Op) :
    s.takeFence id o = some (s.fenced id o, o.fenced s) := if_neg (by omega)

theorem State.takeFence_full (h : 4096 ≤ s.fences.length) (o : Op) : s.takeFence id o = none := if_pos h

/-- The fence that step 4 takes is the next one of the state before it. -/
theorem State.fenced_atStep4 (h : s.chk = []) (id : Nat) (o : Op) :
    let o' := { s.begun o with fence := some (s.getO Obj.CRIB_NEXT_FENCE) }
    (s.begun o).fenced (s.atStep4 id o) = o' ∧
      (s.atStep4 id o).fenced id (s.begun o) = { ((s.atStep4 id o).incO Obj.CRIB_NEXT_FENCE).setOp id o' with
        fences := s.fences ++ [s.getO Obj.CRIB_NEXT_FENCE] } := by
  have hnext : (s.atStep4 id o).getO Obj.CRIB_NEXT_FENCE = s.getO Obj.CRIB_NEXT_FENCE := by
    rw [State.atStep4_eq h]
    rfl
  have hfences : (s.atStep4 id o).fences = s.fences := by rw [State.atStep4_eq h]; rfl
  unfold State.fenced Op.fenced
  rw [hnext, hfences]
  exact ⟨rfl, rfl⟩

theorem State.readied.fenced (h : s.readied id u) (o : Op) : s.readied id (u.fenced id o) := by
  have hinc := u.onlyObj_incO Obj.CRIB_NEXT_FENCE 1 0 0
  refine ⟨?_, fun k hk => ?_⟩
  · unfold State.fenced State.setOp
    rw [hinc, h.rest]
  · refine (State.op_setOp_ne (u.incO Obj.CRIB_NEXT_FENCE) _ _ _ hk).trans ?_
    rw [hinc]
    exact h.others k hk

/-- The table of scale slots is no part of what fences and holds change. -/
theorem State.inScaleTable_judge_fenced (s : State) (id : Nat) (o : Op) (n tid y : Nat) :
    ((s.fenced id o).judge n).inScaleTable tid y ↔ s.inScaleTable tid y := by
  have hkeep : ∀ p : ObjDef, p.key ≠ Obj.CRIB_NEXT_FENCE.key → p.key ∉ holdKeys →
      ((s.fenced id o).judge n).getO p = s.getO p := fun p hne hhold =>
    (State.sameKey_judge _ n hhold).getO.trans (State.sameKey_incO s Obj.CRIB_NEXT_FENCE 1 0 0 hne).getO
  exact State.inScaleTable_congr (hkeep _ (by decide) (by decide)) (hkeep _ (by decide) (by decide)) tid y

theorem State.pageOk_clean (h : s.allClean) (p : Nat) : (s.pageOk p).1 = s := by
  unfold State.pageOk
  split_ifs
  · rfl
  · rw [State.readMem_clean _ _ _ (h.clean _ _)]

theorem State.snapshot_clean (h : s.allClean) (t : TD) (b : Nat) (ns : List Nat) : (s.snapshot t b ns).1 = s := by
  induction ns with
  | nil => rfl
  | cons n ns ih =>
    unfold State.snapshot
    rw [State.readMem_clean _ _ _ (h.clean _ _)]
    dsimp only
    have hok := State.pageOk_clean h (ofBytes (s.peek (t.addr [n, b]) 4))
    generalize s.pageOk (ofBytes (s.peek (t.addr [n, b]) 4)) = r at hok ⊢
    obtain ⟨v, a | ⟨_ | _⟩⟩ := r
    · exact hok
    · exact hok
    · obtain rfl : v = s := hok
      dsimp only
      generalize v.snapshot t b ns = r at ih ⊢
      obtain ⟨w, _ | _⟩ := r
      · exact ih
      · exact ih

/-- Reading the page table changes nothing. -/
theorem State.snapshots_clean (h : s.allClean) (t : TD) (ns bs : List Nat) : (s.snapshots t ns bs).1 = s := by
  induction bs with
  | nil => rfl
  | cons b bs ih =>
    unfold State.snapshots
    have hone := State.snapshot_clean h t b ns
    generalize s.snapshot t b ns = r at hone ⊢
    obtain ⟨v, e | ps⟩ := r
    · exact hone
    · obtain rfl : v = s := hone
      dsimp only
      generalize v.snapshots t ns bs = r at ih ⊢
      obtain ⟨w, _ | _⟩ := r
      · exact ih
      · exact ih

end

/-- Settles O20: the pieces of each operation are its rows, and what follows them touches only the scale table and the score
area. -/
theorem attentionResults : Obligations.AttentionResults := by
  intro s id o hchk d o1 s1 a score runs merge o2 s2 s3
  have hs1 : s.readied id s1 := State.readied_atStep4 hchk id o
  obtain ⟨ho2, hs2⟩ := State.fenced_atStep4 hchk id o
  refine ⟨?_, ?_⟩
  · intro x c hx hrun t tid
    have hnext : exec x s = .next (attnRun c s1 id o1) := by
      simp only [List.mem_cons, Prod.mk.injEq, List.not_mem_nil, or_false] at hx
      rcases hx with ⟨rfl, rfl⟩ | ⟨rfl, rfl⟩
      · exact congrArg _ (State.runOp_begins s id o 4 1 _ _ hrun)
      · exact congrArg _ (State.runOp_begins s id o 4 2 _ _ hrun)
    refine ⟨fun hcrib => ?_, fun hcrib hopen pages hpages => ?_⟩
    · exact ⟨_, hnext.trans (congrArg _ (attnRun_tensors c hcrib)), hs1.attnRan hchk c o1 []⟩
    · have hfence : s1.takeFence id o1 = some (s2, o2) := by
        rw [State.takeFence_open (by rw [show s1 = _ from State.atStep4_eq hchk id o]; exact hopen) o1, hs2, ho2]
      have hread : s.readied id s2 := by
        rw [show s2 = _ from hs2.symm]
        exact hs1.fenced o1
      have hclean := State.snapshots_clean (State.allClean_of_chk (hread.chk.trans hchk)) t.k a.entries (List.range (t.q.e 3))
      have hscores : ∀ y, s3.inScaleTable tid y ↔ s1.inScaleTable tid y := fun y => by
        rw [show s3 = _ from congrArg (State.judge · _) hs2.symm]
        exact State.inScaleTable_judge_fenced s1 id o1 _ tid y
      have hran := (hread.onlyHold (State.onlyHold_judge s2 o2.table)).attnRan hchk c o2 pages
      refine ⟨_, hnext.trans (congrArg _ (attnRun_crib c hcrib hfence (Prod.ext hclean hpages) ⟨rfl, rfl, rfl⟩)), ?_⟩
      exact hran.of_iff fun y => or_congr_left (hscores y)
  · intro hrun
    have hnext : exec (.attnMerge id) s = .next (mergeRun s1 id o1) :=
      congrArg _ (State.runOp_begins s id o 4 3 _ _ hrun)
    exact ⟨_, hnext, hs1.mergeRun hchk o1⟩

end Sys2Proof.Machine

namespace Sys2Proof.Machine

/-! ### Writes that follow one another -/

section
variable {s t u : State} {ws ws' : List (Nat × List Byte)} {other : Nat → Prop}

/-- Two writes do not overlap. -/
def lieApart (p q : Nat × List Byte) : Prop := p.1 + p.2.length ≤ q.1 ∨ q.1 + q.2.length ≤ p.1

/-- Only bytes that nothing is said of have changed. -/
theorem State.wrote_nil (h : ∀ y, ¬other y → t.byte y = s.byte y) : s.wrote [] other t where
  found pre a bs rest hw := by simp at hw
  kept y hy _ := h y hy

theorem State.wrote.append (h : s.wrote ws other t) (h' : t.wrote ws' other u) : s.wrote (ws ++ ws') other u where
  found pre a bs rest hw hr hy := by
    rcases List.append_eq_append_iff.1 hw with ⟨mid, -, hlate⟩ | ⟨mid, hearly, hmid⟩
    · exact h'.found mid a bs rest hlate hr hy
    · cases mid with
      | nil => exact h'.found [] a bs rest hmid.symm hr hy
      | cons w mid =>
        rw [List.cons_append, List.cons.injEq] at hmid
        obtain ⟨rfl, rfl⟩ := hmid
        have hfound := h.found pre a bs mid hearly (fun q hq => hr q (List.mem_append_left _ hq)) hy
        refine (State.peek_congr fun y hlo hhi => h'.kept y (hy y hlo hhi) fun q hq => ?_).trans hfound
        have hapart := hr q (List.mem_append_right _ hq)
        omega
  kept y hy hw :=
    (h'.kept y hy fun q hq => hw q (List.mem_append_right _ hq)).trans
      (h.kept y hy fun q hq => hw q (List.mem_append_left _ hq))

/-- Of writes that all lie apart each is found. -/
theorem State.wrote.peek_of_mem {w : Nat × List Byte} (h : s.wrote ws other t) (hp : ws.Pairwise lieApart) (hw : w ∈ ws)
    (hy : ∀ y, w.1 ≤ y → y < w.1 + w.2.length → ¬other y) : t.peek w.1 w.2.length = w.2 := by
  obtain ⟨pre, rest, rfl⟩ := List.append_of_mem hw
  obtain ⟨-, hrest, -⟩ := List.pairwise_append.1 hp
  exact h.found pre w.1 w.2 rest rfl (fun q hq => ((List.pairwise_cons.1 hrest).1 q hq).symm) hy

/-! ### Words of four bytes -/

/-- The word of four bytes at an address. -/
def State.word (s : State) (a : Nat) : Nat := ofBytes (s.peek a 4)

theorem State.word_lt (s : State) (a : Nat) : s.word a < 2 ^ 32 := by
  have h := ofBytes_lt (s.peek a 4)
  rwa [State.peek_length] at h

theorem State.word_poke_same (s : State) (a : Nat) {v : Nat} (h : v < 2 ^ 32) : (s.poke a (leBytes 4 v)).word a = v := by
  have hpeek := s.peek_poke_same a (leBytes 4 v)
  rw [leBytes_length] at hpeek
  unfold State.word
  rw [hpeek, ofBytes_leBytes 4 v h]

theorem State.word_poke_out (s : State) (a : Nat) (bs : List Byte) {x : Nat} (h : x + 4 ≤ a ∨ a + bs.length ≤ x) :
    (s.poke a bs).word x = s.word x := by
  unfold State.word
  rw [State.peek_poke_out _ _ _ _ _ h]

theorem State.word_congr {a : Nat} (h : ∀ y, a ≤ y → y < a + 4 → t.byte y = s.byte y) : t.word a = s.word a := by
  unfold State.word
  rw [State.peek_congr h]

theorem State.wrote.word_of_mem {a v : Nat} (h : s.wrote ws other t) (hp : ws.Pairwise lieApart) (hw : (a, leBytes 4 v) ∈ ws)
    (hv : v < 2 ^ 32) (hy : ∀ y, a ≤ y → y < a + 4 → ¬other y) : t.word a = v := by
  have hpeek := h.peek_of_mem hp hw (by rw [leBytes_length]; exact hy)
  rw [leBytes_length] at hpeek
  unfold State.word
  rw [hpeek, ofBytes_leBytes 4 v hv]

end

/-! ### Metadata in clean memory (R188) -/

section
variable {s : State} (h : s.allClean)
include h

theorem State.getNum_clean (a n : Nat) : s.getNum a n = (s, .ok (ofBytes (s.peek a n))) := by
  unfold State.getNum
  rw [State.readMem_clean _ _ _ (h.clean _ _)]

theorem State.getNum_word (a : Nat) : s.getNum a 4 = (s, .ok (s.word a)) := State.getNum_clean h a 4

theorem State.putNum_clean (a n v : Nat) : s.putNum a n v = (s.poke a (leBytes n v), none) := State.writeMem_clean s h a _

theorem State.entryCount_unmapped {t : TD} {seq n : Nat} (hp : s.word (t.addr [n, seq]) = unmapped) :
    s.entryCount t seq n = (s, .ok none) := by
  unfold State.entryCount
  rw [State.getNum_word h]
  exact if_pos hp

theorem State.entryCount_mapped {t : TD} {seq n p : Nat} (hp : s.word (t.addr [n, seq]) = p) (hne : p ≠ unmapped)
    (hlt : p < s.getO Obj.CRIB_POOL_PAGES) :
    s.entryCount t seq n = (s, .ok (some (p, s.word (s.countAddr p)))) := by
  subst hp
  unfold State.entryCount
  rw [State.getNum_word h]
  dsimp only
  rw [if_neg hne, if_neg (Nat.not_le.2 hlt), State.getNum_word h]

end

/-! ### Entries of a page table and the counts of their pages (R187, R188) -/

/-- Entries of a page table at addresses e that lie apart from one another and from the pool's metadata, and their pages,
which differ. -/
structure EntriesApart (data pages : Nat) (e page : Nat → Nat) (l : List Nat) : Prop where
  entries : ∀ n ∈ l, ∀ m ∈ l, n ≠ m → e n + 4 ≤ e m ∨ e m + 4 ≤ e n
  out : ∀ n ∈ l, e n + 4 ≤ data ∨ data + 24 * pages ≤ e n
  lt : ∀ n ∈ l, page n ≠ unmapped → page n < pages
  differ : ∀ n ∈ l, ∀ m ∈ l, n ≠ m → page n = page m → page n = unmapped

theorem EntriesApart.tail {data pages n : Nat} {e page : Nat → Nat} {l : List Nat}
    (h : EntriesApart data pages e page (n :: l)) : EntriesApart data pages e page l where
  entries i hi j hj := h.entries i (List.mem_cons_of_mem _ hi) j (List.mem_cons_of_mem _ hj)
  out i hi := h.out i (List.mem_cons_of_mem _ hi)
  lt i hi := h.lt i (List.mem_cons_of_mem _ hi)
  differ i hi j hj := h.differ i (List.mem_cons_of_mem _ hi) j (List.mem_cons_of_mem _ hj)

/-- What the entries of a sequence hold, and the counts of the pages they map. -/
structure State.maps (s : State) (data pages : Nat) (t : TD) (seq : Nat) (page cnt : Nat → Nat) (l : List Nat) : Prop where
  base : s.getO Obj.CRIB_META_BASE = data
  size : s.getO Obj.CRIB_POOL_PAGES = pages
  entry : ∀ n ∈ l, s.word (t.addr [n, seq]) = page n
  count : ∀ n ∈ l, page n ≠ unmapped → s.word (data + 4 * page n) = cnt n

/-- The two writes of a command for each mapped entry. -/
def entryWrites (page : Nat → Nat) (first second : Nat → Nat × List Byte) (n : Nat) : List (Nat × List Byte) :=
  if page n = unmapped then [] else [first n, second n]

section
variable {data pages : Nat} {e page cnt : Nat → Nat} {l : List Nat} {first second : Nat → Nat × List Byte}

theorem mem_entryWrites {n : Nat} {w : Nat × List Byte} :
    w ∈ entryWrites page first second n ↔ page n ≠ unmapped ∧ (w = first n ∨ w = second n) := by
  unfold entryWrites
  split_ifs with h <;> simp [h]

/-- The writes of an entry and of its page's count, in either order. -/
def EntryPair (data : Nat) (e page : Nat → Nat) (n : Nat) (v w : Nat × List Byte) : Prop :=
  v.2.length = 4 ∧ w.2.length = 4 ∧
    ((v.1 = e n ∧ w.1 = data + 4 * page n) ∨ (v.1 = data + 4 * page n ∧ w.1 = e n))

/-- All writes of a command lie apart. -/
theorem EntriesApart.pairwise (h : EntriesApart data pages e page l) (hnd : l.Nodup)
    (hpair : ∀ n ∈ l, EntryPair data e page n (first n) (second n)) :
    (l.flatMap (entryWrites page first second)).Pairwise lieApart := by
  refine List.pairwise_flatMap.2 ⟨fun n hn => ?_, hnd.imp_of_mem fun {n m} hn hm hne v hv w hw => ?_⟩
  · obtain ⟨hv, hw, hat⟩ := hpair n hn
    have hout := h.out n hn
    have hlt := h.lt n hn
    unfold entryWrites lieApart
    split_ifs with hun
    · exact .nil
    · refine List.pairwise_pair.2 ?_
      have := hlt hun
      omega
  · obtain ⟨hun, hv⟩ := mem_entryWrites.1 hv
    obtain ⟨hum, hw⟩ := mem_entryWrites.1 hw
    obtain ⟨hvn, hwn, hatn⟩ := hpair n hn
    obtain ⟨hvm, hwm, hatm⟩ := hpair m hm
    have houtn := h.out n hn
    have houtm := h.out m hm
    have hltn := h.lt n hn hun
    have hltm := h.lt m hm hum
    have hentries := h.entries n hn m hm hne
    have hdiffer : page n ≠ page m := fun hp => hun (h.differ n hn m hm hne hp)
    unfold lieApart
    rcases hv with rfl | rfl <;> rcases hw with rfl | rfl <;> omega

end

/-! ### CRIB_SHARE (R193) -/

section
variable {data pages : Nat} {page cnt : Nat → Nat} {l : List Nat} {t u : TD} {x : Crib}

/-- The writes of a share: a count and an entry for each mapped entry of the source. -/
def shareWrites (data : Nat) (u : TD) (x : Crib) (page cnt : Nat → Nat) (n : Nat) : List (Nat × List Byte) :=
  entryWrites page (fun n => (data + 4 * page n, leBytes 4 (cnt n + 1))) (fun n => (u.addr [n, x.dst], leBytes 4 (page n))) n

/-- Source entries that lie apart from the metadata and from the entries of the destination. -/
structure SharesApart (data pages : Nat) (t u : TD) (x : Crib) (page : Nat → Nat) (l : List Nat) : Prop
    extends EntriesApart data pages (fun n => u.addr [n, x.dst]) page l where
  source : ∀ n ∈ l, ∀ m ∈ l, t.addr [n, x.seq] + 4 ≤ u.addr [m, x.dst] ∨ u.addr [m, x.dst] + 4 ≤ t.addr [n, x.seq]
  sourceOut : ∀ n ∈ l, t.addr [n, x.seq] + 4 ≤ data ∨ data + 24 * pages ≤ t.addr [n, x.seq]

theorem State.shareAll_wrote {s : State} (h : s.allClean) (hg : SharesApart data pages t u x page l) (hnd : l.Nodup)
    (hm : s.maps data pages t x.seq page cnt l)
    (hfree : ∀ n ∈ l, page n ≠ unmapped → cnt n < 65535 ∧ s.word (u.addr [n, x.dst]) = unmapped) :
    let r := s.shareAll t u x l
    r.2 = none ∧ r.1 = { s with mem := r.1.mem } ∧ s.wrote (l.flatMap (shareWrites data u x page cnt)) (fun _ => False) r.1 := by
  induction l generalizing s with
  | nil => exact ⟨rfl, rfl, State.wrote_nil fun _ _ => rfl⟩
  | cons n l ih =>
    have hhere : n ∈ n :: l := List.mem_cons_self
    have hlater : ∀ m ∈ l, m ∈ n :: l := fun m hm => List.mem_cons_of_mem _ hm
    have htail : SharesApart data pages t u x page l :=
      ⟨hg.toEntriesApart.tail, fun i hi j hj => hg.source i (hlater i hi) j (hlater j hj), fun i hi => hg.sourceOut i (hlater i hi)⟩
    obtain ⟨hnot, hndl⟩ := List.nodup_cons.1 hnd
    rw [List.flatMap_cons]
    unfold State.shareAll
    by_cases hun : page n = unmapped
    · rw [State.entryCount_unmapped h ((hm.entry n hhere).trans hun), shareWrites, entryWrites, if_pos hun]
      exact ih h htail hndl ⟨hm.base, hm.size, fun m hml => hm.entry m (hlater m hml), fun m hml => hm.count m (hlater m hml)⟩
        fun m hml => hfree m (hlater m hml)
    · obtain ⟨hcnt, hdst⟩ := hfree n hhere hun
      have hlt := hg.lt n hhere hun
      have hout := hg.out n hhere
      have hcount : s.word (s.countAddr (page n)) = cnt n := by
        unfold State.countAddr
        rw [hm.base]
        exact hm.count n hhere hun
      rw [State.entryCount_mapped h (hm.entry n hhere) hun (by rw [hm.size]; exact hlt), hcount]
      dsimp only
      rw [State.getNum_word h]
      dsimp only
      rw [if_neg (by rw [not_or, not_not]; exact ⟨hdst, by omega⟩), State.putNum_clean h]
      dsimp only
      rw [State.putNum_clean (h.poke _ _)]
      dsimp only
      unfold State.countAddr
      rw [hm.base]
      generalize hs' : (s.poke (data + 4 * page n) (leBytes 4 (cnt n + 1))).poke (u.addr [n, x.dst]) (leBytes 4 (page n)) = s'
      have hword : ∀ a, (a + 4 ≤ data + 4 * page n ∨ data + 4 * page n + 4 ≤ a) →
          (a + 4 ≤ u.addr [n, x.dst] ∨ u.addr [n, x.dst] + 4 ≤ a) → s'.word a = s.word a := fun a h1 h2 => by
        rw [← hs', State.word_poke_out _ _ _ (by rwa [leBytes_length]), State.word_poke_out _ _ _ (by rwa [leBytes_length])]
      have hword_count : ∀ m ∈ l, page m ≠ unmapped → s'.word (data + 4 * page m) = s.word (data + 4 * page m) :=
        fun m hml hum => by
          have hne : page n ≠ page m := fun e => hun (hg.differ n hhere m (hlater m hml) (fun e => hnot (e ▸ hml)) e)
          have hltm := hg.lt m (hlater m hml) hum
          exact hword _ (by omega) (by omega)
      have hmaps : s'.maps data pages t x.seq page cnt l := by
        refine ⟨by rw [← hs']; exact hm.base, by rw [← hs']; exact hm.size, fun m hml => ?_, fun m hml hum => ?_⟩
        · have hsrc := hg.sourceOut m (hlater m hml)
          exact (hword _ (by omega) (hg.source m (hlater m hml) n hhere)).trans (hm.entry m (hlater m hml))
        · exact (hword_count m hml hum).trans (hm.count m (hlater m hml) hum)
      obtain ⟨hnone, hrest, hwrote⟩ := ih (s := s') (by rw [← hs']; exact h) htail hndl hmaps fun m hml hum => by
        have houtm := hg.out m (hlater m hml)
        have hdiff := hg.entries m (hlater m hml) n hhere fun e => hnot (e ▸ hml)
        rw [hword _ (by omega) hdiff]
        exact hfree m (hlater m hml) hum
      refine ⟨hnone, by rw [hrest, ← hs']; rfl, State.wrote.append ?_ hwrote⟩
      rw [shareWrites, entryWrites, if_neg hun, ← hs']
      exact s.wrote_pokes [_, _] _

end

/-! ### CRIB_FREE (R194) -/

section
variable {data pages : Nat} {page cnt : Nat → Nat} {l : List Nat} {t : TD} {x : Crib} {s : State}

/-- The bytes of the reclaim ring (R188). -/
def inReclaimRing (data pages y : Nat) : Prop := data + 8 * pages ≤ y ∧ y < data + 24 * pages

/-- The writes of a free: an entry and a count for each mapped entry. -/
def freeWrites (data : Nat) (t : TD) (x : Crib) (page cnt : Nat → Nat) (n : Nat) : List (Nat × List Byte) :=
  entryWrites page (fun n => (t.addr [n, x.seq], leBytes 4 unmapped)) (fun n => (data + 4 * page n, leBytes 4 (cnt n - 1))) n

theorem State.pushReclaim_clean (h : s.allClean) (p : Nat) :
    s.pushReclaim p = ((s.poke (s.reclaimAddr (s.ringHead + s.getO Obj.CRIB_PAGES_PENDING))
      (leBytes 16 (p + s.getO Obj.CRIB_NEXT_FENCE * 2 ^ 64))).setO Obj.CRIB_PAGES_PENDING (s.getO Obj.CRIB_PAGES_PENDING + 1),
        none) := by
  unfold State.pushReclaim
  dsimp only
  rw [State.putNum_clean h]

theorem State.reclaimAddr_within (hbase : s.getO Obj.CRIB_META_BASE = data) (hsize : s.getO Obj.CRIB_POOL_PAGES = pages)
    (hpos : 0 < pages) (k : Nat) : data + 8 * pages ≤ s.reclaimAddr k ∧ s.reclaimAddr k + 16 ≤ data + 24 * pages := by
  have hmod := Nat.mod_lt k (Nat.lt_of_lt_of_le Nat.one_pos (Nat.le_max_left 1 pages))
  rw [Nat.max_eq_right hpos] at hmod
  unfold State.reclaimAddr
  rw [hbase, hsize, Nat.max_eq_right hpos]
  omega

/-- Of the values only the count of pending pages has changed, and of memory only the reclaim ring. -/
structure State.queued (s : State) (data pages n : Nat) (u : State) : Prop where
  rest : s.onlyWork u
  keys : ∀ k, k ≠ Obj.CRIB_PAGES_PENDING.key → State.sameKey k s u
  pending : u.getO Obj.CRIB_PAGES_PENDING = s.getO Obj.CRIB_PAGES_PENDING + n
  bytes : ∀ y, ¬inReclaimRing data pages y → u.byte y = s.byte y

theorem State.queued_poke {a : Nat} {bs : List Byte} (hlo : data + 8 * pages ≤ a) (hhi : a + bs.length ≤ data + 24 * pages) :
    s.queued data pages 1
      ((s.poke a bs).setO Obj.CRIB_PAGES_PENDING (s.getO Obj.CRIB_PAGES_PENDING + 1)) where
  rest := rfl
  keys k hk := State.sameKey_setO (s.poke a bs) _ _ _ _ hk
  pending := State.getO_setO_same ..
  bytes y hy := by
    unfold inReclaimRing at hy
    exact State.byte_poke_out s _ _ _ (by omega)

/-- A page whose last count goes joins the reclaim ring. -/
theorem State.queued_lastCount (h : s.allClean) (hbase : s.getO Obj.CRIB_META_BASE = data)
    (hsize : s.getO Obj.CRIB_POOL_PAGES = pages) (hpos : 0 < pages) (c p : Nat) :
    ∃ u, (if c = 1 then s.pushReclaim p else (s, none)) = (u, none) ∧ s.queued data pages (if c = 1 then 1 else 0) u := by
  by_cases hc : c = 1
  · obtain ⟨hlo, hhi⟩ := State.reclaimAddr_within hbase hsize hpos (s.ringHead + s.getO Obj.CRIB_PAGES_PENDING)
    rw [if_pos hc, if_pos hc]
    exact ⟨_, State.pushReclaim_clean h p, State.queued_poke hlo (by rwa [leBytes_length])⟩
  · rw [if_neg hc, if_neg hc]
    exact ⟨s, rfl, .refl s, fun k _ => .refl s, rfl, fun _ _ => rfl⟩

theorem State.freeAll_wrote (h : s.allClean) (hg : EntriesApart data pages (fun n => t.addr [n, x.seq]) page l) (hnd : l.Nodup)
    (hm : s.maps data pages t x.seq page cnt l) (hpos : ∀ n ∈ l, page n ≠ unmapped → cnt n ≠ 0) :
    let r := s.freeAll t x l
    r.2 = none ∧ s.onlyWork r.1 ∧ (∀ k, k ≠ Obj.CRIB_PAGES_PENDING.key → State.sameKey k s r.1) ∧
      r.1.getO Obj.CRIB_PAGES_PENDING =
        s.getO Obj.CRIB_PAGES_PENDING + (l.filter fun n => decide (page n ≠ unmapped ∧ cnt n = 1)).length ∧
      s.wrote (l.flatMap (freeWrites data t x page cnt)) (inReclaimRing data pages) r.1 := by
  induction l generalizing s with
  | nil => exact ⟨rfl, .refl s, fun k _ => .refl s, rfl, State.wrote_nil fun _ _ => rfl⟩
  | cons n l ih =>
    have hhere : n ∈ n :: l := List.mem_cons_self
    have hlater : ∀ m ∈ l, m ∈ n :: l := fun m hm => List.mem_cons_of_mem _ hm
    obtain ⟨hnot, hndl⟩ := List.nodup_cons.1 hnd
    rw [List.flatMap_cons]
    unfold State.freeAll
    by_cases hun : page n = unmapped
    · rw [State.entryCount_unmapped h ((hm.entry n hhere).trans hun), freeWrites, entryWrites, if_pos hun,
        List.filter_cons_of_neg (by simp [hun])]
      exact ih h hg.tail hndl ⟨hm.base, hm.size, fun m hml => hm.entry m (hlater m hml), fun m hml => hm.count m (hlater m hml)⟩
        fun m hml => hpos m (hlater m hml)
    · have hlt := hg.lt n hhere hun
      have hout := hg.out n hhere
      have hcount : s.word (s.countAddr (page n)) = cnt n := by
        unfold State.countAddr
        rw [hm.base]
        exact hm.count n hhere hun
      rw [State.entryCount_mapped h (hm.entry n hhere) hun (by rw [hm.size]; exact hlt), hcount]
      dsimp only
      rw [if_neg (hpos n hhere hun), State.putNum_clean h]
      dsimp only
      rw [State.putNum_clean (h.poke _ _)]
      dsimp only
      have haddr : (s.poke (t.addr [n, x.seq]) (leBytes 4 unmapped)).countAddr (page n) = data + 4 * page n := by
        unfold State.countAddr
        rw [State.getO_poke, hm.base]
      rw [haddr]
      generalize hs' : (s.poke (t.addr [n, x.seq]) (leBytes 4 unmapped)).poke (data + 4 * page n) (leBytes 4 (cnt n - 1)) = s'
      have hclean' : s'.allClean := by
        rw [← hs']
        exact h
      obtain ⟨v, hv, hq⟩ := State.queued_lastCount (s := s') (data := data) (pages := pages) hclean' (by rw [← hs']; exact hm.base)
        (by rw [← hs']; exact hm.size) (by omega) (cnt n) (page n)
      rw [hv]
      dsimp only
      have hstep : s.wrote (freeWrites data t x page cnt n) (inReclaimRing data pages) v := by
        have hwrites : freeWrites data t x page cnt n =
            [(t.addr [n, x.seq], leBytes 4 unmapped), (data + 4 * page n, leBytes 4 (cnt n - 1))] := if_neg hun
        rw [hwrites]
        refine State.wrote.later ?_ hq.bytes
        rw [← hs']
        exact s.wrote_pokes [_, _] _
      have hword : ∀ a, (a + 4 ≤ data + 4 * page n ∨ data + 4 * page n + 4 ≤ a) →
          (a + 4 ≤ t.addr [n, x.seq] ∨ t.addr [n, x.seq] + 4 ≤ a) → (a + 4 ≤ data + 8 * pages ∨ data + 24 * pages ≤ a) →
          v.word a = s.word a := fun a h1 h2 h3 => by
        rw [State.word_congr fun y hlo hhi => hq.bytes y (by unfold inReclaimRing; omega), ← hs',
          State.word_poke_out _ _ _ (by rwa [leBytes_length]), State.word_poke_out _ _ _ (by rwa [leBytes_length])]
      have hmaps : v.maps data pages t x.seq page cnt l := by
        refine ⟨?_, ?_, fun m hml => ?_, fun m hml hum => ?_⟩
        · rw [(hq.keys _ (by decide)).getO, ← hs']
          exact hm.base
        · rw [(hq.keys _ (by decide)).getO, ← hs']
          exact hm.size
        · have houtm := hg.out m (hlater m hml)
          have hdiff := hg.entries m (hlater m hml) n hhere fun e => hnot (e ▸ hml)
          exact (hword _ (by omega) hdiff (by omega)).trans (hm.entry m (hlater m hml))
        · have hne : page n ≠ page m := fun e => hun (hg.differ n hhere m (hlater m hml) (fun e => hnot (e ▸ hml)) e)
          have hltm := hg.lt m (hlater m hml) hum
          exact (hword _ (by omega) (by omega) (by omega)).trans (hm.count m (hlater m hml) hum)
      obtain ⟨hnone, hrest, hkeys, hpending, hwrote⟩ := ih (s := v) (fun c => by rw [hq.rest]; exact hclean' c) hg.tail hndl hmaps
        fun m hml => hpos m (hlater m hml)
      refine ⟨hnone, ?_, fun k hk => ?_, ?_, hstep.append hwrote⟩
      · refine State.onlyWork.trans ?_ (hq.rest.trans hrest)
        rw [← hs']
        rfl
      · refine State.sameKey.trans ?_ ((hq.keys k hk).trans (hkeys k hk))
        rw [← hs']
        exact .refl s
      · have hsame : s'.getO Obj.CRIB_PAGES_PENDING = s.getO Obj.CRIB_PAGES_PENDING := by
          rw [← hs']
          rfl
        rw [hpending, hq.pending, hsame, Nat.add_assoc]
        by_cases hc : cnt n = 1 <;> simp [hun, hc, Nat.add_comm]

end

end Sys2Proof.Machine

namespace Sys2Proof.Machine

/-! ### What shares and frees leave in the tables and the counts (R193, R194) -/

section
variable {data pages : Nat} {page cnt : Nat → Nat} {l : List Nat} {t u : TD} {x : Crib} {s : State}

theorem Crib.mem_span {n : Nat} : n ∈ x.span ↔ x.entry0 ≤ n ∧ n ≤ x.entry0 + x.entries := by
  unfold Crib.span
  simp only [List.mem_map, List.mem_range]
  constructor
  · rintro ⟨k, hk, rfl⟩
    omega
  · rintro ⟨hlo, hhi⟩
    exact ⟨n - x.entry0, by omega, by omega⟩

theorem Crib.span_nodup : x.span.Nodup := List.nodup_range.map fun _ _ e => Nat.add_left_cancel e

theorem State.maps.page_lt {seq n : Nat} (hm : s.maps data pages t seq page cnt l) (hn : n ∈ l) : page n < 2 ^ 32 := by
  rw [← hm.entry n hn]
  exact s.word_lt _

theorem State.shareAll_results (h : s.allClean) (hg : SharesApart data pages t u x page l) (hnd : l.Nodup)
    (hm : s.maps data pages t x.seq page cnt l)
    (hfree : ∀ n ∈ l, page n ≠ unmapped → cnt n < 65535 ∧ s.word (u.addr [n, x.dst]) = unmapped) :
    let w := (s.shareAll t u x l).1
    (∀ n ∈ l, page n ≠ unmapped → w.word (u.addr [n, x.dst]) = page n ∧ w.word (data + 4 * page n) = cnt n + 1) ∧
      (∀ n ∈ l, page n = unmapped → w.word (u.addr [n, x.dst]) = s.word (u.addr [n, x.dst])) ∧
      (∀ y, (y < data ∨ data + 4 * pages ≤ y) → (∀ n ∈ l, y < u.addr [n, x.dst] ∨ u.addr [n, x.dst] + 4 ≤ y) →
        w.byte y = s.byte y) := by
  obtain ⟨-, -, hwrote⟩ := State.shareAll_wrote h hg hnd hm hfree
  have hpair : (l.flatMap (shareWrites data u x page cnt)).Pairwise lieApart :=
    hg.toEntriesApart.pairwise hnd fun n _ => ⟨leBytes_length _ _, leBytes_length _ _, .inr ⟨rfl, rfl⟩⟩
  refine ⟨fun n hn hun => ⟨?_, ?_⟩, fun n hn hun => State.word_congr fun y hlo hhi => hwrote.kept y id fun q hq => ?_,
    fun y hy hdst => hwrote.kept y id fun q hq => ?_⟩
  · exact hwrote.word_of_mem hpair (List.mem_flatMap.2 ⟨n, hn, mem_entryWrites.2 ⟨hun, .inr rfl⟩⟩) (hm.page_lt hn)
      fun _ _ _ => id
  · exact hwrote.word_of_mem hpair (List.mem_flatMap.2 ⟨n, hn, mem_entryWrites.2 ⟨hun, .inl rfl⟩⟩)
      (by have := (hfree n hn hun).1; omega) fun _ _ _ => id
  · obtain ⟨m, hml, hq⟩ := List.mem_flatMap.1 hq
    obtain ⟨hum, rfl | rfl⟩ := mem_entryWrites.1 hq
    · have hout := hg.out n hn
      have hlt := hg.lt m hml hum
      rw [leBytes_length]
      dsimp only at hout ⊢
      omega
    · have hapart := hg.entries n hn m hml fun e => hum (e ▸ hun)
      rw [leBytes_length]
      dsimp only at hapart ⊢
      omega
  · obtain ⟨m, hml, hq⟩ := List.mem_flatMap.1 hq
    obtain ⟨hum, rfl | rfl⟩ := mem_entryWrites.1 hq
    · have hlt := hg.lt m hml hum
      rw [leBytes_length]
      dsimp only
      omega
    · rw [leBytes_length]
      exact hdst m hml

theorem State.freeAll_results (h : s.allClean) (hg : EntriesApart data pages (fun n => t.addr [n, x.seq]) page l) (hnd : l.Nodup)
    (hm : s.maps data pages t x.seq page cnt l) (hpos : ∀ n ∈ l, page n ≠ unmapped → cnt n ≠ 0 ∧ cnt n < 2 ^ 32) :
    let w := (s.freeAll t x l).1
    (∀ n ∈ l, w.word (t.addr [n, x.seq]) = unmapped) ∧
      (∀ n ∈ l, page n ≠ unmapped → w.word (data + 4 * page n) = cnt n - 1) ∧
      (∀ y, (y < data ∨ data + 24 * pages ≤ y) → (∀ n ∈ l, y < t.addr [n, x.seq] ∨ t.addr [n, x.seq] + 4 ≤ y) →
        w.byte y = s.byte y) := by
  obtain ⟨-, -, -, -, hwrote⟩ := State.freeAll_wrote h hg hnd hm fun n hn hun => (hpos n hn hun).1
  have hpair : (l.flatMap (freeWrites data t x page cnt)).Pairwise lieApart :=
    hg.pairwise hnd fun n _ => ⟨leBytes_length _ _, leBytes_length _ _, .inl ⟨rfl, rfl⟩⟩
  refine ⟨fun n hn => ?_, fun n hn hun => ?_, fun y hy hent => hwrote.kept y ?_ fun q hq => ?_⟩
  · have hout := hg.out n hn
    by_cases hun : page n = unmapped
    · refine (State.word_congr fun y hlo hhi => hwrote.kept y ?_ fun q hq => ?_).trans ((hm.entry n hn).trans hun)
      · unfold inReclaimRing
        omega
      · obtain ⟨m, hml, hq⟩ := List.mem_flatMap.1 hq
        obtain ⟨hum, rfl | rfl⟩ := mem_entryWrites.1 hq
        · have hapart := hg.entries n hn m hml fun e => hum (e ▸ hun)
          rw [leBytes_length]
          dsimp only at hapart ⊢
          omega
        · have hlt := hg.lt m hml hum
          rw [leBytes_length]
          dsimp only at hout ⊢
          omega
    · refine hwrote.word_of_mem hpair (List.mem_flatMap.2 ⟨n, hn, mem_entryWrites.2 ⟨hun, .inl rfl⟩⟩) (by decide)
        fun y hlo hhi => ?_
      unfold inReclaimRing
      omega
  · have hlt := hg.lt n hn hun
    refine hwrote.word_of_mem hpair (List.mem_flatMap.2 ⟨n, hn, mem_entryWrites.2 ⟨hun, .inr rfl⟩⟩)
      (Nat.lt_of_le_of_lt (Nat.sub_le _ _) (hpos n hn hun).2) fun y hlo hhi => ?_
    unfold inReclaimRing
    omega
  · unfold inReclaimRing
    omega
  · obtain ⟨m, hml, hq⟩ := List.mem_flatMap.1 hq
    obtain ⟨hum, rfl | rfl⟩ := mem_entryWrites.1 hq
    · rw [leBytes_length]
      exact hent m hml
    · have hlt := hg.lt m hml hum
      rw [leBytes_length]
      dsimp only
      omega

end

/-! ### Pages for appends (R192) -/

section
variable {s : State}

/-- The page on top of the free stack. -/
def State.stackTop (s : State) : Nat := s.word (s.stackAddr (s.getO Obj.CRIB_PAGES_FREE - 1))

/-- The state once the page on top of the free stack has been taken. -/
def State.popped (s : State) : State :=
  let left := s.getO Obj.CRIB_PAGES_FREE - 1
  let u := (s.poke (s.countAddr s.stackTop) (leBytes 4 1)).setO Obj.CRIB_PAGES_FREE left
  if left < u.getO Obj.CRIB_PAGES_FREE_MIN then u.setO Obj.CRIB_PAGES_FREE_MIN left else u

theorem State.onlyWork_popped (s : State) : s.onlyWork s.popped := by
  unfold State.popped State.onlyWork
  dsimp only
  split_ifs <;> rfl

theorem State.popped_mem (s : State) : s.popped.mem = (s.poke (s.countAddr s.stackTop) (leBytes 4 1)).mem := by
  unfold State.popped
  dsimp only
  split_ifs <;> rfl

theorem State.getO_popped (s : State) {p : ObjDef} (hfree : p.key ≠ Obj.CRIB_PAGES_FREE.key)
    (hmin : p.key ≠ Obj.CRIB_PAGES_FREE_MIN.key) : s.popped.getO p = s.getO p := by
  unfold State.popped
  dsimp only
  split_ifs
  · rw [State.getO_setO_ne _ _ _ _ _ _ _ _ hmin, State.getO_setO_ne _ _ _ _ _ _ _ _ hfree, State.getO_poke]
  · rw [State.getO_setO_ne _ _ _ _ _ _ _ _ hfree, State.getO_poke]

theorem State.getO_popped_free (s : State) : s.popped.getO Obj.CRIB_PAGES_FREE = s.getO Obj.CRIB_PAGES_FREE - 1 := by
  unfold State.popped
  dsimp only
  split_ifs
  · rw [State.getO_setO_ne _ _ _ _ _ _ _ _ (by decide), State.getO_setO_same]
  · exact State.getO_setO_same ..

theorem State.allocPage_empty (n : Nat) (h : s.getO Obj.CRIB_PAGES_FREE = 0) : s.allocPage n = (s, .error (.crib n)) := if_pos h

theorem State.allocPage_clean (h : s.allClean) (n : Nat) (hfree : s.getO Obj.CRIB_PAGES_FREE ≠ 0) :
    s.allocPage n = (s.popped, .ok s.stackTop) := by
  unfold State.allocPage
  dsimp only
  rw [if_neg hfree, State.getNum_word h]
  dsimp only
  rw [State.putNum_clean h]
  rfl

/-- The writes of the copy of page p into page q. -/
def State.copyWrites (s : State) (p q : Nat) : List (Nat × List Byte) :=
  writesOf s ((List.range (s.cribPageBytes / 64)).map
    (pageCopy (s.getO Obj.CRIB_POOL_BASE + p * s.cribPageBytes) (s.getO Obj.CRIB_POOL_BASE + q * s.cribPageBytes)))

/-- The state once the shared page p of the entry at ent has been copied into the page on top of the free stack. -/
def State.pageCopied (s : State) (ent p : Nat) : State :=
  let u := s.popped.poke (s.popped.countAddr p) (leBytes 4 (s.word (s.countAddr p) - 1))
  ((u.pokes (u.copyWrites p s.stackTop)).poke ent (leBytes 4 s.stackTop)).incO Obj.CRIB_COPIES

/-- What CRIB_APPEND does with an entry whose page is p with count c. -/
theorem State.appendPage_clean (h : s.allClean) (t : TD) (seq n : Nat) :
    s.appendPage t seq n =
      let ent := t.addr [n, seq]
      let p := s.word ent
      let c := s.word (s.countAddr p)
      if p = unmapped then
        if s.getO Obj.CRIB_PAGES_FREE = 0 then (s, .error (.crib n))
        else (s.popped.poke ent (leBytes 4 s.stackTop), .ok s.stackTop)
      else if p ≥ s.getO Obj.CRIB_POOL_PAGES then (s, .error (.crib n))
      else if c = 0 then (s, .error (.crib n))
      else if c = 1 then (s, .ok p)
      else if s.getO Obj.CRIB_PAGES_FREE = 0 then (s, .error (.crib n))
      else (s.pageCopied ent p, .ok s.stackTop) := by
  have hpop : s.popped.allClean := fun c => by rw [s.onlyWork_popped]; exact h c
  have halloc := State.allocPage_clean h n
  have hempty := State.allocPage_empty (s := s) n
  unfold State.appendPage
  dsimp only
  rw [State.getNum_word h]
  dsimp only
  rw [State.getNum_word h]
  dsimp only
  by_cases hfree : s.getO Obj.CRIB_PAGES_FREE = 0
  · rw [hempty hfree, if_pos hfree, if_pos hfree]
  · rw [halloc hfree, if_neg hfree, if_neg hfree]
    dsimp only
    rw [State.putNum_clean hpop, State.putNum_clean hpop]
    dsimp only
    rw [State.runPieces_clean _ (hpop.poke _ _)]
    dsimp only
    rw [State.putNum_clean ((hpop.poke _ _).pokes _)]
    rfl

end

end Sys2Proof.Machine

namespace Sys2Proof.Machine

/-! ### The copy of a shared page (R192) -/

section
variable {s t : State}

theorem bytesOf_add (m : List Host.Cell) (a n k : Nat) : bytesOf m a (n + k) = bytesOf m a n ++ bytesOf m (a + n) k := by
  induction n generalizing a with
  | zero => rw [Nat.zero_add]; rfl
  | succ n ih =>
    rw [Nat.succ_add, bytesOf, bytesOf, ih, List.cons_append, Nat.add_assoc, Nat.add_comm 1 n]

/-- Pieces of 64 bytes, formed before any is written, copy a run of bytes. -/
theorem State.pokes_copied (s : State) (a b m : Nat) :
    s.pokes (writesOf s ((List.range m).map (pageCopy a b))) = s.poke b (s.peek a (64 * m)) := by
  induction m with
  | zero => rfl
  | succ m ih =>
    have hlast : writesOf s ((List.range (m + 1)).map (pageCopy a b)) =
        writesOf s ((List.range m).map (pageCopy a b)) ++ [(b + 64 * m, s.peek (a + 64 * m) 64)] := by
      unfold writesOf
      rw [List.range_succ, List.map_append, List.flatMap_append]
      rfl
    have hpeek : s.peek a (64 * (m + 1)) = s.peek a (64 * m) ++ s.peek (a + 64 * m) 64 := bytesOf_add _ _ _ _
    have hlen := s.peek_length a (64 * m)
    rw [hlast, State.pokes_append, ih, hpeek, State.poke_append, hlen]
    rfl

theorem State.word_of_mem (h : t.mem = s.mem) (a : Nat) : t.word a = s.word a := by
  unfold State.word State.peek
  rw [h]

theorem State.peek_of_mem (h : t.mem = s.mem) (a n : Nat) : t.peek a n = s.peek a n := by
  unfold State.peek
  rw [h]

theorem State.popped_cribPageBytes (s : State) : s.popped.cribPageBytes = s.cribPageBytes := by
  unfold State.cribPageBytes
  rw [s.getO_popped (by decide) (by decide), s.getO_popped (by decide) (by decide), s.getO_popped (by decide) (by decide)]

theorem State.onlyWork_pageCopied (s : State) (ent p : Nat) : s.onlyWork (s.pageCopied ent p) := by
  unfold State.pageCopied
  exact s.onlyWork_popped.trans (((State.onlyWork_poke ..).trans (State.onlyWork_pokes ..)).trans
    ((State.onlyWork_poke ..).trans (State.onlyObj_incO ..).work))

/-- Memory once page p has been copied: both counts, the page, and the entry. -/
def State.copyStored (s : State) (ent p q : Nat) : State :=
  let bytes := s.cribPageBytes
  let area := s.getO Obj.CRIB_POOL_BASE
  let u := (s.poke (s.countAddr q) (leBytes 4 1)).poke (s.countAddr p) (leBytes 4 (s.word (s.countAddr p) - 1))
  (u.poke (area + q * bytes) (u.peek (area + p * bytes) bytes)).poke ent (leBytes 4 q)

theorem putBytes_of_mem (h : t.mem = s.mem) (a : Nat) (bs : List Byte) : (t.poke a bs).mem = (s.poke a bs).mem := by
  unfold State.poke
  rw [h]

theorem State.pageCopied_mem (s : State) (ent p : Nat) (h : s.cribPageBytes % 64 = 0) :
    (s.pageCopied ent p).mem = (s.copyStored ent p s.stackTop).mem := by
  have hbytes : 64 * (s.cribPageBytes / 64) = s.cribPageBytes := by omega
  have hcount : s.popped.countAddr p = s.countAddr p := by
    unfold State.countAddr
    rw [s.getO_popped (by decide) (by decide)]
  have hu := putBytes_of_mem s.popped_mem (s.countAddr p) (leBytes 4 (s.word (s.countAddr p) - 1))
  unfold State.pageCopied
  dsimp only
  rw [State.mem_incO, hcount]
  generalize hv : s.popped.poke (s.countAddr p) _ = v at hu ⊢
  have hpb : v.cribPageBytes = s.cribPageBytes := by
    rw [← hv]
    exact s.popped_cribPageBytes
  have harea : v.getO Obj.CRIB_POOL_BASE = s.getO Obj.CRIB_POOL_BASE := by
    rw [← hv]
    exact s.getO_popped (by decide) (by decide)
  unfold State.copyWrites
  rw [State.pokes_copied, hpb, harea, hbytes, State.peek_of_mem hu]
  exact putBytes_of_mem (putBytes_of_mem hu _ _) _ _

/-- Where a pool's area and its metadata lie apart, a copy leaves the old page as it was. -/
theorem State.copyStored_results {ent p q pages : Nat} (hp : p < pages) (hq : q < pages) (hne : q ≠ p)
    (hent : ent + 4 ≤ s.getO Obj.CRIB_META_BASE ∨ s.getO Obj.CRIB_META_BASE + 24 * pages ≤ ent)
    (hpool : s.getO Obj.CRIB_POOL_BASE + pages * s.cribPageBytes ≤ s.getO Obj.CRIB_META_BASE ∨
      s.getO Obj.CRIB_META_BASE + 24 * pages ≤ s.getO Obj.CRIB_POOL_BASE)
    (harea : ent + 4 ≤ s.getO Obj.CRIB_POOL_BASE ∨ s.getO Obj.CRIB_POOL_BASE + pages * s.cribPageBytes ≤ ent)
    (hq32 : q < 2 ^ 32) :
    let w := s.copyStored ent p q
    let bytes := s.cribPageBytes
    let area := s.getO Obj.CRIB_POOL_BASE
    w.word ent = q ∧ w.word (s.countAddr q) = 1 ∧ w.word (s.countAddr p) = s.word (s.countAddr p) - 1 ∧
      w.peek (area + q * bytes) bytes = s.peek (area + p * bytes) bytes ∧
      w.peek (area + p * bytes) bytes = s.peek (area + p * bytes) bytes := by
  intro w bytes area
  replace hpool : area + pages * bytes ≤ s.getO Obj.CRIB_META_BASE ∨ s.getO Obj.CRIB_META_BASE + 24 * pages ≤ area := hpool
  replace harea : ent + 4 ≤ area ∨ area + pages * bytes ≤ ent := harea
  have hsub : s.word (s.countAddr p) - 1 < 2 ^ 32 := Nat.lt_of_le_of_lt (Nat.sub_le _ _) (s.word_lt _)
  have hpb : p * bytes + bytes ≤ pages * bytes := by
    rw [← Nat.succ_mul]
    exact Nat.mul_le_mul_right _ hp
  have hqb : q * bytes + bytes ≤ pages * bytes := by
    rw [← Nat.succ_mul]
    exact Nat.mul_le_mul_right _ hq
  have hapart : p * bytes + bytes ≤ q * bytes ∨ q * bytes + bytes ≤ p * bytes := by
    rw [← Nat.succ_mul, ← Nat.succ_mul]
    rcases Nat.lt_or_gt_of_ne hne with hlt | hlt
    · exact .inr (Nat.mul_le_mul_right _ hlt)
    · exact .inl (Nat.mul_le_mul_right _ hlt)
  obtain ⟨u, hu⟩ := exists_name ((s.poke (s.countAddr q) (leBytes 4 1)).poke (s.countAddr p)
    (leBytes 4 (s.word (s.countAddr p) - 1)))
  have hw : w = (u.poke (area + q * bytes) (u.peek (area + p * bytes) bytes)).poke ent (leBytes 4 q) := by
    rw [← hu]
    rfl
  have hlen := u.peek_length (area + p * bytes) bytes
  have hold : u.peek (area + p * bytes) bytes = s.peek (area + p * bytes) bytes := by
    unfold State.countAddr at hu
    rw [← hu, State.peek_poke_out _ _ _ _ _ (by rw [leBytes_length]; omega),
      State.peek_poke_out _ _ _ _ _ (by rw [leBytes_length]; omega)]
  have hcounts : ∀ k < pages, w.word (s.countAddr k) = u.word (s.countAddr k) := fun k hk => by
    unfold State.countAddr
    rw [hw, State.word_poke_out _ _ _ (by rw [leBytes_length]; omega), State.word_poke_out _ _ _ (by rw [hlen]; omega)]
  refine ⟨?_, ?_, ?_, ?_, ?_⟩
  · rw [hw]
    exact State.word_poke_same _ _ hq32
  · rw [hcounts q hq, ← hu, State.word_poke_out _ _ _ (by rw [leBytes_length]; unfold State.countAddr; omega)]
    exact State.word_poke_same _ _ (by decide)
  · rw [hcounts p hp, ← hu]
    exact State.word_poke_same _ _ hsub
  · have hcopied := u.peek_poke_same (area + q * bytes) (u.peek (area + p * bytes) bytes)
    rw [hlen] at hcopied
    rw [hw, State.peek_poke_out _ _ _ _ _ (by rw [leBytes_length]; omega), hcopied, hold]
  · rw [hw, State.peek_poke_out _ _ _ _ _ (by rw [leBytes_length]; omega),
      State.peek_poke_out _ _ _ _ _ (by rw [hlen]; omega), hold]

/-! ### The cases of an append (R192, R196) -/

variable {tab : TD} {seq n p : Nat}

/-- With an unmapped entry and no page left an append fails at that entry. -/
theorem State.appendPage_full (h : s.allClean) (hp : s.word (tab.addr [n, seq]) = unmapped)
    (hfree : s.getO Obj.CRIB_PAGES_FREE = 0) : s.appendPage tab seq n = (s, .error (.crib n)) := by
  rw [State.appendPage_clean h]
  dsimp only
  rw [if_pos hp, if_pos hfree]

theorem State.appendPage_maps (h : s.allClean) (hp : s.word (tab.addr [n, seq]) = unmapped)
    (hfree : s.getO Obj.CRIB_PAGES_FREE ≠ 0) :
    s.appendPage tab seq n = (s.popped.poke (tab.addr [n, seq]) (leBytes 4 s.stackTop), .ok s.stackTop) := by
  rw [State.appendPage_clean h]
  dsimp only
  rw [if_pos hp, if_neg hfree]

/-- A page that no other entry maps is used as it is. -/
theorem State.appendPage_owns (h : s.allClean) (hp : s.word (tab.addr [n, seq]) = p) (hmapped : p ≠ unmapped)
    (hlt : p < s.getO Obj.CRIB_POOL_PAGES) (hcount : s.word (s.countAddr p) = 1) : s.appendPage tab seq n = (s, .ok p) := by
  rw [State.appendPage_clean h]
  dsimp only
  rw [hp, if_neg hmapped, if_neg (Nat.not_le.2 hlt), hcount, if_neg Nat.one_ne_zero, if_pos rfl]

theorem State.appendPage_copies (h : s.allClean) (hp : s.word (tab.addr [n, seq]) = p) (hmapped : p ≠ unmapped)
    (hlt : p < s.getO Obj.CRIB_POOL_PAGES) (hcount : 1 < s.word (s.countAddr p)) (hfree : s.getO Obj.CRIB_PAGES_FREE ≠ 0) :
    s.appendPage tab seq n = (s.pageCopied (tab.addr [n, seq]) p, .ok s.stackTop) := by
  rw [State.appendPage_clean h]
  dsimp only
  rw [hp, if_neg hmapped, if_neg (Nat.not_le.2 hlt), if_neg (by omega), if_neg (by omega), if_neg hfree]

theorem State.onlyWork_appendPage (h : s.allClean) : s.onlyWork (s.appendPage tab seq n).1 := by
  rw [State.appendPage_clean h]
  dsimp only
  split_ifs
  · exact .refl s
  · exact s.onlyWork_popped.trans (State.onlyWork_poke ..)
  · exact .refl s
  · exact .refl s
  · exact .refl s
  · exact .refl s
  · exact s.onlyWork_pageCopied _ _

theorem State.onlyWork.allClean (h : s.onlyWork t) (hs : s.allClean) : t.allClean := fun c => by
  rw [h.chk]
  exact hs c

/-- An append changes values and memory alone. -/
theorem State.onlyWork_appendAll {u v : TD} {x : Crib} {l : List Nat} (h : s.allClean) :
    s.onlyWork (s.appendAll tab u v x l).1 := by
  induction l generalizing s with
  | nil => exact .refl s
  | cons n l ih =>
    have hpage := State.onlyWork_appendPage (tab := tab) (seq := x.seq) (n := n) h
    unfold State.appendAll
    generalize s.appendPage tab x.seq n = r at hpage ⊢
    obtain ⟨w, e | p⟩ := r
    · exact hpage
    · have hclean := State.onlyWork.allClean hpage h
      dsimp only
      rw [State.runPieces_clean w hclean]
      dsimp only
      exact hpage.trans ((State.onlyWork_pokes ..).trans (ih (hclean.pokes _)))

/-! ### The reclaim ring (R194) -/

theorem State.freePage_clean (h : s.allClean) (p : Nat) :
    s.freePage p = ((s.poke (s.stackAddr (s.getO Obj.CRIB_PAGES_FREE)) (leBytes 4 p)).setO Obj.CRIB_PAGES_FREE
      (s.getO Obj.CRIB_PAGES_FREE + 1), none) := by
  unfold State.freePage
  dsimp only
  rw [State.putNum_clean h]

/-- The state once the page w % 2 ^ 32 at the head of the ring has moved to the free stack. -/
def State.reclaimed (s : State) (w : Nat) : State :=
  let u := (s.poke (s.stackAddr (s.getO Obj.CRIB_PAGES_FREE)) (leBytes 4 (w % 2 ^ 32))).setO Obj.CRIB_PAGES_FREE
    (s.getO Obj.CRIB_PAGES_FREE + 1)
  { u.setO Obj.CRIB_PAGES_PENDING (u.getO Obj.CRIB_PAGES_PENDING - 1) with
    ringHead := (u.ringHead + 1) % max 1 (u.getO Obj.CRIB_POOL_PAGES) }

/-- The entry at the head of the ring. -/
def State.ringEntry (s : State) : Nat := ofBytes (s.peek (s.reclaimAddr s.ringHead) 16)

theorem execCribReclaim_clean (h : s.allClean) (hpending : s.getO Obj.CRIB_PAGES_PENDING ≠ 0)
    (hstate : s.getO Obj.CRIB_POOL_STATE = 1) :
    execCribReclaim s =
      if s.fences.any fun (f : Nat) => decide (f < s.ringEntry / 2 ^ 64) then .next s else .next (s.reclaimed s.ringEntry) := by
  unfold execCribReclaim
  rw [if_neg (by rw [not_or, not_not]; exact ⟨hpending, hstate⟩), State.getNum_clean h]
  dsimp only
  rw [State.freePage_clean h]
  rfl

end

end Sys2Proof.Machine

namespace Sys2Proof.Machine

/-! ### Step 4 of crib operations of clean memory (R189, R192 to R194) -/

section
variable {data pages : Nat} {page cnt : Nat → Nat} {s u : State} {id : Nat} {o : Op}

theorem shareRun_worked
    (h : (s.shareAll (tensor o.got.list 0) (tensor o.got.list 1) (Crib.parse o.desc) (Crib.parse o.desc).span).2 = none) :
    shareRun s id o =
      (s.shareAll (tensor o.got.list 0) (tensor o.got.list 1) (Crib.parse o.desc) (Crib.parse o.desc).span).1.worked id o none := by
  unfold shareRun
  dsimp only
  rw [h]
  rfl

theorem freeRun_worked (h : (s.freeAll (tensor o.got.list 0) (Crib.parse o.desc) (Crib.parse o.desc).span).2 = none) :
    freeRun s id o = (s.freeAll (tensor o.got.list 0) (Crib.parse o.desc) (Crib.parse o.desc).span).1.worked id o none := by
  unfold freeRun
  dsimp only
  rw [h]
  rfl

/-- The page-table entries that an append touches, from its first position on (R192). -/
def Crib.touched (x : Crib) (u : TD) : List Nat :=
  (List.range ((x.dst + u.e 1 - 1) / 256 + 1)).filter fun n => decide (x.dst / 256 ≤ n)

/-- An append that takes the next fence and does not fail. -/
theorem appendRun_worked {o' : Op} (hfence : s.takeFence id o = some (u, o')) {ts : List TD} {x : Crib}
    (hts : o.got.list = ts) (hx : Crib.parse o.desc = x)
    (hdone : (u.appendAll (tensor ts 0) (tensor ts 1) (tensor ts 2) x (x.touched (tensor ts 1))).2 = none) :
    appendRun s id o = ((u.appendAll (tensor ts 0) (tensor ts 1) (tensor ts 2) x
      (x.touched (tensor ts 1))).1.worked id o' none).judge o'.table := by
  subst hts hx
  unfold appendRun
  dsimp only
  rw [hfence]
  dsimp only
  unfold Crib.touched at hdone ⊢
  rw [hdone]
  rfl

theorem appendRun_waits (h : 4096 ≤ s.fences.length) : appendRun s id o = s.blockOp id o := by
  unfold appendRun
  dsimp only
  rw [State.takeFence_full h]

theorem State.op_judge (s : State) (n k : Nat) : (s.judge n).op? k = s.op? k := by
  rw [State.onlyHold_judge s n]
  rfl

/-- An operation that must wait is READY again, and memory and fences are kept. -/
theorem State.blockOp_waits (s : State) (id : Nat) (o : Op) :
    (s.blockOp id o).op? id = some { o with phase := .ready, blocked := true } ∧ (s.blockOp id o).mem = s.mem ∧
      (s.blockOp id o).fences = s.fences := by
  unfold State.blockOp
  dsimp only
  refine ⟨(State.op_judge ..).trans (State.op_setOp_same ..), ?_, ?_⟩
  · rw [State.onlyHold_judge]
    rfl
  · rw [State.onlyHold_judge]
    rfl

/-! ### What the pages of an append hold (R192) -/

theorem State.getO_copied (s : State) (ent p : Nat) :
    (s.pageCopied ent p).getO Obj.CRIB_PAGES_FREE = s.getO Obj.CRIB_PAGES_FREE - 1 ∧
      (s.getO Obj.CRIB_COPIES + 1 < 2 ^ 64 → (s.pageCopied ent p).getO Obj.CRIB_COPIES = s.getO Obj.CRIB_COPIES + 1) := by
  have hcopies : s.popped.getO Obj.CRIB_COPIES = s.getO Obj.CRIB_COPIES := s.getO_popped (by decide) (by decide)
  unfold State.pageCopied
  dsimp only
  generalize hu : s.popped.poke (s.popped.countAddr p) _ = u
  generalize hv : (u.pokes (u.copyWrites p s.stackTop)).poke ent _ = v
  have hval : ∀ q : ObjDef, v.getO q = s.popped.getO q := fun q => by
    rw [← hv, State.getO_poke, State.getO_pokes, ← hu, State.getO_poke]
  refine ⟨?_, fun hlt => ?_⟩
  · rw [(State.sameKey_incO v Obj.CRIB_COPIES 1 0 0 (by decide)).getO, hval, s.getO_popped_free]
  · rw [State.getO_incO_same (by rw [hval, hcopies]; exact hlt), hval, hcopies]

/-- A page that has been mapped into an unmapped entry counts 1. -/
theorem State.popped_maps {ent : Nat} (hlt : s.stackTop < pages)
    (hent : ent + 4 ≤ s.getO Obj.CRIB_META_BASE ∨ s.getO Obj.CRIB_META_BASE + 24 * pages ≤ ent) :
    let w := s.popped.poke ent (leBytes 4 s.stackTop)
    w.word ent = s.stackTop ∧ w.word (s.countAddr s.stackTop) = 1 ∧
      w.getO Obj.CRIB_PAGES_FREE = s.getO Obj.CRIB_PAGES_FREE - 1 ∧ w.getO Obj.CRIB_COPIES = s.getO Obj.CRIB_COPIES := by
  refine ⟨State.word_poke_same _ _ (s.word_lt _), ?_, s.getO_popped_free, s.getO_popped (by decide) (by decide)⟩
  rw [State.word_poke_out _ _ _ (by rw [leBytes_length]; unfold State.countAddr; omega), State.word_of_mem s.popped_mem]
  exact State.word_poke_same _ _ (by decide)

/-- The page at the head of the ring stands on the free stack, and the ring goes on. -/
theorem State.reclaimed_results (s : State) (w : Nat) :
    let t := s.reclaimed w
    t.getO Obj.CRIB_PAGES_FREE = s.getO Obj.CRIB_PAGES_FREE + 1 ∧
      t.getO Obj.CRIB_PAGES_PENDING = s.getO Obj.CRIB_PAGES_PENDING - 1 ∧
      t.word (s.stackAddr (s.getO Obj.CRIB_PAGES_FREE)) = w % 2 ^ 32 ∧
      t.ringHead = (s.ringHead + 1) % max 1 (s.getO Obj.CRIB_POOL_PAGES) ∧ t.fences = s.fences ∧ t.ops = s.ops := by
  obtain ⟨v, hv⟩ := exists_name (s.poke (s.stackAddr (s.getO Obj.CRIB_PAGES_FREE)) (leBytes 4 (w % 2 ^ 32)))
  obtain ⟨u, hu⟩ := exists_name (v.setO Obj.CRIB_PAGES_FREE (s.getO Obj.CRIB_PAGES_FREE + 1))
  have hkept : ∀ p : ObjDef, p.key ≠ Obj.CRIB_PAGES_FREE.key → u.getO p = s.getO p := fun p hne => by
    rw [← hu, State.getO_setO_ne _ _ _ _ _ _ _ _ hne, ← hv, State.getO_poke]
  have hpages : u.getO Obj.CRIB_POOL_PAGES = s.getO Obj.CRIB_POOL_PAGES := hkept _ (by decide)
  have hpending : u.getO Obj.CRIB_PAGES_PENDING = s.getO Obj.CRIB_PAGES_PENDING := hkept _ (by decide)
  have ht : s.reclaimed w = { u.setO Obj.CRIB_PAGES_PENDING (s.getO Obj.CRIB_PAGES_PENDING - 1) with
      ringHead := (s.ringHead + 1) % max 1 (s.getO Obj.CRIB_POOL_PAGES) } := by
    rw [← hpending, ← hpages, ← hu, ← hv]
    rfl
  rw [ht]
  refine ⟨?_, State.getO_setO_same .., ?_, rfl, ?_, ?_⟩
  · refine (State.getO_setO_ne u Obj.CRIB_PAGES_PENDING Obj.CRIB_PAGES_FREE _ 0 0 0 0 (by decide)).trans ?_
    rw [← hu, State.getO_setO_same]
  · show u.word _ = _
    rw [← hu, ← hv]
    exact State.word_poke_same _ _ (Nat.mod_lt _ (by decide))
  · rw [← hu, ← hv]
    rfl
  · rw [← hu, ← hv]
    rfl

/-! ### The rows of crib operations -/

/-- Step 4 begins with tables and counts as they are. -/
theorem State.maps.atStep4 {t : TD} {seq : Nat} {l : List Nat} (hm : s.maps data pages t seq page cnt l) (h : s.chk = []) (id : Nat)
    (o : Op) : (s.atStep4 id o).maps data pages t seq page cnt l := by
  rw [State.atStep4_eq h]
  exact ⟨hm.base, hm.size, hm.entry, hm.count⟩

theorem cribShare_results (h : s.chk = []) (hrun : s.mayRun id o 4 0x11) {t u : TD} {x : Crib}
    (ht : tensor (s.begun o).got.list 0 = t) (hu : tensor (s.begun o).got.list 1 = u) (hx : Crib.parse o.desc = x)
    (hg : SharesApart data pages t u x page x.span) (hm : s.maps data pages t x.seq page cnt x.span)
    (hfree : ∀ n ∈ x.span, page n ≠ unmapped → cnt n < 65535 ∧ s.word (u.addr [n, x.dst]) = unmapped) :
    ∃ w, exec (.cribShare id) s = .next w ∧ w.op? id = some { s.begun o with phase := .executed } ∧
      (∀ n ∈ x.span, page n ≠ unmapped → w.word (u.addr [n, x.dst]) = page n ∧ w.word (data + 4 * page n) = cnt n + 1) ∧
      (∀ n ∈ x.span, page n = unmapped → w.word (u.addr [n, x.dst]) = s.word (u.addr [n, x.dst])) ∧
      (∀ y, (y < data ∨ data + 4 * pages ≤ y) → (∀ n ∈ x.span, y < u.addr [n, x.dst] ∨ u.addr [n, x.dst] + 4 ≤ y) →
        w.byte y = s.byte y) := by
  subst ht hu hx
  obtain ⟨hmem, hclean⟩ := State.atStep4_clean h id o
  have hfree' : ∀ n ∈ (Crib.parse o.desc).span, page n ≠ unmapped → cnt n < 65535 ∧ (s.atStep4 id o).word
      ((tensor (s.begun o).got.list 1).addr [n, (Crib.parse o.desc).dst]) = unmapped := fun n hn hun => by
    rw [State.word_of_mem hmem]
    exact hfree n hn hun
  have hm' := hm.atStep4 h id o
  obtain ⟨hnone, -, -⟩ := State.shareAll_wrote hclean hg Crib.span_nodup hm' hfree'
  obtain ⟨hnew, hold, hbytes⟩ := State.shareAll_results hclean hg Crib.span_nodup hm' hfree'
  have hnext : exec (.cribShare id) s = .next (shareRun (s.atStep4 id o) id (s.begun o)) :=
    congrArg _ (State.runOp_begins s id o 4 0x11 _ _ hrun)
  refine ⟨_, hnext.trans (congrArg _ (shareRun_worked hnone)), State.op_setOp_same .., hnew,
    fun n hn hun => (hold n hn hun).trans (State.word_of_mem hmem _), fun y hy hdst => (hbytes y hy hdst).trans ?_⟩
  unfold State.byte
  rw [hmem]

theorem cribFree_results (h : s.chk = []) (hrun : s.mayRun id o 4 0x12) {t : TD} {x : Crib}
    (ht : tensor (s.begun o).got.list 0 = t) (hx : Crib.parse o.desc = x)
    (hg : EntriesApart data pages (fun n => t.addr [n, x.seq]) page x.span) (hm : s.maps data pages t x.seq page cnt x.span)
    (hpos : ∀ n ∈ x.span, page n ≠ unmapped → cnt n ≠ 0 ∧ cnt n < 2 ^ 32) :
    ∃ w, exec (.cribFree id) s = .next w ∧ w.op? id = some { s.begun o with phase := .executed } ∧
      (∀ n ∈ x.span, w.word (t.addr [n, x.seq]) = unmapped) ∧
      (∀ n ∈ x.span, page n ≠ unmapped → w.word (data + 4 * page n) = cnt n - 1) ∧
      w.getO Obj.CRIB_PAGES_FREE = s.getO Obj.CRIB_PAGES_FREE ∧
      w.getO Obj.CRIB_PAGES_PENDING =
        s.getO Obj.CRIB_PAGES_PENDING + (x.span.filter fun n => decide (page n ≠ unmapped ∧ cnt n = 1)).length ∧
      (∀ y, (y < data ∨ data + 24 * pages ≤ y) → (∀ n ∈ x.span, y < t.addr [n, x.seq] ∨ t.addr [n, x.seq] + 4 ≤ y) →
        w.byte y = s.byte y) := by
  subst ht hx
  obtain ⟨hmem, hclean⟩ := State.atStep4_clean h id o
  have hval : ∀ p : ObjDef, (s.atStep4 id o).getO p = s.getO p := fun p => by rw [State.atStep4_eq h]; rfl
  have hm' := hm.atStep4 h id o
  obtain ⟨hnone, -, hkeys, hpending, -⟩ :=
    State.freeAll_wrote hclean hg Crib.span_nodup hm' fun n hn hun => (hpos n hn hun).1
  obtain ⟨hentries, hcounts, hbytes⟩ := State.freeAll_results hclean hg Crib.span_nodup hm' hpos
  have hnext : exec (.cribFree id) s = .next (freeRun (s.atStep4 id o) id (s.begun o)) :=
    congrArg _ (State.runOp_begins s id o 4 0x12 _ _ hrun)
  refine ⟨_, hnext.trans (congrArg _ (freeRun_worked hnone)), State.op_setOp_same .., hentries, hcounts,
    (hkeys _ (by decide)).getO.trans (hval _), hpending.trans (congrArg (· + _) (hval _)),
    fun y hy hent => (hbytes y hy hent).trans ?_⟩
  unfold State.byte
  rw [hmem]

theorem cribAppend_results (h : s.chk = []) (hrun : s.mayRun id o 4 0x10) (hopen : s.fences.length < 4096) {ts : List TD}
    {x : Crib} (hts : (s.begun o).got.list = ts) (hx : Crib.parse o.desc = x) {r : State × Option CribEnd}
    (hr : ((s.atStep4 id o).fenced id (s.begun o)).appendAll (tensor ts 0) (tensor ts 1) (tensor ts 2) x
      (x.touched (tensor ts 1)) = r) (hdone : r.2 = none) :
    ∃ w, exec (.cribAppend id) s = .next w ∧
      w.op? id = some { s.begun o with fence := some (s.getO Obj.CRIB_NEXT_FENCE), phase := .executed } ∧
      w.mem = r.1.mem ∧ w.fences = s.fences ++ [s.getO Obj.CRIB_NEXT_FENCE] ∧ w.ctxs = s.ctxs ∧ w.sems = s.sems := by
  obtain ⟨hop, hstate⟩ := State.fenced_atStep4 h id o
  have hfences : (s.atStep4 id o).fences = s.fences := by rw [State.atStep4_eq h]; rfl
  have hready := (State.readied_atStep4 h id o).fenced (s.begun o)
  have hfence := State.takeFence_open (id := id) (by rw [hfences]; exact hopen) (s.begun o)
  have hnext : exec (.cribAppend id) s = .next (appendRun (s.atStep4 id o) id (s.begun o)) :=
    congrArg _ (State.runOp_begins s id o 4 0x10 _ _ hrun)
  have hwork := State.onlyWork_appendAll (tab := tensor ts 0) (u := tensor ts 1) (v := tensor ts 2) (x := x)
    (l := x.touched (tensor ts 1)) (State.allClean_of_chk (hready.chk.trans h))
  have hran := appendRun_worked hfence hts hx (by rw [hr]; exact hdone)
  rw [hr] at hwork hran
  have hheld := State.onlyHold_judge (r.1.worked id ((s.begun o).fenced (s.atStep4 id o)) none)
    ((s.begun o).fenced (s.atStep4 id o)).table
  refine ⟨_, hnext.trans (congrArg _ hran), ?_, (congrArg State.mem hheld :), ?_, ?_, ?_⟩
  · rw [State.op_judge, hop]
    exact State.op_setOp_same ..
  · have hnew : ((s.atStep4 id o).fenced id (s.begun o)).fences = s.fences ++ [s.getO Obj.CRIB_NEXT_FENCE] := by rw [hstate]
    exact (congrArg State.fences hheld).trans ((congrArg State.fences hwork).trans hnew)
  · exact (congrArg State.ctxs hheld).trans ((congrArg State.ctxs hwork :).trans (congrArg State.ctxs hready.rest :))
  · exact (congrArg State.sems hheld).trans ((congrArg State.sems hwork :).trans (congrArg State.sems hready.rest :))

theorem cribAppend_waits (h : s.chk = []) (hrun : s.mayRun id o 4 0x10) (hfull : 4096 ≤ s.fences.length) :
    ∃ w, exec (.cribAppend id) s = .next w ∧ w.op? id = some { s.begun o with phase := .ready, blocked := true } ∧
      w.mem = s.mem ∧ w.fences = s.fences := by
  have hfences : (s.atStep4 id o).fences = s.fences := by rw [State.atStep4_eq h]; rfl
  have hnext : exec (.cribAppend id) s = .next (appendRun (s.atStep4 id o) id (s.begun o)) :=
    congrArg _ (State.runOp_begins s id o 4 0x10 _ _ hrun)
  obtain ⟨hop, hmem, hkept⟩ := (s.atStep4 id o).blockOp_waits id (s.begun o)
  exact ⟨_, hnext.trans (congrArg _ (appendRun_waits (by rw [hfences]; exact hfull))), hop,
    hmem.trans (State.atStep4_clean h id o).1, hkept.trans hfences⟩

end

/-- Settles O41: each operation walks its entries, and what it writes for one of them leaves the others as they were. -/
theorem cribResults : Obligations.CribResults := by
  refine ⟨?_, ?_, ?_⟩
  · intro s id o hchk d x s1 pages data table word count out apart range
    have hspan : ∀ n, n ∈ x.span ↔ range n := fun n => Crib.mem_span
    refine ⟨?_, ?_, ?_, cribAppend_waits hchk⟩
    · intro hrun src dst page hapart hout hmapped hdiffer
      have hg : SharesApart data pages (table 0) (table 1) x page x.span :=
        { entries := fun n hn m hm => (hapart n m ((hspan n).1 hn) ((hspan m).1 hm)).2
          out := fun n hn => (hout n ((hspan n).1 hn)).2
          lt := fun n hn hun => (hmapped n ((hspan n).1 hn) hun).1
          differ := fun n hn m hm => hdiffer n m ((hspan n).1 hn) ((hspan m).1 hm)
          source := fun n hn m hm => (hapart n m ((hspan n).1 hn) ((hspan m).1 hm)).1
          sourceOut := fun n hn => (hout n ((hspan n).1 hn)).1 }
      have hm : s.maps data pages (table 0) x.seq page (fun n => count s (page n)) x.span :=
        ⟨rfl, rfl, fun _ _ => rfl, fun _ _ _ => rfl⟩
      obtain ⟨w, hnext, hop, hnew, hold, hbytes⟩ := cribShare_results hchk hrun rfl rfl rfl hg hm fun n hn hun =>
        (hmapped n ((hspan n).1 hn) hun).2
      exact ⟨w, hnext, hop, fun n hn => hnew n ((hspan n).2 hn), fun n hn => hold n ((hspan n).2 hn),
        fun y hy hdst => hbytes y hy fun n hn => hdst n ((hspan n).1 hn)⟩
    · intro hrun ent page hapart hout hmapped hdiffer
      have hg : EntriesApart data pages (fun n => (table 0).addr [n, x.seq]) page x.span :=
        { entries := fun n hn m hm => hapart n m ((hspan n).1 hn) ((hspan m).1 hm)
          out := fun n hn => hout n ((hspan n).1 hn)
          lt := fun n hn hun => (hmapped n ((hspan n).1 hn) hun).1
          differ := fun n hn m hm => hdiffer n m ((hspan n).1 hn) ((hspan m).1 hm) }
      have hm : s.maps data pages (table 0) x.seq page (fun n => count s (page n)) x.span :=
        ⟨rfl, rfl, fun _ _ => rfl, fun _ _ _ => rfl⟩
      obtain ⟨w, hnext, hop, hentries, hcounts, hfree, hpending, hbytes⟩ :=
        cribFree_results hchk hrun rfl rfl hg hm fun n hn hun => ⟨(hmapped n ((hspan n).1 hn) hun).2, s.word_lt _⟩
      exact ⟨w, hnext, hop, fun n hn => hentries n ((hspan n).2 hn), fun n hn => hcounts n ((hspan n).2 hn), hfree, hpending,
        fun y hy hent => hbytes y hy fun n hn => hent n ((hspan n).1 hn)⟩
    · intro hrun hopen f o2 s2 u ns done hdone
      have hs2 : (s.atStep4 id o).fenced id (s.begun o) = s2 := (State.fenced_atStep4 hchk id o).2
      exact cribAppend_results hchk hrun hopen rfl rfl (congrArg (State.appendAll · (table 0) u (table 2) x ns) hs2) hdone
  · intro s t seq n hchk pages data left ent word p top bytes area w hent
    have hclean : s.allClean := State.allClean_of_chk hchk
    refine ⟨fun hp hleft _ htop => ?_, fun hmapped hlt hcount => State.appendPage_owns hclean rfl hmapped hlt hcount,
      fun hlt hcount _ hleft _ htop hne hmapped hpool harea hbytes hcopies => ?_,
      fun hp hleft => congrArg Prod.snd (State.appendPage_full hclean hp hleft)⟩
    · have hpage : s.appendPage t seq n = _ := State.appendPage_maps hclean hp hleft
      rw [show w = _ from congrArg Prod.fst hpage]
      exact ⟨congrArg Prod.snd hpage, State.popped_maps htop hent⟩
    · have hpage : s.appendPage t seq n = _ := State.appendPage_copies hclean rfl hmapped hlt hcount hleft
      have hmem := s.pageCopied_mem ent p hbytes
      obtain ⟨hentry, hnew, hold, hcopied, hkept⟩ :=
        State.copyStored_results (s := s) (ent := ent) hlt htop hne hent hpool harea (s.word_lt _)
      obtain ⟨hfree, hcount'⟩ := s.getO_copied ent p
      rw [show w = _ from congrArg Prod.fst hpage]
      exact ⟨congrArg Prod.snd hpage, (State.word_of_mem hmem _).trans hentry, (State.word_of_mem hmem _).trans hnew,
        (State.word_of_mem hmem _).trans hold, (State.peek_of_mem hmem _ _).trans hcopied,
        (State.peek_of_mem hmem _ _).trans hkept, hfree, hcount' hcopies⟩
  · intro s hchk hpending hstate w left
    have hnext := execCribReclaim_clean (State.allClean_of_chk hchk) hpending hstate
    refine ⟨fun ⟨f, hf, hlt⟩ => hnext.trans (if_pos (List.any_eq_true.2 ⟨f, hf, decide_eq_true hlt⟩)), fun hreleased => ?_⟩
    have hnone : ¬(s.fences.any fun (f : Nat) => decide (f < s.ringEntry / 2 ^ 64)) = true := fun hany => by
      obtain ⟨f, hf, hlt⟩ := List.any_eq_true.1 hany
      exact absurd (of_decide_eq_true hlt) (Nat.not_lt.2 (hreleased f hf))
    exact ⟨_, hnext.trans (if_neg hnone), s.reclaimed_results s.ringEntry⟩

end Sys2Proof.Machine

namespace Sys2Proof.Machine

/-! ### The keys of a group's objects (R205) -/

/-- A key among the objects of a group: none of them stands at subindex 0. -/
def groupKey (k : Nat) : Prop := 0x6100 * 256 < k ∧ k % 256 ≠ 0

/-- An object that every group has (R205). -/
abbrev ObjDef.inGroup (p : ObjDef) : Prop := p.index = 0x6100 ∧ 0 < p.sub ∧ p.sub < 256

theorem ObjDef.groupKey_key {p : ObjDef} (h : p.inGroup) (g : Nat) : groupKey (p.key g) := by
  obtain ⟨hindex, hpos, hlt⟩ := h
  unfold groupKey ObjDef.key
  omega

/-- The repetitions of a group's object end before the objects of the reduction (R205). -/
theorem ObjDef.key_lt_of_group {p : ObjDef} (h : p.inGroup) {g : Nat} (hg : g < 256) :
    p.key g < 0x6200 * 256 := by
  obtain ⟨hindex, hpos, hlt⟩ := h
  unfold ObjDef.key
  omega

theorem updGroup_lt (d : Nat) : updGroup d < 256 := Nat.mod_lt _ (by decide)

theorem groupKey.notMem {k : Nat} (h : groupKey k) {l : List Nat} (hl : ∀ m ∈ l, m % 256 = 0 ∨ m ≤ 0x6100 * 256) : k ∉ l := by
  intro hk
  obtain ⟨hlow, hsub⟩ := h
  rcases hl k hk with hmod | hle <;> omega

theorem groupKey.ne_of_le {k m : Nat} (h : groupKey k) (hm : m ≤ 0x6100 * 256) : k ≠ m := fun e => by
  have hlow := h.1
  omega

/-! ### Records after a judgement of holds (R323, R537) -/

section
variable {s t u : State} {k : Nat}

theorem State.alm_queueCtl (s : State) (p n : Nat) (bs : List Byte) : (s.queueCtl p n bs).alm = s.alm := by
  unfold State.queueCtl
  generalize List.range 8 = ps
  induction ps generalizing s with
  | nil => rfl
  | cons q ps ih =>
    rw [List.foldl_cons, ih]
    split_ifs <;> rfl

theorem State.started_flood (s : State) (n x y : Nat) : (s.flood n x y).alm.started = s.alm.started := by
  unfold State.flood
  extract_lets m w
  split_ifs
  · rfl
  · rw [State.alm_queueCtl]

theorem State.onlyObj.started (h : s.onlyObj t) : t.alm.started = s.alm.started := by rw [h]

theorem State.started_sendHold (s : State) (c : Cond) : (s.sendHold c).alm.started = s.alm.started := by
  unfold State.sendHold
  extract_lets a b d e w f
  have hobj : s.onlyObj e := by
    have hd : s.onlyObj d := (State.onlyObj_incO s _ _ _ _).trans ((State.onlyObj_setO a _ _ _ _).trans
      (State.onlyObj_setO b _ _ _ _))
    exact .ite (hd.trans (State.onlyObj_incO d _ _ _ _)) hd
  exact (State.started_flood f _ _ _).trans hobj.started

theorem State.started_syncHold (s : State) : s.syncHold.alm.started = s.alm.started := by
  unfold State.syncHold
  split
  · rfl
  · exact State.started_flood { s with alm := { s.alm with own := none } } _ _ _
  · split_ifs
    · rfl
    · exact State.started_sendHold _ _

theorem State.started_setCond (s : State) (n : Nat) (c : Option (Nat × Nat)) :
    (s.setCond n c).alm.started = s.alm.started := State.started_syncHold _

/-- Whether a schedule has started is no matter of holds. -/
theorem State.started_judge (s : State) (n : Nat) : (s.judge n).alm.started = s.alm.started := by
  unfold State.judge
  dsimp only
  simp only [State.started_setCond]

/-- Of the almanac unit a record shows only whether a schedule has started (R537). -/
theorem State.recordOf_alm (s : State) {a : Alm} (h : a.started = s.alm.started) (r : Rec) :
    ({ s with alm := a } : State).recordOf r = s.recordOf r := by
  have hstamp : ∀ x, ({ s with alm := a } : State).stampOf x = s.stampOf x := fun x => by
    unfold State.stampOf
    rw [h]
    rfl
  have hrec : ({ s with alm := a } : State).recStamp = s.recStamp := hstamp _
  unfold State.recordOf
  rw [hrec]
  rfl

/-- Holds change nothing that a record is formed from. -/
theorem State.posted_post_judge (halike : s.recordsAlike t) (h : s.onePost) (n : Nat) (r : Rec) :
    s.posted r ((t.judge n).post r) := by
  have hrest := State.onlyHold_judge t n
  have hjudge : t.recordsAlike { t.judge n with alm := t.alm } :=
    ⟨(congrArg State.rings hrest :), (congrArg State.sems hrest :), rfl, (congrArg State.linkCfg hrest :), fun k hk =>
      State.sameKey.trans (State.sameKey_judge t n (by revert k; decide)) (State.sameKey_of_obj rfl)⟩
  have hall := halike.trans hjudge
  have hrecord : (t.judge n).recordOf r = s.recordOf r :=
    ((t.judge n).recordOf_alm (a := t.alm) (State.started_judge t n).symm r).symm.trans (hall.recordOf r)
  have hseq : (t.judge n).getO Obj.ERR_SEQ_NEXT = s.getO Obj.ERR_SEQ_NEXT := hall.getO (by decide)
  obtain ⟨hlog, hnext, hlast⟩ := State.posted_post (t.judge n) r (hall.onePost h)
  rw [hseq] at hlog hnext
  exact ⟨hlog.trans hrecord, hnext, hlast⟩

/-! ### The end of an operation leaves the log (R38, R487) -/

def leaveKeys : List Nat := Obj.LEAVE_GRANTS.key :: holdKeys

/-- From s to t leave may have been served and holds judged: no record has been written and no operation has come. -/
structure State.leaveServed (s t : State) : Prop where
  log : t.log = s.log
  keys : ∀ k, k ∉ leaveKeys → State.sameKey k s t
  gone : ∀ id, s.op? id = none → t.op? id = none

theorem State.leaveServed.refl (s : State) : s.leaveServed s := ⟨rfl, fun _ _ => .refl s, fun _ => id⟩

theorem State.leaveServed.trans (h : s.leaveServed t) (h' : t.leaveServed u) : s.leaveServed u :=
  ⟨h'.log.trans h.log, fun k hk => (h.keys k hk).trans (h'.keys k hk), fun id => h'.gone id ∘ h.gone id⟩

theorem State.leaveServed.ite {p : Prop} [Decidable p] (h : s.leaveServed t) (h' : s.leaveServed u) :
    s.leaveServed (if p then t else u) := by split_ifs <;> assumption

theorem State.onlyHold.leaveServed (h : s.onlyHold t) (hk : ∀ k, k ∉ leaveKeys → State.sameKey k s t) : s.leaveServed t :=
  ⟨(congrArg State.log h :), hk, fun id hid => by rw [h]; exact hid⟩

theorem State.leaveServed_judge (s : State) (n : Nat) : s.leaveServed (s.judge n) :=
  (State.onlyHold_judge s n).leaveServed fun _ hk => State.sameKey_judge s n fun e => hk (List.mem_cons_of_mem _ e)

theorem State.leaveServed_holdNow (s : State) (n r : Nat) : s.leaveServed (s.holdNow n r) :=
  (State.onlyHold_holdNow s n r).leaveServed fun _ hk => State.sameKey_holdNow s n r fun e => hk (List.mem_cons_of_mem _ e)

theorem State.leaveServed_granted (s : State) : s.leaveServed (s.incO Obj.LEAVE_GRANTS) :=
  (State.onlyObj_incO s _ _ _ _).hold.leaveServed fun _ hk =>
    State.sameKey_incO s _ _ _ _ fun e => hk (e ▸ List.mem_cons_self)

/-- An operation of the list becomes READY. -/
theorem State.leaveServed_makeReady {id : Nat} (h : s.op? id ≠ none) (q : Op) : s.leaveServed (s.makeReady id q) :=
  ⟨rfl, fun _ _ => State.sameKey_of_obj rfl, fun m hm => by
    have hne : m ≠ id := fun e => h (e ▸ hm)
    exact (State.op_setOp_ne s id m _ hne).trans hm⟩

theorem State.leaveServed_leaveQ (s : State) (l : List Nat) : s.leaveServed { s with leaveQ := l } :=
  ⟨rfl, fun _ _ => State.sameKey_of_obj rfl, fun _ h => h⟩

theorem State.leaveServed_resvs (s : State) (l : List Resv) : s.leaveServed { s with resvs := l } :=
  ⟨rfl, fun _ _ => State.sameKey_of_obj rfl, fun _ h => h⟩

theorem State.leaveServed_fenceWake (s : State) (core ctx : Nat) : s.leaveServed (s.fenceWake core ctx) := by
  unfold State.fenceWake
  exact .ite ⟨rfl, fun _ _ => State.sameKey_of_obj rfl, fun _ h => h⟩ (.refl s)

theorem State.op_ne_none_of_mem {p : Nat × Op} (h : p ∈ s.ops) : s.op? p.1 ≠ none := by
  unfold State.op?
  rw [Ne, Option.map_eq_none_iff, List.find?_eq_none]
  exact fun hall => hall p h (decide_eq_true rfl)

theorem State.leaveServed_claim (s : State) (r : Resv) : s.leaveServed (s.claim r) := by
  unfold State.claim
  split
  · exact .refl s
  · rename_i id o hfind
    have hready := State.leaveServed_makeReady (State.op_ne_none_of_mem (List.mem_of_find?_eq_some hfind))
      { o with held := r.cost }
    exact hready.trans (State.leaveServed_resvs _ _)

theorem State.leaveServed_serve (n : Nat) (s : State) : s.leaveServed (State.serve n s) := by
  induction n generalizing s with
  | zero => exact .refl s
  | succ n ih =>
    unfold State.serve
    extract_lets used waiting
    refine .ite (.ite (State.leaveServed_holdNow s _ _) (.refl s)) ?_
    split
    · extract_lets c made a b
      have hmade : s.leaveServed a := State.leaveServed_resvs s _
      have hclaimed : s.leaveServed b := hmade.trans ((State.leaveServed_granted a).trans (State.leaveServed_claim _ _))
      exact .ite (hclaimed.trans ((State.leaveServed_judge b _).trans (ih _))) (.refl s)
    · split
      · exact .refl s
      · split
        · exact (State.leaveServed_leaveQ s _).trans (ih _)
        · rename_i id _ _ o hop
          extract_lets c _ a
          have hready := State.leaveServed_makeReady (by rw [hop]; exact Option.some_ne_none o) { o with held := c }
          have ha : s.leaveServed a := hready.trans (State.leaveServed_leaveQ _ _)
          have hjudged : s.leaveServed ((a.incO Obj.LEAVE_GRANTS).judge o.table) :=
            ha.trans ((State.leaveServed_granted a).trans (State.leaveServed_judge _ _))
          exact .ite (hjudged.trans (ih _)) (.refl s)

theorem State.thrEnd_kept (s : State) (id : Nat) (o : Op) :
    (s.thrEnd id o).log = s.log ∧ (s.thrEnd id o).obj = s.obj := by
  unfold State.thrEnd
  dsimp only
  split_ifs <;> exact ⟨rfl, rfl⟩

/-- An operation that ends is gone, and its end writes no record. -/
theorem State.endOp_results (s : State) (id : Nat) (o : Op) :
    (s.endOp id o).op? id = none ∧ (s.endOp id o).log = s.log ∧ ∀ k, k ∉ leaveKeys → State.sameKey k s (s.endOp id o) := by
  unfold State.endOp
  extract_lets a b c
  have hthr : (a.thrEnd id o).log = a.log ∧ (a.thrEnd id o).obj = a.obj := State.thrEnd_kept a id o
  have hserved : ((a.thrEnd id o).dropOp id).leaveServed (c.judge o.table) := by
    have hb : ((a.thrEnd id o).dropOp id).leaveServed b := State.leaveServed_serve _ _
    have hwake : b.leaveServed c := .ite (State.leaveServed_fenceWake b _ _) (.refl b)
    exact hb.trans (hwake.trans (State.leaveServed_judge c _))
  exact ⟨hserved.gone id ((a.thrEnd id o).op_dropOp_same id), hserved.log.trans hthr.1,
    fun k hk => (State.sameKey_of_obj (k := k) hthr.2).trans (hserved.keys k hk)⟩

end

end Sys2Proof.Machine

namespace Sys2Proof.Machine

/-! ### What the rule of a group is computed from (R213, R214) -/

section
variable {s t u : State}

/-- Keys at which holds are noted, and the flags and saturations of the engines (R69, R224). -/
def engineKeys : List Nat :=
  [Obj.UPDATE_FLAGS_CD0.key, Obj.UPDATE_FLAGS_CD1.key, Obj.UPDATE_SATURATIONS.key, Obj.SATURATION_TOTAL.key,
   Obj.REDUCE_FLAGS.key] ++ holdKeys

theorem groupKey.notMem_engineKeys {k : Nat} (h : groupKey k) : k ∉ engineKeys := h.notMem (by decide)

/-- From s to t memory is kept, and of the dictionary all but what the engines and the holds note. -/
structure State.sameRule (s t : State) : Prop where
  mem : t.mem = s.mem
  keys : ∀ k, k ∉ engineKeys → State.sameKey k s t

theorem State.sameRule.trans (h : s.sameRule t) (h' : t.sameRule u) : s.sameRule u :=
  ⟨h'.mem.trans h.mem, fun k hk => (h.keys k hk).trans (h'.keys k hk)⟩

theorem State.sameRule.group (h : s.sameRule t) {p : ObjDef} (hp : p.inGroup) (g : Nat) :
    t.getO p g = s.getO p g := (h.keys _ (ObjDef.groupKey_key hp g).notMem_engineKeys).getO

theorem State.sameRule.val (h : s.sameRule t) (x : TD) (strict : Bool) (ix : List Nat) : t.val x strict ix = s.val x strict ix := by
  unfold State.val
  rw [State.el_of_mem h.mem]

/-- Element results are the same where memory and the group's objects are. -/
theorem State.sameRule.updElem (h : s.sameRule t) (op : Op) (r : UpdRun) (e gin : Nat) :
    t.updElem op r e gin = s.updElem op r e gin := by
  have hpeek : t.peek = s.peek := funext fun a => funext fun n => State.peek_of_mem h.mem a n
  have hseed : t.getO Obj.WINNOW_JOB_SEED = s.getO Obj.WINNOW_JOB_SEED := (h.keys _ (by decide)).getO
  unfold State.updElem State.thetaAt State.workAt State.mom1At State.mom2At
  simp -zeta only [hpeek, hseed, h.group (p := Obj.GROUP_BETA1) (by decide), h.group (p := Obj.GROUP_BETA2) (by decide),
    h.group (p := Obj.GROUP_CLIP) (by decide), h.group (p := Obj.GROUP_GMUL) (by decide),
    h.group (p := Obj.GROUP_MASTER_BASE) (by decide), h.group (p := Obj.GROUP_WORK_BASE) (by decide),
    h.group (p := Obj.GROUP_MOM1_BASE) (by decide), h.group (p := Obj.GROUP_MOM2_BASE) (by decide),
    h.group (p := Obj.GROUP_EPS) (by decide), h.group (p := Obj.GROUP_WROUND) (by decide),
    h.group (p := Obj.GROUP_WORK_TID) (by decide), h.group (p := Obj.GROUP_KEY_ORG) (by decide)]

/-- The read of a learning-rate entry, where there is a table, changes nothing of clean memory. -/
theorem State.allClean.readIf (h : s.allClean) (n a : Nat) :
    (if n = 0 then (s, [], none) else s.readMem a 4) = (s, if n = 0 then [] else s.peek a 4, none) := by
  rw [State.readMem_clean _ _ _ (h.clean a 4)]
  split_ifs <;> rfl

theorem State.scalars_clean (h : s.allClean) (op : Op) :
    s.scalars op = (s, (s.scalars op).2.1, (s.scalars op).2.2.1, none) := by
  unfold State.scalars
  dsimp only
  rw [h.readIf]

theorem State.scalars_fields (h : s.allClean) (op : Op) : (s.scalars op).2.1.group = updGroup op.desc ∧
    (s.scalars op).2.1.t = (s.getO Obj.GROUP_STEP (updGroup op.desc) + 1) % 2 ^ 32 ∧
    (s.scalars op).2.1.ws = s.getI Obj.GROUP_WSCALE (updGroup op.desc) ∧
    (s.scalars op).2.1.done = 0 ∧ (s.scalars op).2.1.census = 0 := by
  unfold State.scalars
  dsimp only
  rw [h.readIf]
  exact ⟨rfl, rfl, rfl, rfl, rfl⟩

/-- The scalars of a step are the same where memory and the group's objects are. -/
theorem State.sameRule.scalars (h : s.sameRule t) (hs : s.allClean) (ht : t.allClean) (op : Op) :
    (t.scalars op).2.1 = (s.scalars op).2.1 := by
  unfold State.scalars State.getI
  dsimp only
  rw [hs.readIf, ht.readIf, State.peek_of_mem h.mem]
  dsimp only
  rw [h.group (p := Obj.GROUP_BETA1) (by decide), h.group (p := Obj.GROUP_BETA2) (by decide),
    h.group (p := Obj.GROUP_POW1) (by decide), h.group (p := Obj.GROUP_POW2) (by decide),
    h.group (p := Obj.GROUP_LRT_LEN) (by decide), h.group (p := Obj.GROUP_LR) (by decide),
    h.group (p := Obj.GROUP_LRT_BASE) (by decide), h.group (p := Obj.GROUP_LRT_STEP0) (by decide),
    h.group (p := Obj.GROUP_WDECAY) (by decide), h.group (p := Obj.GROUP_STEP) (by decide),
    h.group (p := Obj.GROUP_WSCALE) (by decide)]

end

end Sys2Proof.Machine

namespace Sys2Proof.Machine

/-! ### What holds and the accounts of an engine leave (R214, R224) -/

section
variable {s t u v : State} {id : Nat} {op : Op} {r : UpdRun}

theorem State.onlyHold.mem (h : s.onlyHold t) : t.mem = s.mem := by rw [h]

theorem State.onlyHold.chk (h : s.onlyHold t) : t.chk = s.chk := by rw [h]

theorem State.onlyHold.op? (h : s.onlyHold t) (k : Nat) : t.op? k = s.op? k := by
  rw [h]
  rfl

theorem State.sameRule_judge (s : State) (n : Nat) : s.sameRule (s.judge n) :=
  ⟨(State.onlyHold_judge s n).mem, fun _ hk => State.sameKey_judge s n fun e => hk (List.mem_append_right _ e)⟩

theorem State.onlyHold_judgeHeld (s : State) : s.onlyHold s.judgeHeld := .foldl (fun t _ => State.onlyHold_judge t _) _ s

theorem State.sameKey_judgeHeld {k : Nat} (s : State) (h : k ∉ holdKeys) : State.sameKey k s s.judgeHeld :=
  .foldl (fun t _ => State.sameKey_judge t _ h) _ s

theorem State.onlyObj_updFlags (s : State) (g fl sats : Nat) : s.onlyObj (s.updFlags g fl sats) := by
  unfold State.updFlags
  extract_lets a
  have ha : s.onlyObj a := .ite (State.onlyObj_orO ..) (State.onlyObj_orO ..)
  exact .ite ha (ha.trans ((State.onlyObj_incO a _ _ _ _).trans (State.onlyObj_incO _ _ _ _ _)))

theorem State.sameKey_updFlags {k : Nat} (s : State) (g fl sats : Nat) (h : k ∉ engineKeys) :
    State.sameKey k s (s.updFlags g fl sats) := by
  simp only [engineKeys, List.mem_append, List.mem_cons, not_or] at h
  obtain ⟨⟨hcd0, hcd1, hsats, htotal, -⟩, -⟩ := h
  unfold State.updFlags
  extract_lets a
  have ha : State.sameKey k s a := .ite (State.sameKey_orO _ _ _ _ _ hcd0) (State.sameKey_orO _ _ _ _ _ hcd1)
  exact .ite ha (ha.trans ((State.sameKey_incO a _ _ _ _ hsats).trans (State.sameKey_incO _ _ _ _ _ htotal)))

theorem State.sameRule_updFlags (s : State) (g fl sats : Nat) : s.sameRule (s.updFlags g fl sats) :=
  ⟨(State.onlyObj_updFlags s g fl sats).mem, fun _ hk => State.sameKey_updFlags s g fl sats hk⟩

/-- A finite gradient, or one of a group that takes all, is never late (R222). -/
theorem State.lateNonFinite_passes {e gin : Nat} (h : f32.isFinite gin = true ∨ s.getO Obj.GROUP_NAN_POLICY r.group = 1) :
    s.lateNonFinite op r e gin = s := by
  refine if_neg fun hlate => ?_
  obtain ⟨hpolicy, hfinite⟩ := hlate
  rcases h with h | h
  · rw [h] at hfinite
    cases hfinite
  · exact hpolicy h

theorem State.sameKey_coreFailed {k : Nat} (s : State) (op : Op) (h : k < 0xA000 * 256) :
    State.sameKey k s (s.coreFailed op) := by
  have hne : ∀ p : ObjDef, p.index = 0xA000 → k ≠ p.key op.unit := fun p hp => by
    unfold ObjDef.key
    omega
  unfold State.coreFailed
  exact .ite ((State.sameKey_incO s _ _ _ _ (hne _ rfl)).trans (State.sameKey_setO _ _ _ _ _ (hne _ rfl))) (.refl s)

theorem State.onlyHold.allClean (h : s.onlyHold t) (hs : s.allClean) : t.allClean := fun c => by
  rw [h.chk]
  exact hs c

/-! ### The ends of a step (R215, R219 to R221) -/

/-- The bytes of the working descriptor of a group whose working scale is managed (R210, R225). -/
def State.inWorkDesc (s : State) (g y : Nat) : Prop :=
  s.getO Obj.GROUP_WSCALE_MODE g = 1 ∧ s.getO Obj.GROUP_WORK_DESC g ≤ y ∧ y < s.getO Obj.GROUP_WORK_DESC g + 32

theorem State.setSexp_clean (h : s.allClean) (a : Nat) (e : Int) :
    ∃ bs : List Byte, bs.length = 32 ∧ s.setSexp a e = (s.poke a bs, none) := by
  unfold State.setSexp
  rw [State.readMem_clean _ _ _ (h.clean a 32)]
  exact ⟨_, leBytes_length _ _, State.writeMem_clean _ h _ _⟩

/-- From s to t operation id has completed its step, which its run r describes (R215, R222). -/
structure State.stepEnded (s : State) (id : Nat) (op : Op) (r : UpdRun) (t : State) : Prop where
  here : t.op? id = some { op with phase := .executed }
  last : t.getO Obj.GROUP_LAST_STEP r.group = 2 ^ 32 + op.step
  census : t.getO Obj.GROUP_CENSUS_LAST r.group = r.census % 2 ^ 64
  keys : ∀ k, k ≠ Obj.GROUP_LAST_STEP.key r.group → k ≠ Obj.GROUP_CENSUS_LAST.key r.group → State.sameKey k s t
  mem : t.mem = s.mem

theorem ObjDef.key_ne {p q : ObjDef} (h : p.index = q.index ∧ p.sub ≠ q.sub) (g : Nat) : p.key g ≠ q.key g := by
  obtain ⟨hindex, hsub⟩ := h
  unfold ObjDef.key
  omega

theorem State.stepEnded_worked (s : State) (id : Nat) (op : Op) (r : UpdRun) :
    s.stepEnded id op r ((s.stepped op r).worked id op none) where
  here := State.op_setOp_same ..
  last := (State.getO_setO_ne _ _ _ _ _ _ _ _ (ObjDef.key_ne (by decide) _)).trans (State.getO_setO_same ..)
  census := State.getO_setO_same ..
  keys _ hlast hcensus := (State.sameKey_setO s _ _ _ _ hlast).trans
    (State.sameKey_setO (s.setO Obj.GROUP_LAST_STEP (2 ^ 32 + op.step) r.group) _ _ _ _ hcensus)
  mem := rfl

/-- Of a group's objects all are kept but GROUP_LAST_STEP and GROUP_CENSUS_LAST, at subindices 0x25 and 0x27. -/
theorem State.stepEnded.group (h : s.stepEnded id op r t) {p : ObjDef} (hp : p.index = 0x6100 ∧ p.sub ≠ 0x25 ∧ p.sub ≠ 0x27) :
    t.getO p r.group = s.getO p r.group := by
  obtain ⟨hindex, hlast, hcensus⟩ := hp
  exact (h.keys _ (ObjDef.key_ne ⟨hindex, hlast⟩ _) (ObjDef.key_ne ⟨hindex, hcensus⟩ _)).getO

/-- The step count and the powers of a group after a step (R215). -/
def State.advanced (s : State) (r : UpdRun) : State :=
  ((s.setO Obj.GROUP_STEP r.t r.group).setO Obj.GROUP_POW1 r.p1 r.group).setO Obj.GROUP_POW2 r.p2 r.group

theorem State.advanced_results (s : State) (r : UpdRun) : (s.advanced r).getO Obj.GROUP_STEP r.group = r.t ∧
    (s.advanced r).getO Obj.GROUP_POW1 r.group = r.p1 ∧ (s.advanced r).getO Obj.GROUP_POW2 r.group = r.p2 := by
  refine ⟨?_, ?_, State.getO_setO_same ..⟩
  · exact (State.getO_setO_ne _ _ _ _ _ _ _ _ (ObjDef.key_ne (by decide) _)).trans
      ((State.getO_setO_ne _ _ _ _ _ _ _ _ (ObjDef.key_ne (by decide) _)).trans (State.getO_setO_same ..))
  · exact (State.getO_setO_ne _ _ _ _ _ _ _ _ (ObjDef.key_ne (by decide) _)).trans (State.getO_setO_same ..)

theorem groupKey.ne {k : Nat} (h : ¬groupKey k) {p : ObjDef} (hp : p.inGroup) (g : Nat) :
    k ≠ p.key g := fun e => h (e ▸ ObjDef.groupKey_key hp g)

theorem State.sameKey_advanced {k : Nat} (s : State) (r : UpdRun) (h : ¬groupKey k) : State.sameKey k s (s.advanced r) :=
  (State.sameKey_setO s _ _ _ _ (groupKey.ne h (by decide) _)).trans
    ((State.sameKey_setO _ _ _ _ _ (groupKey.ne h (by decide) _)).trans
      (State.sameKey_setO _ _ _ _ _ (groupKey.ne h (by decide) _)))

/-- The last element of an applied step: the working descriptor takes the scale, then the values of the step are recorded. -/
theorem State.updEnd_clean (h : s.allClean) (id : Nat) (op : Op) (r : UpdRun) :
    ∃ u : State, u.obj = s.obj ∧ (∀ y, ¬s.inWorkDesc r.group y → u.byte y = s.byte y) ∧
      s.updEnd id op r = ((u.advanced r).stepped op r).worked id op none := by
  unfold State.updEnd
  dsimp only
  by_cases hmode : s.getO Obj.GROUP_WSCALE_MODE r.group = 1
  · obtain ⟨bs, hlen, hset⟩ := State.setSexp_clean h (s.getO Obj.GROUP_WORK_DESC r.group) r.ws
    rw [if_pos hmode, hset]
    refine ⟨(s.poke (s.getO Obj.GROUP_WORK_DESC r.group) bs).recordWork r, rfl, fun y hy => ?_, ?_⟩
    · have hout : ¬(s.getO Obj.GROUP_WORK_DESC r.group ≤ y ∧ y < s.getO Obj.GROUP_WORK_DESC r.group + 32) :=
        fun hin => hy ⟨hmode, hin⟩
      exact State.byte_poke_out s _ bs y (by omega)
    · dsimp only
      rw [if_pos (by exact hmode)]
      rfl
  · rw [if_neg hmode]
    refine ⟨s, rfl, fun _ _ => rfl, ?_⟩
    dsimp only
    rw [if_neg hmode]
    rfl

/-- From s to t operation id has applied its step: the step count and the powers have advanced, and of memory only the
working descriptor is new (R215, R225). -/
structure State.stepApplied (s : State) (id : Nat) (op : Op) (r : UpdRun) (t : State) : Prop where
  here : t.op? id = some { op with phase := .executed }
  step : t.getO Obj.GROUP_STEP r.group = r.t
  pow1 : t.getO Obj.GROUP_POW1 r.group = r.p1
  pow2 : t.getO Obj.GROUP_POW2 r.group = r.p2
  last : t.getO Obj.GROUP_LAST_STEP r.group = 2 ^ 32 + op.step
  census : t.getO Obj.GROUP_CENSUS_LAST r.group = r.census % 2 ^ 64
  keys : ∀ k, ¬groupKey k → State.sameKey k s t
  bytes : ∀ y, ¬s.inWorkDesc r.group y → t.byte y = s.byte y

theorem State.stepApplied_updEnd (h : s.allClean) (id : Nat) (op : Op) (r : UpdRun) :
    s.stepApplied id op r (s.updEnd id op r) := by
  obtain ⟨u, hobj, hbytes, heq⟩ := State.updEnd_clean h id op r
  have hdone := State.stepEnded_worked (u.advanced r) id op r
  rw [← heq] at hdone
  obtain ⟨hstep, hpow1, hpow2⟩ := u.advanced_results r
  exact
    { here := hdone.here
      step := (hdone.group (by decide)).trans hstep
      pow1 := (hdone.group (by decide)).trans hpow1
      pow2 := (hdone.group (by decide)).trans hpow2
      last := hdone.last
      census := hdone.census
      keys := fun k hk => (State.sameKey_of_obj hobj).trans ((State.sameKey_advanced u r hk).trans
        (hdone.keys k (groupKey.ne hk (by decide) _) (groupKey.ne hk (by decide) _)))
      bytes := fun y hy => (congrArg (SMap.get 0 · y) hdone.mem).trans (hbytes y hy) }

/-- SKIP completes the step and counts it (R220). -/
theorem State.updSkip_skips (hpolicy : s.getO Obj.GROUP_NAN_POLICY r.group = 0) (id : Nat) (op : Op) :
    ((s.incO Obj.GROUP_SKIPS 1 r.group).incO Obj.UPDATE_SKIPS).stepEnded id op r (s.updSkip id op r) := by
  have hskip : s.updSkip id op r =
      (((s.incO Obj.GROUP_SKIPS 1 r.group).incO Obj.UPDATE_SKIPS).stepped op r).worked id op none := if_pos hpolicy
  rw [hskip]
  exact State.stepEnded_worked ..

/-- FAULT ends the operation after its one record (R221). -/
theorem State.updSkip_faults (hpolicy : s.getO Obj.GROUP_NAN_POLICY r.group ≠ 0) (id : Nat) (op : Op) {c : Rec}
    (hc : c = { reason := 0x0105, source := op.unit, tag := opTag op.desc, d0 := r.group, d1 := r.census % 2 ^ 32 }) :
    (s.updSkip id op r).op? id = none ∧ (∀ {u : State}, u.posted c (s.post c) → u.posted c (s.updSkip id op r)) ∧
      ∀ k, k ∉ postKeys → k ∉ leaveKeys → k ≠ Obj.UPDATE_FAULTS.key → k < 0xA000 * 256 →
        State.sameKey k s (s.updSkip id op r) := by
  have hfault : s.updSkip id op r = (((s.post c).incO Obj.UPDATE_FAULTS).coreFailed op).endOp id op := by
    rw [hc]
    exact if_neg hpolicy
  have hcore : ∀ k, k ≠ Obj.UPDATE_FAULTS.key → k < 0xA000 * 256 →
      State.sameKey k (s.post c) (((s.post c).incO Obj.UPDATE_FAULTS).coreFailed op) := fun k hne hlt =>
    (State.sameKey_incO (s.post c) _ _ _ _ hne).trans (State.sameKey_coreFailed _ op hlt)
  obtain ⟨hgone, hlog, hkeys⟩ := State.endOp_results (((s.post c).incO Obj.UPDATE_FAULTS).coreFailed op) id op
  have hcount := (State.onlyObj_incO (s.post c) Obj.UPDATE_FAULTS 1 0 0).trans (State.onlyObj_coreFailed _ op)
  rw [hfault]
  refine ⟨hgone, fun hpost => ?_, fun k hk hleave hne hlt => ?_⟩
  · exact hpost.later (hlog.trans (congrArg State.log hcount :))
      ((hcore _ (by decide) (by decide)).trans (hkeys _ (by decide)))
      ((hcore _ (by decide) (by decide)).trans (hkeys _ (by decide)))
  · exact (State.sameKey_post s c hk).trans ((hcore k hne hlt).trans (hkeys k hleave))

/-- A step that cannot go on leaves its operation failing (R221, R229). -/
theorem State.updFail_results (s : State) (id : Nat) (op : Op) (addr cause : Nat) :
    (s.updFail id op addr cause).op? id = some { op with phase := .failing addr cause (updGroup op.desc) } ∧
      (s.updFail id op addr cause).mem = s.mem := by
  unfold State.updFail
  dsimp only
  have hheld := State.onlyHold_judgeHeld (State.failOp (if opCode op.desc = 1 then
    { s with updDiscard := (updFirst op.desc, updOffset op.desc, updLast op.desc,
      s.getO Obj.GROUP_ELEMS (updGroup op.desc)) :: s.updDiscard } else s) id op addr cause (updGroup op.desc))
  refine ⟨(hheld.op? id).trans (State.op_setOp_same ..), hheld.mem.trans ?_⟩
  unfold State.failOp
  split_ifs <;> rfl

end

end Sys2Proof.Machine

namespace Sys2Proof.Machine

/-! ### What the bales of an armed step allow (R215, R219, R263) -/

section
variable {s t u : State} {id : Nat} {o op : Op} {r : UpdRun}

/-- The bales of an update operation (R209). -/
def Op.bales (o : Op) : List Nat := baleSpan (updFirst o.desc) (updLast o.desc)

/-- The operation is armed with this run. -/
structure State.armedWith (s : State) (id : Nat) (op : Op) (r : UpdRun) : Prop where
  here : s.op? id = some op
  executing : op.phase = .executing
  run : op.upd = some r

theorem State.updAdvance_aborted (h : s.armedWith id op r)
    (habort : ∃ n ∈ op.bales, n ∈ s.balesAborted) :
    s.updAdvance id = s.updFail id op 0 5 := by
  obtain ⟨n, hspan, hn⟩ := habort
  have hany : s.balesAborted.any (op.bales.contains ·) = true :=
    List.any_eq_true.2 ⟨n, hn, List.contains_iff_mem.2 hspan⟩
  unfold State.updAdvance
  simp only [h.here, h.executing, h.run]
  rw [if_pos (by exact hany)]

theorem not_any_aborted {ns aborted : List Nat} (h : ∀ n ∈ ns, n ∉ aborted) : ¬aborted.any (ns.contains ·) = true := fun hany => by
  obtain ⟨n, hn, hspan⟩ := List.any_eq_true.1 hany
  exact h n (List.contains_iff_mem.1 hspan) hn

theorem State.updAdvance_waits (h : s.armedWith id op r)
    (hkept : ∀ n ∈ op.bales, n ∉ s.balesAborted)
    (hopen : ∃ n ∈ op.bales, s.baleDone n = false) : s.updAdvance id = s := by
  obtain ⟨n, hspan, hn⟩ := hopen
  have hall : ¬op.bales.all s.baleDone = true := fun hall => by
    rw [List.all_eq_true.1 hall n hspan] at hn
    cases hn
  unfold State.updAdvance
  simp only [h.here, h.executing, h.run]
  rw [if_neg (by exact not_any_aborted hkept), if_neg (by exact hall)]

/-- Where every bale has ended and every element has been applied, the step ends with the census of its bales (R215). -/
theorem State.updAdvance_ends (h : s.armedWith id op r)
    (hkept : ∀ n ∈ op.bales, n ∉ s.balesAborted)
    (hended : ∀ n ∈ op.bales, s.baleDone n = true) (hdecided : r.decided = true)
    (hdone : s.getO Obj.GROUP_ELEMS r.group ≤ r.done) : ∃ c, s.updAdvance id = s.updEnd id op { r with census := c } := by
  unfold State.updAdvance
  simp only [h.here, h.executing, h.run]
  rw [if_neg (by exact not_any_aborted hkept), if_pos (List.all_eq_true.2 (by exact hended)), if_neg (by omega),
    if_neg fun e => by rw [hdecided] at e; cases e.1]
  simp only [hdecided, if_true]
  rw [if_pos hdone]
  exact ⟨_, rfl⟩

/-! ### Arming a GROUP_STEP (R207, R211, R213) -/

/-- The run with which an operation is armed: a group that takes all gradients has decided (R219). -/
def State.firstRun (s : State) (op : Op) : UpdRun :=
  if s.getO Obj.GROUP_NAN_POLICY (updGroup op.desc) = 1 then { (s.scalars op).2.1 with decided := true }
  else { group := updGroup op.desc, ws := s.getI Obj.GROUP_WSCALE (updGroup op.desc) }

/-- The decision stands in the operation; nothing has been applied yet. -/
theorem State.updDecide_clean (h : s.allClean) (hupd : op.upd = none) : (s.updDecide id op 0 0).1 =
    (s.updFlags (updGroup op.desc) (s.scalars op).2.2.1 0).setOp id
      { op with upd := some { (s.scalars op).2.1 with decided := true } } := by
  obtain ⟨hgroup, -, -, hdone, hcensus⟩ := State.scalars_fields h op
  unfold State.updDecide
  rw [State.scalars_clean h op]
  generalize (s.scalars op).2.1 = r at hgroup hdone hcensus ⊢
  simp only [hupd, hgroup, hdone, hcensus]

/-- GROUP_STEP arms its operation, and then its bales tell what is to be done. -/
theorem groupRun_arms (h : s.allClean) (hroom : s.armed (op.die s) id < 16) (hupd : op.upd = none) :
    ∃ v, s.onlyHold v ∧ s.sameRule v ∧
      groupRun s id op = (v.setOp id { op with upd := some (s.firstRun op) }).updAdvance id := by
  have hjudge := State.onlyHold_judge s op.table
  have hrule := State.sameRule_judge s op.table
  have hclean := hjudge.allClean h
  have hpolicy := hrule.group (p := Obj.GROUP_NAN_POLICY) (by decide) (updGroup op.desc)
  unfold groupRun State.firstRun
  rw [if_neg (by omega)]
  dsimp only
  by_cases hall : s.getO Obj.GROUP_NAN_POLICY (updGroup op.desc) = 1
  · rw [if_pos (hpolicy.trans hall), if_pos hall, State.updDecide_clean hclean hupd, hrule.scalars h hclean]
    exact ⟨_, hjudge.trans (State.onlyObj_updFlags _ _ _ _).hold, hrule.trans (State.sameRule_updFlags _ _ _ _), rfl⟩
  · have hscale : (s.judge op.table).getI Obj.GROUP_WSCALE (updGroup op.desc) = s.getI Obj.GROUP_WSCALE (updGroup op.desc) :=
      congrArg (toSigned 32) (hrule.group (by decide) _)
    rw [if_neg (fun e => hall (hpolicy.symm.trans e)), if_neg hall, hscale]
    exact ⟨_, hjudge, hrule, rfl⟩

theorem groupRun_waits (h : 16 ≤ s.armed (op.die s) id) : groupRun s id op = s.blockOp id op := if_pos h

end

end Sys2Proof.Machine

namespace Sys2Proof.Machine

/-! ### GROUP_STEP (R207, R211, R263) -/

section
variable {s t u v : State} {id : Nat} {o op : Op} {r : UpdRun}

theorem State.sameRule_atStep4 (h : s.chk = []) (id : Nat) (o : Op) : s.sameRule (s.atStep4 id o) :=
  ⟨(State.atStep4_clean h id o).1, fun _ _ => State.sameKey_of_obj (by rw [State.atStep4_eq h]; rfl)⟩

theorem State.armedWith_setOp (s : State) (id : Nat) (h : op.phase = .executing) (hrun : op.upd = some r) :
    (s.setOp id op).armedWith id op r := ⟨State.op_setOp_same .., h, hrun⟩

theorem execGroupStep_begins (hrun : s.mayRun id o 6 1) :
    exec (.groupStep id) s = .next (groupRun (s.atStep4 id o) id (s.begun o)) :=
  congrArg _ (State.runOp_begins s id o 6 1 _ _ hrun)

theorem execGroupStepLocal_begins (hrun : s.mayRun id o 6 2) :
    exec (.groupStepLocal id) s = .next (localRun (s.atStep4 id o) id (s.begun o)) :=
  congrArg _ (State.runOp_begins s id o 6 2 _ _ hrun)

/-- The operation that GROUP_STEP arms. -/
def State.armedOp (s : State) (id : Nat) (o : Op) : Op :=
  { s.begun o with upd := some ((s.atStep4 id o).firstRun (s.begun o)) }

/-- An operation with room on its engine is armed; bales, memory and the group's objects are as they were. -/
theorem execGroupStep_arms (h : s.chk = []) (hrun : s.mayRun id o 6 1) (hupd : o.upd = none)
    (hroom : (s.atStep4 id o).armed ((s.begun o).die (s.atStep4 id o)) id < 16) :
    ∃ v, s.sameRule v ∧ v.balesAborted = s.balesAborted ∧ v.balesDone = s.balesDone ∧
      (v.setOp id (s.armedOp id o)).armedWith id (s.armedOp id o) ((s.atStep4 id o).firstRun (s.begun o)) ∧
      exec (.groupStep id) s = .next ((v.setOp id (s.armedOp id o)).updAdvance id) := by
  obtain ⟨v, hhold, hrule, heq⟩ := groupRun_arms (State.atStep4_clean h id o).2 hroom hupd
  have hstart := State.atStep4_eq h id o
  exact ⟨v, (State.sameRule_atStep4 h id o).trans hrule,
    (congrArg State.balesAborted hhold :).trans (congrArg State.balesAborted hstart :),
    (congrArg State.balesDone hhold :).trans (congrArg State.balesDone hstart :),
    v.armedWith_setOp id rfl rfl, (execGroupStep_begins hrun).trans (congrArg _ heq)⟩

theorem State.baleDone_congr (h : t.balesDone = s.balesDone) (n : Nat) : t.baleDone n = s.baleDone n := by
  unfold State.baleDone
  rw [h]

theorem State.firstRun_atStep4 (h : s.chk = []) (id : Nat) (o : Op) :
    (s.getO Obj.GROUP_NAN_POLICY (updGroup o.desc) = 1 → (s.atStep4 id o).firstRun (s.begun o) =
      { ((s.atStep4 id o).scalars (s.begun o)).2.1 with decided := true }) ∧
    (s.getO Obj.GROUP_NAN_POLICY (updGroup o.desc) ≠ 1 → (s.atStep4 id o).firstRun (s.begun o) =
      { group := updGroup o.desc, ws := s.getI Obj.GROUP_WSCALE (updGroup o.desc) }) := by
  have hkeep := fun (p : ObjDef) hp => (State.sameRule_atStep4 h id o).group (p := p) hp (updGroup o.desc)
  have hpolicy := hkeep Obj.GROUP_NAN_POLICY (by decide)
  have hscale : (s.atStep4 id o).getI Obj.GROUP_WSCALE (updGroup o.desc) = s.getI Obj.GROUP_WSCALE (updGroup o.desc) :=
    congrArg (toSigned 32) (hkeep Obj.GROUP_WSCALE (by decide))
  constructor
  · exact fun hall => if_pos (hpolicy.trans hall)
  · intro hsome
    rw [← hscale]
    exact if_neg fun e => hsome (hpolicy.symm.trans e)

/-! ### Applied elements (R214, R224) -/

/-- The state once n elements have been written and accounted for. -/
def State.elemsApplied (s : State) (ws : List (Nat × List Byte)) (g : Nat) (w : Work) (n : Nat) : State :=
  ((s.pokes ws).updFlags g w.flags w.sats).incO Obj.UPDATE_ELEMS_DONE n

theorem not_groupKey_elemsDone : ¬groupKey Obj.UPDATE_ELEMS_DONE.key := by
  unfold groupKey
  decide

/-- From s to t the values of every group are kept. -/
def State.sameGroups (s t : State) : Prop := ∀ k, groupKey k → State.sameKey k s t

theorem State.sameGroups.trans (h : s.sameGroups t) (h' : t.sameGroups u) : s.sameGroups u :=
  fun k hk => (h k hk).trans (h' k hk)

theorem State.sameGroups.group (h : s.sameGroups t) {p : ObjDef} (hp : p.inGroup) (g : Nat) :
    t.getO p g = s.getO p g := (h _ (ObjDef.groupKey_key hp g)).getO

theorem State.sameRule.groups (h : s.sameRule t) : s.sameGroups t := fun _ hk => h.keys _ hk.notMem_engineKeys

theorem State.sameGroups_elemsApplied (s : State) (ws : List (Nat × List Byte)) (g : Nat) (w : Work) (n : Nat) :
    s.sameGroups (s.elemsApplied ws g w n) := fun _ hk =>
  (State.sameKey_of_obj (congrArg State.obj (s.pokes_rest ws) :)).trans
    ((State.sameKey_updFlags _ g _ _ hk.notMem_engineKeys).trans
      (State.sameKey_incO _ _ _ _ _ fun e => not_groupKey_elemsDone (e ▸ hk)))

theorem State.onlyObj_elemsApplied (s : State) (ws : List (Nat × List Byte)) (g : Nat) (w : Work) (n : Nat) :
    (s.pokes ws).onlyObj (s.elemsApplied ws g w n) := (State.onlyObj_updFlags ..).trans (State.onlyObj_incO ..)

theorem State.onlyWork_elemsApplied (s : State) (ws : List (Nat × List Byte)) (g : Nat) (w : Work) (n : Nat) :
    s.onlyWork (s.elemsApplied ws g w n) := (s.onlyWork_pokes ws).trans (s.onlyObj_elemsApplied ws g w n).work

/-- The elements are counted (R224). -/
theorem State.getO_elemsApplied (h : s.sameRule u) (ws : List (Nat × List Byte)) (g : Nat) (w : Work) {n : Nat}
    (hn : s.getO Obj.UPDATE_ELEMS_DONE + n < 2 ^ 64) :
    (u.elemsApplied ws g w n).getO Obj.UPDATE_ELEMS_DONE = s.getO Obj.UPDATE_ELEMS_DONE + n := by
  have hbefore : ((u.pokes ws).updFlags g w.flags w.sats).getO Obj.UPDATE_ELEMS_DONE = s.getO Obj.UPDATE_ELEMS_DONE :=
    (State.sameKey_updFlags (k := Obj.UPDATE_ELEMS_DONE.key) _ g _ _ (by decide)).getO.trans
      ((State.getO_pokes ..).trans (h.keys _ (by decide)).getO)
  rw [← hbefore] at hn ⊢
  exact State.getO_incO_same hn

theorem State.inWorkDesc_congr (h : s.sameGroups t) (g y : Nat) : t.inWorkDesc g y ↔ s.inWorkDesc g y := by
  unfold State.inWorkDesc
  rw [h.group (by decide), h.group (by decide)]

/-- What the elements wrote stays written when the working descriptor takes its scale. -/
theorem State.wrote_elemsApplied {ws : List (Nat × List Byte)} {g n : Nat} {w : Work} (h : s.sameRule u)
    (hbytes : ∀ y, ¬(u.elemsApplied ws g w n).inWorkDesc g y → t.byte y = (u.elemsApplied ws g w n).byte y) :
    s.wrote ws (s.inWorkDesc g) t := by
  have hgroups := h.groups.trans (u.sameGroups_elemsApplied ws g w n)
  refine ((u.wrote_pokes ws (s.inWorkDesc g)).later fun y hy => ?_).of_mem h.mem
  exact (hbytes y fun e => hy ((State.inWorkDesc_congr hgroups g y).1 e)).trans ((u.onlyObj_elemsApplied ws g w n).byte y)

/-! ### GROUP_STEP_LOCAL (R209, R220 to R222) -/

/-- The number of elements of a tensor that are no finite numbers (R219). -/
def State.nonFinite (s : State) (x : TD) : Nat := (x.list.filter fun i => !x.flt.isFinite (s.el x i)).length

/-- What GROUP_STEP_LOCAL writes for the elements of its gradient in order (R209, R214). -/
def State.localWrites (s : State) (op : Op) (r : UpdRun) : List (Nat × List Byte) :=
  (tensor op.got.list 0).list.zipIdx.flatMap fun p =>
    (s.updElem op r p.2 (s.val (tensor op.got.list 0) (opStrict op.desc) p.1).1).writes

theorem State.sameRule.nonFinite (h : s.sameRule t) (x : TD) : t.nonFinite x = s.nonFinite x := by
  unfold State.nonFinite
  simp only [State.el_of_mem h.mem]

theorem State.sameRule.localWrites (h : s.sameRule t) (op : Op) (r : UpdRun) : t.localWrites op r = s.localWrites op r := by
  unfold State.localWrites
  simp only [h.updElem, h.val]

theorem localRun_waits (h : 16 ≤ s.armed (op.die s) id) : localRun s id op = s.blockOp id op := if_pos h

theorem localRun_skips (h : s.allClean) (hroom : s.armed (op.die s) id < 16)
    (hpolicy : s.getO Obj.GROUP_NAN_POLICY (updGroup op.desc) ≠ 1) (hbad : s.nonFinite (tensor op.got.list 0) ≠ 0) :
    localRun s id op = (s.judge op.table).updSkip id op
      { group := updGroup op.desc, census := s.nonFinite (tensor op.got.list 0) } := by
  have hrule := State.sameRule_judge s op.table
  have hclean := (State.onlyHold_judge s op.table).allClean h
  have hkept : (s.judge op.table).getO Obj.GROUP_NAN_POLICY (updGroup op.desc) ≠ 1 := fun e =>
    hpolicy ((hrule.group (by decide) _).symm.trans e)
  rw [← hrule.nonFinite] at hbad ⊢
  unfold localRun
  rw [if_neg (by omega)]
  dsimp only
  rw [State.touch_clean _ hclean, if_neg hkept]
  dsimp only
  exact if_pos ⟨hkept, hbad⟩

/-- The piece of one element of the gradient: the element is read, and its result written. -/
def State.localPiece (s : State) (op : Op) (r : UpdRun) (x : TD) (p : List Nat × Nat) : Piece :=
  ((x.addr p.1, x.esz) :: (s.elemPiece op r p.2 0).1, fun (s : State) =>
    let y := s.val x (opStrict op.desc) p.1
    let k := s.updElem op r p.2 y.1
    { k with flags := k.flags ||| y.2 })

/-- What GROUP_STEP_LOCAL does once the step is decided and its scalars are noted. -/
def State.localStep (s : State) (id : Nat) (op : Op) (r : UpdRun) (x : TD) : State :=
  let ran := s.runPieces (x.list.zipIdx.map (s.localPiece op r x))
  let u := ran.1.updFlags (updGroup op.desc) ran.2.1.flags ran.2.1.sats
  match ran.2.2 with
  | some a => (u.incO Obj.UPDATE_ELEMS_DONE (ran.2.1.writes.length / 4)).updFail id op a 1
  | none => (x.list.zipIdx.foldl
      (fun (t : State) (p : List Nat × Nat) => t.lateNonFinite op r p.2 (s.val x (opStrict op.desc) p.1).1)
      (u.incO Obj.UPDATE_ELEMS_DONE x.elems)).updEnd id op (r.applied x.elems ran.2.1)

/-- The step is decided where no element stops it (R219). -/
theorem localRun_decides (h : s.allClean) (hroom : s.armed (op.die s) id < 16)
    (hpolicy : s.getO Obj.GROUP_NAN_POLICY (updGroup op.desc) = 1 ∨ s.nonFinite (tensor op.got.list 0) = 0) :
    ∃ u, s.onlyHold u ∧ s.sameRule u ∧ localRun s id op = u.localStep id op
      { (s.scalars op).2.1 with census := s.nonFinite (tensor op.got.list 0) } (tensor op.got.list 0) := by
  have hjudge := State.onlyHold_judge s op.table
  have hrule := State.sameRule_judge s op.table
  have hclean := hjudge.allClean h
  have hgo : ¬((s.judge op.table).getO Obj.GROUP_NAN_POLICY (updGroup op.desc) ≠ 1 ∧
      (s.judge op.table).nonFinite (tensor op.got.list 0) ≠ 0) := by
    rw [hrule.group (by decide), hrule.nonFinite]
    omega
  have hscalars := State.scalars_clean hclean op
  rw [hrule.scalars h hclean] at hscalars
  rw [← hrule.nonFinite]
  unfold State.nonFinite at hgo ⊢
  unfold localRun
  rw [if_neg (by omega)]
  dsimp only
  rw [State.touch_clean _ hclean, ite_self]
  dsimp only
  rw [if_neg hgo, hscalars]
  exact ⟨_, hjudge.trans (State.onlyObj_updFlags _ (updGroup op.desc) _ 0).hold,
    hrule.trans (State.sameRule_updFlags _ _ _ _), rfl⟩

theorem State.writesOf_localPiece (s : State) (op : Op) (r : UpdRun) :
    writesOf s ((tensor op.got.list 0).list.zipIdx.map (s.localPiece op r (tensor op.got.list 0))) = s.localWrites op r := by
  unfold writesOf
  rw [List.flatMap_map]
  rfl

theorem foldl_eq_self {α β : Type} {f : β → α → β} {b : β} {l : List α} (h : ∀ a ∈ l, f b a = b) : l.foldl f b = b := by
  induction l with
  | nil => rfl
  | cons a l ih =>
    rw [List.foldl_cons, h a List.mem_cons_self]
    exact ih fun c hc => h c (List.mem_cons_of_mem _ hc)

/-- On clean memory every element is written, and then the step ends. -/
theorem State.localStep_clean (h : s.allClean) (hgroup : r.group = updGroup op.desc)
    (hfinite : ∀ i ∈ (tensor op.got.list 0).list, f32.isFinite (s.val (tensor op.got.list 0) (opStrict op.desc) i).1 = true ∨
      s.getO Obj.GROUP_NAN_POLICY (updGroup op.desc) = 1) :
    ∃ w, s.localStep id op r (tensor op.got.list 0) =
      (s.elemsApplied (s.localWrites op r) (updGroup op.desc) w (tensor op.got.list 0).elems).updEnd id op (r.applied (tensor op.got.list 0).elems w) := by
  unfold State.localStep
  dsimp only
  rw [State.runPieces_clean s h, State.writesOf_localPiece]
  dsimp only
  generalize List.foldl Work.join {} _ = w
  refine ⟨w, congrArg (State.updEnd · id op _) (foldl_eq_self fun p hp => ?_)⟩
  refine State.lateNonFinite_passes ((hfinite p.1 (List.fst_mem_of_mem_zipIdx hp)).imp_right fun hpolicy => ?_)
  rw [hgroup]
  exact ((State.sameGroups_elemsApplied s _ _ _ _).group (by decide) _).trans hpolicy

/-- A decided step is applied to the whole gradient, and ends (R209, R215). -/
theorem localRun_applies (h : s.allClean) {x : TD} (hx : tensor op.got.list 0 = x) (hr : (s.scalars op).2.1 = r)
    (hroom : s.armed (op.die s) id < 16) (hpolicy : s.getO Obj.GROUP_NAN_POLICY (updGroup op.desc) = 1 ∨ s.nonFinite x = 0)
    (hfinite : ∀ i ∈ x.list, f32.isFinite (s.val x (opStrict op.desc) i).1 = true ∨
      s.getO Obj.GROUP_NAN_POLICY (updGroup op.desc) = 1) :
    ∃ u w, s.sameRule u ∧ (u.elemsApplied (s.localWrites op r) (updGroup op.desc) w x.elems).stepApplied id op
      (({ r with census := s.nonFinite x } : UpdRun).applied x.elems w) (localRun s id op) := by
  subst hx hr
  obtain ⟨u, hhold, hrule, hdecided⟩ := localRun_decides h hroom hpolicy
  have hclean := hhold.allClean h
  have hkept := hrule.group (p := Obj.GROUP_NAN_POLICY) (by decide) (updGroup op.desc)
  obtain ⟨w, hran⟩ := State.localStep_clean (id := id) hclean
    (r := { (s.scalars op).2.1 with census := s.nonFinite (tensor op.got.list 0) }) (State.scalars_fields h op).1 fun i hi => by
      rw [hrule.val, hkept]
      exact hfinite i hi
  refine ⟨u, w, hrule, ?_⟩
  rw [hdecided, hran, hrule.localWrites]
  refine State.stepApplied_updEnd (fun c => ?_) id op _
  rw [(State.onlyWork_elemsApplied ..).chk]
  exact hclean c

end

end Sys2Proof.Machine

namespace Sys2Proof.Machine

/-! ### An element reaches its engine (R212, R214) -/

section
variable {s t u v : State} {id e n p gin fl : Nat} {o op : Op} {r : UpdRun}

theorem Work.empty_join (w : Work) : ({} : Work).join w = w := by
  unfold Work.join
  simp only [List.nil_append, Nat.zero_or, Nat.zero_add]
  rfl

/-- Only the waiting elements and the operations of bales know that an element has been taken. -/
theorem State.consume_kept (s : State) (n p : Nat) :
    s.consume n p = { s with updWait := (s.consume n p).updWait, ops := (s.consume n p).ops } := by
  unfold State.consume
  split_ifs <;> rfl

theorem State.op_mapOps (s : State) (f : Op → Op) (id : Nat) :
    ({ s with ops := s.ops.map fun (q : Nat × Op) => (q.1, f q.2) } : State).op? id = (s.op? id).map f := by
  show ((s.ops.map fun (q : Nat × Op) => (q.1, f q.2)).find? fun q => decide (q.1 = id)).map (·.2) = _
  rw [List.find?_map, Option.map_map]
  exact (Option.map_map f (fun (q : Nat × Op) => q.2) _).symm

/-- An operation without a bale has no part in what is taken. -/
theorem State.op_consume (h : s.op? id = some o) (hbale : o.bale = none) (n p : Nat) : (s.consume n p).op? id = some o := by
  unfold State.consume
  split_ifs
  · exact h
  · rw [State.op_mapOps s (fun o => { o with bale := o.bale.map fun (b : Bale) =>
      if b.n = n ∧ b.started then { b with used := p :: b.used } else b }), h, Option.map_some, hbale]
    exact congrArg (fun b => some ({ o with bale := b } : Op)) hbale.symm

/-- An element that has not come, or waits for the decision of its policy, is not applied. -/
theorem execUpdateElementApply_idle (hop : s.op? id = some o) (hphase : o.phase = .executing) (hrun : o.upd = some r)
    (hdecided : r.decided = true) (he : e < s.getO Obj.GROUP_ELEMS r.group)
    (h : ∀ n p, s.elemPlace (updFirst o.desc) (updOffset o.desc) (updLast o.desc) e = some (n, p) →
      s.reduced n p (decide (s.getO Obj.GROUP_NAN_POLICY r.group = 1)) = none) :
    exec (.updateElementApply id e) s = .next s := by
  rw [exec_updateElementApply]
  unfold execUpdateElementApply
  simp only [hop, hphase, hrun]
  rw [if_neg (by simp only [hdecided, Bool.true_eq_false, false_or]; omega)]
  split
  · rfl
  · rename_i n p hplace
    rw [h n p hplace]

/-- What UPDATE_ELEMENT_APPLY does with an element that has been taken. -/
def State.applyElem (s : State) (id : Nat) (o : Op) (r : UpdRun) (e gin : Nat) : State :=
  let ran := s.runPieces [s.elemPiece o r e gin]
  match ran.2.2 with
  | some a => ran.1.updFail id o a 1
  | none =>
    let t := ((ran.1.updFlags r.group ran.2.1.flags ran.2.1.sats).incO Obj.UPDATE_ELEMS_DONE).lateNonFinite o r e gin
    match t.op? id with
    | none => t
    | some o => ((t.setOp id { o with upd := some (r.applied 1 ran.2.1) }).updAdvance id).judgeHeld

theorem execUpdateElementApply_takes (hop : s.op? id = some o) (hphase : o.phase = .executing) (hrun : o.upd = some r)
    (hdecided : r.decided = true) (he : e < s.getO Obj.GROUP_ELEMS r.group)
    (hplace : s.elemPlace (updFirst o.desc) (updOffset o.desc) (updLast o.desc) e = some (n, p))
    (hreduced : s.reduced n p (decide (s.getO Obj.GROUP_NAN_POLICY r.group = 1)) = some (gin, fl)) :
    exec (.updateElementApply id e) s =
      .next (((s.consume n p).orO Obj.REDUCE_FLAGS (fl % 128)).applyElem id o r e gin) := by
  rw [exec_updateElementApply]
  unfold execUpdateElementApply State.applyElem
  simp only [hop, hphase, hrun]
  rw [if_neg (by simp only [hdecided, Bool.true_eq_false, false_or]; omega), hplace]
  dsimp only
  rw [hreduced]
  dsimp only
  generalize State.runPieces _ _ = ran
  obtain ⟨t, w, _ | a⟩ := ran
  · dsimp only
    generalize State.lateNonFinite _ o r e gin = u
    cases u.op? id
    · rfl
    · rfl
  · rfl

/-- On clean memory the element is written and accounted for, and then the bales tell what is to be done. -/
theorem State.applyElem_clean (h : s.allClean) (hop : s.op? id = some o)
    (hfinite : f32.isFinite gin = true ∨ s.getO Obj.GROUP_NAN_POLICY r.group = 1) {w : Work}
    (hw : s.updElem o r e gin = w) : s.applyElem id o r e gin =
      (((s.elemsApplied w.writes r.group w 1).setOp id { o with upd := some (r.applied 1 w) }).updAdvance id).judgeHeld := by
  have hran : s.runPieces [s.elemPiece o r e gin] = (s.pokes w.writes, w, none) := by
    rw [State.runPieces_clean s h, ← hw]
    unfold writesOf
    rw [List.flatMap_singleton, List.map_singleton, List.foldl_cons, List.foldl_nil, Work.empty_join]
    rfl
  have hpass : (s.elemsApplied w.writes r.group w 1).lateNonFinite o r e gin = s.elemsApplied w.writes r.group w 1 :=
    State.lateNonFinite_passes (hfinite.imp_right fun hpolicy =>
      ((s.sameGroups_elemsApplied _ _ _ _).group (by decide) _).trans hpolicy)
  have hkeep : (s.elemsApplied w.writes r.group w 1).op? id = some o := by
    rw [State.onlyWork_elemsApplied s _ _ _ _]
    exact hop
  unfold State.applyElem
  rw [hran]
  unfold State.elemsApplied at hpass hkeep ⊢
  dsimp only
  rw [hpass, hkeep]

/-- From s to t an element of group g has been written and accounted for; the bales and the group are as they were. -/
structure State.elementApplied (s : State) (w : Work) (g : Nat) (t : State) : Prop where
  groups : s.sameGroups t
  counted : s.getO Obj.UPDATE_ELEMS_DONE + 1 < 2 ^ 64 → t.getO Obj.UPDATE_ELEMS_DONE = s.getO Obj.UPDATE_ELEMS_DONE + 1
  wrote : ∀ u : State, (∀ y, ¬t.inWorkDesc g y → u.byte y = t.byte y) → s.wrote w.writes (s.inWorkDesc g) u
  clean : t.allClean
  aborted : t.balesAborted = s.balesAborted
  ended : ∀ k, t.baleDone k = s.baleDone k

theorem execUpdateElementApply_applies (hchk : s.chk = []) (hop : s.op? id = some o) (hphase : o.phase = .executing)
    (hrun : o.upd = some r) (hbale : o.bale = none) (hdecided : r.decided = true) (he : e < s.getO Obj.GROUP_ELEMS r.group)
    (hplace : s.elemPlace (updFirst o.desc) (updOffset o.desc) (updLast o.desc) e = some (n, p))
    (hreduced : s.reduced n p (decide (s.getO Obj.GROUP_NAN_POLICY r.group = 1)) = some (gin, fl))
    (hfinite : f32.isFinite gin = true ∨ s.getO Obj.GROUP_NAN_POLICY r.group = 1) {w : Work}
    (hw : s.updElem o r e gin = w) :
    ∃ t, s.elementApplied w r.group t ∧ exec (.updateElementApply id e) s =
      .next (((t.setOp id { o with upd := some (r.applied 1 w) }).updAdvance id).judgeHeld) := by
  have htaken : (s.consume n p).onlyObj ((s.consume n p).orO Obj.REDUCE_FLAGS (fl % 128)) := State.onlyObj_orO ..
  have hrule : s.sameRule ((s.consume n p).orO Obj.REDUCE_FLAGS (fl % 128)) :=
    ⟨htaken.mem.trans (congrArg State.mem (s.consume_kept n p) :), fun k hk =>
      (State.sameKey_of_obj (congrArg State.obj (s.consume_kept n p) :)).trans
        (State.sameKey_orO _ _ _ _ _ fun e => hk (e ▸ by decide))⟩
  have hchk' := (congrArg State.chk htaken :).trans ((congrArg State.chk (s.consume_kept n p) :).trans hchk)
  have haborted := (congrArg State.balesAborted htaken :).trans (congrArg State.balesAborted (s.consume_kept n p) :)
  have hended := (congrArg State.balesDone htaken :).trans (congrArg State.balesDone (s.consume_kept n p) :)
  have hhere := (htaken.hold.op? id).trans (State.op_consume hop hbale n p)
  have hnext := execUpdateElementApply_takes hop hphase hrun hdecided he hplace hreduced
  generalize (s.consume n p).orO Obj.REDUCE_FLAGS (fl % 128) = u at hrule hchk' haborted hended hhere hnext
  have hclean : u.allClean := State.allClean_of_chk hchk'
  have hwork := u.onlyWork_elemsApplied w.writes r.group w 1
  rw [State.applyElem_clean hclean hhere (hfinite.imp_right (hrule.group (by decide) _).trans)
    ((hrule.updElem o r e gin).trans hw)] at hnext
  exact ⟨_,
    { groups := hrule.groups.trans (u.sameGroups_elemsApplied _ _ _ _)
      counted := State.getO_elemsApplied hrule w.writes r.group w
      wrote := fun _ => State.wrote_elemsApplied hrule
      clean := State.allClean_of_chk (hwork.chk.trans hchk')
      aborted := (congrArg State.balesAborted hwork :).trans haborted
      ended := State.baleDone_congr ((congrArg State.balesDone hwork :).trans hended) }, hnext⟩

end

end Sys2Proof.Machine

namespace Sys2Proof.Machine

/-! ### The rows of the update engines -/

section
variable {s : State} {id : Nat} {o : Op}

/-- An operation whose engine has no place keeps its turn (R211). -/
theorem State.begun_waits {c : Instr} (h : s.chk = []) (hnext : exec c s = .next ((s.atStep4 id o).blockOp id (s.begun o))) :
    ∃ t, exec c s = .next t ∧ t.op? id = some { s.begun o with phase := .ready, blocked := true } ∧ t.mem = s.mem := by
  obtain ⟨hop, hmem, -⟩ := (s.atStep4 id o).blockOp_waits id (s.begun o)
  exact ⟨_, hnext, hop, hmem.trans (State.atStep4_clean h id o).1⟩

section
variable (h : s.chk = []) (hrun : s.mayRun id o 6 1) (hupd : o.upd = none)
  (hroom : (s.atStep4 id o).armed ((s.begun o).die (s.atStep4 id o)) id < 16)
include h hrun hupd hroom

/-- While a bale of its span has still to end, an armed step stays (R212). -/
theorem groupStep_stays (hkept : ∀ n ∈ o.bales, n ∉ s.balesAborted) (hopen : ∃ n ∈ o.bales, s.baleDone n = false) :
    ∃ t, exec (.groupStep id) s = .next t ∧ s.sameRule t ∧ t.op? id = some (s.armedOp id o) := by
  obtain ⟨v, hrule, haborted, hdone, harmed, hnext⟩ := execGroupStep_arms h hrun hupd hroom
  rw [← haborted] at hkept
  rw [State.updAdvance_waits harmed hkept (hopen.imp fun n hn => hn.imp_right (State.baleDone_congr hdone n).trans)] at hnext
  exact ⟨_, hnext, ⟨hrule.mem, hrule.keys⟩, State.op_setOp_same ..⟩

/-- An aborted bale of its span fails a step at once (R263). -/
theorem groupStep_fails (habort : ∃ n ∈ o.bales, n ∈ s.balesAborted) :
    ∃ t, exec (.groupStep id) s = .next t ∧ (∃ p, t.op? id = some p ∧ p.phase = .failing 0 5 (updGroup o.desc)) ∧
      t.mem = s.mem := by
  obtain ⟨v, hrule, haborted, -, harmed, hnext⟩ := execGroupStep_arms h hrun hupd hroom
  rw [← haborted] at habort
  rw [State.updAdvance_aborted harmed habort] at hnext
  obtain ⟨hop, hmem⟩ := State.updFail_results (v.setOp id (s.armedOp id o)) id (s.armedOp id o) 0 5
  exact ⟨_, hnext, ⟨_, hop, rfl⟩, hmem.trans hrule.mem⟩

end

theorem State.begun_step (s : State) (h : s.chk = []) (o : Op) : (s.begun o).step = s.getO Obj.WINNOW_STEP :=
  congrArg (State.getO · Obj.WINNOW_STEP) (State.renewAll_clean (State.allClean_of_chk h) o.got.tds)

end

/-! ### GROUP_STEP_LOCAL with a place on its engine -/

section
variable {s u : State} {id g : Nat} {o op : Op} {x : TD} (h : s.chk = []) (hrun : s.mayRun id o 6 2)
  (hu : s.atStep4 id o = u) (hop : s.begun o = op) (hx : tensor op.got.list 0 = x) (hg : updGroup op.desc = g)
  (hroom : u.armed (op.die u) id < 16)
include h hrun hu hop hx hg hroom

/-- A step that is applied writes its elements, advances the step count and the powers, and is recorded (R214, R215). -/
theorem groupStepLocal_applies {r : UpdRun} (hr : (u.scalars op).2.1 = r)
    (hpolicy : s.getO Obj.GROUP_NAN_POLICY g = 1 ∨ u.nonFinite x = 0)
    (hfinite : ∀ i ∈ x.list, f32.isFinite (u.val x (opStrict op.desc) i).1 = true ∨ s.getO Obj.GROUP_NAN_POLICY g = 1) :
    ∃ t, exec (.groupStepLocal id) s = .next t ∧ t.op? id = some { op with phase := .executed } ∧
      s.wrote (u.localWrites op r) (s.inWorkDesc g) t ∧ t.getO Obj.GROUP_STEP g = (s.getO Obj.GROUP_STEP g + 1) % 2 ^ 32 ∧
      t.getO Obj.GROUP_POW1 g = r.p1 ∧ t.getO Obj.GROUP_POW2 g = r.p2 ∧
      t.getO Obj.GROUP_LAST_STEP g = 2 ^ 32 + s.getO Obj.WINNOW_STEP ∧
      t.getO Obj.GROUP_CENSUS_LAST g = u.nonFinite x % 2 ^ 64 ∧
      (s.getO Obj.UPDATE_ELEMS_DONE + x.elems < 2 ^ 64 →
        t.getO Obj.UPDATE_ELEMS_DONE = s.getO Obj.UPDATE_ELEMS_DONE + x.elems) := by
  have hrule : s.sameRule u := hu ▸ State.sameRule_atStep4 h id o
  have hclean : u.allClean := hu ▸ (State.atStep4_clean h id o).2
  have hstep : op.step = s.getO Obj.WINNOW_STEP := hop ▸ s.begun_step h o
  have hcount := hrule.group (p := Obj.GROUP_STEP) (by decide) g
  obtain ⟨hgroup, hnext, -, -, -⟩ := State.scalars_fields hclean op
  rw [hr, hg] at hgroup hnext
  rw [← hrule.group (p := Obj.GROUP_NAN_POLICY) (by decide) g, ← hg] at hpolicy hfinite
  obtain ⟨v, w, hv, happlied⟩ := localRun_applies (id := id) hclean hx hr hroom hpolicy hfinite
  have hkey : ∀ {p : ObjDef} {a : Nat}, (localRun u id op).getO p r.group = a → (localRun u id op).getO p g = a :=
    fun ha => hgroup ▸ ha
  refine ⟨localRun u id op, ?_, happlied.here, ?_, (hkey happlied.step).trans (hnext.trans (by rw [hcount])),
    hkey happlied.pow1, hkey happlied.pow2, (hkey happlied.last).trans (congrArg _ hstep), hkey happlied.census, fun hlt => ?_⟩
  · rw [execGroupStepLocal_begins hrun, hu, hop]
  · rw [hg] at happlied
    exact State.wrote_elemsApplied (hrule.trans hv) (hgroup ▸ happlied.bytes)
  · exact (happlied.keys _ not_groupKey_elemsDone).getO.trans (State.getO_elemsApplied (hrule.trans hv) _ _ _ hlt)

/-- The census stops the step of a group that does not take all gradients (R219). -/
theorem groupStepLocal_stops (hpolicy : s.getO Obj.GROUP_NAN_POLICY g ≠ 1) (hbad : u.nonFinite x ≠ 0) :
    s.sameRule (u.judge op.table) ∧ exec (.groupStepLocal id) s =
      .next ((u.judge op.table).updSkip id op { group := g, census := u.nonFinite x }) := by
  have hrule : s.sameRule u := hu ▸ State.sameRule_atStep4 h id o
  have hclean : u.allClean := hu ▸ (State.atStep4_clean h id o).2
  rw [← hrule.group (by decide), ← hg] at hpolicy
  rw [← hx] at hbad
  refine ⟨hrule.trans (u.sameRule_judge _), ?_⟩
  rw [execGroupStepLocal_begins hrun, hu, hop, localRun_skips hclean hroom hpolicy hbad, hg, hx]

/-- SKIP leaves memory, the step count and the powers, and counts the step (R220). -/
theorem groupStepLocal_skips (hpolicy : s.getO Obj.GROUP_NAN_POLICY g = 0) (hbad : u.nonFinite x ≠ 0) :
    ∃ t, exec (.groupStepLocal id) s = .next t ∧ t.op? id = some { op with phase := .executed } ∧ t.mem = s.mem ∧
      (t.getO Obj.GROUP_STEP g = s.getO Obj.GROUP_STEP g ∧ t.getO Obj.GROUP_POW1 g = s.getO Obj.GROUP_POW1 g ∧
        t.getO Obj.GROUP_POW2 g = s.getO Obj.GROUP_POW2 g) ∧
      t.getO Obj.GROUP_LAST_STEP g = 2 ^ 32 + s.getO Obj.WINNOW_STEP ∧
      t.getO Obj.GROUP_CENSUS_LAST g = u.nonFinite x % 2 ^ 64 ∧
      (s.getO Obj.GROUP_SKIPS g + 1 < 2 ^ 32 → t.getO Obj.GROUP_SKIPS g = s.getO Obj.GROUP_SKIPS g + 1) := by
  obtain ⟨hrule, hnext⟩ := groupStepLocal_stops h hrun hu hop hx hg hroom (by omega) hbad
  have hstep : op.step = s.getO Obj.WINNOW_STEP := hop ▸ s.begun_step h o
  have hends := State.updSkip_skips (r := { group := g, census := u.nonFinite x }) ((hrule.group (by decide) g).trans hpolicy) id op
  generalize (u.judge op.table).updSkip id op _ = t at hnext hends
  generalize u.judge op.table = v at hrule hends
  have hother : (v.incO Obj.GROUP_SKIPS 1 g).sameGroups ((v.incO Obj.GROUP_SKIPS 1 g).incO Obj.UPDATE_SKIPS) := fun _ hk =>
    State.sameKey_incO _ _ _ _ _ (hk.ne_of_le (by decide))
  have hkept : ∀ p : ObjDef, p.index = 0x6100 ∧ 0 < p.sub ∧ p.sub < 0x25 → t.getO p g = s.getO p g := fun p hp => by
    have hne : p.key g ≠ Obj.GROUP_SKIPS.key g := ObjDef.key_ne (by simp only [Obj.GROUP_SKIPS]; omega) g
    exact (hends.group (by omega)).trans ((hother.group (by omega) g).trans
      ((State.sameKey_incO v _ _ _ _ hne).getO.trans (hrule.group (by omega) g)))
  have hskips := hrule.group (p := Obj.GROUP_SKIPS) (by decide) g
  refine ⟨t, hnext, hends.here, ?_, ⟨hkept _ (by decide), hkept _ (by decide), hkept _ (by decide)⟩,
    hends.last.trans (congrArg _ hstep), hends.census, fun hlt => ?_⟩
  · exact hends.mem.trans ((State.mem_incO ..).trans ((State.mem_incO ..).trans hrule.mem))
  · rw [← hskips] at hlt ⊢
    exact (hends.group (by decide)).trans ((hother.group (by decide) g).trans (State.getO_incO_same hlt))

/-- FAULT ends the operation after one record, and leaves the group as it was (R221). -/
theorem groupStepLocal_faults (hpolicy : s.getO Obj.GROUP_NAN_POLICY g = 2) (hbad : u.nonFinite x ≠ 0) (hone : s.onePost) :
    ∃ t, exec (.groupStepLocal id) s = .next t ∧ t.op? id = none ∧
      (∀ p : ObjDef, p.inGroup → t.getO p g = s.getO p g) ∧
      s.posted { reason := 0x0105, source := op.unit, tag := opTag op.desc, d0 := g, d1 := u.nonFinite x % 2 ^ 32 } t := by
  obtain ⟨hrule, hnext⟩ := groupStepLocal_stops h hrun hu hop hx hg hroom (by omega) hbad
  have hstop : (u.judge op.table).getO Obj.GROUP_NAN_POLICY g ≠ 0 := by
    rw [hrule.group (by decide), hpolicy]
    decide
  have halike : s.recordsAlike u := by
    rw [← hu, State.atStep4_eq h]
    exact ⟨rfl, rfl, rfl, rfl, fun _ _ => State.sameKey_of_obj rfl⟩
  obtain ⟨hgone, hposted, hkeys⟩ :=
    State.updSkip_faults (r := { group := g, census := u.nonFinite x }) hstop id op rfl
  refine ⟨_, hnext, hgone, fun p hp => ?_, hposted (State.posted_post_judge halike hone _ _)⟩
  have hkey := ObjDef.groupKey_key hp g
  have hlt := ObjDef.key_lt_of_group hp (hg ▸ updGroup_lt op.desc : g < 256)
  have hout : ∀ m ∈ postKeys, m ≤ 0x6100 * 256 ∨ 0x6200 * 256 ≤ m := by decide +kernel
  have hpost : p.key g ∉ postKeys := fun hk => by
    obtain ⟨hlow, -⟩ := hkey
    rcases hout _ hk with hle | hle <;> omega
  exact (hkeys _ hpost (hkey.notMem (by decide)) (hkey.ne_of_le (by decide)) (by omega)).getO.trans
    (hrule.group hp g)

end

/-! ### An element that its engine applies -/

section
variable {s : State} {id e n p gin fl : Nat} {o : Op} {r : UpdRun} {w : Work} (hchk : s.chk = []) (hop : s.op? id = some o)
  (hphase : o.phase = .executing) (hrun : o.upd = some r) (hbale : o.bale = none) (hdecided : r.decided = true)
  (he : e < s.getO Obj.GROUP_ELEMS r.group)
  (hplace : s.elemPlace (updFirst o.desc) (updOffset o.desc) (updLast o.desc) e = some (n, p))
  (hreduced : s.reduced n p (decide (s.getO Obj.GROUP_NAN_POLICY r.group = 1)) = some (gin, fl))
  (hfinite : f32.isFinite gin = true ∨ s.getO Obj.GROUP_NAN_POLICY r.group = 1) (hw : s.updElem o r e gin = w)
  (hkept : ∀ k ∈ o.bales, k ∉ s.balesAborted)
include hchk hop hphase hrun hbale hdecided he hplace hreduced hfinite hw hkept

/-- Before its last element a step goes on (R212). -/
theorem updateElementApply_goesOn (hopen : ∃ k ∈ o.bales, s.baleDone k = false) :
    ∃ t, exec (.updateElementApply id e) s = .next t ∧ (t.op? id = some { o with upd := some (r.applied 1 w) } ∧
        t.getO Obj.GROUP_STEP r.group = s.getO Obj.GROUP_STEP r.group) ∧
      (s.getO Obj.UPDATE_ELEMS_DONE + 1 < 2 ^ 64 → t.getO Obj.UPDATE_ELEMS_DONE = s.getO Obj.UPDATE_ELEMS_DONE + 1) ∧
      s.wrote w.writes (s.inWorkDesc r.group) t := by
  obtain ⟨v, happlied, hnext⟩ := execUpdateElementApply_applies hchk hop hphase hrun hbale hdecided he hplace hreduced
    hfinite hw
  have harmed := v.armedWith_setOp id (op := { o with upd := some (r.applied 1 w) }) hphase rfl
  rw [State.updAdvance_waits harmed (by rw [← happlied.aborted] at hkept; exact hkept)
    (hopen.imp fun k hk => hk.imp_right (happlied.ended k).trans)] at hnext
  have hheld := State.onlyHold_judgeHeld (v.setOp id { o with upd := some (r.applied 1 w) })
  refine ⟨_, hnext, ⟨(hheld.op? id).trans (State.op_setOp_same ..), ?_⟩, fun hlt => ?_, happlied.wrote _ fun y _ => ?_⟩
  · exact (State.sameKey_judgeHeld _ ((ObjDef.groupKey_key (by decide) _).notMem (by decide))).getO.trans
      (happlied.groups.group (by decide) _)
  · exact (State.sameKey_judgeHeld (k := Obj.UPDATE_ELEMS_DONE.key) _ (by decide)).getO.trans (happlied.counted hlt)
  · exact congrArg (SMap.get 0 · y) hheld.mem

/-- With its last element a step ends (R215). -/
theorem updateElementApply_ends (hended : ∀ k ∈ o.bales, s.baleDone k = true)
    (hlast : r.done + 1 = s.getO Obj.GROUP_ELEMS r.group) :
    ∃ t, exec (.updateElementApply id e) s = .next t ∧ ((∃ q, t.op? id = some q ∧ q.phase = .executed) ∧
        t.getO Obj.GROUP_STEP r.group = r.t ∧ t.getO Obj.GROUP_POW1 r.group = r.p1 ∧ t.getO Obj.GROUP_POW2 r.group = r.p2 ∧
        t.getO Obj.GROUP_LAST_STEP r.group = 2 ^ 32 + o.step) ∧
      (s.getO Obj.UPDATE_ELEMS_DONE + 1 < 2 ^ 64 → t.getO Obj.UPDATE_ELEMS_DONE = s.getO Obj.UPDATE_ELEMS_DONE + 1) ∧
      s.wrote w.writes (s.inWorkDesc r.group) t := by
  obtain ⟨v, happlied, hnext⟩ := execUpdateElementApply_applies hchk hop hphase hrun hbale hdecided he hplace hreduced
    hfinite hw
  have harmed := v.armedWith_setOp id (op := { o with upd := some (r.applied 1 w) }) hphase rfl
  have helems := happlied.groups.group (p := Obj.GROUP_ELEMS) (by decide) r.group
  obtain ⟨c, hend⟩ := State.updAdvance_ends harmed (by rw [← happlied.aborted] at hkept; exact hkept)
    (fun k hk => (happlied.ended k).trans (hended k hk)) hdecided (helems.trans hlast.symm).le
  rw [hend] at hnext
  have hdone := State.stepApplied_updEnd (s := v.setOp id { o with upd := some (r.applied 1 w) }) happlied.clean id
    { o with upd := some (r.applied 1 w) } { r.applied 1 w with census := c }
  generalize State.updEnd _ id _ _ = t at hnext hdone
  have hheld := State.onlyHold_judgeHeld t
  have hgroup : ∀ {p : ObjDef} {a : Nat}, p.inGroup → t.getO p r.group = a →
      t.judgeHeld.getO p r.group = a := fun hp =>
    (State.sameKey_judgeHeld t ((ObjDef.groupKey_key hp _).notMem (by decide))).getO.trans
  refine ⟨_, hnext, ⟨⟨_, (hheld.op? id).trans hdone.here, rfl⟩, hgroup (by decide) hdone.step, hgroup (by decide) hdone.pow1,
    hgroup (by decide) hdone.pow2, hgroup (by decide) hdone.last⟩, fun hlt => ?_, happlied.wrote _ fun y hy => ?_⟩
  · exact (State.sameKey_judgeHeld (k := Obj.UPDATE_ELEMS_DONE.key) t (by decide)).getO.trans
      ((hdone.keys _ not_groupKey_elemsDone).getO.trans (happlied.counted hlt))
  · exact (congrArg (SMap.get 0 · y) hheld.mem).trans (hdone.bytes y hy)

end

/-- Settles O42: an armed step waits for its bales or fails with one of them, a local step is applied, skipped or ended by its
policy, and each element of an armed step is written before the bales tell whether it was the last. -/
theorem updateResults : Obligations.UpdateResults := by
  refine ⟨?_, ?_, ?_⟩
  · intro s id o hrun hchk hupd d g o1 s1 ns r
    refine ⟨fun hfull => State.begun_waits hchk ((execGroupStep_begins hrun).trans (congrArg _ (groupRun_waits hfull))),
      fun hroom hkept hopen => ?_, groupStep_fails hchk hrun hupd⟩
    obtain ⟨hall, hsome⟩ := State.firstRun_atStep4 hchk id o
    obtain ⟨t, hnext, hrule, hop⟩ := groupStep_stays hchk hrun hupd hroom hkept hopen
    unfold State.armedOp at hop
    refine ⟨t, hnext, hrule.mem, hrule.group (by decide) g, fun hpolicy => ?_, fun hpolicy => ?_⟩
    · rw [hop, hall hpolicy]
    · rw [hop, hsome hpolicy]
  · intro s id o hrun hchk d g o1 s1 t0 ix r gin bad policy ws kept
    refine ⟨fun hfull => State.begun_waits hchk ((execGroupStepLocal_begins hrun).trans (congrArg _ (localRun_waits hfull))),
      fun hroom hpolicy hfinite => groupStepLocal_applies hchk hrun rfl rfl rfl rfl hroom rfl hpolicy hfinite,
      fun hroom hpolicy hbad => groupStepLocal_skips hchk hrun rfl rfl rfl rfl hroom hpolicy hbad,
      fun hroom hpolicy hbad hone => ?_⟩
    obtain ⟨t, hnext, hgone, hkept, hposted⟩ := groupStepLocal_faults hchk hrun rfl rfl rfl rfl hroom hpolicy hbad hone
    exact ⟨t, hnext, hgone, ⟨hkept _ (by decide), hkept _ (by decide), hkept _ (by decide)⟩, hkept _ (by decide), hposted⟩
  · intro s id e n p gin fl o r hop hphase hrun hbale hchk hdecided he d g ns policy here ready w next
    refine ⟨fun hnone => ?_, fun hplace hreduced => ?_, fun ⟨hplace, hreduced⟩ hfinite hkept hopen =>
      updateElementApply_goesOn hchk hop hphase hrun hbale hdecided he hplace hreduced hfinite rfl hkept hopen,
      fun ⟨hplace, hreduced⟩ hfinite hkept hended hlast =>
      updateElementApply_ends hchk hop hphase hrun hbale hdecided he hplace hreduced hfinite rfl hkept hended hlast⟩
    · exact execUpdateElementApply_idle hop hphase hrun hdecided he fun m q hplace => absurd (hnone.symm.trans hplace) nofun
    · refine execUpdateElementApply_idle hop hphase hrun hdecided he fun m q hother => ?_
      obtain ⟨rfl, rfl⟩ := Prod.mk.inj (Option.some.inj (hplace.symm.trans hother))
      exact hreduced

end Sys2Proof.Machine

namespace Sys2Proof.Machine

/-! ### What records, leave and the ends of operations leave standing (R38, R318, R331) -/

section
variable {s t u : State} {id : Nat} {o q : Op}

/-- From s to t every furrow table stands at the same next entry, a stopped stream stays stopped, no operation has become
armed, and none that is gone has come back or become READY. -/
structure State.steady (s t : State) : Prop where
  next : ∀ n, (t.table n).next = (s.table n).next
  stopped : ∀ n k, s.isStopped n k = true → t.isStopped n k = true
  unarmed : (∀ p ∈ s.ops, p.2.upd = none) → ∀ p ∈ t.ops, p.2.upd = none
  gone : ∀ k, s.op? k = none → k ∉ s.readyQ → t.op? k = none ∧ k ∉ t.readyQ

theorem State.steady.refl (s : State) : s.steady s := ⟨fun _ => rfl, fun _ _ => id, id, fun _ => And.intro⟩

theorem State.steady.trans (h : s.steady t) (h' : t.steady u) : s.steady u where
  next n := (h'.next n).trans (h.next n)
  stopped n k := h'.stopped n k ∘ h.stopped n k
  unarmed := h'.unarmed ∘ h.unarmed
  gone k hop hready := (h.gone k hop hready).elim (h'.gone k)

theorem State.steady.ite {p : Prop} [Decidable p] (h : s.steady t) (h' : s.steady u) : s.steady (if p then t else u) := by
  split_ifs <;> assumption

/-- A change elsewhere. -/
theorem State.steady_of_eq (h : (t.tables, t.stopped, t.ops, t.readyQ) = (s.tables, s.stopped, s.ops, s.readyQ)) :
    s.steady t := by
  obtain ⟨htables, hstopped, hops, hready⟩ : t.tables = s.tables ∧ t.stopped = s.stopped ∧ t.ops = s.ops ∧ t.readyQ = s.readyQ := by
    simpa only [Prod.mk.injEq] using h
  refine ⟨fun n => ?_, fun n k => ?_, ?_, fun k hop hk => ⟨?_, hready ▸ hk⟩⟩
  · unfold State.table
    rw [htables]
  · unfold State.isStopped
    rw [hstopped]
    exact id
  · rw [hops]
    exact id
  · unfold State.op? at hop ⊢
    rw [hops]
    exact hop

theorem State.steady.thenEq (h : s.steady t)
    (he : (u.tables, u.stopped, u.ops, u.readyQ) = (t.tables, t.stopped, t.ops, t.readyQ)) : s.steady u :=
  h.trans (State.steady_of_eq he)

theorem State.steady.eqThen (h : t.steady u)
    (he : (t.tables, t.stopped, t.ops, t.readyQ) = (s.tables, s.stopped, s.ops, s.readyQ)) : s.steady u :=
  (State.steady_of_eq he).trans h

theorem State.onlyHold.steady (h : s.onlyHold t) : s.steady t := State.steady_of_eq (by rw [h])

theorem State.onlyObj.steady (h : s.onlyObj t) : s.steady t := h.hold.steady

theorem State.mem_ops_of_op (h : s.op? id = some o) : (id, o) ∈ s.ops := by
  unfold State.op? at h
  obtain ⟨⟨k, q⟩, hfind, rfl⟩ := Option.map_eq_some_iff.1 h
  obtain rfl : k = id := of_decide_eq_true (List.find?_some hfind :)
  exact List.mem_of_find?_eq_some hfind

/-- An operation of the list is rewritten, and is armed no more than it was. -/
theorem State.steady_setOp (h : (id, q) ∈ s.ops) (hupd : o.upd = q.upd) : s.steady (s.setOp id o) where
  next _ := rfl
  stopped _ _ := fun h => h
  unarmed hall p hp := by
    rcases SMap.mem_put hp with rfl | hp
    · exact hupd.trans (hall _ h)
    · exact hall p hp
  gone k hop hk := by
    have hne : k ≠ id := fun e => State.op_ne_none_of_mem h (e ▸ hop)
    exact ⟨(State.op_setOp_ne s id k o hne).trans hop, hk⟩

theorem State.steady_makeReady (h : (id, q) ∈ s.ops) (hupd : o.upd = q.upd) : s.steady (s.makeReady id o) := by
  obtain ⟨hnext, hstopped, hunarmed, hgone⟩ := State.steady_setOp (o := { o with phase := .ready }) h hupd
  refine ⟨hnext, hstopped, hunarmed, fun k hop hk => ⟨(hgone k hop hk).1, fun hmem => ?_⟩⟩
  rcases List.mem_append.1 hmem with hmem | hmem
  · exact hk hmem
  · exact State.op_ne_none_of_mem h (List.mem_singleton.1 hmem ▸ hop)

theorem State.steady_modOp (s : State) (id : Nat) {f : Op → Op} (h : ∀ o, (f o).upd = o.upd) : s.steady (s.modOp id f) := by
  unfold State.modOp
  split
  · rename_i o hop
    exact State.steady_setOp (State.mem_ops_of_op hop) (h o)
  · exact .refl s

theorem State.steady_deliver (s : State) (w : SemWho) (r : Nat) : s.steady (s.deliver w r) := by
  unfold State.deliver
  split
  · exact .ite (State.steady_of_eq rfl) (.refl s)
  · exact State.steady_modOp s _ fun _ => rfl
  · exact State.steady_modOp s _ fun _ => by split_ifs <;> rfl
  · exact State.steady_of_eq rfl
  · exact .refl s

theorem State.steady_setSem (s : State) (n : Nat) (x : Sem) : s.steady (s.setSem n x) := State.steady_of_eq rfl

theorem State.steady_semGrants (m : Nat) (s : State) (n : Nat) : s.steady (s.semGrants n m) := by
  induction m generalizing s with
  | zero => exact .refl s
  | succ m ih =>
    have hgrant : ∀ (y : Sem) (w : SemWho), s.steady (((s.setSem n y).deliver w 0).semGrants n m) := fun y w =>
      (s.steady_setSem n y).trans ((State.steady_deliver _ w 0).trans (ih _))
    unfold State.semGrants
    extract_lets x
    split
    · exact .refl s
    · exact .ite (.ite (hgrant _ _) (.refl s)) (.ite (hgrant _ _) (.refl s))

theorem State.steady_signalBase (s : State) (q n : Nat) : s.steady (s.signalBase q n).1 := by
  unfold State.signalBase
  extract_lets a x o b c
  have ha : s.steady a := (State.onlyObj_incO s _ _ _ _).steady
  have hb : s.steady b := ha.trans (State.steady_of_eq rfl)
  have hc : s.steady c := .ite (hb.trans (State.onlyObj_incO b _ _ _ _).steady) hb
  split_ifs
  · exact ha
  · exact hc.trans (State.steady_semGrants _ c q)

theorem State.steady_produce (s : State) (b n w : Nat) : s.steady (s.produce b n w).1 := by
  unfold State.produce
  split
  · exact (State.onlyObj_incO s _ _ _ _).steady
  · extract_lets r c d
    split_ifs <;> exact State.steady_of_eq rfl

theorem State.steady_cutOps (s : State) (b : Nat) : s.steady (s.cutOps b) where
  next _ := rfl
  stopped _ _ := id
  unarmed hall p hp := hall p (List.mem_of_mem_filter hp)
  gone k hop hk := by
    refine ⟨?_, fun hmem => hk (List.mem_of_mem_filter hmem)⟩
    by_contra hsome
    obtain ⟨o, ho⟩ := Option.ne_none_iff_exists'.1 hsome
    exact State.op_ne_none_of_mem (List.mem_of_mem_filter (State.mem_ops_of_op ho)) hop

/-- A cancelled swap leaves its table at its entry (R322). -/
theorem State.steady_cancelSwapsIf (s : State) (gone : Nat → Bool) : s.steady (s.cancelSwapsIf gone) := by
  refine ⟨fun n => ?_, fun _ _ => id, id, fun _ => And.intro⟩
  unfold State.table State.cancelSwapsIf
  dsimp only
  generalize s.tables = l
  induction l with
  | nil => rfl
  | cons p l ih =>
    obtain ⟨k, x⟩ := p
    rw [List.map_cons, SMap.get_cons, SMap.get_cons]
    split_ifs
    · rfl
    · exact ih

theorem State.steady_takeStop (s : State) (b : Nat) : s.steady (s.takeStop b) := by
  unfold State.takeStop State.stopAt
  extract_lets x y
  have hx : s.steady x := .ite (.refl s) (State.onlyObj_setO s _ _ _ _).steady
  have hy : s.steady y := hx.trans (State.onlyObj_setO x _ _ _ _).steady
  refine .ite (.refl s) (hy.trans (.trans ?_ ((State.steady_cutOps _ b).trans (State.steady_cancelSwapsIf _ _))))
  exact State.steady_of_eq rfl

theorem State.steady_stopRequest (s : State) (r : Nat) : s.steady (s.stopRequest r) := by
  unfold State.stopRequest State.askStop
  extract_lets a w x
  have hx : s.steady x := .ite (.refl s) (State.steady_of_eq rfl)
  refine .ite (.ite (.refl s) (.ite ?_ (hx.trans (State.onlyHold_flood x _ _ _).steady))) (.refl s)
  unfold State.masterStopAt
  exact .ite hx (hx.trans ((State.steady_takeStop x _).trans (State.onlyHold_flood _ _ _ _).steady))

theorem State.steady_classEffect (s : State) (c r : Nat) : s.steady (s.classEffect c r) := by
  unfold State.classEffect
  extract_lets x
  have hx : s.steady x := State.steady_of_eq rfl
  exact .ite (State.steady_stopRequest s _) (.ite (.ite (hx.trans ((State.steady_stopRequest x r).trans (State.steady_of_eq rfl)))
    (.ite (.refl s) (hx.trans (State.onlyObj_setDev _ _).steady))) (.refl s))

theorem State.steady_masterRecord (s : State) (w : Nat) : s.steady (s.masterRecord w) := by
  unfold State.masterRecord
  extract_lets a b
  have hb : s.steady b := (State.onlyObj_incO s _ _ _ _).steady.trans (State.steady_of_eq rfl)
  split
  · exact hb.thenEq rfl
  · exact .ite (hb.thenEq rfl) hb

theorem State.steady_logRecord (s : State) (r : Rec) : s.steady (s.logRecord r).1 := by
  unfold State.logRecord
  split
  extract_lets c q w a l b d e f
  have ha : s.steady a := .ite (State.onlyObj_incO s _ _ _ _).steady (.refl s)
  have hb : s.steady b := ha.thenEq rfl
  have he : s.steady e := hb.trans ((State.onlyObj_incO b _ _ _ _).trans (State.onlyObj_incO d _ _ _ _)).steady
  have hf : s.steady f := .ite (he.trans (State.onlyObj_setO e _ _ _ _).steady) he
  exact hf.trans (State.onlyObj_setO f _ _ _ _).steady

theorem State.steady_postF (m : Nat) (s : State) (r : Rec) : s.steady (State.postF m s r) := by
  induction m generalizing s r with
  | zero => exact .refl s
  | succ m ih =>
    unfold State.postF
    split
    rename_i a w hw
    have ha : s.steady a := by
      have h := State.steady_logRecord s r
      rw [hw] at h
      exact h
    extract_lets c
    split
    rename_i b n hb
    have hproduced : s.steady b := by
      split_ifs at hb
      · cases hb
        exact ha
      · have h := State.steady_produce a 5 0 w
        rw [hb] at h
        exact ha.trans h
    extract_lets d e
    have hd : s.steady d := by
      dsimp only [d]
      split
      · exact hproduced
      · have hsignal := fun q => hproduced.trans (State.steady_signalBase b q 1)
        split
        · exact (hsignal _).trans (ih _ _)
        · exact hsignal _
    have hemit : s.steady (d.emit (.record w)) := hd.thenEq rfl
    have he : s.steady e := .ite (.ite (hd.trans (State.steady_masterRecord d w))
      (.ite (hemit.trans (State.onlyHold_toMaster _ _).steady) hd)) hd
    exact he.trans (State.steady_classEffect e _ _)

theorem State.steady_post (s : State) (r : Rec) : s.steady (s.post r) := by
  unfold State.post
  exact State.steady_postF _ s r

theorem State.steady_claim (s : State) (r : Resv) : s.steady (s.claim r) := by
  unfold State.claim
  split
  · exact .refl s
  · rename_i id o hfind
    exact (State.steady_makeReady (o := { o with held := r.cost }) (List.mem_of_find?_eq_some hfind) rfl).thenEq rfl

theorem State.steady_serve (m : Nat) (s : State) : s.steady (State.serve m s) := by
  induction m generalizing s with
  | zero => exact .refl s
  | succ m ih =>
    unfold State.serve
    extract_lets used waiting
    refine .ite (.ite (State.onlyHold_holdNow s _ _).steady (.refl s)) ?_
    split
    · extract_lets c made a b
      have ha : s.steady a := State.steady_of_eq rfl
      have hb : s.steady b := ha.trans ((State.onlyObj_incO a _ _ _ _).steady.trans (State.steady_claim _ _))
      exact .ite (hb.trans ((State.onlyHold_judge b _).steady.trans (ih _))) (.refl s)
    · split
      · exact .refl s
      · split
        · exact .eqThen (ih _) rfl
        · rename_i o hop
          extract_lets c _ a
          have ha : s.steady a := (State.steady_makeReady (o := { o with held := c }) (State.mem_ops_of_op hop) rfl).thenEq rfl
          have hjudged : s.steady ((a.incO Obj.LEAVE_GRANTS).judge o.table) :=
            ha.trans ((State.onlyObj_incO a _ _ _ _).steady.trans (State.onlyHold_judge _ _).steady)
          exact .ite (hjudged.trans (ih _)) (.refl s)

theorem State.steady_serveLeave (s : State) : s.steady s.serveLeave := State.steady_serve _ s

theorem State.steady_dropReserved (s : State) (e : Option (Nat × Nat × Nat)) : s.steady (s.dropReserved e) := by
  unfold State.dropReserved
  split
  · exact .refl s
  · extract_lets kept
    exact .ite (.refl s) (.eqThen (State.steady_serveLeave _) rfl)

theorem State.isStopped_stopStream (s : State) (n k : Nat) : (s.stopStream n k).isStopped n k = true := by
  unfold State.stopStream
  split_ifs with h
  · exact h
  · exact List.contains_iff_mem.2 List.mem_cons_self

theorem State.steady_dropOp (s : State) (id : Nat) : s.steady (s.dropOp id) where
  next _ := rfl
  stopped _ _ := fun h => h
  unarmed hall p hp := hall p (SMap.mem_erase hp)
  gone k hop hk := by
    by_cases he : k = id
    · exact ⟨he ▸ State.op_dropOp_same .., hk⟩
    · exact ⟨(State.op_dropOp_ne s id k he).trans hop, hk⟩

/-- An operation that ends is gone, and all else stands. -/
theorem State.steady_endOp (s : State) (id : Nat) (o : Op) :
    s.steady (s.endOp id o) ∧ (s.endOp id o).op? id = none ∧ id ∉ (s.endOp id o).readyQ := by
  unfold State.endOp
  extract_lets a b c
  have ha : s.steady a := ⟨fun _ => rfl, fun _ _ => fun h => h, fun h => h,
    fun _ hop hk => ⟨hop, fun hmem => hk (List.mem_of_mem_filter hmem)⟩⟩
  have hthr : a.steady (a.thrEnd id o) ∧ (a.thrEnd id o).readyQ = a.readyQ := by
    unfold State.thrEnd
    dsimp only
    split_ifs <;> exact ⟨State.steady_of_eq rfl, rfl⟩
  have hrest : ((a.thrEnd id o).dropOp id).steady (c.judge o.table) := by
    have hb : ((a.thrEnd id o).dropOp id).steady b := State.steady_serveLeave _
    have hc : b.steady c := by
      refine .ite ?_ (.refl b)
      unfold State.fenceWake
      exact .ite (State.steady_of_eq rfl) (.refl b)
    exact hb.trans (hc.trans (State.onlyHold_judge c _).steady)
  refine ⟨ha.trans (hthr.1.trans ((State.steady_dropOp _ id).trans hrest)),
    hrest.gone id (State.op_dropOp_same ..) fun hmem => ?_⟩
  have hfiltered : id ∈ a.readyQ := hthr.2 ▸ hmem
  exact of_decide_eq_true (List.mem_filter.1 hfiltered).2 rfl

end

end Sys2Proof.Machine

namespace Sys2Proof.Machine

/-! ### The abort of a bale (R242, R262, R263) -/

section
variable {s t u : State} {id k : Nat} {o : Op} {b : Bale} {p : RedPacket}

theorem State.onlyHold_sendPacket (s : State) (dest : Nat) (p : RedPacket) : s.onlyHold (s.sendPacket dest p) := by
  unfold State.sendPacket
  extract_lets a
  have ha : s.onlyHold a := .ite (State.onlyObj_incO s _ _ _ _).hold (.refl s)
  exact ha.trans (State.onlyHold_sendVc2 _ _ _ _ _)

theorem State.obj_sendVc2 (s : State) (d n : Nat) (body : List Byte) (bad : List Nat) : (s.sendVc2 d n body bad).obj = s.obj := by
  unfold State.sendVc2
  split <;> rfl

theorem State.sameKey_sendPacket (s : State) (dest : Nat) (p : RedPacket) (h : k ≠ Obj.REDUCE_BYTES_SENT.key) :
    State.sameKey k s (s.sendPacket dest p) := by
  unfold State.sendPacket
  extract_lets a
  have ha : State.sameKey k s a := .ite (State.sameKey_incO s _ _ _ _ h) (.refl s)
  exact ha.trans (State.sameKey_of_obj (State.obj_sendVc2 _ _ _ _ _))

theorem State.onlyHold_takePacket (s : State) (port : Nat) (p : RedPacket) : s.onlyHold (s.takePacket port p) := by
  unfold State.takePacket
  split
  · exact .refl s
  · exact State.onlyHold_setPort s _ _

theorem State.takePacket_ports (s : State) (port : Nat) (p : RedPacket) :
    s.takePacket port p = { s with ports := (s.takePacket port p).ports } := by
  unfold State.takePacket
  split <;> rfl

theorem State.onlyHold_latePacket (s : State) (port : Nat) (p : RedPacket) : s.onlyHold (s.latePacket port p) :=
  (State.onlyHold_takePacket s port p).trans (State.onlyObj_incO _ _ _ _ _).hold

theorem State.sameKey_latePacket (s : State) (port : Nat) (p : RedPacket) (h : k ≠ Obj.REDUCE_LATE_PACKETS.key) :
    State.sameKey k s (s.latePacket port p) :=
  (State.sameKey_of_obj (congrArg State.obj (s.takePacket_ports port p) :)).trans (State.sameKey_incO _ _ _ _ _ h)

/-- The headers that an aborting device sends to the partners of its bale (R262). -/
def State.abortSent (s : State) (o : Op) (b : Bale) : State :=
  (b.openLevels s.levels).foldl (fun (s : State) j =>
    s.sendPacket (s.partner j)
      { bale := b.n, first := 0, level := brLocal o.desc + j - 1, node := s.rank / 2 ^ (j - 1), phase := 0, abort := true,
        scale := b.scale, step := o.step, src := s.origin, elems := [] }) s

/-- What a residue mismatch leaves in the dictionary (R242). -/
def State.residueNoted (s : State) (n level adder stage : Nat) : State :=
  ((((s.incO Obj.REDUCE_RESIDUE_FAULTS).setO Obj.REDUCE_RESIDUE_LAST_ADDER adder).setO Obj.REDUCE_RESIDUE_LAST_STAGE
    stage).setO Obj.REDUCE_RESIDUE_LAST_BALE n).setO Obj.REDUCE_RESIDUE_LAST_LEVEL level

/-- The bale is counted and noted as aborted, and the packets that wait for it are dropped (R251, R263). -/
def State.abortCounted (s : State) (o : Op) (n : Nat) : State :=
  let u := (s.incO Obj.REDUCE_ABORTED).coreFailed o
  ({ u with abortedInStep := true, balesAborted := n :: u.balesAborted } : State).dropEarly n

/-- The record of an abort (R263). -/
def abortRecord (o : Op) (n cause level adder stage : Nat) : Rec :=
  { reason := 0x0501, source := o.unit, tag := opTag o.desc, d0 := n,
    d1 := level + adder * 2 ^ 8 + stage * 2 ^ 16 + cause * 2 ^ 24 }

theorem State.baleAbort_eq (s : State) (id : Nat) (o : Op) (b : Bale) (cause level adder stage : Nat) :
    s.baleAbort id o b cause level adder stage =
      ((((((if cause = 1 then (s.abortSent o b).residueNoted b.n level adder stage else s.abortSent o b).post
        (abortRecord o b.n cause level adder stage)).abortCounted o b.n).setCond (keyBale id) none).endOp id o)).updAdvanceAll :=
  rfl

theorem State.onlyHold_abortSent (s : State) (o : Op) (b : Bale) : s.onlyHold (s.abortSent o b) :=
  .foldl (fun t _ => State.onlyHold_sendPacket t _ _) _ s

theorem State.sameKey_abortSent (s : State) (o : Op) (b : Bale) (h : k ≠ Obj.REDUCE_BYTES_SENT.key) :
    State.sameKey k s (s.abortSent o b) := .foldl (fun t _ => State.sameKey_sendPacket t _ _ h) _ s

theorem State.onlyObj_residueNoted (s : State) (n level adder stage : Nat) : s.onlyObj (s.residueNoted n level adder stage) :=
  (State.onlyObj_incO s _ _ _ _).trans rfl

/-- Keys that a residue mismatch is noted at. -/
def residueKeys : List Nat :=
  [Obj.REDUCE_RESIDUE_FAULTS.key, Obj.REDUCE_RESIDUE_LAST_ADDER.key, Obj.REDUCE_RESIDUE_LAST_STAGE.key,
   Obj.REDUCE_RESIDUE_LAST_BALE.key, Obj.REDUCE_RESIDUE_LAST_LEVEL.key]

theorem State.sameKey_residueNoted (s : State) (n level adder stage : Nat) (h : k ∉ residueKeys) :
    State.sameKey k s (s.residueNoted n level adder stage) := by
  simp only [residueKeys, List.mem_cons, not_or] at h
  obtain ⟨hfaults, hadder, hstage, hbale, hlevel, -⟩ := h
  exact (State.sameKey_incO s _ _ _ _ hfaults).trans ((State.sameKey_setO _ _ _ _ _ hadder).trans
    ((State.sameKey_setO _ _ _ _ _ hstage).trans ((State.sameKey_setO _ _ _ _ _ hbale).trans
      (State.sameKey_setO _ _ _ _ _ hlevel))))

/-- In t the dictionary tells of a residue mismatch, which s has not counted (R242). -/
structure State.residueTold (s : State) (n level adder stage : Nat) (t : State) : Prop where
  adder : t.getO Obj.REDUCE_RESIDUE_LAST_ADDER = adder
  stage : t.getO Obj.REDUCE_RESIDUE_LAST_STAGE = stage
  bale : t.getO Obj.REDUCE_RESIDUE_LAST_BALE = n
  level : t.getO Obj.REDUCE_RESIDUE_LAST_LEVEL = level
  counted : s.getO Obj.REDUCE_RESIDUE_FAULTS + 1 < 2 ^ 32 →
    t.getO Obj.REDUCE_RESIDUE_FAULTS = s.getO Obj.REDUCE_RESIDUE_FAULTS + 1

theorem State.residueTold.later {n level adder stage : Nat} (h : s.residueTold n level adder stage t)
    (hk : ∀ k ∈ residueKeys, State.sameKey k t u) : s.residueTold n level adder stage u where
  adder := (hk _ (by decide)).getO.trans h.adder
  stage := (hk _ (by decide)).getO.trans h.stage
  bale := (hk _ (by decide)).getO.trans h.bale
  level := (hk _ (by decide)).getO.trans h.level
  counted hlt := (hk _ (by decide)).getO.trans (h.counted hlt)

theorem State.residueTold.since {n level adder stage : Nat} (h : t.residueTold n level adder stage u)
    (hk : State.sameKey Obj.REDUCE_RESIDUE_FAULTS.key s t) : s.residueTold n level adder stage u := by
  have hfaults : t.getO Obj.REDUCE_RESIDUE_FAULTS = s.getO Obj.REDUCE_RESIDUE_FAULTS := hk.getO
  have hcounted := h.counted
  rw [hfaults] at hcounted
  exact { h with counted := hcounted }

theorem State.residueTold_residueNoted (s : State) (n level adder stage : Nat) :
    s.residueTold n level adder stage (s.residueNoted n level adder stage) := by
  have hkeep : ∀ (t : State) (o : ObjDef) (v : Nat) (q : ObjDef), q.key ≠ o.key → (t.setO o v).getO q = t.getO q :=
    fun t o v q h => (State.sameKey_setO t o v 0 0 h).getO
  unfold State.residueNoted
  constructor
  · rw [hkeep _ _ _ _ (by decide), hkeep _ _ _ _ (by decide), hkeep _ _ _ _ (by decide), State.getO_setO_same]
  · rw [hkeep _ _ _ _ (by decide), hkeep _ _ _ _ (by decide), State.getO_setO_same]
  · rw [hkeep _ _ _ _ (by decide), State.getO_setO_same]
  · rw [State.getO_setO_same]
  · intro hlt
    rw [hkeep _ _ _ _ (by decide), hkeep _ _ _ _ (by decide), hkeep _ _ _ _ (by decide), hkeep _ _ _ _ (by decide)]
    exact State.getO_incO_same hlt

theorem State.onlyHold_dropEarly (s : State) (n : Nat) :
    State.onlyHold { s with earlyPkts := (s.dropEarly n).earlyPkts } (s.dropEarly n) := by
  have hfold : State.onlyHold { s with earlyPkts := s.earlyPkts.filter fun q => !decide (q.2.bale = n) } (s.dropEarly n) :=
    .foldl (fun t _ => State.onlyHold_latePacket t _ _) _ _
  have hearly : (s.dropEarly n).earlyPkts = s.earlyPkts.filter fun q => !decide (q.2.bale = n) := by rw [hfold]
  rw [hearly]
  exact hfold

theorem State.sameKey_dropEarly (s : State) (n : Nat) (h : k ≠ Obj.REDUCE_LATE_PACKETS.key) :
    State.sameKey k s (s.dropEarly n) :=
  (State.sameKey_of_obj (t := { s with earlyPkts := s.earlyPkts.filter fun q => !decide (q.2.bale = n) }) rfl).trans
    (.foldl (fun t _ => State.sameKey_latePacket t _ _ h) _ _)

theorem State.abortCounted_results (s : State) (o : Op) (n : Nat) :
    s.steady (s.abortCounted o n) ∧ n ∈ (s.abortCounted o n).balesAborted ∧ (s.abortCounted o n).abortedInStep = true := by
  unfold State.abortCounted
  extract_lets u
  have hcount : s.steady u := ((State.onlyObj_incO s _ _ _ _).trans (State.onlyObj_coreFailed _ o)).steady
  generalize u = v at hcount
  have hdrop := State.onlyHold_dropEarly { v with abortedInStep := true, balesAborted := n :: v.balesAborted } n
  refine ⟨hcount.trans (hdrop.steady.eqThen rfl), ?_, ?_⟩
  · rw [hdrop]
    exact List.mem_cons_self
  · rw [hdrop]

/-- Keys that an abort changes besides those of a residue mismatch and of a core. -/
def abortKeys : List Nat :=
  [Obj.REDUCE_BYTES_SENT.key, Obj.REDUCE_ABORTED.key, Obj.REDUCE_LATE_PACKETS.key] ++ postKeys ++ leaveKeys

theorem State.sameKey_abortCounted (s : State) (o : Op) (n : Nat) (h : k ∉ abortKeys) (hlt : k < 0xA000 * 256) :
    State.sameKey k s (s.abortCounted o n) := by
  simp only [abortKeys, List.mem_append, List.mem_cons, not_or] at h
  obtain ⟨⟨⟨-, haborted, hlate, -⟩, -⟩, -⟩ := h
  unfold State.abortCounted
  extract_lets u
  have hcount : State.sameKey k s u := (State.sameKey_incO s _ _ _ _ haborted).trans (State.sameKey_coreFailed _ o hlt)
  exact hcount.trans ((State.sameKey_of_obj rfl).trans (State.sameKey_dropEarly _ n hlate))

/-- Where nothing is armed, the end of a bale moves no update operation on. -/
theorem State.updAdvanceAll_unarmed (h : ∀ p ∈ s.ops, p.2.upd = none) : s.updAdvanceAll = s := by
  refine foldl_eq_self fun id _ => ?_
  split
  · rename_i o hop
    have hupd : o.upd = none := h _ (State.mem_ops_of_op hop)
    refine (ite_eq_right_iff.2 fun _ => ?_)
    unfold State.updAdvance
    rw [hop]
    dsimp only
    rw [hupd]
    split
    · rename_i hsome
      cases hsome
    · rfl
  · rfl

/-- From s to t the bale n of operation id has been aborted. -/
structure State.baleAborted (s : State) (id n : Nat) (t : State) : Prop where
  steady : s.steady t
  gone : t.op? id = none
  idle : id ∉ t.readyQ
  bale : n ∈ t.balesAborted
  step : t.abortedInStep = true

theorem State.baleAborted.later {n : Nat} (h : s.baleAborted id n t) (h' : t.onlyHold u) : s.baleAborted id n u where
  steady := h.steady.trans h'.steady
  gone := (h'.op? id).trans h.gone
  idle := by
    rw [h']
    exact h.idle
  bale := by
    rw [h']
    exact h.bale
  step := by
    rw [h']
    exact h.step

/-- What an abort comes to where no update operation is armed (R262, R263). -/
theorem State.baleAbort_results (h : ∀ q ∈ s.ops, q.2.upd = none) (id : Nat) (o : Op) (b : Bale) (cause level adder stage : Nat) :
    s.baleAborted id b.n (s.baleAbort id o b cause level adder stage) ∧
    (∀ k, k ∉ abortKeys → k ∉ residueKeys → k < 0xA000 * 256 → State.sameKey k s (s.baleAbort id o b cause level adder stage)) ∧
    (cause = 1 → s.residueTold b.n level adder stage (s.baleAbort id o b cause level adder stage)) := by
  rw [State.baleAbort_eq]
  have hsent := s.onlyHold_abortSent o b
  have hsentKeys : ∀ k, k ∉ abortKeys → State.sameKey k s (s.abortSent o b) := fun k hk =>
    s.sameKey_abortSent o b fun e => hk (e ▸ by decide)
  generalize s.abortSent o b = v at hsent hsentKeys
  have hnoted : v.onlyObj (if cause = 1 then v.residueNoted b.n level adder stage else v) :=
    .ite (v.onlyObj_residueNoted ..) (.refl v)
  have hnotedKeys : ∀ k, k ∉ residueKeys →
      State.sameKey k v (if cause = 1 then v.residueNoted b.n level adder stage else v) := fun k hk =>
    .ite (v.sameKey_residueNoted _ _ _ _ hk) (.refl v)
  have htold : cause = 1 → v.residueTold b.n level adder stage (if cause = 1 then v.residueNoted b.n level adder stage else v) :=
    fun hcause => by
      rw [if_pos hcause]
      exact v.residueTold_residueNoted ..
  generalize (if cause = 1 then v.residueNoted b.n level adder stage else v) = x at hnoted hnotedKeys htold
  have hpost := x.steady_post (abortRecord o b.n cause level adder stage)
  obtain ⟨hcounted, hbale, hstep⟩ :=
    (x.post (abortRecord o b.n cause level adder stage)).abortCounted_results o b.n
  have hrestKeys : ∀ k, k ∉ abortKeys → k < 0xA000 * 256 → State.sameKey k x
      (((x.post (abortRecord o b.n cause level adder stage)).abortCounted o b.n).setCond (keyBale id) none) := fun k hk hlt => by
    have hk' := hk
    simp only [abortKeys, List.mem_append, not_or] at hk'
    obtain ⟨⟨-, hkpost⟩, hkleave⟩ := hk'
    exact (x.sameKey_post _ hkpost).trans ((State.sameKey_abortCounted _ o b.n hk hlt).trans
      (State.sameKey_setCond _ _ _ fun e => hkleave (List.mem_cons_of_mem _ e)))
  generalize (x.post (abortRecord o b.n cause level adder stage)).abortCounted o b.n = y at hcounted hbale hstep hrestKeys
  have hcond := State.onlyHold_setCond y (keyBale id) none
  obtain ⟨hend, hgone, hidle⟩ := (y.setCond (keyBale id) none).steady_endOp id o
  obtain ⟨-, -, hendKeys⟩ := (y.setCond (keyBale id) none).endOp_results id o
  have hendAside := (y.setCond (keyBale id) none).aside_endOp id o
  have hsteady : s.steady ((y.setCond (keyBale id) none).endOp id o) :=
    hsent.steady.trans (hnoted.steady.trans (hpost.trans (hcounted.trans (hcond.steady.trans hend))))
  rw [State.updAdvanceAll_unarmed (hsteady.unarmed h)]
  have hlast : ∀ k, k ∉ abortKeys → k < 0xA000 * 256 → State.sameKey k x ((y.setCond (keyBale id) none).endOp id o) :=
    fun k hk hlt => (hrestKeys k hk hlt).trans (hendKeys k fun e => hk (List.mem_append_right _ e))
  refine ⟨⟨hsteady, hgone, hidle, ?_, ?_⟩, fun k hk hres hlt => ?_, fun hcause => ?_⟩
  · rw [hendAside.rest, hcond]
    exact hbale
  · rw [hendAside.rest, hcond]
    exact hstep
  · exact (hsentKeys k hk).trans ((hnotedKeys k hres).trans (hlast k hk hlt))
  · refine ((htold hcause).since (hsentKeys _ (by decide))).later fun k hk => ?_
    have hkeys : ∀ k ∈ residueKeys, k ∉ abortKeys ∧ k < 0xA000 * 256 := by decide
    exact hlast k (hkeys k hk).1 (hkeys k hk).2

end

end Sys2Proof.Machine

namespace Sys2Proof.Machine

/-! ### The conditions of bales that cannot start yet (R253) -/

section
variable {s t : State} {id k : Nat} {o : Op} {b : Bale}

theorem State.onlyHold_judgeBale (s : State) (id : Nat) (o : Op) (b : Bale) : s.onlyHold (s.judgeBale id o b) := by
  unfold State.judgeBale
  extract_lets late had a
  have ha : s.onlyHold a := State.onlyHold_setCond s _ _
  exact .ite (.ite ha (ha.trans (State.onlyObj_incO a _ _ _ _).hold)) (.ite (State.onlyHold_setCond s _ _) (.refl s))

theorem State.sameKey_judgeBale (s : State) (id : Nat) (o : Op) (b : Bale) (h : k ∉ Obj.REDUCE_HOLDS.key :: holdKeys) :
    State.sameKey k s (s.judgeBale id o b) := by
  obtain ⟨hcount, hhold⟩ : k ≠ Obj.REDUCE_HOLDS.key ∧ k ∉ holdKeys := not_or.1 fun e => h (List.mem_cons.2 e)
  unfold State.judgeBale
  extract_lets late had a
  have ha : State.sameKey k s a := State.sameKey_setCond s _ _ hhold
  exact .ite (.ite ha (ha.trans (State.sameKey_incO a _ _ _ _ hcount))) (.ite (State.sameKey_setCond s _ _ hhold) (.refl s))

theorem State.onlyHold_judgeBales (s : State) : s.onlyHold s.judgeBales := by
  refine .foldl (fun t p => ?_) _ s
  split
  · exact .ite (State.onlyHold_judgeBale t _ _ _) (.refl t)
  · exact .refl t

theorem State.sameKey_judgeBales (s : State) (h : k ∉ Obj.REDUCE_HOLDS.key :: holdKeys) : State.sameKey k s s.judgeBales := by
  refine .foldl (fun t p => ?_) _ s
  split
  · exact .ite (State.sameKey_judgeBale t _ _ _ h) (.refl t)
  · exact .refl t

theorem State.onlyHold.sem_eq (h : s.onlyHold t) (n : Nat) : t.sem n = s.sem n := by
  rw [h]
  rfl

theorem State.onlyHold.readyQ (h : s.onlyHold t) : t.readyQ = s.readyQ := by rw [h]

end

/-! ### A refusal at step 1 (R39, R249) -/

section
variable {s : State} {id : Nat} {o : Op} {b : Bale}

/-- The counts of refused operations. -/
def refusedKeys : List Nat :=
  [Obj.MATRIX_REFUSED.key, Obj.VECTOR_REFUSED.key, Obj.SWIN_REFUSED.key, Obj.ATTN_REFUSED.key, Obj.DMA_REFUSED.key,
   Obj.UPDATE_REFUSED.key, Obj.REDUCE_REFUSED.key, Obj.THRESH_REFUSED.key]

theorem State.sameKey_countRefused {k : Nat} (s : State) (n : Nat) (h : k ∉ refusedKeys) :
    State.sameKey k s (s.countRefused n) := by
  have hcount : ∀ o : ObjDef, o.key ∈ refusedKeys → State.sameKey k s (s.incO o) := fun o ho =>
    State.sameKey_incO s _ _ _ _ fun e => h (e ▸ ho)
  unfold State.countRefused
  split
  case h_9 => exact .refl s
  all_goals exact hcount _ (by decide)

theorem State.leaveServed_dropReserved (s : State) (e : Option (Nat × Nat × Nat)) : s.leaveServed (s.dropReserved e) := by
  unfold State.dropReserved
  split
  · exact .refl s
  · extract_lets kept
    exact .ite (.refl s) ((State.leaveServed_resvs s kept).trans (State.leaveServed_serve _ _))

/-- A refused operation is gone, its stream is stopped, and its record is the last one. -/
theorem State.refuse_results (h : s.onePost) (id : Nat) (o : Op) (r : Refused) :
    (s.refuse id o r).op? id = none ∧ (s.refuse id o r).isStopped o.unit o.stream = true ∧
      (s.refuse id o r).getO Obj.ERR_LAST_REASON = 0x0101 := by
  unfold State.refuse
  extract_lets a c d e
  have hlast : a.getO Obj.ERR_LAST_REASON = 0x0101 := (State.posted_post s _ h).2.2
  have hc : State.sameKey Obj.ERR_LAST_REASON.key a c :=
    .trans (.ite (State.sameKey_countRefused a _ (by decide)) (.refl a)) (State.sameKey_coreFailed _ o (by decide))
  have hd : State.sameKey Obj.ERR_LAST_REASON.key c d := by
    refine State.sameKey_of_obj ?_
    dsimp only [d]
    unfold State.stopStream
    split_ifs <;> rfl
  have hstopped : d.isStopped o.unit o.stream = true := State.isStopped_stopStream c _ _
  obtain ⟨hend, hgone, hidle⟩ := d.steady_endOp id o
  obtain ⟨-, -, hkeys⟩ := d.endOp_results id o
  have hdropped := (d.endOp id o).steady_dropReserved o.entry
  have hjudged := e.onlyHold_judge o.table
  refine ⟨(hjudged.op? id).trans (hdropped.gone id hgone hidle).1,
    (hend.trans (hdropped.trans hjudged.steady)).stopped _ _ hstopped, ?_⟩
  have hafter : State.sameKey Obj.ERR_LAST_REASON.key d (e.judge o.table) :=
    (hkeys _ (by decide)).trans (((d.endOp id o).leaveServed_dropReserved o.entry).keys _ (by decide) |>.trans
      (State.sameKey_judge e _ (by decide)))
  exact ((hc.trans hd).trans hafter).getO.trans hlast

end

/-! ### A bale is taken (R248, R249, R253) -/

section
variable {s : State} {id tb ep n : Nat} {o : Op} {b : Bale}

/-- The entry of a bale does not begin with step 1. -/
theorem State.entryBegins_of_bale (hb : o.bale = some b) : s.entryBegins o = s := by
  unfold State.entryBegins
  rw [hb]
  split
  · rename_i hnone
    cases hnone
  · rfl

/-- A bale that comes first is taken by BALE_REDUCE. -/
theorem execBaleReduce_takes (hop : s.op? id = some o) (hbale : isBale o.desc = true) (hphase : o.phase = .submitted)
    (hstopped : s.isStopped o.unit o.stream = false)
    (hturn : ∀ p ∈ s.ops, p.1 < id → ∀ b', p.2.bale = some b' → b'.started = true) :
    exec (.baleReduce id) s = .next ((s.stepOne brCheck id o).fillWait id).judgeBales := by
  have hfirst : ¬(o.bale.isSome = true ∧
      (s.ops.any fun (p : Nat × Op) => decide (p.1 < id) && p.2.bale.any fun (b : Bale) => !b.started) = true) := by
    rintro ⟨-, hany⟩
    obtain ⟨p, hp, hwaits⟩ := List.any_eq_true.1 hany
    obtain ⟨hlt, hopen⟩ := Bool.and_eq_true_iff.1 hwaits
    obtain ⟨b', hb', hstarted⟩ := (Option.any_eq_true _ _).1 hopen
    rw [hturn p hp (of_decide_eq_true hlt) b' hb'] at hstarted
    cases hstarted
  rw [exec_baleReduce]
  unfold execBaleReduce
  simp only [hop, hbale, hphase, hstopped]
  rw [if_neg (by decide), if_neg (by decide), if_neg hfirst]

theorem State.stepOne_refuses (hb : o.bale = some b) {r : Refused} (hhead : s.headFail o = some r)
    (check : State → Op → State × Chk) : s.stepOne check id o = s.refuse id o r := by
  unfold State.stepOne
  rw [State.entryBegins_of_bale hb]
  simp only [hhead]

theorem State.stepOne_passes (hb : o.bale = some b) (hhead : s.headFail o = none) {check : State → Op → State × Chk} {g : Got}
    (hcheck : check s o = (s, .ok g)) : s.stepOne check id o = s.passed id { o with got := g } := by
  unfold State.stepOne
  rw [State.entryBegins_of_bale hb]
  simp only [hhead, hcheck]

/-- A bad header is refused (R39). -/
theorem baleReduce_refused {r : Refused} (hone : s.onePost) (hb : o.bale = some b) (hhead : s.headFail o = some r)
    (hnext : exec (.baleReduce id) s = .next ((s.stepOne brCheck id o).fillWait id).judgeBales) :
    ∃ t, exec (.baleReduce id) s = .next t ∧ t.op? id = none ∧ t.isStopped o.unit o.stream = true ∧
      t.getO Obj.ERR_LAST_REASON = 0x0101 := by
  obtain ⟨hgone, hstopped, hlast⟩ := State.refuse_results hone id o r
  rw [State.stepOne_refuses hb hhead] at hnext
  have hfill : (s.refuse id o r).fillWait id = s.refuse id o r := by
    unfold State.fillWait
    rw [hgone]
  rw [hfill] at hnext
  have hjudged := (s.refuse id o r).onlyHold_judgeBales
  exact ⟨_, hnext, (hjudged.op? id).trans hgone, hjudged.steady.stopped _ _ hstopped,
    (State.sameKey_judgeBales _ (by decide)).getO.trans hlast⟩

/-- The operation has taken the leave that its entry had reserved (R40, R486). -/
def State.leaveTaken (s : State) (id : Nat) (o : Op) (r : Resv) : State :=
  { s.makeReady id { o with held := r.cost } with resvs := s.resvs.filter fun (q : Resv) => !q.same r }

theorem find?_and_eq_some {α : Type} {p q : α → Bool} {l : List α} {a : α} (h : l.find? p = some a) (hq : q a = true) :
    l.find? (fun x => p x && q x) = some a := by
  obtain ⟨hp, as, bs, hl, hbefore⟩ := List.find?_eq_some_iff_append.1 h
  refine List.find?_eq_some_iff_append.2 ⟨by simp only [hp, hq, Bool.and_self], as, bs, hl, fun x hx => ?_⟩
  have hx := hbefore x hx
  simp only [Bool.not_eq_true'] at hx
  simp only [hx, Bool.false_and, Bool.not_false]

theorem State.requestLeave_reserved (hentry : o.entry = some (tb, ep, n)) (hclass : opLeaveClass o.desc ≠ 0)
    (hpre : opLeavePre o.desc = true) {r : Resv}
    (hfind : s.resvs.find? (fun r => decide (r.table = tb ∧ r.epoch = ep ∧ r.entry = n)) = some r) (hmade : r.made = true) :
    s.requestLeave id o = s.leaveTaken id o r := by
  have hgot : s.resvs.find? (fun r => decide (r.table = tb ∧ r.epoch = ep ∧ r.entry = n) && r.made) = some r :=
    find?_and_eq_some hfind hmade
  unfold State.requestLeave
  rw [if_neg hclass, if_pos ⟨hpre, by rw [hentry]; rfl⟩]
  unfold State.takeReserved
  split
  · rename_i q hq
    rw [hentry] at hq
    rw [← Option.some.inj (hgot.symm.trans hq)]
    rfl
  · rename_i hnone
    rw [hentry] at hnone
    cases hgot.symm.trans hnone

theorem State.op_leaveTaken (s : State) (id : Nat) (o : Op) (r : Resv) :
    (s.leaveTaken id o r).op? id = some { o with held := r.cost, phase := .ready } := State.op_setOp_same ..

theorem State.ringDone_furrow (h : 4096 ≤ o.ring) : s.ringDone o = s := if_neg (Nat.not_lt.2 h)

/-- An operation whose wait is granted at once goes on to step 3 (R38). -/
theorem State.passed_granted (hring : 4096 ≤ o.ring) (hen : opWsemEn o.desc = true) (hcount : opWcount o.desc ≠ 0)
    (hst : (s.sem (opWsem o.desc)).st ≠ 2) (hwaits : (s.sem (opWsem o.desc)).waits = [])
    (hle : opWcount o.desc ≤ (s.sem (opWsem o.desc)).count) :
    ∃ v : State, s.passed id o = v.requestLeave id o ∧ v.resvs = s.resvs ∧ v.sem (opWsem o.desc) =
      { s.sem (opWsem o.desc) with count := (s.sem (opWsem o.desc)).count - opWcount o.desc } := by
  let u := s.setOp id { o with phase := .waitSem, waitEpoch := s.getO Obj.SCHED_EPOCH }
  have hwait := State.semWaitOp_grants (s := u) (lock := false) (who := .op id) hcount hst (fun e => Bool.false_ne_true e.1)
    ⟨hwaits, hle, .inl rfl⟩
  refine ⟨(u.incO Obj.SEM_OPS).setSem (opWsem o.desc) (u.semGranted (opWsem o.desc) (opWcount o.desc) false (.op id)),
    ?_, ?_, State.sem_setSem_same ..⟩
  · unfold State.passed
    simp only [State.ringDone_furrow hring, hen, if_true, show s.setOp id _ = u from rfl, hwait]
  · show (u.incO Obj.SEM_OPS).resvs = _
    rw [State.onlyObj_incO u]
    rfl

theorem State.passed_waitless (hring : 4096 ≤ o.ring) (hen : opWsemEn o.desc = false) :
    s.passed id o = s.requestLeave id o := by
  unfold State.passed
  rw [State.ringDone_furrow hring, if_neg (by rw [hen]; decide)]

/-- Without a trigger of its own a bale is filled by the wait of step 2 (R248). -/
theorem State.fillWait_untriggered (hop : s.op? id = some o) (hb : o.bale = some b) (htrigger : brTrigger o.desc = false) :
    s.fillWait id = s.setOp id { o with bale := some { b with fillTaken := true } } := by
  unfold State.fillWait
  simp only [hop, hb]
  exact if_pos htrigger

/-- A full bale takes its count from FILL_SEM. -/
theorem State.fillWait_granted (hop : s.op? id = some o) (hb : o.bale = some b) (htrigger : brTrigger o.desc = true)
    (hcount : brFillCount o.desc ≠ 0) (hst : (s.sem (brFillSem o.desc)).st ≠ 2)
    (hwaits : (s.sem (brFillSem o.desc)).waits = []) (hle : brFillCount o.desc ≤ (s.sem (brFillSem o.desc)).count) :
    s.fillWait id = ((s.incO Obj.SEM_OPS).setSem (brFillSem o.desc)
      { s.sem (brFillSem o.desc) with count := (s.sem (brFillSem o.desc)).count - brFillCount o.desc }).setOp id
        { o with bale := some { b with fillTaken := true } } := by
  have hwait := State.semWaitOp_grants (s := s) (lock := false) (who := .fill id) hcount hst (fun e => Bool.false_ne_true e.1)
    ⟨hwaits, hle, .inl rfl⟩
  unfold State.fillWait
  simp only [hop, hb, hwait]
  exact if_neg (by rw [htrigger]; decide)

/-- A bale that is not full yet joins the list of FILL_SEM. -/
theorem State.fillWait_queued (hop : s.op? id = some o) (hb : o.bale = some b) (htrigger : brTrigger o.desc = true)
    (hcount : brFillCount o.desc ≠ 0) (hst : (s.sem (brFillSem o.desc)).st ≠ 2)
    (hfill : ¬((s.sem (brFillSem o.desc)).waits = [] ∧ brFillCount o.desc ≤ (s.sem (brFillSem o.desc)).count))
    (hpool : s.poolUsed < 65536) :
    ∃ m, s.fillWait id = ((s.incO Obj.SEM_OPS).setSem (brFillSem o.desc) { s.sem (brFillSem o.desc) with
      waits := (s.sem (brFillSem o.desc)).waits ++
        [{ who := .fill id, n := brFillCount o.desc, sem := brFillSem o.desc, epoch := s.getO Obj.SCHED_EPOCH }] }).maxO
          Obj.SEM_WAIT_POOL_MAX m := by
  obtain ⟨m, hwait⟩ := State.semWaitOp_queues (s := s) (lock := false) (who := .fill id) hcount hst
    (fun e => Bool.false_ne_true e.1) (fun e => hfill ⟨e.1, e.2.1⟩) hpool
  refine ⟨m, ?_⟩
  unfold State.fillWait
  simp only [hop, hb, hwait]
  exact if_neg (by rw [htrigger]; decide)

/-- In t operation id is ready as o, and the semaphore q is y. -/
structure State.readyWith (id : Nat) (o : Op) (q : Nat) (y : Sem) (t : State) : Prop where
  here : t.op? id = some o
  ready : id ∈ t.readyQ
  sem : t.sem q = y

theorem State.readyWith.later {q : Nat} {y : Sem} {t u : State} (h : t.readyWith id o q y) (h' : t.onlyHold u) :
    u.readyWith id o q y where
  here := (h'.op? id).trans h.here
  ready := h'.readyQ ▸ h.ready
  sem := (h'.sem_eq q).trans h.sem

end

/-! ### A bale that passes step 1 (R248) -/

section
variable {s : State} {id tb ep n : Nat} {o : Op} {b : Bale} {r : Resv} (hb : o.bale = some b)
  (hentry : o.entry = some (tb, ep, n)) (hring : 4096 ≤ o.ring) (hclass : opLeaveClass o.desc ≠ 0)
  (hpre : opLeavePre o.desc = true)
  (hfind : s.resvs.find? (fun r => decide (r.table = tb ∧ r.epoch = ep ∧ r.entry = n)) = some r) (hmade : r.made = true)
include hb hentry hring hclass hpre hfind hmade

/-- The end of the backward pass makes the bale ready once the wait of step 2 is granted. -/
theorem State.passed_waits (hen : opWsemEn o.desc = true) (htrigger : brTrigger o.desc = false) (hcount : opWcount o.desc ≠ 0)
    (hst : (s.sem (opWsem o.desc)).st ≠ 2) (hwaits : (s.sem (opWsem o.desc)).waits = [])
    (hle : opWcount o.desc ≤ (s.sem (opWsem o.desc)).count) :
    ((s.passed id o).fillWait id).readyWith id
      { o with phase := .ready, held := r.cost, bale := some { b with fillTaken := true } } (opWsem o.desc)
      { s.sem (opWsem o.desc) with count := (s.sem (opWsem o.desc)).count - opWcount o.desc } := by
  obtain ⟨v, hpassed, hresvs, hsem⟩ := State.passed_granted (id := id) hring hen hcount hst hwaits hle
  rw [← hresvs] at hfind
  rw [hpassed, State.requestLeave_reserved hentry hclass hpre hfind hmade,
    State.fillWait_untriggered (v.op_leaveTaken id o r) hb htrigger]
  exact ⟨State.op_setOp_same .., List.mem_append_right _ List.mem_cons_self, hsem⟩

/-- A full bale is ready once its count has been taken from FILL_SEM. -/
theorem State.passed_fills (hen : opWsemEn o.desc = false) (htrigger : brTrigger o.desc = true) (hcount : brFillCount o.desc ≠ 0)
    (hst : (s.sem (brFillSem o.desc)).st ≠ 2) (hwaits : (s.sem (brFillSem o.desc)).waits = [])
    (hle : brFillCount o.desc ≤ (s.sem (brFillSem o.desc)).count) :
    ((s.passed id o).fillWait id).readyWith id
      { o with phase := .ready, held := r.cost, bale := some { b with fillTaken := true } } (brFillSem o.desc)
      { s.sem (brFillSem o.desc) with count := (s.sem (brFillSem o.desc)).count - brFillCount o.desc } := by
  rw [State.passed_waitless hring hen, State.requestLeave_reserved hentry hclass hpre hfind hmade,
    State.fillWait_granted (s.op_leaveTaken id o r) hb htrigger hcount hst hwaits hle]
  refine ⟨State.op_setOp_same .., ?_, State.sem_setSem_same ..⟩
  show id ∈ ((s.leaveTaken id o r).incO Obj.SEM_OPS).readyQ
  rw [(State.onlyObj_incO (s.leaveTaken id o r) _ _ _ _).hold.readyQ]
  exact List.mem_append_right _ List.mem_cons_self

/-- A bale that is not full yet joins the list of FILL_SEM. -/
theorem State.passed_queues (hen : opWsemEn o.desc = false) (htrigger : brTrigger o.desc = true) (hcount : brFillCount o.desc ≠ 0)
    (hst : (s.sem (brFillSem o.desc)).st ≠ 2)
    (hfill : ¬((s.sem (brFillSem o.desc)).waits = [] ∧ brFillCount o.desc ≤ (s.sem (brFillSem o.desc)).count))
    (hpool : s.poolUsed < 65536) :
    ((s.passed id o).fillWait id).readyWith id { o with phase := .ready, held := r.cost } (brFillSem o.desc)
      { s.sem (brFillSem o.desc) with waits := (s.sem (brFillSem o.desc)).waits ++
        [{ who := .fill id, n := brFillCount o.desc, sem := brFillSem o.desc, epoch := s.getO Obj.SCHED_EPOCH }] } := by
  obtain ⟨m, hqueued⟩ := State.fillWait_queued (s.op_leaveTaken id o r) hb htrigger hcount hst hfill hpool
  rw [State.passed_waitless hring hen, State.requestLeave_reserved hentry hclass hpre hfind hmade, hqueued]
  have hops := (State.onlyObj_incO (s.leaveTaken id o r) Obj.SEM_OPS 1 0 0).hold
  refine .later ⟨?_, ?_, State.sem_setSem_same ..⟩ (State.onlyObj_maxO _ _ m _ _).hold
  · rw [State.op_setSem, hops.op?]
    exact s.op_leaveTaken id o r
  · show id ∈ ((s.leaveTaken id o r).incO Obj.SEM_OPS).readyQ
    rw [hops.readyQ]
    exact List.mem_append_right _ List.mem_cons_self

end

end Sys2Proof.Machine

namespace Sys2Proof.Machine

/-! ### The ports that carry the schedule's traffic, under holds (R420) -/

section
variable {s t u : State}

/-- No port has been cut off or taken up again. -/
def State.sameCut (s t : State) : Prop := ∀ p, (t.port p).cut = (s.port p).cut

theorem State.sameCut.refl (s : State) : s.sameCut s := fun _ => rfl

theorem State.sameCut.trans (h : s.sameCut t) (h' : t.sameCut u) : s.sameCut u := fun p => (h' p).trans (h p)

theorem State.sameCut.ite {p : Prop} [Decidable p] (h : s.sameCut t) (h' : s.sameCut u) : s.sameCut (if p then t else u) := by
  split_ifs <;> assumption

theorem State.onlyObj.sameCut (h : s.onlyObj t) : s.sameCut t := fun p => by
  rw [h]
  rfl

theorem State.sameCut_setPort (s : State) (n : Nat) (x : Port) (h : x.cut = (s.port n).cut) : s.sameCut (s.setPort n x) :=
  fun p => by
    by_cases hp : p = n
    · rw [hp, State.port_setPort_same, h]
    · rw [State.port_setPort_ne s n p x hp]

theorem State.sameCut.foldl {α : Type} {f : State → α → State} (h : ∀ (s : State) a, s.sameCut (f s a)) (l : List α) (s : State) :
    s.sameCut (l.foldl f s) := by
  induction l generalizing s with
  | nil => exact .refl s
  | cons a l ih => exact (h s a).trans (ih _)

theorem State.sameCut_flood (s : State) (k x y : Nat) : s.sameCut (s.flood k x y) := by
  unfold State.flood
  extract_lets n w a
  have ha : s.sameCut a := .refl s
  refine .ite ha (ha.trans ?_)
  unfold State.queueCtl
  refine .foldl (fun t p => ?_) _ a
  exact .ite (.refl t) (t.sameCut_setPort p _ rfl)

theorem State.sameCut_sendHold (s : State) (c : Cond) : s.sameCut (s.sendHold c) := by
  unfold State.sendHold
  extract_lets a b d e x f g
  have hd : s.onlyObj d := (State.onlyObj_incO s _ _ _ _).trans rfl
  have he : s.onlyObj e := .ite (hd.trans (State.onlyObj_incO d _ _ _ _)) hd
  exact he.sameCut.trans (State.sameCut_flood f _ _ _)

theorem State.sameCut_setCond (s : State) (k : Nat) (c : Option (Nat × Nat)) : s.sameCut (s.setCond k c) := by
  unfold State.setCond State.syncHold
  extract_lets rest now
  split
  · exact .refl s
  · exact State.sameCut_flood { s with alm := { s.alm with conds := now, own := none } } _ _ _
  · exact .ite (.refl s) (State.sameCut_sendHold { s with alm := { s.alm with conds := now } } _)

theorem State.sameCut_judge (s : State) (n : Nat) : s.sameCut (s.judge n) := by
  unfold State.judge
  extract_lets x mine l at_ next full a b c d
  exact (s.sameCut_setCond _ _).trans ((a.sameCut_setCond _ _).trans ((b.sameCut_setCond _ _).trans
    ((c.sameCut_setCond _ _).trans (d.sameCut_setCond _ _))))

theorem State.sameCut_judgeStep (s : State) : s.sameCut s.judgeStep := by
  unfold State.judgeStep
  generalize s.tables.flatMap _ = bs
  cases bs <;> exact s.sameCut_setCond _ _

theorem State.sameKey_judgeStep {k : Nat} (s : State) (h : k ∉ holdKeys) : State.sameKey k s s.judgeStep := by
  unfold State.judgeStep
  generalize s.tables.flatMap _ = bs
  cases bs <;> exact s.sameKey_setCond _ _ h

end

/-! ### An entry that a bale's start has met (R318) -/

section
variable {s t u : State} {tb : Nat} {p : Place}

/-- An entry begins on its beat with the state as it is. -/
theorem State.begin_of_begins {e : Nat} {w : Watch} (h : s.begins tb p e w) : s.begin tb p = some (s, e, w) := by
  have hbeat : s.entryBeat (s.table tb) p = some (e, s.entryAt p.epoch e) := by
    have hmeets : s.meets (s.beatAt p.epoch (entBeat e)) = true := by
      unfold State.meets
      rw [h.running, Bool.true_and]
      cases hstop : s.alm.stop with
      | none => rfl
      | some b => exact decide_eq_true (h.below b hstop)
    unfold State.entryBeat
    rw [h.here]
    exact if_pos ⟨h.epoch, hmeets⟩
  unfold State.begin
  simp only [hbeat, h.watched, h.onBeat]
  rw [if_pos ⟨h.next, Nat.le_refl _, h.step⟩, if_neg (Nat.lt_irrefl _)]

/-- From s to u holds have been judged, and besides only table tb has changed, which now stands at a place. -/
structure State.passedTo (s : State) (tb : Nat) (q : Place) (u : State) : Prop where
  rest : State.onlyHold { s with tables := u.tables } u
  next : (u.table tb).next = q
  keys : ∀ k, k ∉ holdKeys → State.sameKey k s u
  cut : s.sameCut u

theorem State.passedTo_passEntry (s : State) (tb : Nat) (p : Place) (key : Nat) :
    s.passedTo tb p.after ((s.passEntry tb p).setCond key none) := by
  unfold State.passEntry
  extract_lets x a
  have hnext : (a.table tb).next = p.after := by
    show (SMap.get {} (SMap.set {} s.tables tb _) tb).next = _
    rw [SMap.get_set_same]
  have hkeys : ∀ k, State.sameKey k s a := fun _ => State.sameKey_of_obj rfl
  have hcut : s.sameCut a := .refl s
  have hset : a = { s with tables := a.tables } := rfl
  generalize a = v at hnext hkeys hcut hset
  have hrest := (v.onlyHold_judge tb).trans ((v.judge tb).onlyHold_judgeStep.trans (State.onlyHold_setCond _ key none))
  have htables : ((v.judge tb).judgeStep.setCond key none).tables = v.tables := by rw [hrest]
  refine ⟨?_, ?_, fun k hk => ?_, ?_⟩
  · rw [htables, ← hset]
    exact hrest
  · unfold State.table
    rw [htables]
    exact hnext
  · exact (hkeys k).trans ((v.sameKey_judge tb hk).trans ((State.sameKey_judgeStep _ hk).trans (State.sameKey_setCond _ _ _ hk)))
  · exact hcut.trans ((v.sameCut_judge tb).trans ((State.sameCut_judgeStep _).trans (State.sameCut_setCond _ _ _)))

theorem State.passedTo.op? {q : Place} (h : s.passedTo tb q u) (k : Nat) : u.op? k = s.op? k := h.rest.op? k

theorem State.passedTo.chk {q : Place} (h : s.passedTo tb q u) : u.chk = s.chk := h.rest.chk

end

end Sys2Proof.Machine

namespace Sys2Proof.Machine

/-! ### What the work of a bale leaves alone on clean memory (R239, R244) -/

section
variable {s t u : State} {id k : Nat} {o : Op} {b : Bale}

/-- Only values, open values, messages, holds and memory have changed. -/
def State.onlyWire (s t : State) : Prop :=
  t = { s with obj := t.obj, freeCtr := t.freeCtr, alm := t.alm, ports := t.ports, mem := t.mem }

theorem State.onlyHold.wire (h : s.onlyHold t) : s.onlyWire t := by
  unfold State.onlyHold at h
  unfold State.onlyWire
  rw [h]

theorem State.onlyWork.wire (h : s.onlyWork t) : s.onlyWire t := by
  unfold State.onlyWork at h
  unfold State.onlyWire
  rw [h]

theorem State.onlyWire.linkCfg (h : s.onlyWire t) : t.linkCfg = s.linkCfg := by rw [h]

theorem State.onlyWire.allClean (h : s.onlyWire t) (hc : s.allClean) : t.allClean := by
  rw [h]
  exact hc

/-- The number of levels and the rank of a device are those of its links (R237). -/
theorem State.levels_congr (h : t.linkCfg = s.linkCfg) : t.levels = s.levels := by
  unfold State.levels State.devices State.fieldSize
  rw [h]

theorem State.rank_congr (h : t.linkCfg = s.linkCfg) : t.rank = s.rank := by
  unfold State.rank State.fieldRank State.fieldSize
  rw [h]

/-- Keys at which the roundings of a bale are noted. -/
def roundingKeys : List Nat := [Obj.REDUCE_FLAGS.key, Obj.REDUCE_SATURATIONS.key, Obj.SATURATION_TOTAL.key]

theorem State.recordBale_clean (h : s.allClean) (n : Nat) (w : Work) :
    s.onlyWork (s.recordBale n w) ∧ ∀ k, k ∉ roundingKeys → State.sameKey k s (s.recordBale n w) := by
  unfold State.recordBale
  extract_lets a c
  have ha : s.onlyObj a := State.onlyObj_orO ..
  have hc : s.onlyObj c := .ite ha (ha.trans ((State.onlyObj_incO a _ _ _ _).trans (State.onlyObj_incO _ _ _ _ _)))
  have hkeys : ∀ k, k ∉ roundingKeys → State.sameKey k s c := fun k hk => by
    simp only [roundingKeys, List.mem_cons, not_or] at hk
    obtain ⟨hflags, hsats, htotal, -⟩ := hk
    have hak : State.sameKey k s a := State.sameKey_orO _ _ _ _ _ hflags
    exact .ite hak (hak.trans ((State.sameKey_incO a _ _ _ _ hsats).trans (State.sameKey_incO _ _ _ _ _ htotal)))
  have hclean : c.allClean := hc.hold.allClean h
  rw [State.readMem_clean _ _ _ (hclean.clean _ 64)]
  dsimp only
  have hpoke : ∀ (d : State) (x : Nat) (bs : List Byte), c.onlyObj d → d.obj = c.obj →
      s.onlyWork (d.writeMem x bs).1 ∧ ∀ k, k ∉ roundingKeys → State.sameKey k s (d.writeMem x bs).1 := by
    intro d x bs hd hobj
    rw [State.writeMem_clean _ (hd.hold.allClean hclean)]
    exact ⟨hc.work.trans (hd.work.trans (State.onlyWork_poke _ _ _)), fun k hk =>
      (hkeys k hk).trans (State.sameKey_of_obj hobj)⟩
  split_ifs
  · exact ⟨hc.work, hkeys⟩
  · exact hpoke _ _ _ (.refl c) rfl
  · exact hpoke _ _ _ (State.onlyObj_drew c) rfl
  · exact ⟨hc.work, hkeys⟩

theorem State.onlyHold_sendRange (s : State) (o : Op) (b : Bale) (x lo hi : Nat) : s.onlyHold (s.sendRange o b x lo hi) :=
  .foldl (fun t _ => State.onlyHold_sendPacket t _ _) _ s

theorem State.sameKey_sendRange (s : State) (o : Op) (b : Bale) (x lo hi : Nat) (h : k ≠ Obj.REDUCE_BYTES_SENT.key) :
    State.sameKey k s (s.sendRange o b x lo hi) := .foldl (fun t _ => State.sameKey_sendPacket t _ _ h) _ s

/-- A bale that waits for the values of a partner does not go on. -/
theorem State.baleGo_waits (hop : s.op? id = some o) (hb : o.bale = some b) (hgather : b.gather = false)
    (hlev : b.lev ≠ s.levels) (hwait : b.complete s.rank (b.lev + 1) = false) (flip level m : Nat) :
    s.baleGo id flip level m = s := by
  cases m with
  | zero => rfl
  | succ m =>
    unfold State.baleGo
    simp only [hop, hb, hgather, hwait]
    rw [if_neg Bool.false_ne_true, if_neg hlev, if_neg Bool.false_ne_true, ite_self]

/-- With its last value gathered a bale ends (R239). -/
theorem State.baleGo_ends (hop : s.op? id = some o) (hphase : o.phase = .executing) (hb : o.bale = some b)
    (hgather : b.gather = true) (hlev : b.lev = 0) (flip level m : Nat) : s.baleGo id flip level (m + 1) = s.baleEnd id o b := by
  unfold State.baleGo
  simp only [hop, hb, hgather, hphase]
  rw [if_neg (by decide), if_pos trivial, if_pos hlev]

/-- A device alone has reduced its bale without an exchange (R239). -/
theorem State.baleGo_alone (hop : s.op? id = some o) (hphase : o.phase = .executing) (hb : o.bale = some b)
    (hgather : b.gather = false) (hlev : b.lev = 0) (halone : s.levels = 0) (flip level m : Nat) :
    s.baleGo id flip level (m + 2) = (s.setOp id { o with bale := some { b with gather := true } }).baleEnd id
      { o with bale := some { b with gather := true } } { b with gather := true } := by
  let b' := { b with gather := true }
  have hends := State.baleGo_ends (s := s.setOp id { o with bale := some b' }) (b := b') (State.op_setOp_same ..) hphase rfl rfl
    hlev flip level m
  rw [← hends, State.baleGo]
  simp only [hop, hb, hgather, hphase]
  rw [if_neg (by decide), if_neg Bool.false_ne_true, if_pos (hlev.trans halone.symm), if_pos halone]

/-- The census, the mark and the last judgement of a bale whose values have been delivered (R257). -/
def State.baleFinished (s : State) (id : Nat) (o : Op) (b : Bale) (census : Nat) : State :=
  let u := s.incO Obj.REDUCE_CENSUS_STEP census
  ((({ u with balesDone := u.balesDone ++ [(b.n, b.elems, census)] } : State).setOp id
    { o with phase := .executed, bale := some b }).updAdvanceAll).judgeHeld

/-- Tables, operations and the packets that wait have not changed. -/
def State.sameCourse (s t : State) : Prop :=
  (t.tables, t.ops, t.readyQ, t.earlyPkts) = (s.tables, s.ops, s.readyQ, s.earlyPkts)

theorem State.sameCourse.trans (h : s.sameCourse t) (h' : t.sameCourse u) : s.sameCourse u := Eq.trans h' h

theorem State.onlyWire.course (h : s.onlyWire t) : s.sameCourse t := by
  unfold State.sameCourse
  rw [h]

theorem State.sameCourse.fields (h : s.sameCourse t) :
    t.tables = s.tables ∧ t.ops = s.ops ∧ t.readyQ = s.readyQ ∧ t.earlyPkts = s.earlyPkts := by
  simpa only [State.sameCourse, Prod.mk.injEq] using h

/-- On clean memory a bale ends with its values delivered or written (R256). -/
theorem State.baleEnd_clean (h : s.allClean) (id : Nat) (o : Op) (b : Bale) :
    ∃ v c, s.baleEnd id o b = v.baleFinished id o b c ∧ s.sameCourse v ∧
      ∀ k, k ≠ Obj.REDUCE_FLAGS.key → State.sameKey k s v := by
  unfold State.baleEnd
  extract_lets d census finish vs a x
  split_ifs
  · have ha : s.onlyObj a := State.onlyObj_orO ..
    exact ⟨_, census, rfl, ha.hold.wire.course.trans rfl, fun k hk =>
      (State.sameKey_orO s _ _ _ _ hk).trans (State.sameKey_of_obj rfl)⟩
  · rw [State.writeAll_clean _ h]
    have hpokes := fun ws => s.onlyWork_pokes ws
    generalize List.map _ b.vals.zipIdx = ws
    obtain ⟨bs, -, hset⟩ := State.setSexp_clean (h.pokes ws) (brResult d) b.scale
    dsimp only
    rw [hset]
    exact ⟨_, census, rfl, ((hpokes ws).trans (State.onlyWork_poke _ _ bs)).wire.course, fun k _ =>
      State.sameKey_of_obj (congrArg State.obj (s.pokes_rest ws) :)⟩

/-- Keys that the end of a bale changes. -/
def baleEndKeys : List Nat := [Obj.REDUCE_FLAGS.key, Obj.REDUCE_CENSUS_STEP.key] ++ holdKeys

/-- From s to t bale operation id has done its work (R256, R257). -/
structure State.baleExecuted (s : State) (id : Nat) (t : State) : Prop where
  here : ∃ p, t.op? id = some p ∧ p.phase = .executed
  keys : ∀ k, k ∉ baleEndKeys → State.sameKey k s t
  tables : t.tables = s.tables
  ready : t.readyQ = s.readyQ
  early : t.earlyPkts = s.earlyPkts

theorem State.baleExecuted_finished (h : ∀ p ∈ s.ops, p.2.upd = none) (hupd : o.upd = none) (id : Nat) (b : Bale) (census : Nat) :
    s.baleExecuted id (s.baleFinished id o b census) := by
  unfold State.baleFinished
  extract_lets u
  have hu : s.onlyObj u := State.onlyObj_incO ..
  obtain ⟨htables, hops, hready, hearly⟩ := hu.hold.wire.course.fields
  have hkeys : ∀ k, k ∉ baleEndKeys → State.sameKey k s u := fun k hk => State.sameKey_incO _ _ _ _ _ fun e => hk (e ▸ by decide)
  generalize hx : ({ u with balesDone := u.balesDone ++ [(b.n, b.elems, census)] } : State).setOp id _ = x
  have hunarmed : ∀ p ∈ x.ops, p.2.upd = none := fun p hp => by
    rw [← hx] at hp
    rcases SMap.mem_put hp with rfl | hp
    · exact hupd
    · exact h p (hops ▸ hp)
  rw [State.updAdvanceAll_unarmed hunarmed]
  have hheld := x.onlyHold_judgeHeld
  obtain ⟨htables', -, hready', hearly'⟩ := hheld.wire.course.fields
  refine ⟨⟨_, (hheld.op? id).trans (hx ▸ State.op_setOp_same ..), rfl⟩, fun k hk => ?_, htables'.trans (hx ▸ htables),
    hready'.trans (hx ▸ hready), hearly'.trans (hx ▸ hearly)⟩
  exact (hkeys k hk).trans ((State.sameKey_of_obj (hx ▸ rfl)).trans (x.sameKey_judgeHeld fun e =>
    hk (List.mem_append_right _ e)))

theorem State.baleExecuted_baleEnd (hclean : s.allClean) (h : ∀ p ∈ s.ops, p.2.upd = none) (hupd : o.upd = none) (id : Nat)
    (b : Bale) : s.baleExecuted id (s.baleEnd id o b) := by
  obtain ⟨v, c, hend, hcourse, hkeys⟩ := State.baleEnd_clean hclean id o b
  obtain ⟨htables, hops, hready, hearly⟩ := hcourse.fields
  have hdone := State.baleExecuted_finished (s := v) (by rw [hops]; exact h) hupd id b c
  rw [hend]
  exact ⟨hdone.here, fun k hk => (hkeys k fun e => hk (e ▸ by decide)).trans (hdone.keys k hk), hdone.tables.trans htables,
    hdone.ready.trans hready, hdone.early.trans hearly⟩

end

end Sys2Proof.Machine

namespace Sys2Proof.Machine

/-! ### What the start of a bale reads (R243, R262) -/

section
variable {s t v : State}

/-- From s to v the links, memory and all values are kept but the next number and what holds note, and no port has been cut. -/
structure State.startsAlike (s v : State) : Prop where
  mem : v.mem = s.mem
  chk : v.chk = s.chk
  linkCfg : v.linkCfg = s.linkCfg
  cut : s.sameCut v
  keys : ∀ k, k ∉ Obj.REDUCE_NEXT_BALE.key :: holdKeys → State.sameKey k s v

theorem State.startsAlike.flows (h : s.startsAlike v) : v.flows = s.flows := by
  funext p
  have hsub : ∀ m ∈ Obj.REDUCE_NEXT_BALE.key :: holdKeys, m % 256 ≠ 2 := by decide
  have hkey : State.sameKey (Obj.PORT_STATE.key p) s v := h.keys _ fun e => hsub _ e (show ((0x4210 + p) * 256 + (2 + 0)) % 256 = 2 by omega)
  unfold State.flows State.portUp
  rw [hkey.getO, h.cut p]

/-- The partners of a device are those of its links (R239). -/
theorem State.partner_congr (h : t.linkCfg = s.linkCfg) : t.partner = s.partner := by
  funext j
  unfold State.partner State.originOf State.fieldSize
  rw [State.rank_congr h, h]

theorem State.startsAlike.pathLost (h : s.startsAlike v) : v.pathLost = s.pathLost := by
  have hlink := h.linkCfg
  have hroute : v.route = s.route := by
    funext d
    unfold State.route State.coordsOf State.origin State.fieldRank State.rings4
    rw [hlink]
  have hpartner : v.partner = s.partner := State.partner_congr hlink
  unfold State.pathLost State.vc2Port
  rw [State.levels_congr hlink, hroute, hpartner, h.flows]

theorem State.startsAlike.localNodes (h : s.startsAlike v) (o : Op) (b : Bale) (x : TD) :
    v.localNodes o b x = s.localNodes o b x := by
  have hel : v.el x = s.el x := funext fun ix => State.el_of_mem h.mem x ix
  have hseed : v.getO Obj.WINNOW_JOB_SEED = s.getO Obj.WINNOW_JOB_SEED := (h.keys _ (by decide)).getO
  funext n p
  unfold State.localNodes
  rw [hel, hseed, State.rank_congr h.linkCfg]

theorem State.startsAlike.localTree (h : s.startsAlike v) (o : Op) (b : Bale) (x : TD) :
    v.localTree o b x = s.localTree o b x := by
  unfold State.localTree
  rw [h.localNodes]

theorem State.startsAlike.localChecks (h : s.startsAlike v) (o : Op) (b : Bale) (x : TD) (flip level : Nat) :
    v.localChecks o b x flip level = s.localChecks o b x flip level := by
  have hel : v.el x = s.el x := funext fun ix => State.el_of_mem h.mem x ix
  have hseed : v.getO Obj.WINNOW_JOB_SEED = s.getO Obj.WINNOW_JOB_SEED := (h.keys _ (by decide)).getO
  unfold State.localChecks
  rw [h.localNodes, hel, hseed]

theorem State.baleScale_clean (h : s.allClean) (d n : Nat) : s.baleScale d n = (s, (s.baleScale d n).2.1, none) := by
  unfold State.baleScale
  split_ifs
  · rw [State.readMem_clean _ _ _ (h.clean _ 64)]
  · rfl

theorem State.startsAlike.baleScale (h : s.startsAlike v) (hs : s.allClean) (d n : Nat) :
    (v.baleScale d n).2.1 = (s.baleScale d n).2.1 := by
  have hv : v.allClean := fun c => by
    rw [h.chk]
    exact hs c
  have hentries : v.getO Obj.REDUCE_BSCALE_ENTRIES = s.getO Obj.REDUCE_BSCALE_ENTRIES := (h.keys _ (by decide)).getO
  have hbase : v.getO Obj.REDUCE_BSCALE_BASE = s.getO Obj.REDUCE_BSCALE_BASE := (h.keys _ (by decide)).getO
  unfold State.baleScale State.bscaleAt
  rw [hentries, hbase, State.readMem_clean _ _ _ (hv.clean _ 64), State.readMem_clean _ _ _ (hs.clean _ 64),
    State.peek_of_mem h.mem]
  split_ifs <;> rfl

end

/-! ### The start of a bale (R252, R253) -/

section
variable {s t u v : State} {id tb : Nat} {o : Op} {b : Bale} {x : TD} {flip level : Nat}

/-- The bale operation has its number and goes to step 4. -/
def State.numbered (s : State) (id : Nat) (o : Op) : State :=
  let u := s.incO Obj.REDUCE_NEXT_BALE
  { u.setOp id o with readyQ := u.readyQ.filter fun (x : Nat) => decide (x ≠ id) }

/-- The packets that came before the bale's start are received (R251). -/
def State.earlyReceived (s : State) (n flip level : Nat) : State :=
  (s.earlyPkts.filter fun (q : Nat × RedPacket) => decide (q.2.bale = n)).foldl (fun (s : State) (q : Nat × RedPacket) =>
    match s.flying n with
    | some (id, o, b) => s.packetIn id o b q.1 q.2 (if flip ≤ 3 then flip else 0) level
    | none => s.latePacket q.1 q.2)
    { s with earlyPkts := s.earlyPkts.filter fun (q : Nat × RedPacket) => !decide (q.2.bale = n) }

/-- The values of the local levels are recorded and held, and the half not kept at device level 1 is sent (R239, R244). -/
def State.valuesHeld (s : State) (id : Nat) (o : Op) (b : Bale) (x : TD) : State :=
  let xs := s.localTree o b x
  let b' := { b with vals := xs.map (·.1) }
  let t := (s.recordBale b.n (xs.foldl (fun w (p : Nat × Work) => w.join p.2) {})).setOp id { o with bale := some b' }
  if t.levels = 0 then t else t.sendRange o b' 1 (giveHalf t.rank 1 0 b'.elems).1 (giveHalf t.rank 1 0 b'.elems).2

/-- What the start of a bale comes to once it is numbered and has its scale. -/
def State.baleLaunch (s : State) (id : Nat) (o : Op) (b : Bale) (x : TD) (flip level : Nat) : State :=
  if s.pathLost then (s.setOp id o).baleAbort id o b 4 (brLocal o.desc) 0 0
  else if s.localChecks o b x flip level then (s.setOp id o).baleAbort id o b 1 level (8 + dieOfUnit o.unit) flip
  else
    let t := s.valuesHeld id o b x
    (t.baleGo id flip level t.baleFuel).earlyReceived b.n flip level

/-- The start of a bale from the reading of its scale on. -/
def State.baleRead (s : State) (id : Nat) (o : Op) (b : Bale) (flip level : Nat) : State :=
  let (s, sc, ue) := s.baleScale o.desc b.n
  let b := { b with scale := sc, lo := 0, hi := b.elems }
  let o := { o with bale := some b }
  let t := tensor o.got.list 0
  let (s, bad) := s.touch t.cells
  if ue.isSome ∨ bad.isSome then (s.setOp id o).baleAbort id o b 2 0 0 0
  else s.baleLaunch id o b t flip level

theorem State.baleStart_eq (hop : s.op? id = some o) (hb : o.bale = some b) (flip level : Nat) :
    ∀ b0 o0, b0 = { b with started := true, pair := (s.incO Obj.REDUCE_NEXT_BALE).freePair } →
      o0 = { o with phase := .executing, step := (s.incO Obj.REDUCE_NEXT_BALE).getO Obj.WINNOW_STEP, bale := some b0 } →
      s.baleStart id flip level = (s.numbered id o0).baleRead id o0 b0 flip level := by
  rintro b0 o0 rfl rfl
  unfold State.baleStart
  split
  · rename_i hnone
    cases hop.symm.trans hnone
  · rename_i q hq
    obtain rfl := Option.some.inj (hop.symm.trans hq)
    split
    · rename_i hnone
      cases hb.symm.trans hnone
    · rename_i c hc
      obtain rfl := Option.some.inj (hb.symm.trans hc)
      rfl

/-- On clean memory the scale and the leaves are read as they are. -/
theorem State.baleRead_clean (h : s.allClean) (id : Nat) (o : Op) (b : Bale) (flip level : Nat) :
    ∀ b', b' = { b with scale := (s.baleScale o.desc b.n).2.1, lo := 0, hi := b.elems } →
      s.baleRead id o b flip level = s.baleLaunch id { o with bale := some b' } b' (tensor o.got.list 0) flip level := by
  rintro b' rfl
  unfold State.baleRead
  rw [State.baleScale_clean h]
  dsimp only
  rw [State.touch_clean _ h]
  exact if_neg fun h => h.elim Bool.false_ne_true Bool.false_ne_true

theorem State.freePair_congr (h : t.ops = s.ops) : t.freePair = s.freePair := by
  unfold State.freePair
  rw [h]

/-- On clean memory a bale starts with its scale and the leaves as they are read. -/
theorem State.baleStart_clean (h : s.allClean) (hop : s.op? id = some o) (hb : o.bale = some b) (flip level : Nat) :
    ∃ v, s.startsAlike v ∧ v.getO Obj.REDUCE_NEXT_BALE = (s.incO Obj.REDUCE_NEXT_BALE).getO Obj.REDUCE_NEXT_BALE ∧
      v.tables = s.tables ∧ v.earlyPkts = s.earlyPkts ∧ id ∉ v.readyQ ∧
      (o.upd = none → (∀ p ∈ s.ops, p.2.upd = none) → ∀ p ∈ v.ops, p.2.upd = none) ∧
      ∀ b', b' = { b with started := true, pair := s.freePair, scale := (s.baleScale o.desc b.n).2.1, lo := 0, hi := b.elems } →
        s.baleStart id flip level = v.baleLaunch id
          { o with phase := .executing, step := s.getO Obj.WINNOW_STEP, bale := some b' } b' (tensor o.got.list 0) flip level := by
  have hnum := State.onlyObj_incO s Obj.REDUCE_NEXT_BALE 1 0 0
  have hkeys : ∀ k, k ≠ Obj.REDUCE_NEXT_BALE.key → State.sameKey k s (s.incO Obj.REDUCE_NEXT_BALE) := fun k hk =>
    State.sameKey_incO _ _ _ _ _ hk
  obtain ⟨htables, hops, -, hearly⟩ := hnum.hold.wire.course.fields
  have hstep : (s.incO Obj.REDUCE_NEXT_BALE).getO Obj.WINNOW_STEP = s.getO Obj.WINNOW_STEP := (hkeys _ (by decide)).getO
  obtain ⟨b0, hb0⟩ : ∃ b0 : Bale, b0 = { b with started := true, pair := s.freePair } := ⟨_, rfl⟩
  obtain ⟨q, hq⟩ : ∃ q : Op, q = { o with phase := .executing, step := s.getO Obj.WINNOW_STEP, bale := some b0 } := ⟨_, rfl⟩
  have hstart := State.baleStart_eq hop hb flip level b0 q (by rw [hb0, State.freePair_congr hops]) (by rw [hq, hstep])
  have halike : s.startsAlike (s.numbered id q) :=
    ⟨hnum.mem, hnum.work.chk, hnum.hold.wire.linkCfg, hnum.sameCut, fun k hk =>
      (hkeys k fun e => hk (e ▸ List.mem_cons_self)).trans (State.sameKey_of_obj rfl)⟩
  refine ⟨s.numbered id q, halike, rfl, htables, hearly, fun hmem => of_decide_eq_true (List.mem_filter.1 hmem).2 rfl,
    fun hupd hall p hp => ?_, fun b' hb' => ?_⟩
  · rcases SMap.mem_put hp with rfl | hp
    · exact hq ▸ hupd
    · exact hall p (hops ▸ hp)
  · have hclean : (s.numbered id q).allClean := fun c => by
      rw [halike.chk]
      exact h c
    have hscale : ((s.numbered id q).baleScale q.desc b0.n).2.1 = (s.baleScale o.desc b.n).2.1 := by
      rw [halike.baleScale h, hq, hb0]
    rw [hstart, State.baleRead_clean hclean id q b0 flip level b' (by rw [hb', hscale, hb0]), hq]

end

end Sys2Proof.Machine

namespace Sys2Proof.Machine

/-! ### A bale starts at its entry (R252, R253) -/

section
variable {s t u v : State} {id tb m : Nat} {q : Place} {o : Op} {b : Bale} {x : TD} {flip level : Nat}

theorem State.startsAlike.trans (h : s.startsAlike t) (h' : t.startsAlike u) : s.startsAlike u where
  mem := h'.mem.trans h.mem
  chk := h'.chk.trans h.chk
  linkCfg := h'.linkCfg.trans h.linkCfg
  cut := h.cut.trans h'.cut
  keys k hk := (h.keys k hk).trans (h'.keys k hk)

theorem State.passedTo.startsAlike (h : s.passedTo tb q u) : s.startsAlike u where
  mem := h.rest.mem
  chk := h.chk
  linkCfg := h.rest.wire.linkCfg
  cut := h.cut
  keys k hk := h.keys k fun e => hk (List.mem_cons_of_mem _ e)

/-- BALE_START on the beat of an entry without a stamp. -/
theorem execBaleStart_begins {p : Place} {e : Nat} {w : Watch} (hop : s.op? id = some o) (hphase : o.phase = .ready)
    (hentry : o.entry = some (tb, p.epoch, p.entry)) (hb : o.bale = some b) (hwaits : b.started = false)
    (hfilled : b.fillTaken = true) (hbegins : s.begins tb p e w) (hstamp : entStamp e = false) (hroom : s.inFlight < 8)
    (hturn : b.n = s.getO Obj.REDUCE_NEXT_BALE) :
    exec (.baleStart id ⟨flip, level⟩) s =
      .next ((((s.passEntry tb p).setCond (keyBale id) none).baleStart id flip level).judgeBales) := by
  have hgoes : ¬(o.phase ≠ .ready ∨ b.started = true ∨ b.fillTaken = false ∨ s.inFlight ≥ 8 ∨
      b.n ≠ s.getO Obj.REDUCE_NEXT_BALE) := by
    rintro (h | h | h | h | h)
    · exact h hphase
    · exact Bool.false_ne_true (hwaits.symm.trans h)
    · exact Bool.false_ne_true (h.symm.trans hfilled)
    · exact Nat.not_lt.2 h hroom
    · exact h hturn
  have hentered : s.stampEntry tb e p = s := if_neg (by rw [hstamp]; decide)
  rw [exec_baleStart]
  unfold execBaleStart
  simp only [hop, hb, hentry, State.begin_of_begins hbegins]
  rw [if_neg hgoes, hentered]

/-- A bale waits until fewer than eight are in flight and its number is the next. -/
theorem execBaleStart_idle (hop : s.op? id = some o) (hb : o.bale = some b)
    (hwait : 8 ≤ s.inFlight ∨ b.n ≠ s.getO Obj.REDUCE_NEXT_BALE) : exec (.baleStart id ⟨flip, level⟩) s = .next s := by
  rw [exec_baleStart]
  unfold execBaleStart
  simp only [hop, hb]
  cases o.entry with
  | none => rfl
  | some e => exact if_pos (.inr (.inr (.inr hwait)))

/-- In t the bale operation id has been numbered m, and its table has gone on to a place. -/
structure State.numberTaken (tb : Nat) (q : Place) (id m : Nat) (t : State) : Prop where
  number : t.getO Obj.REDUCE_NEXT_BALE = m + 1
  next : (t.table tb).next = q
  idle : id ∉ t.readyQ

theorem State.numberTaken.aborted {n : Nat} (h : t.numberTaken tb q id m) (ht : t.baleAborted id n u)
    (hkey : State.sameKey Obj.REDUCE_NEXT_BALE.key t u) : u.numberTaken tb q id m where
  number := hkey.getO.trans h.number
  next := (ht.steady.next tb).trans h.next
  idle := ht.idle

theorem State.numberTaken.kept (h : t.numberTaken tb q id m) (htables : u.tables = t.tables) (hready : u.readyQ = t.readyQ)
    (hkey : State.sameKey Obj.REDUCE_NEXT_BALE.key t u) : u.numberTaken tb q id m where
  number := hkey.getO.trans h.number
  next := by
    unfold State.table
    rw [htables]
    exact h.next
  idle := hready ▸ h.idle

theorem State.numberTaken.judged (h : t.numberTaken tb q id m) : t.judgeBales.numberTaken tb q id m :=
  have hjudged := t.onlyHold_judgeBales.wire.course.fields
  h.kept hjudged.1 hjudged.2.2.1 (t.sameKey_judgeBales (by decide))

/-- From s to v the next bale has been numbered m: nothing is armed, and the start of the bale reads in v what it reads in s. -/
structure State.startsFrom (s : State) (tb : Nat) (q : Place) (id m : Nat) (v : State) : Prop where
  alike : s.startsAlike v
  taken : v.numberTaken tb q id m
  early : v.earlyPkts = s.earlyPkts
  unarmed : ∀ p ∈ v.ops, p.2.upd = none

/-- On clean memory BALE_START comes to the launch of the bale. -/
theorem baleStart_launches {p : Place} {e : Nat} {w : Watch} {b' : Bale} {o' : Op} (hop : s.op? id = some o) (hphase : o.phase = .ready)
    (hentry : o.entry = some (tb, p.epoch, p.entry)) (hb : o.bale = some b) (hwaits : b.started = false)
    (hfilled : b.fillTaken = true) (hbegins : s.begins tb p e w) (hstamp : entStamp e = false) (hclean : s.allClean)
    (hunarmed : ∀ p ∈ s.ops, p.2.upd = none) (hroom : s.inFlight < 8) (hturn : b.n = s.getO Obj.REDUCE_NEXT_BALE)
    (hlt : b.n + 1 < 2 ^ 32)
    (hb' : b' = { b with started := true, pair := s.freePair, scale := (s.baleScale o.desc b.n).2.1, lo := 0, hi := b.elems })
    (ho' : o' = { o with phase := .executing, step := s.getO Obj.WINNOW_STEP, bale := some b' }) :
    ∃ v t, s.startsFrom tb p.after id b.n v ∧ exec (.baleStart id ⟨flip, level⟩) s = .next t ∧
      t = (v.baleLaunch id o' b' (tensor o.got.list 0) flip level).judgeBales := by
  have hexec := execBaleStart_begins (flip := flip) (level := level) hop hphase hentry hb hwaits hfilled hbegins hstamp hroom hturn
  have hpassed := State.passedTo_passEntry s tb p (keyBale id)
  generalize (s.passEntry tb p).setCond (keyBale id) none = u at hexec hpassed
  have hu := hpassed.startsAlike
  have hops : u.ops = s.ops := by rw [hpassed.rest]
  have hearly : u.earlyPkts = s.earlyPkts := by rw [hpassed.rest]
  have hstep : u.getO Obj.WINNOW_STEP = s.getO Obj.WINNOW_STEP := (hu.keys _ (by decide)).getO
  have hnumber : u.getO Obj.REDUCE_NEXT_BALE = b.n := (hpassed.keys _ (by decide)).getO.trans hturn.symm
  have huclean : u.allClean := fun c => by
    rw [hpassed.chk]
    exact hclean c
  obtain ⟨v, halike, hnext, htables, hearly', hready, harmed, hstart⟩ :=
    State.baleStart_clean huclean ((hpassed.op? id).trans hop) hb flip level
  refine ⟨v, _, ⟨hu.trans halike, ⟨?_, ?_, hready⟩, hearly'.trans hearly, ?_⟩, ?_, rfl⟩
  · rw [hnext, ← hnumber]
    exact State.getO_incO_same (hnumber ▸ hlt)
  · unfold State.table
    rw [htables]
    exact hpassed.next
  · exact harmed (hunarmed _ (State.mem_ops_of_op hop)) (by rw [hops]; exact hunarmed)
  · rw [hexec, hstart b' (by rw [hb', State.freePair_congr hops, hu.baleScale hclean]), hstep, ho']

theorem State.startsFrom.setOp_unarmed (h : s.startsFrom tb q id m v) (hupd : o.upd = none) :
    ∀ p ∈ (v.setOp id o).ops, p.2.upd = none := fun p hp => by
  rcases SMap.mem_put hp with rfl | hp
  · exact hupd
  · exact h.unarmed p hp

/-- A launch that aborts the bale (R262). -/
theorem State.startsFrom.aborts (h : s.startsFrom tb q id m v) (hupd : o.upd = none) (hn : b.n = m) (cause lev adder stage : Nat)
    (ht : t = ((v.setOp id o).baleAbort id o b cause lev adder stage).judgeBales) :
    t.numberTaken tb q id m ∧ (v.setOp id o).baleAborted id m t ∧ (cause = 1 → s.residueTold m lev adder stage t) := by
  obtain ⟨haborted, hkeys, htold⟩ := State.baleAbort_results (h.setOp_unarmed hupd) id o b cause lev adder stage
  have htaken : (v.setOp id o).numberTaken tb q id m := ⟨h.taken.number, h.taken.next, h.taken.idle⟩
  have hfaults : State.sameKey Obj.REDUCE_RESIDUE_FAULTS.key s (v.setOp id o) :=
    (h.alike.keys _ (by decide)).trans (State.sameKey_of_obj rfl)
  rw [hn] at haborted htold
  generalize (v.setOp id o).baleAbort id o b cause lev adder stage = u at ht haborted hkeys htold
  subst ht
  refine ⟨(htaken.aborted haborted (hkeys _ (by decide) (by decide) (by decide))).judged,
    haborted.later u.onlyHold_judgeBales, fun hcause => ((htold hcause).since hfaults).later fun k hk => ?_⟩
  have hapart : ∀ k ∈ residueKeys, k ∉ Obj.REDUCE_HOLDS.key :: holdKeys := by decide
  exact u.sameKey_judgeBales (hapart k hk)

/-- Without a packet that came early a bale receives none at its start. -/
theorem State.earlyReceived_none (h : ∀ p ∈ s.earlyPkts, p.2.bale ≠ m) (flip level : Nat) : s.earlyReceived m flip level = s := by
  have hnone : (s.earlyPkts.filter fun (p : Nat × RedPacket) => decide (p.2.bale = m)) = [] :=
    List.filter_eq_nil_iff.2 fun p hp => by simpa using h p hp
  have hall : (s.earlyPkts.filter fun (p : Nat × RedPacket) => !decide (p.2.bale = m)) = s.earlyPkts :=
    List.filter_eq_self.2 fun p hp => by simpa using h p hp
  unfold State.earlyReceived
  rw [hnone, hall]
  rfl

/-- The values of the local levels are held, and besides only messages have gone out and roundings have been noted. -/
theorem State.startsFrom.valuesHeld (h : s.startsFrom tb q id m v) (hclean : s.allClean) (hupd : o.upd = none)
    (ht : t = v.valuesHeld id o b x) :
    t.numberTaken tb q id m ∧ t.op? id = some { o with bale := some { b with vals := (s.localTree o b x).map (·.1) } } ∧
      t.earlyPkts = s.earlyPkts ∧ t.linkCfg = s.linkCfg ∧ t.allClean ∧ ∀ p ∈ t.ops, p.2.upd = none := by
  have hvclean : v.allClean := fun c => by
    rw [h.alike.chk]
    exact hclean c
  rw [← h.alike.localTree]
  unfold State.valuesHeld at ht
  generalize v.localTree o b x = xs at ht ⊢
  obtain ⟨hwork, hkeys⟩ := State.recordBale_clean hvclean b.n (xs.foldl (fun w (p : Nat × Work) => w.join p.2) {})
  dsimp only at ht
  generalize v.recordBale b.n _ = y at ht hwork hkeys
  obtain ⟨htables, hops, hready, hearly⟩ := hwork.wire.course.fields
  generalize hz : y.setOp id _ = z at ht
  have hunarmed : ∀ p ∈ z.ops, p.2.upd = none := fun p hp => by
    rw [← hz] at hp
    rcases SMap.mem_put hp with rfl | hp
    · exact hupd
    · exact h.unarmed p (hops ▸ hp)
  have htaken : z.numberTaken tb q id m :=
    h.taken.kept (hz ▸ htables) (hz ▸ hready) ((hkeys _ (by decide)).trans (State.sameKey_of_obj (hz ▸ rfl)))
  have hsent : z.onlyHold t := ht ▸ .ite (.refl z) (z.onlyHold_sendRange ..)
  have hsentKey : State.sameKey Obj.REDUCE_NEXT_BALE.key z t := ht ▸ .ite (.refl z) (z.sameKey_sendRange _ _ _ _ _ (by decide))
  obtain ⟨htables', hops', hready', hearly'⟩ := hsent.wire.course.fields
  refine ⟨htaken.kept htables' hready' hsentKey, (hsent.op? id).trans (hz ▸ State.op_setOp_same ..), ?_, ?_, ?_, ?_⟩
  · exact hearly'.trans ((hz ▸ hearly : z.earlyPkts = v.earlyPkts).trans h.early)
  · exact hsent.wire.linkCfg.trans ((hz ▸ hwork.wire.linkCfg : z.linkCfg = v.linkCfg).trans h.alike.linkCfg)
  · exact hsent.wire.allClean (hz ▸ hwork.wire.allClean hvclean)
  · rw [hops']
    exact hunarmed

end

end Sys2Proof.Machine

namespace Sys2Proof.Machine

/-! ### The launch of a bale (R239, R252, R262) -/

section
variable {s t u v : State} {id tb m flip level : Nat} {q : Place} {o : Op} {b : Bale} {x : TD}

/-- Without its partner's values a bale that starts holds those of its local levels. -/
theorem State.startsFrom.waits (h : s.startsFrom tb q id m v) (hclean : s.allClean) (hupd : o.upd = none) (hn : b.n = m)
    (hearly : ∀ p ∈ s.earlyPkts, p.2.bale ≠ m) (hpath : s.pathLost = false) (hchecks : s.localChecks o b x flip level = false)
    (hlevels : 0 < s.levels) (hgather : b.gather = false) (hlev : b.lev = 0) (hgot : b.got = [])
    (ht : t = (v.baleLaunch id o b x flip level).judgeBales) :
    t.numberTaken tb q id m ∧ t.op? id = some { o with bale := some { b with vals := (s.localTree o b x).map (·.1) } } := by
  obtain ⟨htaken, hop, hkept, hlink, -, -⟩ := h.valuesHeld hclean hupd (x := x) (b := b) rfl
  have hlevels' : (v.valuesHeld id o b x).levels = s.levels := State.levels_congr hlink
  have hwait : ∀ r, Bale.complete { b with vals := (s.localTree o b x).map (·.1) } r (b.lev + 1) = false := fun r => by
    unfold Bale.complete
    dsimp only
    rw [hgot]
    exact decide_eq_false (Nat.succ_ne_zero _).symm
  have hgo := fun k => State.baleGo_waits hop rfl hgather (by rw [hlev, hlevels']; exact hlevels.ne) (hwait _) flip level k
  have hlaunch : v.baleLaunch id o b x flip level = v.valuesHeld id o b x := by
    unfold State.baleLaunch
    rw [h.alike.pathLost, hpath, h.alike.localChecks, hchecks, if_neg Bool.false_ne_true, if_neg Bool.false_ne_true]
    dsimp only
    rw [hgo, hn, State.earlyReceived_none (hkept.symm ▸ hearly)]
  rw [hlaunch] at ht
  rw [ht]
  exact ⟨htaken.judged, ((State.onlyHold_judgeBales _).op? id).trans hop⟩

/-- A device alone ends its bale at once (R239). -/
theorem State.startsFrom.ends (h : s.startsFrom tb q id m v) (hclean : s.allClean) (hphase : o.phase = .executing)
    (hupd : o.upd = none) (hn : b.n = m) (hearly : ∀ p ∈ s.earlyPkts, p.2.bale ≠ m) (hpath : s.pathLost = false)
    (hchecks : s.localChecks o b x flip level = false) (halone : s.levels = 0) (hgather : b.gather = false) (hlev : b.lev = 0)
    (ht : t = (v.baleLaunch id o b x flip level).judgeBales) :
    t.numberTaken tb q id m ∧ ∃ p, t.op? id = some p ∧ p.phase = .executed := by
  obtain ⟨htaken, hop, hkept, hlink, hheld, hunarmed⟩ := h.valuesHeld hclean hupd (x := x) (b := b) rfl
  have hlevels : (v.valuesHeld id o b x).levels = 0 := (State.levels_congr hlink).trans halone
  have hgo := State.baleGo_alone hop hphase rfl hgather hlev hlevels flip level 2
  have hfuel : (v.valuesHeld id o b x).baleFuel = 2 + 2 := by
    unfold State.baleFuel
    rw [hlevels]
  have hlaunch : v.baleLaunch id o b x flip level =
      ((v.valuesHeld id o b x).baleGo id flip level (2 + 2)).earlyReceived m flip level := by
    unfold State.baleLaunch
    rw [h.alike.pathLost, hpath, h.alike.localChecks, hchecks, if_neg Bool.false_ne_true, if_neg Bool.false_ne_true]
    dsimp only
    rw [hfuel, hn]
  rw [hlaunch, hgo] at ht
  generalize v.valuesHeld id o b x = y at ht htaken hop hkept hheld hunarmed
  generalize hb' : ({ b with vals := _, gather := true } : Bale) = b' at ht
  generalize ho' : ({ o with bale := some b' } : Op) = o' at ht
  have hupd' : o'.upd = none := ho' ▸ hupd
  have hunarmed' : ∀ p ∈ (y.setOp id o').ops, p.2.upd = none := fun p hp => by
    rcases SMap.mem_put hp with rfl | hp
    · exact hupd'
    · exact hunarmed p hp
  have hdone := State.baleExecuted_baleEnd (s := y.setOp id o') hheld hunarmed' hupd' id b'
  rw [State.earlyReceived_none (by rw [hdone.early]; exact hkept.symm ▸ hearly)] at ht
  rw [ht]
  have htaken' : (y.setOp id o').numberTaken tb q id m := ⟨htaken.number, htaken.next, htaken.idle⟩
  obtain ⟨p, hp, hexecuted⟩ := hdone.here
  exact ⟨(htaken'.kept hdone.tables hdone.ready (hdone.keys _ (by decide))).judged, p,
    ((State.onlyHold_judgeBales _).op? id).trans hp, hexecuted⟩

/-- A partner without a path, and a stage of the local adder that is disturbed, abort the bale. -/
theorem State.startsFrom.lost (h : s.startsFrom tb q id m v) (hpath : s.pathLost = true) :
    v.baleLaunch id o b x flip level = (v.setOp id o).baleAbort id o b 4 (brLocal o.desc) 0 0 := by
  unfold State.baleLaunch
  rw [h.alike.pathLost, if_pos hpath]

theorem State.startsFrom.struck (h : s.startsFrom tb q id m v) (hpath : s.pathLost = false)
    (hchecks : s.localChecks o b x flip level = true) :
    v.baleLaunch id o b x flip level = (v.setOp id o).baleAbort id o b 1 level (8 + dieOfUnit o.unit) flip := by
  unfold State.baleLaunch
  rw [h.alike.pathLost, hpath, h.alike.localChecks, if_neg Bool.false_ne_true, if_pos hchecks]

end

end Sys2Proof.Machine

namespace Sys2Proof.Machine

/-! ### A bale up to its start (R248, R252, R253) -/

section
variable {s : State} {id tb ep n m elems flip level : Nat} {o : Op} {b : Bale}

/-- What BALE_REDUCE comes to for a bale that passes step 1. -/
theorem baleReduce_readies {g : Got} {q : Nat} {y : Sem} {p : Op}
    (hnext : exec (.baleReduce id) s = .next ((s.stepOne brCheck id o).fillWait id).judgeBales) (hb : o.bale = some b)
    (hhead : s.headFail o = none) (hcheck : brCheck s o = (s, .ok g))
    (hready : ((s.passed id { o with got := g }).fillWait id).readyWith id p q y) :
    ∃ t, exec (.baleReduce id) s = .next t ∧ (t.op? id = some p ∧ id ∈ t.readyQ) ∧ t.sem q = y := by
  rw [State.stepOne_passes hb hhead hcheck] at hnext
  have hlater := hready.later (State.onlyHold_judgeBales _)
  exact ⟨_, hnext, ⟨hlater.here, hlater.ready⟩, hlater.sem⟩

end

/-- Settles O38: BALE_REDUCE takes a bale up to its wait, and BALE_START launches it on clean memory. -/
theorem baleResults : Obligations.BaleResults := by
  refine ⟨?_, ?_⟩
  · intro s id tb ep n o b hop hbale hphase hb hentry hring hstopped hturn d w x f y hcore
    have hnext := execBaleReduce_takes hop hbale hphase hstopped hturn
    have hhead : s.headFail o = s.headerFail d := if_neg hcore
    refine ⟨fun k hk hone => baleReduce_refused hone hb (hhead.trans hk) hnext, ?_⟩
    intro g r hk hcheck hclass hpre hfind hmade ready
    have hreadies := fun p q y => baleReduce_readies (p := p) (q := q) (y := y) hnext hb (hhead.trans hk) hcheck
    refine ⟨fun hen htrigger hcount hst hwaits hle => ?_, fun hen htrigger hcount hst hwaits hle => ?_,
      fun hen htrigger hcount hst hfill hpool => ?_⟩
    · exact hreadies _ _ _ (State.passed_waits (o := { o with got := g }) hb hentry hring hclass hpre hfind hmade hen htrigger
        hcount hst hwaits hle)
    · exact hreadies _ _ _ (State.passed_fills (o := { o with got := g }) hb hentry hring hclass hpre hfind hmade hen htrigger
        hcount hst hwaits hle)
    · have hqueued := State.passed_queues (id := id) (o := { o with got := g }) hb hentry hring hclass hpre hfind hmade hen htrigger
        hcount hst hfill hpool
      have hkept : some { b with fillTaken := b.fillTaken } = o.bale := hb.symm
      refine hreadies _ _ _ ?_
      rw [hkept]
      exact hqueued
  · intro s id tb ep n e m elems flip level w o hop hphase hentry hb hbegins hstamp hchk hunarmed d sc u b o' vals x
    have hclean := State.allClean_of_chk hchk
    have hupd : o.upd = none := hunarmed _ (State.mem_ops_of_op hop)
    refine ⟨fun hroom hnumber hearly hlt => ?_, fun hwait => execBaleStart_idle hop hb hwait⟩
    obtain ⟨o2, ho2⟩ : ∃ o2 : Op, o2 = { o' with bale := some b } := ⟨_, rfl⟩
    obtain ⟨v, t, hstarts, hexec, ht⟩ := baleStart_launches (flip := flip) (level := level) (b' := b) (o' := o2)
      (p := { epoch := ep, entry := n }) hop hphase hentry hb rfl rfl hbegins hstamp hclean hunarmed hroom hnumber hlt rfl ho2
    have hupd2 : o2.upd = none := ho2 ▸ hupd
    have hlocal : s.localChecks o2 b u flip level = s.localChecks o' b u flip level := by
      rw [ho2]
      rfl
    intro begun aborted
    have hbegun : ∀ P : State → Prop, t.numberTaken tb { epoch := ep, entry := n + 1 } id m → P t → begun P :=
      fun P htaken hP => ⟨t, hexec, htaken.number, htaken.next, htaken.idle, hP⟩
    refine ⟨fun hpath hchecks => ⟨fun hlevels => ?_, fun halone => ?_⟩, fun hpath => ?_, fun hpath hchecks => ?_⟩
    · obtain ⟨htaken, hhere⟩ := hstarts.waits (b := b) (x := u) hclean hupd2 rfl hearly hpath (hlocal.trans hchecks) hlevels rfl rfl rfl ht
      refine hbegun _ htaken (hhere.trans ?_)
      rw [ho2]
      rfl
    · obtain ⟨htaken, hhere⟩ := hstarts.ends (b := b) (x := u) hclean (ho2 ▸ rfl) hupd2 rfl hearly hpath (hlocal.trans hchecks) halone rfl rfl ht
      exact hbegun _ htaken hhere
    · rw [hstarts.lost hpath] at ht
      obtain ⟨htaken, haborted, -⟩ := hstarts.aborts (b := b) hupd2 rfl _ _ _ _ ht
      exact hbegun _ htaken ⟨haborted.gone, haborted.bale, haborted.step⟩
    · rw [hstarts.struck hpath (hlocal.trans hchecks)] at ht
      obtain ⟨htaken, haborted, htold⟩ := hstarts.aborts (b := b) hupd2 rfl _ _ _ _ ht
      obtain ⟨hadder, hstage, hbale, hlevel, hcounted⟩ := htold rfl
      rw [ho2] at hadder
      exact hbegun _ htaken ⟨⟨haborted.gone, haborted.bale, haborted.step⟩, hstage, hlevel, hbale, hadder, hcounted⟩

end Sys2Proof.Machine

namespace Sys2Proof.Machine

/-! ### Packets of no bale in flight (R251, R254) -/

section
variable {s t u : State} {id port x flip level : Nat} {o : Op} {b : Bale} {p : RedPacket}

/-- A packet that waits as one message leaves its buffer with it. -/
theorem State.port_takePacket {m : Msg} (hm : m ∈ (s.port port).inbox)
    (honly : ∀ k ∈ (s.port port).inbox, k.bytes.drop 16 = padBlocks (packetBytes p) ↔ k = m) :
    (s.takePacket port p).port port = ({ s.port port with inbox := (s.port port).inbox.erase m } : Port).free 2 m.bytes.length := by
  have hfind : ((s.port port).inbox.find? fun (k : Msg) => decide (k.bytes.drop 16 = padBlocks (packetBytes p))) = some m := by
    cases hfound : (s.port port).inbox.find? fun (k : Msg) => decide (k.bytes.drop 16 = padBlocks (packetBytes p)) with
    | none => exact absurd (decide_eq_true ((honly m hm).2 rfl)) (List.find?_eq_none.1 hfound m hm)
    | some k => rw [(honly k (List.mem_of_find?_eq_some hfound)).1 (of_decide_eq_true (List.find?_some hfound :))]
  unfold State.takePacket
  rw [hfind]
  exact State.port_setPort_same ..

theorem State.sameKey_takePacket {k : Nat} (s : State) (port : Nat) (p : RedPacket) : State.sameKey k s (s.takePacket port p) :=
  State.sameKey_of_obj (congrArg State.obj (s.takePacket_ports port p) :)

/-- A packet of a bale that has ended is counted. -/
theorem State.latePacket_counts (h : s.getO Obj.REDUCE_LATE_PACKETS + 1 < 2 ^ 32) :
    (s.latePacket port p).getO Obj.REDUCE_LATE_PACKETS = s.getO Obj.REDUCE_LATE_PACKETS + 1 ∧
      s.latePacket port p = { s with obj := (s.latePacket port p).obj, ports := (s.latePacket port p).ports } := by
  have hsame : (s.takePacket port p).getO Obj.REDUCE_LATE_PACKETS = s.getO Obj.REDUCE_LATE_PACKETS :=
    (s.sameKey_takePacket port p).getO
  have hset : s.latePacket port p = (s.takePacket port p).setO Obj.REDUCE_LATE_PACKETS (s.getO Obj.REDUCE_LATE_PACKETS + 1) := by
    unfold State.latePacket State.incO
    rw [hsame]
    exact if_pos (h.trans (by decide))
  rw [hset]
  refine ⟨State.getO_setO_same .., ?_⟩
  rw [s.takePacket_ports port p]
  rfl

theorem State.recordsAlike_takePacket (s : State) (port : Nat) (p : RedPacket) : s.recordsAlike (s.takePacket port p) := by
  have hports := s.takePacket_ports port p
  exact ⟨by rw [hports], by rw [hports], by rw [hports], by rw [hports], fun _ _ => s.sameKey_takePacket port p⟩

/-! ### Packets of a bale in flight (R239, R254) -/

theorem State.packetExch_congr (h : t.linkCfg = s.linkCfg) (o : Op) (b : Bale) (p : RedPacket) :
    t.packetExch o b p = s.packetExch o b p := by
  unfold State.packetExch
  rw [State.rank_congr h, State.levels_congr h, State.partner_congr h]

/-- A packet that cannot be used aborts its bale (R242, R254, R262). -/
theorem State.packetIn_aborts (h : p.abort = true ∨ s.packetExch o b p = none ∨ p.bad ≠ []) (id port flip level : Nat) :
    ∃ cause, s.packetIn id o b port p flip level = (s.takePacket port p).baleAbort id o b cause (b.treeLevel o.desc) 0 0 := by
  have hexch := State.packetExch_congr (s.onlyHold_takePacket port p).wire.linkCfg o b p
  unfold State.packetIn
  dsimp only
  rw [hexch]
  by_cases habort : p.abort = true
  · exact ⟨5, if_pos habort⟩
  · rw [if_neg habort]
    cases hx : s.packetExch o b p with
    | none => exact ⟨3, rfl⟩
    | some x =>
      have hbad : p.bad ≠ [] := (h.resolve_left habort).resolve_left fun hnone => by cases hx.symm.trans hnone
      exact ⟨2, if_pos hbad⟩

/-- The bale with what it notes of a packet that its staging area holds (R254). -/
def Bale.held (b : Bale) (x : Nat) (p : RedPacket) : Bale :=
  if x = b.now ∨ p.elems = [] then b else { b with staged := (x, p.first, p.elems.length) :: b.staged }

/-- The packet has left its buffer, and the staging area holds it if it came early. -/
def State.packetStaged (s : State) (b : Bale) (x port : Nat) (p : RedPacket) : State :=
  ((s.takePacket port p).stageIn b x p).1

/-- A packet that the bale expects is kept, and the bale goes on. -/
theorem State.packetIn_keeps (habort : p.abort = false) (hexch : s.packetExch o b p = some x) (hbad : p.bad = [])
    (id port flip level : Nat) {c : Bale} (hc : c = (b.held x p).take x port p) :
    s.packetIn id o b port p flip level =
      ((s.packetStaged b x port p).setOp id { o with bale := some c }).baleGo id flip level (s.packetStaged b x port p).baleFuel := by
  have hheld : ((s.takePacket port p).stageIn b x p).2 = b.held x p := by
    unfold State.stageIn Bale.held
    split_ifs <;> rfl
  unfold State.packetIn State.packetStaged
  dsimp only
  rw [State.packetExch_congr (s.onlyHold_takePacket port p).wire.linkCfg, hexch, habort, hbad, hc, ← hheld]
  rfl

theorem State.packetStaged_rest (s : State) (b : Bale) (x port : Nat) (p : RedPacket) :
    (s.packetStaged b x port p).ops = s.ops ∧ (s.packetStaged b x port p).linkCfg = s.linkCfg ∧
      (s.packetStaged b x port p).obj = s.obj ∧ (s.chk = [] → (s.packetStaged b x port p).chk = []) := by
  have hports := s.takePacket_ports port p
  unfold State.packetStaged State.stageIn
  split_ifs
  · exact ⟨by rw [hports], by rw [hports], by rw [hports], fun h => by rw [hports]; exact h⟩
  · refine ⟨?_, ?_, ?_, fun h => ?_⟩
    · show (s.takePacket port p).ops = s.ops
      rw [hports]
    · show (s.takePacket port p).linkCfg = s.linkCfg
      rw [hports]
    · show (s.takePacket port p).obj = s.obj
      rw [hports]
    · have hchk : (s.takePacket port p).chk = [] := by
        rw [hports]
        exact h
      show (s.takePacket port p).chk.filter _ = []
      rw [hchk, List.filter_nil]

end

/-! ### A level of the reduction (R239, R241, R242) -/

section
variable {s t u : State} {id flip level j : Nat} {o : Op} {b c : Bale}

/-- The bale with the values of its next device level. -/
def Bale.reduced (b : Bale) (o : Op) (seed r : Nat) : Bale :=
  { b with vals := (b.node o seed r (b.lev + 1)).1, lo := (rangeAt r b.elems (b.lev + 1)).1, hi := (rangeAt r b.elems (b.lev + 1)).2,
           lev := b.lev + 1 }

/-- The roundings of a device level are recorded, its values held, and the half not kept at the next level is sent. -/
def State.levelReduced (s : State) (id : Nat) (o : Op) (b c : Bale) (w : Work) : State :=
  let u := (s.recordBale b.n w).setOp id { o with bale := some c }
  if c.lev = s.levels then u
  else u.sendRange o c (c.lev + 1) (giveHalf s.rank (c.lev + 1) c.lo c.hi).1 (giveHalf s.rank (c.lev + 1) c.lo c.hi).2

/-- A complete exchange on clean memory: the next level is reduced unless the adder's check strikes. -/
theorem State.baleGo_reduces (hop : s.op? id = some o) (hphase : o.phase = .executing) (hb : o.bale = some b)
    (hgather : b.gather = false) (hlev : b.lev ≠ s.levels) (hcomplete : b.complete s.rank (b.lev + 1) = true) (hclean : s.allClean)
    (flip level m : Nat) (hc : c = b.reduced o (s.getO Obj.WINNOW_JOB_SEED) s.rank) :
    s.baleGo id flip level (m + 1) =
      if flip ≠ 0 ∧ level = brLocal o.desc + (b.lev + 1) ∧
          b.checksAt (b.hop o (s.getO Obj.WINNOW_JOB_SEED)) s.rank (b.lev + 1) = true then
        s.baleAbort id o b 1 level (SMap.get 0 b.via (b.lev + 1)) flip
      else (s.levelReduced id o b c (b.node o (s.getO Obj.WINNOW_JOB_SEED) s.rank (b.lev + 1)).2).baleGo id flip level m := by
  have hout : s.stageOut b (b.lev + 1) = (s, false) := by
    unfold State.stageOut
    dsimp only
    rw [State.touch_clean s hclean]
    rfl
  rw [State.baleGo]
  simp only [hop, hb, hout]
  rw [if_neg (not_not.2 hphase), if_neg (Bool.eq_false_iff.1 hgather), if_neg hlev, if_pos hcomplete, if_neg Bool.false_ne_true, hc]
  unfold State.levelReduced Bale.reduced
  generalize s.getO Obj.WINNOW_JOB_SEED = seed
  generalize b.node o seed s.rank (b.lev + 1) = y
  generalize rangeAt s.rank b.elems (b.lev + 1) = z
  rfl

end

end Sys2Proof.Machine

namespace Sys2Proof.Machine

/-! ### What a packet brings a bale to (R239, R242, R251, R254) -/

section
variable {s t u : State} {id port x flip level : Nat} {o : Op} {b c : Bale} {p : RedPacket}

theorem State.levelReduced_results (hclean : s.allClean) (id : Nat) (o : Op) (b c : Bale) (w : Work) :
    (s.levelReduced id o b c w).op? id = some { o with bale := some c } ∧ (s.levelReduced id o b c w).linkCfg = s.linkCfg := by
  have hwork := (State.recordBale_clean hclean b.n w).1
  unfold State.levelReduced
  generalize s.recordBale b.n w = y at hwork
  have hlater : ∀ t : State, (y.setOp id { o with bale := some c }).onlyHold t →
      t.op? id = some { o with bale := some c } ∧ t.linkCfg = s.linkCfg := fun t hsent =>
    ⟨(hsent.op? id).trans (State.op_setOp_same ..), hsent.wire.linkCfg.trans hwork.wire.linkCfg⟩
  dsimp only
  split_ifs
  · exact hlater _ (.refl _)
  · exact hlater _ (State.onlyHold_sendRange ..)

theorem State.mem_ops_of_flying {n : Nat} (h : s.flying n = some (id, o, b)) : (id, o) ∈ s.ops := by
  unfold State.flying at h
  obtain ⟨q, hq, hsome⟩ := List.exists_of_findSome?_eq_some h
  split at hsome
  · split_ifs at hsome
    cases hsome
    exact hq
  · cases hsome

/-- A packet that is taken goes to its bale, is late, waits, or is refused. -/
theorem execReductionPacketReceive_taken (hport : port < 8) (hflows : s.flows port = true) (hbad : ∀ i ∈ p.bad, 2 ≤ i) :
    exec (.reductionPacketReceive port p ⟨flip, level⟩) s =
      match s.flying p.bale with
      | some (id, o, b) => .next (s.packetIn id o b port p (if flip ≤ 3 then flip else 0) level)
      | none =>
        if p.bale < s.getO Obj.REDUCE_NEXT_BALE ∨ s.balesAborted.contains p.bale = true then .next (s.latePacket port p)
        else if p.bale = s.getO Obj.REDUCE_NEXT_BALE then .next { s with earlyPkts := s.earlyPkts ++ [(port, p)] }
        else .next ((s.takePacket port p).post { reason := 0x0501, d0 := p.bale, d1 := 3 * 2 ^ 24 }) := by
  have hheader : ¬(p.bad.any fun i => decide (i < 2)) = true := fun h => by
    obtain ⟨i, hi, hlt⟩ := List.any_eq_true.1 h
    exact Nat.not_lt.2 (hbad i hi) (of_decide_eq_true hlt)
  rw [exec_reductionPacketReceive]
  unfold execReductionPacketReceive
  exact (if_neg (Nat.not_le.2 hport)).trans ((if_neg (by rw [hflows]; decide)).trans (if_neg hheader))

theorem execReductionPacketReceive_marked (hport : port < 8) (hflows : s.flows port = true) (hbad : ∃ i ∈ p.bad, i < 2) :
    exec (.reductionPacketReceive port p ⟨flip, level⟩) s = .next (s.takePacket port p) := by
  obtain ⟨i, hi, hlt⟩ := hbad
  rw [exec_reductionPacketReceive]
  unfold execReductionPacketReceive
  rw [if_neg (Nat.not_le.2 hport), if_neg (by rw [hflows]; decide), if_pos (List.any_eq_true.2 ⟨i, hi, decide_eq_true hlt⟩)]

theorem execReductionPacketReceive_idle (hport : port < 8) (hflows : s.flows port = false) :
    exec (.reductionPacketReceive port p ⟨flip, level⟩) s = .next s := by
  rw [exec_reductionPacketReceive]
  unfold execReductionPacketReceive
  rw [if_neg (Nat.not_le.2 hport), if_pos hflows]

/-- A packet that cannot be used ends the operation of its bale. -/
theorem State.packetIn_aborted (h : p.abort = true ∨ s.packetExch o b p = none ∨ p.bad ≠ [])
    (hunarmed : ∀ q ∈ s.ops, q.2.upd = none) (id port flip level : Nat) :
    (s.takePacket port p).baleAborted id b.n (s.packetIn id o b port p flip level) := by
  obtain ⟨cause, hin⟩ := State.packetIn_aborts (s := s) (o := o) (b := b) h id port flip level
  rw [hin]
  exact (State.baleAbort_results ((s.onlyHold_takePacket port p).steady.unarmed hunarmed) id o b cause _ 0 0).1

end

/-! ### A packet that is kept (R239, R241, R254) -/

section
variable {s : State} {id port x flip level : Nat} {o : Op} {b c : Bale} {p : RedPacket}

/-- In the reduce phase a bale can use what the next device level brings. -/
theorem Bale.now_of_reducing (h : b.gather = false) : b.now = b.lev + 1 := if_neg (Bool.eq_false_iff.1 h)

/-- A bale that keeps a packet stays at its level. -/
theorem Bale.take_held (hc : c = (b.held x p).take x port p) : c.gather = b.gather ∧ c.lev = b.lev ∧ c.n = b.n ∧ c.elems = b.elems := by
  rw [hc]
  unfold Bale.held
  split_ifs <;> exact ⟨rfl, rfl, rfl, rfl⟩

variable (habort : p.abort = false) (hexch : s.packetExch o b p = some x) (hbad : p.bad = []) (hgather : b.gather = false)
  (hlev : b.lev < s.levels) (hc : c = (b.held x p).take x port p)
include habort hexch hbad hgather hlev hc

/-- A bale keeps a packet and waits for the rest of the exchange. -/
theorem State.packetIn_waits (hwait : c.complete s.rank (b.lev + 1) = false) :
    (s.packetIn id o b port p flip level).op? id = some { o with bale := some c } := by
  obtain ⟨hcg, hcl, -, -⟩ := Bale.take_held hc
  obtain ⟨-, hlink, -, -⟩ := s.packetStaged_rest b x port p
  rw [State.packetIn_keeps habort hexch hbad id port flip level hc]
  generalize s.packetStaged b x port p = u at hlink
  have hop : (u.setOp id { o with bale := some c }).op? id = some { o with bale := some c } := State.op_setOp_same ..
  have hlevels : (u.setOp id { o with bale := some c }).levels = s.levels := State.levels_congr hlink
  have hrank : (u.setOp id { o with bale := some c }).rank = s.rank := State.rank_congr hlink
  rw [State.baleGo_waits hop rfl (hcg.trans hgather) (by rw [hcl, hlevels]; exact hlev.ne) (by rw [hcl, hrank]; exact hwait)]
  exact hop

variable (hphase : o.phase = .executing) (hchk : s.chk = []) (hcomplete : c.complete s.rank (b.lev + 1) = true)
include hphase hchk hcomplete

/-- A packet that completes an exchange lets the bale reduce the next level, in a state whose bale has kept it. -/
theorem State.packetIn_reduces {seed : Nat} {c' : Bale} (hseed : seed = s.getO Obj.WINNOW_JOB_SEED)
    (hc' : c' = c.reduced o seed s.rank) :
    ∃ u : State, u.ops = SMap.put s.ops id { o with bale := some c } ∧ u.linkCfg = s.linkCfg ∧ u.allClean ∧ ∃ w m,
      s.packetIn id o b port p flip level =
        if flip ≠ 0 ∧ level = brLocal o.desc + (b.lev + 1) ∧ c.checksAt (c.hop o seed) s.rank (b.lev + 1) = true then
          u.baleAbort id { o with bale := some c } c 1 level (SMap.get 0 c.via (b.lev + 1)) flip
        else (u.levelReduced id { o with bale := some c } c c' w).baleGo id flip level m := by
  obtain ⟨hcg, hcl, -, -⟩ := Bale.take_held hc
  obtain ⟨hops, hlink, hobj, hclean⟩ := s.packetStaged_rest b x port p
  rw [State.packetIn_keeps habort hexch hbad id port flip level hc]
  generalize s.packetStaged b x port p = u at hops hlink hobj hclean
  have hrank : (u.setOp id { o with bale := some c }).rank = s.rank := State.rank_congr hlink
  have hlevels : (u.setOp id { o with bale := some c }).levels = s.levels := State.levels_congr hlink
  have hseed' : (u.setOp id { o with bale := some c }).getO Obj.WINNOW_JOB_SEED = seed :=
    (State.sameKey_of_obj hobj).getO.trans hseed.symm
  have hall : (u.setOp id { o with bale := some c }).allClean := State.allClean_of_chk (hclean hchk)
  have hgo := State.baleGo_reduces (State.op_setOp_same u id { o with bale := some c }) hphase rfl (hcg.trans hgather)
    (by rw [hcl, hlevels]; exact hlev.ne) (by rw [hcl, hrank]; exact hcomplete) hall flip level (2 * u.levels + 3)
    (c := c') (by rw [hseed', hrank, hc']; rfl)
  rw [hrank, hseed', hcl] at hgo
  refine ⟨u.setOp id { o with bale := some c }, by rw [← hops]; rfl, hlink, hall, _, _, hgo⟩

/-- The next level is held, and the bale waits for the values of the one after it. -/
theorem State.packetIn_goesOn {seed : Nat} {c' : Bale} (hseed : seed = s.getO Obj.WINNOW_JOB_SEED)
    (hc' : c' = c.reduced o seed s.rank)
    (hunstruck : ¬(flip ≠ 0 ∧ level = brLocal o.desc + (b.lev + 1) ∧ c.checksAt (c.hop o seed) s.rank (b.lev + 1) = true))
    (hmore : b.lev + 1 < s.levels) (hwait : c.complete s.rank (b.lev + 1 + 1) = false) :
    (s.packetIn id o b port p flip level).op? id = some { o with bale := some c' } := by
  obtain ⟨hcg, hcl, -, -⟩ := Bale.take_held hc
  obtain ⟨u, -, hlink, hclean, w, m, hin⟩ := State.packetIn_reduces (id := id) (flip := flip) (level := level) habort hexch hbad
    hgather hlev hc hphase hchk hcomplete hseed hc'
  obtain ⟨hop, hlink'⟩ := State.levelReduced_results hclean id { o with bale := some c } c c' w
  have hkept : c'.gather = false ∧ c'.lev = b.lev + 1 ∧ ∀ r x, c'.complete r x = c.complete r x := by
    rw [hc']
    exact ⟨hcg.trans hgather, congrArg (· + 1) hcl, fun _ _ => rfl⟩
  obtain ⟨hg, hl, hsame⟩ := hkept
  rw [hin, if_neg hunstruck, State.baleGo_waits hop rfl hg
    (by rw [hl, State.levels_congr (hlink'.trans hlink)]; exact hmore.ne)
    (by rw [hl, hsame, State.rank_congr (hlink'.trans hlink)]; exact hwait)]
  exact hop

/-- A disturbed stage that the adder checks aborts the bale with its place (R242). -/
theorem State.packetIn_struck {seed : Nat} (hseed : seed = s.getO Obj.WINNOW_JOB_SEED)
    (hstruck : flip ≠ 0 ∧ level = brLocal o.desc + (b.lev + 1) ∧ c.checksAt (c.hop o seed) s.rank (b.lev + 1) = true)
    (hmem : (id, o) ∈ s.ops) (hunarmed : ∀ q ∈ s.ops, q.2.upd = none) :
    ∃ (u : State) (adder : Nat), u.baleAborted id b.n (s.packetIn id o b port p flip level) ∧
      u.residueTold b.n level adder flip (s.packetIn id o b port p flip level) := by
  obtain ⟨-, -, hn, -⟩ := Bale.take_held hc
  obtain ⟨u, hops, -, -, w, m, hin⟩ := State.packetIn_reduces (id := id) (flip := flip) (level := level) habort hexch hbad
    hgather hlev hc hphase hchk hcomplete hseed rfl
  have hnone : ∀ q ∈ u.ops, q.2.upd = none := fun q hq => by
    rw [hops] at hq
    rcases SMap.mem_put hq with rfl | hq
    · exact hunarmed (id, o) hmem
    · exact hunarmed q hq
  rw [hin, if_pos hstruck, ← hn]
  obtain ⟨haborted, -, htold⟩ := State.baleAbort_results hnone id { o with bale := some c } c 1 level
    (SMap.get 0 c.via (b.lev + 1)) flip
  exact ⟨u, _, haborted, htold rfl⟩

end

/-- Settles O39: each packet that RECEIVE takes is dropped, counted, refused, kept, or ends its bale. -/
theorem reductionPacketResults : Obligations.ReductionPacketResults := by
  intro s port flip level p hport x next
  refine ⟨execReductionPacketReceive_idle hport, fun hflows hmarked => ?_, fun hflows hbad => ?_⟩
  · exact ⟨_, execReductionPacketReceive_marked hport hflows hmarked, s.takePacket_ports port p,
      fun m hm honly => State.port_takePacket hm honly⟩
  · have hexec := execReductionPacketReceive_taken (flip := flip) (level := level) hport hflows hbad
    refine ⟨fun hnone => ?_, fun id o b hflying hphase hb => ?_⟩
    · rw [hnone] at hexec
      dsimp only at hexec
      have hcontains : s.balesAborted.contains p.bale = true ↔ p.bale ∈ s.balesAborted := List.contains_iff_mem
      refine ⟨fun hnext hlive => ?_, fun hlate hlt => ?_, fun hnext hlive hone => ?_⟩
      · rw [if_neg (not_or.2 ⟨hnext.not_lt, mt hcontains.1 hlive⟩), if_pos hnext] at hexec
        exact ⟨_, hexec, rfl⟩
      · rw [if_pos (hlate.imp_right hcontains.2)] at hexec
        exact ⟨_, hexec, State.latePacket_counts hlt⟩
      · rw [if_neg (not_or.2 ⟨hnext.not_gt, mt hcontains.1 hlive⟩), if_neg hnext.ne'] at hexec
        exact ⟨_, hexec, State.posted_post_of_recordsAlike (s.recordsAlike_takePacket port p) hone _⟩
    · rw [hflying] at hexec
      dsimp only at hexec
      intro aborted
      refine ⟨fun huseless hunarmed => ?_, fun y habort hexch hclean hgather hlev => ?_⟩
      · have haborted := State.packetIn_aborted huseless hunarmed id port (if flip ≤ 3 then flip else 0) level
        exact ⟨_, hexec, haborted.gone, haborted.bale, haborted.step⟩
      · intro j held b' r seed struck
        have hheld : b.held y p = held := by
          unfold Bale.held
          rw [Bale.now_of_reducing hgather]
        have hc : b' = (b.held y p).take y port p := by rw [hheld]
        obtain ⟨-, hl, -, helems⟩ := Bale.take_held hc
        have hreduced : ({ b' with vals := (b'.node o seed s.rank j).1, lo := r.1, hi := r.2, lev := j } : Bale) =
            b'.reduced o seed s.rank := by
          unfold Bale.reduced
          rw [hl, helems]
        refine ⟨fun hwait => ⟨_, hexec, State.packetIn_waits habort hexch hclean hgather hlev hc hwait⟩,
          fun hcomplete hchk => ⟨fun hunstruck hmore hwait => ?_, fun hstruck hunarmed => ?_⟩⟩
        · refine ⟨_, hexec, State.packetIn_goesOn habort hexch hclean hgather hlev hc hphase hchk hcomplete rfl hreduced ?_
            hmore hwait⟩
          rintro ⟨hne, hlevel, hchecks⟩
          split_ifs at hne with hle
          · exact hunstruck ⟨hne, hle, hlevel, hchecks⟩
          · exact hne rfl
        · obtain ⟨hne, hle, hlevel, hchecks⟩ := hstruck
          rw [if_pos hle] at hexec
          obtain ⟨u, adder, haborted, htold⟩ := State.packetIn_struck (id := id) habort hexch hclean hgather hlev hc hphase hchk
            hcomplete rfl ⟨hne, hlevel, hchecks⟩ (State.mem_ops_of_flying hflying) hunarmed
          exact ⟨_, hexec, ⟨haborted.gone, haborted.bale, haborted.step⟩, htold.stage, htold.level, htold.bale⟩

end Sys2Proof.Machine
